-- ==== Sys2Proof/Word.lean ====
section
/-! DEFINITION. The words of the machine: bytes, 32-bit and 64-bit register words, and the raw cell that crosses a link. -/

namespace Sys2Proof

/-- One byte of any memory of the device (R13). -/
abbrev Byte := BitVec 8

/-- A 32-bit register or header word (R13). -/
abbrev W32 := BitVec 32

/-- A 64-bit register or header word (R13). -/
abbrev W64 := BitVec 64

/-- The orderable grade of the device (R4, Table 0.1). -/
inductive Grade where
  | t512
  | t448
  deriving DecidableEq, Repr

/-- The two management ports of R17, R282 and R346: host PCIe port and I3C target. -/
inductive MPort where
  | host
  | i3c
  deriving DecidableEq, Repr

/-- A 288-byte cell (R190, R191): the base header as the words of Table 8.1 and the 256 payload bytes,
extension headers first. -/
structure Cell where
  link : W32
  dst : W32
  src : W32
  ctl : W32
  flow : W32
  endTag : W64
  last : W32
  payload : List Byte
  deriving DecidableEq, Repr

end Sys2Proof
end

