-- ==== Sys2Proof/Syntax.lean ====
section
/-! DEFINITION. The commands of the block: one constructor per row of spec/opcode_table.json, with the operands that the
row's event brings from outside (register offsets and values, port numbers, link cells, sensor readings, error injections).
What the device itself already holds (a ring's commands, a core's program, a queue's cells) is no operand. -/

namespace Sys2Proof

/-- Host stores into its own memory that happened since the device last read it (R296: queues with LOC = 0). -/
abbrev HostStores := List (Nat × Byte)

/-- Memory errors met while a row runs (R103, R149, R334): a local address and a direct address with an uncorrectable error, and the
numbers of corrected words. `place` is the quartet position of the core whose memory the local errors are in. -/
structure Ecc where
  badLocal : Option Nat := none
  badHbm : Option Nat := none
  corrLocal : Nat := 0
  corrHbm : Nat := 0
  place : Nat := 0
  deriving DecidableEq, Repr

/-- What the built-in tests of Table 15.6 step 3 find. `columns` lists (physical core, array, failing-column mask);
`deadCores` fail outside their columns (R287); `words` lists (pool class, failing bitmap words) (R158);
`badBanks` counts bad middle banks (R211); `repaired` lists (stack, rows, columns) (Table 14.1). -/
structure Bist where
  columns : List (Nat × Nat × W64) := []
  deadCores : List Nat := []
  stackFail : Nat := 0
  words : List (Nat × Nat) := []
  badBanks : Nat := 0
  repaired : List (Nat × Nat × Nat) := []
  deriving DecidableEq, Repr

/-- Sensor temperatures in degrees Celsius (R365): quadrants 0 to 3, hub, hottest HBM stack. -/
structure Temps where
  q0 : Nat
  q1 : Nat
  q2 : Nat
  q3 : Nat
  hub : Nat
  hbm : Nat
  deriving DecidableEq, Repr

/-- What a vault port's CXL link shows after training (R142, Table 5.16): lanes (0 = no link), 64 GT/s or 32 GT/s,
256-byte flits, capacity in whole 64 KiB tiles. -/
structure VaultLink where
  width : Nat
  rate64 : Bool
  flit256 : Bool
  capTiles : Nat
  deriving DecidableEq, Repr

/-- The causes of a host-port reset (R295, R356). -/
inductive HostReset where
  | flr
  | hotReset
  | perst
  | linkDown
  deriving DecidableEq, Repr

/-- What the receiver of an optical port measured for the slot in which a cell arrived (R168, R187):
the cell lies in an uncorrectable codeword, corrected symbols per lane, uncorrectable codewords. -/
structure RxQuality where
  damaged : Bool := false
  corrected : List (Nat × Nat) := []
  uncorr : Nat := 0
  deriving DecidableEq, Repr

/-- The hardware requesters of the pool manager (Table 6.2, R154). -/
inductive PoolUser where
  | re (i : Nat)
  | router
  | collective
  deriving DecidableEq, Repr

/-- The patterns of a tag reclaim (R157). -/
inductive Reclaim where
  | context (c : Nat)
  | sequence (c slot : Nat)
  | step (layer half : Nat)
  deriving DecidableEq, Repr

/-- A lane direction of an optical port (R176). -/
inductive LaneDir where
  | tx
  | rx
  deriving DecidableEq, Repr

/-- Where a middle bank holds a cell (R199): its place in the queue of an output and VC, or in the transit reserve. -/
inductive BankPlace where
  | queue (out vc pos : Nat)
  | reserve (pos : Nat)
  deriving DecidableEq, Repr

/-- One command or event of the block. `p` is the management port of a register access; rows for registers with instances
carry the instance number. -/
inductive Instr where
  -- register and window access, reset, clocks, heat
  | registerWrite (p : MPort) (off bytes : Nat) (val : W64)
  | bar2Access (write : Bool) (off len : Nat) (data : List Byte) (ecc : Ecc)
  | deviceReset
  | resetCmd (p : MPort) (key : W32)
  | resetRelease (addr0 addr1 : Bool) (bist : Bist)
  | ready (vault0 vault1 : VaultLink)
  | pllLockLoss (domain : Nat)
  | thermHot (t : Temps)
  | thermHotClear (t : Temps)
  | thermtrip (t : Temps)
  | hostPortReset (kind : HostReset)
  -- ring commands, taken up by their engines
  | nop (ring seq : Nat)
  | program (ring seq : Nat) (ecc : Ecc)
  | step (ring seq : Nat) (ecc : Ecc)
  | collective (ring seq : Nat) (ecc : Ecc)
  | clasp (ring seq : Nat)
  | poolAlloc (ring seq : Nat)
  | poolFree (ring seq : Nat)
  | hallmarkFlush (ring seq : Nat)
  | copy (ring seq : Nat) (host : HostStores) (ecc : Ecc)
  -- rings
  | doorbell (p : MPort) (ring : Nat) (tail : W32)
  | commandFetch (ring : Nat) (host : HostStores) (ecc : Ecc)
  | ringEnable (p : MPort) (ring : Nat) (ctrl : W32)
  | ringDisable (p : MPort) (ring : Nat)
  | ringCancel (p : MPort) (ring : Nat) (val : W32)
  | ringPrioWrite (p : MPort) (ring : Nat) (prio : Nat)
  | commandGrant
  | promotion (ring : Nat)
  | completionRecordWrite (ring : Nat)
  -- array instructions and program control
  | denseInstruction (core : Nat) (ecc : Ecc)
  | sparseArrayInstruction (core : Nat) (ecc : Ecc)
  | arrayDrain (core : Nat) (residue : List (Nat × Nat)) (ecc : Ecc)
  | end_ (core : Nat) (ecc : Ecc)
  | clwait (core : Nat) (ecc : Ecc)
  | clwaitTimeout (core : Nat)
  -- vector instructions
  | vcopy (core : Nat) (ecc : Ecc)
  | vadd (core : Nat) (ecc : Ecc)
  | vmul (core : Nat) (ecc : Ecc)
  | vfma (core : Nat) (ecc : Ecc)
  | vaxpy (core : Nat) (ecc : Ecc)
  | vmax (core : Nat) (ecc : Ecc)
  | vmin (core : Nat) (ecc : Ecc)
  | vscale (core : Nat) (ecc : Ecc)
  | vexp (core : Nat) (ecc : Ecc)
  | vrcp (core : Nat) (ecc : Ecc)
  | vrsqrt (core : Nat) (ecc : Ecc)
  | vsilu (core : Nat) (ecc : Ecc)
  | vgelu (core : Nat) (ecc : Ecc)
  | vrsum (core : Nat) (ecc : Ecc)
  | vrmax (core : Nat) (ecc : Ecc)
  | vdot (core : Nat) (ecc : Ecc)
  | vcvt (core : Nat) (ecc : Ecc)
  | vload (core : Nat) (ecc : Ecc)
  | vstore (core : Nat) (ecc : Ecc)
  | vsel (core : Nat) (ecc : Ecc)
  | vkeep (core : Nat) (ecc : Ecc)
  | vhint (core : Nat) (ecc : Ecc)
  | valloc (core : Nat) (ecc : Ecc)
  | vfree (core : Nat) (ecc : Ecc)
  | vatom (core : Nat) (ecc : Ecc)
  | vstoref (core : Nat) (ecc : Ecc)
  | vcount (core : Nat) (ecc : Ecc)
  -- Routing Engines
  | rePlanReady (re : Nat) (ecc : Ecc)
  | countMessageReceive
  | countTimeout (re : Nat)
  | reHalt (p : MPort) (re : Nat) (on : Bool)
  | keothRecordPost (re : Nat)
  | keothResume (p : MPort) (re : Nat) (val : W32) (ecc : Ecc)
  | keothTimeout (re : Nat)
  | dispatchOpen (half : Nat) (ecc : Ecc)
  | returnOpen (half : Nat)
  | orderedCombine (half : Nat) (ecc : Ecc)
  -- tiers and migration
  | stageAdmission
  | vaultTransfer (port : Nat) (ecc : Ecc)
  | vaultFetchComplete (port : Nat) (poison : Bool) (ecc : Ecc)
  | vaultWritebackComplete (port : Nat)
  | vaultLinkDown (port : Nat)
  | hintQueueTake
  | hintMessage
  -- buffer pools
  | poolAllocation (who : PoolUser) (size ctx sub : Nat)
  | hardwareFree (who : PoolUser) (ptr : Nat)
  | tagReclaim (pat : Reclaim)
  | auditPass
  | bitmapRebuild (cls word : Nat) (correctable : Bool)
  -- optical ports
  | linkCellSend (port : Nat)
  | linkCellReceive (port : Nat) (cell : Cell) (q : RxQuality)
  | replayTimeout (port : Nat)
  | retrainRequest (port : Nat) (block : List Byte)
  | lightDetected (port : Nat) (lanes : Nat)
  | lockAchieved (port : Nat) (lanes : Nat)
  | trainingBlock (port : Nat) (block : List Byte) (hubNow : Nat)
  | trainTimeout (port : Nat)
  | lightLost (port : Nat)
  | fecLockLost (port : Nat)
  | clockLost (port : Nat)
  | laneRetired (port : Nat) (dir : LaneDir) (lane : Nat)
  | retrainInterval (port : Nat)
  | portEnable (p : MPort) (port : Nat)
  | portDisable (p : MPort) (port : Nat)
  | sweepWrite (p : MPort) (val : W32)
  -- router
  | routerCellArrive (port slot : Nat)
  | cellInject (port slot : Nat)
  | transitReserveDepart (bank slot : Nat) (corrected : Bool)
  | stage2FifoFill (bank slot : Nat) (corrected : Bool)
  | bankUncorr (bank : Nat) (at_ : BankPlace)
  | mirrorCapture
  -- collectives and Filigree
  | collectiveOpen (ecc : Ecc)
  | collectiveCellReceive (ecc : Ecc)
  | barrierMessage (ecc : Ecc)
  | smallCollectiveMessage (ecc : Ecc)
  | collectiveDeadline (id : Nat)
  | heldMessageExpire
  | filterIdentityExpire
  | replicaInvalidate
  -- memory-semantic traffic
  | memRequest (ecc : Ecc)
  | flaggedStoreApply (src : Nat) (ecc : Ecc)
  | memResponse (ecc : Ecc)
  | memInvalidate
  | memTimeout (core slot : Nat)
  | invalidateTimeout (line : Nat)
  | replicaFetchComplete (home page : Nat)
  | replicaTtlExpire (home page : Nat)
  -- timebase, Clasp, Bezel, wall clock
  | timebaseEnable (p : MPort)
  | beatInEdge (good : Bool) (errPs : Int)
  | beatInLost
  | beatRecord (port : Nat) (atPs : Int)
  | parentLost
  | strokeBoundary
  | bezelSwitch (p : MPort)
  | claspMessage
  | claspTimeout (n : Nat)
  | timeWrite (p : MPort) (val : W64)
  | timeAdj (p : MPort) (val : W32)
  -- Hallmark
  | hallmarkEntryWrite
  | hmDisable (p : MPort)
  -- management commands
  | managementNop
  | mountLoad (vault0 vault1 : VaultLink) (applyFail : Option Nat)
  | mountClear
  | spareSwap
  | slotMove (cluster slot : Nat)
  | swapWaitExpire (cluster slot : Nat)
  | linkRetrain
  | noLight
  -- I3C target
  | i3cPrivateWrite (data : List Byte)
  | i3cPrivateRead
  | enec (events : Byte)
  | disec (events : Byte)
  | rstdaa
  | entdaa (addr : Nat)
  | setdasa (addr : Nat)
  | getpid
  | getbcr
  | getdcr
  | getstatus
  -- contexts
  | contextCreate (p : MPort) (ctx role : Nat) (rt : Bool) (saveBase : Nat)
  | contextDestroy (p : MPort) (ctx : Nat)
  | teardownComplete (ctx : Nat)
  | contextSwitch (core ctx : Nat)
  | suspendedResume (core : Nat)
  -- carats
  | permitGrant
  | permitReturn (req : Nat)
  | rampWindow
  -- Loupe and error log
  | loupeTrigger (p : MPort) (id : Nat)
  | loupeSchedule (p : MPort) (id : Nat) (send : Bool)
  | loupeArm (p : MPort)
  | loupeMessage
  | errorLogWrite
  -- reads, link-up events, test port
  | registerRead (p : MPort) (off bytes : Nat)
  | hostPortLinkUp
  | vaultLinkUp (port : Nat) (link : VaultLink) (wasReset : Bool)
  | vaultRetrainTimeout (port : Nat)
  | trainingPatternSeen (port : Nat)
  | tapInstruction (opcode : Byte)
  deriving DecidableEq, Repr

end Sys2Proof
end

