-- ==== Sys2Proof/Decode.lean ====
section
/-! DEFINITION. Commands as words. The opcode table gives no row any bits (every row's `fields` is empty): commands reach the
block as register accesses, cells and events, never as instruction words, so no word spells one (log entry 2). -/

namespace Sys2Proof

/-- The command that a word of the table's bits spells: none, since no row has bits. -/
def decodeTableWord (_nbits _w : Nat) : Option Instr := none

end Sys2Proof
end

