-- ==== Sys2Proof/Config.lean ====
section
/-! DEFINITION. The values that the specification leaves open: nothing in Lean can evaluate them, so no proof can rest on
one of them. -/

namespace Sys2Proof

/-- The n-th free value of a run: a value that the specification calls undefined or does not state (log entry 3). -/
opaque Config.freeValue : Nat → BitVec 64

/-- A word of an expert's output row, by its number: a function of the row's identity (Mount, layer execution, expert, sender and index) and of
the bytes of the dispatched row (log entry 37). -/
opaque Config.expertWord : List Nat → List (BitVec 8) → Nat → BitVec 64

end Sys2Proof
end

