-- ==== Sys2Proof/Machine/State.lean ====
section
/-! DEFINITION. The state of the device as plain data: every register, memory, queue, counter, mode and pin the
specification gives it, and the queue of waiting commands. Rule numbers R<n> and table numbers are those of spec/. -/

namespace Sys2Proof.Machine

/-- A sparse table: key and value pairs, keys strictly rising, no value equal to what an unlisted key holds. -/
abbrev Tab (α : Type) := List (Nat × α)

/-- A byte memory (Host.Cell pairs) in the same canonical form; an unlisted address reads as zero (log entry 1). -/
abbrev Mem := List Host.Cell

/-- Why the machine stops with a fault. No command of this block stops with one: every fault of the specification tears
down a context or is logged and is a next state. -/
inductive Fault where
  /-- Raised by nobody: kept so that the type has a value; safe. -/
  | unused
  deriving DecidableEq, Repr

/-- Why a command is refused. -/
inductive Refusal where
  /-- Raised by `exec` for a command that has no meaning yet; safe. -/
  | notModelled (mnemonic : String)
  deriving DecidableEq, Repr

/-- A staging or read latch of R17: the register's offset and the 32-bit half it holds. -/
structure Latch where
  off : Nat
  val : W32
  deriving DecidableEq, Repr

/-- What a port answered to the last access (R346): nothing reached the device, a write served, read data, a block of
bytes, an error response (all ones in every byte read), or an I3C NACK (R283). -/
inductive Answer where
  | silent
  | done
  | data (bytes : Nat) (val : W64)
  | block (bytes : List Byte)
  | error (resp bytes : Nat)
  | nack
  deriving DecidableEq, Repr

/-- What each management port has of its own: latches (R17), mailbox arguments (R282), LOUPE_SEL (R343), last answer. -/
structure BusPort where
  stage : Option Latch := none
  latch : Option Latch := none
  args : List W64 := [0, 0, 0, 0]
  loupeSel : Nat := 0
  answer : Answer := .silent
  deriving DecidableEq, Repr

/-- Where the device stands between reset and operation (R356 to R358, R366). -/
inductive Phase where
  | inReset
  | starting
  | running
  | tripped
  deriving DecidableEq, Repr

/-- Device-wide state outside the register file. -/
structure Glb where
  phase : Phase := .running
  /-- Domains that have locked once since reset (R32). -/
  lockedOnce : List Nat := []
  /-- Injection stopped by a device-level clock fault (R30). -/
  stopped : Bool := false
  /-- Clusters whose clock has stopped: the hub cycle of the loss, plus one (R334, R353). -/
  lostAt : Tab Nat := []
  /-- Level of PCIE_PERST# (true = high) and the host link (R295, R356). -/
  perstHigh : Bool := true
  hostLink : Bool := true
  /-- Straps I3C_ADDR1 and I3C_ADDR0, sampled at release (R358). -/
  straps : Nat := 0
  /-- THERMTRIP# driven low (R366); THERM_HOT# follows GLB_THERM.HOT (R365). -/
  thermtripLow : Bool := false
  /-- TAP instruction register and the instruction it acts as (R362); 0xFF is BYPASS. -/
  tapInsn : Byte := 1
  tapActs : Byte := 1
  /-- FAB_RT_SELF and FAB_RT_TORUS written since reset (R278, R279 step 2). -/
  selfWritten : Bool := false
  torusWritten : Bool := false
  /-- EPOCH of the last sweep completed on this device (R183, R289). -/
  sweepDone : Nat := 0
  /-- Hub cycles since reset and the sixths of a nanosecond not yet in TB_TIME (R259). -/
  hubNow : Nat := 0
  timeSixths : Nat := 0
  /-- MSI-X messages sent, oldest first (R308). -/
  msix : List Nat := []
  deriving DecidableEq, Repr

/-- The I3C target (R283, R361). -/
structure I3c where
  dyn : Option Nat := none
  events : Byte := 0
  readPtr : Nat := 0
  protErr : Bool := false
  /-- Mandatory bytes of in-band interrupts raised. -/
  ibi : List Byte := []
  deriving DecidableEq, Repr

/-- A completion record of Table 12.6. -/
structure Record where
  tag : Nat
  seq : Nat
  status : Nat
  kind : Nat
  cancelLate : Bool
  empty : Bool
  result0 : W64
  result1 : W64
  stroke : W64
  deriving DecidableEq, Repr

/-- What a ring holds beside its registers: fetched commands not yet granted (oldest first), completions among the 512
most recent sequence numbers (R300; true = OK), the holding buffer of R310, starvation count and promotion (R305), the
buckets of R315 in 1/75 byte, and the capture count of Table 12.8. -/
structure Ring where
  fetched : List (Nat × List Byte) := []
  ended : List (Nat × Bool) := []
  hold : List Record := []
  starve : Nat := 0
  promoted : Bool := false
  committed : Nat := 0
  peak : Nat := 0
  captures : Nat := 0
  /-- Commands cancelled while still in the SQ (R307). -/
  cancelled : List Nat := []
  deriving DecidableEq, Repr

/-- A granted command that has not completed (R298, R308). `occ` is its Hallmark occurrence (R373). -/
structure Job where
  ring : Nat
  seq : Nat
  ctx : Nat
  cmd : List Byte
  started : Bool := false
  cancelLate : Bool := false
  occ : Option Nat := none
  /-- The record of a STEP whose halves are complete and whose Hallmark entry is awaited (Table 12.3). -/
  awaits : Option Record := none
  deriving DecidableEq, Repr

/-- The four states of Table 13.1. -/
inductive CtxMode where
  | free
  | live
  | tearing
  | dead
  deriving DecidableEq, Repr

/-- Bytes that one HM instruction added to a core's stream (R264 part 1). -/
structure HmPart where
  lcore : Nat
  ordinal : Nat
  order : Nat
  bytes : List Byte
  deriving DecidableEq, Repr

/-- A combined output row attributed to a core (R264 part 2). -/
structure HmRow where
  lcore : Nat
  half : Nat
  token : Nat
  bytes : List Byte
  deriving DecidableEq, Repr

/-- A Hallmark occurrence of R373. -/
structure Occurrence where
  id : Nat
  hlayer : Nat
  occ : Nat
  enabled : Bool
  closed : Bool := false
  step : Option Nat := none
  jobs : List (Nat × Nat) := []
  parts : List HmPart := []
  rows : List HmRow := []
  deriving DecidableEq, Repr

/-- A HALLMARK_FLUSH that waits for occurrences (R266): its job and the occurrences it waits for, and the last SEQ. -/
structure Flush where
  ring : Nat
  seq : Nat
  ctx : Nat
  waits : List Nat
  last : Option Nat := none
  deriving DecidableEq, Repr

/-- One context (R319 to R331). -/
structure Ctx where
  mode : CtxMode := .free
  rt : Bool := false
  role : Nat := 0
  saveBase : Nat := 0
  runnable : Bool := false
  /-- A Bezel yield stopped its commands; the next start lets them issue (R257). -/
  yielded : Bool := false
  cause : Nat := 0
  /-- Destroyed: becomes FREE, not DEAD, at the end of teardown (R320). -/
  destroyed : Bool := false
  /-- The hub cycle in which its teardown began (R327). -/
  tornAt : Option Nat := none
  stepSeq : Nat := 0
  /-- Bezel reservation and what is left of it (R331). -/
  resv : Nat := 0
  resLeft : Nat := 0
  /-- Fence of R257: the (ring, seq) commands that must complete first. -/
  fence : List (Nat × Nat) := []
  /-- The stage begun last; the stages that hold pins, with their tiles; the tiles pinned by demands (R133, R135). -/
  stage : Option Nat := none
  stagePins : List (Nat × List Nat) := []
  /-- Stages admitted whose first command has not been granted yet (R133). -/
  admitted : List Nat := []
  demandPins : List Nat := []
  /-- Logical cores for which the save area holds state (R323), and those whose restore its start entry has begun (R325). -/
  saved : List Nat := []
  restoring : List Nat := []
  /-- Held block count per key-value slot (R155). -/
  kvHeld : Tab Nat := []
  /-- Hallmark occurrences not yet settled, and the next OCC per HLAYER (R265, R373). -/
  occs : List Occurrence := []
  occNext : Tab Nat := []
  deriving DecidableEq, Repr

/-- The two issue slots (R71). -/
inductive Slot where
  | m
  | v
  deriving DecidableEq, Repr

/-- Why an issued instruction is incomplete: an array instruction before its drain, an access that waits for tiles
(R129), one that waits for remote responses or for invalidations (R231, R233), a CLWAIT since a stroke (R254). -/
inductive Pend where
  | array (sparse : Bool)
  | tiles (ts : List Nat)
  | remote
  | clasp (n since : Nat)
  deriving DecidableEq, Repr

/-- An issued, incomplete instruction: the scoreboard entry of R72. `order` is its place in program order. -/
structure Issued where
  slot : Slot
  pc : Nat
  order : Nat
  insn : List Byte
  reads : List (Nat × Nat)
  writes : List (Nat × Nat)
  devReads : List (Nat × Nat) := []
  devWrites : List (Nat × Nat) := []
  pend : Pend
  deriving DecidableEq, Repr

/-- A program on a core (R70, R302): position, origin and Hallmark tags. The slots go through it apart (R71, R72): every instruction of
slot V before `pc` has issued, and every one of slot M before `pcM`. `first` is the order of its first instruction. -/
structure Prog where
  ring : Nat
  seq : Nat
  ctx : Nat
  pc : Nat
  pcM : Nat
  progLocal : Nat
  progAddr : Nat
  hlayer : Nat
  ordinal : Nat
  occ : Option Nat
  assay : Bool
  /-- Declared width of the Assay group (R112). -/
  assayWidth : Nat
  first : Nat := 0
  /-- All cores the program instance runs on here: this core, and the followers of its gang (R78). -/
  gang : List Nat
  score : List Issued := []
  /-- Being pre-empted: the core issues nothing further until its switch (R323, R325). -/
  quiesce : Bool := false
  deriving DecidableEq, Repr

/-- A physical core (R69 to R120, R322). -/
structure Core where
  /-- Cluster-relative logical slot that it serves under the loaded Mount (R22). -/
  slot : Option Nat := none
  assayOnly : Bool := false
  owner : Option Nat := none
  /-- The context for which the core is being quiesced (R323, R327). -/
  incoming : Option Nat := none
  prog : Option Prog := none
  /-- Pre-empted programs, first suspended first (R325, R326). -/
  suspended : List Prog := []
  m : Nat := 0
  keep : BitVec 256 := BitVec.allOnes 256
  /-- Issue slots used by issues that no core cycle has been counted for yet (R337, log entry 7). -/
  owed : Nat := 0
  deriving DecidableEq, Repr

/-- What a context's save area record holds for a logical core (R322): CORE_M and CORE_KEEP; the program's position and its CLWAIT
stand in `Core.suspended`. -/
structure CoreRecord where
  ctx : Nat
  lcore : Nat
  m : Nat
  keep : BitVec 256
  deriving DecidableEq, Repr

/-- A choice of a token after capacity (R45 to R47). -/
structure Choice where
  token : Nat
  rank : Nat
  expert : Nat
  weight : W32
  deriving DecidableEq, Repr

/-- A row of a plan: the activation row that it gathers and the pair it is for (Table 2.4). -/
structure PlanRow where
  gather : Nat
  pair : Choice
  deriving DecidableEq, Repr

/-- A segment of a Routing Engine's plan (R49, R50): destination and its rows in order. -/
structure Segment where
  peer : Nat
  rows : List PlanRow
  deriving DecidableEq, Repr

/-- One Routing Engine's work on one half. -/
structure ReHalf where
  planned : Bool := false
  segs : List Segment := []
  choices : List Choice := []
  /-- Plan address and every pool buffer of the plan (R50). -/
  planAddr : Nat := 0
  bufs : List Nat := []
  /-- Keoth-step mode (R61): waiting for the host, record posted. -/
  waitHost : Bool := false
  posted : Bool := false
  /-- The ranks of every token scored, as (expert, weight), before the capacity pass (R45, R46). -/
  ranked : List (Nat × List (Nat × Nat)) := []
  pairsAddr : Nat := 0
  deriving DecidableEq, Repr

/-- One half of a layer execution. -/
structure Half where
  res : List ReHalf := [{}, {}, {}, {}]
  /-- The count exchange is over: every message is in, and the receive maps of the engines that take part in it are written (R52, R53). -/
  exchanged : Bool := false
  /-- All counts in, receive maps and shape words written (R53): rows by sender and local slot. -/
  mapped : Bool := false
  counts : List (List Nat) := []
  /-- Local slots for which a program has started (R223). -/
  started : List Nat := []
  dispatched : Bool := false
  returned : Bool := false
  /-- Both all-to-alls ended OK. -/
  dispatchOk : Bool := false
  returnOk : Bool := false
  done : Bool := false
  deriving DecidableEq, Repr

/-- A mixture-of-experts layer execution (R33 to R60). -/
structure Layer where
  ctx : Nat
  ring : Nat
  seq : Nat
  occ : Option Nat
  desc : List Byte
  stepSeq : Nat
  tokens : Nat
  /-- RE_CTRL.KEOTH_STEP of the four instances, latched at the start (R61). -/
  keoth : List Bool
  /-- RE_SHAPE_BASE of the four instances, latched at the start (R67). -/
  shapeBase : List Nat
  /-- The directory copy (R41), 32 bytes an entry. -/
  dir : List (List Byte)
  /-- Descriptor and directory that each instance read at its own bases (R36, R41, R67). `desc` and `dir` are those of instance 0, and
  hold for the parts of the layer that the instances share. -/
  own : List (List Byte × List (List Byte)) := []
  half : Nat := 0
  a : Half := {}
  b : Half := {}
  /-- Local experts handed to the migration engine (R135). -/
  demanded : List Nat := []
  /-- Batch change outcome (R141): joins admitted, refused, slots joined and slots leaving. -/
  admitted : Nat := 0
  refused : Nat := 0
  joined : List (Nat × Nat) := []
  leaving : List Nat := []
  deriving DecidableEq, Repr

/-- A count message entered in the count table (R52, R55). -/
structure CountRow where
  seq : Nat
  layer : Nat
  half : Nat
  src : Nat
  first : Nat
  counts : List Nat
  deriving DecidableEq, Repr

/-- The Routing Engines' shared state; registers are in the register file. -/
structure Routing where
  layer : Option Layer := none
  counts : List CountRow := []
  /-- Last STEP_SEQ executed or abandoned (R55). -/
  lastSeq : Option Nat := none
  deriving DecidableEq, Repr

/-- A tile transfer queued or running on a vault port (R130, R136). -/
structure Xfer where
  tile : Nat
  cls : Nat
  writeback : Bool
  stream : Bool
  predicted : Bool
  /-- Lookahead of R133: only into a free frame. -/
  ahead : Bool
  deriving DecidableEq, Repr

/-- A vault port (R142, R143). -/
structure VaultPort where
  queue : List Xfer := []
  running : Option Xfer := none
  /-- Port held a Type-3 device when the Mount was loaded (R125). -/
  counted : Bool := false
  retraining : Bool := false
  deriving DecidableEq, Repr

/-- How a part of an engine's access stands (R129 to R131): it waits, it has been served, or its fetch ended with a fault code. -/
inductive WaitState where
  | waiting
  | served
  | bad (code : Nat)
  deriving DecidableEq, Repr

/-- A part of an access of an engine, of BAR2 or of a home that lies in one tile or in the direct part and cannot be served at once
(R127, R129, R233): the context it is made for (none for another device's request and for the device's own tables, 64 for BAR2), its
range, and, for a store, its bytes. `first` marks the first part of an access that waits. -/
structure WaitPart where
  ctx : Option Nat
  addr : Nat
  len : Nat
  store : Option (List Byte) := none
  first : Bool := false
  st : WaitState := .waiting
  deriving DecidableEq, Repr

/-- A command whose engine waits for parts of its accesses (log entry 21): it acts when none of them waits any more. Stores into the
device's own tables wait without a command. -/
structure Stall where
  cmd : Option Instr
  parts : List WaitPart
  deriving DecidableEq, Repr

/-- What the engine that acts within a command knows of its accesses: the parts served before, those that it finds missing, and the
direct address at which this command meets an uncorrectable word. Between commands all three are empty (log entry 21). -/
structure EngineNow where
  parts : List WaitPart := []
  need : List WaitPart := []
  bad : Option Nat := none
  deriving DecidableEq, Repr

/-- The migration engine beside its registers and directory (R128 to R141). -/
structure Mig where
  ports : List VaultPort := [{}, {}]
  /-- Frame number to tile number plus one, for frames in use. -/
  frames : Tab Nat := []
  streamHand : Nat := 0
  cacheHand : Nat := 0
  hints : List (Nat × Nat) := []
  /-- Requested stage admissions in order: (context, stage). -/
  stageReqs : List (Nat × Nat) := []
  /-- Tiles fetched ahead, oldest first: (stage distance, tile). -/
  ahead : List (Nat × Nat) := []
  /-- Tiles brought by a prediction and not yet demanded. -/
  predicted : List Nat := []
  /-- Commands and stores that wait for tiles or for sharers, oldest first (R129, R233). -/
  stalls : List Stall := []
  /-- The accesses of the command that acts. -/
  now : EngineNow := {}
  /-- Tiles whose Vault copy holds poison written for an uncorrectable frame line (R131). -/
  poisoned : List Nat := []
  deriving DecidableEq, Repr

/-- A size class of the pool manager (R150 to R158). -/
structure PoolClass where
  /-- Bitmap word number to its 64 bits (1 = allocated). -/
  words : Tab W64 := []
  /-- Quarantined words. -/
  bad : List Nat := []
  spares : Nat := 8
  /-- Words lost to quarantine since reset; a Mount load renumbers the words around them. -/
  lost : Nat := 0
  /-- Correctable errors of its words, corrected and counted (R158); no register of Table 6.9 shows the count. -/
  corr : Nat := 0
  deriving DecidableEq, Repr

/-- The pool manager beside its registers. -/
structure Pool where
  classes : List PoolClass := [{}, {}, {}, {}, {}, {}, {}, {}]
  /-- Answer to the last hardware request (R154): pointer, 0 if refused. -/
  reply : Nat := 0
  /-- Pointers freed by a reclaim and not yet allocated again (R157, stale hardware frees). -/
  reclaimed : List Nat := []
  deriving DecidableEq, Repr

/-- The port states of Table 7.3. -/
inductive PortState where
  | disabled
  | dark
  | wake
  | lock
  | exchange
  | quarantine
  | active
  | retrain
  | failed
  deriving DecidableEq, Repr

/-- A cell in the router or in a retry buffer with the port it came in by, and whether this router has copied it (R208). -/
structure QCell where
  cell : Cell
  inPort : Nat
  copied : Bool := false
  deriving DecidableEq, Repr

/-- An optical port (R164 to R189, R206, R245). -/
structure OptPort where
  st : PortState := .disabled
  version : Nat := 0
  width : Nat := 0
  fec : Bool := false
  light : Bool := false
  lastEvent : Nat := 0
  txActive : Nat := 0
  rxActive : Nat := 0
  txRetired : Nat := 0
  rxRetired : Nat := 0
  rxLocked : Nat := 0
  /-- Sender: next LSEQ, retry buffer (oldest first), cells still to replay, last replay start and its repeats. -/
  nextSeq : Nat := 0
  retry : List (Nat × QCell) := []
  replay : List (Nat × QCell) := []
  replayFrom : Option Nat := none
  repeats : Nat := 0
  lastAckIn : Option Nat := none
  /-- Receiver: next LSEQ expected, last accepted, open episode, NAK due, peer seen in ACTIVE. -/
  expect : Nat := 0
  accepted : Option Nat := none
  episode : Bool := false
  nakDue : Bool := false
  peerSeen : Bool := false
  /-- Cells accepted for the router. -/
  rx : List QCell := []
  /-- PLACE of the last EXCHANGE peer (R183), KNOWN of the present training, E0 of QUARANTINE. -/
  peerPlace : Option Nat := none
  known : Bool := false
  e0 : Nat := 0
  /-- The follower of a training shows the leader's final block until the leader has left EXCHANGE (R175). -/
  decided : Option (List Byte) := none
  /-- REQ of a retrain under way, whether this end asked, whether both asked (R178, R179). -/
  req : Nat := 0
  asked : Bool := false
  /-- Failure that only a management retrain lifts (R181). -/
  sticky : Bool := false
  /-- In RETRAIN or its LOCK and EXCHANGE: the retry buffer is held (R178). -/
  retraining : Bool := false
  /-- Training-block timing: last STAMP of the peer and its arrival (R174). -/
  peerStamp : Nat := 0
  peerStampAt : Nat := 0
  /-- Non-replay slots since ACTIVE (R206) and cells since the beat mark (R245). -/
  slots : Nat := 0
  markPos : Option Nat := none
  /-- Beat record bits received since the last mark, least significant first, in groups of three. -/
  beatIn : List Nat := []
  /-- The last complete record and the cell last sent. -/
  record : Option (BitVec 128) := none
  sent : Option Cell := none
  /-- The beat record being sent with the cells of this stroke (R245). -/
  beatOut : Nat := 0
  deriving DecidableEq, Repr

/-- A middle bank (R199): queues keyed by 4 × output + VC, the transit reserve, and the cells that failing banks of its number still
hold (R211). -/
structure Bank where
  queues : Tab (List QCell) := []
  reserve : List QCell := []
  draining : Tab (List QCell) := []
  drainReserve : List QCell := []
  deriving DecidableEq, Repr

/-- A cell offered for injection and the ring that pays for it (R314, R316); `coll` is the collective it belongs to. -/
structure Offer where
  cell : Cell
  ring : Option Nat
  coll : Option Nat
  deriving DecidableEq, Repr

/-- The router (R190 to R214). -/
structure Router where
  banks : Tab Bank := []
  vc0 : Tab (List QCell) := []
  bulk : Tab (List QCell) := []
  /-- Deficit counters of VC1 to VC3 and the VC whose turn it is, per output (R207). -/
  deficit : Tab (List Nat) := []
  turn : Tab Nat := []
  offers : Tab (List Offer) := []
  /-- The ring served last by an injecting port in a class and level (R316): keyed by 16 × port, plus 8 for yellow, plus level. -/
  offerLast : Tab Nat := []
  /-- Delivered cells, oldest first: collective engine, memory unit, requester quadrants, analysis endpoint. -/
  collIn : List Cell := []
  memIn : List Cell := []
  respIn : List Cell := []
  mirrorIn : List Cell := []
  deriving DecidableEq, Repr

/-- A Filigree message (R226), sent or received. -/
structure FilMsg where
  typ : Nat
  src : Nat
  key : Nat
  sub : Nat
  stamp : Nat
  data : List Byte
  dst : W32 := 0
  /-- Hub cycle in which it was received: its age is measured from there while the timebase is off (R227). -/
  heard : Nat := 0
  deriving DecidableEq, Repr

/-- The Filigree controller (R226 to R229): send queue, received messages, the messages whose identities the duplicate filter keeps,
held round messages. -/
structure Fil where
  tx : List FilMsg := []
  rx : List FilMsg := []
  filter : List FilMsg := []
  held : List FilMsg := []
  deriving DecidableEq, Repr

/-- An expected stream of a collective (R221, R238): level, sender, shard, its header (R51) if it has one, where the bytes after it land
in order as (address, length), and the cells received. -/
structure Stream where
  level : Nat
  src : Nat
  shard : Nat
  head : List Byte := []
  spans : List (Nat × Nat)
  got : List Nat := []
  deriving DecidableEq, Repr

/-- A barrier of R228: axis round 0 to 2 (3 = finished), combined OK and STATUS, and the statuses received. -/
structure Barrier where
  axis : Nat := 0
  ok : Bool := true
  status : Nat := 0
  got : List (Nat × Nat × Bool × Nat) := []
  deriving DecidableEq, Repr

/-- The phases of a collective (R224). -/
inductive CollPhase where
  | waiting
  | opening
  | data
  | closing
  deriving DecidableEq, Repr

/-- A collective on this device (R215 to R240). `re` is (half, direction) for a Routing Engine all-to-all. -/
structure Coll where
  id : Nat
  ctx : Nat
  ring : Nat
  seq : Nat
  re : Option (Nat × Nat) := none
  desc : List Byte := []
  phase : CollPhase := .waiting
  /-- First failure found here (a code of Table 9.13), a failure seen elsewhere, another MOUNT_FMT seen. -/
  own : Nat := 0
  aborted : Bool := false
  version : Bool := false
  lost : Bool := false
  streams : List Stream := []
  /-- Levels of Table 9.4 already summed here: (level, shard, wide values). -/
  partials : List (Nat × Nat × List Nat) := []
  written : Bool := false
  bufs : List Nat := []
  open_ : Barrier := {}
  close : Barrier := {}
  /-- Small-collective rounds (R229): axis and (axis, part, source, data) received. -/
  small : Bool := false
  /-- It has ended here and only its close vote runs on (R224, R239). -/
  reported : Bool := false
  /-- Its FAIL vote of the first close round went out before the close vote was reached (R225). -/
  early : Bool := false
  smallAxis : Nat := 0
  smallGot : List (Nat × Nat × Nat × List Byte) := []
  deriving DecidableEq, Repr

/-- An outstanding remote request of a requester (R232): its core (576 for a replica fetch of the hub), request slot, whether it
has been sent, and whether its cell has been injected (R234). -/
structure RemoteReq where
  core : Nat
  slot : Nat
  ctx : Nat
  home : Nat
  seq : Nat
  mop : Nat
  aop : Nat
  off : Nat
  len : Nat
  /-- Local address the answer goes to, and the issue order of its instruction. -/
  local_ : Nat
  order : Nat
  /-- Device address of its instruction. -/
  pc : Nat := 0
  data : List Byte
  sent : Bool := false
  injected : Bool := false
  deriving DecidableEq, Repr

/-- A request at its home: source, SEQ, operation, offset, length, data and the header words to answer with. -/
structure HomeReq where
  src : Nat
  seq : Nat
  mop : Nat
  aop : Nat
  off : Nat
  len : Nat
  data : List Byte
  srcPlace : W32
  endTag : W64
  deriving DecidableEq, Repr

/-- What the home keeps per source (R232, R235): NEXT, the applied SEQ values at or above it, flagged stores waiting. -/
structure HomeSrc where
  next : Nat := 0
  applied : List Nat := []
  flagged : List HomeReq := []
  deriving DecidableEq, Repr

/-- What waits at the home for the sharers of a line to answer (R233): a remote request, or bytes of a local write with the core and
issue order of its instruction. One without either stands for a store of an engine, whose bytes wait in `Mig.stalls`. -/
structure LineWait where
  line : Nat
  sharers : List Nat
  req : Option HomeReq
  local_ : List (Nat × Byte)
  owner : Option (Nat × Nat) := none
  deriving DecidableEq, Repr

/-- A replica page (R236). -/
structure Replica where
  home : Nat
  page : Nat
  epoch : Nat
  frame : Nat
  born : Nat
  complete : Bool := false
  dropped : Bool := false
  deriving DecidableEq, Repr

/-- The memory-semantic unit (R230 to R237). -/
structure Remote where
  nextSeq : Tab Nat := []
  reqs : List RemoteReq := []
  homes : Tab HomeSrc := []
  /-- Remote line cache, oldest first: (home, line offset, bytes). -/
  lines : List (Nat × Nat × List Byte) := []
  /-- Sharer directory, oldest first: (line offset, sharers). -/
  sharers : List (Nat × List Nat) := []
  waits : List LineWait := []
  epochs : Tab Nat := []
  replicas : List Replica := []
  deriving DecidableEq, Repr

/-- An open Clasp (R251 to R253). -/
structure Clasp where
  n : Nat
  ring : Nat
  seq : Nat
  ctx : Nat
  arrived : Nat
  timeout : Nat
  proposal : Nat
  ok : Bool := true
  axis : Nat := 0
  got : List (Nat × Nat × Bool × Nat) := []
  release : Option Nat := none
  deriving DecidableEq, Repr

/-- The timebase beside its registers (R244 to R270). -/
structure Timebase where
  clasps : List Clasp := []
  /-- Arrivals that wait for one of the 16 places: (n, lead, timeout, ring, seq, ctx). -/
  claspQueue : List (Nat × Nat × Nat × Nat × Nat × Nat) := []
  /-- The last 16 closed Clasps, newest first: (n, status) with 0 ON_TIME, 1 LATE, 2 FAIL. -/
  claspClosed : List (Nat × Nat) := []
  /-- Slew of TB_TIME still outstanding, in nanoseconds (R259). -/
  slew : Int := 0
  slewClock : Nat := 0
  /-- Consecutive good and bad BEAT_IN edges (R244, R355). -/
  goodEdges : Nat := 0
  badEdges : Nat := 0
  /-- Beat phase of this device against the reference it follows, in picoseconds (R248). -/
  phasePs : Int := 0
  /-- A step due at the next boundary: the stroke to take (R248). -/
  stepTo : Option Nat := none
  /-- A follower's first alignment is still to come (R247). -/
  first : Bool := true
  /-- Highest stroke whose scheduled events have fired (R248: none fires twice). -/
  fired : Nat := 0
  /-- The last valid record by port, in this stroke and in the last one (R247). -/
  heard : List (Nat × BitVec 128) := []
  heardLast : List (Nat × BitVec 128) := []
  /-- Hallmark: SEQ of the next entry, due occurrences in order (context, occurrence, waited), flushes. -/
  hmSeq : Nat := 0
  hmDue : List (Nat × Nat) := []
  flushes : List Flush := []
  /-- Next occurrence identity. -/
  occId : Nat := 0
  deriving DecidableEq, Repr

/-- The management command that runs (R282), with the arguments of its port. -/
structure MgmtRun where
  op : Nat
  target : Nat
  port : MPort
  args : List W64
  /-- LINK_RETRAIN: its own retrain has begun (R179, R290). -/
  begun : Bool := false
  deriving DecidableEq, Repr

/-- A core group entry (Table 11.4). -/
structure Group where
  first : Nat
  count : Nat
  assayWidth : Nat
  fbFirst : Nat
  fbCount : Nat
  deriving DecidableEq, Repr

/-- The loaded Mount as the device keeps it (R275, R279, R292). -/
structure Mount where
  lc : Nat
  width : Nat
  fmt : Nat
  gangs : List Nat
  groups : List Group
  assay : List Group
  deriving DecidableEq, Repr

/-- The management controller (R282 to R293). -/
structure Mgmt where
  run : Option MgmtRun := none
  mount : Option Mount := none
  /-- Cores that failed their built-in test (R287). -/
  dead : List Nat := []
  /-- Slot moves still to do: (cluster, slot, new physical core). -/
  moves : List (Nat × Nat × Nat) := []
  notIdle : Bool := false
  deriving DecidableEq, Repr

/-- A waiting carat request (R328, R329). -/
structure CaratReq where
  req : Nat
  stamp : Nat
  carats : Nat
  ctx : Option Nat
  deriving DecidableEq, Repr

/-- The permit arbiter (R328 to R331): carats held per requester, the part held from a reservation as
(requester, context, carats), waiting requests, carats left in the window. -/
structure Power where
  held : Tab Nat := []
  fromRes : List (Nat × Nat × Nat) := []
  waiting : List CaratReq := []
  rampLeft : Nat := 200
  /-- The ramp stopped a scan in this window, and in the last one. -/
  rampHit : Bool := false
  rampLast : Bool := false
  deriving DecidableEq, Repr

/-- An error log entry before it takes its SEQ (Table 14.6). -/
structure LogEntry where
  code : Nat
  ctx : Option Nat := none
  port : Nat := 0
  domain : Nat := 0
  unit : Nat := 0
  addr : Nat := 0
  kind : Nat := 0
  resp : Nat := 0
  stroke : W64 := 0
  time : W64 := 0
  /-- Hub cycle of the detection (R345). -/
  cycle : Nat := 0
  deriving DecidableEq, Repr

/-- Error log and Loupe (R340 to R347): entries waiting at their blocks in the order in which they will be offered, staging FIFO, slots,
Loupe status. `latchedAt` is the hub cycle of the last latch. -/
structure Obs where
  waiting : List LogEntry := []
  latchedAt : Option Nat := none
  fifo : List LogEntry := []
  slots : Tab (Nat × LogEntry) := []
  armed : Bool := true
  held : Bool := false
  /-- A stroke-scheduled snapshot: (stroke, source, ID). -/
  pending : Option (Nat × Nat × Nat) := none
  late : Bool := false
  source : Nat := 0
  errCode : Nat := 0
  id : Nat := 0
  /-- ID last written to LOUPE_CMD, carried by an error broadcast (R342). -/
  cmdId : Nat := 0
  deriving DecidableEq, Repr

/-- Every block of the device. -/
structure Blocks where
  grade : Grade := .t512
  /-- Register file: BAR0 offset to value; unlisted registers hold their reset value (log entry 4). -/
  regs : Tab W64 := []
  hostPort : BusPort := {}
  i3cPort : BusPort := {}
  glb : Glb := {}
  i3c : I3c := {}
  hbm : Mem := []
  vault : Mem := []
  loc : Mem := []
  hostMem : Mem := []
  rings : Tab Ring := []
  jobs : List Job := []
  /-- The ring that holds the grant and the ring last granted at each level (R304). -/
  granted : Option Nat := none
  lastGrant : Tab Nat := []
  ctxs : Tab Ctx := []
  cores : Tab Core := []
  records : List CoreRecord := []
  routing : Routing := {}
  mig : Mig := {}
  pool : Pool := {}
  ports : Tab OptPort := []
  router : Router := {}
  fil : Fil := {}
  colls : List Coll := []
  remote : Remote := {}
  tb : Timebase := {}
  mgmt : Mgmt := {}
  pwr : Power := {}
  obs : Obs := {}
  /-- Free values used so far (log entry 3); the model's own field. -/
  freeUsed : Nat := 0
  deriving DecidableEq, Repr

/-- The device: its blocks and the Loupe shadows, a copy of the blocks taken when a snapshot latches (R340). -/
structure Dev extends Blocks where
  snap : Option Blocks := none
  deriving DecidableEq, Repr

/-- The machine: the device and the commands that wait, first in, first out. -/
structure State where
  dev : Dev
  pending : List Instr
  deriving DecidableEq, Repr

/-- The device when READY rises (R359): registers at their reset values but those that the reset sequence sets
(R31, R358, R360): GLB_RESET_STATUS and GLB_CLK_LOCK. -/
def Dev.reset : Dev :=
  { regs := [(0x08, 0x0001001F), (0x10, 0x00FF81FFFFFFFFFF)],
    glb := { lockedOnce := (List.range 41) ++ [47, 48, 49, 50, 51, 52, 53, 54, 55] } }

/-- The machine right after reset, with no command waiting. -/
def State.reset : State := { dev := Dev.reset, pending := [] }

/-- Change the device and leave the queue alone. -/
def State.onDev (s : State) (dev : Dev) : State := { s with dev := dev }

end Sys2Proof.Machine
end

