-- ==== Sys2Proof/Machine/Regs.lean ====
section
/-! DEFINITION. The BAR0 register map (R12 to R18): every register of the chapters' register tables with its offset, width,
fields, access types, reset value and instances; the decoding of an offset; the names of the registers' offsets. -/

namespace Sys2Proof.Machine

/-- Access types of Table 0.6. -/
inductive Acc where
  | rw
  | ro
  | wo
  | w1c
  | w1s
  deriving DecidableEq, Repr

/-- One field range of a register; a bit in no field is reserved (R15, R372). -/
structure Fld where
  acc : Acc
  hi : Nat
  lo : Nat
  deriving DecidableEq, Repr

/-- What R334 and R340 make of a register: a counter, a register that has a shadow, or neither. -/
inductive RegClass where
  | plain
  | counter
  | status
  deriving DecidableEq, Repr

/-- A register or an array of registers: instance (i, j) lies at `base + i * s1 + j * s2`, i below `n1`, j below `n2`. -/
structure RegSpec where
  name : String
  base : Nat
  wide : Bool
  reset : Nat
  cls : RegClass
  n1 : Nat
  s1 : Nat
  n2 : Nat
  s2 : Nat
  flds : List Fld
  deriving DecidableEq, Repr

/-- Global block: Tables 0.2, 1.7, 1.8, 5.4, 13.5, 14.8, 15.7, 15.10, R339; the MSI-X table and pending bits of Table 12.1 in the layout of the PCIe standard (PRESUMED, log entry 6). -/
def glbRegs : List RegSpec := [
  ⟨"GLB_IDENT", 0x00000000, false, 0x1110200, .plain, 1, 0x0, 1, 0x0, [⟨.ro, 27, 24⟩, ⟨.ro, 23, 20⟩, ⟨.ro, 19, 16⟩, ⟨.ro, 15, 0⟩]⟩,
  ⟨"GLB_RESET_STATUS", 0x00000008, false, 0x10000, .status, 1, 0x0, 1, 0x0, [⟨.ro, 23, 16⟩, ⟨.ro, 15, 8⟩, ⟨.ro, 4, 0⟩]⟩,
  ⟨"GLB_CLK_LOCK", 0x00000010, true, 0x0, .plain, 1, 0x0, 1, 0x0, [⟨.ro, 59, 0⟩]⟩,
  ⟨"GLB_CLK_LOSS", 0x00000018, true, 0x0, .plain, 1, 0x0, 1, 0x0, [⟨.w1c, 59, 0⟩]⟩,
  ⟨"GLB_BAR2_BASE", 0x00000020, true, 0x0, .plain, 1, 0x0, 1, 0x0, [⟨.rw, 47, 36⟩]⟩,
  ⟨"GLB_ERR_RESP", 0x00000030, true, 0x0, .plain, 2, 0x8, 1, 0x0, [⟨.w1c, 63, 63⟩, ⟨.ro, 55, 52⟩, ⟨.ro, 48, 48⟩, ⟨.ro, 47, 0⟩]⟩,
  ⟨"GLB_RESET_CMD", 0x00000040, false, 0x0, .plain, 1, 0x0, 1, 0x0, [⟨.wo, 15, 0⟩]⟩,
  ⟨"GLB_THERM", 0x00000048, true, 0x99000640000, .plain, 1, 0x0, 1, 0x0, [⟨.ro, 48, 48⟩, ⟨.rw, 47, 32⟩, ⟨.rw, 23, 16⟩, ⟨.ro, 7, 0⟩]⟩,
  ⟨"GLB_THERM_DIE", 0x00000050, true, 0x0, .plain, 1, 0x0, 1, 0x0, [⟨.ro, 47, 0⟩]⟩,
  ⟨"GLB_CTX_CMD", 0x00000100, true, 0x0, .plain, 1, 0x0, 1, 0x0, [⟨.wo, 47, 21⟩, ⟨.wo, 20, 15⟩, ⟨.wo, 14, 14⟩, ⟨.wo, 13, 8⟩, ⟨.wo, 7, 0⟩]⟩,
  ⟨"GLB_CTX_CNT_SWITCH", 0x00000300, true, 0x0, .counter, 1, 0x0, 1, 0x0, [⟨.ro, 63, 0⟩]⟩,
  ⟨"GLB_CTX_CNT_PREEMPT", 0x00000308, true, 0x0, .counter, 1, 0x0, 1, 0x0, [⟨.ro, 63, 0⟩]⟩,
  ⟨"GLB_CTX_CNT_TEARDOWN", 0x00000310, true, 0x0, .counter, 1, 0x0, 1, 0x0, [⟨.ro, 63, 0⟩]⟩,
  ⟨"GLB_CTX_STATE", 0x00000400, false, 0x0, .status, 64, 0x8, 1, 0x0, [⟨.ro, 31, 8⟩, ⟨.ro, 5, 0⟩]⟩,
  ⟨"GLB_CTX_PERF", 0x00000600, true, 0x0, .plain, 1, 0x0, 1, 0x0, [⟨.rw, 63, 0⟩]⟩,
  ⟨"MSIX_ADDR_LO", 0x00080000, false, 0x0, .plain, 2048, 0x10, 1, 0x0, [⟨.rw, 31, 2⟩]⟩,
  ⟨"MSIX_ADDR_HI", 0x00080004, false, 0x0, .plain, 2048, 0x10, 1, 0x0, [⟨.rw, 31, 0⟩]⟩,
  ⟨"MSIX_DATA", 0x00080008, false, 0x0, .plain, 2048, 0x10, 1, 0x0, [⟨.rw, 31, 0⟩]⟩,
  ⟨"MSIX_CTRL", 0x0008000C, false, 0x1, .plain, 2048, 0x10, 1, 0x0, [⟨.rw, 0, 0⟩]⟩,
  ⟨"MSIX_PBA", 0x00090000, true, 0x0, .plain, 32, 0x8, 1, 0x0, [⟨.ro, 63, 0⟩]⟩]

/-- Management block: Tables 11.8 and 11.9. -/
def mgmtRegs : List RegSpec := [
  ⟨"MGMT_CMD", 0x00100000, false, 0x0, .plain, 1, 0x0, 1, 0x0, [⟨.wo, 15, 8⟩, ⟨.wo, 7, 0⟩]⟩,
  ⟨"MGMT_STATUS", 0x00100008, false, 0x0, .status, 1, 0x0, 1, 0x0, [⟨.ro, 27, 24⟩, ⟨.ro, 23, 16⟩, ⟨.ro, 15, 8⟩, ⟨.ro, 3, 3⟩, ⟨.w1c, 2, 2⟩, ⟨.w1c, 1, 1⟩, ⟨.ro, 0, 0⟩]⟩,
  ⟨"MGMT_ARG", 0x00100010, true, 0x0, .plain, 4, 0x8, 1, 0x0, [⟨.rw, 63, 0⟩]⟩,
  ⟨"MGMT_RESULT_INFO", 0x00100030, true, 0x0, .plain, 1, 0x0, 1, 0x0, [⟨.ro, 63, 0⟩]⟩,
  ⟨"MGMT_CTRL", 0x00100038, false, 0x0, .plain, 1, 0x0, 1, 0x0, [⟨.rw, 0, 0⟩]⟩,
  ⟨"MGMT_MOUNT_ID", 0x00100040, true, 0x0, .plain, 1, 0x0, 1, 0x0, [⟨.ro, 63, 0⟩]⟩,
  ⟨"MGMT_MOUNT_INFO", 0x00100048, false, 0x0, .plain, 1, 0x0, 1, 0x0, [⟨.ro, 23, 0⟩]⟩,
  ⟨"MGMT_MOUNT_VERSION", 0x0010004C, false, 0x0, .plain, 1, 0x0, 1, 0x0, [⟨.ro, 31, 0⟩]⟩,
  ⟨"MGMT_FMT_SUPPORTED", 0x00100050, false, 0x1, .plain, 1, 0x0, 1, 0x0, [⟨.ro, 31, 0⟩]⟩,
  ⟨"MGMT_SWAP_WAIT", 0x00100058, false, 0x2710, .plain, 1, 0x0, 1, 0x0, [⟨.rw, 31, 0⟩]⟩,
  ⟨"MGMT_CAP", 0x00100060, true, 0x240100200, .plain, 1, 0x0, 1, 0x0, [⟨.ro, 39, 0⟩]⟩,
  ⟨"MGMT_CAP_CLUSTER", 0x00100100, false, 0x400252, .plain, 32, 0x4, 1, 0x0, [⟨.ro, 28, 24⟩, ⟨.ro, 23, 16⟩, ⟨.ro, 9, 0⟩]⟩,
  ⟨"MGMT_KEY_HASH", 0x00100200, true, 0x0, .plain, 4, 0x30, 6, 0x8, [⟨.rw, 63, 0⟩]⟩,
  ⟨"MGMT_L2P", 0x00101000, false, 0x0, .plain, 512, 0x4, 1, 0x0, [⟨.ro, 31, 31⟩, ⟨.ro, 9, 0⟩]⟩]

/-- Timebase: Tables 10.8 to 10.10. -/
def tbRegs : List RegSpec := [
  ⟨"TB_CTRL", 0x00200000, false, 0x8, .plain, 1, 0x0, 1, 0x0, [⟨.rw, 3, 3⟩, ⟨.rw, 2, 2⟩, ⟨.rw, 1, 1⟩, ⟨.rw, 0, 0⟩]⟩,
  ⟨"TB_STATUS", 0x00200008, false, 0xF1F0, .status, 1, 0x0, 1, 0x0, [⟨.ro, 23, 16⟩, ⟨.ro, 15, 12⟩, ⟨.ro, 8, 4⟩, ⟨.ro, 3, 3⟩, ⟨.w1c, 2, 2⟩, ⟨.ro, 1, 1⟩, ⟨.ro, 0, 0⟩]⟩,
  ⟨"TB_STROKE", 0x00200010, true, 0x0, .status, 1, 0x0, 1, 0x0, [⟨.rw, 63, 0⟩]⟩,
  ⟨"TB_MASTER_PLACE", 0x00200018, false, 0x0, .plain, 1, 0x0, 1, 0x0, [⟨.ro, 31, 12⟩]⟩,
  ⟨"TB_TIME", 0x00200020, true, 0x0, .plain, 1, 0x0, 1, 0x0, [⟨.rw, 63, 0⟩]⟩,
  ⟨"TB_TIME_ADJ", 0x00200028, false, 0x0, .plain, 1, 0x0, 1, 0x0, [⟨.wo, 31, 0⟩]⟩,
  ⟨"TB_CLASP_CFG", 0x00200030, false, 0x271008, .plain, 1, 0x0, 1, 0x0, [⟨.rw, 31, 8⟩, ⟨.rw, 7, 0⟩]⟩,
  ⟨"TB_CLASP_OPEN", 0x00200038, false, 0x0, .plain, 1, 0x0, 1, 0x0, [⟨.ro, 4, 0⟩]⟩,
  ⟨"TB_BEZEL_CTRL", 0x00200040, false, 0x0, .plain, 1, 0x0, 1, 0x0, [⟨.w1s, 2, 2⟩, ⟨.ro, 1, 1⟩, ⟨.rw, 0, 0⟩]⟩,
  ⟨"TB_BEZEL_PERIOD0", 0x00200048, false, 0x1, .plain, 1, 0x0, 1, 0x0, [⟨.rw, 23, 0⟩]⟩,
  ⟨"TB_BEZEL_PERIOD1", 0x00200050, false, 0x1, .plain, 1, 0x0, 1, 0x0, [⟨.rw, 23, 0⟩]⟩,
  ⟨"TB_BEZEL_START", 0x00200058, true, 0x0, .plain, 1, 0x0, 1, 0x0, [⟨.rw, 63, 0⟩]⟩,
  ⟨"TB_BEZEL_COUNT", 0x00200060, false, 0x0, .plain, 1, 0x0, 1, 0x0, [⟨.rw, 25, 16⟩, ⟨.rw, 9, 0⟩]⟩,
  ⟨"TB_HM_BASE", 0x00200068, true, 0x0, .plain, 1, 0x0, 1, 0x0, [⟨.rw, 47, 6⟩]⟩,
  ⟨"TB_HM_SLOTS", 0x00200070, false, 0x0, .plain, 1, 0x0, 1, 0x0, [⟨.rw, 15, 0⟩]⟩,
  ⟨"TB_HM_HEAD", 0x00200078, false, 0x0, .status, 1, 0x0, 1, 0x0, [⟨.ro, 15, 0⟩]⟩,
  ⟨"TB_HM_TAIL", 0x0020007C, false, 0x0, .plain, 1, 0x0, 1, 0x0, [⟨.rw, 15, 0⟩]⟩,
  ⟨"TB_CNT_RECORD_BAD", 0x00200100, true, 0x0, .counter, 1, 0x0, 1, 0x0, [⟨.ro, 63, 0⟩]⟩,
  ⟨"TB_CNT_REPARENT", 0x00200108, true, 0x0, .counter, 1, 0x0, 1, 0x0, [⟨.ro, 63, 0⟩]⟩,
  ⟨"TB_CNT_CLASP_LATE", 0x00200110, true, 0x0, .counter, 1, 0x0, 1, 0x0, [⟨.ro, 63, 0⟩]⟩,
  ⟨"TB_CNT_BEZEL_SKIP", 0x00200118, true, 0x0, .counter, 1, 0x0, 1, 0x0, [⟨.ro, 63, 0⟩]⟩,
  ⟨"TB_CNT_HM_WAIT", 0x00200120, true, 0x0, .counter, 1, 0x0, 1, 0x0, [⟨.ro, 63, 0⟩]⟩,
  ⟨"TB_CNT_HM_DROP", 0x00200128, true, 0x0, .counter, 1, 0x0, 1, 0x0, [⟨.ro, 63, 0⟩]⟩,
  ⟨"TB_BEZEL_ENTRY", 0x00201000, true, 0x0, .plain, 2, 0x1000, 512, 0x8, [⟨.rw, 47, 0⟩]⟩]

/-- Permit arbiter: Table 13.7. -/
def pwrRegs : List RegSpec := [
  ⟨"PWR_PRIO", 0x00300000, false, 0x210, .plain, 1, 0x0, 1, 0x0, [⟨.rw, 10, 8⟩, ⟨.rw, 6, 4⟩, ⟨.rw, 2, 0⟩]⟩,
  ⟨"PWR_BUDGET", 0x00300010, false, 0x320, .plain, 4, 0x4, 1, 0x0, [⟨.rw, 15, 0⟩]⟩,
  ⟨"PWR_BUDGET4", 0x00300020, false, 0x40, .plain, 1, 0x0, 1, 0x0, [⟨.rw, 15, 0⟩]⟩,
  ⟨"PWR_DEV_BUDGET", 0x00300028, false, 0xCC0, .plain, 1, 0x0, 1, 0x0, [⟨.rw, 15, 0⟩]⟩,
  ⟨"PWR_RAMP", 0x0030002C, false, 0xC8, .plain, 1, 0x0, 1, 0x0, [⟨.rw, 15, 0⟩]⟩,
  ⟨"PWR_HELD", 0x00300030, false, 0x0, .status, 5, 0x4, 1, 0x0, [⟨.ro, 15, 0⟩]⟩,
  ⟨"PWR_RESERVED", 0x00300048, false, 0x0, .plain, 1, 0x0, 1, 0x0, [⟨.ro, 15, 0⟩]⟩,
  ⟨"PWR_STATUS", 0x00300050, false, 0x0, .status, 1, 0x0, 1, 0x0, [⟨.ro, 16, 16⟩, ⟨.ro, 9, 0⟩]⟩,
  ⟨"PWR_CNT_GRANTS", 0x00300100, true, 0x0, .counter, 1, 0x0, 1, 0x0, [⟨.ro, 63, 0⟩]⟩,
  ⟨"PWR_CNT_WAIT_CYCLES", 0x00300108, true, 0x0, .counter, 1, 0x0, 1, 0x0, [⟨.ro, 63, 0⟩]⟩,
  ⟨"PWR_CNT_RAMP_WINDOWS", 0x00300110, true, 0x0, .counter, 1, 0x0, 1, 0x0, [⟨.ro, 63, 0⟩]⟩,
  ⟨"PWR_CNT_OVERRESERVE", 0x00300118, true, 0x0, .counter, 1, 0x0, 1, 0x0, [⟨.ro, 63, 0⟩]⟩]

/-- Error log and Loupe: Table 14.8. -/
def errRegs : List RegSpec := [
  ⟨"ERR_LOG_HEAD", 0x00400000, false, 0x0, .status, 1, 0x0, 1, 0x0, [⟨.ro, 31, 0⟩]⟩,
  ⟨"ERR_LOG_TAIL", 0x00400008, false, 0x0, .plain, 1, 0x0, 1, 0x0, [⟨.rw, 31, 0⟩]⟩,
  ⟨"ERR_CNT_OVERWRITTEN", 0x00400010, true, 0x0, .counter, 1, 0x0, 1, 0x0, [⟨.ro, 63, 0⟩]⟩,
  ⟨"ERR_CNT_LOST", 0x00400018, true, 0x0, .counter, 1, 0x0, 1, 0x0, [⟨.ro, 63, 0⟩]⟩,
  ⟨"ERR_LOG_ENTRY", 0x00401000, true, 0x0, .plain, 256, 0x20, 4, 0x8, [⟨.ro, 63, 0⟩]⟩,
  ⟨"LOUPE_CTRL", 0x00403000, false, 0x800, .plain, 1, 0x0, 1, 0x0, [⟨.rw, 15, 8⟩, ⟨.rw, 1, 1⟩, ⟨.rw, 0, 0⟩]⟩,
  ⟨"LOUPE_CMD", 0x00403008, false, 0x0, .plain, 1, 0x0, 1, 0x0, [⟨.wo, 31, 16⟩, ⟨.wo, 3, 3⟩, ⟨.wo, 2, 2⟩, ⟨.wo, 1, 1⟩, ⟨.wo, 0, 0⟩]⟩,
  ⟨"LOUPE_AT", 0x00403010, true, 0x0, .plain, 1, 0x0, 1, 0x0, [⟨.rw, 63, 0⟩]⟩,
  ⟨"LOUPE_STATUS", 0x00403018, false, 0x2, .status, 1, 0x0, 1, 0x0, [⟨.ro, 31, 16⟩, ⟨.ro, 15, 8⟩, ⟨.ro, 6, 0⟩]⟩,
  ⟨"LOUPE_STROKE", 0x00403020, true, 0x0, .plain, 1, 0x0, 1, 0x0, [⟨.ro, 63, 0⟩]⟩,
  ⟨"LOUPE_SEL", 0x00403028, false, 0x0, .plain, 1, 0x0, 1, 0x0, [⟨.rw, 27, 0⟩]⟩,
  ⟨"LOUPE_DATA", 0x00403030, true, 0x0, .plain, 1, 0x0, 1, 0x0, [⟨.ro, 63, 0⟩]⟩,
  ⟨"LOUPE_CNT_IGNORED", 0x00403038, true, 0x0, .counter, 1, 0x0, 1, 0x0, [⟨.ro, 63, 0⟩]⟩,
  ⟨"LOUPE_ERR_MASK", 0x00403040, true, 0x0, .plain, 4, 0x8, 1, 0x0, [⟨.rw, 63, 0⟩]⟩]

/-- Rings: Tables 12.10 to 12.12. -/
def ringRegs : List RegSpec := [
  ⟨"RING_CTRL", 0x01000000, false, 0x70, .plain, 4096, 0x1000, 1, 0x0, [⟨.rw, 28, 28⟩, ⟨.rw, 27, 27⟩, ⟨.rw, 26, 16⟩, ⟨.rw, 13, 8⟩, ⟨.rw, 6, 4⟩, ⟨.rw, 2, 1⟩, ⟨.rw, 0, 0⟩]⟩,
  ⟨"RING_STATUS", 0x01000008, false, 0x800, .status, 4096, 0x1000, 1, 0x0, [⟨.ro, 24, 16⟩, ⟨.ro, 11, 8⟩, ⟨.ro, 2, 0⟩]⟩,
  ⟨"RING_SQ_BASE", 0x01000010, true, 0x0, .plain, 4096, 0x1000, 1, 0x0, [⟨.rw, 63, 12⟩, ⟨.rw, 0, 0⟩]⟩,
  ⟨"RING_CQ_BASE", 0x01000018, true, 0x0, .plain, 4096, 0x1000, 1, 0x0, [⟨.rw, 63, 12⟩, ⟨.rw, 0, 0⟩]⟩,
  ⟨"RING_SIZE", 0x01000020, false, 0x404, .plain, 4096, 0x1000, 1, 0x0, [⟨.rw, 11, 8⟩, ⟨.rw, 3, 0⟩]⟩,
  ⟨"RING_SQ_TAIL", 0x01000028, false, 0x0, .plain, 4096, 0x1000, 1, 0x0, [⟨.rw, 15, 0⟩]⟩,
  ⟨"RING_SQ_HEAD", 0x0100002C, false, 0x0, .status, 4096, 0x1000, 1, 0x0, [⟨.ro, 15, 0⟩]⟩,
  ⟨"RING_CQ_HEAD", 0x01000030, false, 0x0, .status, 4096, 0x1000, 1, 0x0, [⟨.ro, 15, 0⟩]⟩,
  ⟨"RING_CQ_TAIL", 0x01000034, false, 0x0, .plain, 4096, 0x1000, 1, 0x0, [⟨.rw, 15, 0⟩]⟩,
  ⟨"RING_STARVE", 0x01000038, false, 0x10, .plain, 4096, 0x1000, 1, 0x0, [⟨.rw, 15, 0⟩]⟩,
  ⟨"RING_SHAPE_RATE", 0x01000040, false, 0x0, .plain, 4096, 0x1000, 1, 0x0, [⟨.rw, 31, 16⟩, ⟨.rw, 15, 0⟩]⟩,
  ⟨"RING_SHAPE_BURST", 0x01000044, false, 0x400040, .plain, 4096, 0x1000, 1, 0x0, [⟨.rw, 31, 16⟩, ⟨.rw, 15, 0⟩]⟩,
  ⟨"RING_CANCEL", 0x01000048, false, 0x0, .plain, 4096, 0x1000, 1, 0x0, [⟨.wo, 15, 0⟩]⟩,
  ⟨"RING_CANCEL_STATUS", 0x0100004C, false, 0x0, .status, 4096, 0x1000, 1, 0x0, [⟨.ro, 17, 0⟩]⟩,
  ⟨"RING_CNT_CMDS", 0x01000100, true, 0x0, .counter, 4096, 0x1000, 1, 0x0, [⟨.ro, 63, 0⟩]⟩,
  ⟨"RING_CNT_GREEN", 0x01000108, true, 0x0, .counter, 4096, 0x1000, 1, 0x0, [⟨.ro, 63, 0⟩]⟩,
  ⟨"RING_CNT_YELLOW", 0x01000110, true, 0x0, .counter, 4096, 0x1000, 1, 0x0, [⟨.ro, 63, 0⟩]⟩,
  ⟨"RING_CNT_PROMOTED", 0x01000118, true, 0x0, .counter, 4096, 0x1000, 1, 0x0, [⟨.ro, 63, 0⟩]⟩,
  ⟨"RING_CNT_DROPPED", 0x01000120, true, 0x0, .counter, 4096, 0x1000, 1, 0x0, [⟨.ro, 63, 0⟩]⟩]

/-- Routing Engines: Tables 2.9 to 2.12. -/
def reRegs : List RegSpec := [
  ⟨"RE_CTRL", 0x02000000, false, 0x0, .plain, 4, 0x100000, 1, 0x0, [⟨.rw, 2, 2⟩, ⟨.rw, 1, 1⟩, ⟨.rw, 0, 0⟩]⟩,
  ⟨"RE_STATUS", 0x02000008, false, 0x0, .status, 4, 0x100000, 1, 0x0, [⟨.ro, 16, 8⟩, ⟨.ro, 4, 0⟩]⟩,
  ⟨"RE_FAULT", 0x02000010, false, 0x0, .plain, 4, 0x100000, 1, 0x0, [⟨.w1c, 31, 31⟩, ⟨.ro, 22, 0⟩]⟩,
  ⟨"RE_FAULT_ADDR", 0x02000018, true, 0x0, .plain, 4, 0x100000, 1, 0x0, [⟨.ro, 47, 0⟩]⟩,
  ⟨"RE_LAYER_TABLE_BASE", 0x02000020, true, 0x0, .plain, 4, 0x100000, 1, 0x0, [⟨.rw, 47, 6⟩]⟩,
  ⟨"RE_DIR_BASE", 0x02000028, true, 0x0, .plain, 4, 0x100000, 1, 0x0, [⟨.rw, 47, 12⟩]⟩,
  ⟨"RE_SHAPE_BASE", 0x02000030, true, 0x0, .plain, 4, 0x100000, 1, 0x0, [⟨.rw, 47, 12⟩]⟩,
  ⟨"RE_KEOTH_RING", 0x02000038, false, 0x0, .plain, 4, 0x100000, 1, 0x0, [⟨.rw, 11, 0⟩]⟩,
  ⟨"RE_KEOTH_RESUME", 0x0200003C, false, 0x0, .plain, 4, 0x100000, 1, 0x0, [⟨.wo, 16, 16⟩, ⟨.wo, 15, 0⟩]⟩,
  ⟨"RE_KEOTH_TIMEOUT", 0x02000040, false, 0x0, .plain, 4, 0x100000, 1, 0x0, [⟨.rw, 31, 0⟩]⟩,
  ⟨"RE_STEP_SEQ", 0x02000048, false, 0x0, .plain, 4, 0x100000, 1, 0x0, [⟨.ro, 15, 0⟩]⟩,
  ⟨"RE_COUNT_TIMEOUT", 0x02000050, false, 0x0, .plain, 4, 0x100000, 1, 0x0, [⟨.rw, 31, 0⟩]⟩,
  ⟨"RE_CNT_TOKENS", 0x02000100, true, 0x0, .counter, 4, 0x100000, 1, 0x0, [⟨.ro, 63, 0⟩]⟩,
  ⟨"RE_CNT_DROPPED", 0x02000108, true, 0x0, .counter, 4, 0x100000, 1, 0x0, [⟨.ro, 63, 0⟩]⟩,
  ⟨"RE_CNT_DIVERTED", 0x02000110, true, 0x0, .counter, 4, 0x100000, 1, 0x0, [⟨.ro, 63, 0⟩]⟩,
  ⟨"RE_CNT_NONFINITE", 0x02000118, true, 0x0, .counter, 4, 0x100000, 1, 0x0, [⟨.ro, 63, 0⟩]⟩]

/-- Router and optical ports: Tables 7.7 to 7.11, 8.8 and 8.9. -/
def fabRegs : List RegSpec := [
  ⟨"FAB_RT_CTRL", 0x03000000, false, 0x0, .plain, 1, 0x0, 1, 0x0, [⟨.rw, 0, 0⟩]⟩,
  ⟨"FAB_RT_SELF", 0x03000008, false, 0x0, .plain, 1, 0x0, 1, 0x0, [⟨.rw, 31, 12⟩]⟩,
  ⟨"FAB_RT_TORUS", 0x03000010, false, 0x0, .plain, 1, 0x0, 1, 0x0, [⟨.rw, 11, 8⟩, ⟨.rw, 7, 4⟩, ⟨.rw, 3, 0⟩]⟩,
  ⟨"FAB_RT_BLOCK", 0x03000018, false, 0x0, .plain, 1, 0x0, 1, 0x0, [⟨.rw, 27, 24⟩, ⟨.rw, 23, 20⟩, ⟨.rw, 19, 16⟩, ⟨.rw, 11, 8⟩, ⟨.rw, 7, 4⟩, ⟨.rw, 3, 0⟩]⟩,
  ⟨"FAB_VC_WEIGHT", 0x03000020, false, 0x20204, .plain, 1, 0x0, 1, 0x0, [⟨.rw, 23, 16⟩, ⟨.rw, 15, 8⟩, ⟨.rw, 7, 0⟩]⟩,
  ⟨"FAB_RT_STATUS", 0x03000028, false, 0x200000, .status, 1, 0x0, 1, 0x0, [⟨.ro, 21, 20⟩, ⟨.ro, 16, 16⟩, ⟨.ro, 11, 0⟩]⟩,
  ⟨"FAB_MIRROR_CTRL", 0x03000040, true, 0x0, .plain, 1, 0x0, 1, 0x0, [⟨.rw, 32, 32⟩, ⟨.rw, 27, 16⟩, ⟨.rw, 11, 0⟩]⟩,
  ⟨"FAB_MIRROR_DST", 0x03000048, false, 0x0, .plain, 1, 0x0, 1, 0x0, [⟨.rw, 31, 0⟩]⟩,
  ⟨"FAB_MIRROR_MATCH", 0x03000050, true, 0x0, .plain, 1, 0x0, 1, 0x0, [⟨.rw, 63, 44⟩, ⟨.rw, 36, 36⟩, ⟨.rw, 35, 35⟩, ⟨.rw, 34, 34⟩, ⟨.rw, 33, 32⟩, ⟨.rw, 31, 16⟩, ⟨.rw, 15, 0⟩]⟩,
  ⟨"FAB_CNT_DEFLECTED", 0x03000100, true, 0x0, .counter, 1, 0x0, 1, 0x0, [⟨.ro, 63, 0⟩]⟩,
  ⟨"FAB_CNT_DISPLACED", 0x03000108, true, 0x0, .counter, 1, 0x0, 1, 0x0, [⟨.ro, 63, 0⟩]⟩,
  ⟨"FAB_CNT_GOLD", 0x03000110, true, 0x0, .counter, 1, 0x0, 1, 0x0, [⟨.ro, 63, 0⟩]⟩,
  ⟨"FAB_CNT_TRANSIT", 0x03000118, true, 0x0, .counter, 1, 0x0, 1, 0x0, [⟨.ro, 63, 0⟩]⟩,
  ⟨"FAB_CNT_DROP_HDR", 0x03000120, true, 0x0, .counter, 1, 0x0, 1, 0x0, [⟨.ro, 63, 0⟩]⟩,
  ⟨"FAB_CNT_DROP_ROUTE", 0x03000128, true, 0x0, .counter, 1, 0x0, 1, 0x0, [⟨.ro, 63, 0⟩]⟩,
  ⟨"FAB_CNT_DROP_AGE", 0x03000130, true, 0x0, .counter, 1, 0x0, 1, 0x0, [⟨.ro, 63, 0⟩]⟩,
  ⟨"FAB_CNT_DROP_TRANSIT", 0x03000138, true, 0x0, .counter, 1, 0x0, 1, 0x0, [⟨.ro, 63, 0⟩]⟩,
  ⟨"FAB_CNT_INJECT_HELD", 0x03000140, true, 0x0, .counter, 1, 0x0, 1, 0x0, [⟨.ro, 63, 0⟩]⟩,
  ⟨"FAB_CNT_MIRROR", 0x03000148, true, 0x0, .counter, 1, 0x0, 1, 0x0, [⟨.ro, 63, 0⟩]⟩,
  ⟨"FAB_CNT_MIRROR_DROP", 0x03000150, true, 0x0, .counter, 1, 0x0, 1, 0x0, [⟨.ro, 63, 0⟩]⟩,
  ⟨"FAB_CNT_BANK_CORR", 0x03000158, true, 0x0, .counter, 1, 0x0, 1, 0x0, [⟨.ro, 63, 0⟩]⟩,
  ⟨"FAB_PORT_CTRL", 0x03200000, false, 0x80004, .plain, 6, 0x10000, 1, 0x0, [⟨.rw, 19, 16⟩, ⟨.rw, 5, 4⟩, ⟨.rw, 2, 2⟩, ⟨.rw, 0, 0⟩]⟩,
  ⟨"FAB_PORT_STATUS", 0x03200008, false, 0x80, .status, 6, 0x10000, 1, 0x0, [⟨.ro, 23, 16⟩, ⟨.ro, 15, 12⟩, ⟨.ro, 11, 8⟩, ⟨.ro, 7, 5⟩, ⟨.ro, 3, 0⟩]⟩,
  ⟨"FAB_PORT_LANES", 0x03200010, true, 0x0, .plain, 6, 0x10000, 1, 0x0, [⟨.ro, 51, 32⟩, ⟨.ro, 19, 0⟩]⟩,
  ⟨"FAB_PORT_PEER", 0x03200018, true, 0x0, .plain, 6, 0x10000, 1, 0x0, [⟨.ro, 55, 40⟩, ⟨.ro, 34, 0⟩]⟩,
  ⟨"FAB_PORT_DELAY", 0x03200020, false, 0x0, .plain, 6, 0x10000, 1, 0x0, [⟨.ro, 23, 0⟩]⟩,
  ⟨"FAB_PORT_RETRY", 0x03200028, false, 0x640190, .plain, 6, 0x10000, 1, 0x0, [⟨.rw, 31, 16⟩, ⟨.rw, 15, 0⟩]⟩,
  ⟨"FAB_PORT_LANE_LIMIT", 0x03200030, false, 0x2000, .plain, 6, 0x10000, 1, 0x0, [⟨.rw, 31, 0⟩]⟩,
  ⟨"FAB_PORT_RETRAIN_INTERVAL", 0x03200038, false, 0x3E8, .plain, 6, 0x10000, 1, 0x0, [⟨.rw, 31, 0⟩]⟩,
  ⟨"FAB_PORT_CNT_TX_CELLS", 0x03200100, true, 0x0, .counter, 6, 0x10000, 1, 0x0, [⟨.ro, 63, 0⟩]⟩,
  ⟨"FAB_PORT_CNT_RX_CELLS", 0x03200108, true, 0x0, .counter, 6, 0x10000, 1, 0x0, [⟨.ro, 63, 0⟩]⟩,
  ⟨"FAB_PORT_CNT_FEC_CORR", 0x03200110, true, 0x0, .counter, 6, 0x10000, 1, 0x0, [⟨.ro, 63, 0⟩]⟩,
  ⟨"FAB_PORT_CNT_FEC_UNCORR", 0x03200118, true, 0x0, .counter, 6, 0x10000, 1, 0x0, [⟨.ro, 63, 0⟩]⟩,
  ⟨"FAB_PORT_CNT_NAK", 0x03200120, true, 0x0, .counter, 6, 0x10000, 1, 0x0, [⟨.ro, 63, 0⟩]⟩,
  ⟨"FAB_PORT_CNT_REPLAYS", 0x03200128, true, 0x0, .counter, 6, 0x10000, 1, 0x0, [⟨.ro, 63, 0⟩]⟩,
  ⟨"FAB_PORT_CNT_REPLAYED", 0x03200130, true, 0x0, .counter, 6, 0x10000, 1, 0x0, [⟨.ro, 63, 0⟩]⟩,
  ⟨"FAB_PORT_CNT_REINJECTED", 0x03200138, true, 0x0, .counter, 6, 0x10000, 1, 0x0, [⟨.ro, 63, 0⟩]⟩,
  ⟨"FAB_PORT_CNT_RETRAINS", 0x03200140, true, 0x0, .counter, 6, 0x10000, 1, 0x0, [⟨.ro, 63, 0⟩]⟩,
  ⟨"FAB_PORT_CNT_DOWN", 0x03200148, true, 0x0, .counter, 6, 0x10000, 1, 0x0, [⟨.ro, 63, 0⟩]⟩,
  ⟨"FAB_PORT_CNT_BAD_ACK", 0x03200150, true, 0x0, .counter, 6, 0x10000, 1, 0x0, [⟨.ro, 63, 0⟩]⟩,
  ⟨"FAB_PORT_CNT_REQ_MERGED", 0x03200158, true, 0x0, .counter, 6, 0x10000, 1, 0x0, [⟨.ro, 63, 0⟩]⟩,
  ⟨"FAB_PORT_CNT_LANE_CORR", 0x03200200, true, 0x0, .counter, 6, 0x10000, 10, 0x8, [⟨.ro, 63, 0⟩]⟩,
  ⟨"FAB_SWEEP", 0x03260000, false, 0x0, .plain, 1, 0x0, 1, 0x0, [⟨.rw, 16, 16⟩, ⟨.rw, 15, 0⟩]⟩,
  ⟨"FAB_LINK_VERS", 0x03260008, false, 0x1, .plain, 1, 0x0, 1, 0x0, [⟨.ro, 7, 0⟩]⟩]

/-- Collective engine, Filigree, memory-semantic unit: Tables 9.11 and 9.12. -/
def collRegs : List RegSpec := [
  ⟨"COLL_CTRL", 0x03400000, false, 0x0, .plain, 1, 0x0, 1, 0x0, [⟨.rw, 0, 0⟩]⟩,
  ⟨"COLL_STATUS", 0x03400008, false, 0x0, .status, 1, 0x0, 1, 0x0, [⟨.ro, 6, 0⟩]⟩,
  ⟨"COLL_TIMEOUT", 0x03400010, false, 0x2710, .plain, 1, 0x0, 1, 0x0, [⟨.rw, 31, 0⟩]⟩,
  ⟨"FIL_DUP_HOLD", 0x03400018, false, 0x200, .plain, 1, 0x0, 1, 0x0, [⟨.rw, 15, 0⟩]⟩,
  ⟨"COLL_CNT_OPENED", 0x03400100, true, 0x0, .counter, 1, 0x0, 1, 0x0, [⟨.ro, 63, 0⟩]⟩,
  ⟨"COLL_CNT_FAILED", 0x03400108, true, 0x0, .counter, 1, 0x0, 1, 0x0, [⟨.ro, 63, 0⟩]⟩,
  ⟨"COLL_CNT_TX_CELLS", 0x03400110, true, 0x0, .counter, 1, 0x0, 1, 0x0, [⟨.ro, 63, 0⟩]⟩,
  ⟨"COLL_CNT_RX_CELLS", 0x03400118, true, 0x0, .counter, 1, 0x0, 1, 0x0, [⟨.ro, 63, 0⟩]⟩,
  ⟨"COLL_CNT_DUP", 0x03400120, true, 0x0, .counter, 1, 0x0, 1, 0x0, [⟨.ro, 63, 0⟩]⟩,
  ⟨"COLL_CNT_STALE", 0x03400128, true, 0x0, .counter, 1, 0x0, 1, 0x0, [⟨.ro, 63, 0⟩]⟩,
  ⟨"COLL_CNT_VERSION", 0x03400130, true, 0x0, .counter, 1, 0x0, 1, 0x0, [⟨.ro, 63, 0⟩]⟩,
  ⟨"FIL_CNT_TX", 0x03400138, true, 0x0, .counter, 1, 0x0, 1, 0x0, [⟨.ro, 63, 0⟩]⟩,
  ⟨"FIL_CNT_DUP", 0x03400140, true, 0x0, .counter, 1, 0x0, 1, 0x0, [⟨.ro, 63, 0⟩]⟩,
  ⟨"FIL_CNT_STALE", 0x03400148, true, 0x0, .counter, 1, 0x0, 1, 0x0, [⟨.ro, 63, 0⟩]⟩,
  ⟨"FIL_CNT_BAD", 0x03400150, true, 0x0, .counter, 1, 0x0, 1, 0x0, [⟨.ro, 63, 0⟩]⟩,
  ⟨"MEM_CTRL", 0x03401000, false, 0x0, .plain, 1, 0x0, 1, 0x0, [⟨.rw, 2, 2⟩, ⟨.rw, 1, 1⟩, ⟨.rw, 0, 0⟩]⟩,
  ⟨"MEM_EXPORT_BASE", 0x03401008, true, 0x0, .plain, 1, 0x0, 1, 0x0, [⟨.rw, 47, 16⟩]⟩,
  ⟨"MEM_EXPORT_SIZE", 0x03401010, false, 0x0, .plain, 1, 0x0, 1, 0x0, [⟨.rw, 19, 0⟩]⟩,
  ⟨"MEM_REPL_MAP", 0x03401018, true, 0x0, .plain, 1, 0x0, 1, 0x0, [⟨.rw, 47, 16⟩]⟩,
  ⟨"MEM_REPL_POOL", 0x03401020, true, 0x0, .plain, 1, 0x0, 1, 0x0, [⟨.rw, 54, 32⟩, ⟨.rw, 22, 0⟩]⟩,
  ⟨"MEM_REPL_TTL", 0x03401028, false, 0x3E8, .plain, 1, 0x0, 1, 0x0, [⟨.rw, 31, 0⟩]⟩,
  ⟨"MEM_TIMEOUT", 0x03401030, false, 0x64, .plain, 1, 0x0, 1, 0x0, [⟨.rw, 31, 0⟩]⟩,
  ⟨"MEM_CNT_REQ", 0x03401100, true, 0x0, .counter, 1, 0x0, 1, 0x0, [⟨.ro, 63, 0⟩]⟩,
  ⟨"MEM_CNT_DUP", 0x03401108, true, 0x0, .counter, 1, 0x0, 1, 0x0, [⟨.ro, 63, 0⟩]⟩,
  ⟨"MEM_CNT_INVAL", 0x03401110, true, 0x0, .counter, 1, 0x0, 1, 0x0, [⟨.ro, 63, 0⟩]⟩,
  ⟨"MEM_CNT_REPL_HIT", 0x03401118, true, 0x0, .counter, 1, 0x0, 1, 0x0, [⟨.ro, 63, 0⟩]⟩,
  ⟨"MEM_CNT_REPL_DROP", 0x03401120, true, 0x0, .counter, 1, 0x0, 1, 0x0, [⟨.ro, 63, 0⟩]⟩]

/-- Pool manager: Tables 6.7 to 6.9. -/
def poolRegs : List RegSpec := [
  ⟨"POOL_CTRL", 0x03800000, false, 0x0, .plain, 1, 0x0, 1, 0x0, [⟨.rw, 7, 5⟩, ⟨.rw, 2, 2⟩, ⟨.rw, 1, 1⟩, ⟨.rw, 0, 0⟩]⟩,
  ⟨"POOL_STATUS", 0x03800008, false, 0x0, .status, 1, 0x0, 1, 0x0, [⟨.ro, 2, 0⟩]⟩,
  ⟨"POOL_FAULT", 0x03800010, false, 0x0, .plain, 1, 0x0, 1, 0x0, [⟨.w1c, 31, 31⟩, ⟨.ro, 22, 17⟩, ⟨.ro, 7, 0⟩]⟩,
  ⟨"POOL_FAULT_ADDR", 0x03800018, true, 0x0, .plain, 1, 0x0, 1, 0x0, [⟨.ro, 47, 0⟩]⟩,
  ⟨"POOL_TAG_BASE", 0x03800020, true, 0x0, .plain, 1, 0x0, 1, 0x0, [⟨.rw, 47, 21⟩]⟩,
  ⟨"POOL_AUDIT_PERIOD", 0x03800028, false, 0x2710, .plain, 1, 0x0, 1, 0x0, [⟨.rw, 31, 0⟩]⟩,
  ⟨"POOL_LEAK_ADDR", 0x03800030, true, 0x0, .plain, 1, 0x0, 1, 0x0, [⟨.ro, 47, 0⟩]⟩,
  ⟨"POOL_CLASS_BASE", 0x03800100, true, 0x0, .plain, 8, 0x20, 1, 0x0, [⟨.rw, 47, 8⟩]⟩,
  ⟨"POOL_CLASS_PART", 0x03800108, true, 0x0, .plain, 8, 0x20, 1, 0x0, [⟨.rw, 58, 48⟩, ⟨.rw, 42, 32⟩, ⟨.rw, 26, 16⟩, ⟨.rw, 10, 0⟩]⟩,
  ⟨"POOL_CLASS_FREE", 0x03800110, true, 0x0, .plain, 8, 0x20, 1, 0x0, [⟨.ro, 63, 0⟩]⟩,
  ⟨"POOL_CLASS_SPARE", 0x03800118, false, 0x8, .plain, 8, 0x20, 1, 0x0, [⟨.ro, 18, 8⟩, ⟨.ro, 3, 0⟩]⟩,
  ⟨"POOL_CNT_ALLOC", 0x03800200, true, 0x0, .counter, 1, 0x0, 1, 0x0, [⟨.ro, 63, 0⟩]⟩,
  ⟨"POOL_CNT_FREE", 0x03800208, true, 0x0, .counter, 1, 0x0, 1, 0x0, [⟨.ro, 63, 0⟩]⟩,
  ⟨"POOL_CNT_EMPTY", 0x03800210, true, 0x0, .counter, 1, 0x0, 1, 0x0, [⟨.ro, 63, 0⟩]⟩,
  ⟨"POOL_CNT_LEAK", 0x03800218, true, 0x0, .counter, 1, 0x0, 1, 0x0, [⟨.ro, 63, 0⟩]⟩,
  ⟨"POOL_CNT_REBUILT", 0x03800220, true, 0x0, .counter, 1, 0x0, 1, 0x0, [⟨.ro, 63, 0⟩]⟩,
  ⟨"POOL_CNT_STALE", 0x03800228, true, 0x0, .counter, 1, 0x0, 1, 0x0, [⟨.ro, 63, 0⟩]⟩,
  ⟨"POOL_CLASS_FREEHI", 0x03800300, false, 0x0, .plain, 8, 0x8, 1, 0x0, [⟨.ro, 3, 0⟩]⟩]

/-- Migration engine: Tables 5.12 to 5.15. -/
def migRegs : List RegSpec := [
  ⟨"MIG_CTRL", 0x03C00000, false, 0x0, .plain, 1, 0x0, 1, 0x0, [⟨.rw, 5, 4⟩, ⟨.rw, 2, 2⟩, ⟨.rw, 1, 1⟩, ⟨.rw, 0, 0⟩]⟩,
  ⟨"MIG_STATUS", 0x03C00008, false, 0x0, .status, 1, 0x0, 1, 0x0, [⟨.ro, 25, 16⟩, ⟨.ro, 3, 0⟩]⟩,
  ⟨"MIG_FAULT", 0x03C00010, false, 0x0, .plain, 1, 0x0, 1, 0x0, [⟨.w1c, 31, 31⟩, ⟨.ro, 22, 17⟩, ⟨.ro, 7, 0⟩]⟩,
  ⟨"MIG_FAULT_ADDR", 0x03C00018, true, 0x0, .plain, 1, 0x0, 1, 0x0, [⟨.ro, 47, 0⟩]⟩,
  ⟨"MIG_TDIR_BASE", 0x03C00020, true, 0x0, .plain, 1, 0x0, 1, 0x0, [⟨.rw, 47, 16⟩]⟩,
  ⟨"MIG_XTAB_BASE", 0x03C00028, true, 0x0, .plain, 1, 0x0, 1, 0x0, [⟨.rw, 47, 12⟩]⟩,
  ⟨"MIG_STREAM_BASE", 0x03C00030, true, 0x0, .plain, 1, 0x0, 1, 0x0, [⟨.rw, 47, 12⟩]⟩,
  ⟨"MIG_STREAM_CTRL", 0x03C00038, false, 0x0, .plain, 1, 0x0, 1, 0x0, [⟨.rw, 10, 0⟩]⟩,
  ⟨"MIG_STREAM_POOL", 0x03C00040, true, 0x0, .plain, 1, 0x0, 1, 0x0, [⟨.rw, 54, 32⟩, ⟨.rw, 22, 0⟩]⟩,
  ⟨"MIG_CACHE_POOL", 0x03C00048, true, 0x0, .plain, 1, 0x0, 1, 0x0, [⟨.rw, 54, 32⟩, ⟨.rw, 22, 0⟩]⟩,
  ⟨"MIG_KV_SEQ_BASE", 0x03C00050, true, 0x0, .plain, 1, 0x0, 1, 0x0, [⟨.rw, 47, 12⟩]⟩,
  ⟨"MIG_VAULT_SIZE", 0x03C00058, true, 0x0, .plain, 1, 0x0, 1, 0x0, [⟨.ro, 47, 16⟩]⟩,
  ⟨"MIG_CNT_FETCH_DEMAND", 0x03C00100, true, 0x0, .counter, 1, 0x0, 1, 0x0, [⟨.ro, 63, 0⟩]⟩,
  ⟨"MIG_CNT_FETCH_STAGE", 0x03C00108, true, 0x0, .counter, 1, 0x0, 1, 0x0, [⟨.ro, 63, 0⟩]⟩,
  ⟨"MIG_CNT_FETCH_PRED", 0x03C00110, true, 0x0, .counter, 1, 0x0, 1, 0x0, [⟨.ro, 63, 0⟩]⟩,
  ⟨"MIG_CNT_WRITEBACK", 0x03C00118, true, 0x0, .counter, 1, 0x0, 1, 0x0, [⟨.ro, 63, 0⟩]⟩,
  ⟨"MIG_CNT_MISS", 0x03C00120, true, 0x0, .counter, 1, 0x0, 1, 0x0, [⟨.ro, 63, 0⟩]⟩,
  ⟨"MIG_CNT_HINT_QUEUED", 0x03C00128, true, 0x0, .counter, 1, 0x0, 1, 0x0, [⟨.ro, 63, 0⟩]⟩,
  ⟨"MIG_CNT_HINT_FULL", 0x03C00130, true, 0x0, .counter, 1, 0x0, 1, 0x0, [⟨.ro, 63, 0⟩]⟩,
  ⟨"MIG_CNT_HINT_PRESENT", 0x03C00138, true, 0x0, .counter, 1, 0x0, 1, 0x0, [⟨.ro, 63, 0⟩]⟩,
  ⟨"MIG_CNT_HINT_INVALID", 0x03C00140, true, 0x0, .counter, 1, 0x0, 1, 0x0, [⟨.ro, 63, 0⟩]⟩,
  ⟨"MIG_CNT_HINT_IDLE", 0x03C00148, true, 0x0, .counter, 1, 0x0, 1, 0x0, [⟨.ro, 63, 0⟩]⟩,
  ⟨"MIG_CNT_HINT_USED", 0x03C00150, true, 0x0, .counter, 1, 0x0, 1, 0x0, [⟨.ro, 63, 0⟩]⟩,
  ⟨"MIG_CNT_XTAB_INVALID", 0x03C00158, true, 0x0, .counter, 1, 0x0, 1, 0x0, [⟨.ro, 63, 0⟩]⟩,
  ⟨"MIG_CNT_KV_REFUSED", 0x03C00160, true, 0x0, .counter, 1, 0x0, 1, 0x0, [⟨.ro, 63, 0⟩]⟩,
  ⟨"MIG_KV_QUOTA", 0x03C01000, false, 0x0, .plain, 64, 0x8, 1, 0x0, [⟨.rw, 19, 0⟩]⟩,
  ⟨"MIG_KV_RESERVED", 0x03C01200, false, 0x0, .plain, 64, 0x8, 1, 0x0, [⟨.ro, 19, 0⟩]⟩]

/-- HBM controllers and vault ports: Tables 14.1 and 5.16. -/
def hbmRegs : List RegSpec := [
  ⟨"HBM_CNT_READ", 0x04000100, true, 0x0, .counter, 8, 0x10000, 1, 0x0, [⟨.ro, 63, 0⟩]⟩,
  ⟨"HBM_CNT_WRITE", 0x04000108, true, 0x0, .counter, 8, 0x10000, 1, 0x0, [⟨.ro, 63, 0⟩]⟩,
  ⟨"HBM_CNT_CROSS", 0x04000110, true, 0x0, .counter, 8, 0x10000, 1, 0x0, [⟨.ro, 63, 0⟩]⟩,
  ⟨"HBM_CNT_CORR", 0x04000118, true, 0x0, .counter, 8, 0x10000, 1, 0x0, [⟨.ro, 63, 0⟩]⟩,
  ⟨"HBM_CNT_UNCORR", 0x04000120, true, 0x0, .counter, 8, 0x10000, 1, 0x0, [⟨.ro, 63, 0⟩]⟩,
  ⟨"HBM_REPAIRED", 0x04000128, false, 0x0, .plain, 8, 0x10000, 1, 0x0, [⟨.ro, 31, 16⟩, ⟨.ro, 15, 0⟩]⟩,
  ⟨"VLT_PORT_STATUS", 0x04800000, true, 0x0, .status, 2, 0x10000, 1, 0x0, [⟨.ro, 44, 32⟩, ⟨.ro, 9, 0⟩]⟩,
  ⟨"VLT_PORT_POISON", 0x04800008, true, 0x0, .plain, 2, 0x10000, 1, 0x0, [⟨.ro, 63, 0⟩]⟩]

/-- Cores: Tables 3.11 to 3.13, 4.6, 4.7, 13.6 and 14.2. -/
def coreRegs : List RegSpec := [
  ⟨"CORE_STATUS", 0x08000000, false, 0x0, .status, 576, 0x10000, 1, 0x0, [⟨.ro, 24, 16⟩, ⟨.ro, 6, 0⟩]⟩,
  ⟨"CORE_FAULT", 0x08000010, false, 0x0, .plain, 576, 0x10000, 1, 0x0, [⟨.w1c, 31, 31⟩, ⟨.ro, 22, 16⟩, ⟨.ro, 7, 0⟩]⟩,
  ⟨"CORE_FAULT_ADDR", 0x08000018, true, 0x0, .plain, 576, 0x10000, 1, 0x0, [⟨.ro, 47, 0⟩]⟩,
  ⟨"CORE_FAULT_LOCAL", 0x08000020, false, 0x0, .plain, 576, 0x10000, 1, 0x0, [⟨.ro, 21, 0⟩]⟩,
  ⟨"CORE_WIDTH", 0x08000028, false, 0x40404040, .plain, 576, 0x10000, 1, 0x0, [⟨.ro, 31, 0⟩]⟩,
  ⟨"CORE_COLBAD", 0x08000030, true, 0x0, .plain, 576, 0x10000, 4, 0x8, [⟨.ro, 63, 0⟩]⟩,
  ⟨"CORE_M", 0x08000050, false, 0x0, .plain, 576, 0x10000, 1, 0x0, [⟨.ro, 23, 0⟩]⟩,
  ⟨"CORE_SPARSE_XOVER", 0x08000058, false, 0x26, .plain, 576, 0x10000, 1, 0x0, [⟨.rw, 6, 0⟩]⟩,
  ⟨"CORE_KEEP", 0x08000060, true, 0xFFFFFFFFFFFFFFFF, .plain, 576, 0x10000, 4, 0x8, [⟨.ro, 63, 0⟩]⟩,
  ⟨"CORE_OWNER", 0x08000080, false, 0x0, .status, 576, 0x10000, 1, 0x0, [⟨.ro, 10, 8⟩, ⟨.ro, 5, 0⟩]⟩,
  ⟨"CORE_CNT_CYCLE", 0x08000100, true, 0x0, .counter, 576, 0x10000, 1, 0x0, [⟨.ro, 63, 0⟩]⟩,
  ⟨"CORE_CNT_OPS", 0x08000108, true, 0x0, .counter, 576, 0x10000, 1, 0x0, [⟨.ro, 63, 0⟩]⟩,
  ⟨"CORE_CNT_ECC_CORR", 0x08000110, true, 0x0, .counter, 576, 0x10000, 1, 0x0, [⟨.ro, 63, 0⟩]⟩,
  ⟨"CORE_CNT_TD_RETIRED", 0x08000120, true, 0x0, .counter, 576, 0x10000, 1, 0x0, [⟨.ro, 63, 0⟩]⟩,
  ⟨"CORE_CNT_TD_WASTED", 0x08000128, true, 0x0, .counter, 576, 0x10000, 1, 0x0, [⟨.ro, 63, 0⟩]⟩,
  ⟨"CORE_CNT_TD_FRONT", 0x08000130, true, 0x0, .counter, 576, 0x10000, 1, 0x0, [⟨.ro, 63, 0⟩]⟩,
  ⟨"CORE_CNT_TD_BACK", 0x08000138, true, 0x0, .counter, 576, 0x10000, 1, 0x0, [⟨.ro, 63, 0⟩]⟩,
  ⟨"CORE_PMC", 0x08000180, true, 0x0, .plain, 576, 0x10000, 8, 0x8, [⟨.rw, 63, 0⟩]⟩,
  ⟨"CORE_PMSEL", 0x080001C0, false, 0x0, .plain, 576, 0x10000, 8, 0x8, [⟨.rw, 15, 15⟩, ⟨.rw, 14, 14⟩, ⟨.rw, 13, 8⟩, ⟨.rw, 7, 0⟩]⟩]

/-- The register map by blocks: each block's first and last offset (Table 0.5) and its registers. -/
def regBlocks : List (Nat × Nat × List RegSpec) := [
  (0x00000000, 0x000FFFFF, glbRegs), (0x00100000, 0x001FFFFF, mgmtRegs), (0x00200000, 0x002FFFFF, tbRegs),
  (0x00300000, 0x003FFFFF, pwrRegs), (0x00400000, 0x00FFFFFF, errRegs), (0x01000000, 0x01FFFFFF, ringRegs),
  (0x02000000, 0x02FFFFFF, reRegs), (0x03000000, 0x033FFFFF, fabRegs), (0x03400000, 0x037FFFFF, collRegs),
  (0x03800000, 0x03BFFFFF, poolRegs), (0x03C00000, 0x03FFFFFF, migRegs), (0x04000000, 0x07FFFFFF, hbmRegs),
  (0x08000000, 0x0FFFFFFF, coreRegs)]

/-- The instance of a register array whose first byte is at `off`, if any. -/
def RegSpec.locate (r : RegSpec) (off : Nat) : Option (Nat × Nat) :=
  let d := off - r.base
  let i := if r.s1 = 0 then 0 else min (d / r.s1) (r.n1 - 1)
  let e := d - i * r.s1
  let j := if r.s2 = 0 then 0 else min (e / r.s2) (r.n2 - 1)
  if r.base ≤ off ∧ d = i * r.s1 + j * r.s2 then some (i, j) else none

/-- The register that begins at `off`, with its instance numbers. -/
def regAt (off : Nat) : Option (RegSpec × Nat × Nat) :=
  match regBlocks.find? (fun b => b.1 ≤ off ∧ off ≤ b.2.1) with
  | none => none
  | some (_, _, rs) => rs.findSome? (fun r => (r.locate off).map (fun ij => (r, ij.1, ij.2)))

/-! Offsets by name; an array takes its instance numbers. -/

abbrev Reg.glbIdent : Nat := 0x00000000
abbrev Reg.glbResetStatus : Nat := 0x00000008
abbrev Reg.glbClkLock : Nat := 0x00000010
abbrev Reg.glbClkLoss : Nat := 0x00000018
abbrev Reg.glbBar2Base : Nat := 0x00000020
abbrev Reg.glbErrResp (i : Nat) : Nat := 0x00000030 + i * 0x8
abbrev Reg.glbResetCmd : Nat := 0x00000040
abbrev Reg.glbTherm : Nat := 0x00000048
abbrev Reg.glbThermDie : Nat := 0x00000050
abbrev Reg.glbCtxCmd : Nat := 0x00000100
abbrev Reg.glbCtxCntSwitch : Nat := 0x00000300
abbrev Reg.glbCtxCntPreempt : Nat := 0x00000308
abbrev Reg.glbCtxCntTeardown : Nat := 0x00000310
abbrev Reg.glbCtxState (i : Nat) : Nat := 0x00000400 + i * 0x8
abbrev Reg.glbCtxPerf : Nat := 0x00000600
abbrev Reg.msixAddrLo (i : Nat) : Nat := 0x00080000 + i * 0x10
abbrev Reg.msixAddrHi (i : Nat) : Nat := 0x00080004 + i * 0x10
abbrev Reg.msixData (i : Nat) : Nat := 0x00080008 + i * 0x10
abbrev Reg.msixCtrl (i : Nat) : Nat := 0x0008000C + i * 0x10
abbrev Reg.msixPba (i : Nat) : Nat := 0x00090000 + i * 0x8
abbrev Reg.mgmtCmd : Nat := 0x00100000
abbrev Reg.mgmtStatus : Nat := 0x00100008
abbrev Reg.mgmtArg (i : Nat) : Nat := 0x00100010 + i * 0x8
abbrev Reg.mgmtResultInfo : Nat := 0x00100030
abbrev Reg.mgmtCtrl : Nat := 0x00100038
abbrev Reg.mgmtMountId : Nat := 0x00100040
abbrev Reg.mgmtMountInfo : Nat := 0x00100048
abbrev Reg.mgmtMountVersion : Nat := 0x0010004C
abbrev Reg.mgmtFmtSupported : Nat := 0x00100050
abbrev Reg.mgmtSwapWait : Nat := 0x00100058
abbrev Reg.mgmtCap : Nat := 0x00100060
abbrev Reg.mgmtCapCluster (i : Nat) : Nat := 0x00100100 + i * 0x4
abbrev Reg.mgmtKeyHash (i : Nat) (j : Nat) : Nat := 0x00100200 + i * 0x30 + j * 0x8
abbrev Reg.mgmtL2p (i : Nat) : Nat := 0x00101000 + i * 0x4
abbrev Reg.tbCtrl : Nat := 0x00200000
abbrev Reg.tbStatus : Nat := 0x00200008
abbrev Reg.tbStroke : Nat := 0x00200010
abbrev Reg.tbMasterPlace : Nat := 0x00200018
abbrev Reg.tbTime : Nat := 0x00200020
abbrev Reg.tbTimeAdj : Nat := 0x00200028
abbrev Reg.tbClaspCfg : Nat := 0x00200030
abbrev Reg.tbClaspOpen : Nat := 0x00200038
abbrev Reg.tbBezelCtrl : Nat := 0x00200040
abbrev Reg.tbBezelPeriod0 : Nat := 0x00200048
abbrev Reg.tbBezelPeriod1 : Nat := 0x00200050
abbrev Reg.tbBezelStart : Nat := 0x00200058
abbrev Reg.tbBezelCount : Nat := 0x00200060
abbrev Reg.tbHmBase : Nat := 0x00200068
abbrev Reg.tbHmSlots : Nat := 0x00200070
abbrev Reg.tbHmHead : Nat := 0x00200078
abbrev Reg.tbHmTail : Nat := 0x0020007C
abbrev Reg.tbCntRecordBad : Nat := 0x00200100
abbrev Reg.tbCntReparent : Nat := 0x00200108
abbrev Reg.tbCntClaspLate : Nat := 0x00200110
abbrev Reg.tbCntBezelSkip : Nat := 0x00200118
abbrev Reg.tbCntHmWait : Nat := 0x00200120
abbrev Reg.tbCntHmDrop : Nat := 0x00200128
abbrev Reg.tbBezelEntry (i : Nat) (j : Nat) : Nat := 0x00201000 + i * 0x1000 + j * 0x8
abbrev Reg.pwrPrio : Nat := 0x00300000
abbrev Reg.pwrBudget (i : Nat) : Nat := 0x00300010 + i * 0x4
abbrev Reg.pwrBudget4 : Nat := 0x00300020
abbrev Reg.pwrDevBudget : Nat := 0x00300028
abbrev Reg.pwrRamp : Nat := 0x0030002C
abbrev Reg.pwrHeld (i : Nat) : Nat := 0x00300030 + i * 0x4
abbrev Reg.pwrReserved : Nat := 0x00300048
abbrev Reg.pwrStatus : Nat := 0x00300050
abbrev Reg.pwrCntGrants : Nat := 0x00300100
abbrev Reg.pwrCntWaitCycles : Nat := 0x00300108
abbrev Reg.pwrCntRampWindows : Nat := 0x00300110
abbrev Reg.pwrCntOverreserve : Nat := 0x00300118
abbrev Reg.errLogHead : Nat := 0x00400000
abbrev Reg.errLogTail : Nat := 0x00400008
abbrev Reg.errCntOverwritten : Nat := 0x00400010
abbrev Reg.errCntLost : Nat := 0x00400018
abbrev Reg.errLogEntry (i : Nat) (j : Nat) : Nat := 0x00401000 + i * 0x20 + j * 0x8
abbrev Reg.loupeCtrl : Nat := 0x00403000
abbrev Reg.loupeCmd : Nat := 0x00403008
abbrev Reg.loupeAt : Nat := 0x00403010
abbrev Reg.loupeStatus : Nat := 0x00403018
abbrev Reg.loupeStroke : Nat := 0x00403020
abbrev Reg.loupeSel : Nat := 0x00403028
abbrev Reg.loupeData : Nat := 0x00403030
abbrev Reg.loupeCntIgnored : Nat := 0x00403038
abbrev Reg.loupeErrMask (i : Nat) : Nat := 0x00403040 + i * 0x8
abbrev Reg.ringCtrl (i : Nat) : Nat := 0x01000000 + i * 0x1000
abbrev Reg.ringStatus (i : Nat) : Nat := 0x01000008 + i * 0x1000
abbrev Reg.ringSqBase (i : Nat) : Nat := 0x01000010 + i * 0x1000
abbrev Reg.ringCqBase (i : Nat) : Nat := 0x01000018 + i * 0x1000
abbrev Reg.ringSize (i : Nat) : Nat := 0x01000020 + i * 0x1000
abbrev Reg.ringSqTail (i : Nat) : Nat := 0x01000028 + i * 0x1000
abbrev Reg.ringSqHead (i : Nat) : Nat := 0x0100002C + i * 0x1000
abbrev Reg.ringCqHead (i : Nat) : Nat := 0x01000030 + i * 0x1000
abbrev Reg.ringCqTail (i : Nat) : Nat := 0x01000034 + i * 0x1000
abbrev Reg.ringStarve (i : Nat) : Nat := 0x01000038 + i * 0x1000
abbrev Reg.ringShapeRate (i : Nat) : Nat := 0x01000040 + i * 0x1000
abbrev Reg.ringShapeBurst (i : Nat) : Nat := 0x01000044 + i * 0x1000
abbrev Reg.ringCancel (i : Nat) : Nat := 0x01000048 + i * 0x1000
abbrev Reg.ringCancelStatus (i : Nat) : Nat := 0x0100004C + i * 0x1000
abbrev Reg.ringCntCmds (i : Nat) : Nat := 0x01000100 + i * 0x1000
abbrev Reg.ringCntGreen (i : Nat) : Nat := 0x01000108 + i * 0x1000
abbrev Reg.ringCntYellow (i : Nat) : Nat := 0x01000110 + i * 0x1000
abbrev Reg.ringCntPromoted (i : Nat) : Nat := 0x01000118 + i * 0x1000
abbrev Reg.ringCntDropped (i : Nat) : Nat := 0x01000120 + i * 0x1000
abbrev Reg.reCtrl (i : Nat) : Nat := 0x02000000 + i * 0x100000
abbrev Reg.reStatus (i : Nat) : Nat := 0x02000008 + i * 0x100000
abbrev Reg.reFault (i : Nat) : Nat := 0x02000010 + i * 0x100000
abbrev Reg.reFaultAddr (i : Nat) : Nat := 0x02000018 + i * 0x100000
abbrev Reg.reLayerTableBase (i : Nat) : Nat := 0x02000020 + i * 0x100000
abbrev Reg.reDirBase (i : Nat) : Nat := 0x02000028 + i * 0x100000
abbrev Reg.reShapeBase (i : Nat) : Nat := 0x02000030 + i * 0x100000
abbrev Reg.reKeothRing (i : Nat) : Nat := 0x02000038 + i * 0x100000
abbrev Reg.reKeothResume (i : Nat) : Nat := 0x0200003C + i * 0x100000
abbrev Reg.reKeothTimeout (i : Nat) : Nat := 0x02000040 + i * 0x100000
abbrev Reg.reStepSeq (i : Nat) : Nat := 0x02000048 + i * 0x100000
abbrev Reg.reCountTimeout (i : Nat) : Nat := 0x02000050 + i * 0x100000
abbrev Reg.reCntTokens (i : Nat) : Nat := 0x02000100 + i * 0x100000
abbrev Reg.reCntDropped (i : Nat) : Nat := 0x02000108 + i * 0x100000
abbrev Reg.reCntDiverted (i : Nat) : Nat := 0x02000110 + i * 0x100000
abbrev Reg.reCntNonfinite (i : Nat) : Nat := 0x02000118 + i * 0x100000
abbrev Reg.fabRtCtrl : Nat := 0x03000000
abbrev Reg.fabRtSelf : Nat := 0x03000008
abbrev Reg.fabRtTorus : Nat := 0x03000010
abbrev Reg.fabRtBlock : Nat := 0x03000018
abbrev Reg.fabVcWeight : Nat := 0x03000020
abbrev Reg.fabRtStatus : Nat := 0x03000028
abbrev Reg.fabMirrorCtrl : Nat := 0x03000040
abbrev Reg.fabMirrorDst : Nat := 0x03000048
abbrev Reg.fabMirrorMatch : Nat := 0x03000050
abbrev Reg.fabCntDeflected : Nat := 0x03000100
abbrev Reg.fabCntDisplaced : Nat := 0x03000108
abbrev Reg.fabCntGold : Nat := 0x03000110
abbrev Reg.fabCntTransit : Nat := 0x03000118
abbrev Reg.fabCntDropHdr : Nat := 0x03000120
abbrev Reg.fabCntDropRoute : Nat := 0x03000128
abbrev Reg.fabCntDropAge : Nat := 0x03000130
abbrev Reg.fabCntDropTransit : Nat := 0x03000138
abbrev Reg.fabCntInjectHeld : Nat := 0x03000140
abbrev Reg.fabCntMirror : Nat := 0x03000148
abbrev Reg.fabCntMirrorDrop : Nat := 0x03000150
abbrev Reg.fabCntBankCorr : Nat := 0x03000158
abbrev Reg.fabPortCtrl (i : Nat) : Nat := 0x03200000 + i * 0x10000
abbrev Reg.fabPortStatus (i : Nat) : Nat := 0x03200008 + i * 0x10000
abbrev Reg.fabPortLanes (i : Nat) : Nat := 0x03200010 + i * 0x10000
abbrev Reg.fabPortPeer (i : Nat) : Nat := 0x03200018 + i * 0x10000
abbrev Reg.fabPortDelay (i : Nat) : Nat := 0x03200020 + i * 0x10000
abbrev Reg.fabPortRetry (i : Nat) : Nat := 0x03200028 + i * 0x10000
abbrev Reg.fabPortLaneLimit (i : Nat) : Nat := 0x03200030 + i * 0x10000
abbrev Reg.fabPortRetrainInterval (i : Nat) : Nat := 0x03200038 + i * 0x10000
abbrev Reg.fabPortCntTxCells (i : Nat) : Nat := 0x03200100 + i * 0x10000
abbrev Reg.fabPortCntRxCells (i : Nat) : Nat := 0x03200108 + i * 0x10000
abbrev Reg.fabPortCntFecCorr (i : Nat) : Nat := 0x03200110 + i * 0x10000
abbrev Reg.fabPortCntFecUncorr (i : Nat) : Nat := 0x03200118 + i * 0x10000
abbrev Reg.fabPortCntNak (i : Nat) : Nat := 0x03200120 + i * 0x10000
abbrev Reg.fabPortCntReplays (i : Nat) : Nat := 0x03200128 + i * 0x10000
abbrev Reg.fabPortCntReplayed (i : Nat) : Nat := 0x03200130 + i * 0x10000
abbrev Reg.fabPortCntReinjected (i : Nat) : Nat := 0x03200138 + i * 0x10000
abbrev Reg.fabPortCntRetrains (i : Nat) : Nat := 0x03200140 + i * 0x10000
abbrev Reg.fabPortCntDown (i : Nat) : Nat := 0x03200148 + i * 0x10000
abbrev Reg.fabPortCntBadAck (i : Nat) : Nat := 0x03200150 + i * 0x10000
abbrev Reg.fabPortCntReqMerged (i : Nat) : Nat := 0x03200158 + i * 0x10000
abbrev Reg.fabPortCntLaneCorr (i : Nat) (j : Nat) : Nat := 0x03200200 + i * 0x10000 + j * 0x8
abbrev Reg.fabSweep : Nat := 0x03260000
abbrev Reg.fabLinkVers : Nat := 0x03260008
abbrev Reg.collCtrl : Nat := 0x03400000
abbrev Reg.collStatus : Nat := 0x03400008
abbrev Reg.collTimeout : Nat := 0x03400010
abbrev Reg.filDupHold : Nat := 0x03400018
abbrev Reg.collCntOpened : Nat := 0x03400100
abbrev Reg.collCntFailed : Nat := 0x03400108
abbrev Reg.collCntTxCells : Nat := 0x03400110
abbrev Reg.collCntRxCells : Nat := 0x03400118
abbrev Reg.collCntDup : Nat := 0x03400120
abbrev Reg.collCntStale : Nat := 0x03400128
abbrev Reg.collCntVersion : Nat := 0x03400130
abbrev Reg.filCntTx : Nat := 0x03400138
abbrev Reg.filCntDup : Nat := 0x03400140
abbrev Reg.filCntStale : Nat := 0x03400148
abbrev Reg.filCntBad : Nat := 0x03400150
abbrev Reg.memCtrl : Nat := 0x03401000
abbrev Reg.memExportBase : Nat := 0x03401008
abbrev Reg.memExportSize : Nat := 0x03401010
abbrev Reg.memReplMap : Nat := 0x03401018
abbrev Reg.memReplPool : Nat := 0x03401020
abbrev Reg.memReplTtl : Nat := 0x03401028
abbrev Reg.memTimeout : Nat := 0x03401030
abbrev Reg.memCntReq : Nat := 0x03401100
abbrev Reg.memCntDup : Nat := 0x03401108
abbrev Reg.memCntInval : Nat := 0x03401110
abbrev Reg.memCntReplHit : Nat := 0x03401118
abbrev Reg.memCntReplDrop : Nat := 0x03401120
abbrev Reg.poolCtrl : Nat := 0x03800000
abbrev Reg.poolStatus : Nat := 0x03800008
abbrev Reg.poolFault : Nat := 0x03800010
abbrev Reg.poolFaultAddr : Nat := 0x03800018
abbrev Reg.poolTagBase : Nat := 0x03800020
abbrev Reg.poolAuditPeriod : Nat := 0x03800028
abbrev Reg.poolLeakAddr : Nat := 0x03800030
abbrev Reg.poolClassBase (i : Nat) : Nat := 0x03800100 + i * 0x20
abbrev Reg.poolClassPart (i : Nat) : Nat := 0x03800108 + i * 0x20
abbrev Reg.poolClassFree (i : Nat) : Nat := 0x03800110 + i * 0x20
abbrev Reg.poolClassSpare (i : Nat) : Nat := 0x03800118 + i * 0x20
abbrev Reg.poolCntAlloc : Nat := 0x03800200
abbrev Reg.poolCntFree : Nat := 0x03800208
abbrev Reg.poolCntEmpty : Nat := 0x03800210
abbrev Reg.poolCntLeak : Nat := 0x03800218
abbrev Reg.poolCntRebuilt : Nat := 0x03800220
abbrev Reg.poolCntStale : Nat := 0x03800228
abbrev Reg.poolClassFreehi (i : Nat) : Nat := 0x03800300 + i * 0x8
abbrev Reg.migCtrl : Nat := 0x03C00000
abbrev Reg.migStatus : Nat := 0x03C00008
abbrev Reg.migFault : Nat := 0x03C00010
abbrev Reg.migFaultAddr : Nat := 0x03C00018
abbrev Reg.migTdirBase : Nat := 0x03C00020
abbrev Reg.migXtabBase : Nat := 0x03C00028
abbrev Reg.migStreamBase : Nat := 0x03C00030
abbrev Reg.migStreamCtrl : Nat := 0x03C00038
abbrev Reg.migStreamPool : Nat := 0x03C00040
abbrev Reg.migCachePool : Nat := 0x03C00048
abbrev Reg.migKvSeqBase : Nat := 0x03C00050
abbrev Reg.migVaultSize : Nat := 0x03C00058
abbrev Reg.migCntFetchDemand : Nat := 0x03C00100
abbrev Reg.migCntFetchStage : Nat := 0x03C00108
abbrev Reg.migCntFetchPred : Nat := 0x03C00110
abbrev Reg.migCntWriteback : Nat := 0x03C00118
abbrev Reg.migCntMiss : Nat := 0x03C00120
abbrev Reg.migCntHintQueued : Nat := 0x03C00128
abbrev Reg.migCntHintFull : Nat := 0x03C00130
abbrev Reg.migCntHintPresent : Nat := 0x03C00138
abbrev Reg.migCntHintInvalid : Nat := 0x03C00140
abbrev Reg.migCntHintIdle : Nat := 0x03C00148
abbrev Reg.migCntHintUsed : Nat := 0x03C00150
abbrev Reg.migCntXtabInvalid : Nat := 0x03C00158
abbrev Reg.migCntKvRefused : Nat := 0x03C00160
abbrev Reg.migKvQuota (i : Nat) : Nat := 0x03C01000 + i * 0x8
abbrev Reg.migKvReserved (i : Nat) : Nat := 0x03C01200 + i * 0x8
abbrev Reg.hbmCntRead (i : Nat) : Nat := 0x04000100 + i * 0x10000
abbrev Reg.hbmCntWrite (i : Nat) : Nat := 0x04000108 + i * 0x10000
abbrev Reg.hbmCntCross (i : Nat) : Nat := 0x04000110 + i * 0x10000
abbrev Reg.hbmCntCorr (i : Nat) : Nat := 0x04000118 + i * 0x10000
abbrev Reg.hbmCntUncorr (i : Nat) : Nat := 0x04000120 + i * 0x10000
abbrev Reg.hbmRepaired (i : Nat) : Nat := 0x04000128 + i * 0x10000
abbrev Reg.vltPortStatus (i : Nat) : Nat := 0x04800000 + i * 0x10000
abbrev Reg.vltPortPoison (i : Nat) : Nat := 0x04800008 + i * 0x10000
abbrev Reg.coreStatus (i : Nat) : Nat := 0x08000000 + i * 0x10000
abbrev Reg.coreFault (i : Nat) : Nat := 0x08000010 + i * 0x10000
abbrev Reg.coreFaultAddr (i : Nat) : Nat := 0x08000018 + i * 0x10000
abbrev Reg.coreFaultLocal (i : Nat) : Nat := 0x08000020 + i * 0x10000
abbrev Reg.coreWidth (i : Nat) : Nat := 0x08000028 + i * 0x10000
abbrev Reg.coreColbad (i : Nat) (j : Nat) : Nat := 0x08000030 + i * 0x10000 + j * 0x8
abbrev Reg.coreM (i : Nat) : Nat := 0x08000050 + i * 0x10000
abbrev Reg.coreSparseXover (i : Nat) : Nat := 0x08000058 + i * 0x10000
abbrev Reg.coreKeep (i : Nat) (j : Nat) : Nat := 0x08000060 + i * 0x10000 + j * 0x8
abbrev Reg.coreOwner (i : Nat) : Nat := 0x08000080 + i * 0x10000
abbrev Reg.coreCntCycle (i : Nat) : Nat := 0x08000100 + i * 0x10000
abbrev Reg.coreCntOps (i : Nat) : Nat := 0x08000108 + i * 0x10000
abbrev Reg.coreCntEccCorr (i : Nat) : Nat := 0x08000110 + i * 0x10000
abbrev Reg.coreCntTdRetired (i : Nat) : Nat := 0x08000120 + i * 0x10000
abbrev Reg.coreCntTdWasted (i : Nat) : Nat := 0x08000128 + i * 0x10000
abbrev Reg.coreCntTdFront (i : Nat) : Nat := 0x08000130 + i * 0x10000
abbrev Reg.coreCntTdBack (i : Nat) : Nat := 0x08000138 + i * 0x10000
abbrev Reg.corePmc (i : Nat) (j : Nat) : Nat := 0x08000180 + i * 0x10000 + j * 0x8
abbrev Reg.corePmsel (i : Nat) (j : Nat) : Nat := 0x080001C0 + i * 0x10000 + j * 0x8

end Sys2Proof.Machine
end

