-- ==== Sys2Proof/Machine/Ops.lean ====
section
/-! DEFINITION. The named operations over bytes, sparse tables, memories, registers, places, messages and the error log
that every meaning is written with. -/

namespace Sys2Proof.Machine

/-! Words and bytes (R13: little-endian, bit 0 least significant). -/

/-- Bits hi to lo of a word. -/
def bitsOf (v hi lo : Nat) : Nat := v / 2 ^ lo % 2 ^ (hi + 1 - lo)

/-- Bit i of a word. -/
def bitOf (v i : Nat) : Bool := v / 2 ^ i % 2 = 1

/-- A word with bits hi to lo replaced. -/
def setBits (v hi lo x : Nat) : Nat :=
  v - bitsOf v hi lo * 2 ^ lo + x % 2 ^ (hi + 1 - lo) * 2 ^ lo

/-- 1 for true. -/
def b2n (b : Bool) : Nat := if b then 1 else 0

/-- The value of bytes, least significant first. -/
def leNat : List Byte → Nat
  | [] => 0
  | b :: bs => b.toNat + 256 * leNat bs

/-- The n low bytes of a value, least significant first. -/
def toLe : Nat → Nat → List Byte
  | 0, _ => []
  | n + 1, v => BitVec.ofNat 8 v :: toLe n (v / 256)

/-- Field [hi:lo] of the little-endian word that starts at byte `off`. -/
def fldOf (bs : List Byte) (off hi lo : Nat) : Nat := bitsOf (leNat ((bs.drop off).take 8)) hi lo

/-- The integer that n bits spell in two's complement. -/
def toInt (n v : Nat) : Int := if v % 2 ^ n < 2 ^ (n - 1) then (v % 2 ^ n : Nat) else (v % 2 ^ n : Nat) - (2 ^ n : Nat)

/-- The n-bit two's complement word of an integer. -/
def ofInt (n : Nat) (v : Int) : Nat := (v % (2 ^ n : Nat)).toNat

/-- Bytes padded with zeros or cut to a length. -/
def padTo (n : Nat) (bs : List Byte) : List Byte := (bs ++ List.replicate (n - bs.length) 0).take n

/-- Bytes cut into pieces of n; `fuel` bounds their number. -/
def chunks {α : Type} (n : Nat) : Nat → List α → List (List α)
  | 0, _ => []
  | fuel + 1, xs => if xs.isEmpty then [] else xs.take n :: chunks n fuel (xs.drop n)

/-- Insert into a list that a relation orders, after the elements it ties with. -/
def insertBy {α : Type} (before : α → α → Bool) (x : α) : List α → List α
  | [] => [x]
  | y :: ys => if before x y then x :: y :: ys else y :: insertBy before x ys

/-- Stable sort by a strict order. -/
def sortBy {α : Type} (before : α → α → Bool) : List α → List α
  | [] => []
  | x :: xs => insertBy (fun a b => !before b a) x (sortBy before xs)

/-- The sum of a function over a list. -/
def sumBy {α : Type} (f : α → Nat) (xs : List α) : Nat := xs.foldl (fun n x => n + f x) 0

/-- Replace the elements that a test selects. -/
def updWhere {α : Type} (p : α → Bool) (f : α → α) (xs : List α) : List α := xs.map (fun x => if p x then f x else x)

/-! Sparse tables. -/

/-- The value at a key. -/
def tabGet {α : Type} (dflt : α) : Tab α → Nat → α
  | [], _ => dflt
  | (k', v) :: t, k => if k' = k then v else tabGet dflt t k

/-- A table without a key. -/
def tabErase {α : Type} (k : Nat) (t : Tab α) : Tab α := t.filter (fun e => e.1 ≠ k)

/-- Enter a key in its place. -/
def tabInsert {α : Type} (k : Nat) (v : α) : Tab α → Tab α
  | [] => [(k, v)]
  | (k', v') :: t => if k < k' then (k, v) :: (k', v') :: t else (k', v') :: tabInsert k v t

/-- Set the value at a key; the value of unlisted keys is not stored. -/
def tabSet {α : Type} [DecidableEq α] (dflt : α) (t : Tab α) (k : Nat) (v : α) : Tab α :=
  if v = dflt then tabErase k t else tabInsert k v (tabErase k t)

/-! Byte memories: an unlisted byte reads as zero (log entry 1). -/

/-- One byte. -/
def memByte (m : Mem) (a : Nat) : Byte := tabGet 0 m a

/-- Write one byte. -/
def memSet (m : Mem) (a : Nat) (b : Byte) : Mem := tabSet 0 m a b

/-- n bytes from an address. -/
def memRead (m : Mem) (a n : Nat) : List Byte := (List.range n).map (fun i => memByte m (a + i))

/-- Write bytes from an address on. -/
def memWrite (m : Mem) (a : Nat) : List Byte → Mem
  | [] => m
  | b :: bs => memWrite (memSet m a b) (a + 1) bs

/-- The little-endian word of n bytes at an address. -/
def memNat (m : Mem) (a n : Nat) : Nat := leNat (memRead m a n)

/-- Bytes [a, a + n) become zero. -/
def memClear (m : Mem) (a n : Nat) : Mem := m.filter (fun e => !(a ≤ e.1 && e.1 < a + n))

/-- Bytes [da, da + n) of one memory become bytes [sa, sa + n) of another. -/
def memCopy (dst : Mem) (da : Nat) (src : Mem) (sa n : Nat) : Mem :=
  (src.filter (fun e => sa ≤ e.1 && e.1 < sa + n)).foldl (fun m e => memSet m (da + (e.1 - sa)) e.2) (memClear dst da n)

/-- Every address listed once, in rising order, and no zero listed. -/
def Memory.wf : Mem → Bool
  | [] => true
  | [e] => decide (e.2 ≠ 0)
  | e :: f :: t => decide (e.2 ≠ 0) && decide (e.1 < f.1) && Memory.wf (f :: t)

/-! Registers. -/

/-- The reset value of the register at an offset (R18). -/
def regReset (off : Nat) : W64 :=
  match regAt off with
  | some (r, _, _) => BitVec.ofNat 64 r.reset
  | none => 0

/-- The stored value of the register at an offset. -/
def Blocks.rd (b : Blocks) (off : Nat) : Nat := (tabGet (regReset off) b.regs off).toNat

/-- Field [hi:lo] of a register. -/
def Blocks.fld (b : Blocks) (off hi lo : Nat) : Nat := bitsOf (b.rd off) hi lo

/-- Bit i of a register. -/
def Blocks.flag (b : Blocks) (off i : Nat) : Bool := bitOf (b.rd off) i

/-- Set a register. -/
def Dev.wr (d : Dev) (off v : Nat) : Dev := { d with regs := tabSet (regReset off) d.regs off (BitVec.ofNat 64 v) }

/-- Set a field of a register. -/
def Dev.wrFld (d : Dev) (off hi lo v : Nat) : Dev := d.wr off (setBits (d.rd off) hi lo v)

/-- Add to a counter, modulo 2^64 (R334). -/
def Dev.bump (d : Dev) (off n : Nat) : Dev := d.wr off ((d.rd off + n) % 2 ^ 64)

/-- A register back at its reset value. -/
def Dev.unset (d : Dev) (off : Nat) : Dev := { d with regs := tabErase off d.regs }

/-- The registers with offsets in [lo, hi) back at their reset values. -/
def Dev.unsetRange (d : Dev) (lo hi : Nat) : Dev := { d with regs := d.regs.filter (fun e => !(lo ≤ e.1 && e.1 < hi)) }

/-- A value that the specification leaves open (log entry 3). -/
def Dev.fresh (d : Dev) : W64 × Dev := (Config.freeValue d.freeUsed, { d with freeUsed := d.freeUsed + 1 })

/-- The fields of a block by number. -/
def Blocks.ring (b : Blocks) (i : Nat) : Ring := tabGet {} b.rings i

/-- A context by number. -/
def Blocks.ctx (b : Blocks) (c : Nat) : Ctx := tabGet {} b.ctxs c

/-- A physical core by number. -/
def Blocks.core (b : Blocks) (p : Nat) : Core := tabGet {} b.cores p

/-- An optical port by number. -/
def Blocks.optPort (b : Blocks) (n : Nat) : OptPort := tabGet {} b.ports n

/-- Change a ring. -/
def Dev.modRing (d : Dev) (i : Nat) (f : Ring → Ring) : Dev := { d with rings := tabSet {} d.rings i (f (d.ring i)) }

/-- Change a context. -/
def Dev.modCtx (d : Dev) (c : Nat) (f : Ctx → Ctx) : Dev := { d with ctxs := tabSet {} d.ctxs c (f (d.ctx c)) }

/-- Change a core. -/
def Dev.modCore (d : Dev) (p : Nat) (f : Core → Core) : Dev := { d with cores := tabSet {} d.cores p (f (d.core p)) }

/-- Change an optical port. -/
def Dev.modPort (d : Dev) (n : Nat) (f : OptPort → OptPort) : Dev := { d with ports := tabSet {} d.ports n (f (d.optPort n)) }

/-- What the device does only while it runs: not in reset, tripped, or starting (R357, R358, R366). -/
def Dev.live (d : Dev) (f : Dev → Dev) : Dev := if d.glb.phase = .running then f d else d

/-- The stroke counter (R250). -/
def Blocks.stroke (b : Blocks) : Nat := b.rd Reg.tbStroke

/-- Logical cores per cluster of the grade (Table 0.1). -/
def gradeLc : Grade → Nat
  | .t512 => 16
  | .t448 => 14

/-- Logical cores per cluster under the loaded Mount. -/
def Blocks.lc (b : Blocks) : Nat :=
  match b.mgmt.mount with
  | some m => m.lc
  | none => gradeLc b.grade

/-- The cluster of a physical core (R21). -/
def clusterOf (p : Nat) : Nat := p / 18

/-- The physical core that serves a logical core (R22). -/
def Blocks.physOf (b : Blocks) (l : Nat) : Option Nat :=
  (List.range 18).findSome? (fun s =>
    let p := 18 * (l / b.lc) + s
    if (b.core p).slot = some (l % b.lc) then some p else none)

/-- The logical core that a physical core serves. -/
def Blocks.logOf (b : Blocks) (p : Nat) : Option Nat := (b.core p).slot.map (fun j => b.lc * clusterOf p + j)

/-! Places and the job block (R39, R194, R195). -/

/-- A place of SYSTEM, X, Y, Z: bits [31:12] of an address. -/
structure Place where
  sys : Nat
  x : Nat
  y : Nat
  z : Nat
  deriving DecidableEq, Repr

/-- The device place of a place address. -/
def placeOf (a : Nat) : Place := ⟨bitsOf a 31 24, bitsOf a 23 20, bitsOf a 19 16, bitsOf a 15 12⟩

/-- The place address of an endpoint. -/
def addrOf (p : Place) (cls idx : Nat) : Nat := p.sys * 2 ^ 24 + p.x * 2 ^ 20 + p.y * 2 ^ 16 + p.z * 2 ^ 12 + cls * 2 ^ 8 + idx

/-- The local device place. -/
def Blocks.self (b : Blocks) : Place := placeOf (b.rd Reg.fabRtSelf)

/-- Block extents. -/
def Blocks.bx (b : Blocks) : Nat := b.fld Reg.fabRtBlock 19 16 + 1
/-- Block extent on Y. -/
def Blocks.by_ (b : Blocks) : Nat := b.fld Reg.fabRtBlock 23 20 + 1
/-- Block extent on Z. -/
def Blocks.bz (b : Blocks) : Nat := b.fld Reg.fabRtBlock 27 24 + 1

/-- Offsets of a place from the block origin, modulo 16. -/
def Blocks.offs (b : Blocks) (p : Place) : Nat × Nat × Nat :=
  ((p.x + 16 - b.fld Reg.fabRtBlock 3 0) % 16, (p.y + 16 - b.fld Reg.fabRtBlock 7 4) % 16,
   (p.z + 16 - b.fld Reg.fabRtBlock 11 8) % 16)

/-- The devices of the job block. -/
def Blocks.blockN (b : Blocks) : Nat := b.bx * b.by_ * b.bz

/-- The place lies in the local job block. -/
def Blocks.inBlock (b : Blocks) (p : Place) : Bool :=
  let (x, y, z) := b.offs p
  p.sys = b.self.sys && x < b.bx && y < b.by_ && z < b.bz

/-- The block index of a place (R39). -/
def Blocks.indexOf (b : Blocks) (p : Place) : Nat :=
  let (x, y, z) := b.offs p
  x + b.bx * (y + b.by_ * z)

/-- The block index of this device. -/
def Blocks.me (b : Blocks) : Nat := b.indexOf b.self

/-- The place of a block index. -/
def Blocks.placeAt (b : Blocks) (i : Nat) : Place :=
  ⟨b.self.sys, (b.fld Reg.fabRtBlock 3 0 + i % b.bx) % 16, (b.fld Reg.fabRtBlock 7 4 + i / b.bx % b.by_) % 16,
   (b.fld Reg.fabRtBlock 11 8 + i / b.bx / b.by_) % 16⟩

/-! Filigree messages (R226, R227). -/

/-- Hand a message to the Filigree controller; one to this device never crosses a link. -/
def Dev.filSend (d : Dev) (typ key sub : Nat) (data : List Byte) (dest : Nat) : Dev :=
  let m : FilMsg := { typ := typ, src := d.me, key := key, sub := sub, stamp := d.stroke, data := data,
                      dst := BitVec.ofNat 32 (addrOf (d.placeAt dest) 2 0) }
  if dest = d.me then { d with fil := { d.fil with rx := d.fil.rx ++ [m] } }
  else { d with fil := { d.fil with tx := d.fil.tx ++ [m] } }

/-- Hand a message for every other device of the block to the controller, in block index order. -/
def Dev.filBroadcast (d : Dev) (typ key sub : Nat) (data : List Byte) : Dev :=
  (List.range d.blockN).foldl (fun d i => if i = d.me then d else d.filSend typ key sub data i) d

/-! Loupe and error log (R340 to R345). -/

/-- A Loupe trigger: latch every shadow while armed, else count the trigger (R340). A further source in the hub cycle of the latch
lends its code to SOURCE if it is lower, and latches and counts nothing (R341). -/
def Dev.snapshot (d : Dev) (source err id : Nat) (late : Bool) : Dev :=
  if d.obs.armed then
    ({ d with snap := some d.toBlocks,
              obs := { d.obs with armed := false, held := true, source := source, errCode := err, id := id, late := late,
                                  latchedAt := some d.glb.hubNow } }).wr
      Reg.loupeStroke d.stroke
  else if d.obs.latchedAt = some d.glb.hubNow ∧ source ≠ d.obs.source then
    if source < d.obs.source then { d with obs := { d.obs with source := source, errCode := err, id := id, late := late } } else d
  else d.bump Reg.loupeCntIgnored 1

/-- An error trigger (R341 source 2) with its broadcast (R342). -/
def Dev.errorTrigger (d : Dev) (code : Nat) : Dev :=
  if d.flag Reg.loupeCtrl 0 && bitOf (d.rd (Reg.loupeErrMask (code / 64))) (code % 64) then
    let sent := if d.flag Reg.loupeCtrl 1 && d.obs.armed then
        d.filBroadcast 6 d.obs.cmdId 1 (toLe 8 (d.stroke + d.fld Reg.loupeCtrl 15 8))
      else d
    sent.snapshot 2 code d.obs.cmdId false
  else d

/-- The order in which entries are offered to the staging FIFO: by hub cycle, then DOMAIN, then UNIT (R345). -/
def LogEntry.before (x y : LogEntry) : Bool :=
  decide (x.cycle < y.cycle) || (x.cycle = y.cycle && (decide (x.domain < y.domain) || (x.domain = y.domain && decide (x.unit < y.unit))))

/-- A fault, event or access is detected (R344): its entry waits at its block, with the stroke, the time and the hub cycle. -/
def Dev.log (d : Dev) (e : LogEntry) : Dev :=
  let e : LogEntry := { e with addr := e.addr % 2 ^ 48, stroke := BitVec.ofNat 64 d.stroke,
                               time := BitVec.ofNat 64 (d.rd Reg.tbTime), cycle := d.glb.hubNow }
  { d with obs := { d.obs with waiting := insertBy LogEntry.before e d.obs.waiting } }

/-- An entry's turn: it enters the staging FIFO and may trigger the Loupe, or finds 64 there and is lost (R341, R345). -/
def Dev.stageEntry (d : Dev) (e : LogEntry) : Dev :=
  if d.obs.fifo.length < 64 then ({ d with obs := { d.obs with fifo := d.obs.fifo ++ [e] } } : Dev).errorTrigger e.code
  else d.bump Reg.errCntLost 1

/-- A hub cycle of the staging FIFO: up to 4 of the entries that wait have their turn (R345). -/
def Dev.logIntake (d : Dev) : Dev :=
  (d.obs.waiting.take 4).foldl Dev.stageEntry { d with obs := { d.obs with waiting := d.obs.waiting.drop 4 } }

/-! Answers of the management ports (R346). -/

/-- What a port has of its own. -/
def Blocks.bus (b : Blocks) (p : MPort) : BusPort :=
  match p with
  | .host => b.hostPort
  | .i3c => b.i3cPort

/-- Change what a port has of its own. -/
def Dev.modBus (d : Dev) (p : MPort) (f : BusPort → BusPort) : Dev :=
  match p with
  | .host => { d with hostPort := f d.hostPort }
  | .i3c => { d with i3cPort := f d.i3cPort }

/-- The port answers. A device that the access has put into reset answers nothing. -/
def Dev.answer (d : Dev) (p : MPort) (a : Answer) : Dev :=
  if d.glb.phase = .running then d.modBus p (fun x => { x with answer := a }) else d

/-- An error response (R346): the error log, GLB_ERR_RESP unless it holds an earlier one, and the answer. `bar2` selects KIND 1. -/
def Dev.errResp (d : Dev) (p : MPort) (resp addr bytes : Nat) (bar2 : Bool) : Dev :=
  let port := if p = .host then 0 else 1
  let d := d.log { code := 0xC0 + resp, port := port, domain := if p = .host then 55 else 36, addr := addr,
                   kind := if bar2 then 1 else 2, resp := resp }
  let d := if d.flag (Reg.glbErrResp port) 63 then d
           else d.wr (Reg.glbErrResp port) (2 ^ 63 + resp * 2 ^ 52 + b2n bar2 * 2 ^ 48 + addr % 2 ^ 48)
  d.answer p (.error resp bytes)

/-- The requester of a BAR2 access, in place of a context. -/
def bar2Who : Nat := 64

end Sys2Proof.Machine
end

