-- ==== Sys2Proof/Machine/Crypto.lean ====
section
/-! DEFINITION. The check values and signatures of the device: CRC-64 of the Hallmark (R263), SHA-384 and ECDSA on P-384 of the Mount image
(R273, FIPS 180-4, FIPS 186-5). -/

namespace Sys2Proof.Machine

/-! CRC-64 (R263). -/

/-- The ECMA-182 polynomial. -/
def crcPoly : W64 := 0x42F0E1EBA9EA3693

/-- One bit, most significant first. -/
def crcBit (c : W64) : W64 := if c.msb then (c <<< 1) ^^^ crcPoly else c <<< 1

/-- One byte. -/
def crcByte (c : W64) (b : Byte) : W64 := (List.range 8).foldl (fun c _ => crcBit c) (c ^^^ (b.setWidth 64 <<< 56))

/-- The running state of a CRC over bytes. -/
def crcRun (c : W64) (bs : List Byte) : W64 := bs.foldl crcByte c

/-- The Hallmark value of a byte stream. -/
def crc64 (bs : List Byte) : Nat := (crcRun (BitVec.allOnes 64) bs ^^^ BitVec.allOnes 64).toNat

/-! SHA-384 (FIPS 180-4). -/

/-- The n words of 64 bits that a number spells, the most significant first. -/
def wordsOf : Nat → Nat → List W64
  | 0, _ => []
  | n + 1, v => BitVec.ofNat 64 (v / 2 ^ (64 * n)) :: wordsOf n v

/-- The round constants of FIPS 180-4 section 4.2.3, five to a number: 64 bits of the fraction of the cube roots of the first 80 primes. -/
def shaRows : List Nat :=
  [0x428a2f98d728ae227137449123ef65cdb5c0fbcfec4d3b2fe9b5dba58189dbbc3956c25bf348b538,
   0x59f111f1b605d019923f82a4af194f9bab1c5ed5da6d8118d807aa98a303024212835b0145706fbe,
   0x243185be4ee4b28c550c7dc3d5ffb4e272be5d74f27b896f80deb1fe3b1696b19bdc06a725c71235,
   0xc19bf174cf692694e49b69c19ef14ad2efbe4786384f25e30fc19dc68b8cd5b5240ca1cc77ac9c65,
   0x2de92c6f592b02754a7484aa6ea6e4835cb0a9dcbd41fbd476f988da831153b5983e5152ee66dfab,
   0xa831c66d2db43210b00327c898fb213fbf597fc7beef0ee4c6e00bf33da88fc2d5a79147930aa725,
   0x06ca6351e003826f142929670a0e6e7027b70a8546d22ffc2e1b21385c26c9264d2c6dfc5ac42aed,
   0x53380d139d95b3df650a73548baf63de766a0abb3c77b2a881c2c92e47edaee692722c851482353b]

/-- The other half of the round constants. -/
def shaRows' : List Nat :=
  [0xa2bfe8a14cf10364a81a664bbc423001c24b8b70d0f89791c76c51a30654be30d192e819d6ef5218,
   0xd69906245565a910f40e35855771202a106aa07032bbd1b819a4c116b8d2d0c81e376c085141ab53,
   0x2748774cdf8eeb9934b0bcb5e19b48a8391c0cb3c5c95a634ed8aa4ae3418acb5b9cca4f7763e373,
   0x682e6ff3d6b2b8a3748f82ee5defb2fc78a5636f43172f6084c87814a1f0ab728cc702081a6439ec,
   0x90befffa23631e28a4506cebde82bde9bef9a3f7b2c67915c67178f2e372532bca273eceea26619c,
   0xd186b8c721c0c207eada7dd6cde0eb1ef57d4f7fee6ed17806f067aa72176fba0a637dc5a2c898a6,
   0x113f9804bef90dae1b710b35131c471b28db77f523047d8432caab7b40c724933c9ebe0a15c9bebc,
   0x431d67c49c100d4c4cc5d4becb3e42b6597f299cfc657e2a5fcb6fab3ad6faec6c44198c4a475817]

/-- The round constants in order. -/
def shaK : List W64 := (shaRows ++ shaRows').flatMap (wordsOf 5)

/-- The initial hash value of SHA-384 (section 5.3.4), as one number: H0 to H7. -/
def shaInit : List W64 :=
  wordsOf 4 0xcbbb9d5dc1059ed8629a292a367cd5079159015a3070dd17152fecd8f70e5939 ++
  wordsOf 4 0x67332667ffc00b318eb44a8768581511db0c2e0d64f98fa747b5481dbefa4fa4

/-- A word turned right by each of some numbers of places, summed without carry, and added so to another word. -/
def turned (x : W64) (places : List Nat) (y : W64) : W64 := places.foldl (fun s n => s ^^^ x.rotateRight n) y

/-- Where the bits of x choose between those of y and of z: Ch of section 4.1.3. -/
def shaPick (x y z : W64) : W64 := z ^^^ (x &&& (y ^^^ z))

/-- What two of three words agree on: Maj of section 4.1.3. -/
def shaMost (x y z : W64) : W64 := (x &&& (y ||| z)) ||| (y &&& z)

/-- The big-endian value of bytes. -/
def beNat (bs : List Byte) : Nat := leNat bs.reverse

/-- The low n bytes of a value, most significant first. -/
def toBe (n v : Nat) : List Byte := (toLe n v).reverse

/-- The message schedule: the words so far, newest first, grow by one word at a time (section 6.4.2, step 1). -/
def shaSchedule : Nat → List W64 → List W64
  | 0, ws => ws
  | n + 1, ws =>
    let near := ws.getD 1 0
    let far := ws.getD 14 0
    let w := turned far [1, 8] (far >>> 7) + ws.getD 15 0 + (turned near [19, 61] (near >>> 6) + ws.getD 6 0)
    shaSchedule n (w :: ws)

/-- One round on the eight working words (section 6.4.2, step 3). -/
def shaRound (s : List W64) (kw : W64 × W64) : List W64 :=
  match s with
  | [a, b, c, d, e, f, g, h] =>
    let mix := kw.1 + kw.2 + h + turned e [14, 18, 41] 0 + shaPick e f g
    [mix + turned a [28, 34, 39] 0 + shaMost a b c, a, b, c, d + mix, e, f, g]
  | _ => s

/-- One 128-byte block. -/
def shaBlock (s : List W64) (block : List Byte) : List W64 :=
  let ws := (chunks 8 16 block).map (fun x => BitVec.ofNat 64 (beNat x))
  List.zipWith (fun x y => x + y) s ((shaK.zip (shaSchedule 64 ws.reverse).reverse).foldl shaRound s)

/-- The padded message. -/
def shaPad (bs : List Byte) : List Byte :=
  let n := bs.length
  bs ++ [0x80] ++ List.replicate ((128 + 112 - (n + 1) % 128) % 128) 0 ++ toBe 16 (8 * n)

/-- SHA-384: 48 bytes. -/
def sha384 (bs : List Byte) : List Byte :=
  let m := shaPad bs
  (((chunks 128 (m.length / 128) m).foldl shaBlock shaInit).take 6).flatMap (fun w => toBe 8 w.toNat)

/-! ECDSA on P-384 (FIPS 186-5). -/

/-- The field prime. -/
def p384 : Nat := 2 ^ 384 - 2 ^ 128 - 2 ^ 96 + 2 ^ 32 - 1

/-- The curve coefficient b. -/
def p384b : Nat := 0xb3312fa7e23ee7e4988e056be3f82d19181d9c6efe8141120314088f5013875ac656398d8a2ed19d2a85c8edd3ec2aef

/-- The group order. -/
def p384n : Nat := 0xffffffffffffffffffffffffffffffffffffffffffffffffc7634d81f4372ddf581a0db248b0a77aecec196accc52973

/-- The base point. -/
def p384g : Nat × Nat :=
  (0xaa87ca22be8b05378eb1c71ef320ad746e1d3b628ba79b9859f741e082542a385502f25dbf55296c3a545e3872760ab7,
   0x3617de4a96262c6f5d9e98bf9292dc29f8f41dbd289a147ce9da3113b5f0b8c00a60b1ce1d7e819d7a431d7c90ea0e5f)

/-- Modular power by the low bits of the exponent. -/
def powMod (m : Nat) : Nat → Nat → Nat → Nat
  | 0, _, _ => 1
  | n + 1, x, e => let r := powMod m n (x * x % m) (e / 2); if e % 2 = 1 then x * r % m else r

/-- The inverse modulo a prime. -/
def invMod (m x : Nat) : Nat := powMod m 384 (x % m) (m - 2)

/-- The sum of two points of the curve; none is the point at infinity. -/
def ecAdd (x y : Option (Nat × Nat)) : Option (Nat × Nat) :=
  match x, y with
  | none, q => q
  | p, none => p
  | some (x1, y1), some (x2, y2) =>
    if x1 = x2 ∧ (y1 + y2) % p384 = 0 then none else
    let l := if x1 = x2 then 3 * (x1 * x1 + p384 - 1) * invMod p384 (2 * y1) % p384
      else (y2 + p384 - y1) * invMod p384 (x2 + p384 - x1) % p384
    let x3 := (l * l + 2 * p384 - x1 - x2) % p384
    some (x3, (l * (x1 + p384 - x3) + p384 - y1) % p384)

/-- A multiple of a point, by the low n bits of the factor. -/
def ecMul : Nat → Nat → Option (Nat × Nat) → Option (Nat × Nat)
  | 0, _, _ => none
  | n + 1, k, p => let r := ecMul n (k / 2) (ecAdd p p); if k % 2 = 1 then ecAdd p r else r

/-- The public key that 97 bytes of SEC1 spell: a point of the curve. -/
def ecKey (bs : List Byte) : Option (Nat × Nat) :=
  let x := beNat ((bs.drop 1).take 48)
  let y := beNat ((bs.drop 49).take 48)
  if bs.length = 97 ∧ bs.head? = some 4 ∧ x < p384 ∧ y < p384 ∧ (y * y + 3 * x) % p384 = (x * x * x + p384b) % p384 then some (x, y)
  else none

/-- The signature check of FIPS 186-5 section 6.4.2 on a digest. -/
def ecdsaValid (key sig digest : List Byte) : Bool :=
  match ecKey key with
  | none => false
  | some q =>
    let r := beNat (sig.take 48)
    let s := beNat ((sig.drop 48).take 48)
    if sig.length ≠ 96 ∨ r = 0 ∨ s = 0 ∨ p384n ≤ r ∨ p384n ≤ s then false else
    let w := invMod p384n s
    match ecAdd (ecMul 384 (beNat digest * w % p384n) (some p384g)) (ecMul 384 (r * w % p384n) (some q)) with
    | none => false
    | some (x, _) => x % p384n = r

end Sys2Proof.Machine
end

