-- ==== Sys2Proof/Machine/Float.lean ====
section
/-! DEFINITION. Exact numbers and their single rounding to a binary format: the arithmetic of R44, R89, R90, R94 to R96, R218. -/

namespace Sys2Proof.Machine

/-- A number: NaN, a signed infinity, or (-1)^neg × m × 2^e, the sign of a zero kept. -/
inductive Num where
  | nan
  | inf (neg : Bool)
  | fin (neg : Bool) (m : Nat) (e : Int)
  deriving DecidableEq, Repr

/-- m ÷ 2^s rounded to nearest, ties to even. -/
def rneShift (m s : Nat) : Nat :=
  let q := m / 2 ^ s
  let r := m % 2 ^ s
  if 2 ^ s < 2 * r ∨ (2 * r = 2 ^ s ∧ q % 2 = 1 ∧ 0 < s) then q + 1 else q

/-- The same on integers. -/
def rneShiftInt (v : Int) (s : Nat) : Int := if v < 0 then -(rneShift v.natAbs s : Int) else (rneShift v.natAbs s : Int)

/-- m × 2^e rounded to an integer, ties to even. -/
def rneInt (neg : Bool) (m : Nat) (e : Int) : Int :=
  let v : Int := if e < 0 then (rneShift m e.natAbs : Int) else (m * 2 ^ e.natAbs : Nat)
  if neg then -v else v

/-- Position of the leading one, plus one. -/
def bitLen (m : Nat) : Nat := if m = 0 then 0 else Nat.log2 m + 1

/-- A binary format of the IEEE form: exponent bits, fraction bits, canonical NaN (R96, R218). -/
structure FpFmt where
  eb : Nat
  mb : Nat
  nan : Nat
  deriving DecidableEq, Repr

/-- FP32. -/
def fp32 : FpFmt := ⟨8, 23, 0x7FC00000⟩
/-- BF16. -/
def bf16 : FpFmt := ⟨8, 7, 0x7FC0⟩
/-- IEEE binary16. -/
def fp16 : FpFmt := ⟨5, 10, 0x7E00⟩
/-- FP64, the wide format of FP32 reductions (R218). -/
def fp64 : FpFmt := ⟨11, 52, 0x7FF8000000000000⟩

/-- Exponent of the least significant subnormal bit. -/
def FpFmt.lsb (f : FpFmt) : Int := 2 - (2 : Int) ^ (f.eb - 1) - f.mb

/-- The number that a word of a format spells. -/
def FpFmt.dec (f : FpFmt) (v : Nat) : Num :=
  let ef := bitsOf v (f.eb + f.mb - 1) f.mb
  let m := v % 2 ^ f.mb
  let neg := bitOf v (f.eb + f.mb)
  if ef = 2 ^ f.eb - 1 then if m = 0 then .inf neg else .nan
  else if ef = 0 then .fin neg m f.lsb
  else .fin neg (2 ^ f.mb + m) (f.lsb + (ef - 1 : Nat))

/-- The infinity of a format. -/
def FpFmt.infWord (f : FpFmt) (neg : Bool) : Nat := b2n neg * 2 ^ (f.eb + f.mb) + (2 ^ f.eb - 1) * 2 ^ f.mb

/-- A number rounded once to a format, to nearest even, subnormals kept; a magnitude too large becomes infinity, or with sat the
largest finite value. -/
def FpFmt.enc (f : FpFmt) (sat : Bool) : Num → Nat
  | .nan => f.nan
  | .inf neg => f.infWord neg
  | .fin neg m e =>
    let sign := b2n neg * 2 ^ (f.eb + f.mb)
    if m = 0 then sign else
    let q := max (e + bitLen m - (f.mb + 1)) f.lsb
    let r := if q ≤ e then m * 2 ^ (e - q).natAbs else rneShift m (q - e).natAbs
    -- a subnormal's field is 0; the carry of a rounding moves into the exponent field by itself
    let w := if r < 2 ^ f.mb then r else (q - f.lsb).natAbs * 2 ^ f.mb + r
    if (2 ^ f.eb - 1) * 2 ^ f.mb ≤ w then if sat then sign + (2 ^ f.eb - 1) * 2 ^ f.mb - 1 else f.infWord neg
    else sign + w

/-- The number of an FP32 word. -/
def f32 (v : Nat) : Num := fp32.dec v

/-- A number rounded to FP32; too large becomes infinity. -/
def toF32 (x : Num) : Nat := fp32.enc false x

/-- An integer as a number. -/
def numInt (v : Int) : Num := .fin (decide (v < 0)) v.natAbs 0

/-- Signed mantissa at an exponent not above the number's. -/
def mantAt (neg : Bool) (m : Nat) (e lo : Int) : Int := if neg then -(m * 2 ^ (e - lo).natAbs : Nat) else (m * 2 ^ (e - lo).natAbs : Nat)

/-- Exact sum; an exact zero is negative only if both are. -/
def Num.add : Num → Num → Num
  | .nan, _ => .nan
  | _, .nan => .nan
  | .inf a, .inf b => if a = b then .inf a else .nan
  | .inf a, _ => .inf a
  | _, .inf b => .inf b
  | .fin n m e, .fin n' m' e' =>
    let lo := min e e'
    let s := mantAt n m e lo + mantAt n' m' e' lo
    if s = 0 then .fin (n && n') 0 0 else .fin (decide (s < 0)) s.natAbs lo

/-- Exact product. -/
def Num.mul : Num → Num → Num
  | .nan, _ => .nan
  | _, .nan => .nan
  | .inf a, .inf b => .inf (a != b)
  | .inf a, .fin n m _ => if m = 0 then .nan else .inf (a != n)
  | .fin n m _, .inf a => if m = 0 then .nan else .inf (a != n)
  | .fin n m e, .fin n' m' e' => .fin (n != n') (m * m') (e + e')

/-- The quotient of two numbers with 200 bits and a sticky bit, enough for one rounding to any format here. -/
def Num.div : Num → Num → Num
  | .nan, _ => .nan
  | _, .nan => .nan
  | .inf _, .inf _ => .nan
  | .inf a, .fin n _ _ => .inf (a != n)
  | .fin n _ _, .inf b => .fin (n != b) 0 0
  | .fin n m e, .fin n' m' e' =>
    if m' = 0 then if m = 0 then .nan else .inf (n != n')
    else
      let s := 200 + bitLen m'
      let q := m * 2 ^ s / m'
      .fin (n != n') (2 * q + b2n (decide (m * 2 ^ s % m' ≠ 0))) (e - e' - s - 1)

/-- The opposite number. -/
def Num.neg : Num → Num
  | .nan => .nan
  | .inf a => .inf (!a)
  | .fin n m e => .fin (!n) m e

/-- Strictly less, for numbers that are not NaN; the two zeros are equal. -/
def Num.lt : Num → Num → Bool
  | .inf true, .inf true => false
  | .inf true, _ => true
  | .inf false, _ => false
  | .fin _ _ _, .inf b => !b
  | .fin n m e, .fin n' m' e' => let lo := min e e'; decide (mantAt n m e lo < mantAt n' m' e' lo)
  | _, _ => false

/-- The number is NaN. -/
def Num.isNan : Num → Bool
  | .nan => true
  | _ => false

/-- The number is finite. -/
def Num.isFin : Num → Bool
  | .fin _ _ _ => true
  | _ => false

/-- The number is zero. -/
def Num.isZero : Num → Bool
  | .fin _ m _ => m = 0
  | _ => false

/-- The sign bit of a number that is not NaN. -/
def Num.isNeg : Num → Bool
  | .nan => false
  | .inf n => n
  | .fin n _ _ => n

/-! Functions correctly rounded (R44, R94). -/

/-- Fraction bits of the fixed-point evaluation. -/
def expBits : Nat := 320

/-- ln 2 × 2^320, rounded down. -/
def ln2Fixed : Int := 1480553391661173448385607439722553250922680800745876974795605978609098082859138712941075737848984

/-- The terms r^k ÷ k! of the exponential series, fixed point, from term k on. -/
def expSeries (r : Int) (term : Int) (k : Nat) : Nat → Int
  | 0 => 0
  | fuel + 1 => term + expSeries r (term * r / 2 ^ expBits / (k + 1 : Nat)) (k + 1) fuel

/-- exp of a finite number as M × 2^(N - 320) with M near 2^320: good to more than 250 bits, for magnitudes below 2^8. -/
def expFixed (neg : Bool) (m : Nat) (e : Int) : Int × Int :=
  let x : Int := if e + expBits < 0 then 0 else m * 2 ^ (e + expBits).natAbs
  let x := if neg then -x else x
  let n := (2 * x + ln2Fixed) / (2 * ln2Fixed)
  (expSeries (x - n * ln2Fixed) (2 ^ expBits) 0 64, n)

/-- The magnitude is 2^8 or more. -/
def isHuge (m : Nat) (e : Int) : Bool := m ≠ 0 && decide (8 < e + bitLen m)

/-- exp, as a number that one rounding to FP32 makes right (R44, R94). -/
def Num.exp : Num → Num
  | .nan => .nan
  | .inf neg => if neg then .fin false 0 0 else .inf false
  | .fin neg m e =>
    if m = 0 then .fin false 1 0
    else if isHuge m e then if neg then .fin false 1 (-400) else .fin false 1 400
    else let (v, n) := expFixed neg m e; .fin false (2 * v.natAbs + 1) (n - expBits - 1)

/-- 1 ÷ (1 + exp(-x)), evaluated once (R44). -/
def Num.sigmoid : Num → Num
  | .nan => .nan
  | .inf neg => if neg then .fin false 0 0 else .fin false 1 0
  | .fin neg m e =>
    if m = 0 then .fin false 1 (-1)
    else if isHuge m e then if neg then .fin false 1 (-400) else .fin false 1 0
    else
      let (v, n) := expFixed (!neg) m e
      Num.div (.fin false 1 0) (Num.add (.fin false 1 0) (.fin false v.natAbs (n - expBits)))

/-- The integer square root by bits from high to low. -/
def isqrtLoop (v : Nat) : Nat → Nat → Nat
  | 0, r => r
  | k + 1, r => isqrtLoop v k (if (r + 2 ^ k) * (r + 2 ^ k) ≤ v then r + 2 ^ k else r)

/-- 1 ÷ √x for a positive finite number, with 200 bits and a sticky bit. -/
def rsqrtFin (m : Nat) (e : Int) : Num :=
  let (m, e) := if e % 2 = 0 then (m, e) else (2 * m, e - 1)
  let k := 200 + bitLen m
  let r := isqrtLoop (2 ^ (2 * k) / m) (k + 2) 0
  .fin false (2 * r + b2n (decide (r * r * m ≠ 2 ^ (2 * k)))) (-(e / 2) - k - 1)

/-- 1 ÷ √x with the special cases of R94. -/
def Num.rsqrt : Num → Num
  | .nan => .nan
  | .inf neg => if neg then .nan else .fin false 0 0
  | .fin neg m e => if m = 0 then .inf neg else if neg then .nan else rsqrtFin m e

/-! FP32 words. -/

/-- FP32 addition. -/
def fadd (a b : Nat) : Nat := toF32 ((f32 a).add (f32 b))
/-- FP32 multiplication. -/
def fmul (a b : Nat) : Nat := toF32 ((f32 a).mul (f32 b))
/-- FP32 division. -/
def fdiv (a b : Nat) : Nat := toF32 ((f32 a).div (f32 b))
/-- Fused multiply-add: a × b + c with one rounding. -/
def ffma (a b c : Nat) : Nat := toF32 (((f32 a).mul (f32 b)).add (f32 c))
/-- VEXP. -/
def fexp (a : Nat) : Nat := toF32 (f32 a).exp
/-- VRCP. -/
def frcp (a : Nat) : Nat := toF32 ((Num.fin false 1 0).div (f32 a))
/-- VRSQRT. -/
def frsqrt (a : Nat) : Nat := toF32 (f32 a).rsqrt
/-- The sigmoid of R44. -/
def fsigmoid (a : Nat) : Nat := toF32 (f32 a).sigmoid
/-- Negation, exact; a NaN is canonical. -/
def fneg (a : Nat) : Nat := toF32 (f32 a).neg
/-- 1.0. -/
def fone : Nat := 0x3F800000
/-- The order of VMAX: below, with -0.0 below +0.0. -/
def fbelow (a b : Nat) : Bool := (f32 a).lt (f32 b) || ((f32 a).isZero && (f32 b).isZero && (f32 a).isNeg && !(f32 b).isNeg)
/-- VMAX of two words. -/
def fmax (a b : Nat) : Nat := if (f32 a).isNan || (f32 b).isNan then fp32.nan else if fbelow a b then b else a
/-- VMIN of two words. -/
def fmin (a b : Nat) : Nat := if (f32 a).isNan || (f32 b).isNan then fp32.nan else if fbelow b a then b else a
/-- VSILU, step by step (R94). -/
def fsilu (x : Nat) : Nat := fmul x (frcp (fadd fone (fexp (fneg x))))
/-- The FP32 value nearest 0.7978846. -/
def geluScale : Nat := 0x3F4C422A
/-- The FP32 value nearest 0.044715. -/
def geluCubic : Nat := 0x3D372713
/-- VGELU, step by step (R94). -/
def fgelu (x : Nat) : Nat :=
  let s := fadd x (fmul geluCubic (fmul (fmul x x) x))
  let g := fexp (fmul 0x40000000 (fmul geluScale s))
  let u := fadd fone (fneg (fmul 0x40000000 (frcp (fadd g fone))))
  fmul (fmul 0x3F000000 x) (fadd fone u)

/-- FP32R (R84): the fraction rounded to its 10 most significant bits, to nearest even. -/
def fp32r (v : Nat) : Nat :=
  match f32 v with
  | .nan => fp32.nan
  | .inf neg => fp32.infWord neg
  | .fin neg _ _ =>
    -- rounding the word's low 13 bits rounds the fraction; a carry moves into the exponent field
    let w := rneShift (v % 2 ^ 31) 13 * 2 ^ 13
    b2n neg * 2 ^ 31 + (if 0x7F800000 ≤ w then 0x7F800000 else w)

end Sys2Proof.Machine
end

