-- ==== Sys2Proof/Machine/Formats.lean ====
section
/-! DEFINITION. Element formats, packed rows, the long accumulator, conversions and fixed-order reductions (R83 to R96). -/

namespace Sys2Proof.Machine

/-- Bits of an element of a format code (Table 3.5, with the codes of R93). -/
def elemBits (fmt : Nat) : Nat :=
  match fmt with
  | 0x0 | 0x1 => 16
  | 0x2 | 0x3 | 0x8 => 8
  | 0x4 | 0x5 => 6
  | 0x6 | 0x9 => 4
  | _ => 32

/-- MX format codes. -/
def isMx (fmt : Nat) : Bool := 2 ≤ fmt && fmt ≤ 6
/-- Integer array format codes. -/
def isIntFmt (fmt : Nat) : Bool := fmt = 8 || fmt = 9
/-- Array format codes that are not reserved (R83). -/
def arrayFmt (fmt : Nat) : Bool := fmt ≤ 6 || fmt = 8 || fmt = 9
/-- Codes that VCVT knows (R93). -/
def vectorFmt (fmt : Nat) : Bool := arrayFmt fmt || fmt = 0xA || fmt = 0xB || fmt = 0xC

/-- Exponent bits, fraction bits and bias of an MX element type. -/
def mxShape (fmt : Nat) : Nat × Nat × Nat :=
  match fmt with
  | 2 => (4, 3, 7)
  | 3 => (5, 2, 15)
  | 4 => (2, 3, 1)
  | 5 => (3, 2, 3)
  | _ => (2, 1, 1)

/-- The grid exponent g of Table 3.5. -/
def gridExp (fmt : Nat) : Nat :=
  match fmt with
  | 2 => 9
  | 3 => 16
  | 4 => 3
  | 5 => 4
  | 6 => 1
  | _ => 0

/-- The largest magnitude of an MX element type, as a code, and the exponent of its leading bit. -/
def mxMax (fmt : Nat) : Nat × Int :=
  match fmt with
  | 2 => (0x7E, 8)
  | 3 => (0x7B, 15)
  | 4 => (0x1F, 2)
  | 5 => (0x1F, 4)
  | _ => (0x7, 2)

/-- The number that an element code spells. -/
def elemDec (fmt v : Nat) : Num :=
  match fmt with
  | 0x0 => bf16.dec v
  | 0x1 => fp16.dec v
  | 0x8 => numInt (toInt 8 v)
  | 0x9 => numInt (toInt 4 v)
  | 0xC => numInt (toInt 32 v)
  | 0xA => f32 v
  | 0xB => f32 (fp32r v)
  | _ =>
    let (eb, mb, bias) := mxShape fmt
    let ef := bitsOf v (eb + mb - 1) mb
    let m := v % 2 ^ mb
    let neg := bitOf v (eb + mb)
    if fmt = 2 ∧ v % 128 = 127 then .nan
    else if fmt = 3 ∧ ef = 31 then if m = 0 then .inf neg else .nan
    else if ef = 0 then .fin neg m (1 - (bias : Int) - mb)
    else .fin neg (2 ^ mb + m) ((ef : Int) - bias - mb)

/-- Bytes that n packed elements take (R85, R96: groups of four 6-bit elements). -/
def packedBytes (fmt n : Nat) : Nat :=
  match elemBits fmt with
  | 6 => (n + 3) / 4 * 3
  | 4 => (n + 1) / 2
  | b => n * b / 8

/-- Bytes of a row of n elements with its scales, before padding (R80, R96). -/
def rowBytes (fmt n : Nat) : Nat := packedBytes fmt n + if isMx fmt then (n + 31) / 32 else 0

/-- Element i of packed bytes (R85). -/
def elemAt (fmt : Nat) (row : List Byte) (i : Nat) : Nat :=
  let b := elemBits fmt
  leNat ((row.drop (i * b / 8)).take 5) / 2 ^ (i * b % 8) % 2 ^ b

/-- The scale byte of group j of an MX row of n elements. -/
def scaleAt (fmt n : Nat) (row : List Byte) (j : Nat) : Nat := ((row.getD (packedBytes fmt n + j) 0).toNat)

/-- Element i of a row of n, scaled: a NaN scale byte makes NaN (R83, R96). -/
def rowNum (fmt n : Nat) (row : List Byte) (i : Nat) : Num :=
  let x := elemDec fmt (elemAt fmt row i)
  if isMx fmt then
    let v := scaleAt fmt n row (i / 32)
    if v = 0xFF then .nan else
    match x with
    | .fin neg m e => .fin neg m (e + v - 127)
    | other => other
  else x

/-- Codes packed little-endian (R85); unused bits of the last byte or 3-byte group are zero. -/
def packCodes (fmt : Nat) (codes : List Nat) : List Byte :=
  let b := elemBits fmt
  toLe (packedBytes fmt codes.length) ((codes.foldr (fun c acc => c % 2 ^ b + 2 ^ b * acc) 0))

/-! The long accumulator (R86 to R89). -/

/-- Sticky flags of a cell (R88). -/
structure CellFlags where
  nan : Bool := false
  pinf : Bool := false
  ninf : Bool := false
  deriving DecidableEq, Repr

/-- Flags joined. -/
def CellFlags.or (a b : CellFlags) : CellFlags := ⟨a.nan || b.nan, a.pinf || b.pinf, a.ninf || b.ninf⟩

/-- The flags that the product of two elements sets. -/
def prodFlags (a b : Num) : CellFlags :=
  match a.mul b with
  | .nan => { nan := true }
  | .inf false => { pinf := true }
  | .inf true => { ninf := true }
  | .fin _ _ _ => {}

/-- The flags of an initial value. -/
def initFlags (x : Num) : CellFlags :=
  match x with
  | .nan => { nan := true }
  | .inf false => { pinf := true }
  | .inf true => { ninf := true }
  | .fin _ _ _ => {}

/-- A number as an integer in units of 2^lo; zero for a number that is not finite. -/
def numUnits (lo : Int) : Num → Int
  | .fin neg m e => if e < lo then rneShiftInt (if neg then -(m : Int) else m) (lo - e).natAbs else mantAt neg m e lo
  | _ => 0

/-- A block of the long accumulator: its exact sum s × 2^(-g), its combined scale exponent, a NaN scale (R86, R87). -/
structure AccBlock where
  s : Int
  g : Nat
  c : Int
  nan : Bool
  deriving DecidableEq, Repr

/-- ⌊log2⌋ of an initial value's magnitude, -126 for an FP32 subnormal (R86). -/
def initExp (isInt : Bool) : Num → Int
  | .fin _ m e => if isInt then (bitLen m : Int) - 1 else max (e + bitLen m - 1) (-126)
  | _ => 0

/-- The anchor of R86, if the set is not empty. -/
def anchorOf (blocks : List AccBlock) (init : Num) (initInt : Bool) : Option Int :=
  let cs := (blocks.filter (fun b => !b.nan)).map (fun b => b.c)
  let cs := if init.isFin && !init.isZero then (initExp initInt init - 40) :: cs else cs
  match cs with
  | [] => none
  | c :: rest => some (rest.foldl max c)

/-- The addend of a block on the grid 2^(a - 66) (R87). -/
def blockAddend (a : Int) (b : AccBlock) : Int :=
  if b.nan then 0 else numUnits (a - 66) (.fin (decide (b.s < 0)) b.s.natAbs (b.c - b.g))

/-- The window W (R87): the rounded addends of the initial value and of the blocks, added in integers. -/
def windowOf (a : Int) (blocks : List AccBlock) (init : Num) : Int :=
  (blocks.map (blockAddend a)).foldl (· + ·) (numUnits (a - 66) init)

/-- The drain (Table 3.6, R89): flags first, then one conversion of W. -/
def drainWord (toInt32 : Bool) (fl : CellFlags) (w : Int) (a : Int) : Nat :=
  if toInt32 then
    let v := rneInt (decide (w < 0)) w.natAbs (a - 66)
    ofInt 32 (max (-(2 ^ 31)) (min v (2 ^ 31 - 1)))
  else if fl.nan || (fl.pinf && fl.ninf) then fp32.nan
  else if fl.pinf then 0x7F800000
  else if fl.ninf then 0xFF800000
  else if w = 0 then 0
  else toF32 (.fin (decide (w < 0)) w.natAbs (a - 66))

/-- One element of an MX or integer array instruction (R86 to R89). -/
def longAccumulate (toInt32 : Bool) (blocks : List AccBlock) (fl : CellFlags) (init : Num) : Nat :=
  let fl := fl.or (initFlags init)
  match anchorOf blocks init toInt32 with
  | none => drainWord toInt32 fl 0 0
  | some a => drainWord toInt32 fl (windowOf a blocks init) a

/-- One block of 32 products of two rows of k elements: block j over the elements that `feed` selects. -/
def accBlock (af bf : Nat) (k : Nat) (a b : List Byte) (j : Nat) (idx : List Nat) : AccBlock × CellFlags :=
  let unit (f : Nat) (row : List Byte) (i : Nat) : Int := numUnits (-(gridExp f : Int)) (elemDec f (elemAt f row i))
  let s := (idx.map (fun i => unit af a i * unit bf b i)).foldl (· + ·) 0
  let fl := (idx.map (fun i => prodFlags (elemDec af (elemAt af a i)) (elemDec bf (elemAt bf b i)))).foldl CellFlags.or {}
  if isMx af then
    let sa := scaleAt af k a j
    let sb := scaleAt bf k b j
    if sa = 0xFF ∨ sb = 0xFF then (⟨0, 0, 0, true⟩, { nan := true })
    else (⟨s, gridExp af + gridExp bf, (sa : Int) - 127 + (sb - 127), false⟩, fl)
  else (⟨s, 0, 0, false⟩, fl)

/-- The element of an array instruction over the coordinates `idx` of rows a and b of k elements (R74, R86 to R90): the coordinates
that are not listed take no part. `blockOf` lists the blocks whose scales enter the anchor. -/
def arrayElem (af bf : Nat) (toInt32 : Bool) (k : Nat) (a b : List Byte) (init : Nat) (idx : List Nat) (blocks : List Nat) : Nat :=
  if af < 2 then
    idx.foldl (fun sum i =>
      toF32 (((elemDec af (elemAt af a i)).mul (elemDec bf (elemAt bf b i))).add (f32 sum))) init
  else
    let bs := blocks.map (fun j => accBlock af bf k a b j (idx.filter (fun i => i / 32 = j)))
    let x := if toInt32 then numInt (toInt 32 init) else f32 init
    longAccumulate toInt32 (bs.map (·.1)) ((bs.map (·.2)).foldl CellFlags.or {}) x

/-! Conversions (R96). -/

/-- Saturating integer conversion to n bits: ties to even, infinities to the bounds, NaN to 0. -/
def toIntSat (n : Nat) : Num → Nat
  | .nan => 0
  | .inf neg => if neg then 2 ^ (n - 1) else 2 ^ (n - 1) - 1
  | .fin neg m e =>
    let v : Int := if 64 < e + bitLen m then (if neg then -(2 ^ 64) else 2 ^ 64) else rneInt neg m e
    ofInt n (max (-(2 ^ (n - 1))) (min v (2 ^ (n - 1) - 1)))

/-- FP32R as a format of its own: FP32 with 10 fraction bits, so that a conversion rounds once (R96). -/
def fp32rWidth : FpFmt := ⟨8, 10, 0x3FE00⟩

/-- Conversion to a format that is not MX. -/
def convWord (fmt : Nat) (x : Num) : Nat :=
  match fmt with
  | 0x0 => bf16.enc true x
  | 0x1 => fp16.enc true x
  | 0x8 => toIntSat 8 x
  | 0x9 => toIntSat 4 x
  | 0xC => toIntSat 32 x
  | 0xB => fp32rWidth.enc true x * 2 ^ 13
  | _ => fp32.enc true x

/-- Exponent of the leading bit of a number, for a non-zero finite one. -/
def leadExp : Num → Int
  | .fin _ m e => e + bitLen m - 1
  | _ => 0

/-- An element of an MX group with scale exponent x: rounded to nearest even, saturated (R96). -/
def mxCode (fmt : Nat) (x : Int) (v : Num) : Nat :=
  let (eb, mb, bias) := mxShape fmt
  let top := (mxMax fmt).1
  let sign (neg : Bool) : Nat := b2n neg * 2 ^ (eb + mb)
  match v with
  | .nan => 0
  | .inf neg => sign neg + top
  | .fin neg m e =>
    if m = 0 then sign neg else
    let e := e - x
    let lsb : Int := 1 - (bias : Int) - mb
    let q := max (e + bitLen m - (mb + 1)) lsb
    let r := if q ≤ e then m * 2 ^ (e - q).natAbs else rneShift m (q - e).natAbs
    let w := if r < 2 ^ mb then r else (q - lsb).natAbs * 2 ^ mb + r
    sign neg + min w top

/-- A group of up to 32 numbers quantised to MX (R96): codes and scale byte. -/
def mxGroup (fmt : Nat) (vs : List Num) : List Nat × Nat :=
  if vs.any Num.isNan then (vs.map (fun _ => 0), 0xFF) else
  let fins := (vs.filter (fun v => v.isFin && !v.isZero)).map leadExp
  let x : Int := match fins with
    | [] => -127
    | y :: ys => max (-127) (min (ys.foldl max y - (mxMax fmt).2) 127)
  (vs.map (mxCode fmt x), (x + 127).natAbs)

/-- A row of numbers in a format: packed elements, then for MX one scale byte a group (R80, R96). -/
def packRow (fmt : Nat) (vs : List Num) : List Byte :=
  if isMx fmt then
    let gs := (chunks 32 (vs.length / 32 + 1) vs).map (mxGroup fmt)
    packCodes fmt (gs.flatMap (·.1)) ++ gs.map (fun g => BitVec.ofNat 8 g.2)
  else packCodes fmt (vs.map (convWord fmt))

/-- The numbers of a row of n elements. -/
def unpackRow (fmt n : Nat) (row : List Byte) : List Num := (List.range n).map (rowNum fmt n row)

/-! Fixed-order reductions (R95, R219). -/

/-- One level of a binary tree in which neighbours combine and an odd last one rises unchanged. -/
def treeLevel {α : Type} (f : α → α → α) : List α → List α
  | a :: b :: rest => f a b :: treeLevel f rest
  | xs => xs

/-- The tree of R219 over values in ascending index order; `fuel` levels are enough for 2^fuel values. -/
def treeReduce {α : Type} (f : α → α → α) : Nat → List α → List α
  | 0, xs => xs
  | fuel + 1, xs => if xs.length ≤ 1 then xs else treeReduce f fuel (treeLevel f xs)

/-- The value of the tree. -/
def treeOf {α : Type} (f : α → α → α) (dflt : α) (xs : List α) : α := (treeReduce f 40 xs).headD dflt

/-- The reduction of R95: 64 lanes in ascending index order, then the binary tree. `f` takes a lane's value and an element's index. -/
def laneReduce (count : Nat) (start : Nat) (f : Nat → Nat → Nat) (g : Nat → Nat → Nat) : Nat :=
  let lane (l : Nat) : Nat := ((List.range ((count + 63 - l) / 64)).map (fun k => l + 64 * k)).foldl f start
  treeOf g start ((List.range 64).map lane)

end Sys2Proof.Machine
end

