-- ==== Sys2Proof/Machine/Operands.lean ====
section
/-! DEFINITION. The operand fields of a core's 32-byte instructions (Tables 3.4, 3.8 and 4.2), their opcodes, shapes, strides and
local ranges (R70, R74 to R85, R93, R106). -/

namespace Sys2Proof.Machine

/-- OPCODE. -/
def insnOp (bs : List Byte) : Nat := fldOf bs 0 7 0

/-- The opcodes that are defined (R71, R79, Tables 3.9, 4.4, 6.4, 9.7; END, CLWAIT and VCOUNT). -/
def opDefined (op : Nat) : Bool :=
  op = 1 || op = 2 || op = 0x40 || op = 0x41 || (0x80 ≤ op && op ≤ 0x96) || (0x98 ≤ op && op ≤ 0x9B)

/-- The issue slot of an opcode (R71): 0x40 to 0x7F go to slot M. -/
def opSlot (op : Nat) : Slot := if 0x40 ≤ op ∧ op < 0x80 then .m else .v

/-! Array instructions. -/

/-- The fields of Tables 3.4 and 4.2; `rsv` tells that a reserved bit of the opcode's layout is set. -/
structure ArrInsn where
  op : Nat
  pave : Nat
  array : Nat
  afmt : Nat
  bfmt : Nat
  drain : Bool
  init : Nat
  msrc : Bool
  hm : Bool
  rowBase : Nat
  rows : Nat
  cols : Nat
  k : Nat
  aStride : Nat
  bStride : Nat
  aAddr : Nat
  bAddr : Nat
  initAddr : Nat
  outAddr : Nat
  path : Nat
  gran : Bool
  keep : Bool
  keepBit : Nat
  aMeta : Nat
  bMeta : Nat
  rsv : Bool
  deriving DecidableEq, Repr

/-- The fields of an array instruction; the fields of Table 4.2 are zero for opcode 0x40, whose bits there are reserved. -/
def arrOf (bs : List Byte) : ArrInsn :=
  let sparse := decide (insnOp bs = 0x41)
  let s (n : Nat) : Nat := if sparse then n else 0
  { op := insnOp bs, pave := fldOf bs 0 9 8, array := fldOf bs 0 11 10, afmt := fldOf bs 0 15 12, bfmt := fldOf bs 0 19 16,
    drain := bitOf (fldOf bs 0 31 0) 20, init := fldOf bs 0 22 21, msrc := bitOf (fldOf bs 0 31 0) 23,
    hm := bitOf (fldOf bs 0 31 0) 24, rowBase := fldOf bs 4 23 0, rows := fldOf bs 8 6 0, cols := fldOf bs 8 16 8,
    k := fldOf bs 8 31 19, aStride := fldOf bs 12 15 0, bStride := fldOf bs 12 31 16, aAddr := fldOf bs 16 21 0,
    bAddr := fldOf bs 20 21 0, initAddr := fldOf bs 24 21 0, outAddr := fldOf bs 28 21 0,
    path := s (fldOf bs 0 26 25), gran := sparse && bitOf (fldOf bs 0 31 0) 27, keep := sparse && bitOf (fldOf bs 0 31 0) 28,
    keepBit := s (fldOf bs 4 31 24), aMeta := s (fldOf bs 16 31 22), bMeta := s (fldOf bs 20 31 22),
    rsv := fldOf bs 0 31 29 ≠ 0 || bitOf (fldOf bs 8 31 0) 7 || fldOf bs 8 18 17 ≠ 0 || fldOf bs 24 31 22 ≠ 0 || fldOf bs 28 31 22 ≠ 0 ||
      (!sparse && (fldOf bs 0 28 25 ≠ 0 || fldOf bs 4 31 24 ≠ 0 || fldOf bs 16 31 22 ≠ 0 || fldOf bs 20 31 22 ≠ 0)) }

/-- Height of the mode (Table 3.3). -/
def ArrInsn.height (a : ArrInsn) : Nat := if a.pave = 2 then 64 else 16

/-- Columns of the mode's shape (Table 3.3). -/
def ArrInsn.shapeCols (a : ArrInsn) : Nat := if a.pave = 0 then 64 else 256

/-- Carats of the mode (Table 13.3). -/
def ArrInsn.carats (a : ArrInsn) : Nat := if a.pave = 0 then 2 else if a.pave = 1 then 6 else 24

/-- Elements of a coordinate (R104). -/
def ArrInsn.g (a : ArrInsn) : Nat := if a.gran then 32 else 1

/-- Code 0x21 (R81, R107): a reserved field or value is set, ARRAY non-zero outside SOLO, PATH = 3, KEEP_BIT without KEEP. -/
def ArrInsn.illegal (a : ArrInsn) : Bool :=
  a.rsv || a.pave = 3 || a.init = 3 || (a.pave ≠ 0 && a.array ≠ 0) || !arrayFmt a.afmt || !arrayFmt a.bfmt || a.path = 3 ||
    (!a.keep && a.keepBit ≠ 0)

/-- Code 0x22 (R81, R107), the core's own conditions apart. -/
def ArrInsn.badShape (a : ArrInsn) : Bool :=
  let mx := isMx a.afmt || isMx a.bfmt
  let int4 := a.afmt = 9 || a.bfmt = 9
  decide (4096 < a.k) || (mx && a.k % 32 ≠ 0) || (int4 && a.k % 2 ≠ 0) ||
  (!a.msrc && (a.rows = 0 || decide (a.height < a.rows))) || a.cols = 0 || decide (a.shapeCols < a.cols) ||
  decide (a.aStride < rowBytes a.afmt a.k) || a.aStride % 32 ≠ 0 || decide (a.bStride < rowBytes a.bfmt a.k) || a.bStride % 32 ≠ 0 ||
  (a.drain && !(isIntFmt a.afmt && isIntFmt a.bfmt)) ||
  (a.op = 0x41 && ((!a.gran && mx) || (a.gran && a.k % 32 ≠ 0) || (a.aMeta ≠ 0 && a.pave = 2)))

/-- The format pairs that the device accepts (R84). -/
def pairOk (x y : Nat) : Bool :=
  (2 ≤ x && x ≤ 5 && 2 ≤ y && y ≤ 5) || (x = y && (x = 0 || x = 1 || x = 6 || x = 8 || x = 9))

/-- Rows per core that the checks of R81 are made on: ROWS, or the full height with MSRC = 1. In BLOCK mode the core at quartet
position q receives tile rows 16q to 16q + 15. -/
def ArrInsn.checkRows (a : ArrInsn) (q : Nat) : Nat :=
  let m := if a.msrc then a.height else a.rows
  if a.pave = 2 then min 16 (m - 16 * q) else m

/-- Bytes from the first to the last byte of n rows of a stride. Rows of no element (K = 0) still span the strides between them: the
specification does not say that such an operand has no range (R81, log entry 94). -/
def strided (n stride row : Nat) : Nat := if n = 0 then 0 else (n - 1) * stride + row

/-- The local ranges that an array instruction reads on the core at quartet position q, `rows` of them valid: A, and on the leader B,
the column vector of INIT = 1; the initial tile of INIT = 2. -/
def ArrInsn.reads (a : ArrInsn) (q rows : Nat) : List (Nat × Nat) :=
  [(a.aAddr, strided rows a.aStride (rowBytes a.afmt a.k))] ++
  (if q = 0 then [(a.bAddr, strided a.cols a.bStride (rowBytes a.bfmt a.k))] else []) ++
  (if a.init = 1 && q = 0 then [(a.initAddr, 4 * a.cols)] else if a.init = 2 then [(a.initAddr, 4 * a.cols * rows)] else [])

/-- The local range that it writes on a core with this many valid rows. -/
def ArrInsn.writes (a : ArrInsn) (rows : Nat) : List (Nat × Nat) := [(a.outAddr, 4 * a.cols * rows)]

/-- The range lies in the scratchpad (Table 3.2). -/
def inPad (r : Nat × Nat) : Bool := r.2 = 0 || r.1 + r.2 ≤ 0x1C0000
/-- The range lies in accumulator memory. -/
def inAcc (r : Nat × Nat) : Bool := r.2 = 0 || (0x200000 ≤ r.1 && r.1 + r.2 ≤ 0x240000)
/-- The range lies in one of the two memories. -/
def inLocal (r : Nat × Nat) : Bool := inPad r || inAcc r

/-- Where a stream of an operand begins (Table 4.2); none when it would lie below address 0. -/
def metaAddr (addr off : Nat) : Option Nat := if 32 * off ≤ addr then some (addr - 32 * off) else none

/-- Code 0x24 of an array instruction (R81, R107): the first address, in field order, that is misaligned or whose range leaves its
memory; then a stream that would begin below address 0 or outside the scratchpad (log entry 30). -/
def ArrInsn.badLocal (a : ArrInsn) : Option Nat :=
  let rows := a.checkRows 0
  let tile := 4 * a.cols * rows
  let outside (addr off : Nat) : Bool := off ≠ 0 && !(metaAddr addr off).any (fun m => inPad (m, 8))
  if a.aAddr % 32 ≠ 0 || !inPad (a.aAddr, strided rows a.aStride (rowBytes a.afmt a.k)) then some a.aAddr
  else if a.bAddr % 32 ≠ 0 || !inPad (a.bAddr, strided a.cols a.bStride (rowBytes a.bfmt a.k)) then some a.bAddr
  else if a.init = 1 && (a.initAddr % 4 ≠ 0 || !inPad (a.initAddr, 4 * a.cols)) then some a.initAddr
  else if a.init = 2 && (a.initAddr % 64 ≠ 0 || !inAcc (a.initAddr, tile)) then some a.initAddr
  else if a.outAddr % 64 ≠ 0 || !inAcc (a.outAddr, tile) then some a.outAddr
  else if outside a.aAddr a.aMeta then some a.aAddr
  else if outside a.bAddr a.bMeta then some a.bAddr
  else none

/-! Vector and control instructions. -/

/-- The fields of Table 3.8; `rsv` tells that a reserved bit is set. -/
structure VecInsn where
  op : Nat
  sfmt : Nat
  dfmt : Nat
  hm : Bool
  src1 : Nat
  src2 : Nat
  dst : Nat
  count : Nat
  imm : Nat
  dev : Nat
  rsv : Bool
  deriving DecidableEq, Repr

/-- The fields of a vector instruction. -/
def vecOf (bs : List Byte) : VecInsn :=
  { op := insnOp bs, sfmt := fldOf bs 0 11 8, dfmt := fldOf bs 0 15 12, hm := bitOf (fldOf bs 0 31 0) 16,
    src1 := fldOf bs 4 21 0, src2 := fldOf bs 8 21 0, dst := fldOf bs 12 21 0, count := fldOf bs 16 23 0, imm := fldOf bs 20 31 0,
    dev := fldOf bs 24 47 0,
    rsv := fldOf bs 0 31 17 ≠ 0 || fldOf bs 4 31 22 ≠ 0 || fldOf bs 8 31 22 ≠ 0 || fldOf bs 12 31 22 ≠ 0 || fldOf bs 16 31 24 ≠ 0 ||
      fldOf bs 24 63 48 ≠ 0 }

/-- Code 0x21 of a vector instruction under R93 and R374, an operation's own causes apart: a reserved bit, or a format field outside
what the operation takes. A SRC2 or DEVADDR that the operation does not use may hold anything: Table 3.8 calls it 0, and no rule refuses
another value (log entry 95). -/
def VecInsn.illegal (v : VecInsn) : Bool :=
  v.rsv ||
  (if v.op = 0x90 then !vectorFmt v.sfmt || !vectorFmt v.dfmt
   else if v.op = 0x8F then !(v.sfmt = 0xA || v.sfmt = 0xB) || v.dfmt ≠ 0
   else v.sfmt ≠ 0 || v.dfmt ≠ 0)

/-- A local range of n bytes at an alignment. An empty range names no byte and passes. -/
def localOk (a n align : Nat) : Bool := a % align = 0 && inLocal (a, n)

/-- Alignment of an address that names elements of a format (R374). -/
def fmtAlign (fmt : Nat) : Nat := if 0xA ≤ fmt then 4 else if fmt < 2 then 2 else 1

/-- Bytes of COUNT elements of a format in the layout of R96. -/
def vecBytes (fmt n : Nat) : Nat := rowBytes fmt n

end Sys2Proof.Machine
end

