-- ==== Sys2Proof/Machine/Cells.lean ====
section
/-! DEFINITION. Cells (R190 to R194): header fields, the checks of Table 8.3, construction, and cells offered for injection. -/

open Sys2Proof.Machine

namespace Sys2Proof

/-- AGE. -/
def Cell.age (c : Cell) : Nat := bitsOf c.ctl.toNat 7 0
/-- VC. -/
def Cell.vc (c : Cell) : Nat := bitsOf c.ctl.toNat 9 8
/-- NEXT_EXT. -/
def Cell.nextExt (c : Cell) : Nat := bitsOf c.ctl.toNat 12 10
/-- EXT_COUNT. -/
def Cell.extCount (c : Cell) : Nat := bitsOf c.ctl.toNat 14 13
/-- COPY. -/
def Cell.copy (c : Cell) : Bool := bitOf c.ctl.toNat 15
/-- MIRRORED. -/
def Cell.mirrored (c : Cell) : Bool := bitOf c.ctl.toNat 16
/-- DATA_LEN. -/
def Cell.dataLen (c : Cell) : Nat := bitsOf c.ctl.toNat 25 17
/-- A gold cell (R202). -/
def Cell.gold (c : Cell) : Bool := 48 ≤ c.age

/-- Replace AGE. -/
def Cell.withAge (c : Cell) (a : Nat) : Cell := { c with ctl := BitVec.ofNat 32 (setBits c.ctl.toNat 7 0 a) }
/-- Mark a possible copy (R182). -/
def Cell.withCopy (c : Cell) : Cell := { c with ctl := BitVec.ofNat 32 (setBits c.ctl.toNat 15 15 1) }

/-- Word 0 of extension header i. -/
def Cell.extWord (c : Cell) (i : Nat) : Nat := leNat ((c.payload.drop (16 * i)).take 4)

/-- Extension header i: 16 bytes. -/
def Cell.ext (c : Cell) (i : Nat) : List Byte := (c.payload.drop (16 * i)).take 16

/-- The data bytes. -/
def Cell.data (c : Cell) : List Byte := (c.payload.drop (16 * c.extCount)).take c.dataLen

/-- The chain (R193): for each header reached, at most three, the kind that named it and its first word. -/
def Cell.chain (c : Cell) (i named : Nat) : Nat → List (Nat × Nat)
  | 0 => []
  | fuel + 1 => if named = 0 then [] else (named, c.extWord i) :: c.chain (i + 1) (bitsOf (c.extWord i) 5 3) fuel

/-- The reserved bits of the first word of an extension header of a kind (Tables 8.2, 8.7, 9.5, 9.8). -/
def extReserved (kind w : Nat) : Nat :=
  bitsOf w 7 6 + (match kind with
    | 1 => bitsOf w 31 22
    | 2 => bitsOf w 31 28
    | 3 => bitsOf w 31 23
    | _ => 0)

/-- The first failing check of orders 1 to 3 of Table 8.3. -/
def Cell.headerFault (c : Cell) : Option Nat :=
  let ch := c.chain 0 c.nextExt 3
  let deep := ch.length = 3 && bitsOf (c.extWord 2) 5 3 ≠ 0
  let kinds := ch.map (fun h => bitsOf h.2 2 0)
  if deep then some 0x71
  else if c.extCount ≠ ch.length ∨ 256 - 16 * c.extCount < c.dataLen then some 0x72
  else if ch.any (fun h => 4 ≤ h.1 || bitsOf h.2 2 0 ≠ h.1 || extReserved h.1 h.2 ≠ 0) ∨ kinds.eraseDups ≠ kinds ∨
    bitsOf c.ctl.toNat 31 26 ≠ 0 ∨ bitsOf c.flow.toNat 31 16 ≠ 0 ∨ c.last ≠ 0 then some 0x73
  else none

/-- The endpoint class of DST. -/
def Cell.cls (c : Cell) : Nat := bitsOf c.dst.toNat 11 8

/-- The memory-semantic extension header of a cell, if it has one. -/
def Cell.memExt (c : Cell) : Option (List Byte) :=
  (List.range c.extCount).findSome? (fun i => if bitsOf (c.extWord i) 2 0 = 2 then some (c.ext i) else none)

/-- The 288 bytes of a cell, header words first (Table 8.1). -/
def Cell.bytes (c : Cell) : List Byte :=
  toLe 4 c.link.toNat ++ toLe 4 c.dst.toNat ++ toLe 4 c.src.toNat ++ toLe 4 c.ctl.toNat ++ toLe 4 c.flow.toNat ++
  toLe 8 c.endTag.toNat ++ toLe 4 c.last.toNat ++ padTo 256 c.payload

end Sys2Proof

namespace Sys2Proof.Machine

/-- A new cell: AGE 0, COPY 0; the payload is the extension headers, the data, and zeros. -/
def mkCell (dst src vc : Nat) (exts : List (List Byte)) (data : List Byte) (flow endTag : Nat) (mirrored : Bool) : Cell :=
  let first := match exts with
    | [] => 0
    | h :: _ => fldOf h 0 2 0
  { link := 0, dst := BitVec.ofNat 32 dst, src := BitVec.ofNat 32 src,
    ctl := BitVec.ofNat 32 (vc * 2 ^ 8 + first * 2 ^ 10 + exts.length * 2 ^ 13 + b2n mirrored * 2 ^ 16 + data.length * 2 ^ 17),
    flow := BitVec.ofNat 32 (flow % 65536), endTag := BitVec.ofNat 64 endTag, last := 0,
    payload := padTo 256 (exts.flatten ++ data) }

/-- An engine hands a cell to the injection of a router port; `ring` pays for it (R314). -/
def Dev.offer (d : Dev) (port : Nat) (c : Cell) (ring coll : Option Nat) : Dev :=
  let q := tabGet [] d.router.offers port
  { d with router := { d.router with offers := tabSet [] d.router.offers port (q ++ [⟨c, ring, coll⟩]) } }

end Sys2Proof.Machine
end

