-- ==== Sys2Proof/Machine/Carats.lean ====
section
/-! DEFINITION. Carats: what requesters hold, ask for and give back (R328 to R331, Table 13.3). -/

namespace Sys2Proof.Machine

/-- The budget of a requester: its quadrant for cores and HBM stacks, 4 (the hub) for optical engines and vault ports. -/
def budgetOf (req : Nat) : Nat := if req < 576 then req / 144 else if req < 584 then (req - 576) / 2 else 4

/-- PWR_BUDGETq. -/
def Reg.pwrBudgetOf (q : Nat) : Nat := if q < 4 then Reg.pwrBudget q else Reg.pwrBudget4

/-- The carats that a requester holds. -/
def Blocks.holds (b : Blocks) (req : Nat) : Nat := tabGet 0 b.pwr.held req

/-- The carats held against a budget (PWR_HELDq). -/
def Blocks.heldAgainst (b : Blocks) (q : Nat) : Nat := sumBy (·.2) (b.pwr.held.filter (fun e => budgetOf e.1 = q))

/-- Every carat held. -/
def Blocks.heldAll (b : Blocks) : Nat := sumBy (·.2) b.pwr.held

/-- The sum of the reservations left (PWR_RESERVED). -/
def Blocks.reservedLeft (b : Blocks) : Nat := sumBy (fun e => e.2.resLeft) b.ctxs

/-- A requester needs carats in all (R328): it asks for what it lacks. A request that waits already grows and keeps its stamp
(log entry 22). -/
def Dev.askCarats (d : Dev) (req need : Nat) (ctx : Option Nat) : Dev :=
  let lack := need - d.holds req
  if lack = 0 then d
  else if d.pwr.waiting.any (fun r => r.req = req) then
    let grow (r : CaratReq) : CaratReq := { r with carats := max r.carats lack }
    { d with pwr := { d.pwr with waiting := updWhere (fun r => r.req = req) grow d.pwr.waiting } }
  else { d with pwr := { d.pwr with waiting := d.pwr.waiting ++ [⟨req, d.glb.hubNow, lack, ctx⟩] } }

/-- A requester needs nothing any more: a request that waits is withdrawn without a grant (R331). -/
def Dev.withdrawCarats (d : Dev) (req : Nat) : Dev :=
  { d with pwr := { d.pwr with waiting := d.pwr.waiting.filter (fun r => r.req ≠ req) } }

/-- A requester returns all it holds (R328); carats held from a reservation go back to it while its context stays runnable, capped
at the reservation (R331). -/
def Dev.returnCarats (d : Dev) (req : Nat) : Dev :=
  let back := d.pwr.fromRes.filter (fun e => e.1 = req)
  let d := back.foldl (fun d e =>
    d.modCtx e.2.1 (fun c => if c.runnable then { c with resLeft := min c.resv (c.resLeft + e.2.2) } else c)) d
  { d with pwr := { d.pwr with held := tabErase req d.pwr.held, fromRes := d.pwr.fromRes.filter (fun e => e.1 ≠ req) } }

end Sys2Proof.Machine
end

