-- ==== Sys2Proof/Machine/Access.lean ====
section
/-! DEFINITION. The device range (R123 to R129): its parts, the placement of direct addresses on the stacks, protected
areas, the tile directory, and reading and writing of checked ranges. -/

namespace Sys2Proof.Machine

/-- The parts of Table 5.2. -/
inductive Part where
  | direct
  | tiered
  | remote
  | reserved
  deriving DecidableEq, Repr

/-- First tiered address. -/
def tieredBase : Nat := 0x010000000000

/-- Size of the direct part, 384 GiB. -/
def directSize : Nat := 0x006000000000

/-- Bytes of a tile and of a frame. -/
def tileBytes : Nat := 65536

/-- The part of Table 5.2 that holds an address. -/
def partOf (a : Nat) : Part :=
  if a < directSize then .direct
  else if tieredBase ≤ a && a < 0x090000000000 then .tiered
  else if 0x800000000000 ≤ a && a < 2 ^ 48 then .remote
  else .reserved

/-- 96 GiB, a quadrant's quarter of the direct part. -/
def quarter : Nat := 0x1800000000

/-- The place of a direct address in Table 5.3: stack number times 2^36 plus the offset in the stack. -/
def hbmKey (ilv : Bool) (a : Nat) : Nat :=
  if ilv then
    let q := a / quarter
    (2 * q + bitsOf a 12 12) * 2 ^ 36 + (a - q * quarter) / 8192 * 4096 + a % 4096
  else bitsOf a 14 12 * 2 ^ 36 + a / 32768 * 4096 + a % 4096

/-- The direct address that lies at a place (the inverse of `hbmKey`). -/
def hbmAddr (ilv : Bool) (key : Nat) : Nat :=
  let s := key / 2 ^ 36
  let o := key % 2 ^ 36
  if ilv then s / 2 * quarter + o / 4096 * 8192 + s % 2 * 4096 + o % 4096
  else o / 4096 * 32768 + s * 4096 + o % 4096

/-- MIG_CTRL.HBM_ILV. -/
def Blocks.ilv (b : Blocks) : Bool := b.flag Reg.migCtrl 2

/-- n bytes of the direct part. -/
def Blocks.dirRead (b : Blocks) (a n : Nat) : List Byte := (List.range n).map (fun i => memByte b.hbm (hbmKey b.ilv (a + i)))

/-- A little-endian word of the direct part. -/
def Blocks.dirNat (b : Blocks) (a n : Nat) : Nat := leNat (b.dirRead a n)

/-- Write bytes to the direct part. -/
def Dev.dirWrite (d : Dev) (a : Nat) : List Byte → Dev
  | [] => d
  | x :: xs => Dev.dirWrite { d with hbm := memSet d.hbm (hbmKey d.ilv a) x } (a + 1) xs

/-- Zero [a, a + n) of the direct part. -/
def Dev.dirClear (d : Dev) (a n : Nat) : Dev :=
  { d with hbm := d.hbm.filter (fun e => !(a ≤ hbmAddr d.ilv e.1 && hbmAddr d.ilv e.1 < a + n)) }

/-- Copy [sa, sa + n) of another memory to the direct part. -/
def Dev.dirCopyIn (d : Dev) (a : Nat) (src : Mem) (sa n : Nat) : Dev :=
  let d := d.dirClear a n
  let listed := src.filter (fun e => sa ≤ e.1 && e.1 < sa + n)
  { d with hbm := listed.foldl (fun m e => memSet m (hbmKey d.ilv (a + (e.1 - sa))) e.2) d.hbm }

/-- Copy [a, a + n) of the direct part into another memory at da. -/
def Blocks.dirCopyOut (b : Blocks) (a n : Nat) (dst : Mem) (da : Nat) : Mem :=
  (b.hbm.filter (fun e => a ≤ hbmAddr b.ilv e.1 && hbmAddr b.ilv e.1 < a + n)).foldl
    (fun m e => memSet m (da + (hbmAddr b.ilv e.1 - a)) e.2) (memClear dst da n)

/-- [a, a + n) meets [c, c + m). -/
def overlaps (a n c m : Nat) : Bool := decide (a < c + m) && decide (c < a + n) && decide (0 < n) && decide (0 < m)

/-- FIRST_FRAME and FRAMES of a frame pool register. -/
def Blocks.poolFrames (b : Blocks) (reg : Nat) : Nat × Nat := (b.fld reg 22 0, b.fld reg 54 32)

/-- Tiles of MIG_VAULT_SIZE. -/
def Blocks.tiles (b : Blocks) : Nat := b.rd Reg.migVaultSize / tileBytes

/-- Bytes of a context's save area (R322). -/
def Blocks.saveBytes (b : Blocks) : Nat := 32 * b.lc * (2 * 2 ^ 20 + 64)

/-- The areas that only their owner may access, as (base, bytes): frame pools, tile directory, tag store and replica pool
while a Mount is loaded (R128, R153, R236), and the save areas of the contexts that exist (R322). -/
def Blocks.protectedAreas (b : Blocks) : List (Nat × Nat) :=
  let pool (reg : Nat) : Nat × Nat := ((b.poolFrames reg).1 * tileBytes, (b.poolFrames reg).2 * tileBytes)
  (if b.mgmt.mount.isSome then
    [pool Reg.migStreamPool, pool Reg.migCachePool, (b.rd Reg.migTdirBase, 8 * b.tiles),
     (b.rd Reg.poolTagBase, 2 * 2 ^ 20), pool Reg.memReplPool]
   else []) ++
  (b.ctxs.filterMap (fun e => if e.2.mode ≠ .free && e.2.saveBase ≠ 0 then some (e.2.saveBase, b.saveBytes) else none))

/-- The range meets a protected area. -/
def Blocks.isProtected (b : Blocks) (a n : Nat) : Bool := b.protectedAreas.any (fun p => overlaps a n p.1 p.2)

/-- The stack that holds a direct address (Table 5.3). -/
def Blocks.stackOf (b : Blocks) (a : Nat) : Nat := hbmKey b.ilv a / 2 ^ 36

/-- The stacks on which [a, a + n) lies. -/
def Blocks.stacksOf (b : Blocks) (a n : Nat) : List Nat :=
  ((List.range (min 8 ((a + n - 1) / 4096 - a / 4096 + 1))).map (fun i => b.stackOf (a / 4096 * 4096 + i * 4096))).eraseDups

/-- STACK_FAIL of a stack (R359). -/
def Blocks.stackFailed (b : Blocks) (s : Nat) : Bool := b.flag Reg.glbResetStatus (8 + s)

/-- The first direct address of [a, a + n) that a failed stack makes unusable (R359): one on that stack; under HBM_ILV = 0 every direct
address. -/
def Blocks.failedAt (b : Blocks) (a n : Nat) : Option Nat :=
  if n = 0 ∨ (List.range 8).all (fun s => !b.stackFailed s) = true then none else
  let starts := a :: (List.range (min 8 ((a + n - 1) / 4096 - a / 4096))).map (fun i => (a / 4096 + 1 + i) * 4096)
  match starts.find? (fun x => b.stackFailed (b.stackOf x)) with
  | some x => some x
  | none => if b.ilv then none else some a

/-- A failed stack takes part of the range out of use (R359). -/
def Blocks.onFailedStack (b : Blocks) (a n : Nat) : Bool := (b.failedAt a n).isSome

/-- The stack that an uncorrectable error at a direct address is charged to: the one that holds it, or, where only the interleave makes
the address unusable, the lowest failed one. -/
def Blocks.errStack (b : Blocks) (a : Nat) : Nat :=
  let s := b.stackOf a
  if b.stackFailed s || b.ilv then s else ((List.range 8).find? b.stackFailed).getD s

/-- The range check of R123, R127, R128, R145 and R359: the fault code that an access of n bytes at a raises and the address logged, if
any. -/
def Blocks.checkRange (b : Blocks) (a n : Nat) : Option (Nat × Nat) :=
  if partOf a ≠ partOf (a + n - 1) ∨ partOf a = .reserved ∨ 2 ^ 48 < a + n then some (0x41, a)
  else match partOf a with
    | .tiered =>
      if tieredBase + b.rd Reg.migVaultSize < a + n then some (0x41, a)
      else if !b.flag Reg.migCtrl 0 then some (0x44, a)
      else none
    | .direct => if b.isProtected a n then some (0x42, a) else (b.failedAt a n).map (fun x => (0x45, x))
    | _ => none

/-! The tile directory (R128, Table 5.5). -/

/-- The directory entry of a tile. -/
def Blocks.tdir (b : Blocks) (i : Nat) : Nat := b.dirNat (b.rd Reg.migTdirBase + 8 * i) 8

/-- A store by a unit of the hub into an entry of its own table in the direct part: one 64-byte write that crosses the hub (R127, Table
14.1; log entry 57). -/
def Dev.putEntry (d : Dev) (a : Nat) (bs : List Byte) : Dev :=
  let s := d.stackOf a
  (((d.dirWrite a bs).askCarats (576 + s) 8 none).bump (Reg.hbmCntWrite s) 1).bump (Reg.hbmCntCross s) 1

/-- Replace the directory entry of a tile. -/
def Dev.setTdir (d : Dev) (i v : Nat) : Dev := d.putEntry (d.rd Reg.migTdirBase + 8 * i) (toLe 8 v)

/-- RESIDENT. -/
def Blocks.resident (b : Blocks) (i : Nat) : Bool := bitOf (b.tdir i) 0
/-- DIRTY. -/
def Blocks.dirty (b : Blocks) (i : Nat) : Bool := bitOf (b.tdir i) 1
/-- FETCHING. -/
def Blocks.fetching (b : Blocks) (i : Nat) : Bool := bitOf (b.tdir i) 2
/-- FRAME. -/
def Blocks.frameOf (b : Blocks) (i : Nat) : Nat := bitsOf (b.tdir i) 29 7
/-- PINS. -/
def Blocks.pins (b : Blocks) (i : Nat) : Nat := bitsOf (b.tdir i) 47 32

/-- Set one bit of a directory entry. -/
def Dev.tdirBit (d : Dev) (i bit v : Nat) : Dev := d.setTdir i (setBits (d.tdir i) bit bit v)

/-- The tiles that a tiered range touches, ascending. -/
def tilesOf (a n : Nat) : List Nat :=
  (List.range ((a + n - 1) / tileBytes - a / tileBytes + 1)).map (fun k => (a - tieredBase) / tileBytes + k)

/-- The port of a tile and its offset on the expander (R125). -/
def Blocks.vaultOf (b : Blocks) (i : Nat) : Nat × Nat :=
  let c0 := (b.mig.ports.getD 0 {}).counted
  let c1 := (b.mig.ports.getD 1 {}).counted
  if c0 && c1 then (i % 2, i / 2 * tileBytes) else if c0 then (0, i * tileBytes) else (1, i * tileBytes)

/-- LINK_UP of a vault port. -/
def Blocks.vaultUp (b : Blocks) (n : Nat) : Bool := b.flag (Reg.vltPortStatus n) 0
/-- LOST of a vault port. -/
def Blocks.vaultLost (b : Blocks) (n : Nat) : Bool := b.flag (Reg.vltPortStatus n) 9

/-- The direct address at which a byte of a direct or resident tiered address lies. -/
def Blocks.resolve (b : Blocks) (a : Nat) : Nat :=
  if partOf a = .tiered then b.frameOf ((a - tieredBase) / tileBytes) * tileBytes + a % tileBytes else a

/-- Bytes of a checked direct or tiered range whose tiles are resident. -/
def Blocks.devRead (b : Blocks) (a n : Nat) : List Byte :=
  (List.range n).map (fun i => memByte b.hbm (hbmKey b.ilv (b.resolve (a + i))))

/-- A little-endian word of the device range. -/
def Blocks.devNat (b : Blocks) (a n : Nat) : Nat := leNat (b.devRead a n)

/-- A range cut at the tile boundaries of the tiered part (R127): address and length of each piece. A direct range is one piece. -/
def tilePieces (a n : Nat) : List (Nat × Nat) :=
  if n = 0 then []
  else if partOf a ≠ .tiered then [(a, n)]
  else (tilesOf a n).map (fun i =>
    let lo := max a (tieredBase + i * tileBytes)
    (lo, min (a + n) (tieredBase + (i + 1) * tileBytes) - lo))

/-- The tile of a tiered address. -/
def tileOf (a : Nat) : Nat := (a - tieredBase) / tileBytes

/-- Every tile of a range is resident. -/
def Blocks.allResident (b : Blocks) (a n : Nat) : Bool := partOf a ≠ .tiered || (tilesOf a n).all (fun i => b.resident i)

/-- The current copy of a byte of a direct or tiered address (R129): the frame of a resident tile, else the Vault, with the stores into
the device's own tables that wait for the tile. -/
def Blocks.currentByte (b : Blocks) (a : Nat) : Byte :=
  if b.allResident a 1 then memByte b.hbm (hbmKey b.ilv (b.resolve a)) else
  let posted := (b.mig.stalls.filter (fun s => s.cmd.isNone)).flatMap (fun s => s.parts)
  match (posted.filter (fun p => p.addr ≤ a && a < p.addr + p.len)).getLast? with
  | some p => (p.store.getD []).getD (a - p.addr) 0
  | none => let (n, off) := b.vaultOf (tileOf a); memByte b.vault (n * 2 ^ 42 + off + a % tileBytes)

/-- n bytes of a direct or tiered range in their current copies. -/
def Blocks.currentBytes (b : Blocks) (a n : Nat) : List Byte := (List.range n).map (fun i => b.currentByte (a + i))

/-- A little-endian word in its current copy. -/
def Blocks.currentNat (b : Blocks) (a n : Nat) : Nat := leNat (b.currentBytes a n)

/-- Access marks of R129: REF, and DIRTY for a store, in the entry of every tile touched. -/
def Dev.touch (d : Dev) (a n : Nat) (store : Bool) : Dev :=
  if partOf a = .tiered then
    (tilesOf a n).foldl (fun d i => let d := d.tdirBit i 6 1; if store then d.tdirBit i 1 1 else d) d
  else d

/-- Store bytes in a checked direct or resident tiered range, without marks. -/
def Dev.devPut (d : Dev) (a : Nat) : List Byte → Dev
  | [] => d
  | x :: xs => Dev.devPut { d with hbm := memSet d.hbm (hbmKey d.ilv (d.resolve a)) x } (a + 1) xs

/-- Store bytes in a checked direct or resident tiered range. -/
def Dev.devWrite (d : Dev) (a : Nat) (bs : List Byte) : Dev := (d.devPut a bs).touch a bs.length true

/-- 64-byte lines of [a, a + n) that lie on a stack, stripe by stripe of 4 KiB (Table 5.3). -/
def Blocks.lines (b : Blocks) (a n s : Nat) : Nat :=
  let last := (a + n - 1) / 64
  sumBy (fun k => if b.stackOf (b.resolve (4096 * k)) = s then min last (64 * k + 63) - max (a / 64) (64 * k) + 1 else 0)
    ((List.range ((a + n - 1) / 4096 - a / 4096 + 1)).map (a / 4096 + ·))

/-- Count the 64-byte accesses of a range in the controllers' counters (Table 14.1). `quad` is the requester's quadrant; a
host or hub engine comes from none, so every access of it crosses the hub (R127). -/
def Dev.countHbm (d : Dev) (a n : Nat) (store : Bool) (quad : Option Nat) : Dev :=
  if n = 0 then d else
  (List.range 8).foldl (fun e s =>
    let k := d.lines a n s
    if k = 0 then e else
    let e := (e.askCarats (576 + s) 8 none).bump (if store then Reg.hbmCntWrite s else Reg.hbmCntRead s) k
    if quad = some (s / 2) && partOf a = .direct then e else e.bump (Reg.hbmCntCross s) k) d

/-- A read by an engine: access marks and counters. -/
def Dev.devTake (d : Dev) (a n : Nat) (quad : Option Nat) : Dev := (d.touch a n false).countHbm a n false quad

/-! The export window (R230, R233, R237): what a write at the home does to copies held elsewhere. -/

/-- Bytes of the export window. -/
def Blocks.exportBytes (b : Blocks) : Nat := b.rd Reg.memExportSize * 65536

/-- The sharers of a line of the export window. -/
def Blocks.sharersOf (b : Blocks) (line : Nat) : List Nat :=
  match b.remote.sharers.find? (fun e => e.1 = line) with
  | some e => e.2
  | none => []

/-- The bit of MEM_REPL_MAP of a page of the window (R236). -/
def Blocks.replicable (b : Blocks) (page : Nat) : Bool :=
  bitOf (b.currentByte (b.rd Reg.memReplMap + page / 8)).toNat (page % 8)

/-- A write to a replicable page raises its epoch and tells every device of the block (R237). -/
def Dev.touchPage (d : Dev) (page : Nat) : Dev :=
  if !d.replicable page then d else
  let e := (tabGet 0 d.remote.epochs page + 1) % 65536
  let d : Dev := { d with remote := { d.remote with epochs := tabSet 0 d.remote.epochs page e } }
  d.filBroadcast 4 e page []

/-- An invalidate request (MOP 5) for a line of this home to a sharer (R233); FLOW is a free value. -/
def Dev.sendInvalidate (d : Dev) (line to_ : Nat) : Dev :=
  let head := toLe 4 (2 + 5 * 2 ^ 8 + 64 * 2 ^ 16) ++ toLe 4 0 ++ toLe 8 (line * 64)
  let (f, d) := d.fresh
  let cell := mkCell (addrOf (d.placeAt to_) 5 0) (addrOf d.self 5 0) 2 [head] [] f.toNat 0 false
  (d.offer 11 cell none none).bump Reg.memCntInval 1

/-- Sharers of a line that have been asked and have not answered. -/
def Blocks.askedOf (b : Blocks) (line : Nat) : List Nat := (b.remote.waits.filter (fun x => x.line = line)).flatMap (fun x => x.sharers)

/-- A write to a line with sharers waits for their answers; those not asked yet are sent an invalidate request (R233). -/
def Dev.deferWrite (d : Dev) (w : LineWait) : Dev :=
  let asked := d.askedOf w.line
  let d := (w.sharers.filter (fun i => !asked.contains i)).foldl (fun d i => d.sendInvalidate w.line i) d
  { d with remote := { d.remote with waits := d.remote.waits ++ [w] } }

/-- The part of [a, a + n) that lies in the export window: its offset in the window and its length. -/
def Blocks.windowPart (b : Blocks) (a n : Nat) : Nat × Nat :=
  let base := b.rd Reg.memExportBase
  let lo := max a base
  (lo - base, min (a + n) (base + b.exportBytes) - lo)

/-- The units of a size of the export window that [a, a + n) touches. -/
def Blocks.windowUnits (b : Blocks) (size a n : Nat) : List Nat :=
  let (o, k) := b.windowPart a n
  if k = 0 then [] else (List.range ((o + k - 1) / size - o / size + 1)).map (o / size + ·)

/-- The lines of [a, a + n) that devices share or that a write waits for already (R233). -/
def Blocks.sharedLines (b : Blocks) (a n : Nat) : List Nat :=
  if b.remote.sharers.isEmpty && b.remote.waits.isEmpty then [] else
  (b.windowUnits 64 a n).filter (fun l => !(b.sharersOf l).isEmpty || !(b.askedOf l).isEmpty)

/-- Whom a write to a line waits for: its sharers and those that an earlier write asked. -/
def Blocks.waitsFor (b : Blocks) (line : Nat) : List Nat := (b.sharersOf line ++ b.askedOf line).eraseDups

/-- Bytes are stored in a direct or resident range whose lines nobody shares, with marks and counters; the pages of the export window
that they change take a new epoch (R129, R237). -/
def Dev.devStore (d : Dev) (a : Nat) (bs : List Byte) (quad : Option Nat) : Dev :=
  let d := (d.windowUnits 65536 a bs.length).foldl Dev.touchPage d
  (d.devWrite a bs).countHbm a bs.length true quad

/-- A store of a core to bytes of one line: made at once, or after the sharers of the line have answered (R233). -/
def Dev.storeLine (d : Dev) (owner : Nat × Nat) (a : Nat) (bs : List Byte) (quad : Option Nat) : Dev :=
  match d.sharedLines a bs.length with
  | [] => d.devStore a bs quad
  | l :: _ => d.deferWrite { line := l, sharers := d.waitsFor l, req := none, owner := some owner,
                             local_ := (List.range bs.length).map (fun i => (a + i, bs.getD i 0)) }

/-- A store of a core, by lines where some line of it is shared. `owner` is the core and the issue order of the instruction. -/
def Dev.coreStore (d : Dev) (owner : Nat × Nat) (a : Nat) (bs : List Byte) (quad : Option Nat) : Dev :=
  if (d.sharedLines a bs.length).isEmpty then d.devStore a bs quad
  else
    let head := 64 - a % 64
    let d := d.storeLine owner a (bs.take head) quad
    ((chunks 64 (bs.length / 64 + 1) (bs.drop head)).foldl
      (fun (e : Dev × Nat) part => (e.1.storeLine owner e.2 part quad, e.2 + part.length)) (d, a + head)).1

/-- Corrected and uncorrectable words of the controllers (Table 14.1), charged to the stack of an address. -/
def Dev.countEcc (d : Dev) (a corr : Nat) : Dev :=
  if corr = 0 then d else d.bump (Reg.hbmCntCorr (d.stackOf (d.resolve a))) corr

/-! Core-local memory (R69, R70, Table 3.2). -/

/-- Bytes of a core's local memory. -/
def Blocks.locRead (b : Blocks) (p a n : Nat) : List Byte := memRead b.loc (p * 2 ^ 22 + a) n

/-- A little-endian word of a core's local memory. -/
def Blocks.locNat (b : Blocks) (p a n : Nat) : Nat := leNat (b.locRead p a n)

/-- Store bytes in a core's local memory. -/
def Dev.locWrite (d : Dev) (p a : Nat) (bs : List Byte) : Dev := { d with loc := memWrite d.loc (p * 2 ^ 22 + a) bs }

end Sys2Proof.Machine
end

