-- ==== Sys2Proof/Machine/Pool.lean ====
section
/-! DEFINITION. The buffer pool manager (R150 to R163): choice of a buffer, tags, pointer checks, frees, reclaims, the
auditor and the spare bitmap words. -/

namespace Sys2Proof.Machine

/-- Bytes of a buffer of class k (Table 6.1). -/
def classBytes (k : Nat) : Nat := 256 * 4 ^ k

/-- A class of the pool. -/
def Blocks.poolClass (b : Blocks) (k : Nat) : PoolClass := b.pool.classes.getD k {}

/-- Change a class. -/
def Dev.modClass (d : Dev) (k : Nat) (f : PoolClass → PoolClass) : Dev :=
  { d with pool := { d.pool with classes := d.pool.classes.set k (f (d.poolClass k)) } }

/-- WORDSp of class k (R151). -/
def Blocks.partWords (b : Blocks) (k p : Nat) : Nat := b.fld (Reg.poolClassPart k) (16 * p + 10) (16 * p)

/-- First bitmap word of partition p. -/
def Blocks.partFirst (b : Blocks) (k p : Nat) : Nat := sumBy (b.partWords k) (List.range p)

/-- Words of all four partitions. -/
def Blocks.classWords (b : Blocks) (k : Nat) : Nat := b.partFirst k 4

/-- The partition to which a buffer belongs. -/
def Blocks.partOfBuf (b : Blocks) (k n : Nat) : Nat :=
  ((List.range 4).find? (fun p => n / 64 < b.partFirst k p + b.partWords k p)).getD 3

/-- A bitmap word; a quarantined word reads as full (R158). -/
def Blocks.mapWord (b : Blocks) (k w : Nat) : Nat :=
  if (b.poolClass k).bad.contains w then 2 ^ 64 - 1 else (tabGet 0 (b.poolClass k).words w).toNat

/-- The bitmap bit of a buffer. -/
def Blocks.mapBit (b : Blocks) (k n : Nat) : Bool := bitOf (b.mapWord k (n / 64)) (n % 64)

/-- Set the bitmap bit of a buffer. -/
def Dev.setMapBit (d : Dev) (k n v : Nat) : Dev :=
  d.modClass k (fun c =>
    let w := setBits (tabGet 0 c.words (n / 64)).toNat (n % 64) (n % 64) v
    { c with words := tabSet 0 c.words (n / 64) (BitVec.ofNat 64 w) })

/-- The lowest free buffer of a partition (R154). -/
def Blocks.poolPick (b : Blocks) (k p : Nat) : Option Nat :=
  (List.range (b.partWords k p)).findSome? (fun i =>
    let w := b.partFirst k p + i
    let v := b.mapWord k w
    if v = 2 ^ 64 - 1 then none else (List.range 64).findSome? (fun j => if bitOf v j then none else some (64 * w + j)))

/-- Where the tag of a buffer lies (R153). -/
def Blocks.tagAddr (b : Blocks) (k n : Nat) : Nat := b.rd Reg.poolTagBase + 4 * (65536 * k + n)

/-- The tag of a buffer (Table 6.3). -/
def Blocks.tag (b : Blocks) (k n : Nat) : Nat := b.dirNat (b.tagAddr k n) 4

/-- Write the tag of a buffer. -/
def Dev.setTag (d : Dev) (k n v : Nat) : Dev := d.putEntry (d.tagAddr k n) (toLe 4 v)

/-- Tag fields. -/
def tagSub (t : Nat) : Nat := bitsOf t 15 0
/-- CONTEXT of a tag. -/
def tagCtx (t : Nat) : Nat := bitsOf t 27 22
/-- PART of a tag. -/
def tagPart (t : Nat) : Nat := bitsOf t 29 28
/-- VALID of a tag. -/
def tagValid (t : Nat) : Bool := bitOf t 31

/-- The pointer of a buffer (R150). -/
def Blocks.bufAddr (b : Blocks) (k n : Nat) : Nat := b.rd (Reg.poolClassBase k) + n * classBytes k

/-- The class that serves a size (R152). -/
def classFor (size : Nat) : Option Nat := (List.range 8).find? (fun k => size ≤ classBytes k)

/-- An allocation in class k, partition p (R152 to R154): the pointer, 0 if refused. -/
def Dev.allocIn (d : Dev) (k p ctx sub : Nat) : Nat × Dev :=
  let refused := (0, d.bump Reg.poolCntEmpty 1)
  if !d.flag Reg.poolCtrl 0 || decide ((d.ctx ctx).mode = .tearing) then refused else
  match d.poolPick k p with
  | none => refused
  | some n =>
    let ptr := d.bufAddr k n
    let d := (d.setMapBit k n 1).setTag k n (sub % 65536 + ctx * 2 ^ 22 + p * 2 ^ 28 + 2 ^ 31)
    let d := d.bump Reg.poolCntAlloc 1
    (ptr, { d with pool := { d.pool with reclaimed := d.pool.reclaimed.filter (· ≠ ptr) } })

/-- A request of SIZE bytes in partition 0, 2 or 3. -/
def Dev.alloc (d : Dev) (size p ctx sub : Nat) : Nat × Dev :=
  match classFor size with
  | none => (0, d.bump Reg.poolCntEmpty 1)
  | some k => d.allocIn k p ctx sub

/-- The class region that contains a pointer. -/
def Blocks.classOf (b : Blocks) (ptr : Nat) : Option Nat :=
  (List.range 8).find? (fun k => b.rd (Reg.poolClassBase k) ≤ ptr &&
    ptr < b.rd (Reg.poolClassBase k) + 64 * b.classWords k * classBytes k)

/-- The checks of R156 on a pointer handed back by a program or ring of `owner`, or by the hardware: the failing code, or the
buffer. -/
def Blocks.checkFree (b : Blocks) (ptr : Nat) (owner : Option Nat) : Nat ⊕ Nat × Nat :=
  match b.classOf ptr with
  | none => .inl 0x51
  | some k =>
    let off := ptr - b.rd (Reg.poolClassBase k)
    if off % classBytes k ≠ 0 then .inl 0x52 else
    let n := off / classBytes k
    let t := b.tag k n
    if !tagValid t then .inl 0x53 else
    match owner with
    | some c => if tagCtx t ≠ c ∨ tagPart t = 0 ∨ tagPart t = 2 then .inl 0x54 else .inr (k, n)
    | none => .inr (k, n)

/-- Free a buffer that passed: bitmap, tag, held count of a key-value slot (R156). -/
def Dev.freeBuf (d : Dev) (k n : Nat) : Dev :=
  let t := d.tag k n
  let d := ((d.setMapBit k n 0).setTag k n (setBits t 31 31 0)).bump Reg.poolCntFree 1
  if tagPart t = 1 then
    d.modCtx (tagCtx t) (fun c => { c with kvHeld := tabSet 0 c.kvHeld (tagSub t) (tabGet 0 c.kvHeld (tagSub t) - 1) })
  else d

/-- A free by a Routing Engine, the router or the collective engine (R156, R157). -/
def Dev.hwFree (d : Dev) (ptr : Nat) : Dev :=
  match d.checkFree ptr none with
  | .inr (k, n) => d.freeBuf k n
  | .inl code =>
    if d.pool.reclaimed.contains ptr then
      ({ d with pool := { d.pool with reclaimed := d.pool.reclaimed.filter (· ≠ ptr) } }).bump Reg.poolCntStale 1
    else d.log { code := code, domain := 35, addr := ptr, kind := 1 }

/-- The buffers of class k that are allocated, ascending: by bitmap, in quarantined words by tag. -/
def Blocks.allocated (b : Blocks) (k : Nat) : List Nat :=
  (List.range (b.classWords k)).flatMap (fun w =>
    if b.mapWord k w = 0 then [] else
    ((List.range 64).map (64 * w + ·)).filter (fun n =>
      if (b.poolClass k).bad.contains w then tagValid (b.tag k n) else b.mapBit k n))

/-- A tag reclaim (R157): free every allocated buffer whose tag the pattern matches. -/
def Dev.reclaim (d : Dev) (pat : Nat → Bool) : Dev :=
  (List.range 8).foldl (fun d k =>
    (d.allocated k).foldl (fun d n =>
      let t := d.tag k n
      if tagValid t && pat t then
        let ptr := d.bufAddr k n
        let d := d.freeBuf k n
        if tagPart t = 0 || tagPart t = 2 then
          { d with pool := { d.pool with reclaimed := d.pool.reclaimed ++ [ptr] } }
        else d
      else d) d) d

/-- The tag pattern of a reclaim. -/
def reclaimPat : Reclaim → Nat → Bool
  | .context c, t => tagCtx t = c
  | .sequence c slot, t => tagCtx t = c && tagPart t = 1 && tagSub t = slot
  | .step layer half, t => tagPart t = 0 && bitsOf t 10 3 = layer && bitsOf t 2 2 = half

/-- Where the record of a sequence slot lies (R139). -/
def Blocks.slotAddr (b : Blocks) (c n : Nat) : Nat := b.rd Reg.migKvSeqBase + (c * 4096 + n) * 8

/-- The record of a sequence slot. -/
def Blocks.slotRec (b : Blocks) (c n : Nat) : Nat := b.currentNat (b.slotAddr c n) 8

/-- The slot is occupied. -/
def Blocks.slotUsed (b : Blocks) (c n : Nat) : Bool := bitOf (b.slotRec c n) 63

/-- Record a fault of Table 6.10 in POOL_FAULT (R161): POOL_FAULT_ADDR holds the pointer that codes 0x51 to 0x54 log, 0 for the others.
Code 0x55 is a refused request and counts as one (R152, R155). -/
def Dev.setPoolFault (d : Dev) (ctx code addr : Nat) : Dev :=
  let d := if code = 0x55 then d.bump Reg.poolCntEmpty 1 else d
  if d.flag Reg.poolFault 31 ∨ code < 0x51 ∨ 0x56 < code then d
  else (d.wr Reg.poolFault (2 ^ 31 + ctx * 2 ^ 17 + code)).wr Reg.poolFaultAddr (if code ≤ 0x54 then addr % 2 ^ 48 else 0)

/-- A program or ring allocation (R155): the code it faults with and the address logged, or the pointer. `here` is the address
of the instruction or command. -/
def Dev.userAlloc (d : Dev) (ctx size imm here : Nat) : (Nat × Nat) ⊕ (Nat × Dev) :=
  let part := bitsOf imm 17 16
  let sub := bitsOf imm 15 0
  if part = 0 ∨ part = 2 ∨ (part = 3 ∧ (size = 0 ∨ 4194304 < size)) ∨ 2 ^ 18 ≤ imm ∨ (part = 1 ∧ 4096 ≤ sub) then
    .inl (0x56, here)
  else if part = 1 then
    let held := tabGet 0 (d.ctx ctx).kvHeld sub
    if !d.slotUsed ctx sub then .inl (0x56, here)
    else if bitsOf (d.slotRec ctx sub) 19 0 ≤ held then .inl (0x48, d.slotAddr ctx sub)
    else
      let (ptr, e) := d.allocIn (d.fld Reg.poolCtrl 7 5) 1 ctx sub
      if ptr ≠ 0 then .inr (ptr, e.modCtx ctx (fun c => { c with kvHeld := tabSet 0 c.kvHeld sub (held + 1) }))
      else if d.flag Reg.poolCtrl 0 then .inl (0x55, d.slotAddr ctx sub)
      else .inr (0, e)
  else .inr (d.alloc size 3 ctx sub)

/-- An auditor finding on a buffer (Table 6.5): none, mismatch, dead owner, stale, or only to be marked SEEN. -/
inductive Finding where
  | fine
  | mismatch
  | dead
  | stale
  | mark
  deriving DecidableEq, Repr

/-- The finding of Table 6.5 for a buffer. -/
def Blocks.audit (b : Blocks) (k n : Nat) : Finding :=
  let t := b.tag k n
  if b.mapBit k n ≠ tagValid t then .mismatch
  else if (b.ctx (tagCtx t)).mode ≠ .live then .dead
  else if tagPart t = 1 ∧ !b.slotUsed (tagCtx t) (tagSub t) then .dead
  else if tagPart t = 0 ∨ tagPart t = 2 then if bitOf t 30 then .stale else .mark
  else .fine

/-- A finding recorded (R159). -/
def Dev.leak (d : Dev) (ptr : Nat) : Dev :=
  ((d.wr Reg.poolLeakAddr ptr).bump Reg.poolCntLeak 1).log { code := 0x57, domain := 35, addr := ptr, kind := 1 }

/-- One pass of the auditor (R159). -/
def Dev.auditPass (d : Dev) : Dev :=
  if !d.flag Reg.poolCtrl 1 then d else
  (List.range 8).foldl (fun d k =>
    ((List.range (64 * d.classWords k)).filter (fun n => d.mapBit k n || tagValid (d.tag k n))).foldl (fun d n =>
      if (d.poolClass k).bad.contains (n / 64) && !tagValid (d.tag k n) then d else
      let ptr := d.bufAddr k n
      match d.audit k n with
      | .fine => d
      | .mismatch =>
        let e := d.leak ptr
        if d.flag Reg.poolCtrl 2 then e.setMapBit k n (b2n (tagValid (d.tag k n))) else e
      | .dead => let e := d.leak ptr; if d.flag Reg.poolCtrl 2 then e.freeBuf k n else e
      | .stale => d.leak ptr
      | .mark => d.setTag k n (setBits (d.tag k n) 30 30 1)) d) d

/-- A bitmap word rebuilt from the tags of its buffers. -/
def Blocks.wordFromTags (b : Blocks) (k w : Nat) : Nat :=
  sumBy (fun j => if tagValid (b.tag k (64 * w + j)) then 2 ^ j else 0) (List.range 64)

/-- An error in a bitmap word (R158). A correctable one is corrected and counted; after an uncorrectable one the word is rebuilt into a
spare, or quarantined. -/
def Dev.bitmapRebuild (d : Dev) (k w : Nat) (correctable : Bool) : Dev :=
  if 8 ≤ k ∨ 1024 ≤ w then d else
  if correctable then d.modClass k (fun c => { c with corr := c.corr + 1 }) else
  if 0 < (d.poolClass k).spares then
    (d.modClass k (fun c => { c with spares := c.spares - 1,
                                     words := tabSet 0 c.words w (BitVec.ofNat 64 (d.wordFromTags k w)) })).bump Reg.poolCntRebuilt 1
  else if (d.poolClass k).bad.contains w then d
  else d.modClass k (fun c => { c with bad := c.bad ++ [w], lost := c.lost + 1 })

/-- Free buffers of a partition (Table 6.9). -/
def Blocks.freeCount (b : Blocks) (k p : Nat) : Nat :=
  sumBy (fun i => 64 - sumBy (fun j => b2n (bitOf (b.mapWord k (b.partFirst k p + i)) j)) (List.range 64))
    (List.range (b.partWords k p))

/-- POOL_ALLOCATION: a request of a Routing Engine (partition 0), the router or the collective engine (partition 2)
(R152, R154); the reply register holds the pointer, 0 if refused. -/
def Dev.poolAllocation (d : Dev) (who : PoolUser) (size ctx sub : Nat) : Dev :=
  let part := match who with
    | .re _ => 0
    | _ => 2
  let (ptr, e) := d.alloc size part ctx sub
  { e with pool := { e.pool with reply := ptr } }

/-- Meaning of POOL_ALLOCATION. -/
def execPoolAllocation (who : PoolUser) (size ctx sub : Nat) (s : State) : Host.Outcome State Fault Refusal :=
  .next (s.onDev (s.dev.live (fun d => d.poolAllocation who size ctx sub)))

/-- Meaning of HARDWARE_FREE. -/
def execHardwareFree (_who : PoolUser) (ptr : Nat) (s : State) : Host.Outcome State Fault Refusal :=
  .next (s.onDev (s.dev.live (fun d => d.hwFree ptr)))

/-- Meaning of TAG_RECLAIM. -/
def execTagReclaim (pat : Reclaim) (s : State) : Host.Outcome State Fault Refusal :=
  .next (s.onDev (s.dev.live (fun d => d.reclaim (reclaimPat pat))))

/-- Meaning of AUDIT_PASS. -/
def execAuditPass (s : State) : Host.Outcome State Fault Refusal := .next (s.onDev (s.dev.live Dev.auditPass))

/-- Meaning of BITMAP_REBUILD. -/
def execBitmapRebuild (cls word : Nat) (correctable : Bool) (s : State) : Host.Outcome State Fault Refusal :=
  .next (s.onDev (s.dev.live (fun d => d.bitmapRebuild cls word correctable)))

end Sys2Proof.Machine
end

