-- ==== Sys2Proof/Machine/Migrate.lean ====
section
/-! DEFINITION. The migration engine (R128 to R137): frames, transfers on the vault ports, pins, stages, and the accesses that
engines make to the device range. -/

namespace Sys2Proof.Machine

/-- A vault port of the migration engine. -/
def Blocks.vport (b : Blocks) (n : Nat) : VaultPort := b.mig.ports.getD n {}

/-- Change a vault port. -/
def Dev.modVport (d : Dev) (n : Nat) (f : VaultPort → VaultPort) : Dev :=
  { d with mig := { d.mig with ports := d.mig.ports.set n (f (d.vport n)) } }

/-- The port of a tile serves transfers: link up and not lost (R143). -/
def Blocks.tileServed (b : Blocks) (i : Nat) : Bool := b.vaultUp (b.vaultOf i).1 && !b.vaultLost (b.vaultOf i).1

/-- A transfer of the tile is queued. -/
def Blocks.queued (b : Blocks) (i : Nat) : Bool := (b.vport (b.vaultOf i).1).queue.any (fun x => x.tile = i && !x.writeback)

/-- Queue a fetch; one that is queued or running is joined, at the higher class (R131). -/
def Dev.queueFetch (d : Dev) (i cls : Nat) (stream predicted ahead : Bool) : Dev :=
  if d.resident i || d.fetching i then d else
  let d := d.askCarats (590 + (d.vaultOf i).1) 4 none
  d.modVport (d.vaultOf i).1 (fun p =>
    if p.queue.any (fun x => x.tile = i && !x.writeback) then
      let join (x : Xfer) : Xfer := { x with cls := min x.cls cls, predicted := x.predicted && predicted, ahead := x.ahead && ahead }
      { p with queue := updWhere (fun x => x.tile = i && !x.writeback) join p.queue }
    else { p with queue := p.queue ++ [⟨i, cls, false, stream, predicted, ahead⟩] })

/-- Queue a write-back; one that is queued already takes the higher class (R131, Table 5.8). -/
def Dev.queueWriteback (d : Dev) (i cls : Nat) : Dev :=
  let d := d.askCarats (590 + (d.vaultOf i).1) 4 none
  d.modVport (d.vaultOf i).1 (fun p =>
    if p.queue.any (fun x => x.tile = i && x.writeback) then
      { p with queue := updWhere (fun x => x.tile = i && x.writeback) (fun x => { x with cls := min x.cls cls }) p.queue }
    else { p with queue := p.queue ++ [⟨i, cls, true, false, false, false⟩] })

/-- The frame is in use. -/
def Blocks.frameUsed (b : Blocks) (f : Nat) : Bool := tabGet 0 b.mig.frames f ≠ 0

/-- The tile in a frame. -/
def Blocks.tileIn (b : Blocks) (f : Nat) : Nat := tabGet 0 b.mig.frames f - 1

/-- The frame pool register of a kind of fetch. -/
def framePool (stream : Bool) : Nat := if stream then Reg.migStreamPool else Reg.migCachePool

/-- The frames of a pool, ascending. -/
def Blocks.poolList (b : Blocks) (stream : Bool) : List Nat :=
  let (first, n) := b.poolFrames (framePool stream)
  (List.range n).map (first + ·)

/-- Free a frame: its tile is no longer resident. -/
def Dev.freeFrame (d : Dev) (f : Nat) : Dev :=
  let i := d.tileIn f
  let d := d.setTdir i (setBits (d.tdir i) 29 0 0)
  { d with mig := { d.mig with frames := tabErase f d.mig.frames, ahead := d.mig.ahead.filter (fun e => e.2 ≠ i),
                               predicted := d.mig.predicted.filter (fun t => t ≠ i) } }

/-- The second-chance hand of a pool (R131). -/
def Blocks.hand (b : Blocks) (stream : Bool) : Nat := if stream then b.mig.streamHand else b.mig.cacheHand

/-- Move the hand. -/
def Dev.setHand (d : Dev) (stream : Bool) (h : Nat) : Dev :=
  if stream then { d with mig := { d.mig with streamHand := h } } else { d with mig := { d.mig with cacheHand := h } }

/-- A frame that the hand may consider: no pins, no transfer on it, and, if dirty, a port that can take it back. -/
def Blocks.evictable (b : Blocks) (f : Nat) : Bool :=
  let i := b.tileIn f
  b.frameUsed f && b.pins i = 0 && !b.fetching i && !bitOf (b.tdir i) 3 && !bitOf (b.tdir i) 4 &&
    (!b.dirty i || b.tileServed i)

/-- Sweep a pool of n frames from the hand (R131): `fuel` frames are considered. Answers the freed frame, if one was found. -/
def Dev.sweep (d : Dev) (stream : Bool) (first n cls : Nat) : Nat → Option Nat × Dev
  | 0 => (none, d)
  | fuel + 1 =>
    let f := first + d.hand stream % n
    let d := d.setHand stream ((d.hand stream + 1) % n)
    if !d.evictable f then d.sweep stream first n cls fuel
    else
      let i := d.tileIn f
      if bitOf (d.tdir i) 6 then (d.tdirBit i 6 0).sweep stream first n cls fuel
      else if d.dirty i then ((d.tdirBit i 4 1).queueWriteback i cls).sweep stream first n cls fuel
      else (some f, d.freeFrame f)

/-- The lookahead tile to evict first: farthest stage, last fetched (R133). -/
def Blocks.aheadVictim (b : Blocks) : Option Nat :=
  let held := b.mig.ahead.filter (fun e => b.resident e.2 && b.evictable (b.frameOf e.2))
  let far := held.foldl (fun m e => max m e.1) 0
  ((held.filter (fun e => e.1 = far)).getLast?).map (·.2)

/-- A frame for a fetch (R131, R133): the lowest free one, then for a stage an evicted lookahead tile's, then the hand's. -/
def Dev.takeFrame (d : Dev) (stream ahead : Bool) (cls : Nat) : Option Nat × Dev :=
  match (d.poolList stream).find? (fun f => !d.frameUsed f) with
  | some f => (some f, d)
  | none =>
    if ahead then (none, d) else
    let lookahead := if stream then d.aheadVictim else none
    match lookahead with
    | some i => if d.dirty i then (none, (d.tdirBit i 4 1).queueWriteback i cls) else (some (d.frameOf i), d.freeFrame (d.frameOf i))
    | none =>
      let (first, n) := d.poolFrames (framePool stream)
      if n = 0 then (none, d) else d.sweep stream first n cls (2 * n)

/-- Cleaning write-backs of R131: with CLEAN = 1 the hand of each pool looks around its pool from where it stands, and every dirty
unpinned frame whose REF it finds clear is written back at class 3 (log entry 83). -/
def Dev.clean (d : Dev) : Dev :=
  if !d.flag Reg.migCtrl 1 then d else
  [true, false].foldl (fun d stream =>
    let (first, n) := d.poolFrames (framePool stream)
    let start := d.hand stream
    (List.range n).foldl (fun d k =>
      let f := first + (start + k) % n
      let i := d.tileIn f
      if d.frameUsed f && d.resident i && d.dirty i && d.pins i = 0 && !bitOf (d.tdir i) 6 && !bitOf (d.tdir i) 3 then
        d.queueWriteback i 3 else d) d) d

/-- Start a queued transfer on its port, if it can start: a fetch needs a frame. One that has nothing left to do leaves the queue. -/
def Dev.startXfer (d : Dev) (n : Nat) (x : Xfer) : Bool × Dev :=
  let begin_ (d : Dev) : Dev := d.modVport n (fun p => { p with queue := p.queue.filter (· ≠ x), running := some x })
  if x.writeback then
    if d.resident x.tile then (true, begin_ ((d.tdirBit x.tile 3 1).tdirBit x.tile 1 0))
    else (false, d.modVport n (fun p => { p with queue := p.queue.filter (· ≠ x) }))
  else if d.resident x.tile || d.fetching x.tile then (false, d.modVport n (fun p => { p with queue := p.queue.filter (· ≠ x) }))
  else
    match d.takeFrame x.stream x.ahead x.cls with
    | (none, e) => (false, e)
    | (some f, e) =>
      let e := e.setTdir x.tile (setBits (setBits (setBits (setBits (e.tdir x.tile) 29 7 f) 6 6 0) 5 5 (b2n x.stream)) 4 0 4)
      (true, begin_ { e with mig := { e.mig with frames := tabSet 0 e.mig.frames f (x.tile + 1) } })

/-- The first transfer of a list that can start is started. -/
def Dev.startFirst (d : Dev) (n : Nat) : List Xfer → Dev
  | [] => d
  | x :: xs =>
    match d.startXfer n x with
    | (true, e) => e
    | (false, e) => e.startFirst n xs

/-- Record a fault in MIG_FAULT (R146). -/
def Dev.setMigFault (d : Dev) (ctx code addr : Nat) : Dev :=
  if d.flag Reg.migFault 31 then d
  else (d.wr Reg.migFault (2 ^ 31 + ctx * 2 ^ 17 + code)).wr Reg.migFaultAddr (addr % 2 ^ 48)

/-- VAULT_TRANSFER: an idle port that holds its carats (R328) begins the next transfer, by class and then in order (R136). `ecc.badHbm` in the frame of a
write-back makes the Vault copy poison (R131); it is recorded and logged as code 0x45 and nothing is torn down. A port that retrains
starts nothing (R143). -/
def Dev.vaultTransfer (d : Dev) (n : Nat) (ecc : Ecc) : Dev :=
  if 2 ≤ n || !d.vaultUp n || d.vaultLost n || (d.vport n).retraining || (d.vport n).running.isSome then d else
  let d := d.clean
  if d.holds (590 + n) < 4 then (if (d.vport n).queue.isEmpty then d else d.askCarats (590 + n) 4 none) else
  let q := sortBy (fun a b => decide (a.cls < b.cls)) (d.vport n).queue
  let d := d.startFirst n q
  match (d.vport n).running with
  | none => d
  | some x =>
    if !x.writeback then d else
    let clean := d.mig.poisoned.filter (fun t => t ≠ x.tile)
    match ecc.badHbm with
    | some a =>
      if d.frameOf x.tile = a / tileBytes then
        let s := d.stackOf a
        let d := (d.setMigFault 0 0x45 a).bump (Reg.hbmCntUncorr s) 1
        let d := d.log { code := 0x45, domain := 47 + s, unit := s, addr := a, kind := 1 }
        { d with mig := { d.mig with poisoned := clean ++ [x.tile] } }
      else { d with mig := { d.mig with poisoned := clean } }
    | none => { d with mig := { d.mig with poisoned := clean } }

/-- The write-back that runs on a port ends (R130). -/
def Dev.writebackDone (d : Dev) (n : Nat) : Dev :=
  match (d.vport n).running with
  | none => d
  | some x =>
    if !x.writeback then d else
    let i := x.tile
    let f := d.frameOf i
    let (p, off) := d.vaultOf i
    let d := (d.modVport n (fun v => { v with running := none })).bump Reg.migCntWriteback 1
    let d : Dev := { d with vault := d.dirCopyOut (f * tileBytes) tileBytes d.vault (p * 2 ^ 42 + off) }
    let d := (d.countHbm (f * tileBytes) tileBytes false none).tdirBit i 3 0
    if bitOf (d.tdir i) 4 then
      if !d.dirty i && d.pins i = 0 then d.freeFrame f else d.tdirBit i 4 0
    else d

/-- VAULT_WRITEBACK_COMPLETE on one of the two ports. -/
def Dev.writebackComplete (d : Dev) (n : Nat) : Dev := if n < 2 then d.writebackDone n else d

/-- The tile of a finished fetch becomes resident (R130). -/
def Dev.fetchDone (d : Dev) (n : Nat) (x : Xfer) : Dev :=
  let i := x.tile
  let f := d.frameOf i
  let (p, off) := d.vaultOf i
  let d := d.modVport n (fun v => { v with running := none })
  let d := (d.dirCopyIn (f * tileBytes) d.vault (p * 2 ^ 42 + off) tileBytes).countHbm (f * tileBytes) tileBytes true none
  let d := d.setTdir i (setBits (setBits (d.tdir i) 6 6 1) 2 0 1)
  let d := d.bump (if x.cls = 0 then Reg.migCntFetchDemand else if x.cls = 1 then Reg.migCntFetchStage else Reg.migCntFetchPred) 1
  if x.predicted then { d with mig := { d.mig with predicted := d.mig.predicted ++ [i] } } else d

/-- A fetch that read poison: the frame is freed, the tile is not resident (R131). -/
def Dev.fetchPoisoned (d : Dev) (n : Nat) (x : Xfer) : Dev :=
  let d := (d.modVport n (fun v => { v with running := none })).bump (Reg.vltPortPoison n) 1
  d.freeFrame (d.frameOf x.tile)

/-! Pins (R133, R135). -/

/-- Add one pin. -/
def Dev.pin (d : Dev) (i : Nat) : Dev := d.setTdir i (setBits (d.tdir i) 47 32 (d.pins i + 1))

/-- Remove one pin; an unpinned stream frame returns to the free list, after a write-back if it is dirty or one runs (R130, R133). -/
def Dev.unpin (d : Dev) (i : Nat) : Dev :=
  let d := d.setTdir i (setBits (d.tdir i) 47 32 (d.pins i - 1))
  if d.pins i = 0 && bitOf (d.tdir i) 5 && d.resident i then
    if d.dirty i then (d.tdirBit i 4 1).queueWriteback i 1
    else if bitOf (d.tdir i) 3 then d.tdirBit i 4 1
    else d.freeFrame (d.frameOf i)
  else d

/-- Release the demand pins of a context. -/
def Dev.dropDemandPins (d : Dev) (c : Nat) : Dev :=
  ((d.ctx c).demandPins.foldl Dev.unpin d).modCtx c (fun x => { x with demandPins := [] })

/-- Release every stage pin of a context. -/
def Dev.dropStage (d : Dev) (c : Nat) : Dev :=
  (((d.ctx c).stagePins.flatMap (·.2)).foldl Dev.unpin d).modCtx c (fun x => { x with stagePins := [], stage := none, admitted := [] })

/-- STAGE and STAGED of a command (Table 12.2). -/
def cmdStage (cmd : List Byte) : Option Nat := if bitOf (fldOf cmd 4 31 0) 10 then some (fldOf cmd 4 9 0) else none

/-- A stage ends when another has begun and every command tagged with it has completed: its pins are released (R133). A stage that is
admitted and has not begun does not end. -/
def Dev.endStages (d : Dev) (c : Nat) : Dev :=
  let ended (e : Nat × List Nat) : Bool :=
    (d.ctx c).stage ≠ some e.1 && !(d.ctx c).admitted.contains e.1 && !d.jobs.any (fun j => j.ctx = c && cmdStage j.cmd = some e.1)
  let (fin, rest) := (d.ctx c).stagePins.partition ended
  if fin.isEmpty then d else
  ((fin.flatMap (·.2)).foldl Dev.unpin d).modCtx c (fun x => { x with stagePins := rest })

/-! Stages (R132, R133). -/

/-- MIG_STREAM_CTRL.STAGES. -/
def Blocks.stages (b : Blocks) : Nat := b.fld Reg.migStreamCtrl 10 0

/-- The entries of the stage table, in order; the table ends at an entry without tiles or of no stage (log entry 20). `fuel` bounds
their number by the size of the device range. -/
def Blocks.stageEntries (b : Blocks) (k : Nat) : Nat → List (Nat × Nat × Nat)
  | 0 => []
  | fuel + 1 =>
    let e := b.currentBytes (b.rd Reg.migStreamBase + 16 * k) 16
    let s := fldOf e 0 9 0
    let n := fldOf e 8 23 0
    if n = 0 ∨ b.stages ≤ s then [] else (s, fldOf e 4 26 0, n) :: b.stageEntries (k + 1) fuel

/-- The distinct tiles of a stage, ascending. -/
def Blocks.stageTiles (b : Blocks) (s : Nat) : List Nat :=
  let ts := ((b.stageEntries 0 (2 ^ 44)).filter (fun e => e.1 = s)).flatMap (fun e => (List.range e.2.2).map (e.2.1 + ·))
  (sortBy (fun a c => decide (a < c)) ts).eraseDups

/-- A stage that is admitted waits for the fetch of this tile: a frame of the stream pool is promised to it (R133). -/
def Blocks.promised (b : Blocks) : List Nat :=
  ((b.ctxs.flatMap (fun e => e.2.stagePins.flatMap (·.2))).eraseDups).filter (fun i => !b.resident i && !b.fetching i)

/-- The stream pool can supply a frame for every tile that is not resident: frames free or with unpinned tiles, less those promised to
stages admitted before (R133). -/
def Blocks.stageFits (b : Blocks) (s : Nat) : Bool :=
  let need := ((b.stageTiles s).filter (fun i => !b.resident i && !b.fetching i && !b.promised.contains i)).length
  let have_ := ((b.poolList true).filter (fun f => !b.frameUsed f ||
    (b.pins (b.tileIn f) = 0 && !(b.stageTiles s).contains (b.tileIn f)))).length
  decide (need + b.promised.length ≤ have_)

/-- Request admission of a stage for a context, once (R303). -/
def Dev.requestStage (d : Dev) (c s : Nat) : Dev :=
  if (d.ctx c).stagePins.any (fun e => e.1 = s) || d.mig.stageReqs.contains (c, s) then d
  else { d with mig := { d.mig with stageReqs := d.mig.stageReqs ++ [(c, s)] } }

/-- Fetches ahead for the AHEAD stages after s (R133). -/
def Dev.fetchAhead (d : Dev) (s : Nat) : Dev :=
  ((List.range (d.fld Reg.migCtrl 5 4)).map (· + 1)).foldl (fun d k =>
    (d.stageTiles ((s + k) % d.stages)).foldl (fun d i =>
      if d.resident i || d.fetching i || d.queued i then d else
      let d := d.queueFetch i 1 true false true
      { d with mig := { d.mig with ahead := d.mig.ahead ++ [(k, i)] } }) d) d

/-- STAGE_ADMISSION: the oldest requested stage is admitted, all or nothing (R133): its tiles are pinned and fetched, the next
stages fetched ahead. -/
def Dev.stageAdmission (d : Dev) : Dev :=
  match d.mig.stageReqs with
  | [] => d
  | (c, s) :: rest =>
    if !d.stageFits s then d else
    let ts := d.stageTiles s
    let d : Dev := { d with mig := { d.mig with stageReqs := rest, ahead := d.mig.ahead.filter (fun e => !ts.contains e.2) } }
    let d := ts.foldl Dev.pin d
    let d := ts.foldl (fun d i => d.queueFetch i 1 true false false) d
    let d := d.modCtx c (fun x => { x with stagePins := x.stagePins ++ [(s, ts)], admitted := x.admitted ++ [s] })
    d.fetchAhead s

/-! Hints (R137). -/

/-- The expert tile table entry of expert e of layer l (R134): first tile and tiles, if valid. -/
def Blocks.xtab (b : Blocks) (l e : Nat) : Option (Nat × Nat) :=
  let v := b.currentNat (b.rd Reg.migXtabBase + (l * 16384 + e) * 8) 8
  if bitOf v 63 then some (bitsOf v 26 0, bitsOf v 55 32) else none

/-- The tiles of an expert. -/
def Blocks.expertTiles (b : Blocks) (l e : Nat) : List Nat :=
  match b.xtab l e with
  | some (first, n) => (List.range n).map (first + ·)
  | none => []

/-- HINT_QUEUE_TAKE: the head of the hint queue, (layer, expert), becomes class-2 fetches (R137). -/
def Dev.hintQueueTake (d : Dev) : Dev :=
  match d.mig.hints with
  | [] => d
  | (l, e) :: rest =>
    let d : Dev := { d with mig := { d.mig with hints := rest } }
    match d.xtab l e with
    | none => d.bump Reg.migCntHintInvalid 1
    | some _ => (d.expertTiles l e).foldl (fun d i => d.queueFetch i 2 false true false) d

/-! Accesses of engines, of BAR2 and of homes (R127, R129, R233; log entry 21): a command whose engine needs a tile that is away, or stores
into a line that others share, waits as a whole in `Mig.stalls`, and acts when each of its parts has been served. -/

/-- The code that part of an access in one tile or in the direct part faults with, and the address logged: an uncorrectable word that
this command meets, a frame on a failed stack, a fetch that ended with a fault, or one that would need a port that is down or lost. -/
def Blocks.pieceFault (b : Blocks) (a n : Nat) : Option (Nat × Nat) :=
  let word (lo : Nat) : Option (Nat × Nat) := (b.mig.now.bad.filter (fun x => overlaps lo n x 1)).map (fun x => (0x45, x))
  match partOf a with
  | .direct => word a
  | .tiered =>
    let i := tileOf a
    if b.resident i then ((b.failedAt (b.resolve a) n).map (fun x => (0x45, x))).or (word (b.resolve a))
    else match b.mig.now.parts.findSome? (fun p => match p.st with
        | .bad code => if tileOf p.addr = i then some code else none
        | _ => none) with
      | some code => some (code, a)
      | none => if !b.fetching i && !b.tileServed i then some (0x44, a) else none
  | _ => none

/-- The code that an engine's access faults with and the address logged: the range checks, then those of its parts (R143, R149). -/
def Blocks.engineCheck (b : Blocks) (a n : Nat) : Option (Nat × Nat) :=
  (b.checkRange a n).or ((tilePieces a n).findSome? (fun p => b.pieceFault p.1 p.2))

/-- Misses of an access: fetches at class 0 and the count of R129. -/
def Dev.miss (d : Dev) (a n : Nat) : Dev :=
  if partOf a ≠ .tiered then d else
  let away := (tilesOf a n).filter (fun i => !d.resident i)
  let d := if away.isEmpty then d else d.bump Reg.migCntMiss 1
  away.foldl (fun d i => d.queueFetch i 0 false false false) d

/-- The command that acts has had this part served. -/
def Blocks.wasServed (b : Blocks) (a n : Nat) (store : Option (List Byte)) : Bool :=
  b.mig.now.parts.any (fun p => p.addr = a && p.len = n && p.store = store && p.st = .served)

/-- Parts of an access that the command that acts is missing. -/
def Dev.needParts (d : Dev) (ctx : Option Nat) (store : Option (List Byte)) (ps : List (Nat × Nat)) : Dev :=
  let base := (ps.headD (0, 0)).1
  let new := ps.zipIdx.map (fun x =>
    ({ ctx := ctx, addr := x.1.1, len := x.1.2, store := store.map (fun bs => (bs.drop (x.1.1 - base)).take x.1.2),
       first := x.2 = 0 } : WaitPart))
  { d with mig := { d.mig with now := { d.mig.now with need := d.mig.now.need ++ new } } }

/-- A checked read by an engine: the bytes of the current copies; the parts in tiles that are away and have not been served are
missing. -/
def Dev.engineRead (d : Dev) (ctx : Option Nat) (a n : Nat) : List Byte × Dev :=
  let away := (tilePieces a n).filter (fun p => !d.allResident p.1 p.2 && !d.wasServed p.1 p.2 none)
  (d.currentBytes a n, if away.isEmpty then d.devTake a n none else d.needParts ctx none away)

/-- Part of a store that falls in one tile or in the direct part: made, made already, or missing. -/
def Dev.enginePiece (d : Dev) (ctx : Option Nat) (a : Nat) (bs : List Byte) : Dev :=
  if d.wasServed a bs.length (some bs) then d
  else if d.allResident a bs.length && (d.sharedLines a bs.length).isEmpty then d.devStore a bs none
  else d.needParts ctx (some bs) [(a, bs.length)]

/-- A checked store by an engine; each tile's part is translated separately (R127). What a missing read leaves undecided is not stored. -/
def Dev.engineWrite (d : Dev) (ctx : Option Nat) (a : Nat) (bs : List Byte) : Dev :=
  if d.mig.now.need.any (fun p => p.store.isNone) then d
  else (tilePieces a bs.length).foldl (fun d p => d.enginePiece ctx p.1 ((bs.drop (p.1 - a)).take p.2)) d

/-- A waiting part is served if its tiles are here and, for a store, nobody shares its lines any more; the sharers of lines that are
shared are asked (R129, R233). -/
def Dev.servePart (d : Dev) (p : WaitPart) : WaitPart × Dev :=
  if p.st ≠ .waiting ∨ d.allResident p.addr p.len = false then (p, d) else
  match p.store with
  | none => ({ p with st := .served }, d.devTake p.addr p.len none)
  | some bs =>
    match d.sharedLines p.addr p.len with
    | [] => ({ p with st := .served }, d.devStore p.addr bs none)
    | ls =>
      (p, (ls.filter (fun l => (d.askedOf l).isEmpty)).foldl (fun d l =>
        d.deferWrite { line := l, sharers := d.sharersOf l, req := none, local_ := [] }) d)

/-- Every waiting part that can be served is, oldest first; stores into the device's own tables that have landed leave. -/
def Dev.serveStalls (d : Dev) : Dev :=
  let (ss, d) := d.mig.stalls.foldl (fun (acc : List Stall × Dev) s =>
    let (ps, d) := s.parts.foldl (fun (a : List WaitPart × Dev) p => let (p', d) := a.2.servePart p; (a.1 ++ [p'], d)) ([], acc.2)
    (acc.1 ++ [{ s with parts := ps }], d)) ([], d)
  { d with mig := { d.mig with stalls := ss.filter (fun s => s.cmd.isSome || s.parts.any (fun p => p.st = .waiting)) } }

/-- Parts begin to wait: their tiles are fetched at class 0, each access that waits is counted once (R129), and what can be served is. -/
def Dev.stall (d : Dev) (s : Stall) : Dev :=
  let d := s.parts.foldl (fun d p =>
    if p.st ≠ .waiting then d else
    let d := if p.first && !d.allResident p.addr p.len then d.bump Reg.migCntMiss 1 else d
    if partOf p.addr ≠ .tiered then d
    else ((tilesOf p.addr p.len).filter (fun i => !d.resident i)).foldl (fun d i => d.queueFetch i 0 false false false) d) d
  ({ d with mig := { d.mig with stalls := d.mig.stalls ++ [s] } } : Dev).serveStalls

/-- A store into one of the device's own tables: made, or left to wait for its tile without holding anything up. -/
def Dev.postStore (d : Dev) (a : Nat) (bs : List Byte) : Dev :=
  (tilePieces a bs.length).foldl (fun d p =>
    let part := (bs.drop (p.1 - a)).take p.2
    if d.allResident p.1 p.2 then d.devWrite p.1 part
    else d.stall { cmd := none, parts := [{ ctx := none, addr := p.1, len := p.2, store := some part, first := true }] }) d

/-- A command's engine acts, with the parts that were served for it before; `ecc` brings the uncorrectable word that it meets. If a part
of an access is missing, nothing is done but that the command waits for it; one whose like waits already is heard again after that
(log entry 21). -/
def Dev.actWith (d : Dev) (c : Instr) (parts : List WaitPart) (ecc : Ecc) (f : Dev → Dev) : Dev :=
  let r := f { d with mig := { d.mig with now := { parts := parts, bad := ecc.badHbm } } }
  if r.mig.now.need.isEmpty then { r with mig := { r.mig with now := d.mig.now } }
  else if parts.isEmpty && d.mig.stalls.any (fun s => s.cmd = some c) then
    { d with mig := { d.mig with stalls := d.mig.stalls ++ [⟨some c, []⟩] } }
  else
    let old := parts.filter (fun p => !r.mig.now.need.any (fun q => q.addr = p.addr && q.len = p.len && q.store = p.store))
    d.stall { cmd := some c, parts := old ++ r.mig.now.need }

/-- A command of an engine acts, or waits. -/
def Dev.act (d : Dev) (c : Instr) (ecc : Ecc) (f : Dev → Dev) : Dev := d.actWith c [] ecc f

/-- Meaning of STAGE_ADMISSION. -/
def execStageAdmission (s : State) : Host.Outcome State Fault Refusal := .next (s.onDev (s.dev.live Dev.stageAdmission))

/-- Meaning of VAULT_TRANSFER. -/
def execVaultTransfer (port : Nat) (ecc : Ecc) (s : State) : Host.Outcome State Fault Refusal :=
  .next (s.onDev (s.dev.live (fun d => d.vaultTransfer port ecc)))

/-- Meaning of VAULT_WRITEBACK_COMPLETE. -/
def execVaultWritebackComplete (port : Nat) (s : State) : Host.Outcome State Fault Refusal :=
  .next (s.onDev (s.dev.live (fun d => d.writebackComplete port)))

/-- Meaning of HINT_QUEUE_TAKE. -/
def execHintQueueTake (s : State) : Host.Outcome State Fault Refusal := .next (s.onDev (s.dev.live Dev.hintQueueTake))

end Sys2Proof.Machine
end

