-- ==== Sys2Proof/Machine/Jobs.lean ====
section
/-! DEFINITION. Granted ring commands: their completion records (R300, R308, R309) and the Hallmark occurrences they belong to
(R266, R373). -/

namespace Sys2Proof.Machine

/-- TAG of a command (Table 12.2). -/
def cmdTag (cmd : List Byte) : Nat := fldOf cmd 0 31 16

/-- The completion record of a command (Table 12.6). -/
def Blocks.recordOf (b : Blocks) (j : Job) (status : Nat) (empty : Bool) (r0 r1 : Nat) : Record :=
  { tag := cmdTag j.cmd, seq := j.seq, status := status, kind := 0, cancelLate := j.cancelLate, empty := empty,
    result0 := BitVec.ofNat 64 r0, result1 := BitVec.ofNat 64 r1, stroke := BitVec.ofNat 64 b.stroke }

/-- Hand a record to the ring's holding buffer (R310). -/
def Dev.post (d : Dev) (ring : Nat) (r : Record) : Dev := d.modRing ring (fun x => { x with hold := x.hold ++ [r] })

/-- A granted command by ring and SEQ. -/
def Blocks.job? (b : Blocks) (ring seq : Nat) : Option Job := b.jobs.find? (fun j => j.ring = ring && j.seq = seq)

/-- Change a granted command. -/
def Dev.modJob (d : Dev) (ring seq : Nat) (f : Job → Job) : Dev :=
  { d with jobs := updWhere (fun j => j.ring = ring && j.seq = seq) f d.jobs }

/-- A sequence number ends: its state is kept while it is one of the 512 before RING_SQ_HEAD (R300). -/
def Dev.noteEnd (d : Dev) (ring seq : Nat) (ok : Bool) : Dev :=
  let recent (s : Nat) : Bool := decide ((d.rd (Reg.ringSqHead ring) + 65535 - s) % 65536 < 512)
  d.modRing ring (fun x => { x with ended := (seq, ok) :: x.ended.filter (fun e => e.1 ≠ seq && recent e.1) })

/-- A command ends with a record, unless it is SILENT and the status is OK. -/
def Dev.endJob (d : Dev) (j : Job) (r : Record) : Dev :=
  let d := { d with jobs := d.jobs.filter (fun x => !(x.ring = j.ring && x.seq = j.seq)) }
  let d := d.noteEnd j.ring j.seq (r.status = 0)
  let d := (d.modCtx j.ctx (fun c => { c with fence := c.fence.filter (· ≠ (j.ring, j.seq)) })).endStages j.ctx
  if bitOf (fldOf j.cmd 0 31 0) 9 && decide (r.status = 0) then d else d.post j.ring r

/-- RESULT0 of a flush: SEQ of the last entry, or all ones. -/
def flushResult : Option Nat → Nat
  | some n => n
  | none => 2 ^ 64 - 1

/-- Flushes that have been taken up and wait for nothing any more complete (R266). -/
def Dev.endFlushes (d : Dev) : Dev :=
  let (fin, rest) := d.tb.flushes.partition (fun f => f.waits.isEmpty && (d.job? f.ring f.seq).any (·.started))
  let d := { d with tb := { d.tb with flushes := rest } }
  fin.foldl (fun d f =>
    match d.job? f.ring f.seq with
    | some j => d.endJob j (d.recordOf j 0 false (flushResult f.last) 0)
    | none => d) d

/-- An occurrence is settled: its entry took a SEQ, or none will be written. STEPs that awaited the entry complete, and so do
flushes that waited for it alone. -/
def Dev.settleOcc (d : Dev) (c id : Nat) (entry : Option Nat) : Dev :=
  let d := d.modCtx c (fun x => { x with occs := x.occs.filter (fun o => o.id ≠ id) })
  let unwait (f : Flush) : Flush :=
    if f.waits.contains id then { f with waits := f.waits.filter (fun i => i ≠ id), last := entry.or f.last } else f
  let d : Dev := { d with tb := { d.tb with hmDue := d.tb.hmDue.filter (fun e => e ≠ (c, id)), flushes := d.tb.flushes.map unwait } }
  let d := (d.jobs.filter (fun j => j.ctx = c && j.occ = some id)).foldl (fun d j =>
    match j.awaits with
    | some r => d.endJob j { r with stroke := BitVec.ofNat 64 d.stroke, cancelLate := j.cancelLate }
    | none => d) d
  d.endFlushes

/-- The entry of an occurrence falls due once it has closed and its commands have completed; without HM_ENABLE then or at its
opening none is written (R266). -/
def Dev.occCheck (d : Dev) (c id : Nat) : Dev :=
  match (d.ctx c).occs.find? (fun o => o.id = id) with
  | none => d
  | some o =>
    if !o.closed || !o.jobs.isEmpty || d.tb.hmDue.contains (c, id) then d
    else if o.enabled && d.flag Reg.tbCtrl 2 then { d with tb := { d.tb with hmDue := d.tb.hmDue ++ [(c, id)] } }
    else d.settleOcc c id none

/-- Change an occurrence. -/
def Dev.modOcc (d : Dev) (c id : Nat) (f : Occurrence → Occurrence) : Dev :=
  d.modCtx c (fun x => { x with occs := updWhere (fun o => o.id = id) f x.occs })

/-- A command of an occurrence has done its work. -/
def Dev.occWork (d : Dev) (j : Job) : Dev :=
  match j.occ with
  | none => d
  | some id => (d.modOcc j.ctx id (fun o => { o with jobs := o.jobs.filter (· ≠ (j.ring, j.seq)) })).occCheck j.ctx id

/-- A granted command completes (R308). -/
def Dev.finish (d : Dev) (ring seq status : Nat) (empty : Bool) (r0 r1 : Nat) : Dev :=
  match d.job? ring seq with
  | none => d
  | some j => (d.endJob j (d.recordOf j status empty r0 r1)).occWork j

/-- Both halves of a STEP are complete: it completes when its entry is written or discarded; with HM_ENABLE = 0, or for an
occurrence that opened without it, no entry is awaited (Table 12.3, R266). -/
def Dev.finishStep (d : Dev) (ring seq r0 r1 : Nat) : Dev :=
  match d.job? ring seq with
  | none => d
  | some j =>
    let awaited := match j.occ with
      | none => false
      | some id => d.flag Reg.tbCtrl 2 && (d.ctx j.ctx).occs.any (fun o => o.id = id && o.enabled)
    if awaited then
      (d.modJob ring seq (fun x => { x with awaits := some (d.recordOf j 0 false r0 r1) })).occWork j
    else d.finish ring seq 0 false r0 r1

/-- Close the context's open occurrence (R373). -/
def Dev.closeOcc (d : Dev) (c : Nat) : Dev :=
  match (d.ctx c).occs.find? (fun o => !o.closed) with
  | none => d
  | some o => (d.modOcc c o.id (fun o => { o with closed := true })).occCheck c o.id

/-- The context's open occurrence takes a command of this HLAYER; one that holds a STEP takes no second one. -/
def Blocks.occFits (b : Blocks) (c hlayer : Nat) (isStep : Bool) : Bool :=
  (b.ctx c).occs.any (fun o => !o.closed && o.hlayer = hlayer && !(isStep && o.step.isSome))

/-- Close the open occurrence and open one of HLAYER; OCC counts per context and HLAYER. -/
def Dev.openOcc (d : Dev) (c hlayer : Nat) : Dev :=
  let d := d.closeOcc c
  let n := tabGet 0 (d.ctx c).occNext hlayer
  let o : Occurrence := { id := d.tb.occId, hlayer := hlayer, occ := n, enabled := d.flag Reg.tbCtrl 2 }
  let d : Dev := { d with tb := { d.tb with occId := d.tb.occId + 1 } }
  d.modCtx c (fun x => { x with occs := x.occs ++ [o], occNext := tabSet 0 x.occNext hlayer (n + 1) })

/-- A PROGRAM or STEP of the context is granted: it joins the open occurrence of its HLAYER or opens one (R373). Answers the
identity of its occurrence. -/
def Dev.joinOcc (d : Dev) (c hlayer ring seq : Nat) (isStep : Bool) : Nat × Dev :=
  let d : Dev := if d.occFits c hlayer isStep then d else d.openOcc c hlayer
  match (d.ctx c).occs.find? (fun o => !o.closed) with
  | none => (0, d)
  | some o =>
    let step := if isStep then some 0 else o.step
    (o.id, d.modOcc c o.id (fun o => { o with jobs := o.jobs ++ [(ring, seq)], step := step }))

/-- Every entry that waits and every occurrence not yet written is dropped without a SEQ (R266). -/
def Dev.dropOccs (d : Dev) (c : Nat) : Dev := (d.ctx c).occs.foldl (fun d o => d.settleOcc c o.id none) d

end Sys2Proof.Machine
end

