-- ==== Sys2Proof/Machine/Barrier.lean ====
section
/-! DEFINITION. Filigree barriers and the end of a collective (R224, R225, R228), and the abandoning of a step (R59, R64). -/

namespace Sys2Proof.Machine

/-- The loaded Mount's FMT, 0 without a Mount (R359). -/
def Blocks.mountFmt (b : Blocks) : Nat :=
  match b.mgmt.mount with
  | some m => m.fmt
  | none => 0

/-- The other devices on this device's line along an axis (0 X, 1 Y, 2 Z), in offset order, with this device left out. -/
def Blocks.lineOf (b : Blocks) (axis : Nat) : List Nat :=
  let (x, y, z) := b.offs b.self
  let at_ (i : Nat) : Nat :=
    if axis = 0 then i + b.bx * (y + b.by_ * z) else if axis = 1 then x + b.bx * (i + b.by_ * z) else x + b.bx * (y + b.by_ * i)
  ((List.range (if axis = 0 then b.bx else if axis = 1 then b.by_ else b.bz)).map at_).filter (fun i => i ≠ b.me)

/-- A collective by COLL_ID. -/
def Blocks.coll? (b : Blocks) (id : Nat) : Option Coll := b.colls.find? (fun c => c.id = id)

/-- Change a collective. -/
def Dev.modColl (d : Dev) (id : Nat) (f : Coll → Coll) : Dev := { d with colls := updWhere (fun c => c.id = id) f d.colls }

/-- One of the two barriers of a collective. -/
def Coll.bar (c : Coll) (close : Bool) : Barrier := if close then c.close else c.open_

/-- Replace one of the barriers. -/
def Coll.setBar (c : Coll) (close : Bool) (x : Barrier) : Coll := if close then { c with close := x } else { c with open_ := x }

/-- SUB of a barrier message (Table 9.6). -/
def barrierSub (close ok : Bool) (fmt axis status : Nat) : Nat :=
  b2n close + 2 * b2n ok + fmt % 256 * 4 + axis * 1024 + status % 256 * 4096

/-- A barrier message taken by a collective: the sender's vote, and another Mount format noted. -/
def Coll.takeVote (c : Coll) (close : Bool) (fmt : Nat) (m : FilMsg) : Coll :=
  let x := c.bar close
  let c := if bitsOf m.sub 9 2 = fmt then c else { c with version := true }
  c.setBar close { x with got := x.got ++ [(bitsOf m.sub 11 10, m.src, bitOf m.sub 1, bitsOf m.sub 19 12)] }

/-- The message is a round of this barrier. -/
def isRound (m : FilMsg) (id : Nat) (close : Bool) (axis : Nat) : Bool :=
  m.typ = 2 && m.key = id && bitOf m.sub 0 = close && bitsOf m.sub 11 10 = axis

/-- Votes of a round combined: the AND of the OK bits and the first non-zero STATUS by block index (R228). -/
def combineVotes (me : Nat) (own : Bool × Nat) (got : List (Nat × Bool × Nat)) : Bool × Nat :=
  let all := sortBy (fun (a b : Nat × Bool × Nat) => decide (a.1 < b.1)) ((me, own.1, own.2) :: got)
  (all.all (fun v => v.2.1), ((all.map (fun v => v.2.2)).find? (fun s => s ≠ 0)).getD 0)

/-- The axis of the first round of a barrier that has other devices. -/
def Blocks.firstAxis (b : Blocks) : Option Nat := [0, 1, 2].find? (fun a => !(b.lineOf a).isEmpty)

/-- Send the messages of a round of a barrier to the other devices of the line. -/
def Dev.sendRound (d : Dev) (id : Nat) (close : Bool) (axis : Nat) (ok : Bool) (status : Nat) : Dev :=
  (d.lineOf axis).foldl (fun d i => d.filSend 2 id (barrierSub close ok d.mountFmt axis status) [] i) d

/-- A vote of FAIL in a close message, for another reason than a deadline (R225). -/
def isFail (m : FilMsg) (id : Nat) : Bool :=
  m.typ = 2 && m.key = id && bitOf m.sub 0 && !bitOf m.sub 1 && bitsOf m.sub 19 12 ≠ 0x85

/-- Run the axis rounds of a barrier as far as the votes received allow (R228). `enter` tells that the present round has just
been reached: its messages are sent, and messages that came early are taken. Axis 3 means finished. -/
def Dev.barrierRun (d : Dev) (id : Nat) (close enter : Bool) : Nat → Dev
  | 0 => d
  | fuel + 1 =>
    match d.coll? id with
    | none => d
    | some c =>
      let x := c.bar close
      if 3 ≤ x.axis then d else
      let line := d.lineOf x.axis
      if line.isEmpty then
        (d.modColl id (fun c => c.setBar close { x with axis := x.axis + 1 })).barrierRun id close true fuel
      else
        let d := if enter then
            let d := if close && c.early && d.firstAxis = some x.axis then d else d.sendRound id close x.axis x.ok x.status
            let (mine, rest) := d.fil.held.partition (fun m => isRound m id close x.axis)
            let d : Dev := { d with fil := { d.fil with held := rest } }
            d.modColl id (fun c => mine.foldl (fun c m => c.takeVote close d.mountFmt m) c)
          else d
        match d.coll? id with
        | none => d
        | some c =>
          let x := c.bar close
          let votes := (x.got.filter (fun g => g.1 = x.axis)).map (fun g => (g.2.1, g.2.2.1, g.2.2.2))
          if line.all (fun i => votes.any (fun v => v.1 = i)) then
            let (ok, st) := combineVotes d.me (x.ok, x.status) votes
            (d.modColl id (fun c => c.setBar close { x with axis := x.axis + 1, ok := ok, status := st })).barrierRun id close true fuel
          else d

/-- The status with which this device votes FAIL (R225). -/
def Coll.voteStatus (c : Coll) : Nat := if c.own ≠ 0 then c.own else if c.version then 0x82 else if c.lost then 0x85 else 0x86

/-- The status that a participant reports at the end of a collective (R225, R240). -/
def Coll.result (c : Coll) : Nat :=
  if c.close.ok && !c.version && !c.lost then 0
  else if c.own ≠ 0 then c.own
  else if c.version then 0x82
  else if c.lost || c.close.status = 0x85 then 0x85
  else 0x86

/-- RE_FAULT and RE_FAULT_ADDR of an instance hold the first fault (R66). -/
def Dev.setReFault (d : Dev) (i ctx half layer code addr : Nat) : Dev :=
  if d.flag (Reg.reFault i) 31 then d
  else (d.wr (Reg.reFault i) (2 ^ 31 + ctx * 2 ^ 17 + half * 2 ^ 16 + layer * 2 ^ 8 + code)).wr (Reg.reFaultAddr i) (addr % 2 ^ 48)

/-- LAYER of a layer execution. -/
def Layer.number (l : Layer) : Nat := fldOf l.desc 4 23 16

/-- RESULT0 of a STEP: tokens after refusals, joins admitted and refused. -/
def Layer.result0 (l : Layer) : Nat := l.tokens + l.admitted * 2 ^ 16 + l.refused * 2 ^ 32

/-- Clear a sequence slot and take its reservation back (R141). -/
def Dev.freeSlot (d : Dev) (c n : Nat) : Dev :=
  let r := bitsOf (d.slotRec c n) 19 0
  let d := d.postStore (d.slotAddr c n) (toLe 8 0)
  let d := d.modCtx c (fun x => { x with kvHeld := tabErase n x.kvHeld })
  d.wr (Reg.migKvReserved c) (d.rd (Reg.migKvReserved c) - r)

/-- The layer execution is abandoned with code 0x0C (R59, R64, R141, R157): its plan buffers are reclaimed, the admissions of its
batch change list undone, its demand pins released; no output, no Hallmark entry. The context is kept. RE_FAULT.HALF, for which the
specification names no half here, is the half planned last (log entry 89). -/
def Dev.abandonStep (d : Dev) : Dev :=
  match d.routing.layer with
  | none => d
  | some l =>
    let counts := d.routing.counts.filter (fun r => r.seq ≠ l.stepSeq)
    let d : Dev := { d with routing := { layer := none, counts := counts, lastSeq := some l.stepSeq } }
    let d := (d.reclaim (reclaimPat (.step l.number 0))).reclaim (reclaimPat (.step l.number 1))
    let d := l.joined.foldl (fun d j => d.freeSlot l.ctx j.1) d
    let d := d.dropDemandPins l.ctx
    let d := (d.setReFault 0 l.ctx l.half l.number 0x0C 0).log { code := 0x0C, ctx := some l.ctx, domain := 34 }
    let d := d.finish l.ring l.seq 0x0C false l.result0 l.stepSeq
    match l.occ with
    | some id => d.settleOcc l.ctx id none
    | none => d

/-- Mark the end of a Routing Engine all-to-all in its half. -/
def Half.collOk (h : Half) (dir : Nat) : Half := if dir = 0 then { h with dispatchOk := true } else { h with returnOk := true }

/-- The all-to-all is one of the layer in progress (R222). -/
def Layer.owns (l : Layer) (c : Coll) : Bool := c.re.isSome && c.ctx = l.ctx && (c.id - 0x8000) / 4 = l.stepSeq % 4096

/-- The vote of FAIL of a collective that is open (R225), at once; while the open barrier runs, its rounds go on with a failure status and
the rest of the vote follows. -/
def Dev.voteFail (d : Dev) (id : Nat) : Dev :=
  match d.coll? id with
  | none => d
  | some c =>
    match c.phase with
    | .waiting => { d with colls := d.colls.filter (fun x => x.id ≠ id) }
    | .closing => d
    | .opening =>
      let bad (x : Barrier) : Barrier := { x with ok := false, status := if x.status = 0 then 0x86 else x.status }
      let d := d.modColl id (fun c => { c with aborted := true, early := true, open_ := bad c.open_ })
      match d.firstAxis with
      | some axis => if c.early then d else d.sendRound id true axis false ({ c with aborted := true } : Coll).voteStatus
      | none => d
    | .data =>
      let vote (c : Coll) : Coll := { c with aborted := true, phase := .closing, close := { ok := false, status := c.voteStatus } }
      (d.modColl id vote).barrierRun id true true 4

/-- A collective ends on this device (R225): its buffers return to the pool, its status goes to its command or its layer. A failure is
logged with the descriptor that began it (Table 9.13); it abandons the layer, and the layer's other all-to-alls vote FAIL (R59). Only
the rounds of its vote run on. -/
def Dev.collReport (d : Dev) (id : Nat) : Dev :=
  match d.coll? id with
  | none => d
  | some c =>
    if c.reported then d else
    let st := c.result
    let d := d.modColl id (fun c => { c with reported := true, bufs := [] })
    let d := c.bufs.foldl Dev.hwFree d
    let d := if st = 0 then d else d.bump Reg.collCntFailed 1
    match c.re, d.routing.layer with
    | some (half, dir), some l =>
      if !l.owns c then d
      else if st = 0 then
        let l' := if half = 0 then { l with a := l.a.collOk dir } else { l with b := l.b.collOk dir }
        { d with routing := { d.routing with layer := some l' } }
      else
        let sib := (d.colls.filter (fun x => l.owns x && !x.reported)).map (fun x => x.id)
        sib.foldl Dev.voteFail d.abandonStep
    | some _, none => d
    | none, _ =>
      let d := match d.job? c.ring c.seq with
        | some j =>
          if st = 0 then d else d.log { code := st, ctx := some c.ctx, domain := 33, addr := fldOf j.cmd 24 47 0, kind := 1 }
        | none => d
      d.finish c.ring c.seq st false c.id 0

/-- The layer is abandoned and its open all-to-alls vote FAIL (R59, R64). -/
def Dev.abandonLayer (d : Dev) : Dev :=
  match d.routing.layer with
  | none => d
  | some l => ((d.colls.filter (fun x => l.owns x && !x.reported)).map (fun x => x.id)).foldl Dev.voteFail d.abandonStep

/-- Collectives whose close vote has finished end and leave (R224). -/
def Dev.collSweep (d : Dev) : Dev :=
  let over_ (c : Coll) : Bool := c.phase = .closing && decide (3 ≤ c.close.axis)
  let ids (d : Dev) : List Nat := (d.colls.filter over_).map (fun c => c.id)
  let d := (ids d).foldl Dev.collReport d
  let d := (ids d).foldl Dev.collReport d
  { d with colls := d.colls.filter (fun c => !over_ c) }

/-- Enter the close vote (R224). -/
def Dev.enterClose (d : Dev) (id : Nat) (ok : Bool) : Dev :=
  let d := d.modColl id (fun c => { c with phase := .closing, close := { ok := ok, status := if ok then 0 else c.voteStatus } })
  (d.barrierRun id true true 4).collSweep

end Sys2Proof.Machine
end

