-- ==== Sys2Proof/Machine/Fault.lean ====
section
/-! DEFINITION. Faults of engines and cores, and the teardown of a context that they begin (R102, R103, R146, R311, R327). -/

namespace Sys2Proof.Machine

/-- The rings with ENABLE = 1, ascending (R297). -/
def Blocks.enabledRings (b : Blocks) : List Nat :=
  (b.regs.filter (fun e => 0x01000000 ≤ e.1 && e.1 < 0x02000000 && e.1 % 4096 = 0 && e.2.toNat % 2 = 1)).map
    (fun e => (e.1 - 0x01000000) / 4096)

/-- RING_CTRL.CONTEXT. -/
def Blocks.ringCtx (b : Blocks) (r : Nat) : Nat := b.fld (Reg.ringCtrl r) 13 8

/-- Physical cores with an entry in the core table that a test selects. -/
def Blocks.coresWhere (b : Blocks) (p : Core → Bool) : List Nat := (b.cores.filter (fun e => p e.2)).map (·.1)

/-- Carats held for a core are returned, its request withdrawn (R331). -/
def Dev.dropCarats (d : Dev) (p : Nat) : Dev := (d.withdrawCarats p).returnCarats p

/-- Incomplete instructions are discarded: their slots are wasted, slot M's on the core that issued them, slot V's on every core of the
stream (R78, R337). -/
def Dev.discard (d : Dev) (p : Nat) (g : Prog) (is : List Issued) : Dev :=
  let m := (is.filter (fun i => i.slot = .m)).length
  let v := (is.filter (fun i => i.slot = .v)).length
  let d := if m = 0 then d else d.bump (Reg.coreCntTdWasted p) m
  if v = 0 then d else g.gang.foldl (fun d c => d.bump (Reg.coreCntTdWasted c) v) d

/-- Stores of the cores of a gang that wait for the sharers of a line write nothing any more; the answers are still awaited (R233, Table
13.2). -/
def Dev.dropLines (d : Dev) (p : Nat) : Dev :=
  let gang := match (d.core p).prog with
    | some g => g.gang
    | none => [p]
  let mute (w : LineWait) : LineWait := if w.owner.any (fun o => gang.contains o.1) then { w with local_ := [], owner := none } else w
  { d with remote := { d.remote with waits := d.remote.waits.map mute } }

/-- Teardown of the cores: programs stop at once, their incomplete instructions are discarded and counted as wasted slots,
suspended programs go, ownership ends without a save, carats return (Table 13.2). -/
def Dev.tearCores (d : Dev) (c : Nat) : Dev :=
  let mine (x : Core) : Bool := x.owner = some c || x.prog.any (fun g => g.ctx = c) || x.suspended.any (fun g => g.ctx = c)
  (d.coresWhere mine).foldl (fun d p =>
    let x := d.core p
    let running : Bool := x.prog.any (fun g => g.ctx = c)
    let d := match x.prog with
      | some g => if g.ctx = c then (d.discard p g g.score).dropLines p else d
      | none => d
    let d := if running || x.owner = some c then d.dropCarats p else d
    d.modCore p (fun x =>
      let prog := if running then none else x.prog
      let owner := if x.owner = some c then none else x.owner
      { x with prog := prog, owner := owner, incoming := if running then none else x.incoming, suspended := x.suspended.filter (fun g => g.ctx ≠ c) })) d

/-- The sequence slots of a context that are occupied, from the slots with held blocks or a reservation: every slot record is
cleared (Table 13.2). -/
def Dev.freeSlots (d : Dev) (c : Nat) : Dev :=
  if d.rd (Reg.migKvReserved c) = 0 then d.modCtx c (fun x => { x with kvHeld := [] }) else
  let d := ((List.range 4096).filter (fun n => d.slotUsed c n)).foldl (fun d n => d.postStore (d.slotAddr c n) (toLe 8 0)) d
  (d.unset (Reg.migKvReserved c)).modCtx c (fun x => { x with kvHeld := [] })

/-- RESULT0 and RESULT1 of a command that its context's teardown ends (Table 12.6): a STEP's token and join counts and STEP_SEQ, a
collective's COLL_ID, the last entry of a flush. A STEP that has not started shows its T and the STEP_SEQ that it would have taken (log
entry 84). -/
def Blocks.tornResults (b : Blocks) (j : Job) : Nat × Nat :=
  let op := fldOf j.cmd 0 7 0
  if op = 2 then
    match j.awaits, b.routing.layer.filter (fun l => l.ring = j.ring && l.seq = j.seq) with
    | some r, _ => (r.result0.toNat, r.result1.toNat)
    | none, some l => (l.result0, l.stepSeq)
    | none, none => (fldOf j.cmd 28 15 0, (b.ctx j.ctx).stepSeq)
  else if op = 3 then (((b.colls.find? (fun c => c.ring = j.ring && c.seq = j.seq && c.re.isNone)).map (fun c => c.id)).getD 0, 0)
  else if op = 7 then (((b.tb.flushes.find? (fun f => f.ring = j.ring && f.seq = j.seq)).map (fun f => flushResult f.last)).getD (2 ^ 64 - 1), 0)
  else (0, 0)

/-- A fault of the context is one of those that its teardown comes from: the context is live, or was torn down in this hub cycle
(R327). -/
def Blocks.faultCounts (b : Blocks) (c : Nat) : Bool := (b.ctx c).mode = .live || (b.ctx c).tornAt = some b.glb.hubNow

/-- Accesses of a context that wait go on no more (Table 13.2). -/
def Dev.dropParts (d : Dev) (c : Nat) : Dev :=
  let keep (s : Stall) : Stall := { s with parts := s.parts.filter (fun p => p.ctx ≠ some c) }
  { d with mig := { d.mig with stalls := d.mig.stalls.map keep } }

/-- A context that is being torn down meets another fault: in the hub cycle in which its teardown began CAUSE takes the lower code, and
later none (R327). -/
def Dev.lowerCause (d : Dev) (c cause : Nat) : Dev :=
  if (d.ctx c).mode = .tearing ∧ (d.ctx c).tornAt = some d.glb.hubNow ∧ cause < (d.ctx c).cause then
    d.modCtx c (fun x => { x with cause := cause })
  else d

/-- Teardown begins (R327, Table 13.2): everything but the tag reclaim, which TEARDOWN_COMPLETE ends with. A context that is not
LIVE keeps its state, and its first CAUSE but for a lower code of the same hub cycle. -/
def Dev.tearDown (d : Dev) (c cause : Nat) : Dev :=
  if (d.ctx c).mode ≠ .live then d.lowerCause c cause else
  let d := (d.modCtx c (fun x => { x with mode := .tearing, cause := cause, runnable := false, resv := 0, resLeft := 0,
                                          tornAt := some d.glb.hubNow })).bump
    Reg.glbCtxCntTeardown 1
  let torn (j : Job) : Record :=
    let (r0, r1) := d.tornResults j
    d.recordOf j 0xB4 false r0 r1
  let records := (d.jobs.filter (fun j => j.ctx = c)).map (fun j => (j, torn j))
  -- no Hallmark entry for its occurrences; entries that wait for room are dropped without a SEQ
  let gone := (d.ctx c).occs.map (fun o => (c, o.id))
  let d : Dev := { d with tb := { d.tb with hmDue := d.tb.hmDue.filter (fun e => !gone.contains e),
                                            flushes := d.tb.flushes.filter (fun f => f.ctx ≠ c) } }
  let d := d.modCtx c (fun x => { x with occs := [], fence := [], saved := [], restoring := [] })
  -- rings (R311)
  let d := records.foldl (fun d x => d.endJob x.1 x.2) d
  let d := (d.enabledRings.filter (fun r => d.ringCtx r = c)).foldl (fun d r =>
    (d.wrFld (Reg.ringCtrl r) 0 0 0).modRing r (fun x => { x with fetched := [], starve := 0, promoted := false })) d
  -- cores, Routing Engines
  let d := d.tearCores c
  let d : Dev := { d with records := d.records.filter (fun r => r.ctx ≠ c) }
  let d : Dev := match d.routing.layer with
    | some l =>
      if l.ctx = c then
        { d with routing := { layer := none, counts := d.routing.counts.filter (fun r => r.seq ≠ l.stepSeq), lastSeq := some l.stepSeq } }
      else d
    | none => d
  -- collectives, Clasps, memory-semantic requests
  let ids := (d.colls.filter (fun x => x.ctx = c)).map (fun x => x.id)
  let d := (ids.foldl Dev.voteFail d).collSweep
  let muted (x : Clasp) : Clasp := { x with ok := false }
  let d : Dev := { d with tb := { d.tb with clasps := updWhere (fun x => x.ctx = c) muted d.tb.clasps } }
  let d : Dev := { d with remote := { d.remote with reqs := d.remote.reqs.filter (fun r => r.ctx ≠ c || r.core = 576) } }
  -- migration and permits
  let d := ((d.dropParts c).dropDemandPins c).dropStage c
  let d : Dev := { d with mig := { d.mig with stageReqs := d.mig.stageReqs.filter (fun e => e.1 ≠ c) } }
  let d := d.freeSlots c
  { d with pwr := { d.pwr with fromRes := d.pwr.fromRes.filter (fun e => e.2.1 ≠ c) } }

/-- TEARDOWN_COMPLETE: the tag reclaim by context ends, and the context is DEAD, or FREE after a destroy (R157, R327). -/
def Dev.teardownComplete (d : Dev) (c : Nat) : Dev :=
  if (d.ctx c).mode ≠ .tearing then d else
  let d := d.reclaim (reclaimPat (.context c))
  let cause := (d.ctx c).cause
  let x := d.ctx c
  if x.destroyed then d.modCtx c (fun _ => { cause := cause })
  else d.modCtx c (fun x => { x with mode := .dead })

/-- Count an uncorrectable HBM error at its stack. -/
def Dev.countUncorr (d : Dev) (code addr : Nat) : Dev :=
  if code = 0x45 then d.bump (Reg.hbmCntUncorr (d.errStack addr)) 1 else d

/-- A fault of Table 5.17 met by a hub engine for a context: recorded, logged and torn down (R146, R149). One of a context whose
teardown has begun before is only logged (R327). -/
def Dev.engineFault (d : Dev) (ctx code addr : Nat) : Dev :=
  let s := d.errStack addr
  let d := (if d.faultCounts ctx then d.setMigFault ctx code addr else d).countUncorr code addr
  let e : LogEntry := { code := code, ctx := some ctx, addr := addr, kind := 1, domain := 35 }
  let e : LogEntry := if code = 0x45 then { e with domain := 47 + s, unit := s } else e
  (d.log e).tearDown ctx code

/-- Record a fault in CORE_FAULT, CORE_FAULT_ADDR and CORE_FAULT_LOCAL (R102). -/
def Dev.setCoreFault (d : Dev) (p ctx code slot pc loc : Nat) : Dev :=
  if d.flag (Reg.coreFault p) 31 then d
  else ((d.wr (Reg.coreFault p) (2 ^ 31 + ctx * 2 ^ 17 + slot * 2 ^ 16 + code)).wr (Reg.coreFaultAddr p) (pc % 2 ^ 48)).wr
    (Reg.coreFaultLocal p) (loc % 2 ^ 22)

/-- The registers of the units that a core's fault concerns: CORE_FAULT, and MIG_FAULT or POOL_FAULT by the code (R102, R146, R161). -/
def Dev.recordCoreFault (d : Dev) (p ctx code slot pc loc logAddr : Nat) : Dev :=
  let d := d.setCoreFault p ctx code slot pc loc
  let d := if 0x41 ≤ code ∧ code ≤ 0x48 then d.setMigFault ctx code logAddr else d
  d.setPoolFault ctx code logAddr

/-- A fault of a core (R102, R103): CORE_FAULT, one error-log entry with the core's domain and number, teardown. An HBM error is
logged with its stack (Table 5.17). One of a context whose teardown has begun before is only logged (R327). -/
def Dev.coreFault (d : Dev) (p ctx code slot pc loc logAddr kind : Nat) : Dev :=
  let d := if d.faultCounts ctx then d.recordCoreFault p ctx code slot pc loc logAddr else d
  let d := d.countUncorr code logAddr
  let s := d.errStack logAddr
  let e : LogEntry := { code := code, ctx := some ctx, domain := clusterOf p, unit := p, addr := logAddr, kind := kind }
  let e : LogEntry := if code = 0x45 then { e with domain := 47 + s, unit := s } else e
  (d.log e).tearDown ctx code

/-- A fault of a Routing Engine that tears down (R66, R68); `addr` is the device address of Table 2.13, if the code has one. -/
def Dev.reFault (d : Dev) (i ctx half layer code : Nat) (addr : Option Nat) : Dev :=
  let d := if d.faultCounts ctx then d.setReFault i ctx half layer code (addr.getD 0) else d
  (d.log { code := code, ctx := some ctx, domain := 34, unit := i, addr := addr.getD 0, kind := b2n addr.isSome }).tearDown ctx code

/-- A fault of the pool manager for a ring's request (R156, R161); code 0x48 is one of the migration engine (R155). -/
def Dev.poolRingFault (d : Dev) (ctx code addr : Nat) : Dev :=
  let d := if !d.faultCounts ctx then d else if code = 0x48 then d.setMigFault ctx code addr else d.setPoolFault ctx code addr
  (d.log { code := code, ctx := some ctx, domain := 35, addr := addr, kind := 1 }).tearDown ctx code

/-! Accesses that an engine makes for a context (R146, R375): one that faults tears the context down. -/

/-- A read. -/
def Dev.readFor (d : Dev) (ctx a n : Nat) : Option (List Byte) × Dev :=
  if n = 0 then (some [], d) else
  match d.engineCheck a n with
  | some (code, x) => (none, d.engineFault ctx code x)
  | none => let (bs, d) := d.engineRead (some ctx) a n; (some bs, d)

/-- A store; answers whether it was made. -/
def Dev.writeFor (d : Dev) (ctx a : Nat) (bs : List Byte) : Bool × Dev :=
  if bs.isEmpty then (true, d) else
  match d.engineCheck a bs.length with
  | some (code, x) => (false, d.engineFault ctx code x)
  | none => (true, d.engineWrite (some ctx) a bs)

/-! Writing a completion queue. -/

/-- The ring's CQ is full (R310). -/
def Blocks.cqFull (b : Blocks) (r : Nat) : Bool :=
  decide (2 ^ b.fld (Reg.ringSize r) 11 8 ≤ (b.rd (Reg.ringCqHead r) + 65536 - b.rd (Reg.ringCqTail r)) % 65536)

/-- A queue with LOC = 1 lies in the direct part (R296): any other address faults with 0x41. -/
def Blocks.queueCheck (b : Blocks) (a n : Nat) : Option (Nat × Nat) := if partOf a = .direct then b.engineCheck a n else some (0x41, a)

/-- MSI-X vector of a ring after a record (R308): sent, or left pending while the vector is masked (log entry 6). -/
def Dev.irq (d : Dev) (r : Nat) : Dev :=
  if !d.flag (Reg.ringCtrl r) 27 then d else
  let v := d.fld (Reg.ringCtrl r) 26 16
  if d.flag (Reg.msixCtrl v) 0 then d.wr (Reg.msixPba (v / 64)) (setBits (d.rd (Reg.msixPba (v / 64))) (v % 64) (v % 64) 1)
  else { d with glb := { d.glb with msix := d.glb.msix ++ [v] } }

/-- An entry of a CQ of `size`-byte entries is written at RING_CQ_HEAD, which advances (R296, R298, R308). A CQ in the device range is
written under R127 for the ring's context. -/
def Dev.cqPut (d : Dev) (r size : Nat) (entry : List Byte) : Dev :=
  let head := d.rd (Reg.ringCqHead r)
  let at_ := d.rd (Reg.ringCqBase r) / 4096 * 4096 + head % 2 ^ d.fld (Reg.ringSize r) 11 8 * size
  let done (d : Dev) : Dev := (d.wr (Reg.ringCqHead r) ((head + 1) % 65536)).irq r
  if d.flag (Reg.ringCqBase r) 0 then
    match d.queueCheck at_ size with
    | some (code, x) => d.engineFault (d.ringCtx r) code x
    | none => done (d.engineWrite none at_ (padTo size entry))
  else done { d with hostMem := memWrite d.hostMem at_ (padTo size entry) }

/-- Meaning of TEARDOWN_COMPLETE. -/
def execTeardownComplete (ctx : Nat) (s : State) : Host.Outcome State Fault Refusal :=
  .next (s.onDev (s.dev.live (fun d => d.teardownComplete ctx)))

end Sys2Proof.Machine
end

