-- ==== Sys2Proof/Machine/Power.lean ====
section
/-! DEFINITION. The permit arbiter (R328 to R331, R365): grants, returns and ramp windows. -/

namespace Sys2Proof.Machine

/-- The ring whose command started the program on a core. -/
def Blocks.coreRing (b : Blocks) (p : Nat) : Option Nat := (b.core p).prog.map (·.ring)

/-- The context is a real-time context between start and yield. -/
def Blocks.isRunnable (b : Blocks) (c : Nat) : Bool := (b.ctx c).rt && (b.ctx c).runnable

/-- The rank of a request, read afresh at every arbitration (R329): 0 is RT, 1 to 8 are the levels 0 to 7. -/
def Blocks.rankOf (b : Blocks) (r : CaratReq) : Nat :=
  if r.req < 576 then
    if r.ctx.any (fun c => b.isRunnable c) then 0
    else match b.coreRing r.req with
      | some g => 1 + b.fld (Reg.ringCtrl g) 6 4
      | none => 8
  else if r.req < 584 then 1 + b.fld Reg.pwrPrio 6 4
  else if r.req < 590 then 1 + b.fld Reg.pwrPrio 2 0
  else 1 + b.fld Reg.pwrPrio 10 8

/-- The order of arbitration: rank, then stamp (hub cycle, then requester number). -/
def Blocks.grantBefore (b : Blocks) (r s : CaratReq) : Bool :=
  let k (x : CaratReq) : Nat := b.rankOf x * 2 ^ 96 + x.stamp * 2 ^ 16 + x.req
  decide (k r < k s)

/-- The device budget in force (R365). -/
def Blocks.devBudget (b : Blocks) : Nat :=
  if b.flag Reg.glbTherm 48 then min (b.rd Reg.pwrDevBudget) (b.fld Reg.glbTherm 47 32) else b.rd Reg.pwrDevBudget

/-- The reservation left to the context of a request, if it may be drawn on. -/
def Blocks.fromRes (b : Blocks) (r : CaratReq) : Bool :=
  b.rankOf r = 0 && r.ctx.any (fun c => decide (r.carats ≤ (b.ctx c).resLeft))

/-- A request is granted: its carats are held, and an optical engine in DARK turns its lasers on (R166). -/
def Dev.grantCarats (d : Dev) (r : CaratReq) (res : Bool) : Dev :=
  let p := d.pwr
  let d : Dev := { d with pwr := { p with held := tabSet 0 p.held r.req (d.holds r.req + r.carats),
                                          waiting := p.waiting.filter (fun x => x.req ≠ r.req), rampLeft := p.rampLeft - r.carats } }
  let d := d.bump Reg.pwrCntGrants 1
  let d := match r.ctx with
    | some c =>
      if res then
        let d := d.modCtx c (fun x => { x with resLeft := x.resLeft - r.carats })
        { d with pwr := { d.pwr with fromRes := d.pwr.fromRes ++ [(r.req, c, r.carats)] } }
      else d
    | none => d
  if 584 ≤ r.req ∧ r.req < 590 ∧ (d.optPort (r.req - 584)).st = .dark ∧ d.glb.stopped = false then
    d.modPort (r.req - 584) (fun x => { x with st := .wake })
  else d

/-- One scan of the arbiter over the waiting requests in order, with at most 16 grants (R330). -/
def Dev.permitScan (d : Dev) (blocked : List Nat) : Nat → List CaratReq → Dev
  | _, [] => d
  | left, r :: rest =>
    let q := budgetOf r.req
    if blocked.contains q then d.permitScan blocked left rest else
    if left = 0 then d else
    let res := d.fromRes r
    if d.pwr.rampLeft < r.carats then { d with pwr := { d.pwr with rampHit := true } }
    else if !res && decide (d.devBudget < d.heldAll + d.reservedLeft + r.carats) then d
    else if d.rd (Reg.pwrBudgetOf q) < d.heldAgainst q + r.carats then d.permitScan (q :: blocked) left rest
    else (d.grantCarats r res).permitScan blocked (left - 1) rest

/-- PERMIT_GRANT. -/
def Dev.permitGrant (d : Dev) : Dev := d.permitScan [] 16 (sortBy d.grantBefore d.pwr.waiting)

/-- The condition of Table 13.3 under which a requester may give back its carats: a core with no incomplete array instruction, an
optical engine with its lasers off, a vault port with no transfer; the 1,024 idle cycles are the environment's to tell. -/
def Blocks.mayReturn (b : Blocks) (req : Nat) : Bool :=
  if req < 576 then !(b.core req).prog.any (fun g => g.score.any (fun i => i.slot = .m))
  else if req < 584 then true
  else if req < 590 then
    let st := (b.optPort (req - 584)).st
    st = .disabled || st = .dark || st = .failed
  else (b.vport (req - 590)).queue.isEmpty && (b.vport (req - 590)).running.isNone

/-- PERMIT_RETURN. -/
def Dev.permitReturn (d : Dev) (req : Nat) : Dev := if req < 592 && d.mayReturn req then d.returnCarats req else d

/-- RAMP_WINDOW: a window of 1,200 hub cycles begins. -/
def Dev.rampWindow (d : Dev) : Dev :=
  let d := if d.pwr.rampHit then d.bump Reg.pwrCntRampWindows 1 else d
  { d with pwr := { d.pwr with rampLeft := d.rd Reg.pwrRamp, rampLast := d.pwr.rampHit, rampHit := false } }

/-- Meaning of PERMIT_GRANT. -/
def execPermitGrant (s : State) : Host.Outcome State Fault Refusal := .next (s.onDev (s.dev.live Dev.permitGrant))

/-- Meaning of PERMIT_RETURN. -/
def execPermitReturn (req : Nat) (s : State) : Host.Outcome State Fault Refusal :=
  .next (s.onDev (s.dev.live (fun d => d.permitReturn req)))

/-- Meaning of RAMP_WINDOW. -/
def execRampWindow (s : State) : Host.Outcome State Fault Refusal := .next (s.onDev (s.dev.live Dev.rampWindow))

end Sys2Proof.Machine
end

