-- ==== Sys2Proof/Machine/Mailbox.lean ====
section
/-! DEFINITION. The end of a management command (R282, R283, R293). -/

namespace Sys2Proof.Machine

/-- The running management command ends: BUSY clears, DONE sets, RESULT and MGMT_RESULT_INFO take their values; an in-band interrupt
is raised where enabled; APPLY_FAIL is logged (R282, R283, R293). -/
def Dev.mgmtEnd (d : Dev) (result info : Nat) : Dev :=
  match d.mgmt.run with
  | none => d
  | some r =>
    let d : Dev := { d with mgmt := { d.mgmt with run := none } }
    let st := setBits (setBits (setBits (d.rd Reg.mgmtStatus) 27 24 0) 15 8 result) 23 16 r.op
    let st := setBits (setBits st 1 1 1) 0 0 0
    let d := (d.wr Reg.mgmtStatus st).wr Reg.mgmtResultInfo info
    let d := if result = 0x0F then d.log { code := 0xC7, domain := 36, addr := Reg.mgmtStatus, kind := 2 } else d
    if d.flag Reg.mgmtCtrl 0 && bitOf d.i3c.events.toNat 0 then { d with i3c := { d.i3c with ibi := d.i3c.ibi ++ [1] } } else d

/-- The opcode of the command that runs. -/
def Blocks.mgmtOp (b : Blocks) : Option Nat := b.mgmt.run.map (·.op)

/-- An optical port's outcome is decided for the command that waits for it: LINK_RETRAIN of this port ends (R290), and MOUNT_LOAD
ends when the last retrain of its step 15 is done (R279). `ok` tells ACTIVE or QUARANTINE from FAILED. -/
def Dev.mgmtPortDone (d : Dev) (n : Nat) (ok : Bool) : Dev :=
  match d.mgmt.run with
  | none => d
  | some r =>
    if !r.begun then d
    else if r.op = 4 ∧ r.target = n then d.mgmtEnd (if ok then 0 else 0x12) 0
    else if r.op = 1 ∧ (List.range 6).all (fun i => !(d.optPort i).retraining && !(d.optPort i).asked) then d.mgmtEnd 0 0
    else d

end Sys2Proof.Machine
end

