-- ==== Sys2Proof/Machine/Ports.lean ====
section
/-! DEFINITION. Optical ports (R164 to R189): states, training, retrains, losses, and the link-level retry. -/

namespace Sys2Proof.Machine

/-- The code of a port state (Table 7.3). -/
def PortState.code : PortState → Nat
  | .disabled => 0
  | .dark => 1
  | .wake => 2
  | .lock => 3
  | .exchange => 4
  | .quarantine => 5
  | .active => 6
  | .retrain => 7
  | .failed => 8

/-- The lanes of a 10-bit map, ascending. -/
def lanesOf (m : Nat) : List Nat := (List.range 10).filter (fun i => bitOf m i)

/-- The map of a list of lanes. -/
def laneMap (ls : List Nat) : Nat := sumBy (fun i => 2 ^ i) ls

/-- The lanes listed in both maps. -/
def bothLanes (a b : Nat) : List Nat := (lanesOf a).filter (fun i => bitOf b i)

/-- A map without the lanes of another. -/
def lanesBut (a b : Nat) : Nat := laneMap ((lanesOf a).filter (fun i => !bitOf b i))

/-- The width that MAX_WIDTH allows (Table 7.7). -/
def Blocks.maxWidth (b : Blocks) (n : Nat) : Nat := 8 - 2 * b.fld (Reg.fabPortCtrl n) 5 4

/-- The largest width no greater than a bound, 0 if there is none (R176). -/
def widthFor (g : Nat) : Nat := if 8 ≤ g then 8 else if 6 ≤ g then 6 else if 4 ≤ g then 4 else 0

/-- TX_GOOD of this end. -/
def OptPort.txGood (p : OptPort) : Nat := lanesBut 0x3FF p.txRetired
/-- RX_GOOD of this end. -/
def OptPort.rxGood (p : OptPort) : Nat := lanesBut p.rxLocked p.rxRetired

/-- The training block that the port sends now (Table 7.4). -/
def Blocks.trainingBlock (b : Blocks) (n : Nat) : List Byte :=
  let p := b.optPort n
  let width := if p.req = 3 then p.width else b.maxWidth n
  let w0 := p.st.code + p.req * 2 ^ 4 + b.rd Reg.fabLinkVers * 2 ^ 8 + b.mountFmt * 2 ^ 16 + n * 2 ^ 24
  toLe 4 w0 ++ toLe 4 (b.rd Reg.fabRtSelf) ++ toLe 4 (p.rxGood + p.txGood * 2 ^ 10 + width * 2 ^ 20) ++
  toLe 4 (b.rd Reg.fabSweep % 2 ^ 17 + b2n p.known * 2 ^ 17) ++ toLe 4 b.glb.hubNow ++ toLe 4 p.peerStamp ++
  toLe 4 (b.glb.hubNow + 2 ^ 32 - p.peerStampAt % 2 ^ 32) ++ toLe 4 0

/-- A link event: LAST_EVENT and the error log (R189). -/
def Dev.portEvent (d : Dev) (n code : Nat) : Dev :=
  (d.modPort n (fun p => { p with lastEvent := code })).log
    { code := code, domain := 41 + n, unit := n, addr := Reg.fabPortStatus n, kind := 2 }

/-- Cells that wait in the router for output n: its FIFOs and its bank queues, which are emptied. -/
def Dev.takeWaiting (d : Dev) (n : Nat) : List QCell × Dev :=
  let r := d.router
  let fifo := tabGet [] r.vc0 n ++ tabGet [] r.bulk n
  let mine (e : Nat × List QCell) : Bool := e.1 / 4 = n
  let queued := r.banks.flatMap (fun k =>
    (k.2.draining.filter mine).flatMap (·.2) ++ (k.2.queues.filter mine).flatMap (·.2))
  let cut (k : Bank) : Bank :=
    { k with queues := k.queues.filter (fun e => !mine e), draining := k.draining.filter (fun e => !mine e) }
  let banks := (r.banks.map (fun e => (e.1, cut e.2))).filter (fun e => e.2 ≠ {})
  (fifo ++ queued, { d with router := { r with vc0 := tabErase n r.vc0, bulk := tabErase n r.bulk, banks := banks } })

/-- The port hands its retry buffer to the router in LSEQ order, marked as possible copies, and the cells that wait for its output
after them (R182, log entry 25). -/
def Dev.reinject (d : Dev) (n : Nat) : Dev :=
  let held := (d.optPort n).retry.map (fun e => { e.2 with cell := e.2.cell.withCopy })
  let (waiting, d) := d.takeWaiting n
  let back := (held ++ waiting).map (fun q => { q with inPort := n })
  (d.modPort n (fun p => { p with rx := p.rx ++ back, retry := [], replay := [] })).bump
    (Reg.fabPortCntReinjected n) held.length

/-- Lasers off: the grant of R166 is returned and a waiting request withdrawn. -/
def Dev.lasersOff (d : Dev) (n : Nat) : Dev := (d.withdrawCarats (584 + n)).returnCarats (584 + n)

/-- A port at rest: everything that ends with the link, the record of R183 and the retired lanes kept. -/
def OptPort.down (p : OptPort) (st : PortState) : OptPort :=
  { p with st := st, width := 0, fec := false, light := false, txActive := 0, rxActive := 0, rxLocked := 0, known := false, req := 0,
           asked := false, retraining := false, peerSeen := false, markPos := none, beatIn := [], record := none, sent := none,
           decided := none }

/-- GLB_CLK_LOSS notes the port's domain once it has locked (R180). -/
def Dev.portClockLoss (d : Dev) (n : Nat) : Dev :=
  if d.glb.lockedOnce.contains (41 + n) then d.wr Reg.glbClkLoss (setBits (d.rd Reg.glbClkLoss) (41 + n) (41 + n) 1) else d

/-- The port enters FAILED with an event (R180 to R182, Table 7.12). -/
def Dev.portFail (d : Dev) (n code : Nat) : Dev :=
  let st := (d.optPort n).st
  if st = .disabled || st = .dark || st = .failed then d else
  let d := (d.portEvent n code).portClockLoss n
  let d := (d.reinject n).lasersOff n
  let only := code = 0x65 || code = 0x66 || code = 0x69
  let d := d.modPort n (fun p => { p.down .failed with sticky := only })
  (d.bump (Reg.fabPortCntDown n) 1).mgmtPortDone n false

/-- A device-level clock fault turns the transmitters off: the port that was lit or waited for its grant is FAILED, without a link event,
until the device is reset (R30, log entry 15). -/
def Dev.portStop (d : Dev) (n : Nat) : Dev :=
  let st := (d.optPort n).st
  if st = .disabled || st = .failed then d else
  let d := (d.reinject n).lasersOff n
  ((d.modPort n (fun p => { p.down .failed with sticky := true })).bump (Reg.fabPortCntDown n) 1).mgmtPortDone n false

/-- The port enters DARK and asks for its carats (R166, R173). No transmitter is lit again after a device-level clock fault (R30). -/
def Dev.portDark (d : Dev) (n : Nat) : Dev :=
  if d.glb.stopped then d else
  (d.modPort n (fun p => { p.down .dark with sticky := false })).askCarats (584 + n) 6 none

/-- ENABLE set on a disabled port (R173). -/
def Dev.portEnable (d : Dev) (n : Nat) : Dev := if (d.optPort n).st = .disabled then d.portDark n else d

/-- ENABLE cleared (R183, R184): masked, dark, the retry buffer re-injected, the record and the retired lanes cleared. -/
def Dev.portDisable (d : Dev) (n : Nat) : Dev :=
  if (d.optPort n).st = .disabled then d else
  let d := (d.reinject n).lasersOff n
  let d := d.modPort n (fun p => { p.down .disabled with peerPlace := none, txRetired := 0, rxRetired := 0, sticky := false })
  d.mgmtPortDone n false

/-- A time or power loss named by the environment is a loss only in the states of R180. -/
def PortState.lossable (st : PortState) : Bool :=
  st = .lock || st = .exchange || st = .quarantine || st = .active || st = .retrain

/-- LIGHT_LOST, FEC_LOCK_LOST or CLOCK_LOST on a port (R180). -/
def Dev.portLoss (d : Dev) (n code : Nat) : Dev := if (d.optPort n).st.lossable then d.portFail n code else d

/-- This end starts a retrain (R178): REQ 1, or 2 for a width change. -/
def Dev.beginRetrain (d : Dev) (n req : Nat) : Dev :=
  let p := d.optPort n
  if (p.st = .active || p.st = .quarantine) && !p.asked then d.modPort n (fun p => { p with asked := true, req := req }) else d

/-- The port enters RETRAIN (R178). -/
def Dev.enterRetrain (d : Dev) (n : Nat) : Dev :=
  (d.modPort n (fun p => { p with st := .retrain, retraining := true, asked := false, peerSeen := false, markPos := none,
                                  beatIn := [] })).bump (Reg.fabPortCntRetrains n) 1

/-- The record of R183 is cleared when blocks of another PLACE arrive. -/
def Dev.notePlace (d : Dev) (n : Nat) (blk : List Byte) : Dev :=
  d.modPort n (fun p => { p with peerPlace := p.peerPlace.filter (fun x => x = fldOf blk 4 31 0) })

/-- This end leads the link (R175): lower PLACE, then lower router port number. -/
def Blocks.leads (b : Blocks) (n : Nat) (blk : List Byte) : Bool :=
  let mine := b.rd Reg.fabRtSelf
  let theirs := fldOf blk 4 31 0
  decide (mine < theirs) || (mine = theirs && decide (n < fldOf blk 0 26 24))

/-- A retrain request from the peer (R178, R179): the leader's request stands, the follower's is dropped and counted; an answer
carries REQ = 0 (log entry 26). The port answers and enters RETRAIN. -/
def Dev.takeRequest (d : Dev) (n : Nat) (blk : List Byte) : Dev :=
  let p := d.optPort n
  let clash := p.asked && decide (fldOf blk 0 5 4 ≠ 0)
  let merged := clash && !d.leads n blk
  let d := d.notePlace n blk
  let d := if merged then d.bump (Reg.fabPortCntReqMerged n) 1 else d
  let d := d.modPort n (fun p => { p with req := if p.asked && !merged then p.req else 0 })
  d.enterRetrain n

/-- Link word of a cell that the port sends now (Table 7.2); `unread` fills ACK while ACK_VALID is 0. -/
def OptPort.linkWord (p : OptPort) (kind lseq beat unread : Nat) : Nat :=
  let ack := match p.accepted with
    | some a => a * 2 ^ 12 + 2 ^ 27
    | none => unread % 4096 * 2 ^ 12
  lseq % 4096 + ack + b2n p.nakDue * 2 ^ 24 + kind * 2 ^ 25 + beat * 2 ^ 28

/-- The exclusive or of bytes. -/
def xorBytes (bs : List Byte) : Byte := bs.foldl (fun a b => a ^^^ b) 0

/-- A beat record without its CHECK, and CHECK itself (Table 10.1). -/
def recordCheck (body : Nat) : Nat := (~~~ (xorBytes (toLe 15 body))).toNat

/-- The beat record for the mark that is due (R246); OFFSET is a free value. -/
def Dev.makeRecord (d : Dev) : Nat × Dev :=
  let (f, d) := d.fresh
  let body := d.stroke + f.toNat % 2 ^ 14 * 2 ^ 64 + d.fld Reg.tbStatus 8 4 * 2 ^ 78 + d.fld Reg.tbStatus 1 1 * 2 ^ 83 +
    bitsOf (d.rd Reg.tbMasterPlace) 31 12 * 2 ^ 96
  (body + recordCheck body * 2 ^ 120, d)

/-- BEAT of the next cell and the port's place in the record (R245). -/
def Dev.nextBeat (d : Dev) (n : Nat) : Nat × Dev :=
  match (d.optPort n).markPos with
  | none => (0, d)
  | some 0 =>
    let (r, d) := d.makeRecord
    (8 + r % 8, d.modPort n (fun p => { p with markPos := some 1, beatOut := r }))
  | some k =>
    if 43 ≤ k then (0, d.modPort n (fun p => { p with markPos := none }))
    else ((d.optPort n).beatOut / 8 ^ k % 8, d.modPort n (fun p => { p with markPos := some (k + 1) }))

/-- A cell leaves in this slot: its link word is written and its NAK, if one was due, is spent. No cell leaves after a device-level clock
fault (R30). -/
def Dev.putCell (d : Dev) (n kind lseq : Nat) (c : Cell) : Dev :=
  if d.glb.stopped then d else
  let (beat, d) := d.nextBeat n
  let (unread, d) := if (d.optPort n).accepted.isNone then d.fresh else (0, d)
  d.modPort n (fun p =>
    let c : Cell := { c with link := BitVec.ofNat 32 (p.linkWord kind lseq beat unread.toNat) }
    { p with nakDue := false, sent := some c })

/-- An empty cell: idle, or a retrain request with its training block. -/
def blankCell (payload : List Byte) : Cell := ⟨0, 0, 0, 0, 0, 0, 0, padTo 256 payload⟩

/-- The port reports itself busy (R170, R171). -/
def OptPort.busy (p : OptPort) : Bool := decide (512 ≤ p.retry.length) || !p.peerSeen || p.asked

/-- A new data cell of output n by Table 8.6, taken from its FIFO. -/
def Dev.chooseCell (d : Dev) (n slot : Nat) : Option (QCell × Dev) :=
  let v := tabGet [] d.router.vc0 n
  let k := tabGet [] d.router.bulk n
  let takeV : Option (QCell × Dev) := match v with
    | c :: rest => some (c, { d with router := { d.router with vc0 := tabSet [] d.router.vc0 n rest } })
    | [] => none
  let takeK : Option (QCell × Dev) := match k with
    | c :: rest => some (c, { d with router := { d.router with bulk := tabSet [] d.router.bulk n rest } })
    | [] => none
  if slot % 16 = 0 && !v.isEmpty then takeV
  else if k.head?.any (fun q => q.cell.gold) then takeK
  else if !v.isEmpty then takeV
  else takeK

/-- LINK_CELL_SEND: one cell slot of an ACTIVE port (R169, R170, R178, R203, R206). -/
def Dev.linkCellSend (d : Dev) (n : Nat) : Dev :=
  let p := d.optPort n
  if p.st ≠ .active ∨ d.glb.stopped = true then d
  else if p.asked then d.putCell n 2 0 (blankCell (d.trainingBlock n))
  else match p.peerSeen, p.replay with
    | true, (lseq, q) :: rest =>
      ((d.modPort n (fun p => { p with replay := rest })).putCell n 0 lseq q.cell).bump (Reg.fabPortCntReplayed n) 1
    | _, _ =>
      let d := d.modPort n (fun p => { p with slots := p.slots + 1 })
      match if p.busy then none else d.chooseCell n (p.slots + 1) with
      | none => d.putCell n 1 0 (blankCell [])
      | some (q, d) =>
        let d := if q.cell.gold then d.bump Reg.fabCntGold 1 else d
        let q := { q with cell := q.cell.withAge (min 255 (q.cell.age + 1)) }
        let d := (d.putCell n 0 p.nextSeq q.cell).bump (Reg.fabPortCntTxCells n) 1
        d.modPort n (fun x => { x with nextSeq := (p.nextSeq + 1) % 4096, retry := x.retry ++ [(p.nextSeq, q)] })

/-- A replay of every unacknowledged cell begins (R170); from the same LSEQ as the one before it is a repeat, and RETRY_LIMIT repeats
begin a retrain with event 0x63 (R172). While this end asks for a retrain it sends nothing else, and no replay starts (R178). -/
def Dev.startReplay (d : Dev) (n : Nat) : Dev :=
  if (d.optPort n).asked then d else
  match (d.optPort n).retry with
  | [] => d
  | (first, c) :: rest =>
    let again : Bool := (d.optPort n).replayFrom = some first
    let reps := if again then (d.optPort n).repeats + 1 else 0
    let d := d.modPort n (fun p => { p with replay := (first, c) :: rest, replayFrom := some first, repeats := reps })
    let d := d.bump (Reg.fabPortCntReplays n) 1
    if max 1 (d.fld (Reg.fabPortCtrl n) 19 16) ≤ reps then (d.portEvent n 0x63).beginRetrain n 1 else d

/-- ACK of a received link word (R170, R172). -/
def Dev.takeAck (d : Dev) (n ack : Nat) : Dev :=
  let p := d.optPort n
  let after (xs : List (Nat × QCell)) : List (Nat × QCell) := (xs.dropWhile (fun e => e.1 ≠ ack)).drop 1
  if p.retry.any (fun e => e.1 = ack) then
    let rest := after p.retry
    let replay := p.replay.filter (fun e => rest.any (fun r => r.1 = e.1))
    d.modPort n (fun p => { p with retry := rest, replay := replay, lastAckIn := some ack })
  else if p.lastAckIn = some ack then d
  else d.bump (Reg.fabPortCntBadAck n) 1

/-- A data cell reaches the receiver (R171). A NAK that is due goes out with the next cell, whatever is accepted before it. -/
def Dev.takeData (d : Dev) (n lseq : Nat) (c : Cell) (damaged : Bool) : Dev :=
  let p := d.optPort n
  if !damaged && lseq = p.expect then
    (d.modPort n (fun p => { p with rx := p.rx ++ [⟨c, n, false⟩], expect := (lseq + 1) % 4096, accepted := some lseq, episode := false,
                                    peerSeen := true })).bump (Reg.fabPortCntRxCells n) 1
  else if p.episode then d
  else (d.modPort n (fun p => { p with episode := true, nakDue := true })).bump (Reg.fabPortCntNak n) 1

/-- The beat bits of a received cell (R245): a complete record is kept for the timebase. -/
def Dev.takeBeat (d : Dev) (n beat : Nat) : Dev :=
  d.modPort n (fun p =>
    let got := if 8 ≤ beat then [beat % 8] else if p.beatIn.isEmpty then [] else p.beatIn ++ [beat % 8]
    if got.length = 43 then
      { p with beatIn := [], record := some (BitVec.ofNat 128 (got.foldr (fun b acc => b + 8 * acc) 0)) }
    else { p with beatIn := got })

/-- Corrected symbols and uncorrectable codewords of a slot (R168, R187). -/
def Dev.countFec (d : Dev) (n : Nat) (q : RxQuality) : Dev :=
  let d := (q.corrected.filter (fun e => e.1 < 10)).foldl (fun d e =>
    (d.bump (Reg.fabPortCntLaneCorr n e.1) e.2).bump (Reg.fabPortCntFecCorr n) e.2) d
  if q.uncorr = 0 then d else d.bump (Reg.fabPortCntFecUncorr n) q.uncorr

/-- REPLAY_TIMEOUT: the oldest unacknowledged cell has waited REPLAY_TIMEOUT (R170). -/
def Dev.replayTimeout (d : Dev) (n : Nat) : Dev := if (d.optPort n).st = .active then d.startReplay n else d

/-- RETRAIN_REQUEST: a retrain request reaches an ACTIVE port, which answers within one cell slot (R178, R179). -/
def Dev.retrainRequest (d : Dev) (n : Nat) (blk : List Byte) : Dev :=
  if (d.optPort n).st ≠ .active then d else
  let d := d.takeRequest n blk
  d.putCell n 2 0 (blankCell (d.trainingBlock n))

/-- LIGHT_DETECTED: light on at least 4 lanes in WAKE (Table 7.3). -/
def Dev.lightDetected (d : Dev) (n lanes : Nat) : Dev :=
  if (d.optPort n).st = .wake ∧ 4 ≤ (lanesOf lanes).length then d.modPort n (fun p => { p with st := .lock, light := true }) else d

/-- LOCK_ACHIEVED: codeword lock and deskew on the lanes of a map (Table 7.3). -/
def Dev.lockAchieved (d : Dev) (n lanes : Nat) : Dev :=
  if (d.optPort n).st ≠ .lock then d else
  let d := d.modPort n (fun p => { p with st := .exchange, fec := true, light := true, rxLocked := lanes % 1024, req := 0,
                                          peerStamp := 0, known := false, decided := none })
  if d.glb.lockedOnce.contains (41 + n) then d else { d with glb := { d.glb with lockedOnce := d.glb.lockedOnce ++ [41 + n] } }

/-- The link is up: EXCHANGE ends in ACTIVE or QUARANTINE. After a retrain the retry buffer is replayed and the expected LSEQ stands;
otherwise the link starts afresh (R171, R178). -/
def Dev.linkUp (d : Dev) (n : Nat) (active : Bool) : Dev :=
  let up (p : OptPort) : OptPort :=
    { p with st := if active then .active else .quarantine, accepted := none, episode := false, nakDue := false, peerSeen := false,
             slots := 0, markPos := none, beatIn := [], repeats := 0, replayFrom := none, req := 0, asked := false, decided := none }
  let d := d.modPort n (fun p =>
    if p.retraining then { up p with replay := p.retry }
    else { up p with nextSeq := 0, retry := [], replay := [], lastAckIn := none, expect := 0 })
  (d.modPort n (fun p => { p with retraining := false })).mgmtPortDone n true

/-- QUARANTINE ends: the link enters ACTIVE (R183). -/
def Dev.admitLink (d : Dev) (n : Nat) : Dev :=
  d.modPort n (fun p => { p with st := .active, accepted := none, peerSeen := false, slots := 0, replay := p.retry })

/-- SWEEP_ACTIVE with an epoch above a bound, in a FAB_SWEEP word. -/
def sweepAbove (w bound : Nat) : Bool := bitOf w 16 && decide (bound < bitsOf w 15 0)

/-- The decisions of EXCHANGE that both ends reach from the two blocks (R175, R176): cabling, version, delay, lanes and width. Answers
the failing event, or the width and the active lanes (transmit, receive). -/
def Blocks.exchange (b : Blocks) (n : Nat) (blk : List Byte) : Nat ⊕ (Nat × Nat × Nat) :=
  let p := b.optPort n
  if fldOf blk 0 26 24 ≠ n / 2 * 2 + (1 - n % 2) then .inl 0x69
  else if !bitOf (b.rd Reg.fabLinkVers) 0 || !bitOf (fldOf blk 0 15 8) 0 then .inl 0x65
  else if 720000 < b.rd (Reg.fabPortDelay n) then .inl 0x66
  else
    let tx := bothLanes p.txGood (fldOf blk 8 9 0)
    let rx := bothLanes p.rxGood (fldOf blk 8 19 10)
    let w := widthFor (min (min tx.length rx.length) (min (b.maxWidth n) (fldOf blk 8 23 20)))
    if w = 0 then .inl 0x67 else .inr (w, laneMap (tx.take w), laneMap (rx.take w))

/-- Half the round trip of a block in picoseconds (R175): (arrival − ECHO − TURN) hub cycles of 2,500/3 ps. -/
def oneWayPs (blk : List Byte) (hubNow : Nat) : Nat :=
  (hubNow + 2 * 2 ^ 32 - fldOf blk 20 31 0 - fldOf blk 24 31 0) % 2 ^ 32 * 1250 / 3

/-- The decided link: version, width, lanes and FAB_PORT_PEER take their values, the record of R183 is renewed, and the link is
admitted or quarantined (R183, R186). A block does not show the peer's last completed sweep: a sweep that it shows as active is taken
as not completed there (log entry 85). -/
def Dev.settleLink (d : Dev) (n : Nat) (blk : List Byte) (w tx rx : Nat) : Dev :=
  let place := fldOf blk 4 31 0
  let mine := d.rd Reg.fabSweep
  let theirs := fldOf blk 12 16 0
  let admitted := (d.optPort n).known && bitOf (fldOf blk 12 31 0) 17 && !sweepAbove mine d.glb.sweepDone && !bitOf theirs 16
  let e0 := max (bitsOf mine 15 0) (bitsOf theirs 15 0)
  let d := d.modPort n (fun p => { p with version := 1, width := w, txActive := tx, rxActive := rx, peerPlace := some place, e0 := e0 })
  let d := d.wr (Reg.fabPortPeer n) (place + fldOf blk 0 26 24 * 2 ^ 32 + fldOf blk 0 23 16 * 2 ^ 40 + fldOf blk 0 15 8 * 2 ^ 48)
  d.linkUp n admitted

/-- The follower that shows the leader's decision leaves EXCHANGE with it (R175, log entry 85). -/
def Dev.followLeader (d : Dev) (n : Nat) : Dev :=
  match (d.optPort n).st, (d.optPort n).decided with
  | .exchange, some blk => d.settleLink n blk (d.optPort n).width (d.optPort n).txActive (d.optPort n).rxActive
  | _, _ => d

/-- An undamaged cell at an ACTIVE port (R169 to R172, R178). -/
def Dev.cellAt (d : Dev) (n : Nat) (c : Cell) : Dev :=
  let w := c.link.toNat
  let kind := bitsOf w 26 25
  let d := d.takeBeat n (bitsOf w 31 28)
  let d := if bitOf w 27 then d.takeAck n (bitsOf w 23 12) else d
  let d := if bitOf w 24 then d.startReplay n else d
  if kind = 0 then d.takeData n (bitsOf w 11 0) c false
  else if kind = 1 then d.modPort n (fun p => { p with peerSeen := true })
  else if kind = 2 then
    let d := d.takeRequest n (c.payload.take 32)
    d.putCell n 2 0 (blankCell (d.trainingBlock n))
  else d

/-- LINK_CELL_RECEIVE: a slot's codewords are counted in every state that decodes them (R167, R168); its cell reaches an ACTIVE port, or
shows a follower in EXCHANGE that the leader has left it (R169 to R172, R175, R178). -/
def Dev.linkCellReceive (d : Dev) (n : Nat) (c : Cell) (q : RxQuality) : Dev :=
  if !(d.optPort n).st.lossable then d else
  let d := d.countFec n q
  let d := if q.damaged then d else d.followLeader n
  if (d.optPort n).st ≠ .active then d
  else if q.damaged then
    let d := d.modPort n (fun p => { p with beatIn := [] })
    if bitsOf c.link.toNat 26 25 = 0 then d.takeData n 0 c true else d
  else d.cellAt n c

/-- A block received in EXCHANGE (R175): the leader decides and repeats its decision until the follower shows it; the follower takes
the leader's final block and shows its decision until a block or a cell tells that the leader has left EXCHANGE. -/
def Dev.exchangeBlock (d : Dev) (n : Nat) (blk : List Byte) (hubNow : Nat) : Dev :=
  let place := fldOf blk 4 31 0
  let stamp := fldOf blk 16 31 0
  let d := (d.notePlace n blk).modPort n (fun p =>
    { p with peerStamp := stamp, peerStampAt := hubNow, known := decide (p.peerPlace = some place) })
  let final := fldOf blk 0 5 4 = 3
  let leads := d.leads n blk
  if (d.optPort n).decided.isSome && fldOf blk 0 3 0 ≠ 4 then d.followLeader n else
  -- a block with ECHO = 0 answers no STAMP of this end yet and measures nothing (log entry 27)
  if fldOf blk 20 31 0 = 0 then d else
  let d := d.wr (Reg.fabPortDelay n) (min (oneWayPs blk hubNow) 0xFFFFFF)
  match d.exchange n blk with
  | .inl code => if leads || code = 0x66 then d.portFail n code else d
  | .inr (w, tx, rx) =>
    if leads then
      if final && (d.optPort n).req = 3 && fldOf blk 8 23 20 = (d.optPort n).width then
        d.settleLink n blk (d.optPort n).width (d.optPort n).txActive (d.optPort n).rxActive
      else d.modPort n (fun p => { p with req := 3, width := w, txActive := tx, rxActive := rx })
    else if final then
      let w := fldOf blk 8 23 20
      let tx := laneMap ((bothLanes (d.optPort n).txGood (fldOf blk 8 9 0)).take w)
      let rx := laneMap ((bothLanes (d.optPort n).rxGood (fldOf blk 8 19 10)).take w)
      d.modPort n (fun p => { p with req := 3, width := w, txActive := tx, rxActive := rx, decided := some blk })
    else d

/-- TRAINING_BLOCK: a received block drives EXCHANGE, releases a quarantined link when a new sweep runs at both ends, or asks a
quarantined link to retrain (R175 to R179, R183). -/
def Dev.trainingBlockIn (d : Dev) (n : Nat) (blk : List Byte) (hubNow : Nat) : Dev :=
  let p := d.optPort n
  match p.st with
  | .exchange => d.exchangeBlock n blk hubNow
  | .quarantine =>
    let d := d.notePlace n blk
    let req := fldOf blk 0 5 4
    if p.asked || req = 1 || req = 2 then d.takeRequest n blk
    else if sweepAbove (fldOf blk 12 16 0) p.e0 && sweepAbove (d.rd Reg.fabSweep) p.e0 then d.admitLink n
    else d
  | _ => d

/-- TRAINING_PATTERN_SEEN: a port in RETRAIN sees its peer's training pattern (R179). -/
def Dev.patternSeen (d : Dev) (n : Nat) : Dev :=
  if (d.optPort n).st = .retrain then d.modPort n (fun p => { p with st := .lock, fec := false }) else d

/-- TRAIN_TIMEOUT: a limit of Table 7.3, or HOLD, has passed. -/
def Dev.trainTimeout (d : Dev) (n : Nat) : Dev :=
  let st := (d.optPort n).st
  if st = .lock || st = .exchange || st = .retrain || (d.optPort n).asked then d.portFail n 0x68 else d

/-- LANE_RETIRED: an active lane is retired and a retrain starts, a width change if its direction is left with too few lanes; fewer
than 4 good lanes fail the link (R176, R178). -/
def Dev.laneRetired (d : Dev) (n : Nat) (dir : LaneDir) (lane : Nat) : Dev :=
  let p := d.optPort n
  let act := match dir with
    | .tx => p.txActive
    | .rx => p.rxActive
  if !(p.st = .active || p.st = .quarantine) || 10 ≤ lane || !bitOf act lane then d else
  let d := (d.modPort n (fun p => match dir with
    | .tx => { p with txRetired := setBits p.txRetired lane lane 1 }
    | .rx => { p with rxRetired := setBits p.rxRetired lane lane 1 })).portEvent n 0x64
  let good := match dir with
    | .tx => (lanesOf (d.optPort n).txGood).length
    | .rx => (lanesOf (d.optPort n).rxGood).length
  if good < 4 then d.portFail n 0x67 else d.beginRetrain n (if good < p.width then 2 else 1)

/-- RETRAIN_INTERVAL: a FAILED port with AUTO_RETRAIN returns to DARK, unless only a management retrain may restart it (R181). -/
def Dev.retrainInterval (d : Dev) (n : Nat) : Dev :=
  if (d.optPort n).st = .failed ∧ d.flag (Reg.fabPortCtrl n) 2 = true ∧ (d.optPort n).sticky = false then d.portDark n else d

/-- A row that names an optical port acts on ports 0 to 5. -/
def onPort (n : Nat) (f : Dev → Dev) (s : State) : Host.Outcome State Fault Refusal :=
  .next (s.onDev (s.dev.live (fun d => if n < 6 then f d else d)))

/-- Meaning of LINK_CELL_SEND. -/
def execLinkCellSend (port : Nat) (s : State) : Host.Outcome State Fault Refusal := onPort port (fun d => d.linkCellSend port) s

/-- Meaning of LINK_CELL_RECEIVE. -/
def execLinkCellReceive (port : Nat) (cell : Cell) (q : RxQuality) (s : State) : Host.Outcome State Fault Refusal :=
  onPort port (fun d => d.linkCellReceive port cell q) s

/-- Meaning of REPLAY_TIMEOUT. -/
def execReplayTimeout (port : Nat) (s : State) : Host.Outcome State Fault Refusal := onPort port (fun d => d.replayTimeout port) s

/-- Meaning of RETRAIN_REQUEST. -/
def execRetrainRequest (port : Nat) (block : List Byte) (s : State) : Host.Outcome State Fault Refusal :=
  onPort port (fun d => d.retrainRequest port block) s

/-- Meaning of LIGHT_DETECTED. -/
def execLightDetected (port lanes : Nat) (s : State) : Host.Outcome State Fault Refusal :=
  onPort port (fun d => d.lightDetected port lanes) s

/-- Meaning of LOCK_ACHIEVED. -/
def execLockAchieved (port lanes : Nat) (s : State) : Host.Outcome State Fault Refusal :=
  onPort port (fun d => d.lockAchieved port lanes) s

/-- Meaning of TRAINING_BLOCK. -/
def execTrainingBlock (port : Nat) (block : List Byte) (hubNow : Nat) (s : State) : Host.Outcome State Fault Refusal :=
  onPort port (fun d => d.trainingBlockIn port block hubNow) s

/-- Meaning of TRAIN_TIMEOUT. -/
def execTrainTimeout (port : Nat) (s : State) : Host.Outcome State Fault Refusal := onPort port (fun d => d.trainTimeout port) s

/-- Meaning of LIGHT_LOST. -/
def execLightLost (port : Nat) (s : State) : Host.Outcome State Fault Refusal := onPort port (fun d => d.portLoss port 0x61) s

/-- Meaning of FEC_LOCK_LOST. -/
def execFecLockLost (port : Nat) (s : State) : Host.Outcome State Fault Refusal := onPort port (fun d => d.portLoss port 0x62) s

/-- Meaning of CLOCK_LOST. -/
def execClockLost (port : Nat) (s : State) : Host.Outcome State Fault Refusal := onPort port (fun d => d.portLoss port 0x6A) s

/-- Meaning of LANE_RETIRED. -/
def execLaneRetired (port : Nat) (dir : LaneDir) (lane : Nat) (s : State) : Host.Outcome State Fault Refusal :=
  onPort port (fun d => d.laneRetired port dir lane) s

/-- Meaning of RETRAIN_INTERVAL. -/
def execRetrainInterval (port : Nat) (s : State) : Host.Outcome State Fault Refusal := onPort port (fun d => d.retrainInterval port) s

/-- Meaning of TRAINING_PATTERN_SEEN. -/
def execTrainingPatternSeen (port : Nat) (s : State) : Host.Outcome State Fault Refusal := onPort port (fun d => d.patternSeen port) s

end Sys2Proof.Machine
end

