-- ==== Sys2Proof/Machine/Router.lean ====
section
/-! DEFINITION. The fabric router (R190 to R214): header checks, productive outputs, the switch, deflection, injection, mirror
copies and delivery to the endpoints. -/

namespace Sys2Proof.Machine

/-! Where a cell may go (R194 to R198). -/

/-- Torus extent of an axis. -/
def Blocks.torusT (b : Blocks) (axis : Nat) : Nat := b.fld Reg.fabRtTorus (4 * axis + 3) (4 * axis) + 1

/-- Block extent of an axis. -/
def Blocks.blockB (b : Blocks) (axis : Nat) : Nat := b.fld Reg.fabRtBlock (4 * axis + 19) (4 * axis + 16) + 1

/-- Offset of a place in the block along an axis. -/
def Blocks.offOn (b : Blocks) (p : Place) (axis : Nat) : Nat :=
  let (x, y, z) := b.offs p
  if axis = 0 then x else if axis = 1 then y else z

/-- The place of the neighbour across optical port n. -/
def Blocks.neighbour (b : Blocks) (n : Nat) : Place :=
  let t := b.torusT (n / 2)
  let step (x : Nat) : Nat := if n % 2 = 0 then (x + 1) % t else (x + t - 1) % t
  let p := b.self
  match n / 2 with
  | 0 => { p with x := step p.x }
  | 1 => { p with y := step p.y }
  | _ => { p with z := step p.z }

/-- Port n is in-block: its neighbour lies in the local job block and it is ACTIVE (R196). -/
def Blocks.inBlockPort (b : Blocks) (n : Nat) : Bool :=
  decide (n < 6) && decide (2 ≤ b.torusT (n / 2)) && (b.optPort n).st = .active && b.inBlock (b.neighbour n)

/-- The cell is addressed to this device. -/
def Blocks.isHere (b : Blocks) (c : Cell) : Bool := placeOf c.dst.toNat = b.self

/-- The delivery port of a cell for this device (Table 8.4). A cell that the collective engine sends to itself goes to a quadrant port
(R35); which of the four is as open as the cell's FLOW, a free value, that selects it here (log entry 86). -/
def Blocks.deliveryPort (b : Blocks) (c : Cell) : Nat :=
  match c.cls with
  | 0 => 6 + bitsOf c.dst.toNat 1 0
  | 1 => if bitsOf c.src.toNat 31 8 = bitsOf c.dst.toNat 31 8 then 6 + bitsOf c.flow.toNat 1 0 else 10
  | 2 => 10
  | 5 =>
    let a := b.rd Reg.memExportBase + (match c.memExt with
      | some h => fldOf h 8 47 0
      | none => 0)
    if partOf a = .direct then 6 + b.stackOf a / 2 else 11
  | _ => 11

/-- Distance and productive ports of a place along an axis (R198). -/
def Blocks.axisWay (b : Blocks) (p : Place) (axis : Nat) : Nat × List Nat :=
  let t := b.torusT axis
  let me := b.offOn b.self axis
  let it := b.offOn p axis
  if b.blockB axis = t then
    let fwd := (it + 16 * t - me) % t
    let back := t - fwd
    if fwd = 0 then (0, [])
    else (min fwd back, (if fwd ≤ back then [2 * axis] else []) ++ (if back ≤ fwd then [2 * axis + 1] else []))
  else if me < it then (it - me, [2 * axis])
  else (me - it, [2 * axis + 1])

/-- The productive outputs in order of preference (R198). -/
def Blocks.productive (b : Blocks) (c : Cell) : List Nat :=
  if b.isHere c then [b.deliveryPort c] else
  let p := placeOf c.dst.toNat
  let ways := (([0, 1, 2].map (b.axisWay p)).filter (fun w => w.1 ≠ 0))
  ((sortBy (fun (v w : Nat × List Nat) => decide (w.1 < v.1)) ways).flatMap (·.2)).filter (fun n => b.inBlockPort n)

/-- DST is unroutable, but for the Mount and ENABLE cases (R197). -/
def Blocks.unroutable (b : Blocks) (c : Cell) : Bool := !b.inBlock (placeOf c.dst.toNat) || decide (7 ≤ c.cls)

/-! The switch (R199 to R202). -/

/-- A bank by logical number. -/
def Blocks.bank (b : Blocks) (m : Nat) : Bank := tabGet {} b.router.banks m

/-- Change a bank. -/
def Dev.modBank (d : Dev) (m : Nat) (f : Bank → Bank) : Dev :=
  { d with router := { d.router with banks := tabSet {} d.router.banks m (f (d.bank m)) } }

/-- A queue of a bank. -/
def Blocks.bankQ (b : Blocks) (m out vc : Nat) : List QCell := tabGet [] (b.bank m).queues (4 * out + vc)

/-- Replace a queue of a bank. -/
def Dev.setQ (d : Dev) (m out vc : Nat) (q : List QCell) : Dev :=
  d.modBank m (fun k => { k with queues := tabSet [] k.queues (4 * out + vc) q })

/-- The output takes cells: in-block and not busy, or a delivery port (R201). -/
def Blocks.outOpen (b : Blocks) (out : Nat) : Bool := decide (6 ≤ out) || (b.inBlockPort out && !(b.optPort out).busy)

/-- The output is usable for a cell of this VC in bank m (R201). -/
def Blocks.usable (b : Blocks) (m vc out : Nat) : Bool := b.outOpen out && decide ((b.bankQ m out vc).length < 4)

/-- A cell joins a queue. -/
def Dev.enqueue (d : Dev) (m out : Nat) (q : QCell) : Dev := d.setQ m out q.cell.vc (d.bankQ m out q.cell.vc ++ [q])

/-- A router event (R193, R214): the cell's SRC is logged. -/
def Dev.routerEvent (d : Dev) (code port : Nat) (c : Cell) : Dev :=
  d.log { code := code, domain := 32, unit := port, addr := c.src.toNat, kind := 4 }

/-- Placement from step 3 of R201: deflection, transit reserve, discard. A displaced cell has been counted as deflected already. -/
def Dev.deflect (d : Dev) (m : Nat) (q : QCell) (displaced : Bool) : Dev :=
  let outs := ((List.range 12).map (fun i => (q.inPort + 1 + i) % 12)).filter (fun o => o < 6)
  match outs.find? (d.usable m q.cell.vc) with
  | some o => if displaced then d.enqueue m o q else (d.enqueue m o q).bump Reg.fabCntDeflected 1
  | none =>
    if (d.bank m).reserve.length < 16 then
      (d.modBank m (fun k => { k with reserve := k.reserve ++ [q] })).bump Reg.fabCntTransit 1
    else (d.bump Reg.fabCntDropTransit 1).routerEvent 0x76 q.inPort q.cell

/-- The cell that a gold cell displaces from a queue: the youngest, of equal ages the last to enter, if it is younger (R202). -/
def victimOf (age : Nat) (q : List QCell) : Option Nat :=
  let low := q.foldl (fun a x => min a x.cell.age) 256
  if low < age then ((List.range q.length).reverse).find? (fun i => (q[i]?).any (fun x => x.cell.age = low)) else none

/-- A gold cell displaces (R202): the queues of its productive outputs are considered whether or not the port takes cells now. -/
def Dev.displace (d : Dev) (m : Nat) (q : QCell) : List Nat → Dev
  | [] => d.deflect m q false
  | o :: rest =>
    let row := d.bankQ m o q.cell.vc
    match victimOf q.cell.age row with
    | none => d.displace m q rest
    | some i =>
      let d := ((d.setQ m o q.cell.vc (row.eraseIdx i ++ [q])).bump Reg.fabCntDisplaced 1).bump Reg.fabCntDeflected 1
      match row[i]? with
      | some v => d.deflect m v true
      | none => d

/-- A cell that arrived at bank m on an optical input is placed (R201). -/
def Dev.place (d : Dev) (m : Nat) (q : QCell) : Dev :=
  let ways := d.productive q.cell
  match ways.find? (d.usable m q.cell.vc) with
  | some o => d.enqueue m o q
  | none => if q.cell.gold then d.displace m q ways else d.deflect m q false

/-! Mirroring (R208, R209). -/

/-- A cell matches FAB_MIRROR_MATCH. -/
def Blocks.mirrorMatch (b : Blocks) (c : Cell) : Bool :=
  let m := b.rd Reg.fabMirrorMatch
  bitOf m 36 && (bitOf m 35 || bitsOf m 63 44 = bitsOf c.dst.toNat 31 12) && (bitOf m 34 || bitsOf m 33 32 = c.vc) &&
    (bitsOf m 31 16 &&& bitsOf m 15 0) = (bitsOf m 31 16 &&& bitsOf c.flow.toNat 15 0)

/-- The copy of a cell (R209, Table 8.7); FLOW of the copy is a free value. -/
def Dev.mirrorCell (d : Dev) (c : Cell) (port : Nat) (egress : Bool) : Cell × Dev :=
  let kept := (List.range (min 2 c.extCount)).map c.ext
  let dropped := c.extCount = 3
  let fix (i : Nat) (h : List Byte) : List Byte :=
    if dropped && i = 1 then toLe 4 (setBits (fldOf h 0 31 0) 5 3 0) ++ h.drop 4 else h
  let kept := (List.range kept.length).map (fun i => fix i (kept.getD i []))
  let next := match kept with
    | [] => 0
    | h :: _ => fldOf h 0 2 0
  let w0 := 3 + next * 2 ^ 3 + port * 2 ^ 8 + b2n egress * 2 ^ 12 + b2n dropped * 2 ^ 13 + c.dataLen * 2 ^ 14
  let w3 := c.age + c.vc * 2 ^ 8 + b2n c.copy * 2 ^ 10 + d.stroke % 65536 * 2 ^ 16
  let head := toLe 4 w0 ++ toLe 4 c.dst.toNat ++ toLe 4 c.src.toNat ++ toLe 4 w3
  let exts := head :: kept
  let (f, d) := d.fresh
  (mkCell (d.rd Reg.fabMirrorDst) (addrOf d.self 7 0) 3 exts (c.data.take (256 - 16 * exts.length)) f.toNat 0 true, d)

/-- The first usable productive queue of bank m for an injected cell, if R204 admits it there. -/
def Blocks.admission (b : Blocks) (m : Nat) (c : Cell) : Option Nat :=
  if c.vc ≠ 0 && !(b.bank m).reserve.isEmpty then none else (b.productive c).find? (b.usable m c.vc)

/-- A cell injected here is refused (R197): its DST, no Mount (but for memory-semantic responses, R280), or ENABLE = 0. -/
def Blocks.refuses (b : Blocks) (c : Cell) : Bool :=
  let response := c.memExt.any (fun h => fldOf h 0 11 8 = 4)
  !b.flag Reg.fabRtCtrl 0 || b.unroutable c || (b.mountFmt = 0 && !response)

/-- A cell is placed, and then a mirror copy of it is made if it can be injected at once; else the copy is dropped and counted, and the
cell is as if none had been due (R208). -/
def Dev.mirror (d : Dev) (m port : Nat) (egress : Bool) (q : QCell) (put : QCell → Dev → Dev) : Dev :=
  let ctl := d.rd Reg.fabMirrorCtrl
  let named := if egress then bitOf ctl (16 + port) else bitOf ctl port || d.mirrorMatch q.cell
  if !bitOf ctl 32 || !named || q.copied || q.cell.mirrored then put q d else
  let (c, e) := (put { q with copied := true } d).mirrorCell q.cell port egress
  match (if e.refuses c || e.glb.stopped then none else e.admission m c) with
  | some o => (e.enqueue m o ⟨c, 11, true⟩).bump Reg.fabCntMirror 1
  | none => (put q d).bump Reg.fabCntMirrorDrop 1

/-! Delivery (Table 8.4). -/

/-- Bits of a Filigree SUB that Table 9.6 gives as zero for its TYPE are zero, and so is KEY of a hint. -/
def filSubOk (typ key sub : Nat) : Bool :=
  match typ with
  | 0 => decide (sub < 2 ^ 23)
  | 1 => sub = 0 && key = 0
  | 2 => decide (sub < 2 ^ 20)
  | 3 => decide (sub < 2 ^ 3)
  | 4 => decide (sub < 2 ^ 19)
  | 5 => decide (sub < 2 ^ 3)
  | 6 => decide (sub < 2)
  | _ => false

/-- The Filigree message of a cell, if it is well formed (R226). -/
def filOf (c : Cell) : Option FilMsg :=
  let e := c.endTag.toNat
  let typ := bitsOf e 3 0
  if c.extCount = 0 ∧ 8 ≤ c.dataLen ∧ c.dataLen ≤ 72 ∧ filSubOk typ (bitsOf e 31 16) (bitsOf e 63 32) = true then
    some { typ := typ, src := bitsOf e 15 4, key := bitsOf e 31 16, sub := bitsOf e 63 32,
           stamp := leNat (c.data.drop (c.dataLen - 8)), data := c.data.take (c.dataLen - 8) }
  else none

/-- A cell leaves the router by a delivery port for its endpoint; nothing is said of what a Routing Engine or the host port does
with a cell, and nothing sends them one. -/
def Dev.deliver (d : Dev) (c : Cell) : Dev :=
  let r := d.router
  match c.cls with
  | 0 => { d with router := { r with respIn := r.respIn ++ [c] } }
  | 1 =>
    if d.mountFmt = 0 || !d.flag Reg.collCtrl 0 then d.bump Reg.collCntStale 1
    else { d with router := { r with collIn := r.collIn ++ [c] } }
  | 2 =>
    if d.mountFmt = 0 then d.bump Reg.collCntStale 1
    else match filOf c with
      | none => d.bump Reg.filCntBad 1
      | some m =>
        if !d.flag Reg.collCtrl 0 then d.bump Reg.filCntStale 1
        else { d with fil := { d.fil with rx := d.fil.rx ++ [{ m with heard := d.glb.hubNow }] } }
  | 5 => { d with router := { r with memIn := r.memIn ++ [c] } }
  | 6 => { d with router := { r with mirrorIn := r.mirrorIn ++ [c] } }
  | _ => d

/-! Rows. -/

/-- ROUTER_CELL_ARRIVE: the oldest cell accepted on an optical port is checked and placed in the bank that stage 1 gives the port in
this switch slot (R193, R197, R199, R201, R203). -/
def Dev.routerCellArrive (d : Dev) (n t : Nat) : Dev :=
  match (d.optPort n).rx with
  | [] => d
  | q :: rest =>
    let c := q.cell
    let d := d.modPort n (fun p => { p with rx := rest })
    match c.headerFault with
    | some code => (d.bump Reg.fabCntDropHdr 1).routerEvent code n c
    | none =>
      if !d.flag Reg.fabRtCtrl 0 then d.bump Reg.fabCntDropRoute 1
      else if d.unroutable c then (d.bump Reg.fabCntDropRoute 1).routerEvent 0x74 n c
      else if c.age = 255 && !d.isHere c then (d.bump Reg.fabCntDropAge 1).routerEvent 0x75 n c
      else
        let m := (n + t) % 12
        d.mirror m n false q (fun q d => d.place m q)

/-- Room in the FIFO of an output for a VC: 2 cells for VC0, 2 for the bulk FIFO (R199); a delivery port always takes. -/
def Blocks.fifoRoom (b : Blocks) (out vc : Nat) : Bool :=
  decide (6 ≤ out) ||
  (if vc = 0 then decide ((tabGet [] b.router.vc0 out).length < 2) else decide ((tabGet [] b.router.bulk out).length < 2))

/-- A cell moves from its bank to its output: into the output's FIFO, or to its endpoint. -/
def Dev.leaveBank (d : Dev) (m out : Nat) (q : QCell) : Dev :=
  d.mirror m out true q (fun q d =>
    if 6 ≤ out then d.deliver q.cell
    else if q.cell.vc = 0 then
      { d with router := { d.router with vc0 := tabSet [] d.router.vc0 out (tabGet [] d.router.vc0 out ++ [q]) } }
    else { d with router := { d.router with bulk := tabSet [] d.router.bulk out (tabGet [] d.router.bulk out ++ [q]) } })

/-! A bank number may stand for a failing bank with cells still to serve and for the spare that has taken its place: `old` names the
failing side, which stage 2 serves first (R211). -/

/-- A queue of one side of a bank. -/
def Blocks.sideQ (b : Blocks) (m : Nat) (old : Bool) (out vc : Nat) : List QCell :=
  tabGet [] (if old then (b.bank m).draining else (b.bank m).queues) (4 * out + vc)

/-- The transit reserve of one side of a bank. -/
def Blocks.sideReserve (b : Blocks) (m : Nat) (old : Bool) : List QCell :=
  if old then (b.bank m).drainReserve else (b.bank m).reserve

/-- Take the i-th cell of a queue of a side. -/
def Dev.takeQ (d : Dev) (m : Nat) (old : Bool) (out vc i : Nat) : Dev :=
  let rest := (d.sideQ m old out vc).eraseIdx i
  d.modBank m (fun k =>
    if old then { k with draining := tabSet [] k.draining (4 * out + vc) rest }
    else { k with queues := tabSet [] k.queues (4 * out + vc) rest })

/-- Take the i-th cell of the transit reserve of a side. -/
def Dev.takeReserve (d : Dev) (m : Nat) (old : Bool) (i : Nat) : Dev :=
  d.modBank m (fun k =>
    if old then { k with drainReserve := k.drainReserve.eraseIdx i } else { k with reserve := k.reserve.eraseIdx i })

/-- The oldest cell of a side's transit reserve that an output's FIFO has room for. -/
def Blocks.reserveReady (b : Blocks) (m : Nat) (old : Bool) (out : Nat) : Option Nat :=
  if out < 6 ∧ b.outOpen out = true then
    (List.range (b.sideReserve m old).length).find? (fun i => ((b.sideReserve m old)[i]?).any (fun q => b.fifoRoom out q.cell.vc))
  else none

/-- A side has a cell in its queues that can move to an output. -/
def Blocks.queueReady (b : Blocks) (m : Nat) (old : Bool) (out : Nat) : Bool :=
  (!(b.sideQ m old out 0).isEmpty && b.fifoRoom out 0) ||
  (b.fifoRoom out 1 && [1, 2, 3].any (fun v => !(b.sideQ m old out v).isEmpty))

/-- What stage 2 moves from bank m to an output (R201, R211): the failing side before the spare, and on a side the transit reserve before
the queues. Answers the side and whether its reserve has the slot. -/
def Blocks.stageTurn (b : Blocks) (m out : Nat) : Option (Bool × Bool) :=
  [(true, true), (true, false), (false, true), (false, false)].find? (fun x =>
    if x.2 then (b.reserveReady m x.1 out).isSome else b.queueReady m x.1 out)

/-- TRANSIT_RESERVE_DEPART: stage 2 connects bank m to an in-block optical output that is not busy (R201). With FAB_RT_CTRL.ENABLE = 0
nothing is forwarded (R197). -/
def Dev.transitDepart (d : Dev) (m t : Nat) (corr : Bool) : Dev :=
  if 12 ≤ m ∨ d.flag Reg.fabRtCtrl 0 = false then d else
  let out := (m + t) % 12
  match d.stageTurn m out with
  | some (old, true) =>
    let i := (d.reserveReady m old out).getD 0
    match (d.sideReserve m old)[i]? with
    | some q =>
      let d := d.takeReserve m old i
      (if corr then d.bump Reg.fabCntBankCorr 1 else d).leaveBank m out q
    | none => d
  | _ => d

/-- Deficit round-robin over VC1 to VC3 (R207): the VC that sends, with the output's counters after it; empty VCs are skipped and keep
no credit. -/
def deficitPick (weight : Nat → Nat) (full : Nat → Bool) (def_ : List Nat) (turn : Nat) : Nat → Option (Nat × List Nat × Nat)
  | 0 => none
  | fuel + 1 =>
    let v := 1 + turn % 3
    if !full v then deficitPick weight full (def_.set (v - 1) 0) ((turn + 1) % 3) fuel
    else
      let have_ := def_.getD (v - 1) 0
      let credit := if have_ = 0 then weight v else have_
      let left := credit - 1
      some (v, def_.set (v - 1) left, if left = 0 then (turn + 1) % 3 else turn % 3)

/-- The bulk cell that stage 2 takes from a side of bank m for an output: the oldest gold cell, else by deficit round-robin (R207). -/
def Dev.pickBulk (d : Dev) (m : Nat) (old : Bool) (out : Nat) : Option (Nat × Nat × Dev) :=
  let golds := [1, 2, 3].flatMap (fun v =>
    ((List.range (d.sideQ m old out v).length).filter (fun i => ((d.sideQ m old out v)[i]?).any (fun q => q.cell.gold))).map (fun i =>
      (v, i, ((d.sideQ m old out v)[i]?).elim 0 (fun q => q.cell.age))))
  match golds with
  | g :: gs =>
    let best := gs.foldl (fun a x => if a.2.2 < x.2.2 then x else a) g
    some (best.1, best.2.1, d)
  | [] =>
    let w (v : Nat) : Nat := d.fld Reg.fabVcWeight (8 * v - 1) (8 * v - 8)
    let full (v : Nat) : Bool := !(d.sideQ m old out v).isEmpty
    match deficitPick w full (tabGet [0, 0, 0] d.router.deficit out) (tabGet 0 d.router.turn out) 4 with
    | none => none
    | some (v, ds, turn) =>
      let r := d.router
      some (v, 0, { d with router := { r with deficit := tabSet [0, 0, 0] r.deficit out ds, turn := tabSet 0 r.turn out turn } })

/-- One cell of a side's queues moves to an output, VC0 first (R207). -/
def Dev.moveQueued (d : Dev) (m : Nat) (old : Bool) (out : Nat) : Dev :=
  match (if d.fifoRoom out 0 then d.sideQ m old out 0 else []) with
  | q :: _ => (d.takeQ m old out 0 0).leaveBank m out q
  | [] =>
    match d.pickBulk m old out with
    | none => d
    | some (v, i, e) =>
      match (e.sideQ m old out v)[i]? with
      | some q => (e.takeQ m old out v i).leaveBank m out q
      | none => d

/-- STAGE2_FIFO_FILL: stage 2 connects bank m to output (m + t) mod 12 and moves one cell of a queue; a transit-reserve cell that can
leave by the output has the slot instead (R199, R201, R207, R211). With FAB_RT_CTRL.ENABLE = 0 nothing is forwarded (R197). -/
def Dev.stage2Fill (d : Dev) (m t : Nat) (corr : Bool) : Dev :=
  if 12 ≤ m ∨ d.flag Reg.fabRtCtrl 0 = false then d else
  let out := (m + t) % 12
  match d.stageTurn m out with
  | some (old, false) => (if corr then d.bump Reg.fabCntBankCorr 1 else d).moveQueued m old out
  | _ => d

/-- The cell at a place of a bank number is discarded, those of the failing side counting first. Answers whether it was one of the bank
in service, or none if there is no such cell. -/
def Dev.discardAt (d : Dev) (m : Nat) : BankPlace → Option (Bool × Dev)
  | .queue out vc pos =>
    let old := (d.sideQ m true out vc).length
    if 12 ≤ out ∨ 4 ≤ vc ∨ old + (d.sideQ m false out vc).length ≤ pos then none
    else if pos < old then some (false, d.takeQ m true out vc pos)
    else some (true, d.takeQ m false out vc (pos - old))
  | .reserve pos =>
    let old := (d.sideReserve m true).length
    if old + (d.sideReserve m false).length ≤ pos then none
    else if pos < old then some (false, d.takeReserve m true pos)
    else some (true, d.takeReserve m false (pos - old))

/-- A spare takes the number of bank m for new cells; the cells left in the failing bank are served ahead of it (R211). -/
def Dev.takeSpare (d : Dev) (m : Nat) : Dev :=
  let spares := d.fld Reg.fabRtStatus 21 20
  if spares = 0 then d else
  (d.wrFld Reg.fabRtStatus 21 20 (spares - 1)).modBank m (fun k =>
    { queues := [], reserve := [], drainReserve := k.drainReserve ++ k.reserve,
      draining := k.queues.foldl (fun t e => tabSet [] t e.1 (tabGet [] t e.1 ++ e.2)) k.draining })

/-- BANK_UNCORR: an uncorrectable error in a cell of a bank: the cell is discarded, and a spare takes the number of a bank in service
while there is one (R211). -/
def Dev.bankUncorr (d : Dev) (m : Nat) (at_ : BankPlace) : Dev :=
  if 12 ≤ m then d else
  match d.discardAt m at_ with
  | none => d
  | some (serving, d) =>
    let d := d.log { code := 0x77, domain := 32, addr := Reg.fabRtStatus, kind := 2 }
    if serving then d.takeSpare m else d

/-! Injection (R204, R314 to R316). -/

/-- The bytes of a cell in bucket units of 1/75 byte. -/
def cellUnits : Nat := 288 * 75

/-- The colour of a ring's next cell (R315): none while its peak bucket is short, true for green. -/
def Blocks.colour (b : Blocks) (r : Nat) : Option Bool :=
  if !b.flag (Reg.ringCtrl r) 28 then some true
  else if (b.ring r).peak < cellUnits then none
  else some (decide (cellUnits ≤ (b.ring r).committed))

/-- Charge a cell to a ring. -/
def Dev.charge (d : Dev) (r : Nat) : Dev :=
  match d.colour r with
  | none => d
  | some green =>
    let d := if d.flag (Reg.ringCtrl r) 28 then
        d.modRing r (fun x => { x with peak := x.peak - cellUnits, committed := if green then x.committed - cellUnits else x.committed })
      else d
    d.bump (if green then Reg.ringCntGreen r else Reg.ringCntYellow r) 1

/-- Class and level of a ring's next cell (R316): 8 for yellow, plus PRIO. -/
def Blocks.offerLevel (b : Blocks) (r : Nat) : Option Nat :=
  (b.colour r).map (fun green => b2n (!green) * 8 + b.fld (Reg.ringCtrl r) 6 4)

/-- The offer that a port makes next (R316): cells charged to no ring, then green, then yellow cells by PRIO, round-robin within a
class and level. -/
def Blocks.nextOffer (b : Blocks) (port : Nat) : Option Offer :=
  let os := tabGet [] b.router.offers port
  match os.find? (fun o => o.ring.isNone) with
  | some o => some o
  | none =>
    let rank (r : Nat) : Option Nat := (b.offerLevel r).map (fun k =>
      k * 2 ^ 13 + (r + 4096 - tabGet 0 b.router.offerLast (16 * port + k) - 1) % 4096)
    let rings := (os.filterMap (fun o => o.ring)).eraseDups
    let ranked := rings.filterMap (fun r => (rank r).map (fun k => (k, r)))
    match ranked with
    | [] => none
    | x :: xs =>
      let best := xs.foldl (fun a y => if y.1 < a.1 then y else a) x
      os.find? (fun o => o.ring = some best.2)

/-- Remove an offer. -/
def Dev.dropOffer (d : Dev) (port : Nat) (o : Offer) : Dev :=
  { d with router := { d.router with offers := tabSet [] d.router.offers port ((tabGet [] d.router.offers port).erase o) } }

/-- Order of a message TYPE in the controller's queue (R227). -/
def filRank (typ : Nat) : Nat :=
  match typ with
  | 5 | 6 => 0
  | 2 => 1
  | 0 => 2
  | 3 => 3
  | 4 => 4
  | _ => 5

/-- The Filigree message that leaves next. -/
def Blocks.nextFil (b : Blocks) : Option FilMsg :=
  if !b.flag Reg.collCtrl 0 then none else
  match b.fil.tx with
  | [] => none
  | m :: ms => some (ms.foldl (fun a x => if filRank x.typ < filRank a.typ then x else a) m)

/-- The cell of a Filigree message, stamped with the present stroke (R226); FLOW is a free value. -/
def Dev.filCell (d : Dev) (m : FilMsg) : Cell × Dev :=
  let (f, d) := d.fresh
  let tag := m.typ + m.src * 2 ^ 4 + m.key % 65536 * 2 ^ 16 + m.sub % 2 ^ 32 * 2 ^ 32
  (mkCell m.dst.toNat (addrOf d.self 2 0) 0 [] (m.data ++ toLe 8 d.stroke) f.toNat tag false, d)

/-- The result of offering a cell at input port n in slot t. -/
inductive Offered where
  | held
  | refused
  | admitted
  deriving DecidableEq, Repr

/-- A cell offered at a router input is checked and admitted, held or refused (R193, R197, R204). -/
def Dev.tryInject (d : Dev) (n t : Nat) (c : Cell) : Offered × Dev :=
  match c.headerFault with
  | some code => (.refused, (d.bump Reg.fabCntDropHdr 1).routerEvent code n c)
  | none =>
    if !d.flag Reg.fabRtCtrl 0 then (.refused, d.bump Reg.fabCntDropRoute 1)
    else if d.refuses c then (.refused, (d.bump Reg.fabCntDropRoute 1).routerEvent 0x74 n c)
    else
      let m := (n + t) % 12
      match d.admission m c with
      | none => (.held, d.bump Reg.fabCntInjectHeld 1)
      | some o =>
        (.admitted, d.mirror m n false ⟨c, n, false⟩ (fun q d => d.enqueue m o q))

/-- The collective engine is told of a refusal (R225): the collective's cells stop and it votes FAIL with UNROUTABLE. -/
def Dev.collRefused (d : Dev) (id : Nat) : Dev :=
  let cut (os : List Offer) : List Offer := os.filter (fun o => o.coll ≠ some id)
  let d : Dev := { d with router := { d.router with
      offers := (d.router.offers.map (fun e => (e.1, cut e.2))).filter (fun e => !e.2.isEmpty) } }
  let d := d.modColl id (fun c => { c with own := if c.own = 0 then 0x84 else c.own })
  match d.coll? id with
  | some c => if c.phase = .data then (d.voteFail id).collSweep else d
  | none => d

/-- The request that a cell carries has been injected (R234): its core and slot stand in END_TAG, its operation and SEQ in the header. -/
def Dev.markInjected (d : Dev) (c : Cell) : Dev :=
  if c.cls ≠ 5 ∨ c.memExt.isNone then d else
  let h := c.memExt.getD []
  let mine (r : RemoteReq) : Bool := r.sent && r.core = bitsOf c.endTag.toNat 9 0 && r.slot = bitsOf c.endTag.toNat 37 32 &&
    r.mop = fldOf h 0 11 8 && r.seq = fldOf h 4 15 0
  { d with remote := { d.remote with reqs := updWhere mine (fun r => { r with injected := true }) d.remote.reqs } }

/-- CELL_INJECT: the block at router port 6 to 11 offers its next cell in switch slot t (R204, R316). Nothing is injected while a clock
fault has stopped injection (R30); the collective engine and the Filigree controller wait while COLL_CTRL.ENABLE = 0 (R241). -/
def Dev.cellInject (d : Dev) (n t : Nat) : Dev :=
  if n < 6 ∨ 12 ≤ n ∨ d.glb.stopped = true then d else
  match (if n = 10 then d.nextFil else none) with
  | some m =>
    let (c, d) := d.filCell m
    match d.tryInject n t c with
    | (.held, d) => d
    | (.refused, d) => { d with fil := { d.fil with tx := d.fil.tx.erase m } }
    | (.admitted, d) => ({ d with fil := { d.fil with tx := d.fil.tx.erase m } } : Dev).bump Reg.filCntTx 1
  | none =>
    if n = 10 ∧ d.flag Reg.collCtrl 0 = false then d else
    match d.nextOffer n with
    | none => d
    | some o =>
      match d.tryInject n t o.cell with
      | (.held, d) => d
      | (.refused, d) =>
        let d := d.dropOffer n o
        match o.coll with
        | some id => d.collRefused id
        | none => d
      | (.admitted, d) =>
        let d := (d.dropOffer n o).markInjected o.cell
        let d := if o.coll.isSome then d.bump Reg.collCntTxCells 1 else d
        match o.ring with
        | none => d
        | some r =>
          let key := 16 * n + (d.offerLevel r).getD 0
          ({ d with router := { d.router with offerLast := tabSet 0 d.router.offerLast key r } } : Dev).charge r

/-- MIRROR_CAPTURE: the oldest copy at the analysis endpoint is written to the enabled capture ring, or discarded (R313). -/
def Dev.mirrorCapture (d : Dev) : Dev :=
  match d.router.mirrorIn with
  | [] => d
  | c :: rest =>
    let d : Dev := { d with router := { d.router with mirrorIn := rest } }
    match d.enabledRings.find? (fun r => d.fld (Reg.ringCtrl r) 2 1 = 2) with
    | none => d.bump Reg.fabCntMirrorDrop 1
    | some r =>
      let d := d.modRing r (fun x => { x with captures := x.captures + 1 })
      if d.cqFull r then (d.bump Reg.fabCntMirrorDrop 1).bump (Reg.ringCntDropped r) 1
      else d.cqPut r 320 (c.bytes ++ toLe 8 d.stroke ++ toLe 8 (d.ring r).captures)

/-- Meaning of ROUTER_CELL_ARRIVE. -/
def execRouterCellArrive (port slot : Nat) (s : State) : Host.Outcome State Fault Refusal :=
  onPort port (fun d => d.routerCellArrive port slot) s

/-- Meaning of TRANSIT_RESERVE_DEPART. -/
def execTransitReserveDepart (bank slot : Nat) (corrected : Bool) (s : State) : Host.Outcome State Fault Refusal :=
  .next (s.onDev (s.dev.live (fun d => d.transitDepart bank slot corrected)))

/-- Meaning of STAGE2_FIFO_FILL. -/
def execStage2FifoFill (bank slot : Nat) (corrected : Bool) (s : State) : Host.Outcome State Fault Refusal :=
  .next (s.onDev (s.dev.live (fun d => d.stage2Fill bank slot corrected)))

/-- Meaning of BANK_UNCORR. -/
def execBankUncorr (bank : Nat) (at_ : BankPlace) (s : State) : Host.Outcome State Fault Refusal :=
  .next (s.onDev (s.dev.live (fun d => d.bankUncorr bank at_)))

/-- Meaning of MIRROR_CAPTURE. -/
def execMirrorCapture (s : State) : Host.Outcome State Fault Refusal := .next (s.onDev (s.dev.live (fun d => d.act .mirrorCapture {} Dev.mirrorCapture)))

end Sys2Proof.Machine
end

