-- ==== Sys2Proof/Machine/Remote.lean ====
section
/-! DEFINITION. The memory-semantic unit (R230 to R237): requests and their window, the home, invalidations, the remote line cache
and replicas. -/

namespace Sys2Proof.Machine

/-! Addresses and octets. -/

/-- Block index and offset that a remote address names (R230). -/
def remoteOf (a : Nat) : Nat × Nat := (bitsOf a 46 35, bitsOf a 34 0)

/-- The coherence octet of a block index (R233). -/
def Blocks.octetOf (b : Blocks) (i : Nat) : Nat × Nat × Nat := (i % b.bx / 2, i / b.bx % b.by_ / 2, i / b.bx / b.by_ / 2)

/-- The device is in this device's octet, with octets on. -/
def Blocks.inOctet (b : Blocks) (i : Nat) : Bool := b.flag Reg.memCtrl 1 && b.octetOf i = b.octetOf b.me

/-- The quadrant of a requester; the hub's own fetches (core 576) use quadrant 0. -/
def requesterQuad (core : Nat) : Nat := if core < 576 then core / 144 else 0

/-! The requester (R231, R232). -/

/-- Change the outstanding requests. -/
def Dev.setReqs (d : Dev) (rs : List RemoteReq) : Dev := { d with remote := { d.remote with reqs := rs } }

/-- The key of the request numbering: the requester's quadrant and the home. -/
def seqKey (core home : Nat) : Nat := home * 4 + requesterQuad core

/-- Requests of this requester to this home that are unanswered. -/
def Blocks.unanswered (b : Blocks) (core home : Nat) : Nat :=
  (b.remote.reqs.filter (fun r => r.sent && seqKey r.core r.home = seqKey core home)).length

/-- The lowest free request slot of a core. -/
def Blocks.openSlot (b : Blocks) (core : Nat) : Option Nat :=
  (List.range 64).find? (fun s => !b.remote.reqs.any (fun r => r.core = core && r.sent && r.slot = s))

/-- The cell of a request (Table 9.8); FLOW is a free value. -/
def Dev.requestCell (d : Dev) (r : RemoteReq) : Cell × Dev :=
  let head := toLe 4 (2 + r.mop * 2 ^ 8 + r.aop * 2 ^ 12 + r.len * 2 ^ 16) ++ toLe 4 r.seq ++ toLe 8 r.off
  let (f, d) := d.fresh
  let tag := r.core + r.ctx * 2 ^ 16 + r.slot * 2 ^ 32
  (mkCell (addrOf (d.placeAt r.home) 5 0) (addrOf d.self 0 (requesterQuad r.core)) 2 [head] r.data f.toNat tag false, d)

/-- The first waiting request that may go out: its window of 64 and a slot are free (R232). -/
def Blocks.sendable (b : Blocks) : Option RemoteReq :=
  b.remote.reqs.find? (fun r => !r.sent && decide (b.unanswered r.core r.home < 64) && (b.openSlot r.core).isSome)

/-- Send waiting requests while the window allows; `fuel` bounds their number. -/
def Dev.pumpReqs (d : Dev) : Nat → Dev
  | 0 => d
  | fuel + 1 =>
    match d.sendable with
    | none => d
    | some r =>
      match d.openSlot r.core with
      | none => d
      | some s =>
        let k := seqKey r.core r.home
        let seq := tabGet 0 d.remote.nextSeq k
        let r' : RemoteReq := { r with sent := true, slot := s, seq := seq }
        let i := d.remote.reqs.findIdx (fun x => x = r)
        let d := d.setReqs (d.remote.reqs.set i r')
        let d : Dev := { d with remote := { d.remote with nextSeq := tabSet 0 d.remote.nextSeq k ((seq + 1) % 65536) } }
        let (c, d) := d.requestCell r'
        let ring := if r.core < 576 then d.coreRing r.core else none
        (d.offer (6 + requesterQuad r.core) c ring none).pumpReqs fuel

/-- Enter requests and send what the window allows. -/
def Dev.addReqs (d : Dev) (rs : List RemoteReq) : Dev :=
  let d := d.setReqs (d.remote.reqs ++ rs)
  d.pumpReqs d.remote.reqs.length

/-- The request still holds its instruction: a store beyond the octet is done once injected, anything else once answered (R233 to
R235). -/
def Blocks.holdsInsn (b : Blocks) (r : RemoteReq) : Bool := !(r.mop = 1 && r.injected && !b.inOctet r.home)

/-- Something remote still holds the instruction that core p issued as number `order`. -/
def Blocks.remoteBusy (b : Blocks) (p order : Nat) : Bool :=
  b.remote.reqs.any (fun r => r.core = p && r.order = order && b.holdsInsn r) ||
  b.remote.waits.any (fun w => w.owner = some (p, order))

/-- A remote range cut at 128-byte boundaries (R231): offset in the range and length of each request. -/
def cutRemote (a : Nat) : Nat → Nat → Nat → List (Nat × Nat)
  | _, 0, _ => []
  | _, _, 0 => []
  | at_, left, fuel + 1 =>
    let n := min left (128 - (a + at_) % 128)
    (at_, n) :: cutRemote a (at_ + n) (left - n) fuel

/-! Atomics (Table 9.7). -/

/-- The value that an atomic stores: operand, swap value, old value, all of w bits; none for a CAS that compares unequal. -/
def atomicNew (op w operand swap old : Nat) : Option Nat :=
  match op with
  | 0 => some ((old + operand) % 2 ^ w)
  | 1 => some operand
  | 2 => if old = operand then some swap else none
  | 3 => some (old &&& operand)
  | 4 => some (old ||| operand)
  | 5 => some (if toInt w old < toInt w operand then operand else old)
  | 6 => some (if toInt w operand < toInt w old then operand else old)
  | _ => none

/-- Bytes of an atomic (IMM [3]). -/
def atomicBytes (aop : Nat) : Nat := if bitOf aop 3 then 8 else 4

/-! The home. -/

/-- The response of a home to a request, or of a sharer to an invalidate (R231): it returns END_TAG, SEQ, LEN and ADDR. -/
def Dev.respond (d : Dev) (r : HomeReq) (status : Nat) (repl : Bool) (epoch : Nat) (data : List Byte) (port : Nat) : Dev :=
  let head := toLe 4 (2 + 4 * 2 ^ 8 + r.len * 2 ^ 16 + status * 2 ^ 24 + b2n repl * 2 ^ 27) ++
    toLe 4 (r.seq + epoch * 2 ^ 16) ++ toLe 8 r.off
  let (f, d) := d.fresh
  let c := mkCell r.srcPlace.toNat (addrOf d.self 5 0) 2 [head] data f.toNat r.endTag.toNat false
  d.offer port c none none

/-- What the home keeps for a source. -/
def Blocks.homeSrc (b : Blocks) (src : Nat) : HomeSrc := tabGet {} b.remote.homes src

/-- Change what the home keeps for a source. -/
def Dev.setHome (d : Dev) (src : Nat) (h : HomeSrc) : Dev :=
  { d with remote := { d.remote with homes := tabSet {} d.remote.homes src h } }

/-- NEXT moves over the SEQ values applied above it. -/
def HomeSrc.advance (h : HomeSrc) : Nat → HomeSrc
  | 0 => h
  | fuel + 1 =>
    if h.applied.contains h.next then
      HomeSrc.advance { h with applied := h.applied.filter (· ≠ h.next), next := (h.next + 1) % 65536 } fuel
    else h

/-- A SEQ is applied (R232). -/
def Dev.noteApplied (d : Dev) (src seq : Nat) : Dev :=
  let h := d.homeSrc src
  (d.setHome src (HomeSrc.advance { h with applied := h.applied ++ [seq] } 65)).bump Reg.memCntReq 1

/-- The lines that a range of the window touches. -/
def linesOf (off n : Nat) : List Nat := (List.range ((off + n - 1) / 64 - off / 64 + 1)).map (off / 64 + ·)

/-- A load's requester in the octet becomes a sharer of its lines (R233). -/
def Dev.addSharer (d : Dev) (line i : Nat) : Dev :=
  let s := d.remote.sharers
  if s.any (fun e => e.1 = line) then
    let join (e : Nat × List Nat) : Nat × List Nat := if e.2.contains i then e else (e.1, e.2 ++ [i])
    { d with remote := { d.remote with sharers := updWhere (fun e => e.1 = line) join s } }
  else { d with remote := { d.remote with sharers := s ++ [(line, [i])] } }

/-- The line that a request must wait for first (R233): a line of a write that is shared, any line that a write waits for already, and, for
a load that would enter lines in a full directory of 262,144 entries, the oldest entry's. -/
def Blocks.heldLine (b : Blocks) (r : HomeReq) (n : Nat) : Option Nat :=
  let lines := linesOf r.off n
  if r.mop ≠ 0 then (b.sharedLines (b.rd Reg.memExportBase + r.off) n).head?
  else match lines.find? (fun l => !(b.askedOf l).isEmpty) with
    | some l => some l
    | none =>
      let s := b.remote.sharers
      let new := (lines.filter (fun l => !s.any (fun e => e.1 = l))).length
      if b.inOctet r.src && decide (262144 < s.length + new) then s.head?.map (·.1) else none

/-- The router port by which the home answers for an address (Table 8.4, class 5). -/
def Blocks.homePort (b : Blocks) (a : Nat) : Nat := if partOf a = .direct then 6 + b.stackOf a / 2 else 11

/-- The access of a request at its home once nothing holds it: it is done and answered (R230, R232 to R237). -/
def Dev.applyAtHome (d : Dev) (r : HomeReq) : Dev :=
  let a := d.rd Reg.memExportBase + r.off
  let port := d.homePort a
  let d := d.noteApplied r.srcPlace.toNat r.seq
  let page := r.off / 65536
  match r.mop with
  | 0 =>
    let (bs, d) := d.engineRead none a r.len
    let d := if d.inOctet r.src then (linesOf r.off r.len).foldl (fun d l => d.addSharer l r.src) d else d
    let repl := d.replicable page
    d.respond r 0 repl (if repl then tabGet 0 d.remote.epochs page else 0) bs port
  | 3 =>
    let n := atomicBytes r.aop
    let (bs, d) := d.engineRead none a n
    let old := leNat bs
    let d := match atomicNew (r.aop % 8) (8 * n) (leNat (r.data.take n)) (leNat ((r.data.drop 8).take n)) old with
      | some x => d.engineWrite none a (toLe n x)
      | none => d
    d.respond r 0 false 0 (toLe 8 old) port
  | _ => (d.engineWrite none a (r.data.take r.len)).respond r 0 false 0 [] port

/-- A fault of a home's access is logged with its address and tears nothing down (R232); an HBM error is counted and logged with its stack
(Table 5.17). -/
def Dev.homeFault (d : Dev) (code a : Nat) : Dev :=
  let s := d.errStack a
  let e : LogEntry := { code := code, domain := 35, addr := a, kind := 1 }
  (d.countUncorr code a).log (if code = 0x45 then { e with domain := 47 + s, unit := s } else e)

/-- The request cannot be served: it is answered with RANGE or FAULT (R230, R232, R280). -/
def Dev.refuseAtHome (d : Dev) (r : HomeReq) (status : Nat) : Dev :=
  (d.noteApplied r.srcPlace.toNat r.seq).respond r status false 0 [] (d.homePort (d.rd Reg.memExportBase + r.off))

/-- A request reaches its access: checks, then the waits of R233. Where the window or the Mount does not serve it, FAULT (R280, log entry
28). -/
def Dev.serveRequest (d : Dev) (r : HomeReq) : Dev :=
  let a := d.rd Reg.memExportBase + r.off
  let n := if r.mop = 3 then atomicBytes r.aop else r.len
  if d.mountFmt = 0 || !d.flag Reg.memCtrl 0 then d.refuseAtHome r 2
  else if d.exportBytes < r.off + n then d.refuseAtHome r 1
  else match d.engineCheck a n with
    | some (code, x) => (d.homeFault code x).refuseAtHome r 2
    | none =>
      match d.heldLine r n with
      | some l => d.deferWrite { line := l, sharers := d.waitsFor l, req := some r, local_ := [] }
      | none => d.applyAtHome r

/-- Flagged stores of a source whose turn has come (R235). -/
def Dev.dueFlagged (d : Dev) (src : Nat) : Option HomeReq :=
  let h := d.homeSrc src
  h.flagged.find? (fun r => r.seq = h.next)

/-- FLAGGED_STORE_APPLY: the flagged store of a source is applied once every earlier request of it has been. -/
def Dev.flaggedApply (d : Dev) (src : Nat) : Dev :=
  match d.dueFlagged src with
  | none => d
  | some r =>
    let h := d.homeSrc src
    (d.setHome src { h with flagged := h.flagged.filter (· ≠ r) }).serveRequest r

/-- The request is applied already, or waits here: a duplicate (R232). -/
def Blocks.isDup (b : Blocks) (r : HomeReq) : Bool :=
  let h := b.homeSrc r.srcPlace.toNat
  decide (64 ≤ (r.seq + 65536 - h.next) % 65536) || h.applied.contains r.seq || h.flagged.any (fun x => x.seq = r.seq) ||
    b.remote.waits.any (fun w => w.req.any (fun x => x.srcPlace = r.srcPlace && x.seq = r.seq))

/-- The request that a cell carries. -/
def Blocks.requestOf (b : Blocks) (c : Cell) (h : List Byte) : HomeReq :=
  { src := b.indexOf (placeOf c.src.toNat), seq := fldOf h 4 15 0, mop := fldOf h 0 11 8, aop := fldOf h 0 15 12,
    off := fldOf h 8 47 0, len := fldOf h 0 23 16, data := c.data, srcPlace := c.src, endTag := c.endTag }

/-- The oldest cell at the memory endpoint with one of some operations, and the rest. -/
def Dev.takeMem (d : Dev) (mops : List Nat) : Option (Cell × List Byte × Dev) :=
  match d.router.memIn.find? (fun c => c.memExt.any (fun h => mops.contains (fldOf h 0 11 8))) with
  | none => none
  | some c => (c.memExt).map (fun h => (c, h, { d with router := { d.router with memIn := d.router.memIn.erase c } }))

/-- MEM_REQUEST: the oldest request at this home is applied and answered, held back as a flagged store or for its sharers, or
discarded as a duplicate (R232 to R235). -/
def Dev.memRequest (d : Dev) : Dev :=
  match d.takeMem [0, 1, 2, 3] with
  | none => d
  | some (c, h, d) =>
    let r := d.requestOf c h
    if r.len = 0 ∨ 128 < r.len then d
    else if d.isDup r then d.bump Reg.memCntDup 1
    else if r.mop = 2 then
      let s := d.homeSrc r.srcPlace.toNat
      if s.next = r.seq then d.serveRequest r else d.setHome r.srcPlace.toNat { s with flagged := s.flagged ++ [r] }
    else d.serveRequest r

/-- MEM_INVALIDATE: an invalidate request drops the line from the remote line cache and is answered (R233). -/
def Dev.memInvalidate (d : Dev) : Dev :=
  match d.takeMem [5] with
  | none => d
  | some (c, h, d) =>
    let r := d.requestOf c h
    let keep (e : Nat × Nat × List Byte) : Bool := !(e.1 = r.src && e.2.1 = r.off / 64)
    let d : Dev := { d with remote := { d.remote with lines := d.remote.lines.filter keep } }
    d.respond r 0 false 0 [] 11

/-- What waited for the sharers of a line goes on (R233): a request is served, which may make it wait again; a core's store is made unless
the line is shared again; the stores of engines are served from `Mig.stalls`. -/
def Dev.resumeWait (d : Dev) (w : LineWait) : Dev :=
  match w.req, w.local_, w.owner with
  | some r, _, _ => d.serveRequest r
  | none, (a, b) :: rest, some o => d.storeLine o a (b :: rest.map (·.2)) (some (requesterQuad o.1))
  | _, _, _ => d

/-- A sharer of a line is done with, by its answer or by abandonment; what waits for nobody any more proceeds in order (R233). -/
def Dev.sharerDone (d : Dev) (line i : Nat) : Dev :=
  let cutS (e : Nat × List Nat) : Nat × List Nat := if e.1 = line then (e.1, e.2.filter (· ≠ i)) else e
  let cutW (w : LineWait) : LineWait := if w.line = line then { w with sharers := w.sharers.filter (· ≠ i) } else w
  let sh := (d.remote.sharers.map cutS).filter (fun e => !e.2.isEmpty)
  let ws := d.remote.waits.map cutW
  let (ready, rest) := ws.partition (fun w => w.sharers.isEmpty)
  let d : Dev := { d with remote := { d.remote with sharers := sh, waits := rest } }
  (ready.foldl Dev.resumeWait d).serveStalls

/-- INVALIDATE_TIMEOUT: the sharers of a line that have not answered are abandoned and logged, and the write proceeds (R233). -/
def Dev.invalidateTimeout (d : Dev) (line : Nat) : Dev :=
  let late := ((d.remote.waits.filter (fun w => w.line = line)).flatMap (fun w => w.sharers)).eraseDups
  late.foldl (fun d i =>
    (d.log { code := 0x94, domain := 33, addr := d.rd Reg.memExportBase + line * 64, kind := 1 }).sharerDone line i) d

/-! Replicas and the line cache (R233, R236, R237). -/

/-- Bytes of a load that the remote line cache holds, if it holds them all. -/
def Blocks.cachedLoad (b : Blocks) (home off n : Nat) : Option (List Byte) :=
  if !b.inOctet home then none else
  (List.range n).mapM (fun i =>
    (b.remote.lines.find? (fun e => e.1 = home && e.2.1 = (off + i) / 64)).bind (fun e => e.2.2[(off + i) % 64]?))

/-- Sets of the remote line cache: 4 MiB of 64-byte lines, 16-way. -/
def cacheSets : Nat := 4096

/-- A line enters its set of the remote line cache, the set's oldest line leaving first if all 16 ways are taken (R233, log entry 29). -/
def Dev.cacheLine (d : Dev) (home l : Nat) (bs : List Byte) : Dev :=
  let others := d.remote.lines.filter (fun e => !(e.1 = home && e.2.1 = l))
  let inSet := others.filter (fun e => e.2.1 % cacheSets = l % cacheSets)
  let kept := match inSet with
    | e :: _ => if 16 ≤ inSet.length then others.erase e else others
    | [] => others
  { d with remote := { d.remote with lines := kept ++ [(home, l, bs)] } }

/-- Whole lines of a response enter the remote line cache. -/
def Dev.cacheLines (d : Dev) (home off : Nat) (bs : List Byte) : Dev :=
  (linesOf off bs.length).foldl (fun d l =>
    if l * 64 < off ∨ off + bs.length < l * 64 + 64 then d else d.cacheLine home l ((bs.drop (l * 64 - off)).take 64)) d

/-- The replica of a page. -/
def Blocks.replica? (b : Blocks) (home page : Nat) : Option Replica :=
  b.remote.replicas.find? (fun r => r.home = home && r.page = page)

/-- A replica leaves the pool. -/
def Dev.freeReplica (d : Dev) (home page : Nat) : Dev :=
  { d with remote := { d.remote with replicas := d.remote.replicas.filter (fun r => !(r.home = home && r.page = page)) } }

/-- A replica fetch that cannot complete: the replica and its requests go. -/
def Dev.dropFetch (d : Dev) (home page : Nat) : Dev :=
  let mine (q : RemoteReq) : Bool := q.core = 576 && q.home = home && q.off / 65536 = page
  (d.setReqs (d.remote.reqs.filter (fun q => !mine q))).freeReplica home page

/-- The replica that may serve a load of n bytes at an offset: complete, not dropped, younger than its TTL. -/
def Blocks.servingReplica (b : Blocks) (home off n : Nat) : Option Replica :=
  if !b.flag Reg.memCtrl 2 || off / 65536 ≠ (off + n - 1) / 65536 then none else
  (b.replica? home (off / 65536)).filter (fun r =>
    r.complete && !r.dropped && decide (b.stroke < r.born + b.rd Reg.memReplTtl))

/-- A response of a replicable page from outside the octet begins a replica fetch, unless one is held or being fetched: a frame of the
pool, the oldest fetch leaving first, and the requests for the page (R236). -/
def Dev.beginReplica (d : Dev) (home page epoch ctx : Nat) : Dev :=
  if !d.flag Reg.memCtrl 2 || d.inOctet home || (d.replica? home page).isSome then d else
  let (first, n) := d.poolFrames Reg.memReplPool
  if n = 0 then d else
  let used (d : Dev) (f : Nat) : Bool := d.remote.replicas.any (fun r => r.frame = f)
  let free? (d : Dev) : Option Nat := ((List.range n).map (first + ·)).find? (fun f => !used d f)
  let d := match free? d, d.remote.replicas with
    | none, r :: _ => d.dropFetch r.home r.page
    | _, _ => d
  match free? d with
  | none => d
  | some f =>
    let r : Replica := { home := home, page := page, epoch := epoch, frame := f, born := d.stroke }
    let d : Dev := { d with remote := { d.remote with replicas := d.remote.replicas ++ [r] } }
    let req (i : Nat) : RemoteReq :=
      { core := 576, slot := 0, ctx := ctx, home := home, seq := 0, mop := 0, aop := 0, off := page * 65536 + i * 128, len := 128,
        local_ := f * 65536 + i * 128, order := 0, data := [] }
    d.addReqs ((List.range 512).map req)

/-- REPLICA_FETCH_COMPLETE: every request of the page's fetch is answered and the page begins to serve loads, or is discarded if it
was invalidated meanwhile (R236, R237). -/
def Dev.replicaFetched (d : Dev) (home page : Nat) : Dev :=
  match d.replica? home page with
  | none => d
  | some r =>
    if r.complete || d.remote.reqs.any (fun q => q.core = 576 && q.home = home && q.off / 65536 = page) then d
    else if r.dropped then d.freeReplica home page
    else
      let fin (x : Replica) : Replica := if x.home = home && x.page = page then { x with complete := true } else x
      { d with remote := { d.remote with replicas := d.remote.replicas.map fin } }

/-- A replica is dropped by invalidation or TTL; one being fetched is discarded on completion (R237). -/
def Dev.dropReplica (d : Dev) (home page : Nat) : Dev :=
  match d.replica? home page with
  | none => d
  | some r =>
    if r.dropped then d else
    let d := d.bump Reg.memCntReplDrop 1
    if r.complete then d.freeReplica home page
    else
      let mark (x : Replica) : Replica := if x.home = home && x.page = page then { x with dropped := true } else x
      { d with remote := { d.remote with replicas := d.remote.replicas.map mark } }

/-- REPLICA_TTL_EXPIRE. -/
def Dev.replicaExpire (d : Dev) (home page : Nat) : Dev :=
  match d.replica? home page with
  | none => d
  | some r => if d.stroke < r.born + d.rd Reg.memReplTtl then d else d.dropReplica home page

/-- REPLICA_INVALIDATE: the oldest replica invalidate message drops an older replica of its page (R237). -/
def Dev.replicaInvalidate (d : Dev) : Dev :=
  match d.fil.rx.find? (fun m => m.typ = 4) with
  | none => d
  | some m =>
    let d : Dev := { d with fil := { d.fil with rx := d.fil.rx.erase m } }
    match d.replica? m.src m.sub with
    | some r => if r.epoch < m.key then d.dropReplica m.src m.sub else d
    | none => d

/-- Meaning of MEM_REQUEST. -/
def execMemRequest (ecc : Ecc) (s : State) : Host.Outcome State Fault Refusal :=
  .next (s.onDev (s.dev.live (fun d => d.act (.memRequest ecc) ecc Dev.memRequest)))

/-- Meaning of FLAGGED_STORE_APPLY. -/
def execFlaggedStoreApply (src : Nat) (ecc : Ecc) (s : State) : Host.Outcome State Fault Refusal :=
  .next (s.onDev (s.dev.live (fun d => d.act (.flaggedStoreApply src ecc) ecc (fun d => d.flaggedApply src))))

/-- Meaning of MEM_INVALIDATE. -/
def execMemInvalidate (s : State) : Host.Outcome State Fault Refusal := .next (s.onDev (s.dev.live Dev.memInvalidate))

/-- Meaning of REPLICA_FETCH_COMPLETE. -/
def execReplicaFetchComplete (home page : Nat) (s : State) : Host.Outcome State Fault Refusal :=
  .next (s.onDev (s.dev.live (fun d => d.replicaFetched home page)))

/-- Meaning of REPLICA_TTL_EXPIRE. -/
def execReplicaTtlExpire (home page : Nat) (s : State) : Host.Outcome State Fault Refusal :=
  .next (s.onDev (s.dev.live (fun d => d.replicaExpire home page)))

/-- Meaning of REPLICA_INVALIDATE. -/
def execReplicaInvalidate (s : State) : Host.Outcome State Fault Refusal := .next (s.onDev (s.dev.live Dev.replicaInvalidate))

end Sys2Proof.Machine
end

