-- ==== Sys2Proof/Machine/Program.lean ====
section
/-! DEFINITION. Programs on cores (R70 to R73, R78, R102, R103): issue, completion, faults, the end of a program, the
counters of Tables 14.2 to 14.4 and the bytes that enter the Hallmark (R264). -/

namespace Sys2Proof.Machine

/-! Quartets (R23, R78). -/

/-- The quartet of a logical core, as 4 × cluster + m; slots beyond the last whole quartet belong to none. -/
def Blocks.quartetOf (b : Blocks) (l : Nat) : Option Nat :=
  let j := l % b.lc
  if j / 4 * 4 + 3 < b.lc then some (4 * (l / b.lc) + j / 4) else none

/-- The quartet is ganged under the loaded Mount. -/
def Blocks.ganged (b : Blocks) (q : Nat) : Bool := b.mgmt.mount.any (fun m => m.gangs.contains q)

/-- The place of a physical core in a ganged quartet, if it serves a slot of one. -/
def Blocks.gangPlace (b : Blocks) (p : Nat) : Option Nat :=
  match b.logOf p with
  | none => none
  | some l => if (b.quartetOf l).any b.ganged then some (l % b.lc % 4) else none

/-- Leader of a ganged quartet. -/
def Blocks.isLeader (b : Blocks) (p : Nat) : Bool := b.gangPlace p = some 0

/-- The physical cores of the gang that a core leads, in quartet order; a core that leads none stands alone. -/
def Blocks.gangOf (b : Blocks) (p : Nat) : List Nat :=
  if !b.isLeader p then [p] else
  match b.logOf p with
  | none => [p]
  | some l => (List.range 4).filterMap (fun i => b.physOf (l + i))

/-! Widths (R98). -/

/-- Good columns of array a of a core. -/
def Blocks.arrayWidth (b : Blocks) (p a : Nat) : Nat := b.fld (Reg.coreWidth p) (8 * a + 7) (8 * a)

/-- The width of a core: the smallest of its four arrays. -/
def Blocks.coreWidth (b : Blocks) (p : Nat) : Nat := (List.range 4).foldl (fun w a => min w (b.arrayWidth p a)) 64

/-- The columns that a mode can use on these cores (R98). -/
def Blocks.modeWidth (b : Blocks) (pave : Nat) (cores : List Nat) : Nat :=
  match cores with
  | [] => 0
  | p :: _ =>
    if pave = 0 then b.coreWidth p
    else 4 * (if pave = 1 then b.coreWidth p else cores.foldl (fun w c => min w (b.coreWidth c)) 64)

/-! Counters (R336 to R338). -/

/-- Occurrences of a programmable event on a core, caused by a context's program (Table 14.4). -/
def Dev.countEvent (d : Dev) (p event ctx n : Nat) : Dev :=
  if n = 0 ∨ event = 0 then d else
  (List.range 8).foldl (fun d i =>
    let sel := d.rd (Reg.corePmsel p i)
    if bitOf sel 15 && bitsOf sel 7 0 = event && (!bitOf sel 14 || bitsOf sel 13 8 = ctx) then d.bump (Reg.corePmc p i) n else d) d

/-- Issue slots that end as retired. -/
def Dev.retire (d : Dev) (cores : List Nat) : Dev := cores.foldl (fun d c => d.bump (Reg.coreCntTdRetired c) 1) d

/-- Corrected words of a core's memories and of the HBM (Tables 14.1, 14.2). -/
def Dev.countCorr (d : Dev) (p a : Nat) (ecc : Ecc) : Dev :=
  let d := if ecc.corrLocal = 0 then d else d.bump (Reg.coreCntEccCorr p) ecc.corrLocal
  d.countEcc a ecc.corrHbm

/-! Hallmark bytes of instructions (R264 part 1). -/

/-- Bytes that an instruction with HM = 1 wrote on a core: they join the stream of its logical core. An Assay program's are ignored. -/
def Dev.hmPart (d : Dev) (g : Prog) (p order : Nat) (bs : List Byte) : Dev :=
  match g.occ, d.logOf p with
  | some id, some l =>
    if g.assay || bs.isEmpty then d
    else d.modOcc g.ctx id (fun o => { o with parts := o.parts ++ [⟨l, g.ordinal, order, bs⟩] })
  | _, _ => d

/-! Faults (R102, R103). -/

/-- Device address of the instruction at a local address of a program. -/
def Prog.devPc (g : Prog) (pc : Nat) : Nat := g.progAddr + (pc - g.progLocal)

/-- A fault logged with the instruction's address; `loc` is the local address involved, or 0. -/
def Dev.insnFault (d : Dev) (p : Nat) (g : Prog) (pc code : Nat) (slot : Slot) (loc : Nat) : Dev :=
  d.coreFault p g.ctx code (if slot = .v then 1 else 0) (g.devPc pc) loc (g.devPc pc) 1

/-- A fault logged with a local address: streams and memory errors (Tables 3.14, 4.8). -/
def Dev.localFault (d : Dev) (p : Nat) (g : Prog) (pc code : Nat) (slot : Slot) (loc : Nat) : Dev :=
  d.coreFault p g.ctx code (if slot = .v then 1 else 0) (g.devPc pc) loc loc 3

/-- A fault logged with a device address (Tables 5.17, 6.10, 9.13). -/
def Dev.deviceFault (d : Dev) (p : Nat) (g : Prog) (pc code addr : Nat) : Dev :=
  d.coreFault p g.ctx code 1 (g.devPc pc) 0 addr 1

/-! Issue and completion (R71, R72). -/

/-- The program that runs on a core. -/
def Blocks.prog? (b : Blocks) (p : Nat) : Option Prog := (b.core p).prog

/-- Change the program that runs on a core. -/
def Dev.modProg (d : Dev) (p : Nat) (f : Prog → Prog) : Dev := d.modCore p (fun c => { c with prog := c.prog.map f })

/-- The program seen from its instruction at a local address. -/
def Prog.at_ (g : Prog) (x : Nat) : Prog := { g with pc := x }

/-- The place in program order of the instruction at a program's position. -/
def Prog.order (g : Prog) : Nat := g.first + (g.pc - g.progLocal) / 32

/-- The instruction is a CLWAIT that waits. -/
def Issued.isClwait (i : Issued) : Bool :=
  match i.pend with
  | .clasp _ _ => true
  | _ => false

/-- Two lists of ranges meet. -/
def meets (xs ys : List (Nat × Nat)) : Bool := xs.any (fun x => ys.any (fun y => overlaps x.1 x.2 y.1 y.2))

/-- The core of a stream whose memory has the errors that a row brings. -/
def Prog.errCore (g : Prog) (p : Nat) (ecc : Ecc) : Nat := g.gang.getD ecc.place p

/-- The instruction at g's position issues: its slot moves past it, and on the cores that issue it an issue slot is used (R337). -/
def Dev.issue (d : Dev) (p : Nat) (g : Prog) (slot : Slot) (cores : List Nat) : Dev :=
  let d := d.modProg p (fun h => if slot = .m then { h with pcM := g.pc + 32 } else { h with pc := g.pc + 32 })
  cores.foldl (fun d c =>
    (d.modCore c (fun x => { x with owed := x.owed + 1 })).countEvent c (if slot = .m then 2 else 3) g.ctx 1) d

/-- Issue with a scoreboard entry. -/
def Dev.enter (d : Dev) (p : Nat) (g : Prog) (slot : Slot) (cores : List Nat) (i : Issued) : Dev :=
  (d.issue p g slot cores).modProg p (fun h => { h with score := h.score ++ [i] })

/-- Issue in slot V and completion at once. -/
def Dev.passed (d : Dev) (p : Nat) (g : Prog) (cores : List Nat) : Dev := (d.issue p g .v cores).retire cores

/-- An entry leaves the scoreboard complete. -/
def Dev.complete (d : Dev) (p : Nat) (order : Nat) (cores : List Nat) : Dev :=
  (d.modProg p (fun g => { g with score := g.score.filter (fun i => i.order ≠ order) })).retire cores

/-! The end of a program (R73). -/

/-- A PROGRAM command still runs: on a core, or suspended on one. -/
def Blocks.jobRuns (b : Blocks) (ring seq : Nat) : Bool :=
  let mine (g : Prog) : Bool := g.ring = ring && g.seq = seq
  b.cores.any (fun e => e.2.prog.any mine || e.2.suspended.any mine)

/-- A context that is not switchable gives up a core when its program there completes (R322). -/
def Dev.releaseCore (d : Dev) (ctx p : Nat) : Dev :=
  if (d.ctx ctx).saveBase = 0 then d.modCore p (fun c => if c.owner = some ctx then { c with owner := none } else c) else d

/-- The program of core p ends; its command completes when no core runs it any more (Table 12.3). -/
def Dev.endProgram (d : Dev) (p : Nat) (g : Prog) : Dev :=
  let d := d.modCore p (fun c => { c with prog := none })
  let d := d.withdrawCarats p
  let d := g.gang.foldl (fun d c => d.releaseCore g.ctx c) d
  if d.jobRuns g.ring g.seq then d else d.finish g.ring g.seq 0 false 0 0

end Sys2Proof.Machine
end

