-- ==== Sys2Proof/Machine/Issue.lean ====
section
/-! DEFINITION. Issue (R70 to R72): what each instruction reads and writes, the hazard rule, the two slots, and the instruction whose turn
it is. -/

namespace Sys2Proof.Machine

/-! Index streams (R104, R105). -/

/-- Checks 1 to 4 of R105 on the entries of a stream from position i on: the failing code and address, or the coordinates in order.
`stop` is the first byte that the stream may not reach (the operand), if it has one. The specification does not say at which entry the
count check of a stream that runs into its operand fails: every entry is judged by its own checks first, and the stream fails with code
0x2C at its terminator (log entry 35). -/
def streamEntries (word : Nat → Nat) (addr limit count : Nat) (stop : Option Nat) (i : Nat) (prev : Option Nat) :
    Nat → (Nat × Nat) ⊕ List Nat
  | 0 => .inr []
  | fuel + 1 =>
    let here := addr + 8 + 2 * i
    let v := word here
    if i = count then
      if v ≠ 0xFFFF ∨ stop.any (fun s => s ≤ here) then .inl (0x2C, here) else .inr []
    else if v = 0xFFFF then .inl (0x2C, here)
    else if limit ≤ v then .inl (0x2B, here)
    else if prev = some v then .inl (0x2A, here)
    else if prev.any (fun u => v < u) then .inl (0x29, here)
    else match streamEntries word addr limit count stop (i + 1) (some v) fuel with
      | .inl e => .inl e
      | .inr vs => .inr (v :: vs)

/-- The stream at a scratchpad address, checked against KLEN and granule (R105): header first, then the entries. -/
def Blocks.stream (b : Blocks) (p addr klen : Nat) (gran : Bool) (stop : Option Nat) : (Nat × Nat) ⊕ List Nat :=
  let w0 := b.locNat p addr 4
  let w1 := b.locNat p (addr + 4) 4
  let count := w0 % 65536
  let limit := klen / (if gran then 32 else 1)
  if w0 / 65536 ≠ klen ∨ w1 ≠ b2n gran ∨ limit < count then .inl (0x2C, addr)
  else streamEntries (fun a => b.locNat p a 2) addr limit count stop 0 none (count + 1)

/-- Bytes of an index stream with n coordinates. -/
def streamLen (n : Nat) : Nat := 10 + 2 * n

/-- Bytes of the stream at an address, by the COUNT of its header. -/
def Blocks.streamBytes (b : Blocks) (p addr : Nat) : Nat := streamLen (b.locNat p addr 2)

/-! Ranges of array instructions (R72, R81, R82, R106). -/

/-- Valid rows of the whole instruction; with MSRC = 1 from the leader's CORE_M. -/
def Blocks.rowCount (b : Blocks) (a : ArrInsn) (p : Nat) : Nat :=
  if a.msrc then min a.height ((b.core p).m - a.rowBase) else a.rows

/-- Valid rows of the core at quartet position q. -/
def ArrInsn.coreRows (a : ArrInsn) (total q : Nat) : Nat := if a.pave = 2 then min 16 (total - 16 * q) else total

/-- The cores whose arrays an instruction fills: the issuing core, or the quartet. -/
def Blocks.arrCores (b : Blocks) (a : ArrInsn) (p : Nat) : List Nat := if a.pave = 2 then b.gangOf p else [p]

/-- Where the streams of A and B begin. -/
def ArrInsn.streamsAt (a : ArrInsn) : Option Nat × Option Nat :=
  (if a.aMeta = 0 then none else metaAddr a.aAddr a.aMeta, if a.bMeta = 0 then none else metaAddr a.bAddr a.bMeta)

/-- Local ranges that an instruction reads on the core at quartet position q; its streams lie on the leader. -/
def Blocks.arrReads (b : Blocks) (a : ArrInsn) (p total q : Nat) : List (Nat × Nat) :=
  let (sa, sb) := a.streamsAt
  let s (x : Option Nat) : List (Nat × Nat) := match x with
    | none => []
    | some m => [(m, b.streamBytes p m)]
  a.reads q (a.coreRows total q) ++ (if q = 0 then s sa ++ s sb else [])

/-! Rules of vector and control instructions (R93, R103). -/

/-- A local range that an operation names: address, bytes, alignment, written or read. -/
structure Span where
  addr : Nat
  len : Nat
  align : Nat
  write : Bool
  deriving DecidableEq, Repr

/-- A range read. -/
def Span.r (addr len align : Nat) : Span := ⟨addr, len, align, false⟩
/-- A range written. -/
def Span.w (addr len align : Nat) : Span := ⟨addr, len, align, true⟩

/-- The ranges that are read, or written. -/
def spansOf (write : Bool) (xs : List Span) : List (Nat × Nat) := (xs.filter (fun x => x.write = write)).map (fun x => (x.addr, x.len))

/-- What an operation states of itself: its own causes of code 0x21, its local ranges, its further checks at issue in order (R103). -/
structure VecRule where
  illegal : Bool
  spans : List Span
  further : Option Nat
  deriving DecidableEq, Repr

/-- The code of the first rule that a vector or control instruction breaks, with the local address involved (R103). -/
def VecInsn.fault (v : VecInsn) (r : VecRule) : Option (Nat × Nat) :=
  if v.illegal || r.illegal then some (0x21, 0)
  else match r.spans.find? (fun x => !localOk x.addr x.len x.align) with
    | some x => some (0x24, x.addr)
    | none => r.further.map (fun c => (c, 0))

/-- The rule of an operation with its own causes and ranges. -/
def slotRule (illegal : Bool) (further : Option Nat) (spans : List Span) : VecRule := ⟨illegal, spans, further⟩

/-- The rule of an operation that reads COUNT words at SRC1, at SRC2 if it has two sources, at DST if it accumulates, and writes COUNT
words. -/
def mapRule (two acc : Bool) (v : VecInsn) : VecRule :=
  slotRule false none ([Span.r v.src1 (4 * v.count) 4] ++ (if two then [Span.r v.src2 (4 * v.count) 4] else []) ++
    (if acc then [Span.r v.dst (4 * v.count) 4] else []) ++ [Span.w v.dst (4 * v.count) 4])

/-- The rule of VAXPY: one word at SRC2. -/
def axpyRule (v : VecInsn) : VecRule :=
  slotRule false none [Span.r v.src1 (4 * v.count) 4, Span.r v.src2 (if v.count = 0 then 0 else 4) 4, Span.r v.dst (4 * v.count) 4,
    Span.w v.dst (4 * v.count) 4]

/-- The rule of a reduction: one word written. -/
def reduceRule (two : Bool) (v : VecInsn) : VecRule :=
  slotRule false none ([Span.r v.src1 (4 * v.count) 4] ++ (if two then [Span.r v.src2 (4 * v.count) 4] else []) ++ [Span.w v.dst 4 4])

/-- The rule of VCVT: rows of COUNT elements in the layout of R96. -/
def cvtRule (v : VecInsn) : VecRule :=
  slotRule false none [Span.r v.src1 (vecBytes v.sfmt v.count) (fmtAlign v.sfmt), Span.w v.dst (vecBytes v.dfmt v.count) (fmtAlign v.dfmt)]

/-- The rule of VSEL: the range of DST is that of the longest stream it could write (log entry 33). -/
def selRule (v : VecInsn) : VecRule :=
  slotRule false (if v.count % 32 ≠ 0 ∨ 4096 < v.count then some 0x22 else none)
    [Span.r v.src1 (64 * v.count) 4, Span.w v.dst (streamLen (v.count / 32)) 2]

/-- The rule of VKEEP: the stream's header and coordinates are read at SRC1. R113 asks for a COUNT that is a multiple of 32 and divides by
it; a COUNT of 0 is taken as code 0x22 (log entry 31). -/
def keepRule (b : Blocks) (p : Nat) (v : VecInsn) : VecRule :=
  slotRule false (if v.count = 0 ∨ v.count % 32 ≠ 0 then some 0x22 else none) [Span.r v.src1 (b.streamBytes p v.src1) 2]

/-- The rule of VHINT (R116). -/
def hintRule (v : VecInsn) : VecRule :=
  slotRule (v.imm = 0 || decide (16 < v.imm) || decide (256 ≤ v.dev)) (if v.count = 0 ∨ 16384 < v.count then some 0x22 else none)
    [Span.r v.src1 (64 * v.count) 4]

/-- The rule of VLOAD. -/
def loadRule (v : VecInsn) : VecRule := slotRule false none [Span.w v.dst v.count 1]
/-- The rule of VSTORE. -/
def storeRule (v : VecInsn) : VecRule := slotRule false none [Span.r v.src1 v.count 1]
/-- The rule of VSTOREF (R231): code 0x95 for a COUNT of 0 or a range that crosses a 128-byte boundary. -/
def storefRule (v : VecInsn) : VecRule :=
  slotRule false (if v.count = 0 ∨ v.dev / 128 ≠ (v.dev + v.count - 1) / 128 then some 0x95 else none) [Span.r v.src1 v.count 1]
/-- The rule of VATOM (R231): reserved AOP or IMM bits, 8-byte slots, code 0x95 for a misaligned DEVADDR. -/
def atomRule (v : VecInsn) : VecRule :=
  slotRule (decide (v.imm % 8 = 7) || decide (16 ≤ v.imm)) (if v.dev % 8 ≠ 0 then some 0x95 else none)
    [Span.r v.src1 (if v.imm % 8 = 2 then 16 else 8) 8, Span.w v.dst 8 8]

/-- The causes of code 0x21 of VCOUNT: HM = 1 and the other bits of IMM (R339). -/
def countIllegal (v : VecInsn) : Bool :=
  v.hm || (if bitOf v.imm 31 then bitsOf v.imm 30 16 ≠ 0 else bitsOf v.imm 30 28 ≠ 0)

/-- The rule of an instruction of slot V by its opcode (Tables 3.9, 4.4, 6.4, 9.7; R73, R254, R339). -/
def Blocks.vecRule (b : Blocks) (p : Nat) (v : VecInsn) : VecRule :=
  match v.op with
  | 0x02 => slotRule (v.hm || decide (65536 ≤ v.imm)) none [Span.w v.dst 4 4]
  | 0x80 | 0x87 | 0x88 | 0x89 | 0x8A | 0x8B | 0x8C => mapRule false false v
  | 0x81 | 0x82 | 0x85 | 0x86 => mapRule true false v
  | 0x83 => mapRule true true v
  | 0x84 => axpyRule v
  | 0x8D | 0x8E => reduceRule false v
  | 0x8F => reduceRule true v
  | 0x90 => cvtRule v
  | 0x91 => selRule v
  | 0x92 => keepRule b p v
  | 0x93 => hintRule v
  | 0x94 => slotRule v.hm none [Span.w v.dst 8 8]
  | 0x95 => slotRule false none [Span.r v.src1 8 8]
  | 0x96 => atomRule v
  | 0x98 => loadRule v
  | 0x99 => storeRule v
  | 0x9A => storefRule v
  | 0x9B => slotRule (countIllegal v) none [Span.w v.dst 8 8]
  | _ => slotRule false none []

/-- Bytes of the device range that an instruction accesses. -/
def VecInsn.devLen (v : VecInsn) : Nat := if v.op = 0x96 then atomicBytes v.imm else v.count

/-- Device ranges read and written, for the hazard rule (R127). -/
def VecInsn.devSpans (v : VecInsn) : List (Nat × Nat) × List (Nat × Nat) :=
  let r := [(v.dev, v.devLen)]
  match v.op with
  | 0x98 => (r, [])
  | 0x96 => (r, r)
  | 0x99 | 0x9A => ([], r)
  | _ => ([], [])

/-! Hazards (R72). -/

/-- Local and device ranges that an instruction reads and writes. -/
structure Ranges where
  reads : List (Nat × Nat)
  writes : List (Nat × Nat)
  devReads : List (Nat × Nat)
  devWrites : List (Nat × Nat)
  deriving DecidableEq, Repr

/-- The ranges of the instruction that bytes spell, for a program of core p. -/
def Blocks.rangesOf (b : Blocks) (p : Nat) (bs : List Byte) : Ranges :=
  if opSlot (insnOp bs) = .m then
    let a := arrOf bs
    ⟨b.arrReads a p (b.rowCount a p) 0, a.writes (a.coreRows (b.rowCount a p) 0), [], []⟩
  else
    let v := vecOf bs
    let r := b.vecRule p v
    ⟨spansOf false r.spans, spansOf true r.spans, v.devSpans.1, v.devSpans.2⟩

/-- The ranges of a scoreboard entry. -/
def Issued.ranges (i : Issued) : Ranges := ⟨i.reads, i.writes, i.devReads, i.devWrites⟩

/-- A later instruction must wait for an earlier one: it reads what that writes, or writes what that reads or writes (R72), in local memory
and, for VLOAD and VSTORE, in the device range (R127). -/
def Ranges.waitsFor (x y : Ranges) : Bool :=
  meets x.reads y.writes || meets x.writes y.writes || meets x.writes y.reads ||
  meets x.devReads y.devWrites || meets x.devWrites y.devWrites || meets x.devWrites y.devReads

/-- The instructions of a slot in [lo, hi) of core p's program. -/
def Blocks.insnsIn (b : Blocks) (p : Nat) (s : Slot) (lo hi : Nat) : List (List Byte) :=
  ((List.range ((hi - lo) / 32)).map (fun i => b.locRead p (lo + 32 * i) 32)).filter (fun bs => opSlot (insnOp bs) = s)

/-- The other slot. -/
def Slot.other : Slot → Slot
  | .m => .v
  | .v => .m

/-- The position of a slot in a program. -/
def Prog.posOf (g : Prog) (s : Slot) : Nat := if s = .m then g.pcM else g.pc

/-- The earlier instructions of the other slot that have not issued yet, for an instruction of slot s at local address x. -/
def Blocks.unissued (b : Blocks) (p : Nat) (s : Slot) (x : Nat) : List (List Byte) :=
  match b.prog? p with
  | none => []
  | some g => b.insnsIn p s.other (g.posOf s.other) x

/-- The instruction of slot s at x must wait for an earlier one that is incomplete, issued or not: overlapping accesses take effect in
program order (R72). -/
def Blocks.hazard (b : Blocks) (p : Nat) (s : Slot) (x : Nat) (r : Ranges) : Bool :=
  match b.prog? p with
  | none => false
  | some g =>
    g.score.any (fun i => decide (i.order < (g.at_ x).order) && r.waitsFor i.ranges) ||
    (b.unissued p s x).any (fun bs => r.waitsFor (b.rangesOf p bs))

/-! Turns (R71). -/

/-- The next instruction of slot s from local address a on: none where the program goes on beyond the scratchpad, or, for slot M, at an
END. `fuel` is the number of instructions that fit. -/
def Blocks.seek (b : Blocks) (p : Nat) (s : Slot) : Nat → Nat → Option Nat
  | 0, _ => none
  | fuel + 1, a =>
    if 0x1C0000 < a + 32 then none else
    let op := b.locNat p a 1
    if opSlot op = s then some a else if op = 1 then none else b.seek p s fuel (a + 32)

/-- The local address of the next instruction of a slot. -/
def Blocks.nextIn (b : Blocks) (p : Nat) (g : Prog) (s : Slot) : Option Nat := b.seek p s 57344 (g.posOf s)

/-- The sequencer may issue: no pre-emption under way, room in the scoreboard (R72, R323). -/
def Prog.mayIssue (g : Prog) : Bool := !g.quiesce && decide (g.score.length < 16)

/-- A CLWAIT precedes the instruction at x and is not complete (R254). -/
def Blocks.claspHolds (b : Blocks) (p : Nat) (g : Prog) (s : Slot) (x : Nat) : Bool :=
  g.score.any (fun i => i.isClwait && decide (i.order < (g.at_ x).order)) || (b.unissued p s x).any (fun bs => insnOp bs = 2)

/-- An instruction waits for an earlier one whatever its ranges: any for a CLWAIT; one with KEEP for a VKEEP (R114), and a VKEEP for one with
KEEP, which must not see the later mask (log entry 87). -/
def Blocks.heldBack (b : Blocks) (p : Nat) (g : Prog) (s : Slot) (x : Nat) (bs : List Byte) : Bool :=
  b.claspHolds p g s x ||
  (insnOp bs = 0x41 && (arrOf bs).keep && (b.unissued p s x).any (fun e => insnOp e = 0x92)) ||
  (insnOp bs = 0x92 && (b.unissued p s x).any (fun e => insnOp e = 0x41 && (arrOf e).keep))

/-- The next instruction of a slot has an undefined opcode and its turn has come. -/
def Blocks.undefinedAt (b : Blocks) (p : Nat) (g : Prog) (s : Slot) : Option Nat :=
  (b.nextIn p g s).filter (fun x => !opDefined (b.locNat p x 1) && !b.claspHolds p g s x)

/-- Whatever the row, a fetch beyond the scratchpad faults, and so does an undefined opcode when its turn comes (R70, R71). -/
def Dev.strayInsn (d : Dev) (p : Nat) (g : Prog) : Dev :=
  match d.nextIn p g .v, d.undefinedAt p g .v, d.undefinedAt p g .m with
  | none, _, _ =>
    let x := g.pc + (0x1C0000 - g.pc) / 32 * 32
    d.insnFault p (g.at_ x) x 0x24 .v x
  | _, some x, _ => d.insnFault p (g.at_ x) x 0x21 .v 0
  | _, none, some x => d.insnFault p (g.at_ x) x 0x21 .m 0
  | _, none, none => d

/-- The clock of a core's cluster runs (R30, R353). -/
def Blocks.clocked (b : Blocks) (p : Nat) : Bool := tabGet 0 b.glb.lostAt (clusterOf p) = 0

/-- The next instruction of its slot on core p, if the row's opcode is its turn, goes to `run`, with the program seen from it. A fetch that
meets an uncorrectable word faults with 0x28 (R103). -/
def Dev.onInsn (d : Dev) (p op : Nat) (ecc : Ecc) (run : Dev → Prog → List Byte → Dev) : Dev :=
  match d.prog? p with
  | none => d
  | some g =>
    if !g.mayIssue || !d.clocked p then d else
    match (d.nextIn p g (opSlot op)).filter (fun x => d.locNat p x 1 = op) with
    | none => d.strayInsn p g
    | some x =>
      let bs := d.locRead p x 32
      if d.heldBack p g (opSlot op) x bs then d
      else match (if ecc.place = 0 then ecc.badLocal.filter (fun w => x ≤ w && w < x + 32) else none) with
        | some w => (d.countCorr p 0 { ecc with corrHbm := 0 }).localFault p (g.at_ x) x 0x28 (opSlot op) w
        | none => run d (g.at_ x) bs

/-- Slot s of core p's program holds an instruction that cannot issue now (Table 14.3): pre-emption under way, scoreboard full, overlap, a
wait for a Clasp or a mask; for slot M also two incomplete instructions on an array that it needs (R76), or a carat grant awaited. -/
def Blocks.slotBlocked (b : Blocks) (p : Nat) (g : Prog) (s : Slot) : Bool :=
  match b.nextIn p g s with
  | none => false
  | some x =>
    let bs := b.locRead p x 32
    let same (i : Issued) : Bool :=
      i.slot = .m && ((arrOf i.insn).pave ≠ 0 || (arrOf bs).pave ≠ 0 || (arrOf i.insn).array = (arrOf bs).array)
    !g.mayIssue || b.heldBack p g s x bs || b.hazard p s x (b.rangesOf p bs) ||
    (s = .m && (decide (2 ≤ (g.score.filter same).length) || b.pwr.waiting.any (fun r => r.req = p)))

/-- END: with every earlier instruction complete the program ends; a set byte is a reserved field (R73). -/
def Dev.endInsn (d : Dev) (p : Nat) (ecc : Ecc) : Dev :=
  d.onInsn p 1 ecc (fun d g bs =>
    if (bs.drop 1).any (· ≠ 0) then d.insnFault p g g.pc 0x21 .v 0
    else if !g.score.isEmpty || !(d.unissued p .v g.pc).isEmpty then d
    else (d.passed p g g.gang).endProgram p g)

/-- Meaning of END. -/
def execEnd (core : Nat) (ecc : Ecc) (s : State) : Host.Outcome State Fault Refusal :=
  .next (s.onDev (s.dev.live (fun d => d.endInsn core ecc)))

end Sys2Proof.Machine
end

