-- ==== Sys2Proof/Machine/Array.lean ====
section
/-! DEFINITION. Array instructions, dense and sparse: checks at issue, the fed set, drains (R74 to R92, R97 to R100,
R104 to R111). -/

namespace Sys2Proof.Machine

/-! Checks at issue (R81, R103, R107, R112). -/

/-- The code of the first rule that the instruction breaks, with the local address involved. -/
def Blocks.arrFault (b : Blocks) (a : ArrInsn) (p : Nat) (g : Prog) : Option (Nat × Nat) :=
  if a.illegal then some (0x21, 0)
  else if a.badShape || (b.gangPlace p).any (· ≠ 0) || (a.pave = 2 && !b.isLeader p) || (g.assay && a.pave ≠ 0) then some (0x22, 0)
  else if !pairOk a.afmt a.bfmt then some (0x23, 0)
  else match a.badLocal with
    | some loc => some (0x24, loc)
    | none =>
      if b.modeWidth a.pave (b.arrCores a p) < a.cols ∨ (g.assay ∧ g.assayWidth < a.cols) then some (0x26, 0) else none

/-- A stream's coordinates, every coordinate for an operand without one. -/
def Blocks.coords (b : Blocks) (a : ArrInsn) (p operand : Nat) : Option Nat → (Nat × Nat) ⊕ List Nat
  | none => .inr (List.range (a.k / a.g))
  | some m => b.stream p m a.k a.gran (some operand)

/-- The fed set of R108, A's stream checked before B's; opcode 0x40 feeds every element. -/
def Blocks.fedSet (b : Blocks) (a : ArrInsn) (p : Nat) : (Nat × Nat) ⊕ List Nat :=
  let (sa, sb) := a.streamsAt
  match b.coords a p a.aAddr sa, b.coords a p a.bAddr sb with
  | .inl e, _ => .inl e
  | _, .inl e => .inl e
  | .inr ca, .inr cb => .inr (ca.filter cb.contains)

/-- The elements of a fed set. -/
def ArrInsn.fedElems (a : ArrInsn) (fed : List Nat) : List Nat := fed.flatMap (fun v => (List.range a.g).map (a.g * v + ·))

/-- The sparse path is taken (R108, R109). -/
def Blocks.sparsePath (b : Blocks) (a : ArrInsn) (p : Nat) : Bool :=
  let (sa, sb) := a.streamsAt
  if a.path = 1 || (sa.isNone && sb.isNone) then false
  else if a.path = 2 then true
  else
    let n (s : Option Nat) : Nat := match s with
      | none => a.k / a.g
      | some m => b.locNat p m 2
    decide (100 * a.g * min (n sa) (n sb) < b.fld (Reg.coreSparseXover p) 6 0 * a.k)

/-- The core of an array instruction whose memory has the errors that a row brings, and its place in the quartet: only a BLOCK instruction
reads a follower's memory. -/
def Blocks.arrErrCore (b : Blocks) (a : ArrInsn) (p : Nat) (ecc : Ecc) : Nat × Nat :=
  match (b.arrCores a p)[ecc.place]? with
  | some c => (c, ecc.place)
  | none => (p, 0)

/-- An instruction retires empty (R82, R114): nothing read, written or counted but the slot. -/
def Dev.emptyRetire (d : Dev) (p : Nat) (g : Prog) : Dev :=
  ((d.issue p g .m [p]).bump (Reg.coreCntTdWasted p) 1).countEvent p 7 g.ctx 1

/-- An array instruction issues in slot M: empty, or into the scoreboard with its carats asked for (R78, R328). -/
def Dev.arrIssue (d : Dev) (p : Nat) (ecc : Ecc) (g : Prog) (bs : List Byte) : Dev :=
  let a := arrOf bs
  match d.arrFault a p g with
  | some (code, loc) => d.insnFault p g g.pc code .m loc
  | none =>
    let total := d.rowCount a p
    if total = 0 || (a.keep && !(d.core p).keep.getLsbD a.keepBit) then d.emptyRetire p g
    else
      let r := d.rangesOf p bs
      if d.hazard p .m g.pc r then d
      else
        let (c, q) := d.arrErrCore a p ecc
        let e := d.countCorr c 0 ecc
        match ecc.badLocal.filter (fun x => meets (d.arrReads a p total q) [(x, 1)]) with
        | some x => e.localFault c g g.pc 0x28 .m x
        | none =>
          match d.fedSet a p with
          | .inl (code, loc) => e.localFault p g g.pc code .m loc
          | .inr _ =>
            let d := e.enter p g .m [p]
              { slot := .m, pc := g.pc, order := g.order, insn := bs, reads := r.reads, writes := r.writes, pend := .array (a.op = 0x41) }
            let d := if a.op = 0x41 then d.countEvent p (if d.sparsePath a p then 8 else 9) g.ctx 1 else d
            d.askCarats p a.carats (some g.ctx)

/-! The drain (R89, R97, R100). -/

/-- The output tile of one core: rows by columns, as 32-bit words (R80). -/
def Blocks.arrTile (b : Blocks) (a : ArrInsn) (lead p rows : Nat) (idx blocks : List Nat) : List Byte :=
  let brows := (List.range a.cols).map (fun j => b.locRead lead (a.bAddr + j * a.bStride) (rowBytes a.bfmt a.k))
  (List.range rows).flatMap (fun i =>
    let arow := b.locRead p (a.aAddr + i * a.aStride) (rowBytes a.afmt a.k)
    ((List.range a.cols).zip brows).flatMap (fun jb =>
      let init := if a.init = 1 then b.locNat lead (a.initAddr + 4 * jb.1) 4
        else if a.init = 2 then b.locNat p (a.initAddr + 4 * (i * a.cols + jb.1)) 4 else 0
      toLe 4 (arrayElem a.afmt a.bfmt a.drain a.k arow jb.2 init idx blocks)))

/-- A column of an array is bypassed: its COLBAD bit, and the array's good columns in CORE_WIDTH (R97, R101). -/
def Dev.bypass (d : Dev) (p a col : Nat) : Dev :=
  if bitOf (d.rd (Reg.coreColbad p a)) col then d else
  (d.wrFld (Reg.coreColbad p a) col col 1).wrFld (Reg.coreWidth p) (8 * a + 7) (8 * a) (d.arrayWidth p a - 1)

/-- The failing columns of a drain that lie in the arrays of the instruction and were good: core, array, column. -/
def Blocks.residueHits (b : Blocks) (a : ArrInsn) (cores : List Nat) (residue : List (Nat × Nat)) : List (Nat × Nat × Nat) :=
  residue.filterMap (fun r =>
    match cores[r.1 / 4]? with
    | none => none
    | some c =>
      if 64 ≤ r.2 || (a.pave = 0 && r.1 % 4 ≠ a.array) || bitOf (b.rd (Reg.coreColbad c (r.1 % 4))) r.2 then none
      else some (c, r.1 % 4, r.2))

/-- The oldest array instruction of a core. -/
def Prog.oldestArray (g : Prog) : Option Issued := g.score.find? (fun i => i.slot = .m)

/-- The output of one core: written, counted (R100, R111) and, with HM = 1, added to the core's Hallmark stream. -/
def Dev.drainCore (d : Dev) (g : Prog) (i : Issued) (a : ArrInsn) (lead total : Nat) (fed : List Nat) (cq : Nat × Nat) : Dev :=
  let rows := a.coreRows total cq.2
  let idx := a.fedElems fed
  let blocks := ((idx.map (· / 32)).eraseDups)
  let tile := d.arrTile a lead cq.1 rows idx blocks
  let d := d.locWrite cq.1 a.outAddr tile
  let ops := 2 * rows * a.cols * idx.length
  let d := if ops = 0 then d else d.bump (Reg.coreCntOps cq.1) ops
  if a.hm then d.hmPart g cq.1 i.order tile else d

/-- MACs of a cell in a core cycle for a format (Table 3.5). -/
def fmtRate (f : Nat) : Nat := if f < 2 then 1 else if f = 6 ∨ f = 9 then 4 else 2

/-- Operand beats of an instruction with a fed set (R75, R76, R108, R110; log entry 80): all that enter the arrays, and the null ones among
them. -/
def Blocks.beats (b : Blocks) (a : ArrInsn) (p : Nat) (fed : List Nat) : Nat × Nat :=
  let r := max (fmtRate a.afmt) (fmtRate a.bfmt)
  if b.sparsePath a p then ((a.g * fed.length + r - 1) / r, 0)
  else
    let all := (a.k + r - 1) / r
    (all, all - ((a.fedElems fed).map (· / r)).eraseDups.length)

/-- ARRAY_DRAIN: the oldest array instruction of the core, with its carats granted, ends: a residue mismatch bypasses the column and
writes nothing; else the tile is written on every core of the shape. -/
def Dev.arrayDrain (d : Dev) (p : Nat) (residue : List (Nat × Nat)) (ecc : Ecc) : Dev :=
  match d.prog? p with
  | none => d
  | some g =>
    match g.oldestArray with
    | none => d
    | some i =>
      let a := arrOf i.insn
      if d.holds p < a.carats || !d.clocked p then d
      else
        let cores := d.arrCores a p
        let (c, q) := d.arrErrCore a p ecc
        let total := d.rowCount a p
        let e := d.countCorr c 0 ecc
        match ecc.badLocal.filter (fun x => meets (d.arrReads a p total q) [(x, 1)]) with
        | some x => e.localFault c g i.pc 0x28 .m x
        | none =>
          match e.residueHits a cores residue with
          | (c, ar, col) :: rest =>
            let d := ((c, ar, col) :: rest).foldl (fun d h => d.bypass h.1 h.2.1 h.2.2) e
            d.insnFault c g i.pc 0x27 .m 0
          | [] =>
            match e.fedSet a p with
            | .inl (code, loc) => e.localFault p g i.pc code .m loc
            | .inr fed =>
              let (all, null) := d.beats a p fed
              let d := (cores.zip (List.range 4)).foldl (Dev.drainCore · g i a p total fed ·) e
              let d := cores.foldl (fun d c => (d.countEvent c 4 g.ctx all).countEvent c 6 g.ctx null) d
              d.complete p i.order [p]

/-- Meaning of DENSE_INSTRUCTION. -/
def execDenseInstruction (core : Nat) (ecc : Ecc) (s : State) : Host.Outcome State Fault Refusal :=
  .next (s.onDev (s.dev.live (fun d => d.onInsn core 0x40 ecc (fun d g bs => d.arrIssue core ecc g bs))))

/-- Meaning of SPARSE_ARRAY_INSTRUCTION. -/
def execSparseArrayInstruction (core : Nat) (ecc : Ecc) (s : State) : Host.Outcome State Fault Refusal :=
  .next (s.onDev (s.dev.live (fun d => d.onInsn core 0x41 ecc (fun d g bs => d.arrIssue core ecc g bs))))

/-- Meaning of ARRAY_DRAIN. -/
def execArrayDrain (core : Nat) (residue : List (Nat × Nat)) (ecc : Ecc) (s : State) : Host.Outcome State Fault Refusal :=
  .next (s.onDev (s.dev.live (fun d => d.arrayDrain core residue ecc)))

end Sys2Proof.Machine
end

