-- ==== Sys2Proof/Machine/Hints.lean ====
section
/-! DEFINITION. Predictions of experts (R116 to R118): hints of a program and hint messages. -/

namespace Sys2Proof.Machine

/-- The entry of expert e in layer l's directory at RE instance 0's RE_DIR_BASE, read by the migration engine (R41, R116); none where
the range checks refuse the address. -/
def Blocks.dirEntry (b : Blocks) (l e : Nat) : Option (List Byte) :=
  let a := b.rd (Reg.reDirBase 0) + l * 524288 + e * 32
  if (b.checkRange a 32).isSome then none else some (b.currentBytes a 32)

/-- ENABLE of a directory entry (Table 2.2). -/
def dirEnable (e : List Byte) : Bool := bitOf (fldOf e 0 31 0) 0
/-- The number of homes R. -/
def dirHomes (e : List Byte) : Nat := fldOf e 0 2 1 + 1
/-- TIER: the weights rest in the Vault. -/
def dirTier (e : List Byte) : Bool := bitOf (fldOf e 0 31 0) 3
/-- HOME_j. -/
def dirHome (e : List Byte) (j : Nat) : Nat := fldOf e (4 + 4 * j) 11 0
/-- GROUP_j. -/
def dirGroup (e : List Byte) (j : Nat) : Nat := fldOf e (4 + 4 * j) 19 12

/-- Every tile of the expert is resident or being fetched (R118). -/
def Blocks.expertPresent (b : Blocks) (l e : Nat) : Bool :=
  let ts := b.expertTiles l e
  !ts.isEmpty && ts.all (fun i => b.resident i || b.fetching i || b.queued i)

/-- A hint at its home: queued, or discarded and counted (R116, R118). An expert whose weights rest in Tier 1 is present, and so is one
whose hint waits in the queue already: the first hint to arrive queues the fetch. Where several causes of a discard hold, the counter of
the first of these counts it, an order that the specification does not give: invalid, present, no live context, queue full (log entry
59). -/
def Dev.localHint (d : Dev) (l e : Nat) : Dev :=
  match d.dirEntry l e with
  | none => d.bump Reg.migCntHintInvalid 1
  | some ent =>
    if !dirEnable ent then d.bump Reg.migCntHintInvalid 1
    else if !dirTier ent || d.mig.hints.contains (l, e) || d.expertPresent l e then d.bump Reg.migCntHintPresent 1
    else if !d.ctxs.any (fun c => c.2.mode = .live) then d.bump Reg.migCntHintIdle 1
    else if 512 ≤ d.mig.hints.length then d.bump Reg.migCntHintFull 1
    else ({ d with mig := { d.mig with hints := d.mig.hints ++ [(l, e)] } }).bump Reg.migCntHintQueued 1

/-- The 64 bytes of a hint message (Table 4.5). -/
def hintBytes (l me : Nat) (es : List Nat) : List Byte :=
  padTo 64 (toLe 4 (l + es.length * 256) ++ toLe 4 me ++ es.flatMap (toLe 2))

/-- Hints for one remote home: messages of up to 28 experts, ascending (R116). -/
def Dev.sendHints (d : Dev) (l home : Nat) (es : List Nat) : Dev :=
  (chunks 28 (es.length + 1) es).foldl (fun d part => d.filSend 1 0 0 (hintBytes l d.me part) home) d

/-- The union of a VHINT, ascending, for a layer of `experts` experts (R116). An expert whose chosen HOME_j is no block index of the job block
is discarded and counted as invalid, a case that the specification does not name (log entry 59). -/
def Dev.takeHints (d : Dev) (l experts : Nat) (es : List Nat) : Dev :=
  let homeOf (e : Nat) : Option Nat :=
    if experts ≤ e then none else
    match d.dirEntry l e with
    | none => none
    | some ent =>
      let h := dirHome ent (d.me % dirHomes ent)
      if dirEnable ent && decide (h < d.blockN) then some h else none
  let d' := es.foldl (fun x e =>
    match homeOf e with
    | none => x.bump Reg.migCntHintInvalid 1
    | some h => if h = d.me then x.localHint l e else x) d
  (List.range d.blockN).foldl (fun x h =>
    if h = d.me then x else x.sendHints l h (es.filter (fun e => homeOf e = some h))) d'

/-- A hint message is well formed (Table 4.5). -/
def hintOk (m : FilMsg) : Bool :=
  let n := fldOf m.data 0 12 8
  m.data.length = 64 && 1 ≤ n && n ≤ 28 && fldOf m.data 0 31 13 = 0 && fldOf m.data 4 31 12 = 0 && fldOf m.data 4 11 0 = m.src &&
    (m.data.drop (8 + 2 * n)).all (· = 0)

/-- HINT_MESSAGE: the oldest hint message received becomes local hints, or one discard if it is malformed (R117, R118). -/
def Dev.hintMessage (d : Dev) : Dev :=
  match d.fil.rx.find? (fun m => m.typ = 1) with
  | none => d
  | some m =>
    let d : Dev := { d with fil := { d.fil with rx := d.fil.rx.erase m } }
    if !hintOk m then d.bump Reg.migCntHintInvalid 1
    else
      let l := fldOf m.data 0 7 0
      ((List.range (fldOf m.data 0 12 8)).map (fun i => fldOf m.data (8 + 2 * i) 15 0)).foldl
        (fun d e => if 16384 ≤ e then d.bump Reg.migCntHintInvalid 1 else d.localHint l e) d

/-- Meaning of HINT_MESSAGE. -/
def execHintMessage (s : State) : Host.Outcome State Fault Refusal := .next (s.onDev (s.dev.live Dev.hintMessage))

end Sys2Proof.Machine
end

