-- ==== Sys2Proof/Machine/Vector.lean ====
section
/-! DEFINITION. Vector operations on local memory (R93 to R96, R113, R114, R374): the common path of issue, checks and completion, and
the operations of Tables 3.9 and 4.4 that touch local memory alone. -/

namespace Sys2Proof.Machine

/-- A vector instruction of core p's program issues and completes at once: `run` does its work on each core of the stream in turn, as
long as no fault stops the stream (R78, R103). Every core of a gang runs the same instruction with the same fields; a fault found at issue is
recorded on the leader alone (log entry 88). -/
def Dev.vecRow (d : Dev) (p op : Nat) (ecc : Ecc) (run : Dev → Nat → Prog → VecInsn → Dev) : Dev :=
  d.onInsn p op ecc (fun d g bs =>
    let v := vecOf bs
    let r := d.vecRule p v
    match v.fault r with
    | some (code, loc) => d.insnFault p g g.pc code .v loc
    | none =>
      if d.hazard p .v g.pc (d.rangesOf p bs) then d
      else
        let c := g.errCore p ecc
        let d := d.countCorr c 0 { ecc with corrHbm := 0 }
        match ecc.badLocal.filter (fun x => meets (spansOf false r.spans) [(x, 1)]) with
        | some x => d.localFault c g g.pc 0x28 .v x
        | none =>
          let d := g.gang.foldl (fun d c => if (d.prog? p).isNone then d else run d c g v) d
          if (d.prog? p).isNone then d else d.passed p g g.gang)

/-- The result of an operation is written at DST, and enters the Hallmark with HM = 1 (R264). -/
def Dev.vecPut (d : Dev) (p : Nat) (g : Prog) (v : VecInsn) (bs : List Byte) : Dev :=
  let d := d.locWrite p v.dst bs
  if v.hm then d.hmPart g p g.order bs else d

/-- n 32-bit words of a core's local memory. -/
def Blocks.words (b : Blocks) (p a n : Nat) : List Nat := (List.range n).map (fun i => b.locNat p (a + 4 * i) 4)

/-- The bytes of 32-bit words. -/
def wordBytes (ws : List Nat) : List Byte := ws.flatMap (toLe 4)

/-- An operation of one source: f of each word. All sources are read before a result is written (log entry 32). -/
def Dev.vecUnary (d : Dev) (p op : Nat) (ecc : Ecc) (f : VecInsn → Nat → Nat) : Dev :=
  d.vecRow p op ecc (fun d c g v => d.vecPut c g v (wordBytes ((d.words c v.src1 v.count).map (f v))))

/-- An operation of two sources. -/
def Dev.vecBinary (d : Dev) (p op : Nat) (ecc : Ecc) (f : Nat → Nat → Nat) : Dev :=
  d.vecRow p op ecc (fun d c g v =>
    d.vecPut c g v (wordBytes (List.zipWith f (d.words c v.src1 v.count) (d.words c v.src2 v.count))))

/-- VFMA: fma(s1, s2, d), one rounding. -/
def Dev.vfma (d : Dev) (p : Nat) (ecc : Ecc) : Dev :=
  d.vecRow p 0x83 ecc (fun d c g v =>
    let xs := (d.words c v.src1 v.count).zip ((d.words c v.src2 v.count).zip (d.words c v.dst v.count))
    d.vecPut c g v (wordBytes (xs.map (fun x => ffma x.1 x.2.1 x.2.2))))

/-- VAXPY: d + (s2[0] × s1), two roundings. -/
def Dev.vaxpy (d : Dev) (p : Nat) (ecc : Ecc) : Dev :=
  d.vecRow p 0x84 ecc (fun d c g v =>
    let a := d.locNat c v.src2 4
    d.vecPut c g v (wordBytes (List.zipWith (fun x y => fadd y (fmul a x)) (d.words c v.src1 v.count) (d.words c v.dst v.count))))

/-- VRSUM and VRMAX (R95). -/
def Dev.vecReduce (d : Dev) (p op : Nat) (ecc : Ecc) (start : Nat) (f : Nat → Nat → Nat) : Dev :=
  d.vecRow p op ecc (fun d c g v =>
    d.vecPut c g v (toLe 4 (laneReduce v.count start (fun s i => f s (d.locNat c (v.src1 + 4 * i) 4)) f)))

/-- VDOT (R95): fused per lane; with SFMT = FP32R each input is rounded to 10 fraction bits first. -/
def Dev.vdot (d : Dev) (p : Nat) (ecc : Ecc) : Dev :=
  d.vecRow p 0x8F ecc (fun d c g v =>
    let x (a : Nat) : Nat := if v.sfmt = 0xB then fp32r (d.locNat c a 4) else d.locNat c a 4
    d.vecPut c g v (toLe 4 (laneReduce v.count 0 (fun s i => ffma (x (v.src1 + 4 * i)) (x (v.src2 + 4 * i)) s) fadd)))

/-- VCVT (R96): the exact value of each source element, converted once. -/
def Dev.vcvt (d : Dev) (p : Nat) (ecc : Ecc) : Dev :=
  d.vecRow p 0x90 ecc (fun d c g v =>
    d.vecPut c g v (packRow v.dfmt (unpackRow v.sfmt v.count (d.locRead c v.src1 (vecBytes v.sfmt v.count)))))

/-- The bytes of an index stream (Table 4.1). -/
def streamOf (klen : Nat) (gran : Bool) (vs : List Nat) : List Byte :=
  toLe 2 vs.length ++ toLe 2 klen ++ toLe 4 (b2n gran) ++ vs.flatMap (toLe 2) ++ toLe 2 0xFFFF

/-- An element keeps its block (R113): NaN, or a magnitude of at least IMM. -/
def selects (imm x : Nat) : Bool :=
  (f32 x).isNan || (!(f32 imm).isNan && !((f32 (x % 2 ^ 31)).lt (f32 imm)))

/-- VSEL (R113). -/
def Dev.vsel (d : Dev) (p : Nat) (ecc : Ecc) : Dev :=
  d.vecRow p 0x91 ecc (fun d c g v =>
    let keeps (blk : Nat) : Bool := (List.range 16).any (fun r =>
      (d.words c (v.src1 + 4 * (r * v.count + 32 * blk)) 32).any (selects v.imm))
    d.vecPut c g v (streamOf v.count true ((List.range (v.count / 32)).filter keeps)))

/-- Meaning of VCOPY. -/
def execVcopy (core : Nat) (ecc : Ecc) (s : State) : Host.Outcome State Fault Refusal :=
  .next (s.onDev (s.dev.live (fun d => d.vecUnary core 0x80 ecc (fun _ x => x))))
/-- Meaning of VADD. -/
def execVadd (core : Nat) (ecc : Ecc) (s : State) : Host.Outcome State Fault Refusal :=
  .next (s.onDev (s.dev.live (fun d => d.vecBinary core 0x81 ecc fadd)))
/-- Meaning of VMUL. -/
def execVmul (core : Nat) (ecc : Ecc) (s : State) : Host.Outcome State Fault Refusal :=
  .next (s.onDev (s.dev.live (fun d => d.vecBinary core 0x82 ecc fmul)))
/-- Meaning of VFMA. -/
def execVfma (core : Nat) (ecc : Ecc) (s : State) : Host.Outcome State Fault Refusal := .next (s.onDev (s.dev.live (fun d => d.vfma core ecc)))
/-- Meaning of VAXPY. -/
def execVaxpy (core : Nat) (ecc : Ecc) (s : State) : Host.Outcome State Fault Refusal := .next (s.onDev (s.dev.live (fun d => d.vaxpy core ecc)))
/-- Meaning of VMAX. -/
def execVmax (core : Nat) (ecc : Ecc) (s : State) : Host.Outcome State Fault Refusal :=
  .next (s.onDev (s.dev.live (fun d => d.vecBinary core 0x85 ecc fmax)))
/-- Meaning of VMIN. -/
def execVmin (core : Nat) (ecc : Ecc) (s : State) : Host.Outcome State Fault Refusal :=
  .next (s.onDev (s.dev.live (fun d => d.vecBinary core 0x86 ecc fmin)))
/-- Meaning of VSCALE. -/
def execVscale (core : Nat) (ecc : Ecc) (s : State) : Host.Outcome State Fault Refusal :=
  .next (s.onDev (s.dev.live (fun d => d.vecUnary core 0x87 ecc (fun v x => fmul x v.imm))))
/-- Meaning of VEXP. -/
def execVexp (core : Nat) (ecc : Ecc) (s : State) : Host.Outcome State Fault Refusal :=
  .next (s.onDev (s.dev.live (fun d => d.vecUnary core 0x88 ecc (fun _ x => fexp x))))
/-- Meaning of VRCP. -/
def execVrcp (core : Nat) (ecc : Ecc) (s : State) : Host.Outcome State Fault Refusal :=
  .next (s.onDev (s.dev.live (fun d => d.vecUnary core 0x89 ecc (fun _ x => frcp x))))
/-- Meaning of VRSQRT. -/
def execVrsqrt (core : Nat) (ecc : Ecc) (s : State) : Host.Outcome State Fault Refusal :=
  .next (s.onDev (s.dev.live (fun d => d.vecUnary core 0x8A ecc (fun _ x => frsqrt x))))
/-- Meaning of VSILU. -/
def execVsilu (core : Nat) (ecc : Ecc) (s : State) : Host.Outcome State Fault Refusal :=
  .next (s.onDev (s.dev.live (fun d => d.vecUnary core 0x8B ecc (fun _ x => fsilu x))))
/-- Meaning of VGELU. -/
def execVgelu (core : Nat) (ecc : Ecc) (s : State) : Host.Outcome State Fault Refusal :=
  .next (s.onDev (s.dev.live (fun d => d.vecUnary core 0x8C ecc (fun _ x => fgelu x))))
/-- Meaning of VRSUM. -/
def execVrsum (core : Nat) (ecc : Ecc) (s : State) : Host.Outcome State Fault Refusal :=
  .next (s.onDev (s.dev.live (fun d => d.vecReduce core 0x8D ecc 0 fadd)))
/-- Meaning of VRMAX. -/
def execVrmax (core : Nat) (ecc : Ecc) (s : State) : Host.Outcome State Fault Refusal :=
  .next (s.onDev (s.dev.live (fun d => d.vecReduce core 0x8E ecc 0xFF800000 fmax)))
/-- Meaning of VDOT. -/
def execVdot (core : Nat) (ecc : Ecc) (s : State) : Host.Outcome State Fault Refusal := .next (s.onDev (s.dev.live (fun d => d.vdot core ecc)))
/-- Meaning of VCVT. -/
def execVcvt (core : Nat) (ecc : Ecc) (s : State) : Host.Outcome State Fault Refusal := .next (s.onDev (s.dev.live (fun d => d.vcvt core ecc)))
/-- Meaning of VSEL. -/
def execVsel (core : Nat) (ecc : Ecc) (s : State) : Host.Outcome State Fault Refusal := .next (s.onDev (s.dev.live (fun d => d.vsel core ecc)))

end Sys2Proof.Machine
end

