-- ==== Sys2Proof/Machine/Transfers.lean ====
section
/-! DEFINITION. VLOAD, VSTORE, VSTOREF and VATOM over the parts of the device range (R127, R129, R230 to R237), their waits for tiles,
responses and invalidations, and their completion. -/

namespace Sys2Proof.Machine

/-- The quadrant of a core. -/
def quadOf (p : Nat) : Nat := p / 144

/-- A range cut at the boundaries of a size: offset in the range and length of each piece. -/
def cutAt (size a : Nat) : Nat → Nat → Nat → List (Nat × Nat)
  | _, 0, _ => []
  | _, _, 0 => []
  | at_, left, fuel + 1 =>
    let n := min left (size - (a + at_) % size)
    (at_, n) :: cutAt size a (at_ + n) (left - n) fuel

/-- The tiles of a range that are not resident; none outside the tiered part. -/
def Blocks.awayTiles (b : Blocks) (a n : Nat) : List Nat :=
  if n = 0 || partOf a ≠ .tiered then [] else (tilesOf a n).filter (fun i => !b.resident i)

/-- The code that an access of a core to a direct or tiered range faults with before anything moves, and the address. -/
def Blocks.coreCheck (b : Blocks) (a n : Nat) : Option (Nat × Nat) := if n = 0 then none else b.engineCheck a n

/-! Direct and resident pieces. -/

/-- Bytes of a resident piece move to local memory. -/
def Dev.loadPiece (d : Dev) (c a n local_ : Nat) : Dev :=
  let bs := d.devRead a n
  (d.devTake a n (some (quadOf c))).locWrite c local_ bs

/-- Local bytes move to a resident piece. -/
def Dev.storePieceOf (d : Dev) (c order a n local_ : Nat) : Dev :=
  d.coreStore (c, order) a (d.locRead c local_ n) (some (quadOf c))

/-- An atomic of Table 9.7 at a resident address: the operand slots at SRC1, the old value to DST as 8 bytes. -/
def Dev.atomPiece (d : Dev) (c order : Nat) (v : VecInsn) : Dev :=
  let n := atomicBytes v.imm
  let old := d.devNat v.dev n
  let operand := d.locNat c v.src1 n
  let swap := d.locNat c (v.src1 + 8) n
  let d := d.devTake v.dev n (some (quadOf c))
  let d := match atomicNew (v.imm % 8) (8 * n) operand swap old with
    | some x => d.coreStore (c, order) v.dev (toLe n x) (some (quadOf c))
    | none => d
  d.locWrite c v.dst (toLe 8 old)

/-- The pieces of an access that lie in tiles of a list, or all of a direct access, are served (R127, R129). -/
def Dev.servePieces (d : Dev) (c order : Nat) (v : VecInsn) (here : Nat → Bool) : Dev :=
  if v.op = 0x96 then (if here ((v.dev - tieredBase) / tileBytes) then d.atomPiece c order v else d)
  else
    (cutAt tileBytes v.dev 0 v.count (v.count / tileBytes + 2)).foldl (fun d pn =>
      let a := v.dev + pn.1
      if !here ((a - tieredBase) / tileBytes) then d
      else if v.op = 0x98 then d.loadPiece c a pn.2 (v.dst + pn.1)
      else d.storePieceOf c order a pn.2 (v.src1 + pn.1)) d

/-- A direct or tiered access of a core: what is resident moves at once, the rest is fetched at class 0 (R129). -/
def Dev.tierAccess (d : Dev) (c order : Nat) (v : VecInsn) (n : Nat) : Dev :=
  let away := d.awayTiles v.dev n
  let d := if away.isEmpty then d else d.miss v.dev n
  d.servePieces c order v (fun i => !away.contains i)

/-! Remote pieces (R230 to R236). -/

/-- The request of a core's program for part of a remote range. -/
def remoteReq (c : Nat) (g : Prog) (mop aop home off len local_ : Nat) (data : List Byte) : RemoteReq :=
  { core := c, slot := 0, ctx := g.ctx, home := home, seq := 0, mop := mop, aop := aop, off := off, len := len, local_ := local_,
    order := g.order, pc := g.devPc g.pc, data := data }

/-- Send a request to the home of a remote range (R231). -/
def Dev.request (d : Dev) (c : Nat) (g : Prog) (mop aop home off len local_ : Nat) (data : List Byte) : Dev :=
  (d.addReqs [remoteReq c g mop aop home off len local_ data]).countEvent c 0xF g.ctx 1

/-- How an access to this device's own block index is met (R230): served at once, sent as a request to the own home because a tile is away
or a line is shared, or failed as a home fails it. -/
inductive OwnAccess where
  | here
  | sent
  | failed
  deriving DecidableEq, Repr

/-- An access to this device's own block index under the rules of a home (R230, R232): a fault's code is logged as a home logs it. -/
def Dev.ownAccess (d : Dev) (off n : Nat) (store : Bool) : OwnAccess × Dev :=
  let a := d.rd Reg.memExportBase + off
  if d.mountFmt = 0 || !d.flag Reg.memCtrl 0 || decide (d.exportBytes < off + n) then (.failed, d)
  else match d.engineCheck a n with
    | some (code, x) => (.failed, d.homeFault code x)
    | none =>
      let held := if store then !(d.sharedLines a n).isEmpty else (linesOf off n).any (fun l => !(d.askedOf l).isEmpty)
      (if d.allResident a n && !held then .here else .sent, d)

/-- A piece of a load: from this device's own window, from the line cache, from a replica, or by a request. -/
def Dev.remoteLoad (d : Dev) (c : Nat) (g : Prog) (addr n local_ : Nat) : Dev :=
  let (b, o) := remoteOf addr
  if b = d.me then
    match d.ownAccess o n false with
    | (.here, d) =>
      let a := d.rd Reg.memExportBase + o
      (d.devTake a n none).locWrite c local_ (d.devRead a n)
    | (.sent, d) => d.request c g 0 0 b o n local_ []
    | (.failed, d) => d.deviceFault c g g.pc 0x93 addr
  else match d.cachedLoad b o n with
    | some bs => d.locWrite c local_ bs
    | none =>
      match d.servingReplica b o n with
      | some r =>
        let a := r.frame * 65536 + o % 65536
        let bs := d.dirRead a n
        ((d.countHbm a n false none).bump Reg.memCntReplHit 1).locWrite c local_ bs
      | none => d.request c g 0 0 b o n local_ []

/-- A piece of a store, flagged or not. -/
def Dev.remoteStore (d : Dev) (c : Nat) (g : Prog) (mop addr n local_ : Nat) : Dev :=
  let (b, o) := remoteOf addr
  let bs := d.locRead c local_ n
  if b = d.me then
    match d.ownAccess o n true with
    | (.here, d) => d.devStore (d.rd Reg.memExportBase + o) bs none
    | (.sent, d) => d.request c g mop 0 b o n local_ bs
    | (.failed, d) => d.deviceFault c g g.pc 0x93 addr
  else d.request c g mop 0 b o n local_ bs

/-- A remote VLOAD, VSTORE or VSTOREF, cut at 128-byte boundaries (R231); a block index of N or more faults before anything moves. -/
def Dev.remoteAccess (d : Dev) (c : Nat) (g : Prog) (v : VecInsn) : Dev :=
  let pieces := cutAt 128 v.dev 0 v.count (v.count / 128 + 2)
  match pieces.find? (fun pn => decide (d.blockN ≤ (remoteOf (v.dev + pn.1)).1)) with
  | some pn => d.deviceFault c g g.pc 0x91 (v.dev + pn.1)
  | none =>
    pieces.foldl (fun d pn =>
      if (d.ctx g.ctx).mode ≠ .live then d
      else if v.op = 0x98 then d.remoteLoad c g (v.dev + pn.1) pn.2 (v.dst + pn.1)
      else d.remoteStore c g (if v.op = 0x9A then 2 else 1) (v.dev + pn.1) pn.2 (v.src1 + pn.1)) d

/-- A VATOM at a remote address (R231), or at an address of this device's window whose lines are shared: a request to its home. -/
def Dev.atomRequest (d : Dev) (c : Nat) (g : Prog) (v : VecInsn) (home off : Nat) : Dev :=
  d.request c g 3 (v.imm % 16) home off (atomicBytes v.imm) v.dst (d.locRead c v.src1 (if v.imm % 8 = 2 then 16 else 8))

/-- A remote VATOM. -/
def Dev.remoteAtom (d : Dev) (c : Nat) (g : Prog) (v : VecInsn) : Dev :=
  let (b, o) := remoteOf v.dev
  if d.blockN ≤ b then d.deviceFault c g g.pc 0x91 v.dev
  else if b ≠ d.me then d.atomRequest c g v b o
  else
    match d.ownAccess o (atomicBytes v.imm) true with
    | (.here, d) => d.atomPiece c g.order { v with dev := d.rd Reg.memExportBase + o }
    | (.sent, d) => d.atomRequest c g v b o
    | (.failed, d) => d.deviceFault c g g.pc 0x93 v.dev

/-! The instructions. -/

/-- An uncorrectable HBM error met by an access of n bytes, as a direct address. -/
def Blocks.hbmError (b : Blocks) (a n : Nat) (ecc : Ecc) : Option Nat :=
  if partOf a = .remote ∨ n = 0 then none else
  ecc.badHbm.filter (fun x => (cutAt 4096 a 0 n (n / 4096 + 2)).any (fun pn =>
    b.allResident (a + pn.1) pn.2 && overlaps (b.resolve (a + pn.1)) pn.2 x 1))

/-- One core's access. -/
def Dev.memAccess (d : Dev) (c : Nat) (g : Prog) (v : VecInsn) (ecc : Ecc) : Dev :=
  let n := v.devLen
  if n = 0 then d else
  match d.coreCheck v.dev n with
  | some (code, x) => d.deviceFault c g g.pc code x
  | none =>
    match d.hbmError v.dev n ecc with
    | some x => d.deviceFault c g g.pc 0x45 x
    | none =>
      let d := d.countEvent c (if v.op = 0x98 then 0xD else if v.op = 0x96 then 0 else 0xE) g.ctx n
      if partOf v.dev = .remote then (if v.op = 0x96 then d.remoteAtom c g v else d.remoteAccess c g v)
      else if v.op = 0x96 && !(d.sharedLines v.dev n).isEmpty then d.atomRequest c g v d.me (v.dev - d.rd Reg.memExportBase)
      else d.tierAccess c g.order v n

/-- Nothing remote holds an instruction on any core of its stream. -/
def Blocks.settled (b : Blocks) (gang : List Nat) (order : Nat) : Bool := gang.all (fun c => !b.remoteBusy c order)

/-- Local bytes that a completed load or atomic adds to the Hallmark. -/
def Dev.hmLoaded (d : Dev) (g : Prog) (order : Nat) (v : VecInsn) : Dev :=
  if !v.hm || (v.op ≠ 0x98 && v.op ≠ 0x96) then d
  else g.gang.foldl (fun d c => d.hmPart g c order (d.locRead c v.dst (if v.op = 0x96 then 8 else v.count))) d

/-- VLOAD, VSTORE, VSTOREF and VATOM: every core of the stream makes its access; the instruction completes at once, or waits in the
scoreboard for tiles, responses or invalidations. -/
def Dev.memRow (d : Dev) (p op : Nat) (ecc : Ecc) : Dev :=
  d.onInsn p op ecc (fun d g bs =>
    let v := vecOf bs
    match v.fault (d.vecRule p v) with
    | some (code, loc) => d.insnFault p g g.pc code .v loc
    | none =>
      let r := d.rangesOf p bs
      if d.hazard p .v g.pc r then d
      else
        let c := g.errCore p ecc
        let d := d.countCorr c 0 { ecc with corrHbm := 0 }
        let d := if v.devLen = 0 || partOf v.dev = .remote then d else d.countEcc v.dev ecc.corrHbm
        match ecc.badLocal.filter (fun x => meets r.reads [(x, 1)]) with
        | some x => d.localFault c g g.pc 0x28 .v x
        | none =>
          let stored := if v.hm && (op = 0x99 || op = 0x9A) then
              g.gang.foldl (fun d c => d.hmPart g c g.order (d.locRead c v.src1 v.count)) d else d
          let d := g.gang.foldl (fun d c => if (d.prog? p).isNone then d else d.memAccess c g v ecc) stored
          if (d.prog? p).isNone then d
          else
            let away := d.awayTiles v.dev v.devLen
            if away.isEmpty && d.settled g.gang g.order then (d.hmLoaded g g.order v).passed p g g.gang
            else d.enter p g .v g.gang
              { slot := .v, pc := g.pc, order := g.order, insn := bs, reads := r.reads, writes := r.writes, devReads := r.devReads,
                devWrites := r.devWrites, pend := if away.isEmpty then .remote else .tiles away })

/-- An entry whose tiles have all come and which nothing remote holds completes. -/
def Dev.tryComplete (d : Dev) (p : Nat) (i : Issued) : Dev :=
  match d.prog? p with
  | none => d
  | some g =>
    let over_ := match i.pend with
      | .tiles ts => ts.isEmpty
      | .remote => true
      | _ => false
    if over_ && d.settled g.gang i.order then (d.hmLoaded g i.order (vecOf i.insn)).complete p i.order g.gang else d

/-- The cores on which a program runs. -/
def Blocks.busyCores (b : Blocks) : List Nat := b.coresWhere (fun c => c.prog.isSome)

/-- Complete what no longer waits, core by core in issue order. -/
def Dev.progress (d : Dev) : Dev :=
  d.busyCores.foldl (fun d p =>
    match d.prog? p with
    | none => d
    | some g => g.score.foldl (fun d i => d.tryComplete p i) d) d

/-- Meaning of VLOAD. -/
def execVload (core : Nat) (ecc : Ecc) (s : State) : Host.Outcome State Fault Refusal :=
  .next (s.onDev (s.dev.live (fun d => d.memRow core 0x98 ecc)))
/-- Meaning of VSTORE. -/
def execVstore (core : Nat) (ecc : Ecc) (s : State) : Host.Outcome State Fault Refusal :=
  .next (s.onDev (s.dev.live (fun d => d.memRow core 0x99 ecc)))
/-- Meaning of VSTOREF. -/
def execVstoref (core : Nat) (ecc : Ecc) (s : State) : Host.Outcome State Fault Refusal :=
  .next (s.onDev (s.dev.live (fun d => d.memRow core 0x9A ecc)))
/-- Meaning of VATOM. -/
def execVatom (core : Nat) (ecc : Ecc) (s : State) : Host.Outcome State Fault Refusal :=
  .next (s.onDev (s.dev.live (fun d => d.memRow core 0x96 ecc)))

end Sys2Proof.Machine
end

