-- ==== Sys2Proof/Machine/CoreRows.lean ====
section
/-! DEFINITION. The instructions that reach units beside the core: VALLOC, VFREE, VCOUNT, CLWAIT, VKEEP and VHINT (R113, R114, R155,
R254, R339). -/

namespace Sys2Proof.Machine

/-! Pools (R155, R156). -/

/-- VALLOC: HM = 1 is code 0x21 (R264); the pointer, or 0, is written as 8 bytes. -/
def Dev.valloc (d : Dev) (p : Nat) (ecc : Ecc) : Dev :=
  d.vecRow p 0x94 ecc (fun d c g v =>
    match d.userAlloc g.ctx v.count v.imm (g.devPc g.pc) with
    | .inl (code, addr) => d.deviceFault c g g.pc code addr
    | .inr (ptr, d) => d.locWrite c v.dst (toLe 8 ptr))

/-- VFREE: IMM other than zero is code 0x56; then the checks of R156 on the pointer at SRC1. -/
def Dev.vfree (d : Dev) (p : Nat) (ecc : Ecc) : Dev :=
  d.vecRow p 0x95 ecc (fun d c g v =>
    if v.imm ≠ 0 then d.deviceFault c g g.pc 0x56 (g.devPc g.pc)
    else
      let ptr := d.locNat c v.src1 8
      match d.checkFree ptr (some g.ctx) with
      | .inl code => d.deviceFault c g g.pc code ptr
      | .inr (k, n) => d.freeBuf k n)

/-! Counters (R334, R339). -/

/-- CORE_CNT_CYCLE of a core: three core cycles to two hub cycles (Table 1.5), while the clock of its cluster runs (R334). -/
def Blocks.coreCycles (b : Blocks) (p : Nat) : Nat :=
  let lost := tabGet 0 b.glb.lostAt (clusterOf p)
  (if lost = 0 then b.glb.hubNow else lost - 1) * 3 / 2

/-- Issue slots that hold an incomplete instruction and have no class yet (R337). -/
def Blocks.openSlots (b : Blocks) (p : Nat) : Nat :=
  sumBy (fun e => match e.2.prog with
    | some g => (g.score.filter (fun i => if i.slot = .m then e.1 = p else g.gang.contains p)).length
    | none => 0) b.cores

/-- CORE_CNT_TD_FRONT: the slots of R337 that fall in no other class, modulo 2^64. Slots that issues used ahead of the cycles counted so far
(log entry 7) belong to cycles still to come. -/
def Blocks.frontSlots (b : Blocks) (p : Nat) : Nat :=
  let others := b.rd (Reg.coreCntTdRetired p) + b.rd (Reg.coreCntTdWasted p) + b.rd (Reg.coreCntTdBack p) + b.openSlots p
  (2 * b.coreCycles p + (b.core p).owed + 2 ^ 66 - others % 2 ^ 64) % 2 ^ 64

/-- The value of a register of R334 or a CORE_PMCi at an offset; none for any other offset. -/
def Blocks.counterAt (b : Blocks) (off : Nat) : Option Nat :=
  match regAt off with
  | none => none
  | some (r, i, _) =>
    if r.name = "CORE_CNT_CYCLE" then some (b.coreCycles i % 2 ^ 64)
    else if r.name = "CORE_CNT_TD_FRONT" then some (b.frontSlots i)
    else if r.cls = .counter ∨ r.name = "CORE_PMC" then some (b.rd off)
    else none

/-- The BAR0 offset that VCOUNT names on core c. -/
def countOffset (c : Nat) (v : VecInsn) : Nat := if bitOf v.imm 31 then 0x08000000 + c * 0x10000 + bitsOf v.imm 15 0 else bitsOf v.imm 27 0

/-- VCOUNT (R339): code 0x2D without PERF_ACCESS, then 0x2E for an offset that names no counter. -/
def Dev.vcount (d : Dev) (p : Nat) (ecc : Ecc) : Dev :=
  d.vecRow p 0x9B ecc (fun d c g v =>
    if !d.flag Reg.glbCtxPerf g.ctx then d.insnFault c g g.pc 0x2D .v 0
    else match d.counterAt (countOffset c v) with
      | none => d.insnFault c g g.pc 0x2E .v 0
      | some x => d.locWrite c v.dst (toLe 8 x))

/-! CLWAIT (R254). -/

/-- The status that CLWAIT writes for a Clasp: 0 ON_TIME, 1 LATE, 2 FAIL. -/
def claspClosedStatus (st : Nat) : Nat := if st = 2 then 2 else 1

/-- Clasp n is open on this device, or its arrival waits for a place. -/
def Blocks.claspHere (b : Blocks) (n : Nat) : Bool := b.tb.clasps.any (fun c => c.n = n) || b.tb.claspQueue.any (fun q => q.1 = n)

/-- CLWAIT issues: for one of the last 16 Clasps closed it completes at once, else it waits from this stroke on. -/
def Dev.clwait (d : Dev) (p : Nat) (ecc : Ecc) : Dev :=
  d.onInsn p 2 ecc (fun d g bs =>
    let v := vecOf bs
    match v.fault (d.vecRule p v) with
    | some (code, loc) => d.insnFault p g g.pc code .v loc
    | none =>
      if d.hazard p .v g.pc (d.rangesOf p bs) then d
      else
        match (if d.claspHere v.imm then none else d.tb.claspClosed.find? (fun e => e.1 = v.imm)) with
        | some e => (g.gang.foldl (fun d c => d.locWrite c v.dst (toLe 4 (claspClosedStatus e.2))) d).passed p g g.gang
        | none =>
          d.enter p g .v g.gang
            { slot := .v, pc := g.pc, order := g.order, insn := bs, reads := [], writes := [(v.dst, 4)], pend := .clasp v.imm d.stroke })

/-- The instruction is a CLWAIT for Clasp n. -/
def Issued.waitsClasp (i : Issued) (n : Nat) : Bool :=
  match i.pend with
  | .clasp m _ => m = n
  | _ => false

/-- The CLWAITs of a program that wait for Clasp n complete with a status. -/
def Dev.endClwaits (d : Dev) (p n st : Nat) : Dev :=
  match d.prog? p with
  | none => d
  | some g =>
    (g.score.filter (fun i => i.waitsClasp n)).foldl (fun d i =>
      (g.gang.foldl (fun d c => d.locWrite c (vecOf i.insn).dst (toLe 4 st)) d).complete p i.order g.gang) d

/-- Clasp n has released or failed here: every CLWAIT for it completes. -/
def Dev.clwaitDone (d : Dev) (n st : Nat) : Dev := d.busyCores.foldl (fun d p => d.endClwaits p n st) d

/-- CLWAIT_TIMEOUT: a CLWAIT for which no CLASP has arrived ends TB_CLASP_CFG.TIMEOUT strokes after its issue, with status 2 (R254). -/
def Dev.clwaitTimeout (d : Dev) (p : Nat) : Dev :=
  match d.prog? p with
  | none => d
  | some g =>
    g.score.foldl (fun d i =>
      match i.pend with
      | .clasp n since => if d.claspHere n || decide (d.stroke < since + d.fld Reg.tbClaspCfg 31 8) then d else d.endClwaits p n 2
      | _ => d) d

/-! VKEEP and VHINT (R113 to R116). -/

/-- The mask of R113: bit t for each listed coordinate v with ⌊32 × v ÷ COUNT⌋ = t; the address of a coordinate whose t is 256 or
more. -/
def keepMask (count addr : Nat) : List Nat → Nat → BitVec 256 → Nat ⊕ BitVec 256
  | [], _, m => .inr m
  | v :: vs, i, m =>
    let t := 32 * v / count
    if 256 ≤ t then .inl (addr + 8 + 2 * i) else keepMask count addr vs (i + 1) (m ||| (1 <<< t))

/-- VKEEP: the stream is checked against its own KLEN at block granule (log entry 31); all of CORE_KEEP is written. -/
def Dev.vkeep (d : Dev) (p : Nat) (ecc : Ecc) : Dev :=
  d.vecRow p 0x92 ecc (fun d c g v =>
    match d.stream c v.src1 (d.locNat c (v.src1 + 2) 2) true none with
    | .inl (code, loc) => d.localFault c g g.pc code .v loc
    | .inr vs =>
      match keepMask v.count v.src1 vs 0 0 with
      | .inl loc => d.localFault c g g.pc 0x2B .v loc
      | .inr m => d.modCore c (fun x => { x with keep := m }))

/-- Higher raw value first, equal values by lower expert number; the two zeros are equal (R45). -/
def hintBefore (x y : Nat × Nat) : Bool := (f32 y.2).lt (f32 x.2) || (!(f32 x.2).lt (f32 y.2) && decide (x.1 < y.1))

/-- The first k experts of a row; none if its largest value is -Inf or NaN. -/
def hintRow (k : Nat) (row : List Nat) : List Nat :=
  if row.any (fun x => (f32 x).isNan) || row.all (fun x => x = 0xFF800000) then []
  else ((sortBy hintBefore ((List.range row.length).zip row)).take k).map (·.1)

/-- VHINT: the union over 16 rows, ascending, goes to the migration engine. -/
def Dev.vhint (d : Dev) (p : Nat) (ecc : Ecc) : Dev :=
  d.vecRow p 0x93 ecc (fun d c _ v =>
    let rows := (List.range 16).flatMap (fun r => hintRow v.imm (d.words c (v.src1 + 4 * r * v.count) v.count))
    d.takeHints v.dev v.count ((List.range v.count).filter rows.contains))

/-- Meaning of VALLOC. -/
def execValloc (core : Nat) (ecc : Ecc) (s : State) : Host.Outcome State Fault Refusal := .next (s.onDev (s.dev.live (fun d => d.valloc core ecc)))
/-- Meaning of VFREE. -/
def execVfree (core : Nat) (ecc : Ecc) (s : State) : Host.Outcome State Fault Refusal := .next (s.onDev (s.dev.live (fun d => d.vfree core ecc)))
/-- Meaning of VCOUNT. -/
def execVcount (core : Nat) (ecc : Ecc) (s : State) : Host.Outcome State Fault Refusal := .next (s.onDev (s.dev.live (fun d => d.vcount core ecc)))
/-- Meaning of CLWAIT. -/
def execClwait (core : Nat) (ecc : Ecc) (s : State) : Host.Outcome State Fault Refusal := .next (s.onDev (s.dev.live (fun d => d.clwait core ecc)))
/-- Meaning of CLWAIT_TIMEOUT. -/
def execClwaitTimeout (core : Nat) (s : State) : Host.Outcome State Fault Refusal :=
  .next (s.onDev (s.dev.live (fun d => d.clwaitTimeout core)))
/-- Meaning of VKEEP. -/
def execVkeep (core : Nat) (ecc : Ecc) (s : State) : Host.Outcome State Fault Refusal := .next (s.onDev (s.dev.live (fun d => d.vkeep core ecc)))
/-- Meaning of VHINT. -/
def execVhint (core : Nat) (ecc : Ecc) (s : State) : Host.Outcome State Fault Refusal := .next (s.onDev (s.dev.live (fun d => d.vhint core ecc)))

end Sys2Proof.Machine
end

