-- ==== Sys2Proof/Machine/Arrivals.lean ====
section
/-! DEFINITION. What ends the waits of accesses: responses of homes and their timeouts, injections, invalidations, tile fetches, and
the loss of a vault link (R129 to R131, R143, R149, R232 to R236). -/

namespace Sys2Proof.Machine

/-! Responses (R231, R232). -/

/-- The device address that a request names (R230). -/
def reqAddr (r : RemoteReq) : Nat := 2 ^ 47 + r.home * 2 ^ 35 + r.off

/-- A request fails: a fault of its core in its context, whether its program still runs or has ended (R232, R234, Table 9.13). -/
def Dev.reqFault (d : Dev) (r : RemoteReq) (code : Nat) : Dev := d.coreFault r.core r.ctx code 1 r.pc 0 (reqAddr r) 1

/-- The outstanding requests without one. -/
def Dev.dropReq (d : Dev) (r : RemoteReq) : Dev := d.setReqs (d.remote.reqs.erase r)

/-- The sent request that a response answers: its core and slot by END_TAG, its home and SEQ. -/
def Blocks.answered (b : Blocks) (c : Cell) (h : List Byte) : Option RemoteReq :=
  b.remote.reqs.find? (fun r => r.sent && r.core = bitsOf c.endTag.toNat 9 0 && r.slot = bitsOf c.endTag.toNat 37 32 &&
    r.seq = fldOf h 4 15 0 && r.home = b.indexOf (placeOf c.src.toNat))

/-- An answered request takes effect at its requester. -/
def Dev.takeAnswer (d : Dev) (r : RemoteReq) (h bs : List Byte) : Dev :=
  let status := fldOf h 0 26 24
  let page := r.off / 65536
  if r.core = 576 then
    if status ≠ 0 then d.dropFetch r.home page else (d.dirWrite r.local_ (bs.take r.len)).countHbm r.local_ r.len true none
  else if status ≠ 0 then d.reqFault r 0x93
  else
    match r.mop with
    | 0 =>
      let d := d.locWrite r.core r.local_ (bs.take r.len)
      let d := if d.inOctet r.home then d.cacheLines r.home r.off (bs.take r.len) else d
      if bitOf (fldOf h 0 31 0) 27 then d.beginReplica r.home page (fldOf h 4 31 16) r.ctx else d
    | 3 => d.locWrite r.core r.local_ (padTo 8 (bs.take 8))
    | _ => d

/-- The slot is free again: waiting requests may go out. -/
def Dev.pumped (d : Dev) : Dev := d.pumpReqs d.remote.reqs.length

/-- A response to a request; one whose slot is free is discarded. -/
def Dev.response (d : Dev) (c : Cell) (h : List Byte) : Dev :=
  match d.answered c h with
  | none => d
  | some r => (((d.dropReq r).takeAnswer r h c.data).pumped).progress

/-- MEM_RESPONSE: the oldest response at the requester quadrants, else the oldest answer to an invalidate request at the memory
endpoint (R232, R233). -/
def Dev.memResponse (d : Dev) : Dev :=
  match d.router.respIn with
  | c :: rest =>
    let d : Dev := { d with router := { d.router with respIn := rest } }
    match c.memExt with
    | some h => if fldOf h 0 11 8 = 4 then d.response c h else d
    | none => d
  | [] =>
    match d.takeMem [4] with
    | none => d
    | some (c, h, d) => (d.sharerDone (fldOf h 8 47 0 / 64) (d.indexOf (placeOf c.src.toNat))).progress

/-- MEM_TIMEOUT: a request sent and unanswered for MEM_TIMEOUT strokes (R232). -/
def Dev.reqTimeout (d : Dev) (core slot : Nat) : Dev :=
  match d.remote.reqs.find? (fun r => r.sent && r.core = core && r.slot = slot) with
  | none => d
  | some r =>
    let d := d.dropReq r
    let d := if r.core = 576 then d.dropFetch r.home (r.off / 65536) else d.reqFault r 0x94
    d.pumped.progress

/-! Tile fetches (R129 to R131). -/

/-- The part of an instruction's access that lies in a tile that has come is served on every core of the stream. -/
def Dev.serveTile (d : Dev) (p : Nat) (i : Issued) (t : Nat) (ecc : Ecc) : Dev :=
  match d.prog? p with
  | none => d
  | some g =>
    match i.pend with
    | .tiles ts =>
      if !ts.contains t then d else
      let v := vecOf i.insn
      let lo := max v.dev (tieredBase + t * tileBytes)
      let n := min (v.dev + v.devLen) (tieredBase + (t + 1) * tileBytes) - lo
      match (d.failedAt (d.resolve lo) n).or (d.hbmError lo n ecc) with
      | some x => d.deviceFault p g i.pc 0x45 x
      | none =>
        let d := g.gang.foldl (fun d c => d.servePieces c i.order v (fun k => k = t)) d
        let i' : Issued := { i with pend := .tiles (ts.filter (· ≠ t)) }
        (d.modProg p (fun g => { g with score := updWhere (fun x => x.order = i.order) (fun _ => i') g.score })).tryComplete p i'
    | _ => d

/-- Every entry of a core's scoreboard, in issue order. -/
def Dev.overScore (d : Dev) (f : Dev → Nat → Issued → Dev) : Dev :=
  d.busyCores.foldl (fun d p =>
    match d.prog? p with
    | none => d
    | some g => g.score.foldl (fun d i => f d p i) d) d

/-- A waiting access of a core that needs tile t faults; the address is the first byte of the access in the tile. -/
def Dev.tileFault (d : Dev) (code t p : Nat) (i : Issued) : Dev :=
  match d.prog? p, i.pend with
  | some g, .tiles ts =>
    if ts.contains t then d.deviceFault p g i.pc code (max (vecOf i.insn).dev (tieredBase + t * tileBytes)) else d
  | _, _ => d

/-- Parts of waiting accesses of engines whose tile a test selects end with a fault code, which the command meets when it acts again; one of
the device's own tables is logged and dropped (R143, R131). -/
def Dev.partFaults (d : Dev) (code : Nat) (bad : Nat → Bool) : Dev :=
  let hit (p : WaitPart) : Bool := p.st = .waiting && partOf p.addr = .tiered && bad (tileOf p.addr)
  let lost := ((d.mig.stalls.filter (fun s => s.cmd.isNone)).flatMap (fun s => s.parts)).filter hit
  let mark (s : Stall) : Stall := { s with parts := updWhere hit (fun p => { p with st := .bad code }) s.parts }
  let d := lost.foldl (fun d p => d.log { code := code, domain := 35, addr := p.addr, kind := 1 }) d
  { d with mig := { d.mig with stalls := d.mig.stalls.map mark } }.serveStalls

/-- VAULT_FETCH_COMPLETE: the fetch that runs on a port ends. Its tile is resident and its waiting accesses are served, those of engines first;
if it read poison the frame is freed and each of them faults with 0x43. -/
def Dev.vaultFetchComplete (d : Dev) (n : Nat) (poison : Bool) (ecc : Ecc) : Dev :=
  if 2 ≤ n then d else
  match (d.vport n).running with
  | none => d
  | some x =>
    if x.writeback then d
    else if poison || d.mig.poisoned.contains x.tile then
      ((d.fetchPoisoned n x).overScore (fun d p i => d.tileFault 0x43 x.tile p i)).partFaults 0x43 (· = x.tile)
    else
      let d := ((d.fetchDone n x).countEcc (tieredBase + x.tile * tileBytes) ecc.corrHbm).serveStalls
      d.overScore (fun d p i => d.serveTile p i x.tile ecc)

/-! Vault links (R30, R143). -/

/-- Every access that waits for a tile of port n that no fetch in flight brings faults with 0x44 (R143). -/
def Dev.portFaults (d : Dev) (n : Nat) : Dev :=
  let bad (b : Blocks) (t : Nat) : Bool := (b.vaultOf t).1 = n && !b.resident t && !b.fetching t
  let d := d.overScore (fun d p i =>
    match i.pend with
    | .tiles ts =>
      match ts.find? (bad d.toBlocks) with
      | some t => d.tileFault 0x44 t p i
      | none => d
    | _ => d)
  d.partFaults 0x44 (bad d.toBlocks)

/-- The transfer that runs on a port is given up, and its queue dropped: the expander has lost its contents (R143). A fetch's frame is freed;
a write-back's tile stays resident and dirty. -/
def Dev.abortTransfers (d : Dev) (n : Nat) : Dev :=
  let d := match (d.vport n).running with
    | none => d
    | some x => if x.writeback then ((d.tdirBit x.tile 3 0).tdirBit x.tile 4 0).tdirBit x.tile 1 1 else d.freeFrame (d.frameOf x.tile)
  d.modVport n (fun v => { v with running := none, queue := [] })

/-- The loss of lock of a domain that has locked is recorded; its lock bit falls (R31, R32). -/
def Dev.clockDown (d : Dev) (dom : Nat) : Dev :=
  let d := d.wrFld Reg.glbClkLock dom dom 0
  if d.glb.lockedOnce.contains dom then d.wrFld Reg.glbClkLoss dom dom 1 else d

/-- A domain locks. -/
def Dev.clockUp (d : Dev) (dom : Nat) : Dev :=
  let d := d.wrFld Reg.glbClkLock dom dom 1
  if d.glb.lockedOnce.contains dom then d else { d with glb := { d.glb with lockedOnce := d.glb.lockedOnce ++ [dom] } }

/-- The link of a vault port goes down: LINK_UP, rate and width fall, transfers of the port stop, and accesses that need a fetch from it fault
(R143). -/
def Dev.vaultLinkDown (d : Dev) (n : Nat) : Dev :=
  if 2 ≤ n || !d.vaultUp n then d else
  (((d.wrFld (Reg.vltPortStatus n) 8 0 0).clockDown (56 + n)).clockDown (58 + n)).portFaults n

/-- Meaning of MEM_TIMEOUT. -/
def execMemTimeout (core slot : Nat) (s : State) : Host.Outcome State Fault Refusal :=
  .next (s.onDev (s.dev.live (fun d => d.reqTimeout core slot)))

/-- Meaning of CELL_INJECT. -/
def execCellInject (port slot : Nat) (s : State) : Host.Outcome State Fault Refusal :=
  .next (s.onDev (s.dev.live (fun d => (d.cellInject port slot).progress)))

end Sys2Proof.Machine
end

