-- ==== Sys2Proof/Machine/Filter.lean ====
section
/-! DEFINITION. Taking a Filigree message that has arrived: duplicates and stale messages (R227), and messages that wait for their
round (R228). -/

namespace Sys2Proof.Machine

/-- FIL_DUP_HOLD. -/
def Blocks.dupHold (b : Blocks) : Nat := b.fld Reg.filDupHold 15 0

/-- Age of a message in strokes; while TB_CTRL.ENABLE = 0 its stamp counts as current and the hold is measured in microseconds of the
hub clock from its arrival (R227). -/
def Blocks.ageOf (b : Blocks) (m : FilMsg) : Nat :=
  if b.flag Reg.tbCtrl 0 then b.stroke - m.stamp else (b.glb.hubNow - m.heard) / 1200

/-- Types that pass the duplicate filter; a device's messages to itself do not. -/
def Blocks.isFiltered (b : Blocks) (m : FilMsg) : Bool := [0, 2, 3, 5, 6].contains m.typ && m.src ≠ b.me

/-- Two messages have one identity. -/
def FilMsg.same (m n : FilMsg) : Bool := m.typ = n.typ && m.src = n.src && m.key = n.key && m.sub = n.sub

/-- The oldest message of a type is taken from those received: acted on, or discarded as stale or as a copy (R227). -/
def Dev.filTake (d : Dev) (typ : Nat) : Option FilMsg × Dev :=
  match d.fil.rx.find? (fun m => m.typ = typ) with
  | none => (none, d)
  | some m =>
    let d : Dev := { d with fil := { d.fil with rx := d.fil.rx.erase m } }
    if !d.isFiltered m then (some m, d)
    else if d.dupHold < d.ageOf m then (none, d.bump Reg.filCntStale 1)
    else if d.fil.filter.any (fun n => n.same m) then (none, d.bump Reg.filCntDup 1)
    else (some m, { d with fil := { d.fil with filter := d.fil.filter ++ [{ m with data := [], dst := 0 }] } })

/-- HELD_MESSAGE_EXPIRE: round messages that have waited longer than the hold are dropped and counted (R228). -/
def Dev.heldExpire (d : Dev) : Dev :=
  let (old, rest) := d.fil.held.partition (fun m => decide (d.dupHold < d.ageOf m))
  ({ d with fil := { d.fil with held := rest } } : Dev).bump Reg.filCntStale old.length

/-- FILTER_IDENTITY_EXPIRE: identities kept for FIL_DUP_HOLD strokes leave the filter (R227). -/
def Dev.filterExpire (d : Dev) : Dev :=
  { d with fil := { d.fil with filter := d.fil.filter.filter (fun m => decide (d.ageOf m ≤ d.dupHold)) } }

/-- Meaning of HELD_MESSAGE_EXPIRE. -/
def execHeldMessageExpire (s : State) : Host.Outcome State Fault Refusal := .next (s.onDev (s.dev.live Dev.heldExpire))

/-- Meaning of FILTER_IDENTITY_EXPIRE. -/
def execFilterIdentityExpire (s : State) : Host.Outcome State Fault Refusal := .next (s.onDev (s.dev.live Dev.filterExpire))

end Sys2Proof.Machine
end

