-- ==== Sys2Proof/Machine/Routing.lean ====
section
/-! DEFINITION. The Routing Engines, first part (R36 to R56): layer descriptor, directory, scoring and selection, capacity, the
dispatch plan, the count exchange and the receive maps. -/

namespace Sys2Proof.Machine

/-! The layer descriptor (Table 2.1). -/

/-- Number of experts E. -/
def Layer.experts (l : Layer) : Nat := fldOf l.desc 0 13 0 + 1
/-- Top-k. -/
def Layer.k (l : Layer) : Nat := fldOf l.desc 0 17 14 + 1
/-- GATE_FN. -/
def Layer.gate (l : Layer) : Nat := fldOf l.desc 0 19 18
/-- RENORM. -/
def Layer.renorm (l : Layer) : Bool := bitOf (fldOf l.desc 0 31 0) 20
/-- OVERFLOW: divert to a further choice. -/
def Layer.diverts (l : Layer) : Bool := bitOf (fldOf l.desc 0 31 0) 21
/-- DIVERT_DEPTH. -/
def Layer.depth (l : Layer) : Nat := fldOf l.desc 0 26 22
/-- SPLIT. -/
def Layer.split (l : Layer) : Bool := bitOf (fldOf l.desc 0 31 0) 27
/-- NONFINITE: a non-finite token goes to the residual path. -/
def Layer.lenient (l : Layer) : Bool := bitOf (fldOf l.desc 0 31 0) 28
/-- CAP_QUOTA. -/
def Layer.quota (l : Layer) : Nat := fldOf l.desc 4 15 0
/-- SCALE. -/
def Layer.scale (l : Layer) : Nat := fldOf l.desc 8 31 0
/-- DISP_ROW_BYTES. -/
def Layer.dispBytes (l : Layer) : Nat := fldOf l.desc 12 15 0
/-- RET_ROW_BYTES. -/
def Layer.retBytes (l : Layer) : Nat := fldOf l.desc 12 31 16
/-- The address field at an offset: LOGIT 16, ACT 24, RECV 32, COMBINE 40, OUT 48. -/
def Layer.addr (l : Layer) (off : Nat) : Nat := fldOf l.desc off 47 0
/-- OUT_FMT as a format code of Table 3.5 and R93. -/
def Layer.outFmt (l : Layer) : Nat := if fldOf l.desc 56 3 0 = 0 then 0xA else if fldOf l.desc 56 3 0 = 1 then 0 else 1

/-- R37 rejects the descriptor, for a block of n devices. A row of no bytes lies outside the range of Table 2.1 and is rejected (log entry
37). A DIVERT_DEPTH of 17 to 31 with k + DIVERT_DEPTH at most 32 also lies outside the range of Table 2.1, but R37 does not list it: it is
accepted (log entry 89). -/
def Layer.badDesc (l : Layer) (n : Nat) : Bool :=
  let row (x : Nat) : Bool := x % 32 ≠ 0 || x = 0
  decide (l.experts < l.k) || decide (32 < l.k + l.depth) || l.quota = 0 || l.gate = 3 || decide (2 < fldOf l.desc 56 3 0) ||
  row l.dispBytes || row l.retBytes || decide (16777215 < 4 * l.quota * n) ||
  fldOf l.desc 0 31 29 ≠ 0 || fldOf l.desc 4 31 24 ≠ 0 || [16, 24, 32, 40, 48].any (fun o => fldOf l.desc o 63 48 ≠ 0) ||
  fldOf l.desc 56 31 4 ≠ 0 || fldOf l.desc 60 31 0 ≠ 0

/-- The tokens of RE q in a half: from the first up to the second (R38). -/
def Layer.range (l : Layer) (half q : Nat) : Nat × Nat :=
  let cut := if l.split then (l.tokens + 1) / 2 else l.tokens
  let a := if half = 0 then 0 else cut
  let n := if half = 0 then cut else l.tokens - cut
  (a + q * n / 4, a + (q + 1) * n / 4)

/-- The tokens of a half. -/
def Layer.halfRange (l : Layer) (half : Nat) : Nat × Nat := ((l.range half 0).1, (l.range half 3).2)

/-! The directory (R41 to R43). -/

/-- The used homes of an entry: (block index, group). -/
def usedHomes (e : List Byte) : List (Nat × Nat) := (List.range (dirHomes e)).map (fun j => (dirHome e j, dirGroup e j))

/-- Local slots of a device: the experts that name it in a used home, ascending (R42). -/
def Layer.slotsOf (l : Layer) (dev : Nat) : List Nat :=
  l.dir.zipIdx.filterMap (fun e => if (usedHomes e.1).any (fun h => h.1 = dev) then some e.2 else none)

/-- The home to which device s sends every copy for an expert (R42). -/
def Layer.homeOf (l : Layer) (s e : Nat) : Nat :=
  let ent := l.dir.getD e []
  dirHome ent (s % dirHomes ent)

/-- The quadrant that holds a core group of the loaded Mount (R275). -/
def Blocks.groupQuad (b : Blocks) (g : Nat) : Nat :=
  match b.mgmt.mount with
  | some m => (m.groups.getD g ⟨0, 1, 0, 0, 0⟩).first / (8 * m.lc)
  | none => 0

/-- Core groups of the loaded Mount. -/
def Blocks.groupCount (b : Blocks) : Nat :=
  match b.mgmt.mount with
  | some m => m.groups.length
  | none => 0

/-- The Routing Engine that serves the receive side of a local expert (R41). -/
def Blocks.servingRe (b : Blocks) (l : Layer) (e : Nat) : Nat :=
  match (usedHomes (l.dir.getD e [])).find? (fun h => h.1 = b.me) with
  | some h => b.groupQuad h.2 % 4
  | none => 0

/-- The first entry that R43 rejects: a used home outside the block, or a group that is undefined on this device. -/
def Blocks.badHome (b : Blocks) (l : Layer) : Option Nat :=
  let bad (e : List Byte) : Bool :=
    (usedHomes e).any (fun h => decide (b.blockN ≤ h.1) || (h.1 = b.me && decide (b.groupCount ≤ h.2)))
  l.dir.findIdx? bad

/-! Access to the layer in progress. -/

/-- A half of the layer. -/
def Layer.halfOf (l : Layer) (h : Nat) : Half := if h = 0 then l.a else l.b

/-- Replace a half. -/
def Layer.setHalf (l : Layer) (h : Nat) (x : Half) : Layer := if h = 0 then { l with a := x } else { l with b := x }

/-- Change the layer in progress. -/
def Dev.modLayer (d : Dev) (f : Layer → Layer) : Dev := { d with routing := { d.routing with layer := d.routing.layer.map f } }

/-- Change a half. -/
def Dev.modHalf (d : Dev) (h : Nat) (f : Half → Half) : Dev := d.modLayer (fun l => l.setHalf h (f (l.halfOf h)))

/-- A Routing Engine's part of a half. -/
def Half.re (x : Half) (i : Nat) : ReHalf := x.res.getD i {}

/-- Change a Routing Engine's part of a half. -/
def Dev.modRe (d : Dev) (h i : Nat) (f : ReHalf → ReHalf) : Dev := d.modHalf h (fun x => { x with res := x.res.set i (f (x.re i)) })

/-- Where the shape word of a local slot lies (R53): at the base of the Routing Engine that serves it. -/
def shapeAddr (base layer half slot : Nat) : Nat := base + ((layer * 2 + half) * 16384 + slot) * 8

/-- The layer as instance i knows it, by the descriptor and the directory that it read at its own bases (R36, R41, R67). Its scoring,
selection, capacity, sort, plan and receive maps go by these; what the four instances do together (the count exchange, the streams, the
combine) goes by those of instance 0 (log entry 38). -/
def Layer.asRe (l : Layer) (i : Nat) : Layer :=
  match l.own[i]? with
  | some (desc, dir) => { l with desc := desc, dir := dir }
  | none => l

/-- Instance i routes this layer in Keoth-step mode (R61). -/
def Layer.keothRe (l : Layer) (i : Nat) : Bool := l.keoth.getD i false

/-- The shape word of a slot of the layer in progress. -/
def Blocks.slotShape (b : Blocks) (l : Layer) (half slot : Nat) : Nat :=
  match (l.slotsOf b.me)[slot]? with
  | some e => shapeAddr (l.shapeBase.getD (b.servingRe l e) 0) (l.asRe (b.servingRe l e)).number half slot
  | none => shapeAddr (l.shapeBase.getD 0 0) l.number half slot

/-! Scoring and selection (R44 to R46). -/

/-- An enabled expert of a token: number, logit, selection key. -/
structure Gate where
  expert : Nat
  logit : Nat
  key : Nat
  deriving DecidableEq, Repr

/-- The enabled experts of a token in expert order. -/
def Layer.gates (l : Layer) (logits : List Nat) : List Gate :=
  ((l.dir.zip logits).zipIdx.filter (fun x => dirEnable x.1.1)).map (fun x =>
    ⟨x.2, x.1.2, if l.gate = 2 then fadd x.1.2 (fldOf x.1.1 20 31 0) else x.1.2⟩)

/-- The sum S on the grid 2^(-81), rounded once (R44). -/
def gridSum (us : List Nat) : Nat :=
  toF32 (.fin false ((us.map (fun u => numUnits (-81) (f32 u))).foldl (· + ·) 0).natAbs (-81))

/-- A token's filled ranks, up to k + DIVERT_DEPTH, as (expert, weight), or for a non-finite token the index of the logit whose
address R46 logs. -/
def Layer.scoreToken (l : Layer) (logits : List Nat) : Nat ⊕ List (Nat × Nat) :=
  let gs := l.gates logits
  match gs.find? (fun g => !(f32 g.logit).isFin) with
  | some g => .inl g.expert
  | none =>
    if gs.any (fun g => !(f32 g.key).isFin) then .inl 0 else
    let m := gs.foldl (fun m g => if (f32 m).lt (f32 g.logit) then g.logit else m) ((gs.map (fun g => g.logit)).headD 0)
    let ranked := (sortBy (fun (a b : Gate) => (f32 b.key).lt (f32 a.key)) gs).take (l.k + l.depth)
    let unit (g : Gate) : Nat := if l.gate = 1 then fsigmoid g.logit else fexp (fadd g.logit (fneg m))
    let sum := if l.renorm || l.gate = 1 then 0 else gridSum (gs.map unit)
    let p (g : Gate) : Nat := if l.gate = 1 then unit g else fdiv (unit g) sum
    let total := (ranked.take l.k).foldl (fun s g => fadd s (unit g)) 0
    let weight (g : Gate) : Nat := fmul l.scale (if l.renorm then fdiv (unit g) total else p g)
    let ws := ranked.map (fun g => (g.expert, weight g))
    if ws.any (fun w => !(f32 w.2).isFin) then .inl 0 else .inr ws

/-! Capacity (R47). -/

/-- The capacity pass under way: granted pairs, pairs per expert, choices dropped and diverted. -/
structure Capacity where
  choices : List Choice := []
  used : Tab Nat := []
  dropped : Nat := 0
  diverted : Nat := 0
  deriving DecidableEq, Repr

/-- A pair is granted. -/
def Capacity.grant (c : Capacity) (token rank : Nat) (e : Nat × Nat) : Capacity :=
  { c with choices := c.choices ++ [⟨token, rank, e.1, BitVec.ofNat 32 e.2⟩], used := tabSet 0 c.used e.1 (tabGet 0 c.used e.1 + 1) }

/-- The rank-r choice of a token. -/
def Layer.choose (l : Layer) (r : Nat) (c : Capacity) (t : Nat × List (Nat × Nat)) : Capacity :=
  match (t.2.take l.k)[r]? with
  | none => c
  | some e =>
    if tabGet 0 c.used e.1 < l.quota then c.grant t.1 r e
    else if !l.diverts then { c with dropped := c.dropped + 1 }
    else
      let taken (x : Nat) : Bool := c.choices.any (fun y => y.token = t.1 && y.expert = x)
      match (t.2.drop l.k).find? (fun x => decide (tabGet 0 c.used x.1 < l.quota) && !taken x.1) with
      | some x => ({ c with diverted := c.diverted + 1 } : Capacity).grant t.1 r x
      | none => { c with dropped := c.dropped + 1 }

/-- The capacity pass in rank-major order over tokens and their ranks. -/
def Layer.capacity (l : Layer) (ranked : List (Nat × List (Nat × Nat))) : Capacity :=
  (List.range l.k).foldl (fun c r => ranked.foldl (l.choose r) c) {}

/-! The dispatch plan (R49 to R51). -/

/-- The pairs in sort order: destination, expert, token. -/
def Layer.sortPairs (l : Layer) (me : Nat) (cs : List Choice) : List Choice :=
  sortBy (fun (a b : Choice) =>
    let x := l.homeOf me a.expert
    let y := l.homeOf me b.expert
    decide (x < y) || (x = y && (decide (a.expert < b.expert) || (a.expert = b.expert && decide (a.token < b.token))))) cs

/-- Segments of sorted pairs, ascending by destination. -/
def Layer.segments (l : Layer) (me : Nat) (cs : List Choice) : List Segment :=
  let sorted := l.sortPairs me cs
  (sorted.map (fun c => l.homeOf me c.expert)).eraseDups.map (fun p =>
    ⟨p, (sorted.filter (fun c => l.homeOf me c.expert = p)).map (fun c => ⟨c.token, c⟩)⟩)

/-- The pair of a (token, rank) slot of a half: the one granted to it, or, for a choice that was dropped, its expert with its weight of R46;
none for an empty rank. -/
def Half.pairOf (x : Half) (t r : Nat) : Option Choice :=
  match x.res.findSome? (fun q => q.choices.find? (fun c => c.token = t && c.rank = r)) with
  | some c => some c
  | none => (x.res.findSome? (fun q => q.ranked.find? (fun e => e.1 = t))).bind (fun e =>
      (e.2[r]?).map (fun w => ⟨t, r, w.1, BitVec.ofNat 32 w.2⟩))

/-- The pair that a row of a plan is for: the engines' own for its slot, or, where they have none, the one that the row carries (R61). -/
def Half.pairFor (x : Half) (r : PlanRow) : Choice := (x.pairOf r.pair.token r.pair.rank).getD r.pair

/-- The rows of a half's merged stream to a peer (R51): experts ascending, for one expert RE 0 to RE 3. -/
def Half.merged (x : Half) (peer : Nat) : List PlanRow :=
  sortBy (fun (a b : PlanRow) => decide ((x.pairFor a).expert < (x.pairFor b).expert))
    (x.res.flatMap (fun r => (r.segs.filter (fun s => s.peer = peer)).flatMap (fun s => s.rows)))

/-- A buffer of the plan of RE i for a half (R50); 0 if the pool refuses. -/
def Dev.planBuf (d : Dev) (l : Layer) (h i size : Nat) : Nat × Dev :=
  let (ptr, d) := d.alloc size 0 l.ctx (i + 4 * h + 8 * l.number)
  if ptr = 0 then (0, d) else (ptr, d.modRe h i (fun r => { r with bufs := r.bufs ++ [ptr] }))

/-- A plan buffer with its contents: its address, none after a fault. -/
def Dev.planPut (d : Dev) (l : Layer) (h i : Nat) (bs : List Byte) : Option Nat × Dev :=
  match d.planBuf l h i bs.length with
  | (0, d) => (none, d.reFault i l.ctx h l.number 0x0A none)
  | (ptr, d) =>
    match d.writeFor l.ctx ptr bs with
    | (true, d) => (some ptr, d)
    | (false, d) => (none, d)

/-- A segment descriptor (Table 2.4), with its gather and slot lists in the pool. -/
def Dev.putSegment (d : Dev) (l : Layer) (h i : Nat) (s : Segment) : Option (List Byte) × Dev :=
  match d.planPut l h i (s.rows.flatMap (fun r => toLe 4 r.gather)) with
  | (none, d) => (none, d)
  | (some g, d) =>
    match d.planPut l h i (s.rows.flatMap (fun r => toLe 4 (r.pair.token * 16 + r.pair.rank))) with
    | (none, d) => (none, d)
    | (some sl, d) =>
      (some (toLe 4 (s.peer + h * 2 ^ 12 + b2n (s.peer = d.me) * 2 ^ 13) ++ toLe 4 s.rows.length ++ toLe 8 g ++ toLe 8 sl ++ toLe 8 0), d)

/-- The plan of RE i for a half is written to pool buffers (R50): false after a fault. -/
def Dev.putPlan (d : Dev) (l : Layer) (h i : Nat) (segs : List Segment) : Bool × Dev :=
  let step (acc : Option (List Byte) × Dev) (s : Segment) : Option (List Byte) × Dev :=
    match acc with
    | (none, d) => (none, d)
    | (some bs, d) =>
      match d.putSegment l h i s with
      | (some x, d) => (some (bs ++ x), d)
      | (none, d) => (none, d)
  match segs.foldl step (some (toLe 4 segs.length), d) with
  | (none, d) => (false, d)
  | (some bs, d) =>
    match d.planPut l h i bs with
    | (none, d) => (false, d)
    | (some ptr, d) => (true, d.modRe h i (fun r => { r with planAddr := ptr, segs := segs }))

/-! The count exchange (R52 to R56). -/

/-- The counts of a half's pairs for a device's local slots, over the four engines. -/
def Layer.countsFor (l : Layer) (h dev : Nat) : List Nat :=
  let pairs := ((l.halfOf h).res.flatMap (fun r => (r.segs.filter (fun s => s.peer = dev)).flatMap (fun s => s.rows)))
  (l.slotsOf dev).map (fun e => (pairs.filter (fun r => r.pair.expert = e)).length)

/-- Every device of the block, this one included, is sent its counts, 32 a message (R52). -/
def Dev.sendCounts (d : Dev) (l : Layer) (h : Nat) : Dev :=
  (List.range d.blockN).foldl (fun d dev =>
    let cs := l.countsFor h dev
    (chunks 32 cs.length cs).zipIdx.foldl (fun (d : Dev) (part : List Nat × Nat) =>
      d.filSend 0 l.stepSeq (l.number + h * 2 ^ 8 + 32 * part.2 * 2 ^ 9) (part.1.flatMap (toLe 2)) dev) d) d

/-- The received counts of a sender for `slots` local slots, if all its messages are in. -/
def countsFrom (rows : List CountRow) (src slots : Nat) : Option (List Nat) :=
  (List.range ((slots + 31) / 32)).foldl (fun (acc : Option (List Nat)) (i : Nat) =>
    match acc, rows.find? (fun r => r.src = src && r.first = 32 * i) with
    | some xs, some r => some (xs ++ r.counts)
    | _, _ => none) (some [])

/-- The count table of a half, sender-major, if it is complete. -/
def Blocks.countTable (b : Blocks) (l : Layer) (h : Nat) : Option (List (List Nat)) :=
  let rows := b.routing.counts.filter (fun r => r.seq = l.stepSeq && r.layer = l.number && r.half = h)
  let slots := (l.slotsOf b.me).length
  (List.range b.blockN).foldl (fun (acc : Option (List (List Nat))) (s : Nat) =>
    match acc, countsFrom rows s slots with
    | some xs, some cs => some (xs ++ [cs])
    | _, _ => none) (some [])

/-- Rows that the counts announce for a slot. -/
def rowsFor (table : List (List Nat)) (slot : Nat) : Nat := sumBy (fun cs => cs.getD slot 0) table

/-- base_s: rows for a slot from senders with a lower block index (R53). -/
def baseOf (table : List (List Nat)) (sender slot : Nat) : Nat := rowsFor (table.take sender) slot

/-- The reservation of R48 for a slot and half. -/
def Blocks.reserveOf (b : Blocks) (l : Layer) : Nat := 4 * l.quota * b.blockN

/-- A shape word (Table 2.6). -/
def shapeWord (m stepSeq layer half : Nat) : Nat := m + stepSeq * 2 ^ 32 + layer * 2 ^ 48 + half * 2 ^ 56 + 2 ^ 63

/-- A tile demanded by a layer execution: one pin for the context and a class-0 fetch (R135); false after the fault of R138. A tile
that a prediction brought or brings is counted (R137). -/
def Dev.demandTile (d : Dev) (ctx layer e i : Nat) : Bool × Dev :=
  if (d.ctx ctx).demandPins.contains i then (true, d)
  else if (d.poolFrames Reg.migCachePool).2 ≤ (d.ctx ctx).demandPins.length then
    (false, d.engineFault ctx 0x47 (d.rd Reg.migXtabBase + (layer * 16384 + e) * 8))
  else
    let guessed := d.mig.predicted.contains i || d.mig.ports.any (fun p => p.running.any (fun x => x.tile = i && x.predicted))
    let d := if guessed then d.bump Reg.migCntHintUsed 1 else d
    let asked (p : VaultPort) : VaultPort :=
      { p with running := p.running.map (fun x => if x.tile = i then { x with predicted := false } else x) }
    let d : Dev := { d with mig := { d.mig with predicted := d.mig.predicted.filter (· ≠ i), ports := d.mig.ports.map asked } }
    let d := (d.pin i).modCtx ctx (fun c => { c with demandPins := c.demandPins ++ [i] })
    (true, if d.resident i then d else d.queueFetch i 0 false false false)

/-- A local expert is handed to the migration engine (R43, R135). -/
def Dev.demandExpert (d : Dev) (l : Layer) (e : Nat) : Bool × Dev :=
  let d := d.modLayer (fun l => { l with demanded := l.demanded ++ [e] })
  match d.xtab l.number e with
  | none => (true, d.bump Reg.migCntXtabInvalid 1)
  | some _ =>
    (d.expertTiles l.number e).foldl (fun (acc : Bool × Dev) i => if acc.1 then acc.2.demandTile l.ctx l.number e i else acc) (true, d)

/-- The receive map of one slot (R48, R53): its shape word is written. -/
def Dev.mapSlot (d : Dev) (l : Layer) (h : Nat) (table : List (List Nat)) (slot e : Nat) : Bool × Dev :=
  let m := rowsFor table slot
  let a := d.slotShape l h slot
  let own := l.asRe (d.servingRe l e)
  if d.reserveOf own < m then (false, d.reFault (d.servingRe l e) l.ctx h own.number 0x04 (some a))
  else d.writeFor l.ctx a (toLe 8 (shapeWord m l.stepSeq own.number h))

/-- Demands of a half (R135): local experts with TIER = 1 and rows, ascending, once per layer execution. -/
def Dev.demands (d : Dev) (l : Layer) (table : List (List Nat)) (slots : List (Nat × Nat)) : Bool × Dev :=
  slots.foldl (fun (acc : Bool × Dev) x =>
    if acc.1 && decide (0 < rowsFor table x.1) && dirTier ((l.asRe (d.servingRe l x.2)).dir.getD x.2 []) && !l.demanded.contains x.2 then acc.2.demandExpert l x.2
    else acc) (true, d)

/-- The receive maps of the slots that a test on their engine selects, from a count table; false after a fault. -/
def Dev.mapSlots (d : Dev) (l : Layer) (h : Nat) (table : List (List Nat)) (serves : Nat → Bool) : Bool × Dev :=
  let slots := ((l.slotsOf d.me).zipIdx.map (fun x => (x.2, x.1))).filter (fun x => serves (d.servingRe l x.2))
  match slots.foldl (fun (acc : Bool × Dev) x => if acc.1 then acc.2.mapSlot l h table x.1 x.2 else acc) (true, d) with
  | (false, d) => (false, d)
  | (true, d) => d.demands l table slots

/-- Every instance that routes the layer itself has planned the half; there is one. -/
def Layer.ownPlanned (l : Layer) (h : Nat) : Bool :=
  [0, 1, 2, 3].any (fun i => !l.keothRe i) && [0, 1, 2, 3].all (fun i => l.keothRe i || ((l.halfOf h).re i).planned)

/-- The counts of the slots that some engines serve, joined to those of the others. -/
def Blocks.joinCounts (b : Blocks) (l : Layer) (serves : Nat → Bool) (old table : List (List Nat)) : List (List Nat) :=
  let slots := l.slotsOf b.me
  table.zipIdx.map (fun row => slots.zipIdx.map (fun x =>
    if serves (b.servingRe l x.1) then row.1.getD x.2 0 else (old.getD row.2 []).getD x.2 0))

/-- The receive maps of a half are complete: the count exchange is over where it takes place, and every instance in Keoth-step mode has been
resumed (R53, R61). -/
def Layer.allMapped (l : Layer) (h : Nat) : Bool :=
  let x := l.halfOf h
  (x.exchanged || [0, 1, 2, 3].all l.keothRe) && x.res.all (fun r => r.planned && !r.waitHost)

/-- The half is mapped once its receive maps are complete. -/
def Dev.settleMaps (d : Dev) (h : Nat) : Dev :=
  match d.routing.layer with
  | none => d
  | some l => if l.allMapped h then d.modHalf h (fun x => { x with mapped := true }) else d

/-- All N count messages of a half are in and the engines that take part in the exchange have planned: their receive maps are built
(R53). -/
def Dev.tryMap (d : Dev) (h : Nat) : Dev :=
  match d.routing.layer with
  | none => d
  | some l =>
    if (l.halfOf h).exchanged || !l.ownPlanned h then d else
    match d.countTable l h with
    | none => d
    | some table =>
      let serves (q : Nat) : Bool := !l.keothRe q
      let (ok, d) := d.mapSlots l h table serves
      if !ok then d
      else (d.modHalf h (fun x => { x with exchanged := true, counts := d.joinCounts l serves x.counts table })).settleMaps h

/-! RE_PLAN_READY. -/

/-- The half that RE i scores next: half B only in split-step mode, and not while HALT is set (R60, R64). -/
def Blocks.nextHalf (b : Blocks) (l : Layer) (i : Nat) : Option Nat :=
  if !(l.a.re i).planned then some 0
  else if l.split && !(l.b.re i).planned && !b.flag (Reg.reCtrl i) 2 then some 1
  else none

/-- A token's ranks, read and scored; none after a fault (R44 to R46). `l` is the layer as the engine knows it. -/
def Dev.scoreAt (d : Dev) (l : Layer) (h i t : Nat) : Option (List (Nat × Nat)) × Dev :=
  let a := l.addr 16 + 4 * l.experts * t
  match d.readFor l.ctx a (4 * l.experts) with
  | (none, d) => (none, d)
  | (some bs, d) =>
    match l.scoreToken ((chunks 4 l.experts bs).map leNat) with
    | .inr ranks => (some ranks, d)
    | .inl x =>
      if l.lenient then (some [], d.bump (Reg.reCntNonfinite i) 1)
      else (none, d.reFault i l.ctx h l.number 0x03 (some (a + 4 * x)))

/-- The tokens of RE i in a half, scored in order; none after a fault. -/
def Dev.scoreHalf (d : Dev) (l : Layer) (h i : Nat) : Option (List (Nat × List (Nat × Nat))) × Dev :=
  let (lo, hi) := l.range h i
  ((List.range (hi - lo)).map (lo + ·)).foldl (fun (acc : Option (List (Nat × List (Nat × Nat))) × Dev) t =>
    match acc with
    | (none, d) => (none, d)
    | (some xs, d) =>
      match d.scoreAt l h i t with
      | (some r, d) => (some (xs ++ [(t, r)]), d.bump (Reg.reCntTokens i) 1)
      | (none, d) => (none, d)) (some [], d)

/-- The buffers of Keoth-step mode (R61): sorted pairs with their expert numbers, and room for the host's plan and count table;
false after a fault. -/
def Dev.putKeoth (d : Dev) (l : Layer) (h i : Nat) (sorted : List Choice) : Bool × Dev :=
  let pairs := sorted.flatMap (fun c => toLe 4 (c.token + c.rank * 2 ^ 16)) ++ sorted.flatMap (fun c => toLe 2 c.expert)
  match d.planPut l h i pairs with
  | (none, d) => (false, d)
  | (some pa, d) =>
    match d.planBuf l h i (262144 + 2 * d.blockN * (l.slotsOf d.me).length) with
    | (0, d) => (false, d.reFault i l.ctx h l.number 0x0A none)
    | (ptr, d) => (true, d.modRe h i (fun r => { r with planAddr := ptr, pairsAddr := pa, waitHost := true }))

/-- RE_PLAN_READY: RE i finishes scoring, capacity and sort of its next half. Its plan is written; the last engine of the device that takes
part in the count exchange sends the counts. In Keoth-step mode it waits for the host (R44 to R52, R61). -/
def Dev.planReady (d : Dev) (i : Nat) : Dev :=
  match d.routing.layer with
  | none => d
  | some l =>
    match (if i < 4 then d.nextHalf l i else none) with
    | none => d
    | some h =>
      let own := l.asRe i
      let d := d.modLayer (fun l => { l with half := h })
      match d.scoreHalf own h i with
      | (none, d) => d
      | (some ranked, d) =>
        let c := own.capacity ranked
        let d := (d.bump (Reg.reCntDropped i) c.dropped).bump (Reg.reCntDiverted i) c.diverted
        let sorted := own.sortPairs d.me c.choices
        let (ok, d) := if l.keothRe i then d.putKeoth own h i sorted else d.putPlan own h i (own.segments d.me c.choices)
        if !ok then d else
        let d := d.modRe h i (fun r => { r with planned := true, choices := sorted, ranked := ranked })
        match d.routing.layer with
        | none => d
        | some l => if l.keothRe i || !l.ownPlanned h then d else (d.sendCounts l h).tryMap h

/-! COUNT_MESSAGE_RECEIVE. -/

/-- The entry of a count message (Table 9.6). -/
def countRowOf (m : FilMsg) : CountRow :=
  { seq := m.key, layer := bitsOf m.sub 7 0, half := bitsOf m.sub 8 8, src := m.src, first := bitsOf m.sub 22 9,
    counts := (chunks 2 32 m.data).map leNat }

/-- A row whose slot range does not fit the local slots, 32 a message with the rest in the last one (R52, R55). -/
def CountRow.misfits (r : CountRow) (slots : Nat) : Bool :=
  r.first % 32 ≠ 0 || decide (slots ≤ r.first) || r.counts.length ≠ min 32 (slots - r.first)

/-- How a count message's STEP_SEQ stands to the engines (R55): 0 completed or abandoned, 1 current or next, 2 further ahead. With no
layer in progress the step that any live context starts next is expected. -/
def Blocks.countAge (b : Blocks) (seq : Nat) : Nat :=
  let next (cur : Nat) : Nat :=
    let ahead := (seq + 65536 - cur) % 65536
    if ahead ≤ 1 then 1 else if 32769 ≤ ahead then 0 else 2
  match b.routing.layer with
  | some l => next l.stepSeq
  | none =>
    if b.ctxs.any (fun c => c.2.mode = .live && c.2.stepSeq = seq) then 1
    else match b.routing.lastSeq with
      | none => 1
      | some q => if seq = q then 0 else next q

/-- A fault of code 0x05 for a count message or a segment header (R55): at the shape word concerned. Without a layer in progress
there is no context to tear down and it is logged only. -/
def Dev.countFault (d : Dev) (layer half slot : Nat) : Dev :=
  match d.routing.layer with
  | none =>
    let a := shapeAddr (d.rd (Reg.reShapeBase 0)) layer half slot
    (d.setReFault 0 0 half layer 0x05 a).log { code := 0x05, domain := 34, addr := a, kind := 1 }
  | some l =>
    let e := (l.slotsOf d.me)[slot]?
    let i := match e with
      | some e => d.servingRe l e
      | none => 0
    d.reFault i l.ctx half l.number 0x05 (some (shapeAddr (l.shapeBase.getD i 0) layer half slot))

/-- A count row is inconsistent with the layer in progress: of another layer, or beyond the local slots. -/
def Blocks.rowMisfits (b : Blocks) (l : Layer) (r : CountRow) : Bool :=
  r.seq = l.stepSeq && (r.layer ≠ l.number || r.misfits (l.slotsOf b.me).length)

/-- COUNT_MESSAGE_RECEIVE: the oldest count message is checked and entered in the table; the last one of a half builds the receive
maps (R52 to R55, R227). -/
def Dev.countReceive (d : Dev) : Dev :=
  match d.filTake 0 with
  | (none, d) => d
  | (some m, d) =>
    let r := countRowOf m
    if d.countAge r.seq = 0 then d.bump Reg.filCntDup 1
    else if d.countAge r.seq = 2 || decide (d.blockN ≤ r.src) then d.countFault r.layer r.half r.first
    else
      let misfit := match d.routing.layer with
        | some l => d.rowMisfits l r
        | none => false
      if misfit then d.countFault r.layer r.half r.first
      else ({ d with routing := { d.routing with counts := d.routing.counts ++ [r] } } : Dev).tryMap r.half

/-- WAIT_COUNTS of engine i: it has planned a half itself, and the counts of that half are not all in, be it because another engine of this
device has not planned it (R64). -/
def Blocks.waitsCounts (b : Blocks) (i : Nat) : Bool :=
  b.routing.layer.any (fun l => !l.keothRe i && [0, 1].any (fun h => ((l.halfOf h).re i).planned && !(l.halfOf h).exchanged))

/-- COUNT_TIMEOUT: engine i has waited in WAIT_COUNTS for RE_COUNT_TIMEOUT strokes: the layer is abandoned (R59, R64). -/
def Dev.countTimeout (d : Dev) (i : Nat) : Dev :=
  if i < 4 && d.waitsCounts i && decide (d.rd (Reg.reCountTimeout i) ≠ 0) then d.abandonLayer.collSweep else d

/-- Meaning of RE_PLAN_READY. -/
def execRePlanReady (re : Nat) (ecc : Ecc) (s : State) : Host.Outcome State Fault Refusal :=
  .next (s.onDev (s.dev.live (fun d => d.act (.rePlanReady re ecc) ecc (fun d => d.planReady re))))

/-- Meaning of COUNT_MESSAGE_RECEIVE. -/
def execCountMessageReceive (s : State) : Host.Outcome State Fault Refusal :=
  .next (s.onDev (s.dev.live (fun d => d.act .countMessageReceive {} Dev.countReceive)))

/-- Meaning of COUNT_TIMEOUT. -/
def execCountTimeout (re : Nat) (s : State) : Host.Outcome State Fault Refusal := .next (s.onDev (s.dev.live (fun d => d.countTimeout re)))

end Sys2Proof.Machine
end

