-- ==== Sys2Proof/Machine/Layer.lean ====
section
/-! DEFINITION. The Routing Engines, second part: the STEP command with its batch change list (R36 to R43, R140, R141), Keoth-step
mode (R61, R62), and the ordered combine (R58, R59). -/

namespace Sys2Proof.Machine

/-! The batch change list (Table 5.10). -/

/-- An entry of the list. `tokens` is the slot number of a leave. -/
structure KvEntry where
  join : Bool
  tag : Nat
  blocks : Nat
  tokens : Nat
  ring : Nat
  deriving DecidableEq, Repr

/-- The 16 bytes of an entry; none if a reserved bit or value is set. -/
def kvEntryOf (bs : List Byte) : Option KvEntry :=
  let op := fldOf bs 0 1 0
  let blocks := fldOf bs 8 19 0
  let fits := fldOf bs 0 31 2 = 0 ∧ op < 2 ∧ fldOf bs 8 31 20 = 0 ∧ fldOf bs 12 31 28 = 0 ∧ (op = 1 ↔ blocks ≠ 0)
  if fits then some ⟨op = 1, fldOf bs 4 31 0, blocks, fldOf bs 12 15 0, fldOf bs 12 27 16⟩ else none

/-- All entries, if each is well formed. -/
def kvEntriesOf : List (List Byte) → Option (List KvEntry)
  | [] => some []
  | bs :: rest =>
    match kvEntryOf bs, kvEntriesOf rest with
    | some e, some es => some (e :: es)
    | _, _ => none

/-- Slots that a list leaves. -/
def kvLeaves (es : List KvEntry) : List Nat := (es.filter (fun e => !e.join)).map (fun e => e.tokens)

/-- The checks of R141 step 1 on the entries of a list, for a step of t tokens. -/
def Blocks.kvListOk (b : Blocks) (c t : Nat) (es : List KvEntry) : Bool :=
  let out := kvLeaves es
  out.all (fun n => decide (n < 4096) && b.slotUsed c n) && out.eraseDups = out &&
    decide (sumBy (fun e => if e.join then e.tokens else 0) es ≤ t)

/-- A join report (R312): to the ring named, or counted as dropped on the STEP's ring. -/
def Dev.joinReport (d : Dev) (j : Job) (e : KvEntry) (slot : Option Nat) : Dev :=
  let status := if slot.isSome then 0xB7 else 0xB8
  let r : Record := { d.recordOf j status false (e.tag + slot.getD 0 * 2 ^ 32) 0 with kind := 1, cancelLate := false }
  if d.flag (Reg.ringCtrl e.ring) 0 && d.fld (Reg.ringCtrl e.ring) 2 1 = 0 && d.ringCtx e.ring = j.ctx then d.post e.ring r
  else d.bump (Reg.ringCntDropped j.ring) 1

/-- What the joins of a list have come to: slots admitted with their reservations, joins and tokens refused. -/
structure KvOutcome where
  joined : List (Nat × Nat) := []
  refused : Nat := 0
  lost : Nat := 0
  deriving DecidableEq, Repr

/-- A join in list order (R141 steps 3 and 4). -/
def Dev.kvJoin (d : Dev) (j : Job) (o : KvOutcome) (e : KvEntry) : KvOutcome × Dev :=
  let c := j.ctx
  let free := (List.range 4096).find? (fun n => !d.slotUsed c n)
  match (if o.refused = 0 ∧ e.blocks + d.rd (Reg.migKvReserved c) ≤ d.rd (Reg.migKvQuota c) then free else none) with
  | some n =>
    let d := d.postStore (d.slotAddr c n) (toLe 8 (e.blocks + 2 ^ 63))
    let d := d.wr (Reg.migKvReserved c) (d.rd (Reg.migKvReserved c) + e.blocks)
    ({ o with joined := o.joined ++ [(n, e.blocks)] }, d.joinReport j e (some n))
  | none => ({ o with refused := o.refused + 1, lost := o.lost + e.tokens }, (d.bump Reg.migCntKvRefused 1).joinReport j e none)

/-- The joins of a list. -/
def Dev.kvJoins (d : Dev) (j : Job) (es : List KvEntry) : KvOutcome × Dev :=
  (es.filter (fun e => e.join)).foldl (fun (acc : KvOutcome × Dev) e => acc.2.kvJoin j acc.1 e) ({}, d)

/-- What reading a batch change list gave: the context was torn down, the list is bad, or its entries. -/
inductive KvRead where
  | torn
  | bad
  | ok (es : List KvEntry)
  deriving DecidableEq, Repr

/-- A batch change list is read and checked (R140, R141 step 1). -/
def Dev.kvRead (d : Dev) (c addr t : Nat) : KvRead × Dev :=
  if addr = 0 then (.ok [], d) else
  match d.readFor c addr 8 with
  | (none, d) => (.torn, d)
  | (some h, d) =>
    let n := fldOf h 0 15 0
    if fldOf h 0 63 16 ≠ 0 ∨ 4096 < n then (.bad, d) else
    match d.readFor c (addr + 8) (16 * n) with
    | (none, d) => (.torn, d)
    | (some bs, d) =>
      match kvEntriesOf (chunks 16 n bs) with
      | none => (.bad, d)
      | some es => if d.kvListOk c t es then (.ok es, d) else (.bad, d)

/-! STEP. -/

/-- The oldest granted STEP that has not started. -/
def Blocks.nextStep (b : Blocks) : Option Job := b.jobs.find? (fun j => fldOf j.cmd 0 7 0 = 2 && !j.started)

/-- The engines accept a layer: enabled, not halted, none in progress (R64). -/
def Blocks.reReady (b : Blocks) : Bool :=
  b.routing.layer.isNone && (List.range 4).all (fun i => b.flag (Reg.reCtrl i) 0 && !b.flag (Reg.reCtrl i) 2)

/-- Rows of the count table that wait for this layer or the next stay; one that does not fit the layer faults (R55). -/
def Dev.checkHeld (d : Dev) (l : Layer) : Dev :=
  let keep (r : CountRow) : Bool := r.seq = l.stepSeq || r.seq = (l.stepSeq + 1) % 65536
  let d : Dev := { d with routing := { d.routing with counts := d.routing.counts.filter keep } }
  match d.routing.counts.find? (fun r => d.rowMisfits l r) with
  | some r => d.countFault r.layer r.half r.first
  | none => d

/-- Instance i reads its descriptor and copies its directory at its own bases, and checks both (R36, R37, R41, R43, R67): none after a
fault. Codes 0x08 and 0x01 concern no half: RE_FAULT shows HALF 0 (log entry 89). -/
def Dev.readLayer (d : Dev) (l : Layer) (n i : Nat) : Option (List Byte × List (List Byte)) × Dev :=
  let da := d.rd (Reg.reLayerTableBase i) + 64 * n
  match d.readFor l.ctx da 64 with
  | (none, d) => (none, d)
  | (some desc, d) =>
    let l := { l with desc := desc }
    if l.badDesc d.blockN then (none, d.reFault i l.ctx 0 l.number 0x08 (some da)) else
    let ba := d.rd (Reg.reDirBase i) + l.number * 524288
    match d.readFor l.ctx ba (32 * l.experts) with
    | (none, d) => (none, d)
    | (some dir, d) =>
      let l := { l with dir := chunks 32 l.experts dir }
      match d.badHome l with
      | some e => (none, d.reFault i l.ctx 0 l.number 0x01 (some (ba + 32 * e)))
      | none => (some (l.desc, l.dir), d)

/-- The four instances read in order; none after a fault. -/
def Dev.readLayers (d : Dev) (l : Layer) (n : Nat) : Option (List (List Byte × List (List Byte))) × Dev :=
  [0, 1, 2, 3].foldl (fun (acc : Option (List (List Byte × List (List Byte))) × Dev) i =>
    match acc with
    | (none, d) => (none, d)
    | (some xs, d) =>
      match d.readLayer l n i with
      | (some x, d) => (some (xs ++ [x]), d)
      | (none, d) => (none, d)) (some [], d)

/-- The layer starts once its descriptors and directories have been read and checked. STEP_SEQ is the count before it increases, so that the
first layer execution of a context has 0 (R40 does not say whether the layer takes the value before or after; log entry 89). -/
def Dev.startLayer (d : Dev) (j : Job) (t : Nat) (o : KvOutcome) (leaving : List Nat) : Dev :=
  let c := j.ctx
  let stepSeq := (d.ctx c).stepSeq
  let d := d.modCtx c (fun x => { x with stepSeq := (stepSeq + 1) % 65536 })
  let d := match j.occ with
    | some id => d.modOcc c id (fun o => { o with step := some stepSeq })
    | none => d
  let l : Layer := { ctx := c, ring := j.ring, seq := j.seq, occ := j.occ, desc := [], stepSeq := stepSeq, tokens := t - o.lost,
                     keoth := (List.range 4).map (fun i => d.flag (Reg.reCtrl i) 1),
                     shapeBase := (List.range 4).map (fun i => d.rd (Reg.reShapeBase i)), dir := [],
                     admitted := o.joined.length, refused := o.refused, joined := o.joined, leaving := leaving }
  match d.readLayers l (fldOf j.cmd 24 7 0) with
  | (none, d) => d
  | (some own, d) =>
    let l := { l with desc := (own.headD ([], [])).1, dir := (own.headD ([], [])).2, own := own }
    ({ d with routing := { d.routing with layer := some l } } : Dev).checkHeld l

/-- STEP: its batch change list is processed, then the layer starts on the four engines (R38, R40, R141). -/
def Dev.stepCmd (d : Dev) (ring seq : Nat) : Dev :=
  match d.nextStep with
  | none => d
  | some j =>
    if j.ring ≠ ring ∨ j.seq ≠ seq ∨ d.reReady = false then d else
    let t := fldOf j.cmd 28 15 0
    let d := d.modJob ring seq (fun x => { x with started := true })
    match d.kvRead j.ctx (fldOf j.cmd 32 47 0) t with
    | (.torn, d) => d
    | (.bad, d) => let (f, d) := d.fresh; d.finish ring seq 0xB5 false t (f.toNat % 65536)
    | (.ok es, d) =>
      let (o, d) := d.kvJoins j es
      d.startLayer j t o (kvLeaves es)

/-! Keoth-step mode. -/

/-- The half in which RE i waits for the host. -/
def Blocks.waitsHost (b : Blocks) (i : Nat) : Option (Layer × Nat) :=
  match b.routing.layer with
  | none => none
  | some l => if (l.a.re i).waitHost then some (l, 0) else if (l.b.re i).waitHost then some (l, 1) else none

/-- The record of Table 2.7. -/
def Layer.keothRecord (l : Layer) (h i : Nat) : List Byte :=
  let r := (l.halfOf h).re i
  toLe 4 (l.number + h * 2 ^ 8) ++ toLe 4 l.stepSeq ++ toLe 8 r.pairsAddr ++ toLe 4 r.choices.length ++ toLe 8 r.planAddr ++ toLe 4 0

/-- KEOTH_RECORD_POST: the record goes to the event ring named in RE_KEOTH_RING, once it is enabled and has room (R61, R310). -/
def Dev.keothPost (d : Dev) (i : Nat) : Dev :=
  match d.waitsHost i with
  | none => d
  | some (l, h) =>
    let r := d.fld (Reg.reKeothRing i) 11 0
    if ((l.halfOf h).re i).posted || !d.flag (Reg.ringCtrl r) 0 || d.fld (Reg.ringCtrl r) 2 1 ≠ 1 || d.cqFull r then d
    else (d.cqPut r 32 (l.keothRecord h i)).modRe h i (fun x => { x with posted := true })

/-- The address of the first slot entry of a host segment that R62 rejects: a token outside the half, a rank of k or more, or a slot
that is named already. -/
def badSlot (lo hi k : Nat) (addr : Nat) : List Nat → List Nat → Option Nat
  | _, [] => none
  | seen, s :: rest =>
    if s / 16 < lo ∨ hi ≤ s / 16 ∨ k ≤ s % 16 ∨ seen.contains s = true then some addr else badSlot lo hi k (addr + 4) (s :: seen) rest

/-- A row of the host's plan: its slot's own pair, of whichever engine scored the token (R46). An empty rank has no weight: there it is a free
value, and the expert number sorts last (log entry 3). -/
def Dev.hostRow (d : Dev) (x : Half) (gather slot : Nat) : PlanRow × Dev :=
  match x.pairOf (slot / 16) (slot % 16) with
  | some c => (⟨gather, c⟩, d)
  | none => let (f, d) := d.fresh; (⟨gather, ⟨slot / 16, slot % 16, 16384, f.setWidth 32⟩⟩, d)

/-- A descriptor of the host's plan, read and checked after the segments before it (R62); none after a fault. R62 lists the cases that fault:
a descriptor with a HALF or LOCAL bit that does not fit, with a reserved bit set, or with ROWS = 0 is none of them and is accepted, and a
segment of no rows is dropped (log entry 89). -/
def Dev.hostSegment (d : Dev) (l : Layer) (h i a : Nat) (done : List Segment) : Option Segment × Dev :=
  match d.readFor l.ctx a 32 with
  | (none, d) => (none, d)
  | (some bs, d) =>
    let peer := fldOf bs 0 11 0
    let rows := fldOf bs 4 23 0
    let fault (d : Dev) (x : Nat) : Option Segment × Dev := (none, d.reFault i l.ctx h l.number 0x06 (some x))
    if d.blockN ≤ peer ∨ done.any (fun s => decide (peer ≤ s.peer)) = true then fault d a else
    match d.readFor l.ctx (fldOf bs 8 47 0) (4 * rows) with
    | (none, d) => (none, d)
    | (some gs, d) =>
      match d.readFor l.ctx (fldOf bs 16 47 0) (4 * rows) with
      | (none, d) => (none, d)
      | (some ss, d) =>
        let slots := (chunks 4 rows ss).map leNat
        let others := (l.halfOf h).res.flatMap (fun r => r.segs.flatMap (fun s => s.rows))
        let seen := (others ++ done.flatMap (fun s => s.rows)).map (fun r => r.pair.token * 16 + r.pair.rank)
        match badSlot (l.halfRange h).1 (l.halfRange h).2 l.k (fldOf bs 16 47 0) seen slots with
        | some x => fault d x
        | none =>
          let (rs, d) := (((chunks 4 rows gs).map leNat).zip slots).foldl (fun (acc : List PlanRow × Dev) x =>
            let (r, d) := acc.2.hostRow (l.halfOf h) x.1 x.2
            (acc.1 ++ [r], d)) ([], d)
          (some ⟨peer, rs⟩, d)

/-- The host's plan for RE i (R61 step 5, R62); none after a fault. A plan of more descriptors than devices has one out of order. -/
def Dev.hostPlan (d : Dev) (l : Layer) (h i : Nat) : Option (List Segment) × Dev :=
  let a := ((l.halfOf h).re i).planAddr
  match d.readFor l.ctx a 4 with
  | (none, d) => (none, d)
  | (some bs, d) =>
    (List.range (min (leNat bs) (d.blockN + 1))).foldl (fun (acc : Option (List Segment) × Dev) j =>
      match acc with
      | (none, d) => (none, d)
      | (some done, d) =>
        match d.hostSegment l h i (a + 4 + 32 * j) done with
        | (some s, d) => (some (done ++ [s]), d)
        | (none, d) => (none, d)) (some [], d)

/-- The first (sender, slot) at which a host count table exceeds the reservation of a slot that RE i serves. -/
def Blocks.overCount (b : Blocks) (l : Layer) (i : Nat) (table : List (List Nat)) : Option (Nat × Nat) :=
  let slots := (l.slotsOf b.me).zipIdx.filter (fun x => b.servingRe l x.1 = i)
  slots.findSome? (fun x =>
    (List.range table.length).findSome? (fun s => if b.reserveOf (l.asRe i) < baseOf table (s + 1) x.2 then some (s, x.2) else none))

/-- The half resumes with the host's plan (R61 step 5): receive maps and shape words come from the host's counts. -/
def Dev.acceptPlan (d : Dev) (l : Layer) (h i : Nat) (segs : List Segment) : Dev :=
  let n := (l.slotsOf d.me).length
  let ca := ((l.halfOf h).re i).planAddr + 262144
  match d.readFor l.ctx ca (2 * d.blockN * n) with
  | (none, d) => d
  | (some bs, d) =>
    let table := (List.range d.blockN).map (fun s => (List.range n).map (fun x => leNat ((bs.drop (2 * (s * n + x))).take 2)))
    match d.overCount l i table with
    | some (s, x) => d.reFault i l.ctx h l.number 0x06 (some (ca + 2 * (s * n + x)))
    | none =>
      let (ok, d) := d.mapSlots l h table (fun q => q = i)
      if !ok then d else
      let d := d.modRe h i (fun r => { r with waitHost := false, segs := segs.filter (fun s => !s.rows.isEmpty) })
      (d.modHalf h (fun x => { x with counts := d.joinCounts l (· = i) x.counts table })).settleMaps h

/-- The plan that RE i waits for is read and taken (R61 step 5). -/
def Dev.keothPlan (d : Dev) (i : Nat) : Dev :=
  match d.waitsHost i with
  | none => d
  | some (l, h) =>
    match d.hostPlan l h i with
    | (none, d) => d
    | (some segs, d) => d.acceptPlan l h i segs

/-- A write of RE_KEOTH_RESUME: none if no half waits for it (R62). -/
def Dev.keothResume (d : Dev) (p : MPort) (i val : Nat) (ecc : Ecc) : Option Dev :=
  match d.waitsHost i with
  | none => none
  | some (l, h) =>
    if bitsOf val 15 0 ≠ l.stepSeq ∨ bitsOf val 16 16 ≠ h then none
    else some (d.act (.keothResume p i (BitVec.ofNat 32 val) ecc) ecc (fun d => d.keothPlan i))

/-- KEOTH_TIMEOUT: no valid resume within RE_KEOTH_TIMEOUT strokes (R62). -/
def Dev.keothTimeout (d : Dev) (i : Nat) : Dev :=
  match d.waitsHost i with
  | none => d
  | some (l, h) =>
    if d.rd (Reg.reKeothTimeout i) = 0 then d else d.reFault i l.ctx h l.number 0x07 (some ((l.halfOf h).re i).planAddr)

/-! The ordered combine (R57 to R59). -/

/-- Where a returned row lands (R57). -/
def Layer.combineAddr (l : Layer) (token rank : Nat) : Nat := l.addr 40 + (token * 16 + rank) * l.retBytes

/-- Elements of a returned row, which is taken to stand in OUT_FMT. -/
def Layer.outElems (l : Layer) : Nat := l.retBytes * 8 / elemBits l.outFmt

/-- The filled ranks of a token: rank and weight, ascending. -/
def Half.filled (x : Half) (t : Nat) : List (Nat × Nat) :=
  let rows := x.res.flatMap (fun r => r.segs.flatMap (fun s => s.rows))
  sortBy (fun (a b : Nat × Nat) => decide (a.1 < b.1))
    ((rows.filter (fun r => r.pair.token = t)).map (fun r => (r.pair.rank, (x.pairFor r).weight.toNat)))

/-- One term of the sum of R58: acc + w × o for every element. -/
def combineTerm (fmt w : Nat) (acc : List Nat) (row : List Byte) : List Nat :=
  acc.zipIdx.map (fun a => fadd a.1 (fmul w (toF32 (elemDec fmt (elemAt fmt row a.2)))))

/-- The combined row of a token; none after a fault. -/
def Dev.combineToken (d : Dev) (l : Layer) (h t : Nat) : Option (List Byte) × Dev :=
  let r := ((l.halfOf h).filled t).foldl (fun (acc : Option (List Nat) × Dev) x =>
    match acc with
    | (none, d) => (none, d)
    | (some sum, d) =>
      match d.readFor l.ctx (l.combineAddr t x.1) l.retBytes with
      | (none, d) => (none, d)
      | (some row, d) => (some (combineTerm l.outFmt x.2 sum row), d)) (some (List.replicate l.outElems 0), d)
  match r with
  | (none, d) => (none, d)
  | (some sum, d) => (some (packCodes l.outFmt (sum.map (fun v => convWord l.outFmt (f32 v)))), d)

/-- A token is combined, written to OUT_ADDR and attributed to its core (R58, R59, R264 part 2); false after a fault. -/
def Dev.combineOne (d : Dev) (l : Layer) (h q j t : Nat) : Bool × Dev :=
  match d.combineToken l h t with
  | (none, d) => (false, d)
  | (some bs, d) =>
    match d.writeFor l.ctx (l.addr 48 + t * bs.length) bs with
    | (false, d) => (false, d)
    | (true, d) =>
      match l.occ with
      | none => (true, d)
      | some id =>
        let row : HmRow := ⟨q * (8 * d.lc) + j % (8 * d.lc), h, t, bs⟩
        (true, d.modOcc l.ctx id (fun o => { o with rows := o.rows ++ [row] }))

/-- The tokens of a half with quadrant and index in the quadrant's range. -/
def Layer.halfTokens (l : Layer) (h : Nat) : List (Nat × Nat × Nat) :=
  (List.range 4).flatMap (fun q =>
    let (lo, hi) := l.range h q
    (List.range (hi - lo)).map (fun j => (q, j, lo + j)))

/-- The cores that combine a half: the physical cores of the logical cores that its rows are attributed to. -/
def Blocks.combineCores (b : Blocks) (l : Layer) (h : Nat) : List Nat :=
  ((l.halfTokens h).map (fun x => x.1 * (8 * b.lc) + x.2.1 % (8 * b.lc))).eraseDups.filterMap b.physOf

/-- A slot move waits for the slot that a core serves, or for one of its ganged quartet: no program starts there (R288, R303). -/
def Blocks.slotMoving (b : Blocks) (p : Nat) : Bool :=
  match (b.core p).slot with
  | none => false
  | some s => b.mgmt.moves.any (fun m => m.1 = clusterOf p && (m.2.1 = s || ((b.gangPlace p).isSome && m.2.1 / 4 = s / 4)))

/-- A program runs on a core, its own or that of the gang it belongs to. -/
def Blocks.runsOn (b : Blocks) (p : Nat) : Bool := b.cores.any (fun e => e.2.prog.any (fun g => g.gang.contains p))

/-- A suspended program is to come back to a core, its own or that of the gang it belongs to. -/
def Blocks.suspendedOn (b : Blocks) (p : Nat) : Bool := b.cores.any (fun e => e.2.suspended.any (fun g => g.gang.contains p))

/-- The restore of a core for another context has begun with its start entry (R325). -/
def Blocks.restoringFor (b : Blocks) (ctx l : Nat) : Bool := b.ctxs.any (fun e => e.1 ≠ ctx && e.2.restoring.contains l)

/-- A program of a context may start on a core: none runs there, no switch or move touches it, and it is the context's or nobody's with
no state of the context to restore (R303 condition 4, R323). -/
def Blocks.coreReady (b : Blocks) (ctx p : Nat) : Bool :=
  let c := b.core p
  let (away, touched) := match b.logOf p with
    | some l => ((b.ctx ctx).saved.contains l, b.restoringFor ctx l)
    | none => (false, false)
  !b.runsOn p && !b.slotMoving p && !touched && (c.owner = some ctx || (c.owner = none && !away))

/-- The context's program has run on a core: it owns the core, unless it is not switchable (R322). -/
def Dev.ownCore (d : Dev) (ctx p : Nat) : Dev :=
  if (d.ctx ctx).saveBase = 0 then d else d.modCore p (fun c => { c with owner := some ctx })

/-- Every half of the layer is complete. -/
def Layer.complete (l : Layer) : Bool := l.a.done && (!l.split || l.b.done)

/-- The layer execution completes (R59, R135, R141): pins are released, leaving sequences end, the STEP ends. -/
def Dev.endLayer (d : Dev) (l : Layer) : Dev :=
  let counts := d.routing.counts.filter (fun r => r.seq ≠ l.stepSeq)
  let d : Dev := { d with routing := { layer := none, counts := counts, lastSeq := some l.stepSeq } }
  let d := d.dropDemandPins l.ctx
  let d := l.leaving.foldl (fun d n => (d.reclaim (reclaimPat (.sequence l.ctx n))).freeSlot l.ctx n) d
  d.finishStep l.ring l.seq l.result0 l.stepSeq

/-- The combine of a half may start on its cores, as a program of the layer's context would (R303 condition 4, R323); a suspended program on
one of them goes first, unless the context is a runnable real-time one (R326). -/
def Blocks.combineReady (b : Blocks) (l : Layer) (h : Nat) : Bool :=
  (b.combineCores l h).all (fun p => b.coreReady l.ctx p && (b.isRunnable l.ctx || !b.suspendedOn p))

/-- ORDERED_COMBINE: all return segments of the half are in; every token is combined in rank order and written, and the half's plan
buffers are returned. After the last half the layer completes (R58, R59, R60, R323). -/
def Dev.orderedCombine (d : Dev) (h : Nat) : Dev :=
  match d.routing.layer with
  | none => d
  | some l =>
    let x := l.halfOf h
    if 2 ≤ h || !x.returnOk || x.done || !d.combineReady l h then d else
    let (ok, d) := (l.halfTokens h).foldl (fun (acc : Bool × Dev) t =>
      if acc.1 then acc.2.combineOne l h t.1 t.2.1 t.2.2 else acc) (true, d)
    if !ok then d else
    let d := (d.combineCores l h).foldl (fun d p => d.ownCore l.ctx p) d
    let d := (x.res.flatMap (fun r => r.bufs)).foldl Dev.hwFree d
    let d := d.modHalf h (fun x => { x with done := true, res := x.res.map (fun r => { r with bufs := [] }) })
    match d.routing.layer with
    | some l => if l.complete then d.endLayer l else d
    | none => d

/-- Meaning of STEP. -/
def execStep (ring seq : Nat) (ecc : Ecc) (s : State) : Host.Outcome State Fault Refusal :=
  .next (s.onDev (s.dev.live (fun d => d.act (.step ring seq ecc) ecc (fun d => d.stepCmd ring seq))))

/-- Meaning of KEOTH_RECORD_POST. -/
def execKeothRecordPost (re : Nat) (s : State) : Host.Outcome State Fault Refusal :=
  .next (s.onDev (s.dev.live (fun d => d.act (.keothRecordPost re) {} (fun d => if re < 4 then d.keothPost re else d))))

/-- Meaning of KEOTH_TIMEOUT. -/
def execKeothTimeout (re : Nat) (s : State) : Host.Outcome State Fault Refusal :=
  .next (s.onDev (s.dev.live (fun d => if re < 4 then d.keothTimeout re else d)))

/-- Meaning of ORDERED_COMBINE. -/
def execOrderedCombine (half : Nat) (ecc : Ecc) (s : State) : Host.Outcome State Fault Refusal :=
  .next (s.onDev (s.dev.live (fun d => d.act (.orderedCombine half ecc) ecc (fun d => d.orderedCombine half))))

end Sys2Proof.Machine
end

