-- ==== Sys2Proof/Machine/Collective.lean ====
section
/-! DEFINITION. The collective engine (R215 to R225, R229, R238 to R240): descriptors, streams, reductions, and the rows of a
collective. -/

namespace Sys2Proof.Machine

/-! The descriptor (Table 9.1). -/

/-- OP: 0 all-to-all, 1 reduce-scatter, 2 all-gather, 3 all-reduce, 4 broadcast. -/
def Coll.op (c : Coll) : Nat := fldOf c.desc 0 3 0
/-- ITYPE. -/
def Coll.ityp (c : Coll) : Nat := fldOf c.desc 0 7 4
/-- OTYPE. -/
def Coll.otyp (c : Coll) : Nat := fldOf c.desc 0 11 8
/-- PERCORE. -/
def Coll.perCore (c : Coll) : Bool := bitOf (fldOf c.desc 0 31 0) 12
/-- ROOT. -/
def Coll.root (c : Coll) : Nat := fldOf c.desc 4 27 16
/-- COUNT. -/
def Coll.count (c : Coll) : Nat := fldOf c.desc 8 31 0
/-- SRC_ADDR. -/
def Coll.srcAddr (c : Coll) : Nat := fldOf c.desc 16 47 0
/-- DST_ADDR. -/
def Coll.dstAddr (c : Coll) : Nat := fldOf c.desc 24 47 0

/-- A format of Table 9.1. -/
def collFmt (f : Nat) : Bool := arrayFmt f || f = 0xA || f = 0xC

/-- The pair of formats of a reduction is in Table 9.3. -/
def reductionPair (i o : Nat) : Bool :=
  let narrow (f : Nat) : Bool := decide (f ≤ 6)
  if i = 0xA then o = 0xA else if i = 0xC then o = 0xC else narrow i && (narrow o || o = 0xA)

/-- The collective adds. -/
def Coll.reduces (c : Coll) : Bool := c.op = 1 || c.op = 3

/-- Bytes of a buffer of n elements: an MX row is padded to 32 bytes (R80, R216). -/
def bufBytes (fmt n : Nat) : Nat := if isMx fmt then (rowBytes fmt n + 31) / 32 * 32 else rowBytes fmt n

/-- Logical cores of the loaded Mount (R216). -/
def Blocks.logicalCores (b : Blocks) : Nat := 32 * b.lc

/-- Input buffers of this device: one per logical core where PERCORE applies, to reductions. -/
def Blocks.inputBufs (b : Blocks) (c : Coll) : Nat := if c.perCore && c.reduces then b.logicalCores else 1

/-- Bytes of the input at this device (Table 9.2). -/
def Blocks.inputBytes (b : Blocks) (c : Coll) : Nat :=
  if c.op = 0 then b.blockN * c.count
  else if c.op = 4 && b.me ≠ c.root then 0
  else b.inputBufs c * bufBytes c.ityp c.count

/-- Elements of the output row at this device (Table 9.2). -/
def Blocks.outputElems (b : Blocks) (c : Coll) : Nat :=
  if c.op = 1 then c.count / b.blockN else if c.op = 2 then b.blockN * c.count else c.count

/-- Bytes of the output at this device. -/
def Blocks.outputBytes (b : Blocks) (c : Coll) : Nat :=
  if c.op = 0 then b.blockN * c.count else bufBytes c.otyp (b.outputElems c)

/-- The range lies in the direct part or in the tiered part. -/
def rangeInPart (a n : Nat) : Bool :=
  n = 0 || (partOf a = partOf (a + n - 1) && (partOf a = .direct || partOf a = .tiered))

/-- R217 rejects the descriptor. -/
def Blocks.badColl (b : Blocks) (c : Coll) : Bool :=
  let n := b.blockN
  let reserved := fldOf c.desc 0 31 13 ≠ 0 || fldOf c.desc 4 15 15 ≠ 0 || fldOf c.desc 4 31 28 ≠ 0 || fldOf c.desc 16 63 48 ≠ 0 ||
    fldOf c.desc 24 63 48 ≠ 0 || (c.desc.drop 32).any (· ≠ 0)
  decide (4 < c.op) || !collFmt c.ityp || !collFmt c.otyp ||
  (if c.reduces then !reductionPair c.ityp c.otyp else c.ityp ≠ c.otyp) ||
  (c.reduces && c.count % n ≠ 0) || ((isMx c.ityp || isMx c.otyp) && c.count % (32 * n) ≠ 0) || decide (n ≤ c.root) ||
  !rangeInPart c.srcAddr (b.inputBytes c) || !rangeInPart c.dstAddr (b.outputBytes c) || reserved

/-! Wide formats and the tree (R218, R219). -/

/-- Bytes of a wide value: FP32 for the narrow formats, FP64 for FP32, INT64 for INT32 (Table 9.3). -/
def wideBytes (ityp : Nat) : Nat := if ityp = 0xA ∨ ityp = 0xC then 8 else 4

/-- An input number widened. -/
def widen (ityp : Nat) (x : Num) (raw : Nat) : Nat :=
  if ityp = 0xC then ofInt 64 (toInt 32 raw) else if ityp = 0xA then fp64.enc false x else toF32 x

/-- The wide values of a buffer of n elements. -/
def widenBuf (ityp n : Nat) (bs : List Byte) : List Nat := (List.range n).map (fun i => widen ityp (rowNum ityp n bs i) (elemAt ityp bs i))

/-- A wide addition. -/
def wideAdd (ityp a b : Nat) : Nat :=
  if ityp = 0xC then (a + b) % 2 ^ 64
  else if ityp = 0xA then fp64.enc false ((fp64.dec a).add (fp64.dec b))
  else fadd a b

/-- The number that a wide value spells. -/
def wideNum (ityp v : Nat) : Num := if ityp = 0xC then numInt (toInt 64 v) else if ityp = 0xA then fp64.dec v else f32 v

/-- Lists of wide values added element by element in the tree of R219. -/
def treeLists (ityp n : Nat) (xss : List (List Nat)) : List Nat :=
  (List.range n).map (fun i => treeOf (wideAdd ityp) 0 (xss.map (fun xs => xs.getD i 0)))

/-- Sums converted once to OTYPE and packed as a row (R218). -/
def packWide (ityp otyp : Nat) (vs : List Nat) : List Byte := packRow otyp (vs.map (wideNum ityp))

/-- Wide values as stream bytes. -/
def wideData (ityp : Nat) (vs : List Nat) : List Byte := vs.flatMap (toLe (wideBytes ityp))

/-! Where the bytes of a row lie. -/

/-- Elements [e, e + n) of a row of `total` elements at an address, e a multiple of n: their bytes, then their scale bytes
(R80, R216). -/
def rowSpans (fmt total a e n : Nat) : List (Nat × Nat) :=
  if isMx fmt then [(a + packedBytes fmt e, packedBytes fmt n), (a + packedBytes fmt total + e / 32, n / 32)]
  else [(a + e / n * rowBytes fmt n, rowBytes fmt n)]

/-- Bytes from offset o of a sequence of spans on: where each part lands. -/
def landing : List (Nat × Nat) → Nat → List Byte → List (Nat × List Byte)
  | [], _, _ => []
  | (a, n) :: rest, o, bs =>
    if bs.isEmpty then []
    else if n ≤ o then landing rest (o - n) bs
    else (a + o, bs.take (n - o)) :: landing rest 0 (bs.drop (n - o))

/-- Bytes of a stream. -/
def Stream.bytes (s : Stream) : Nat := s.head.length + sumBy (fun x => x.2) s.spans

/-- Cells of a stream. -/
def Stream.cells (s : Stream) : Nat := (s.bytes + 239) / 240

/-- Every cell of the stream is here. -/
def Stream.complete (s : Stream) : Bool := decide (s.cells ≤ s.got.length)

/-- Store the parts of a landing for the collective's context; false after a fault (R375). -/
def Dev.landAll (d : Dev) (ctx : Nat) (parts : List (Nat × List Byte)) : Bool × Dev :=
  parts.foldl (fun (acc : Bool × Dev) x => if acc.1 then acc.2.writeFor ctx x.1 x.2 else acc) (true, d)

/-- Bytes read from spans in order; none after a fault. -/
def Dev.readSpans (d : Dev) (ctx : Nat) (spans : List (Nat × Nat)) : Option (List Byte) × Dev :=
  spans.foldl (fun (acc : Option (List Byte) × Dev) x =>
    match acc with
    | (none, d) => (none, d)
    | (some bs, d) =>
      match d.readFor ctx x.1 x.2 with
      | (some y, d) => (some (bs ++ y), d)
      | (none, d) => (none, d)) (some [], d)

/-! Sending (R221, R314). -/

/-- The collective extension header (Table 9.5). -/
def collExt (fmt op level id src index shard : Nat) : List Byte :=
  toLe 4 (1 + fmt % 256 * 2 ^ 8 + op * 2 ^ 16 + level * 2 ^ 19) ++ toLe 4 (id + src * 2 ^ 16) ++ toLe 4 index ++ toLe 4 shard

/-- The collective is in its data phase. -/
def Blocks.inData (b : Blocks) (id : Nat) : Bool := (b.coll? id).any (fun c => c.phase = .data)

/-- A stream is cut into cells and offered at the collective engine's port; FLOW is a free value. -/
def Dev.sendStream (d : Dev) (c : Coll) (level shard peer : Nat) (bs : List Byte) : Dev :=
  if !d.inData c.id then d else
  (chunks 240 (bs.length / 240 + 1) bs).zipIdx.foldl (fun (d : Dev) (part : List Byte × Nat) =>
    let (f, d) := d.fresh
    let ext := collExt d.mountFmt (if c.re.isSome then 0 else c.op) level c.id d.me part.2 shard
    d.offer 10 (mkCell (addrOf (d.placeAt peer) 1 0) (addrOf d.self 1 0) 1 [ext] part.1 f.toNat 0 false) (some c.ring) (some c.id)) d

/-! Nodes of a reduction (R220). -/

/-- Offsets of a block index. -/
def Blocks.offsOf (b : Blocks) (i : Nat) : Nat × Nat × Nat := (i % b.bx, i / b.bx % b.by_, i / b.bx / b.by_)

/-- The block index at offsets. -/
def Blocks.indexAt (b : Blocks) (x y z : Nat) : Nat := x + b.bx * (y + b.by_ * z)

/-- The node of shard j at a level, for a value held by this device (Table 9.4). -/
def Blocks.nodeOf (b : Blocks) (level j : Nat) : Nat :=
  let (x, y, z) := b.offsOf j
  let (_, my, mz) := b.offsOf b.me
  if level = 1 then b.indexAt x my mz else if level = 2 then b.indexAt x y mz else b.indexAt x y z

/-- This device is the node of shard j at a level. -/
def Blocks.isNode (b : Blocks) (level j : Nat) : Bool :=
  let (x, y, z) := b.offsOf j
  let (mx, my, mz) := b.offsOf b.me
  x = mx && (level = 1 || (y = my && (level = 2 || z = mz)))

/-- The devices whose values a node takes at a level, in offset order, this one included. -/
def Blocks.axisLine (b : Blocks) (level : Nat) : List Nat :=
  let (x, y, z) := b.offsOf b.me
  if level = 1 then (List.range b.bx).map (fun i => b.indexAt i y z)
  else if level = 2 then (List.range b.by_).map (fun i => b.indexAt x i z)
  else (List.range b.bz).map (fun i => b.indexAt x y i)

/-- Shard size S. -/
def Blocks.shardElems (b : Blocks) (c : Coll) : Nat := c.count / b.blockN

/-- The (level, shard, sender) of every value that this device takes from another one. -/
def Blocks.levelInputs (b : Blocks) : List (Nat × Nat × Nat) :=
  [1, 2, 3].flatMap (fun lv => ((List.range b.blockN).filter (fun j => b.isNode lv j)).flatMap (fun j =>
    ((b.axisLine lv).filter (fun s => s ≠ b.me)).map (fun s => (lv, j, s))))

/-! Opening (R224, R229). -/

/-- An all-reduce or broadcast of at most 64 bytes of input runs on Filigree (R229); one whose wide values do not fit two messages
takes the bulk path, whose result is the same. -/
def Blocks.isSmall (b : Blocks) (c : Coll) : Bool :=
  let bytes := if c.op = 4 then bufBytes c.ityp c.count else b.inputBytes c
  c.re.isNone && (c.op = 3 || c.op = 4) && decide (bytes ≤ 64) && (c.op = 4 || decide (c.count * wideBytes c.ityp ≤ 128))

/-- Reassembly space for levels 1 to 3: one buffer from partition 2 for each input from another device (R224): false where the pool
refuses, and for every input its buffer. -/
def Dev.takeSpace (d : Dev) (c : Coll) : Bool × List (Nat × Nat × Nat × Nat) × Dev :=
  let size := d.shardElems c * wideBytes c.ityp
  if !c.reduces || size = 0 then (true, [], d) else
  d.levelInputs.foldl (fun (acc : Bool × List (Nat × Nat × Nat × Nat) × Dev) x =>
    if !acc.1 then acc else
    let (ptr, d) := acc.2.2.alloc size 2 c.ctx 10
    if ptr = 0 then (false, acc.2.1, d) else (true, acc.2.1 ++ [(x.1, x.2.1, x.2.2, ptr)], d)) (true, [], d)

/-- The streams that a collective of the ring expects (Table 9.4, R223); `bufs` are its reassembly buffers. -/
def Blocks.expected (b : Blocks) (c : Coll) (bufs : List (Nat × Nat × Nat × Nat)) : List Stream :=
  let n := b.blockN
  let others := (List.range n).filter (fun s => s ≠ b.me)
  let all :=
    if c.op = 0 then (List.range n).map (fun s => (⟨0, s, b.me, [], [(c.dstAddr + s * c.count, c.count)], []⟩ : Stream))
    else if c.op = 2 then others.map (fun s => ⟨4, s, s, [], rowSpans c.otyp (n * c.count) c.dstAddr (s * c.count) c.count, []⟩)
    else if c.op = 4 then
      (if b.me = c.root then [] else [⟨4, c.root, c.root, [], rowSpans c.otyp c.count c.dstAddr 0 c.count, []⟩])
    else
      bufs.map (fun x => ⟨x.1, x.2.2.1, x.2.1, [], [(x.2.2.2, b.shardElems c * wideBytes c.ityp)], []⟩) ++
      (if c.op = 3 then others.map (fun s =>
        ⟨4, s, s, [], rowSpans c.otyp c.count c.dstAddr (s * b.shardElems c) (b.shardElems c), []⟩) else [])
  if c.count = 0 then [] else all

/-! Data phase. -/

/-- The level-0 values of every element at this device (Table 9.4); none after a fault. -/
def Dev.levelZero (d : Dev) (c : Coll) : Option (List Nat) × Dev :=
  let stride := bufBytes c.ityp c.count
  match d.readFor c.ctx c.srcAddr (d.inputBufs c * stride) with
  | (none, d) => (none, d)
  | (some bs, d) =>
    let bufs := (List.range (d.inputBufs c)).map (fun i => widenBuf c.ityp c.count ((bs.drop (i * stride)).take stride))
    (some (treeLists c.ityp c.count bufs), d)

/-- A value of a level is complete for shard j: it is kept, and sent on where another device is the next node (R220). -/
def Dev.passOn (d : Dev) (c : Coll) (level j : Nat) (vs : List Nat) : Dev :=
  let d := d.modColl c.id (fun c => { c with partials := c.partials ++ [(level, j, vs)] })
  if 3 ≤ level ∨ d.isNode (level + 1) j = true then d
  else d.sendStream c (level + 1) j (d.nodeOf (level + 1) j) (wideData c.ityp vs)

/-- The zero bytes that pad an MX output row to 32 (R80). -/
def Dev.padOutput (d : Dev) (c : Coll) : Bool × Dev :=
  let n := d.outputElems c
  let used := rowBytes c.otyp n
  if c.re.isNone && isMx c.otyp && n ≠ 0 then d.writeFor c.ctx (c.dstAddr + used) (List.replicate (bufBytes c.otyp n - used) 0) else (true, d)

/-- This device's part of the output goes to its place, and at level Gather to every other device (R220). -/
def Dev.gatherOut (d : Dev) (c : Coll) (spans : List (Nat × Nat)) (bs : List Byte) (send : Bool) : Dev :=
  let (ok, d) := d.landAll c.ctx (landing spans 0 bs)
  if !ok then d else
  let (ok, d) := d.padOutput c
  if !ok then d else
  let d := d.modColl c.id (fun c => { c with written := true })
  if send then (List.range d.blockN).foldl (fun (d : Dev) p => if p = d.me then d else d.sendStream c 4 d.me p bs) d else d

/-- The sum of this device's shard is complete (R216, R220). -/
def Dev.shardDone (d : Dev) (c : Coll) (vs : List Nat) : Dev :=
  let s := d.shardElems c
  let bs := packWide c.ityp c.otyp vs
  if c.op = 1 then d.gatherOut c (rowSpans c.otyp s c.dstAddr 0 s) bs false
  else d.gatherOut c (rowSpans c.otyp c.count c.dstAddr (d.me * s) s) bs true

/-- The values of one input of a node: this device's own, or a complete stream's; none while it is not here. -/
def Dev.nodeInput (d : Dev) (c : Coll) (level j src : Nat) : Option (List Nat) × Dev :=
  if src = d.me then ((c.partials.find? (fun p => p.1 = level - 1 && p.2.1 = j)).map (fun p => p.2.2), d)
  else match c.streams.find? (fun s => s.level = level && s.src = src && s.shard = j) with
    | some s =>
      if !s.complete then (none, d) else
      let (bs, d) := d.readSpans c.ctx s.spans
      (bs.map (fun bs => (chunks (wideBytes c.ityp) bs.length bs).map leNat), d)
    | none => (none, d)

/-- A node whose inputs are all here: tree() is applied (R219, R220). -/
def Dev.runNode (d : Dev) (id level j : Nat) : Dev :=
  match d.coll? id with
  | none => d
  | some c =>
    if c.phase ≠ .data ∨ c.partials.any (fun p => p.1 = level && p.2.1 = j) = true then d else
    let here (src : Nat) : Bool := src = d.me && c.partials.any (fun p => p.1 = level - 1 && p.2.1 = j) ||
      c.streams.any (fun s => s.level = level && s.src = src && s.shard = j && s.complete)
    if !(d.axisLine level).all here then d else
    let (xss, d) := (d.axisLine level).foldl (fun (acc : Option (List (List Nat)) × Dev) src =>
      match acc with
      | (none, d) => (none, d)
      | (some xs, d) =>
        match d.nodeInput c level j src with
        | (some x, d) => (some (xs ++ [x]), d)
        | (none, d) => (none, d)) (some [], d)
    match xss with
    | none => d
    | some xss =>
      let vs := treeLists c.ityp (d.shardElems c) xss
      let d := d.passOn c level j vs
      if level = 3 then d.shardDone c vs else d

/-- Every node of this device whose inputs are here runs, level by level. -/
def Dev.runNodes (d : Dev) (c : Coll) : Dev :=
  if !c.reduces || c.re.isSome || c.count = 0 then d else
  [1, 2, 3].foldl (fun d lv => ((List.range d.blockN).filter (fun j => d.isNode lv j)).foldl (fun d j => d.runNode c.id lv j) d) d

/-- The streams of a ring's collective go out (R220, R223). -/
def Dev.sendAll (d : Dev) (c : Coll) : Dev :=
  if c.count = 0 then d else
  if c.op = 0 then
    (List.range d.blockN).foldl (fun (d : Dev) p =>
      if !d.inData c.id then d else
      match d.readFor c.ctx (c.srcAddr + p * c.count) c.count with
      | (some bs, d) => d.sendStream c 0 p p bs
      | (none, d) => d) d
  else if c.reduces then
    match d.levelZero c with
    | (none, d) => d
    | (some vs, d) =>
      let s := d.shardElems c
      (List.range d.blockN).foldl (fun (d : Dev) j => d.passOn c 0 j ((vs.drop (j * s)).take s)) d
  else if c.op = 4 ∧ d.me ≠ c.root then d
  else match d.readFor c.ctx c.srcAddr (rowBytes c.ityp c.count) with
    | (none, d) => d
    | (some bs, d) =>
      let spans := if c.op = 2 then rowSpans c.otyp (d.blockN * c.count) c.dstAddr (d.me * c.count) c.count
        else rowSpans c.otyp c.count c.dstAddr 0 c.count
      d.gatherOut c spans bs true

/-- A segment header (Table 2.5). -/
def segHeader (layer half dir stepSeq src dst rows rowBytes : Nat) : List Byte :=
  toLe 4 (1 + layer * 2 ^ 8 + half * 2 ^ 16 + dir * 2 ^ 17) ++ toLe 4 (stepSeq + src * 2 ^ 16) ++ toLe 4 dst ++ toLe 4 rows ++
  toLe 4 rowBytes ++ List.replicate 12 0

/-- The rows that device `peer` sent here, in stream order, as (slot, index in the slot). -/
def rowsFrom (counts : List Nat) : List (Nat × Nat) := counts.zipIdx.flatMap (fun x => (List.range x.1).map (fun i => (x.2, i)))

/-- Where the dispatched rows of a sender land (R222). -/
def Blocks.dispatchSpans (b : Blocks) (l : Layer) (h s : Nat) : List (Nat × Nat) :=
  let x := l.halfOf h
  (rowsFrom (x.counts.getD s [])).map (fun r =>
    (l.addr 32 + ((r.1 * 2 + h) * b.reserveOf l + baseOf x.counts s r.1 + r.2) * l.dispBytes, l.dispBytes))

/-- The dispatch stream to a peer is sent: its header, and the activation rows that the plan gathers (R51, R222). -/
def Dev.sendDispatch (d : Dev) (c : Coll) (l : Layer) (h peer : Nat) : Dev :=
  let rows := (l.halfOf h).merged peer
  if rows.isEmpty || !d.inData c.id then d else
  match d.readSpans l.ctx (rows.map (fun r => (l.addr 24 + r.gather * l.dispBytes, l.dispBytes))) with
  | (none, d) => d
  | (some bs, d) => d.sendStream c 0 peer peer (segHeader l.number h 0 l.stepSeq d.me peer rows.length l.dispBytes ++ bs)

/-- What an expert's output row for a received row is a function of: the Mount, the layer execution, the expert, the row's place, and the bytes
received (R7, R260, log entry 37). -/
def Blocks.expertKey (b : Blocks) (l : Layer) (h peer slot index : Nat) : List Nat :=
  [b.rd Reg.mgmtMountId, l.number, l.stepSeq, h, ((l.slotsOf b.me)[slot]?).getD 0, peer, index]

/-- An expert's output row. The specification does not say where a program leaves it: its bytes are free values that depend on nothing but
what R7 lets a result depend on. -/
def Blocks.expertRow (b : Blocks) (l : Layer) (h peer : Nat) (row : (Nat × Nat) × (Nat × Nat)) : List Byte :=
  let bs := b.currentBytes row.2.1 row.2.2
  (List.range (l.retBytes / 8)).flatMap (fun i => toLe 8 (Config.expertWord (b.expertKey l h peer row.1.1 row.1.2) bs i).toNat)

/-- The return stream to a peer is sent (R57): an output row for every row received, in the order received. -/
def Dev.sendReturn (d : Dev) (c : Coll) (l : Layer) (h peer : Nat) : Dev :=
  let rows := (rowsFrom ((l.halfOf h).counts.getD peer [])).zip (d.dispatchSpans l h peer)
  if rows.isEmpty || !d.inData c.id then d else
  d.sendStream c 0 peer peer (segHeader l.number h 1 l.stepSeq d.me peer rows.length l.retBytes ++ rows.flatMap (d.expertRow l h peer))

/-- The streams of a Routing Engine all-to-all go out. -/
def Dev.sendSegments (d : Dev) (c : Coll) (half dir : Nat) : Dev :=
  match d.routing.layer with
  | none => d
  | some l => (List.range d.blockN).foldl (fun (d : Dev) p => if dir = 0 then d.sendDispatch c l half p else d.sendReturn c l half p) d

/-- This device holds every cell it expects and has written its output: it votes OK (R224). -/
def Dev.voteIfDone (d : Dev) (id : Nat) : Dev :=
  match d.coll? id with
  | none => d
  | some c =>
    let output := c.re.isSome || c.op = 0 || c.count = 0 || c.written || (c.op = 4 && d.me ≠ c.root)
    if c.phase ≠ .data ∨ c.small = true ∨ output = false ∨ c.streams.all Stream.complete = false then d
    else if c.op = 4 ∧ d.me ≠ c.root then
      let (ok, d) := d.padOutput c
      if ok then d.enterClose id true else d
    else d.enterClose id true

/-! Small collectives (R229). -/

/-- The device that holds the broadcast value on this device's line in a round, if one does. -/
def Blocks.holder (b : Blocks) (root axis : Nat) : Option Nat :=
  let (rx, ry, rz) := b.offsOf root
  let (x, y, z) := b.offsOf b.me
  if axis = 0 then if y = ry ∧ z = rz then some (b.indexAt rx y z) else none
  else if axis = 1 then if z = rz then some (b.indexAt x ry z) else none
  else some (b.indexAt x y rz)

/-- The senders that this device waits for in a round. -/
def Blocks.smallSenders (b : Blocks) (c : Coll) (axis : Nat) : List Nat :=
  if c.op = 3 then b.lineOf axis else ((b.holder c.root axis).toList).filter (fun i => i ≠ b.me)

/-- Messages that a sender sends in a round. -/
def Coll.parts (c : Coll) : Nat := if c.op = 3 ∧ 64 < c.count * wideBytes c.ityp then 2 else 1

/-- The value that a device contributes to a round, as bytes. -/
def Coll.smallData (c : Coll) : List Byte :=
  let vs := (c.partials.headD (0, 0, [])).2.2
  if c.op = 3 then wideData c.ityp vs else vs.map (BitVec.ofNat 8)

/-- A round is reached: this device's value is sent, and messages that came early are taken. -/
def Dev.smallEnter (d : Dev) (id : Nat) : Dev :=
  match d.coll? id with
  | none => d
  | some c =>
    let axis := c.smallAxis
    let sends := c.op = 3 || d.holder c.root axis = some d.me
    let d := if !sends then d else
      (d.lineOf axis).foldl (fun (d : Dev) i => (List.range c.parts).foldl (fun (d : Dev) p =>
        d.filSend 3 id (axis + 4 * p) ((c.smallData.drop (64 * p)).take 64) i) d) d
    let (mine, rest) := d.fil.held.partition (fun m => m.typ = 3 && m.key = id && bitsOf m.sub 1 0 = axis)
    let d : Dev := { d with fil := { d.fil with held := rest } }
    d.modColl id (fun c => { c with smallGot := c.smallGot ++ mine.map (fun m => (axis, bitsOf m.sub 2 2, m.src, m.data)) })

/-- The bytes received from a sender in a round, if all are here. -/
def Coll.smallFrom (c : Coll) (axis src : Nat) : Option (List Byte) :=
  (List.range c.parts).foldl (fun (acc : Option (List Byte)) p =>
    match acc, c.smallGot.find? (fun g => g.1 = axis && g.2.1 = p && g.2.2.1 = src) with
    | some bs, some g => some (bs ++ g.2.2.2)
    | _, _ => none) (some [])

/-- The value after a round: tree() over the line in offset order, or the holder's bytes. -/
def Blocks.smallNext (b : Blocks) (c : Coll) : List Nat :=
  let own := (c.partials.headD (0, 0, [])).2.2
  let axis := c.smallAxis
  if c.op = 3 then
    let vals (i : Nat) : List Nat :=
      if i = b.me then own
      else (chunks (wideBytes c.ityp) c.count ((c.smallFrom axis i).getD [])).map leNat
    treeLists c.ityp c.count ((b.axisLine (axis + 1)).map vals)
  else match b.smallSenders c axis with
    | i :: _ => ((c.smallFrom axis i).getD []).map (·.toNat)
    | [] => own

/-- The result of a small collective is written and this device votes OK. -/
def Dev.smallEnd (d : Dev) (c : Coll) : Dev :=
  let vs := (c.partials.headD (0, 0, [])).2.2
  let bs := if c.op = 3 then packWide c.ityp c.otyp vs else vs.map (BitVec.ofNat 8)
  let (ok, d) := d.landAll c.ctx [(c.dstAddr, padTo (bufBytes c.otyp c.count) bs)]
  if ok then d.enterClose c.id true else d

/-- The rounds of a small collective run as far as the messages received allow. -/
def Dev.smallRun (d : Dev) (id : Nat) (enter : Bool) : Nat → Dev
  | 0 => d
  | fuel + 1 =>
    match d.coll? id with
    | none => d
    | some c =>
      if c.phase ≠ .data then d
      else if 3 ≤ c.smallAxis then d.smallEnd c
      else
        let d := if enter then d.smallEnter id else d
        match d.coll? id with
        | none => d
        | some c =>
          if !(d.smallSenders c c.smallAxis).all (fun i => (c.smallFrom c.smallAxis i).isSome) then d
          else
            let vs := d.smallNext c
            (d.modColl id (fun c => { c with smallAxis := c.smallAxis + 1, partials := [(0, 0, vs)] })).smallRun id true fuel

/-- A small collective starts: its own value is read (R229). -/
def Dev.smallStart (d : Dev) (c : Coll) : Dev :=
  let begin_ (d : Dev) (vs : List Nat) : Dev := (d.modColl c.id (fun c => { c with partials := [(0, 0, vs)] })).smallRun c.id true 5
  if c.op = 3 then
    match d.levelZero c with
    | (some vs, d) => begin_ d vs
    | (none, d) => d
  else if d.me = c.root then
    match d.readFor c.ctx c.srcAddr (rowBytes c.ityp c.count) with
    | (some bs, d) => begin_ d (bs.map (·.toNat))
    | (none, d) => d
  else begin_ d []

/-! Progress. -/

/-- A participant has voted FAIL at close for another reason than its deadline, and this device has heard it: the collective fails (R225,
Table 13.2). -/
def Blocks.failHeard (b : Blocks) (id : Nat) : Bool := b.fil.held.any (fun m => isFail m id)

/-- A collective goes on: past its open barrier to the data phase or to a FAIL vote, and from the data phase to its vote (R224,
R225). -/
def Dev.collStep (d : Dev) (id : Nat) : Dev :=
  match d.coll? id with
  | none => d
  | some c =>
    let failed : Bool := c.own ≠ 0 || c.version || c.aborted
    match c.phase with
    | .opening =>
      if c.open_.axis < 3 then d
      else if failed || !c.open_.ok then d.enterClose id false
      else if d.failHeard id then (d.modColl id (fun c => { c with aborted := true })).enterClose id false
      else
        let c := { c with phase := .data }
        let d := d.modColl id (fun _ => c)
        let d := match c.re with
          | some (half, dir) => d.sendSegments c half dir
          | none => d.sendAll c
        (d.runNodes c).voteIfDone id
    | .data => if failed then d.enterClose id false else (d.runNodes c).voteIfDone id
    | _ => d

/-- Collectives that are open here. -/
def Blocks.openColls (b : Blocks) : Nat := (b.colls.filter (fun c => c.phase ≠ .waiting && !c.reported)).length

/-- A new collective may open (R225, R241). -/
def Blocks.mayOpen (b : Blocks) : Bool := b.flag Reg.collCtrl 0 && decide (b.openColls < 64)

/-- The open barrier is entered with a status (R224). -/
def Dev.enterOpen (d : Dev) (id status : Nat) : Dev :=
  let d := d.modColl id (fun c => { c with phase := .opening, open_ := { ok := status = 0, status := status }, own := status })
  (((d.bump Reg.collCntOpened 1).barrierRun id false true 4).collStep id).collSweep

/-- A waiting collective opens. -/
def Dev.openColl (d : Dev) (c : Coll) : Dev :=
  let bad := d.badColl c
  if d.isSmall c then
    let d := (d.bump Reg.collCntOpened 1).modColl c.id (fun c => { c with small := true, phase := .data, own := if bad then 0x81 else 0 })
    if bad then d.enterClose c.id false
    else if c.count = 0 then (d.enterClose c.id true).collSweep
    else if d.failHeard c.id then (d.voteFail c.id).collSweep
    else (d.smallStart c).collSweep
  else if bad then d.enterOpen c.id 0x81
  else
    let (ok, bufs, d) := d.takeSpace c
    let d := d.modColl c.id (fun x => { x with bufs := bufs.map (fun b => b.2.2.2), streams := d.expected c bufs })
    d.enterOpen c.id (if ok then 0 else 0x83)

/-! Rows. -/

/-- COLLECTIVE: the descriptor is read and the collective waits to open (R215). It waits while another collective of its number is
on the device. -/
def Dev.collective (d : Dev) (ring seq : Nat) : Dev :=
  match d.job? ring seq with
  | none => d
  | some j =>
    if fldOf j.cmd 0 7 0 ≠ 3 ∨ j.started = true then d else
    match d.readFor j.ctx (fldOf j.cmd 24 47 0) 64 with
    | (none, d) => d
    | (some desc, d) =>
      let id := fldOf desc 4 14 0
      if d.colls.any (fun c => c.id = id && !c.reported) then d else
      let d := d.modJob ring seq (fun x => { x with started := true })
      let c : Coll := { id := id, ctx := j.ctx, ring := ring, seq := seq, desc := desc }
      { d with colls := d.colls.filter (fun x => x.id ≠ id) ++ [c] }

/-- COLLECTIVE_OPEN: the oldest waiting collective opens if a slot is free (R224, R225, R241). -/
def Dev.collectiveOpen (d : Dev) : Dev :=
  match d.colls.find? (fun c => c.phase = .waiting) with
  | some c => if d.mayOpen then d.openColl c else d
  | none => d

/-- A Routing Engine all-to-all opens with the streams that it expects (R222 to R224). -/
def Dev.openSegments (d : Dev) (l : Layer) (half dir : Nat) (streams : List Stream) : Dev :=
  let id := 0x8000 + l.stepSeq % 4096 * 4 + half * 2 + dir
  let c : Coll := { id := id, ctx := l.ctx, ring := l.ring, seq := l.seq, re := some (half, dir), streams := streams }
  let d : Dev := { d with colls := d.colls.filter (fun x => x.id ≠ id) ++ [c] }
  d.enterOpen id 0

/-- DISPATCH_OPEN: all plans and receive maps of the half are written (R223). -/
def Dev.dispatchOpen (d : Dev) (h : Nat) : Dev :=
  match d.routing.layer with
  | none => d
  | some l =>
    let x := l.halfOf h
    if 2 ≤ h || !x.mapped || x.dispatched || !d.mayOpen then d else
    let streams := (List.range d.blockN).filterMap (fun s =>
      let spans := d.dispatchSpans l h s
      if spans.isEmpty then none
      else some (⟨0, s, d.me, segHeader l.number h 0 l.stepSeq s d.me spans.length l.dispBytes, spans, []⟩ : Stream))
    (d.modHalf h (fun x => { x with dispatched := true })).openSegments l h 0 streams

/-- Every local expert with rows has had a program started on its shape word, and none of them still runs (R223). -/
def Blocks.expertsDone (b : Blocks) (l : Layer) (h : Nat) : Bool :=
  let x := l.halfOf h
  let slots := List.range (l.slotsOf b.me).length
  slots.all (fun n => rowsFor x.counts n = 0 || x.started.contains n) &&
  !b.jobs.any (fun j => j.ctx = l.ctx && fldOf j.cmd 0 7 0 = 1 && fldOf j.cmd 48 63 48 = l.stepSeq &&
    slots.any (fun n => fldOf j.cmd 48 47 0 = b.slotShape l h n))

/-- RETURN_OPEN: every program of the half's local experts has completed (R57, R223). -/
def Dev.returnOpen (d : Dev) (h : Nat) : Dev :=
  match d.routing.layer with
  | none => d
  | some l =>
    let x := l.halfOf h
    if 2 ≤ h || !x.dispatchOk || x.returned || !d.expertsDone l h || !d.mayOpen then d else
    let streams := (List.range d.blockN).filterMap (fun s =>
      let spans := (x.merged s).map (fun r => (l.combineAddr r.pair.token r.pair.rank, l.retBytes))
      if spans.isEmpty then none
      else some (⟨0, s, d.me, segHeader l.number h 1 l.stepSeq s d.me spans.length l.retBytes, spans, []⟩ : Stream))
    (d.modHalf h (fun x => { x with returned := true })).openSegments l h 1 streams

/-- The slot at which a segment header's ROWS disagrees with the receive map: the first one whose rows it does not reach (R55). -/
def headerSlot (counts : List Nat) (rows : Nat) : Nat :=
  if rows = sumBy (fun x => x) counts then 0
  else ((List.range counts.length).find? (fun n => decide (rows < sumBy (fun x => x) (counts.take (n + 1))))).getD counts.length

/-- A segment header that the receive map does not announce faults with code 0x05 (R54, R55). -/
def Dev.headerFault (d : Dev) (c : Coll) (src : Nat) (bs : List Byte) : Dev :=
  match c.re, d.routing.layer with
  | some (half, dir), some l =>
    let counts := if dir = 0 then (l.halfOf half).counts.getD src [] else []
    d.countFault (fldOf bs 0 15 8) (fldOf bs 0 16 16) (headerSlot counts (fldOf bs 12 23 0))
  | _, _ => d

/-- A cell of an expected stream is placed by its CELL_INDEX (R221, R238). -/
def Dev.placeCell (d : Dev) (c : Coll) (s : Stream) (index : Nat) (bs : List Byte) : Dev :=
  let mine (x : Stream) : Bool := x.level = s.level && x.src = s.src && x.shard = s.shard
  let got (x : Stream) : Stream := { x with got := x.got ++ [index] }
  let d := (d.modColl c.id (fun c => { c with streams := updWhere mine got c.streams })).bump Reg.collCntRxCells 1
  let headLen := s.head.length
  if index = 0 ∧ bs.take headLen ≠ s.head then (d.headerFault c s.src bs).collSweep
  else
    let skip := headLen - 240 * index
    let (ok, d) := d.landAll c.ctx (landing s.spans (240 * index - headLen) (bs.drop skip))
    if ok then (d.collStep c.id).collSweep else d.collSweep

/-- Another Mount format was seen (R221, R225). -/
def Dev.versionSeen (d : Dev) (id : Nat) : Dev :=
  let d := (d.bump Reg.collCntVersion 1).modColl id (fun c => { c with version := true })
  match d.coll? id with
  | some c => if c.phase = .data then (d.voteFail id).collSweep else d
  | none => d

/-- COLLECTIVE_CELL_RECEIVE: the oldest collective cell delivered is placed, or discarded as a duplicate, stale or of another Mount
format (R221, R238, R241). -/
def Dev.collReceive (d : Dev) : Dev :=
  match d.router.collIn with
  | [] => d
  | cell :: rest =>
    let d : Dev := { d with router := { d.router with collIn := rest } }
    match (List.range cell.extCount).find? (fun i => bitsOf (cell.extWord i) 2 0 = 1) with
    | none => d.bump Reg.collCntStale 1
    | some i =>
      let e := cell.ext i
      let id := fldOf e 4 15 0
      let level := fldOf e 0 21 19
      let src := fldOf e 4 27 16
      let index := fldOf e 8 31 0
      let shard := fldOf e 12 11 0
      if fldOf e 0 15 8 ≠ d.mountFmt then d.versionSeen id else
      match d.coll? id with
      | none => d.bump Reg.collCntStale 1
      | some c =>
        let s := c.streams.find? (fun s => s.level = level && s.src = src && s.shard = shard)
        if c.reported || c.phase = .waiting then d.bump Reg.collCntStale 1 else
        match s with
        | none =>
          if c.re.isSome && index = 0 && c.phase ≠ .closing then (d.headerFault c src cell.data).collSweep else d.bump Reg.collCntStale 1
        | some s =>
          if s.got.contains index then d.bump Reg.collCntDup 1
          else if c.phase = .closing ∨ s.cells ≤ index then d.bump Reg.collCntStale 1
          else d.placeCell c s index cell.data

/-- BARRIER_MESSAGE: the oldest barrier message is a vote of the round that its collective is in, or is kept until the round is
reached (R228). A vote of FAIL at close that is not of a deadline ends the data phase (R225, log entry 76). -/
def Dev.barrierMessage (d : Dev) : Dev :=
  match d.filTake 2 with
  | (none, d) => d
  | (some m, d) =>
    let close := bitOf m.sub 0
    let d := if bitsOf m.sub 9 2 = d.mountFmt then d else d.bump Reg.collCntVersion 1
    let now := match d.coll? m.key with
      | some c => (if close then c.phase = .closing else c.phase = .opening) && (c.bar close).axis = bitsOf m.sub 11 10
      | none => false
    if !now then
      let d : Dev := { d with fil := { d.fil with held := d.fil.held ++ [m] } }
      if isFail m m.key && d.inData m.key then (d.voteFail m.key).collSweep else d
    else (((d.modColl m.key (fun c => c.takeVote close d.mountFmt m)).barrierRun m.key close false 4).collStep m.key).collSweep

/-- SMALL_COLLECTIVE_MESSAGE: a value of the round that its collective is in, or kept until the round is reached (R229). -/
def Dev.smallMessage (d : Dev) : Dev :=
  match d.filTake 3 with
  | (none, d) => d
  | (some m, d) =>
    let axis := bitsOf m.sub 1 0
    let now := match d.coll? m.key with
      | some c => c.small && c.phase = .data && c.smallAxis = axis
      | none => false
    if !now then { d with fil := { d.fil with held := d.fil.held ++ [m] } }
    else ((d.modColl m.key (fun c => { c with smallGot := c.smallGot ++ [(axis, bitsOf m.sub 2 2, m.src, m.data)] })).smallRun
      m.key false 5).collSweep

/-- COLLECTIVE_DEADLINE: TIMEOUT strokes after the open barrier was entered the collective votes FAIL, if it has not voted, and ends
here (R224, R225, R239). -/
def Dev.collDeadline (d : Dev) (id : Nat) : Dev :=
  match d.coll? id with
  | none => d
  | some c =>
    if c.phase = .waiting ∨ c.reported = true then d else
    let d := d.modColl id (fun c => { c with lost := true })
    let vote (c : Coll) : Coll := { c with phase := .closing, close := { ok := false, status := c.voteStatus } }
    let d := if c.phase = .closing then d else (d.modColl id vote).barrierRun id true true 4
    (d.collReport id).collSweep

/-- Meaning of COLLECTIVE. -/
def execCollective (ring : Nat) (seq : Nat) (ecc : Ecc) (s : State) : Host.Outcome State Fault Refusal :=
  .next (s.onDev (s.dev.live (fun d => d.act (.collective ring seq ecc) ecc (fun d => d.collective ring seq))))

/-- Meaning of COLLECTIVE_OPEN. -/
def execCollectiveOpen (ecc : Ecc) (s : State) : Host.Outcome State Fault Refusal :=
  .next (s.onDev (s.dev.live (fun d => d.act (.collectiveOpen ecc) ecc Dev.collectiveOpen)))

/-- Meaning of DISPATCH_OPEN. -/
def execDispatchOpen (half : Nat) (ecc : Ecc) (s : State) : Host.Outcome State Fault Refusal :=
  .next (s.onDev (s.dev.live (fun d => d.act (.dispatchOpen half ecc) ecc (fun d => d.dispatchOpen half))))

/-- Meaning of RETURN_OPEN. -/
def execReturnOpen (half : Nat) (s : State) : Host.Outcome State Fault Refusal :=
  .next (s.onDev (s.dev.live (fun d => d.act (.returnOpen half) {} (fun d => d.returnOpen half))))

/-- Meaning of COLLECTIVE_CELL_RECEIVE. -/
def execCollectiveCellReceive (ecc : Ecc) (s : State) : Host.Outcome State Fault Refusal :=
  .next (s.onDev (s.dev.live (fun d => d.act (.collectiveCellReceive ecc) ecc Dev.collReceive)))

/-- Meaning of BARRIER_MESSAGE. -/
def execBarrierMessage (ecc : Ecc) (s : State) : Host.Outcome State Fault Refusal :=
  .next (s.onDev (s.dev.live (fun d => d.act (.barrierMessage ecc) ecc Dev.barrierMessage)))

/-- Meaning of SMALL_COLLECTIVE_MESSAGE. -/
def execSmallCollectiveMessage (ecc : Ecc) (s : State) : Host.Outcome State Fault Refusal :=
  .next (s.onDev (s.dev.live (fun d => d.act (.smallCollectiveMessage ecc) ecc Dev.smallMessage)))

/-- Meaning of COLLECTIVE_DEADLINE. -/
def execCollectiveDeadline (id : Nat) (s : State) : Host.Outcome State Fault Refusal :=
  .next (s.onDev (s.dev.live (fun d => d.collDeadline id)))

end Sys2Proof.Machine
end

