-- ==== Sys2Proof/Machine/Ready.lean ====
section
/-! DEFINITION. Ring commands before their grant: their fields and limits (R299, R301, R302), prerequisites (R300), core groups (R112,
R275), and the conditions of R303. -/

namespace Sys2Proof.Machine

/-! Fields (Tables 12.2 and 12.4). -/

/-- OPCODE. -/
def cmdOp (cmd : List Byte) : Nat := fldOf cmd 0 7 0

/-- FENCE. -/
def cmdFence (cmd : List Byte) : Bool := bitOf (fldOf cmd 0 31 0) 8

/-- HLAYER and ORDINAL. -/
def cmdHlayer (cmd : List Byte) : Nat := fldOf cmd 8 15 0
/-- ORDINAL. -/
def cmdOrdinal (cmd : List Byte) : Nat := fldOf cmd 8 31 16

/-- The valid prerequisites, as (RING, SEQ). -/
def cmdPres (cmd : List Byte) : List (Nat × Nat) :=
  ([fldOf cmd 12 31 0, fldOf cmd 16 31 0].filter (fun w => bitOf w 31)).map (fun w => (bitsOf w 27 16, bitsOf w 15 0))

/-- SHAPE_ADDR and SHAPE_SEQ of a PROGRAM. -/
def cmdShape (cmd : List Byte) : Nat := fldOf cmd 48 47 0
/-- SHAPE_SEQ. -/
def cmdShapeSeq (cmd : List Byte) : Nat := fldOf cmd 48 63 48

/-- GROUP and ASSAY of a PROGRAM. -/
def cmdGroup (cmd : List Byte) : Nat := fldOf cmd 24 15 0
/-- ASSAY. -/
def cmdAssay (cmd : List Byte) : Bool := bitOf (fldOf cmd 24 31 0) 16

/-- The operand bits that Table 12.4 names, as (byte offset, high bit, low bit). -/
def operandBits (op : Nat) : List (Nat × Nat × Nat) :=
  if op = 1 then [(24, 16, 0), (28, 21, 0), (32, 47, 0), (40, 23, 0), (44, 23, 0), (48, 63, 0), (56, 55, 0)]
  else if op = 2 then [(24, 7, 0), (28, 15, 0), (32, 47, 0)]
  else if op = 3 then [(24, 47, 0)]
  else if op = 4 then [(24, 23, 0), (28, 31, 0)]
  else if op = 5 then [(24, 22, 0), (28, 17, 0)]
  else if op = 6 then [(32, 47, 0)]
  else if op = 8 then [(24, 63, 0), (32, 47, 0), (40, 31, 0), (44, 0, 0)]
  else []

/-- The operand bytes with every named bit cleared: what is left is reserved. -/
def reservedOperands (cmd : List Byte) : Nat :=
  let v := leNat ((cmd.drop 24).take 40)
  (operandBits (cmdOp cmd)).foldl (fun v f => setBits v (8 * (f.1 - 24) + f.2.1) (8 * (f.1 - 24) + f.2.2) 0) v

/-- An operand breaks a limit of Table 12.4. -/
def badOperands (cmd : List Byte) : Bool :=
  let op := cmdOp cmd
  if op = 1 then
    fldOf cmd 28 21 0 % 32 ≠ 0 || fldOf cmd 40 23 0 % 32 ≠ 0 || decide (fldOf cmd 40 23 0 < 32) || cmdShape cmd % 8 ≠ 0 ||
    fldOf cmd 56 47 0 % 16 ≠ 0
  else if op = 2 then fldOf cmd 32 47 0 % 8 ≠ 0
  else if op = 3 then fldOf cmd 24 47 0 % 64 ≠ 0
  else if op = 5 then fldOf cmd 24 22 0 = 0 || decide (4194304 < fldOf cmd 24 22 0)
  else if op = 8 then fldOf cmd 40 31 0 = 0 || partOf (fldOf cmd 32 47 0) = .remote
  else false

/-! Core groups (R275, R112). -/

/-- The entry that GROUP names. -/
def Blocks.groupOf (b : Blocks) (cmd : List Byte) : Option Group :=
  match b.mgmt.mount with
  | none => none
  | some m => (if cmdAssay cmd then m.assay else m.groups)[cmdGroup cmd]?

/-- The physical cores of consecutive logical cores, in order. -/
def Blocks.coresOf (b : Blocks) (first count : Nat) : List Nat := (List.range count).filterMap (fun i => b.physOf (first + i))

/-- The first idle ASSAY_ONLY core of a group's quadrant that is wide enough (R112). -/
def Blocks.assayCore (b : Blocks) (g : Group) : Option Nat :=
  let q := g.first / (8 * b.lc)
  (List.range 144).findSome? (fun i =>
    let p := 144 * q + i
    let c := b.core p
    if c.assayOnly && c.prog.isNone && decide (g.assayWidth ≤ b.coreWidth p) then some p else none)

/-- The cores on which a PROGRAM would start, in group order. -/
def Blocks.placeCores (b : Blocks) (cmd : List Byte) : List Nat :=
  match b.groupOf cmd with
  | none => []
  | some g =>
    if cmdAssay cmd then
      match b.assayCore g with
      | some p => [p]
      | none => b.coresOf g.fbFirst g.fbCount
    else b.coresOf g.first g.count

/-- Every core that the program would touch: the cores of its group and the rest of the gangs that they lead. -/
def Blocks.touched (b : Blocks) (cmd : List Byte) : List Nat := ((b.placeCores cmd).flatMap (fun p => p :: b.gangOf p)).eraseDups

/-! Validity (R299). -/

/-- A command that completes at once with BAD_CMD. A GROUP that the Mount does not define is taken as an invalid descriptor (log entry
45). -/
def Blocks.badCmd (b : Blocks) (ring seq : Nat) (cmd : List Byte) : Bool :=
  let op := cmdOp cmd
  decide (8 < op) || fldOf cmd 0 15 10 ≠ 0 || fldOf cmd 4 31 11 ≠ 0 || fldOf cmd 20 31 0 ≠ 0 ||
  fldOf cmd 12 30 28 ≠ 0 || fldOf cmd 16 30 28 ≠ 0 || (op ≠ 1 && op ≠ 2 && fldOf cmd 8 31 0 ≠ 0) ||
  reservedOperands cmd ≠ 0 || badOperands cmd || (op = 1 && (b.groupOf cmd).isNone) ||
  (cmdPres cmd).any (fun p => b.ringCtx p.1 ≠ b.ringCtx ring ||
    (p.1 = ring && !(decide (1 ≤ (seq + 65536 - p.2) % 65536) && decide ((seq + 65536 - p.2) % 65536 < 32768))))

/-! Prerequisites (R300). -/

/-- How a prerequisite stands. -/
inductive PreState where
  | met
  | waits
  | failed
  deriving DecidableEq, Repr

/-- The command is fetched or granted and not complete. -/
def Blocks.isPending (b : Blocks) (ring seq : Nat) : Bool :=
  (b.ring ring).fetched.any (fun f => f.1 = seq) || (b.job? ring seq).isSome

/-- A prerequisite judged against RING_SQ_HEAD; a SEQ in the window of which nothing is kept counts as met (log entry 46). -/
def Blocks.preState (b : Blocks) (ring seq : Nat) : PreState :=
  let dist := (b.rd (Reg.ringSqHead ring) + 2 * 65536 - 1 - seq) % 65536
  if 32768 ≤ dist then .waits
  else if 512 ≤ dist then .met
  else if b.isPending ring seq then .waits
  else if (b.ring ring).ended.contains (seq, false) then .failed
  else .met

/-! The conditions of R303. -/

/-- An enabled command ring. -/
def Blocks.isCommandRing (b : Blocks) (r : Nat) : Bool := b.rd (Reg.ringCtrl r) % 8 = 1

/-- Commands of a ring granted and not complete. -/
def Blocks.inflight (b : Blocks) (r : Nat) : Nat := (b.jobs.filter (fun j => j.ring = r)).length

/-- Condition 3: no shape word is named, or it is here and shows VALID and the expected STEP_SEQ (R54); one that is away is fetched first
(R129). A word whose address is refused is met by the command itself. -/
def Blocks.shapeReady (b : Blocks) (cmd : List Byte) : Bool :=
  let a := cmdShape cmd
  a = 0 || (b.engineCheck a 8).isSome ||
    (b.allResident a 8 && (let w := b.devNat a 8; bitOf w 63 && bitsOf w 47 32 = cmdShapeSeq cmd))

/-- A PROGRAM that has been granted and not yet started is to run on a core. -/
def Blocks.claimed (b : Blocks) (p : Nat) : Bool :=
  b.jobs.any (fun j => cmdOp j.cmd = 1 && !j.started && (b.touched j.cmd).contains p)

/-- The cores of a PROGRAM: no program, switch or move touches them, and each is the context's or nobody's (R323). A suspended program on
them goes before a start of a context that is not a runnable real-time context (R326). -/
def Blocks.coresReady (b : Blocks) (ctx : Nat) (cmd : List Byte) : Bool :=
  (b.touched cmd).all (fun p =>
    ((b.core p).assayOnly && !b.runsOn p || b.coreReady ctx p) && (b.isRunnable ctx || !b.suspendedOn p))

/-- Condition 4. -/
def Blocks.groupReady (b : Blocks) (ctx : Nat) (cmd : List Byte) : Bool :=
  b.coresReady ctx cmd && (b.touched cmd).all (fun p => !b.claimed p)

/-- Condition 5: the stage is admitted for the context (R133). -/
def Blocks.stageReady (b : Blocks) (ctx : Nat) (cmd : List Byte) : Bool :=
  match cmdStage cmd with
  | none => true
  | some s => (b.ctx ctx).stagePins.any (fun e => e.1 = s)

/-- The Hallmark ring is full (R266). -/
def Blocks.hmFull (b : Blocks) : Bool :=
  let n := b.rd Reg.tbHmSlots
  decide (n < 2) || (b.rd Reg.tbHmHead + 1) % n = b.rd Reg.tbHmTail

/-- The context issues no command: it is a real-time one outside its span from start to yield (R325), it has yielded, a fence of R257 holds it,
or its Hallmark entry waits for room (R266). -/
def Blocks.ctxHeld (b : Blocks) (ctx : Nat) (cmd : List Byte) : Bool :=
  ((b.ctx ctx).rt && !(b.ctx ctx).runnable) || (b.ctx ctx).yielded || !(b.ctx ctx).fence.isEmpty ||
  ((cmdOp cmd = 1 || cmdOp cmd = 2) && b.hmFull && b.flag Reg.tbCtrl 3 && b.tb.hmDue.any (fun e => e.1 = ctx))

/-- How a ring's head stands: nothing there, a condition of R303 by its WAIT code, held by its context, a failed prerequisite, ready. -/
inductive HeadState where
  | empty
  | waits (code : Nat)
  | held
  | failed
  | ready
  deriving DecidableEq, Repr

/-- The state of the head of a ring (R303). -/
def Blocks.headState (b : Blocks) (r : Nat) : HeadState :=
  match (b.ring r).fetched with
  | [] => .empty
  | (_, cmd) :: _ =>
    let ctx := b.ringCtx r
    let pres := (cmdPres cmd).map (fun p => b.preState p.1 p.2)
    if !b.isCommandRing r then .empty
    else if cmdFence cmd && decide (0 < b.inflight r) then .waits 1
    else if pres.contains .failed then .failed
    else if pres.contains .waits then .waits 2
    else if cmdOp cmd = 1 && !b.shapeReady cmd then .waits 3
    else if cmdOp cmd = 1 && !b.groupReady ctx cmd then .waits 4
    else if !b.stageReady ctx cmd then .waits 5
    else if decide (32 ≤ (b.ring r).hold.length) || decide (256 ≤ b.inflight r) then .waits 6
    else if 1024 ≤ b.jobs.length then .waits 7
    else if b.ctxHeld ctx cmd then .held
    else .ready

/-- A ring's head waits for its core group only. -/
def Blocks.waitsForCores (b : Blocks) (r : Nat) : Bool := b.headState r = .waits 4

end Sys2Proof.Machine
end

