-- ==== Sys2Proof/Machine/Contexts.lean ====
section
/-! DEFINITION. Contexts: creation and destruction (R319, R320), the switch of a core with pre-emption, save and restore (R322, R323,
R325), and the resumption of suspended programs (R326). -/

namespace Sys2Proof.Machine

/-! Create and destroy (R320). -/

/-- A create: the number is FREE, a Mount is loaded, and the save area fits the direct part clear of protected areas. -/
def Dev.createCtx (d : Dev) (c role : Nat) (rt : Bool) (save : Nat) : Option Dev :=
  if (d.ctx c).mode ≠ .free ∨ d.mgmt.mount.isNone then none
  else if save ≠ 0 ∧ (directSize < save + d.saveBytes ∨ d.isProtected save d.saveBytes = true) then none
  else some (d.modCtx c (fun x => { mode := .live, rt := rt, role := role, saveBase := save, cause := x.cause }))

/-- A destroy: of a LIVE context teardown with cause 0 that ends FREE, of a DEAD context at once. -/
def Dev.destroyCtx (d : Dev) (c : Nat) : Option Dev :=
  if d.mgmt.mount.isNone then none
  else match (d.ctx c).mode with
    | .live => some ((d.modCtx c (fun x => { x with destroyed := true })).tearDown c 0)
    | .dead => some (d.modCtx c (fun x => { cause := x.cause }))
    | _ => none

/-- A write of GLB_CTX_CMD; `none` where it is discarded with an error response. -/
def Dev.ctxCmd (d : Dev) (v : Nat) : Option Dev :=
  let c := bitsOf v 13 8
  if bitsOf v 7 0 = 1 then d.createCtx c (bitsOf v 20 15) (bitOf v 14) (bitsOf v 47 21 * 2 ^ 21)
  else if bitsOf v 7 0 = 2 then d.destroyCtx c
  else none

/-! Save and restore (R322, R323). -/

/-- The save area slot of a logical core. -/
def Blocks.saveSlot (b : Blocks) (c l : Nat) : Nat := (b.ctx c).saveBase + l * 2 ^ 21

/-- Where the core record of a logical core lies in a save area. -/
def Blocks.saveRecord (b : Blocks) (c l : Nat) : Nat := (b.ctx c).saveBase + 32 * b.lc * 2 ^ 21 + 64 * l

/-- The mover's accesses for a core: its slot and its record, through the HBM controllers and their carats (R324, R328), and the core cycles
that they take at 64 bytes a cycle at most, which the quadrant's cap may stretch (event 0x11, log entry 80). -/
def Dev.countMove (d : Dev) (c l p : Nat) (store : Bool) : Dev :=
  let d := (d.countHbm (d.saveSlot c l) 0x200000 store (some (quadOf p))).countHbm (d.saveRecord c l) 64 store (some (quadOf p))
  let (f, d) := d.fresh
  d.countEvent p 0x11 c (32769 + f.toNat)

/-- n words of free values. -/
def Dev.freeWords (d : Dev) : Nat → List Byte × Dev
  | 0 => ([], d)
  | n + 1 =>
    let (f, d) := d.fresh
    let (bs, d) := d.freeWords n
    (toLe 8 f.toNat ++ bs, d)

/-- Scratchpad, accumulator memory and core record of a core are written to its owner's save area (R322). The layout of the 64 bytes of a
core record is not stated and nothing but the device reads them: in memory they are free values, and `records` keeps what they hold
(log entry 90). -/
def Dev.saveCore (d : Dev) (c l p : Nat) : Dev :=
  let a := d.saveSlot c l
  let d := (d.dirCopyIn a d.loc (p * 2 ^ 22) 0x1C0000).dirCopyIn (a + 0x1C0000) d.loc (p * 2 ^ 22 + 0x200000) 0x40000
  let (bs, d) := d.freeWords 8
  let d := (d.dirWrite (d.saveRecord c l) bs).countMove c l p true
  let r : CoreRecord := { ctx := c, lcore := l, m := (d.core p).m, keep := (d.core p).keep }
  let d : Dev := { d with records := r :: d.records.filter (fun x => !(x.ctx = c && x.lcore = l)) }
  d.modCtx c (fun x => { x with saved := x.saved.filter (· ≠ l) ++ [l] })

/-- The saved state of a core is read back. -/
def Dev.restoreCore (d : Dev) (c l p : Nat) : Dev :=
  let a := d.saveSlot c l
  let d : Dev := { d with loc := d.dirCopyOut a 0x1C0000 d.loc (p * 2 ^ 22) }
  let d : Dev := { d with loc := d.dirCopyOut (a + 0x1C0000) 0x40000 d.loc (p * 2 ^ 22 + 0x200000) }
  let d := d.countMove c l p false
  let d := match d.records.find? (fun x => x.ctx = c && x.lcore = l) with
    | some r => d.modCore p (fun x => { x with m := r.m, keep := r.keep })
    | none => d
  let d : Dev := { d with records := d.records.filter (fun x => !(x.ctx = c && x.lcore = l)) }
  d.modCtx c (fun x => { x with saved := x.saved.filter (· ≠ l), restoring := x.restoring.filter (· ≠ l) })

/-- A core's owner leaves it for a context: its state is saved if it is switchable. -/
def Dev.leaveCore (d : Dev) (c p : Nat) : Dev :=
  match d.logOf p, (d.core p).owner with
  | some l, some o => if o ≠ c && (d.ctx o).saveBase ≠ 0 then d.saveCore o l p else d
  | _, _ => d

/-- One core goes from its owner to a context, whose saved state is restored. -/
def Dev.switchCore (d : Dev) (c p : Nat) : Dev :=
  match d.logOf p with
  | none => d
  | some l =>
    let d := d.leaveCore c p
    let d := if (d.ctx c).saved.contains l then d.restoreCore c l p else d
    (d.modCore p (fun x => { x with owner := some c, incoming := none })).bump Reg.glbCtxCntSwitch 1

/-! Units and pre-emption (R323, R325). -/

/-- The cores that are switched as one: a ganged quartet, or the core alone. -/
def Blocks.unitOf (b : Blocks) (p : Nat) : List Nat :=
  match b.gangPlace p, b.logOf p with
  | some k, some l => (List.range 4).filterMap (fun i => b.physOf (l - k + i))
  | _, _ => [p]

/-- The cores of a unit on which a program's own stream runs. -/
def Blocks.unitProgs (b : Blocks) (unit : List Nat) : List Nat :=
  (b.coresWhere (fun c => c.prog.any (fun g => unit.any (fun p => g.gang.contains p))))

/-- The scratchpad state of a logical core is saved for a context. -/
def Blocks.isSaved (b : Blocks) (c p : Nat) : Bool := (b.logOf p).any (fun l => (b.ctx c).saved.contains l)

/-- The restore of a core for a context has begun with its start entry (R325). -/
def Blocks.isRestoring (b : Blocks) (c p : Nat) : Bool := (b.logOf p).any (fun l => (b.ctx c).restoring.contains l)

/-- A context needs a core of another's (R323, R325): a PROGRAM of its that waits for its core group, the ordered combine of its STEP,
or state of its that was saved for the core when its start entry fired. -/
def Blocks.wantsCore (b : Blocks) (c p : Nat) : Bool :=
  b.enabledRings.any (fun r => b.ringCtx r = c && b.waitsForCores r &&
    (match (b.ring r).fetched with
     | (_, cmd) :: _ => (b.touched cmd).contains p
     | [] => false)) ||
  (match b.routing.layer with
   | some l => l.ctx = c && ((l.a.returnOk && !l.a.done && (b.combineCores l 0).contains p) ||
       (l.b.returnOk && !l.b.done && (b.combineCores l 1).contains p))
   | none => false) ||
  (b.isRunnable c && b.isRestoring c p)

/-- A runnable real-time context may pre-empt a program: its context is switchable and not itself a runnable real-time one. -/
def Blocks.mayPreempt (b : Blocks) (c : Nat) (g : Prog) : Bool :=
  b.isRunnable c && g.ctx ≠ c && (b.ctx g.ctx).saveBase ≠ 0 && !b.isRunnable g.ctx

/-- The program of core p issues nothing further, so that its cores go to context c. -/
def Dev.quiesce (d : Dev) (c p : Nat) : Dev :=
  let gang := match d.prog? p with
    | some g => g.gang
    | none => []
  gang.foldl (fun d q => d.modCore q (fun x => { x with incoming := some c })) (d.modProg p (fun g => { g with quiesce := true }))

/-- The scoreboard holds nothing but a CLWAIT, which is withdrawn at the switch. -/
def Prog.drained (g : Prog) : Bool := g.score.all Issued.isClwait

/-- A program becomes suspended on its core: a CLWAIT is reissued on restore, its slot being wasted; a waiting carat request is
withdrawn. -/
def Dev.suspend (d : Dev) (p : Nat) : Dev :=
  match d.prog? p with
  | none => d
  | some g =>
    let again := d.coresWhere (fun c => c.suspended.any (fun x => x.ring = g.ring && x.seq = g.seq))
    let d := if again.isEmpty then d.bump Reg.glbCtxCntPreempt 1 else d
    let d := d.discard p g g.score
    let back (g : Prog) : Prog :=
      match g.score with
      | i :: _ => { g with pc := i.pc, score := [], quiesce := false }
      | [] => { g with quiesce := false }
    (d.withdrawCarats p).modCore p (fun c => { c with prog := none, suspended := c.suspended ++ [back g] })

/-- A switch whose incoming context has been torn down while the core was quiesced: the owner is saved and the cores are left unowned
(R327). -/
def Dev.halfSwitch (d : Dev) (c : Nat) (unit : List Nat) : Dev :=
  let progs := d.unitProgs unit
  if !progs.all (fun q => (d.prog? q).any Prog.drained) then d else
  unit.foldl (fun d q => (d.leaveCore c q).modCore q (fun x => { x with owner := none, incoming := none })) (progs.foldl Dev.suspend d)

/-- CONTEXT_SWITCH: the unit of a core that another context owns, or whose saved state has to come back, is switched to a context that
needs it. A program in the way is quiesced, if the context may pre-empt it, and suspended once its scoreboard is empty. A suspended program goes
before a context that is not a runnable real-time one (R326). -/
def Dev.contextSwitch (d : Dev) (p c : Nat) : Dev :=
  let unit := d.unitOf p
  if (d.ctx c).mode ≠ .live ∧ unit.any (fun q => (d.core q).incoming = some c) = true then d.halfSwitch c unit else
  let foreign := unit.any (fun q => (d.core q).owner.any (fun o => o ≠ c) || d.isSaved c q)
  if (d.ctx c).mode ≠ .live ∨ foreign = false ∨ unit.any (fun q => d.slotMoving q || d.claimed q) = true ∨
     unit.any (fun q => d.wantsCore c q) = false ∨
     (unit.any d.suspendedOn = true ∧ d.isRunnable c = false) then d else
  let progs := d.unitProgs unit
  if !progs.all (fun q => (d.prog? q).any (fun g => d.mayPreempt c g)) then d else
  let d := progs.foldl (fun d q => d.quiesce c q) d
  if !progs.all (fun q => (d.prog? q).any Prog.drained) then d else
  let d := progs.foldl Dev.suspend d
  unit.foldl (fun d q => d.switchCore c q) d

/-- A runnable real-time context with a ready PROGRAM head needs a core. -/
def Blocks.rtNeeds (b : Blocks) (p : Nat) : Bool :=
  b.enabledRings.any (fun r => b.isRunnable (b.ringCtx r) &&
    (match (b.ring r).fetched with
     | (_, cmd) :: _ => cmdOp cmd = 1 && (b.headState r = .ready || b.waitsForCores r) && (b.touched cmd).contains p
     | [] => false))

/-- SUSPENDED_RESUME: the program suspended first on a core resumes when its cores are idle and no runnable real-time context's ready
head needs them; the core is switched back to it. A quiesced program that nobody needs the core of any more goes on issuing. -/
def Dev.suspendedResume (d : Dev) (p : Nat) : Dev :=
  match (d.core p).suspended with
  | [] =>
    let unit := d.unitOf p
    if (List.range 64).any (fun c => unit.any (fun q => (d.prog? p).any (fun g => d.mayPreempt c g) && d.wantsCore c q)) ||
       unit.any (fun q => (d.core q).incoming.any (fun c => (d.ctx c).mode ≠ .live)) then d
    else unit.foldl (fun d q => d.modCore q (fun x => { x with incoming := none })) (d.modProg p (fun g => { g with quiesce := false }))
  | g :: rest =>
    let unit := d.unitOf p
    if unit.any d.runsOn ∨ unit.any d.slotMoving ∨ unit.any d.claimed ∨ unit.any d.rtNeeds then d else
    let away := unit.any (fun q => (d.core q).owner ≠ some g.ctx || d.isSaved g.ctx q)
    let d := if away then unit.foldl (fun d q => d.switchCore g.ctx q) d else d
    d.modCore p (fun c => { c with prog := some g, suspended := rest })

/-- Meaning of CONTEXT_SWITCH. -/
def execContextSwitch (core ctx : Nat) (s : State) : Host.Outcome State Fault Refusal :=
  .next (s.onDev (s.dev.live (fun d => if core < 576 ∧ ctx < 64 then d.contextSwitch core ctx else d)))

/-- Meaning of SUSPENDED_RESUME. -/
def execSuspendedResume (core : Nat) (s : State) : Host.Outcome State Fault Refusal :=
  .next (s.onDev (s.dev.live (fun d => if core < 576 then d.suspendedResume core else d)))

end Sys2Proof.Machine
end

