-- ==== Sys2Proof/Machine/Timebase.lean ====
section
/-! DEFINITION. The timebase: the beat (R244 to R249, R355), the stroke counter and what fires at a stroke (R250), Clasps (R251 to R254),
Bezel schedules (R256 to R258) and the wall clock (R259). -/

namespace Sys2Proof.Machine

/-! Events (R270). -/

/-- An event of Table 10.11: LAST_EVENT and an error log entry of domain 37 with a register's BAR0 offset. -/
def Dev.tbEvent (d : Dev) (code reg : Nat) (ctx : Option Nat) : Dev :=
  (d.wrFld Reg.tbStatus 23 16 code).log { code := code, ctx := ctx, domain := 37, addr := reg, kind := 2 }

/-- LOCKED, HOLDOVER, HOPS and PARENT of TB_STATUS. -/
def Dev.setLocked (d : Dev) (v : Bool) : Dev := d.wrFld Reg.tbStatus 0 0 (b2n v)
/-- HOLDOVER. -/
def Dev.setHoldover (d : Dev) (v : Bool) : Dev := d.wrFld Reg.tbStatus 1 1 (b2n v)
/-- PARENT; 15 is none. -/
def Dev.setParent (d : Dev) (n : Nat) : Dev := d.wrFld Reg.tbStatus 15 12 n
/-- PARENT. -/
def Blocks.parent (b : Blocks) : Nat := b.fld Reg.tbStatus 15 12

/-- ENABLE and MASTER. -/
def Blocks.beatOn (b : Blocks) : Bool := b.flag Reg.tbCtrl 0
/-- MASTER. -/
def Blocks.isMaster (b : Blocks) : Bool := b.flag Reg.tbCtrl 1

/-- ENABLE is set (R247, R355): the beat runs on the device's own reference in holdover; TB_STROKE counts on from the value it holds. -/
def Dev.beatStart (d : Dev) : Dev :=
  let t : Timebase := { d.tb with goodEdges := 0, badEdges := 0, stepTo := none, first := true, heard := [], heardLast := [], fired := d.stroke }
  let d : Dev := { d with tb := t }
  let d := (((d.setHoldover true).setLocked false).setParent 15).wrFld Reg.tbStatus 3 3 0
  if d.isMaster then (d.wrFld Reg.tbStatus 8 4 0).wr Reg.tbMasterPlace (d.rd Reg.fabRtSelf / 4096 * 4096) else d

/-! Alignment (R248). -/

/-- The beat moves toward the reference's by at most 1 ns. -/
def clampPs (e : Int) : Int := if e < -1000 then -1000 else if 1000 < e then 1000 else e

/-- The error e between the reference's edge and this device's, in picoseconds, is acted on: a slew, or a step at the next boundary.
`lock` tells that LOCKED follows the error. -/
def Dev.align (d : Dev) (stroke : Nat) (e : Int) (lock : Bool) : Dev :=
  if stroke = d.stroke ∧ -100000 ≤ e ∧ e ≤ 100000 then
    let d : Dev := { d with tb := { d.tb with phasePs := d.tb.phasePs + clampPs e, first := false } }
    if lock then d.setLocked (decide (-100 ≤ e) && decide (e ≤ 100)) else d
  else
    let d : Dev := { d with tb := { d.tb with phasePs := d.tb.phasePs + e, stepTo := some ((stroke + 1) % 2 ^ 64) } }
    if lock then d.setLocked false else d

/-! The master's BEAT_IN (R244, R355). -/

/-- Four edges are missing or bad: BEAT_IN_OK falls, and a master that was locked to BEAT_IN goes into holdover with event 0xA1. -/
def Dev.beatLost (d : Dev) : Dev :=
  if !d.beatOn || !d.isMaster then d else
  let locked := d.flag Reg.tbStatus 0
  let d : Dev := { d with tb := { d.tb with goodEdges := 0 } }
  let d := d.wrFld Reg.tbStatus 3 3 0
  if locked then ((d.setLocked false).setHoldover true).tbEvent 0xA1 Reg.tbStatus none else d

/-- BEAT_IN_EDGE: an edge judged good or bad, with the error of the beat against it. Sixteen good edges in a row regain BEAT_IN; four bad
ones lose it. HOLDOVER falls when the beat has been re-aligned: at once, or at the stroke boundary of a step. -/
def Dev.beatInEdge (d : Dev) (good : Bool) (e : Int) : Dev :=
  if !d.beatOn || !d.isMaster then d
  else if good then
    let d : Dev := { d with tb := { d.tb with goodEdges := min 16 (d.tb.goodEdges + 1), badEdges := 0 } }
    let d := d.wrFld Reg.tbStatus 3 3 1
    if d.tb.goodEdges < 16 && !d.flag Reg.tbStatus 0 then d
    else
      let d := (d.setLocked true).align d.stroke e false
      if d.tb.stepTo.isSome then d else d.setHoldover false
  else
    let d : Dev := { d with tb := { d.tb with badEdges := d.tb.badEdges + 1, goodEdges := 0 } }
    if 4 ≤ d.tb.badEdges then d.beatLost else d

/-! Beat records (R246, R247, R249). -/

/-- Fields of a beat record (Table 10.1). -/
def recStroke (r : BitVec 128) : Nat := bitsOf r.toNat 63 0
/-- OFFSET. -/
def recOffset (r : BitVec 128) : Nat := bitsOf r.toNat 77 64
/-- HOPS. -/
def recHops (r : BitVec 128) : Nat := bitsOf r.toNat 82 78
/-- HOLDOVER. -/
def recHoldover (r : BitVec 128) : Nat := bitsOf r.toNat 83 83
/-- MASTER_PLACE. -/
def recMaster (r : BitVec 128) : Nat := bitsOf r.toNat 115 96

/-- CHECK holds and the zero bits are zero. -/
def recValid (r : BitVec 128) : Bool :=
  recordCheck (r.toNat % 2 ^ 120) = bitsOf r.toNat 127 120 && bitsOf r.toNat 95 84 = 0 && bitsOf r.toNat 119 116 = 0

/-- The keys of R247, first to last. -/
def parentKey (e : Nat × BitVec 128) : Nat := recMaster e.2 * 2 ^ 16 + recHoldover e.2 * 2 ^ 12 + recHops e.2 * 2 ^ 4 + e.1

/-- The port chosen as parent among those that delivered a valid record and are ACTIVE. -/
def Blocks.chooseParent (b : Blocks) (heard : List (Nat × BitVec 128)) : Option (Nat × BitVec 128) :=
  (sortBy (fun x y => decide (parentKey x < parentKey y)) (heard.filter (fun e => (b.optPort e.1).st = .active))).head?

/-- The parent's HOPS + 1, MASTER_PLACE and HOLDOVER are this device's own. -/
def Dev.followRecord (d : Dev) (n : Nat) (r : BitVec 128) : Dev :=
  (((d.setParent n).wrFld Reg.tbStatus 8 4 (min 31 (recHops r + 1))).setHoldover (recHoldover r = 1)).wr Reg.tbMasterPlace
    (recMaster r * 4096)

/-- Two MASTER_PLACE values among the latest records of the ports, or a master's own and another (R249). -/
def Blocks.twoMasters (b : Blocks) : Bool :=
  let old := b.tb.heardLast.filter (fun e => !b.tb.heard.any (fun f => f.1 = e.1))
  let own := if b.isMaster then [b.rd Reg.tbMasterPlace / 4096] else []
  decide (1 < ((b.tb.heard ++ old).map (fun e => recMaster e.2) ++ own).eraseDups.length)

/-- The parent's beat edge against this device's own, in picoseconds, for a mark slot that arrived `at_` picoseconds after this device's own
beat edge: arrival − FAB_PORT_DELAY − OFFSET (R248). -/
def Blocks.beatError (b : Blocks) (n : Nat) (r : BitVec 128) (at_ : Int) : Int :=
  at_ - (b.fld (Reg.fabPortDelay n) 23 0 : Int) - (recOffset r : Int)

/-- BEAT_RECORD: the record that a port has completed is judged; a follower aligns to its parent's. `at_` is the arrival of the mark slot that
began it. -/
def Dev.beatRecord (d : Dev) (n : Nat) (at_ : Int) : Dev :=
  match (d.optPort n).record with
  | none => d
  | some r =>
    if !d.beatOn || (d.optPort n).st ≠ .active then d else
    let d := d.modPort n (fun p => { p with record := none })
    if !recValid r then d.bump Reg.tbCntRecordBad 1 else
    let d : Dev := { d with tb := { d.tb with heard := d.tb.heard.filter (fun x => x.1 ≠ n) ++ [(n, r)] } }
    let d := if d.twoMasters && !d.flag Reg.tbStatus 2 then
        (d.wrFld Reg.tbStatus 2 2 1).tbEvent 0xA3 Reg.tbMasterPlace none else d
    if d.isMaster then d
    else if d.parent = 15 || d.parent = n then (d.followRecord n r).align (recStroke r) (d.beatError n r at_) true
    else d

/-- The parent delivered no record in the last stroke or this one, or is not ACTIVE (R249). -/
def Blocks.parentGone (b : Blocks) : Bool :=
  (b.optPort b.parent).st ≠ .active || !(b.tb.heardLast ++ b.tb.heard).any (fun e => e.1 = b.parent)

/-- A follower chooses its parent again at a stroke, among the ports heard in the last one: its first one, or a better one than it has. One
that has lost its parent chooses in PARENT_LOST. -/
def Dev.rechoose (d : Dev) : Dev :=
  if d.isMaster then d else
  match d.chooseParent d.tb.heardLast with
  | some (n, r) =>
    if d.parent = 15 then d.followRecord n r
    else if n = d.parent || d.parentGone then d
    else (d.followRecord n r).bump Reg.tbCntReparent 1
  | none => d

/-- PARENT_LOST: the parent delivered no record in the last stroke or is not ACTIVE; another is chosen, or the device runs on its own
reference with HOPS unchanged (R249). -/
def Dev.parentLost (d : Dev) : Dev :=
  if !d.beatOn || d.isMaster || d.parent = 15 || !d.parentGone then d else
  let d := match d.chooseParent d.tb.heardLast with
    | some (m, r) => d.followRecord m r
    | none => ((d.setParent 15).setHoldover true).setLocked false
  (d.bump Reg.tbCntReparent 1).tbEvent 0xA2 Reg.tbStatus none

/-! Clasps (R251 to R254). -/

/-- Change a Clasp. -/
def Dev.modClasp (d : Dev) (n : Nat) (f : Clasp → Clasp) : Dev :=
  { d with tb := { d.tb with clasps := updWhere (fun c => c.n = n) f d.tb.clasps } }

/-- An open Clasp. -/
def Blocks.clasp? (b : Blocks) (n : Nat) : Option Clasp := b.tb.clasps.find? (fun c => c.n = n)

/-- SUB of a Clasp message (Table 10.2). -/
def claspSub (axis : Nat) (ok : Bool) : Nat := axis + 4 * b2n ok

/-- A Clasp message taken: (axis, sender, OK, proposal). -/
def Clasp.take (c : Clasp) (m : FilMsg) : Clasp :=
  { c with got := c.got ++ [(bitsOf m.sub 1 0, m.src, bitOf m.sub 2, leNat (m.data.take 8))] }

/-- The message is a round of this Clasp. -/
def isClaspRound (m : FilMsg) (n axis : Nat) : Bool := m.typ = 5 && m.key = n && bitsOf m.sub 1 0 = axis

/-- The axis rounds of a Clasp run as far as the messages received allow (R228, R252). -/
def Dev.claspRun (d : Dev) (n : Nat) (enter : Bool) : Nat → Dev
  | 0 => d
  | fuel + 1 =>
    match d.clasp? n with
    | none => d
    | some c =>
      if 3 ≤ c.axis then d else
      let line := d.lineOf c.axis
      if line.isEmpty then (d.modClasp n (fun c => { c with axis := c.axis + 1 })).claspRun n true fuel
      else
        let d := if enter then
            let d := line.foldl (fun d i => d.filSend 5 n (claspSub c.axis c.ok) (toLe 8 c.proposal) i) d
            let (mine, rest) := d.fil.held.partition (fun m => isClaspRound m n c.axis)
            let d : Dev := { d with fil := { d.fil with held := rest } }
            d.modClasp n (fun c => mine.foldl Clasp.take c)
          else d
        match d.clasp? n with
        | none => d
        | some c =>
          let votes := c.got.filter (fun g => g.1 = c.axis)
          if line.all (fun i => votes.any (fun v => v.2.1 = i)) then
            let ok := c.ok && votes.all (fun v => v.2.2.1)
            let top := votes.foldl (fun m v => max m v.2.2.2) c.proposal
            (d.modClasp n (fun c => { c with axis := c.axis + 1, ok := ok, proposal := top })).claspRun n true fuel
          else d

/-- A Clasp closes with status 0 ON_TIME, 1 LATE or 2 FAIL: its CLWAITs and its command complete (R253, R254). -/
def Dev.claspClose (d : Dev) (c : Clasp) (st : Nat) : Dev :=
  let t : Timebase := { d.tb with clasps := d.tb.clasps.filter (fun x => x.n ≠ c.n), claspClosed := ((c.n, st) :: d.tb.claspClosed).take 16 }
  let d : Dev := { d with tb := t }
  let d := d.clwaitDone c.n st
  let d := if st = 1 then (d.bump Reg.tbCntClaspLate 1).tbEvent 0xA7 Reg.tbClaspOpen (some c.ctx)
    else if st = 2 then d.tbEvent 0xA8 Reg.tbClaspOpen (some c.ctx) else d
  if st = 2 then d.finish c.ring c.seq 0xB6 false 0 0 else d.finish c.ring c.seq 0 false st (c.release.getD 0)

/-- A Clasp whose rounds are finished: FAIL, LATE if its release stroke has come, or a release to wait for (R253). -/
def Dev.claspSettle (d : Dev) (n : Nat) : Dev :=
  match d.clasp? n with
  | none => d
  | some c =>
    if c.axis < 3 ∨ c.release.isSome then d
    else if !c.ok then d.claspClose c 2
    else if c.proposal ≤ d.stroke then d.claspClose { c with release := some c.proposal } 1
    else d.modClasp n (fun c => { c with release := some c.proposal })

/-- An arrival enters: its stroke is taken and its first round begins (R251). -/
def Dev.claspOpen (d : Dev) (n lead timeout ring seq ctx : Nat) : Dev :=
  let c : Clasp := { n := n, ring := ring, seq := seq, ctx := ctx, arrived := d.stroke, timeout := timeout, proposal := d.stroke + lead }
  let d : Dev := { d with tb := { d.tb with clasps := d.tb.clasps ++ [c] } }
  (d.claspRun n true 4).claspSettle n

/-- Arrivals that wait enter while there is a place and no Clasp of their number is open. -/
def Dev.claspAdmit (d : Dev) : Nat → Dev
  | 0 => d
  | fuel + 1 =>
    if 16 ≤ d.tb.clasps.length then d else
    match d.tb.claspQueue.find? (fun q => (d.clasp? q.1).isNone) with
    | none => d
    | some (n, lead, timeout, ring, seq, ctx) =>
      let d : Dev := { d with tb := { d.tb with claspQueue := d.tb.claspQueue.erase (n, lead, timeout, ring, seq, ctx) } }
      let d := if (d.job? ring seq).isSome then d.claspOpen n lead timeout ring seq ctx else d
      d.claspAdmit fuel

/-- After Clasps have closed, those that wait for a place enter. -/
def Dev.claspNext (d : Dev) : Dev := d.claspAdmit d.tb.claspQueue.length

/-- CLASP: arrival at a Clasp (R251). -/
def Dev.claspCmd (d : Dev) (ring seq : Nat) : Dev :=
  match d.job? ring seq with
  | none => d
  | some j =>
    if cmdOp j.cmd ≠ 4 ∨ j.started = true then d else
    let d := d.modJob ring seq (fun j => { j with started := true })
    let lead := fldOf j.cmd 24 23 16
    let lead := if lead = 0 then d.fld Reg.tbClaspCfg 7 0 else lead
    let timeout := fldOf j.cmd 28 31 0
    let timeout := if timeout = 0 then d.fld Reg.tbClaspCfg 31 8 else timeout
    let d : Dev := { d with tb := { d.tb with claspQueue := d.tb.claspQueue ++ [(fldOf j.cmd 24 15 0, lead, timeout, ring, seq, j.ctx)] } }
    d.claspNext

/-- CLASP_MESSAGE: a round message is combined, or kept until its round is reached (R228, R252). -/
def Dev.claspMessage (d : Dev) : Dev :=
  match d.filTake 5 with
  | (none, d) => d
  | (some m, d) =>
    match d.clasp? m.key with
    | some c =>
      if isClaspRound m c.n c.axis then
        (((d.modClasp c.n (fun c => c.take m)).claspRun c.n false 4).claspSettle c.n).claspNext
      else { d with fil := { d.fil with held := d.fil.held ++ [m] } }
    | none => { d with fil := { d.fil with held := d.fil.held ++ [m] } }

/-- CLASP_TIMEOUT: the rounds have not finished by stroke a + timeout (R253). -/
def Dev.claspTimeout (d : Dev) (n : Nat) : Dev :=
  match d.clasp? n with
  | none => d
  | some c => if c.release.isSome ∨ d.stroke < c.arrived + c.timeout then d else (d.claspClose c 2).claspNext

/-- The Clasps that release when a stroke begins, in ascending number; one whose stroke was skipped is LATE (R248, R250). -/
def Dev.claspReleases (d : Dev) : Dev :=
  let due := sortBy (fun (x y : Clasp) => decide (x.n < y.n)) (d.tb.clasps.filter (fun c => c.release.any (fun r => decide (r ≤ d.stroke))))
  (due.foldl (fun d c => d.claspClose c (if c.release = some d.stroke then 0 else 1)) d).claspNext

/-! Bezel (R256 to R258). -/

/-- The active bank, its period and its entry count. -/
def Blocks.activeBank (b : Blocks) : Nat := b.fld Reg.tbBezelCtrl 1 1
/-- Period of the active bank. -/
def Blocks.period (b : Blocks) : Nat := if b.activeBank = 0 then b.rd Reg.tbBezelPeriod0 else b.rd Reg.tbBezelPeriod1
/-- Entries of the active bank. -/
def Blocks.bezelCount (b : Blocks) : Nat :=
  min 512 (if b.activeBank = 0 then b.fld Reg.tbBezelCount 9 0 else b.fld Reg.tbBezelCount 25 16)

/-- Stroke s begins a cycle of the active bank. -/
def Blocks.cycleStart (b : Blocks) (s : Nat) : Bool :=
  let a := b.rd Reg.tbBezelStart
  decide (a ≤ s) && decide (0 < b.period) && (s - a) % b.period = 0

/-- The entries that fire at stroke s, in table order. -/
def Blocks.entriesAt (b : Blocks) (s : Nat) : List Nat :=
  let a := b.rd Reg.tbBezelStart
  if s < a ∨ b.period = 0 then [] else
  (List.range b.bezelCount).filter (fun e => b.fld (Reg.tbBezelEntry b.activeBank e) 23 0 = (s - a) % b.period)

/-- A start entry (R257, R325, R331): runnable with a reservation; a context that was switched out begins its restore at this stroke,
which quiesces the programs in its way. -/
def Dev.bezelBegin (d : Dev) (c carats : Nat) : Dev :=
  let was := (d.ctx c).runnable
  let rt := (d.ctx c).rt
  let drawn := sumBy (fun e => e.2.2) (d.pwr.fromRes.filter (fun e => e.2.1 = c))
  let d := d.modCtx c (fun x => { x with runnable := true, yielded := false, resv := carats, resLeft := carats - drawn })
  let d := if d.devBudget < d.heldAll + d.reservedLeft then d.bump Reg.pwrCntOverreserve 1 else d
  if was || !rt then d else
  let d := d.modCtx c (fun x => { x with restoring := x.saved })
  let cores := (d.ctx c).saved.filterMap d.physOf
  (d.unitProgs cores).foldl (fun d p => if (d.prog? p).any (fun g => d.mayPreempt c g) then d.quiesce c p else d) d

/-- A yield entry (R257, R331). -/
def Dev.bezelYield (d : Dev) (c : Nat) : Dev :=
  let d := d.modCtx c (fun x => { x with runnable := false, yielded := true, resv := 0, resLeft := 0, restoring := [] })
  { d with pwr := { d.pwr with fromRes := d.pwr.fromRes.filter (fun e => e.2.1 ≠ c) } }

/-- A fence entry: no new command until every command issued has completed (R257). -/
def Dev.bezelFence (d : Dev) (c : Nat) : Dev :=
  let open_ := (d.jobs.filter (fun j => j.ctx = c)).map (fun j => (j.ring, j.seq))
  d.modCtx c (fun x => { x with fence := open_ })

/-- An entry fires; one for a context that is not LIVE is skipped (R257, R321). -/
def Dev.bezelFire (d : Dev) (e : Nat) : Dev :=
  let off := Reg.tbBezelEntry d.activeBank e
  let c := d.fld off 29 24
  if (d.ctx c).mode ≠ .live then (d.bump Reg.tbCntBezelSkip 1).tbEvent 0xA5 off (some c) else
  let d := if (d.ctx c).fence.isEmpty then d else d.tbEvent 0xA6 off (some c)
  match d.fld off 31 30 with
  | 0 => d.bezelBegin c (d.fld off 47 32)
  | 1 => d.bezelYield c
  | 2 => d.bezelFence c
  | _ => d

/-- A Loupe trigger scheduled for a stroke that begins, or that a forward step skips, latches before the boundary (R250). -/
def Dev.loupeDue (d : Dev) (old new : Nat) : Dev :=
  match d.obs.pending with
  | none => d
  | some (at_, src, id) =>
    if old < at_ ∧ at_ ≤ new then ({ d with obs := { d.obs with pending := none } } : Dev).snapshot src 0 id false else d

/-- The Bezel at the beginning of stroke s: a bank switch that is due, then the entries in table order (R250, R258). -/
def Dev.bezelAt (d : Dev) (s : Nat) : Dev :=
  let d := if d.flag Reg.tbBezelCtrl 2 && d.cycleStart s then
      ((d.wrFld Reg.tbBezelCtrl 2 2 0).wrFld Reg.tbBezelCtrl 1 1 (1 - d.activeBank)).wr Reg.tbBezelStart s
    else d
  if d.flag Reg.tbBezelCtrl 0 && decide (d.tb.fired < s) then (d.entriesAt s).foldl Dev.bezelFire d else d

/-- The Bezel at every stroke from `s` on, n of them. -/
def Dev.bezelRange (d : Dev) (s : Nat) : Nat → Dev
  | 0 => d
  | n + 1 => (d.bezelAt s).bezelRange (s + 1) n

/-- STROKE_BOUNDARY: the local beat edge (R248, R250, R266). -/
def Dev.strokeBoundary (d : Dev) : Dev :=
  if !d.beatOn then d else
  let old := d.stroke
  let new := d.tb.stepTo.getD ((old + 1) % 2 ^ 64)
  let quiet := d.tb.first
  let stepped := d.tb.stepTo.isSome
  let d : Dev := { d with tb := { d.tb with stepTo := none, first := if stepped then false else quiet,
                                            heard := [], heardLast := d.tb.heard } }
  let d := (d.loupeDue old new).wr Reg.tbStroke new
  let d := if d.flag Reg.tbBezelCtrl 0 || d.flag Reg.tbBezelCtrl 2 then d.bezelRange (old + 1) (new - old) else d
  let d : Dev := if d.flag Reg.tbBezelCtrl 0 then { d with tb := { d.tb with fired := max d.tb.fired new } } else d
  let d := d.claspReleases
  let d := if stepped && (!quiet || d.isMaster) then d.tbEvent 0xA4 Reg.tbStroke none else d
  let d := if stepped && d.isMaster && d.flag Reg.tbStatus 0 then d.setHoldover false else d
  let d := if d.isMaster then d.wr Reg.tbMasterPlace (d.rd Reg.fabRtSelf / 4096 * 4096) else d.rechoose
  let d := if !d.tb.hmDue.isEmpty && d.hmFull && d.flag Reg.tbCtrl 3 then d.bump Reg.tbCntHmWait 1 else d
  (List.range 6).foldl (fun d n => if (d.optPort n).st = .active then d.modPort n (fun p => { p with markPos := some 0 }) else d) d

/-! The wall clock (R259). -/

/-- A write to TB_TIME. -/
def Dev.timeSet (d : Dev) (v : Nat) : Dev := ({ d with tb := { d.tb with slew := 0, slewClock := 0 } } : Dev).wr Reg.tbTime v

/-- A write to TB_TIME_ADJ. -/
def Dev.timeAdj (d : Dev) (v : Nat) : Dev := { d with tb := { d.tb with slew := toInt 32 v, slewClock := 0 } }

/-- Meaning of BEAT_IN_EDGE. -/
def execBeatInEdge (good : Bool) (errPs : Int) (s : State) : Host.Outcome State Fault Refusal :=
  .next (s.onDev (s.dev.live (fun d => d.beatInEdge good errPs)))

/-- Meaning of BEAT_IN_LOST. -/
def execBeatInLost (s : State) : Host.Outcome State Fault Refusal := .next (s.onDev (s.dev.live Dev.beatLost))

/-- Meaning of BEAT_RECORD. -/
def execBeatRecord (port : Nat) (atPs : Int) (s : State) : Host.Outcome State Fault Refusal := onPort port (fun d => d.beatRecord port atPs) s

/-- Meaning of PARENT_LOST. -/
def execParentLost (s : State) : Host.Outcome State Fault Refusal := .next (s.onDev (s.dev.live Dev.parentLost))

/-- Meaning of STROKE_BOUNDARY. -/
def execStrokeBoundary (s : State) : Host.Outcome State Fault Refusal := .next (s.onDev (s.dev.live Dev.strokeBoundary))

/-- Meaning of CLASP. -/
def execClasp (ring seq : Nat) (s : State) : Host.Outcome State Fault Refusal := .next (s.onDev (s.dev.live (fun d => d.claspCmd ring seq)))

/-- Meaning of CLASP_MESSAGE. -/
def execClaspMessage (s : State) : Host.Outcome State Fault Refusal := .next (s.onDev (s.dev.live Dev.claspMessage))

/-- Meaning of CLASP_TIMEOUT. -/
def execClaspTimeout (n : Nat) (s : State) : Host.Outcome State Fault Refusal := .next (s.onDev (s.dev.live (fun d => d.claspTimeout n)))

end Sys2Proof.Machine
end

