-- ==== Sys2Proof/Machine/Hallmark.lean ====
section
/-! DEFINITION. The Hallmark: digests of the logical cores (R263, R264), the entry of an occurrence (R265), the ring and its commands
(R266). -/

namespace Sys2Proof.Machine

/-! Digests (R264). -/

/-- The program bytes of a logical core, by ascending ordinal and then in issue order. -/
def Occurrence.outputs (o : Occurrence) (l : Nat) : List Byte :=
  let before (x y : HmPart) : Bool := decide (x.ordinal < y.ordinal) || (decide (x.ordinal = y.ordinal) && decide (x.order < y.order))
  (sortBy before (o.parts.filter (fun p => p.lcore = l))).flatMap (fun p => p.bytes)

/-- The combined rows attributed to a logical core: half A before half B, by ascending token. -/
def Occurrence.combined (o : Occurrence) (l : Nat) : List Byte :=
  let before (x y : HmRow) : Bool := decide (x.half < y.half) || (decide (x.half = y.half) && decide (x.token < y.token))
  (sortBy before (o.rows.filter (fun r => r.lcore = l))).flatMap (fun r => r.bytes)

/-- The byte stream of a logical core. -/
def Occurrence.stream (o : Occurrence) (l : Nat) : List Byte := o.outputs l ++ o.combined l

/-- The layer digest: the CRC of the streams of the n logical cores in ascending order. -/
def Occurrence.digest (o : Occurrence) (n : Nat) : Nat := crc64 ((List.range n).flatMap o.stream)

/-- The 4,160 bytes of an entry (Table 10.6). -/
def Blocks.hmEntry (b : Blocks) (c : Nat) (o : Occurrence) : List Byte :=
  let moe := b2n o.step.isSome
  toLe 8 b.tb.hmSeq ++ toLe 4 (o.hlayer + c * 2 ^ 16 + moe * 2 ^ 24 + (b.ctx c).role * 2 ^ 25) ++
  toLe 4 (o.step.getD 0 + b.me % 4096 * 2 ^ 16) ++ toLe 8 (o.digest b.logicalCores) ++ toLe 8 b.stroke ++ toLe 8 (b.rd Reg.tbTime) ++
  toLe 8 (b.rd Reg.mgmtMountId) ++ toLe 4 b.logicalCores ++ toLe 4 o.occ ++ toLe 8 0 ++
  (List.range 512).flatMap (fun l => toLe 8 (if l < b.logicalCores then crc64 (o.stream l) else 0))

/-- The next entry takes a SEQ. -/
def Dev.takeSeq (d : Dev) : Nat × Dev := (d.tb.hmSeq, { d with tb := { d.tb with hmSeq := d.tb.hmSeq + 1 } })

/-- HALLMARK_ENTRY_WRITE: the oldest entry due is written at TB_HM_HEAD; on a full ring it waits (HM_BLOCK = 1) or is discarded with
event 0xA9 (R266). -/
def Dev.hallmarkWrite (d : Dev) : Dev :=
  match d.tb.hmDue with
  | [] => d
  | (c, id) :: _ =>
    match (d.ctx c).occs.find? (fun o => o.id = id) with
    | none => { d with tb := { d.tb with hmDue := d.tb.hmDue.drop 1 } }
    | some o =>
      if d.hmFull then
        if d.flag Reg.tbCtrl 3 then d
        else
          let (seq, d) := d.takeSeq
          ((d.bump Reg.tbCntHmDrop 1).tbEvent 0xA9 Reg.tbHmHead (some c)).settleOcc c id (some seq)
      else
        let head := d.rd Reg.tbHmHead
        match d.writeFor c (d.rd Reg.tbHmBase + head * 4160) (d.hmEntry c o) with
        | (false, d) => d
        | (true, d) =>
          let (seq, d) := d.takeSeq
          (d.wr Reg.tbHmHead ((head + 1) % d.rd Reg.tbHmSlots)).settleOcc c id (some seq)

/-- HM_ENABLE is cleared: every entry that waits and every occurrence not yet written is dropped without a SEQ, and flushes complete
(R266). -/
def Dev.hmClear (d : Dev) : Dev :=
  let drop (d : Dev) (c : Nat) : Dev :=
    (d.ctx c).occs.foldl (fun d o =>
      if o.closed && o.jobs.isEmpty then d.settleOcc c o.id none
      else d.modOcc c o.id (fun o => { o with enabled := false })) d
  let d := (List.range 64).foldl drop d
  -- STEPs that await an entry of an occurrence still open complete, and every flush does
  let d := d.jobs.foldl (fun d j =>
    match j.awaits with
    | some r => d.endJob j { r with stroke := BitVec.ofNat 64 d.stroke, cancelLate := j.cancelLate }
    | none => d) d
  let d : Dev := { d with tb := { d.tb with flushes := d.tb.flushes.map (fun f => { f with waits := [] }) } }
  d.endFlushes

/-- HALLMARK_FLUSH is taken up: it completes at once with HM_ENABLE = 0 or with nothing outstanding, else when the entries it waits for are
settled (R266). Its grant closed the context's open occurrence. -/
def Dev.flushCmd (d : Dev) (ring seq : Nat) : Dev :=
  match d.job? ring seq with
  | none => d
  | some j =>
    if cmdOp j.cmd ≠ 7 ∨ j.started = true then d else
    let d := d.modJob ring seq (fun j => { j with started := true })
    let mine (f : Flush) : Bool := f.ring = ring && f.seq = seq
    if d.tb.flushes.any mine && d.flag Reg.tbCtrl 2 then d.endFlushes
    else
      let d : Dev := { d with tb := { d.tb with flushes := d.tb.flushes.filter (fun f => !mine f) } }
      d.finish ring seq 0 false (2 ^ 64 - 1) 0

/-! TB_CTRL (R266, R268, R269). -/

/-- A write of TB_CTRL; `none` where it is discarded with an error response. -/
def Dev.tbCtrlWrite (d : Dev) (v : Nat) : Option Dev :=
  let old := d.rd Reg.tbCtrl
  if (bitOf old 0 && decide (bitOf v 1 ≠ bitOf old 1)) || (bitOf v 2 && decide (d.rd Reg.tbHmSlots < 2)) then none
  else
    let d := d.wr Reg.tbCtrl (v % 16)
    let d := if bitOf old 2 && !bitOf v 2 then d.hmClear else d
    some (if !bitOf old 0 && bitOf v 0 then d.beatStart else d)

/-- Meaning of HALLMARK_ENTRY_WRITE. -/
def execHallmarkEntryWrite (s : State) : Host.Outcome State Fault Refusal :=
  .next (s.onDev (s.dev.live (fun d => d.act .hallmarkEntryWrite {} Dev.hallmarkWrite)))

/-- Meaning of HALLMARK_FLUSH. -/
def execHallmarkFlush (ring seq : Nat) (s : State) : Host.Outcome State Fault Refusal :=
  .next (s.onDev (s.dev.live (fun d => d.flushCmd ring seq)))

end Sys2Proof.Machine
end

