-- ==== Sys2Proof/Machine/Rings.lean ====
section
/-! DEFINITION. Command rings: queue registers and enabling (R296 to R298), fetching (R298, R299), arbitration (R303 to R306), cancelling
(R307), completion records (R308 to R310), shaping registers (R315), and the commands NOP, POOL_ALLOC, POOL_FREE and COPY (R301). -/

namespace Sys2Proof.Machine

/-! Register writes; `none` where a write is discarded with an error response. -/

/-- ENABLE = 1 or commands in flight: the queue registers are locked (text above R317). -/
def Blocks.ringLocked (b : Blocks) (r : Nat) : Bool := b.flag (Reg.ringCtrl r) 0 || decide (0 < b.inflight r)

/-- The enabled capture ring. -/
def Blocks.captureRing (b : Blocks) : Option Nat := b.enabledRings.find? (fun r => b.fld (Reg.ringCtrl r) 2 1 = 2)

/-- A ring is enabled: its queue indices, its status window and what was fetched are cleared (R297). -/
def Dev.ringStart (d : Dev) (r : Nat) : Dev :=
  let d := (((d.wr (Reg.ringSqHead r) 0).wr (Reg.ringSqTail r) 0).wr (Reg.ringCqHead r) 0).wr (Reg.ringCqTail r) 0
  d.modRing r (fun x => { x with fetched := [], ended := [], cancelled := [], captures := 0 })

/-- A write of RING_CTRL (R297, R306): every write covers PRIO and clears the starvation count and an unused promotion (log entry 47). -/
def Dev.ringCtrlWrite (d : Dev) (r v : Nat) : Option Dev :=
  let old := d.rd (Reg.ringCtrl r)
  let kind := bitsOf v 2 1
  let rises := !bitOf old 0 && bitOf v 0
  if d.ringLocked r && (decide (kind ≠ bitsOf old 2 1) || decide (bitsOf v 13 8 ≠ bitsOf old 13 8)) then none
  else if rises && (decide ((d.ctx (bitsOf v 13 8)).mode ≠ .live) || (kind = 2 && d.captureRing.isSome) || kind = 3) then none
  else
    let d := d.wr (Reg.ringCtrl r) v
    let d := d.modRing r (fun x => { x with starve := 0, promoted := false })
    some (if rises then d.ringStart r else d)

/-- A doorbell (R298). -/
def Dev.doorbell (d : Dev) (r v : Nat) : Option Dev :=
  let head := d.rd (Reg.ringSqHead r)
  let gap (t : Nat) : Nat := (t + 65536 - head) % 65536
  let new := v % 65536
  if !d.isCommandRing r || decide (2 ^ d.fld (Reg.ringSize r) 3 0 < gap new) || decide (gap new < gap (d.rd (Reg.ringSqTail r))) then none
  else some (d.wr (Reg.ringSqTail r) new)

/-- A write of RING_CQ_TAIL. -/
def Dev.cqTailWrite (d : Dev) (r v : Nat) : Option Dev :=
  let old := d.rd (Reg.ringCqTail r)
  if (d.rd (Reg.ringCqHead r) + 65536 - old) % 65536 < (v % 65536 + 65536 - old) % 65536 then none
  else some (d.wr (Reg.ringCqTail r) (v % 65536))

/-- A write of RING_SHAPE_RATE or RING_SHAPE_BURST fills both buckets to their bursts (R315). -/
def Dev.shapeWrite (d : Dev) (r reg v : Nat) : Option Dev :=
  if reg = Reg.ringShapeRate r ∧ bitsOf v 31 16 < bitsOf v 15 0 then none
  else
    let d := d.wr reg v
    some (d.modRing r (fun x => { x with committed := d.fld (Reg.ringShapeBurst r) 15 0 * cellUnits,
                                         peak := d.fld (Reg.ringShapeBurst r) 31 16 * cellUnits }))

/-! Fetching (R298, R299). -/

/-- A command ends without having been granted. -/
def Dev.endUngranted (d : Dev) (r seq : Nat) (cmd : List Byte) (status : Nat) : Dev :=
  let j : Job := { ring := r, seq := seq, ctx := d.ringCtx r, cmd := cmd }
  d.endJob j (d.recordOf j status false 0 0)

/-- Where command SEQ of a ring's SQ lies. -/
def Blocks.sqAddr (b : Blocks) (r seq : Nat) : Nat :=
  b.rd (Reg.ringSqBase r) / 4096 * 4096 + seq % 2 ^ b.fld (Reg.ringSize r) 3 0 * 64

/-- SEQ lies within 512 of the ring's oldest incomplete command. -/
def Blocks.inWindow (b : Blocks) (r seq : Nat) : Bool :=
  let pend := (b.ring r).fetched.map (·.1) ++ (b.jobs.filter (fun j => j.ring = r)).map (·.seq)
  pend.all (fun s => decide ((seq + 65536 - s) % 65536 < 512))

/-- The 64 bytes of a command; a queue in the device range that fails its check tears down. -/
def Dev.readCmd (d : Dev) (r seq : Nat) : Option (List Byte) × Dev :=
  let a := d.sqAddr r seq
  if d.flag (Reg.ringSqBase r) 0 then
    match d.queueCheck a 64 with
    | some (code, x) => (none, d.engineFault (d.ringCtx r) code x)
    | none => let (bs, d) := d.engineRead none a 64; (some bs, d)
  else (some (memRead d.hostMem a 64), d)

/-- Commands are fetched from RING_SQ_HEAD up to the tail, within the window; one that was cancelled in the SQ or is invalid completes at
once. -/
def Dev.fetchCmds (d : Dev) (r : Nat) : Nat → Dev
  | 0 => d
  | fuel + 1 =>
    let seq := d.rd (Reg.ringSqHead r)
    if !d.isCommandRing r || seq = d.rd (Reg.ringSqTail r) || !d.inWindow r seq then d else
    match d.readCmd r seq with
    | (none, d) => d
    | (some cmd, d) =>
      let d := d.wr (Reg.ringSqHead r) ((seq + 1) % 65536)
      let d := d.modRing r (fun x => { x with ended := x.ended.filter (fun e => e.1 ≠ seq) })
      let d :=
        if (d.ring r).cancelled.contains seq then
          (d.modRing r (fun x => { x with cancelled := x.cancelled.filter (· ≠ seq) })).endUngranted r seq cmd 0xB1
        else if d.badCmd r seq cmd then d.endUngranted r seq cmd 0xB3
        else d.modRing r (fun x => { x with fetched := x.fetched ++ [(seq, cmd)] })
      d.fetchCmds r fuel

/-! Heads (R299, R303, R133). -/

/-- The address that a fault of a command logs: that of its entry, where the SQ lies in the device range (Table 5.17). -/
def Blocks.cmdAddr (b : Blocks) (r seq : Nat) : Nat := if b.flag (Reg.ringSqBase r) 0 then b.sqAddr r seq else 0

/-- A head waits for its shape word: if its tile is away, it is fetched, and the heads are looked at again when it has come (R54, R129). -/
def Dev.fetchShape (d : Dev) (r : Nat) (cmd : List Byte) : Dev :=
  let a := cmdShape cmd
  let wait : Instr := .commandFetch r [] {}
  if d.allResident a 8 || d.mig.stalls.any (fun s => s.cmd = some wait && s.parts.any (fun p => p.addr = a)) then d
  else d.stall { cmd := some wait, parts := [{ ctx := some (d.ringCtx r), addr := a, len := 8, first := true }] }

/-- The fetch of a shape word has ended with a fault (R143): the context of the ring is torn down. -/
def Dev.shapeFault (d : Dev) (r : Nat) : Dev :=
  match d.mig.now.parts.findSome? (fun p => match p.st with
      | .bad code => some (code, p.addr)
      | _ => none) with
  | some (code, a) => d.engineFault (d.ringCtx r) code a
  | none => d

/-- The heads of a ring whose prerequisites have failed complete; a head that waits for a shape word has it fetched; a head whose
conditions 1 to 4 hold asks for its stage. -/
def Dev.tendHead (d : Dev) (r : Nat) : Nat → Dev
  | 0 => d
  | fuel + 1 =>
    match (d.ring r).fetched with
    | [] => d
    | (seq, cmd) :: rest =>
      match d.headState r with
      | .failed =>
        ((d.modRing r (fun x => { x with fetched := rest })).endUngranted r seq cmd 0xB2).tendHead r fuel
      | .waits 3 => d.fetchShape r cmd
      | .waits 5 =>
        match cmdStage cmd with
        | none => d
        | some s => if d.stages ≤ s then d.engineFault (d.ringCtx r) 0x46 (d.cmdAddr r seq) else d.requestStage (d.ringCtx r) s
      | _ => d

/-- The heads of every enabled ring. -/
def Dev.tendHeads (d : Dev) : Dev := d.enabledRings.foldl (fun d r => d.tendHead r ((d.ring r).fetched.length)) d

/-- What the host stored before. -/
def Dev.hostStore (d : Dev) (host : HostStores) : Dev := { d with hostMem := host.foldl (fun m e => memSet m e.1 e.2) d.hostMem }

/-- COMMAND_FETCH. -/
def Dev.commandFetch (d : Dev) (r : Nat) : Dev := ((d.shapeFault r).fetchCmds r 4096).tendHeads

/-! Arbitration (R304, R305). -/

/-- The level at which a ring competes. -/
def Blocks.level (b : Blocks) (r : Nat) : Nat := b.fld (Reg.ringCtrl r) 6 4 - b2n (b.ring r).promoted

/-- The ready rings. -/
def Blocks.readyRings (b : Blocks) : List Nat := b.enabledRings.filter (fun r => b.headState r = .ready)

/-- The ring that the arbiter grants: the highest level with a ready ring, round-robin after the ring last granted there. -/
def Blocks.grantee (b : Blocks) : Option Nat :=
  let key (r : Nat) : Nat := b.level r * 4096 + (r + 4095 - tabGet 4095 b.lastGrant (b.level r)) % 4096
  (sortBy (fun x y => decide (key x < key y)) b.readyRings).head?

/-- The occurrence that a granted command belongs to or closes (R373). A flush waits for the entries that will be written: not for those of
occurrences that opened with HM_ENABLE = 0 (R266). -/
def Dev.grantOcc (d : Dev) (c r seq : Nat) (cmd : List Byte) : Option Nat × Dev :=
  if cmdOp cmd = 1 ∨ cmdOp cmd = 2 then
    let (id, d) := d.joinOcc c (cmdHlayer cmd) r seq (cmdOp cmd = 2)
    (some id, d)
  else if cmdOp cmd = 7 then
    let d := d.closeOcc c
    let f : Flush := { ring := r, seq := seq, ctx := c, waits := ((d.ctx c).occs.filter (fun o => o.enabled)).map (fun o => o.id) }
    (none, { d with tb := { d.tb with flushes := d.tb.flushes ++ [f] } })
  else (none, d)

/-- COMMAND_GRANT: the head of the ring granted is handed to its engine. -/
def Dev.commandGrant (d : Dev) : Dev :=
  let d := d.tendHeads
  match d.grantee with
  | none => { d with granted := none }
  | some r =>
    match (d.ring r).fetched with
    | [] => d
    | (seq, cmd) :: rest =>
      let c := d.ringCtx r
      let d := if (d.ring r).promoted then d.bump (Reg.ringCntPromoted r) 1 else d
      let d : Dev := { d with granted := some r, lastGrant := tabSet 4095 d.lastGrant (d.level r) r }
      let d := d.modRing r (fun x => { x with fetched := rest, starve := 0, promoted := false })
      let d := d.bump (Reg.ringCntCmds r) 1
      let d : Dev := { d with jobs := d.jobs ++ [{ ring := r, seq := seq, ctx := c, cmd := cmd }] }
      let (occ, d) := d.grantOcc c r seq cmd
      let d := d.modJob r seq (fun j => { j with occ := occ })
      match cmdStage cmd with
      | some s => (d.modCtx c (fun x => { x with stage := some s, admitted := x.admitted.filter (· ≠ s) })).endStages c
      | none => d

/-- PROMOTION (R305). -/
def Dev.promote (d : Dev) (r : Nat) : Dev :=
  let limit := d.fld (Reg.ringStarve r) 15 0
  if limit = 0 ∨ d.fld (Reg.ringCtrl r) 6 4 = 0 ∨ (d.ring r).starve < 256 * limit then d
  else d.modRing r (fun x => { x with promoted := true })

/-! Cancelling (R307). -/

/-- The admission of a stage that a cancelled head had requested is withdrawn, unless the head of another ring asks for it too (R307). -/
def Dev.withdrawStage (d : Dev) (c g : Nat) : Dev :=
  let wanted := d.enabledRings.any (fun r => d.ringCtx r = c && ((d.ring r).fetched.head?.bind (fun f => cmdStage f.2)) = some g)
  if wanted then d else
  let d : Dev := { d with mig := { d.mig with stageReqs := d.mig.stageReqs.filter (fun e => e ≠ (c, g)) } }
  d.modCtx c (fun x => { x with admitted := x.admitted.filter (· ≠ g) })

/-- A write to RING_CANCEL. -/
def Dev.ringCancel (d : Dev) (r s : Nat) : Dev :=
  let head := d.rd (Reg.ringSqHead r)
  let result (d : Dev) (n : Nat) : Dev := d.wr (Reg.ringCancelStatus r) (n * 65536 + s)
  if d.fld (Reg.ringCtrl r) 2 1 ≠ 0 then result d 3
  else match (d.ring r).fetched.find? (fun f => f.1 = s) with
    | some (_, cmd) =>
      let c := d.ringCtx r
      let d := d.modRing r (fun x => { x with fetched := x.fetched.filter (fun f => f.1 ≠ s) })
      let d : Dev := match cmdStage cmd with
        | some g => d.withdrawStage c g
        | none => d
      (result (d.endUngranted r s cmd 0xB1) 1).tendHeads
    | none =>
      if (d.job? r s).isSome then result (d.modJob r s (fun j => { j with cancelLate := true })) 2
      else if (d.ring r).ended.any (fun e => e.1 = s) && decide ((head + 65535 - s) % 65536 < 512) then result d 2
      else if (s + 65536 - head) % 65536 < (d.rd (Reg.ringSqTail r) + 65536 - head) % 65536 then
        result (d.modRing r (fun x => { x with cancelled := x.cancelled.filter (· ≠ s) ++ [s] })) 1
      else result d 3

/-! Completion records (R308, R310). -/

/-- The 32 bytes of a record (Table 12.6). -/
def Record.bytes (x : Record) : List Byte :=
  toLe 4 (x.tag + x.seq * 65536) ++ toLe 4 (x.status + x.kind * 2 ^ 8 + b2n x.cancelLate * 2 ^ 12 + b2n x.empty * 2 ^ 13) ++
  toLe 8 x.result0.toNat ++ toLe 8 x.result1.toNat ++ toLe 8 x.stroke.toNat

/-- COMPLETION_RECORD_WRITE: the oldest record of the holding buffer enters the CQ when there is room. -/
def Dev.recordWrite (d : Dev) (r : Nat) : Dev :=
  match (d.ring r).hold with
  | [] => d
  | x :: rest =>
    if d.cqFull r then d else ((d.modRing r (fun y => { y with hold := rest })).cqPut r 32 x.bytes).tendHeads

/-! Engines of the short commands (R301, R155, R156). -/

/-- A granted command of an opcode that no engine has taken up yet. -/
def Blocks.takes (b : Blocks) (ring seq op : Nat) : Option Job := (b.job? ring seq).filter (fun j => cmdOp j.cmd = op && !j.started)

/-- NOP. -/
def Dev.nopCmd (d : Dev) (ring seq : Nat) : Dev :=
  match d.takes ring seq 0 with
  | none => d
  | some _ => d.finish ring seq 0 false 0 0

/-- POOL_ALLOC. -/
def Dev.poolAllocCmd (d : Dev) (ring seq : Nat) : Dev :=
  match d.takes ring seq 5 with
  | none => d
  | some j =>
    match d.userAlloc j.ctx (fldOf j.cmd 24 22 0) (fldOf j.cmd 28 17 0) (d.cmdAddr ring seq) with
    | .inl (code, addr) => d.poolRingFault j.ctx code addr
    | .inr (ptr, d) => d.finish ring seq 0 false ptr 0

/-- POOL_FREE. -/
def Dev.poolFreeCmd (d : Dev) (ring seq : Nat) : Dev :=
  match d.takes ring seq 6 with
  | none => d
  | some j =>
    let ptr := fldOf j.cmd 32 47 0
    match d.checkFree ptr (some j.ctx) with
    | .inl code => d.poolRingFault j.ctx code ptr
    | .inr (k, n) => (d.freeBuf k n).finish ring seq 0 false 0 0

/-- COPY: bytes between host memory and the device range. It completes when every byte is where it is to be seen (R301). `corr` counts the
corrected words. -/
def Dev.copyCmd (d : Dev) (ring seq corr : Nat) : Dev :=
  match d.takes ring seq 8 with
  | none => d
  | some j =>
    let ha := fldOf j.cmd 24 63 0
    let da := fldOf j.cmd 32 47 0
    let n := fldOf j.cmd 40 31 0
    if fldOf j.cmd 44 0 0 = 0 then
      match d.writeFor j.ctx da (memRead d.hostMem ha n) with
      | (false, d) => d
      | (true, d) => d.finish ring seq 0 false 0 0
    else
      match d.readFor j.ctx da n with
      | (none, d) => d
      | (some bs, d) =>
        let d : Dev := { d.countEcc da corr with hostMem := memWrite d.hostMem ha bs }
        d.finish ring seq 0 false 0 0

/-- Meaning of COMMAND_FETCH. -/
def execCommandFetch (ring : Nat) (host : HostStores) (ecc : Ecc) (s : State) : Host.Outcome State Fault Refusal :=
  .next (s.onDev (s.dev.live (fun d =>
    if ring < 4096 then (d.hostStore host).act (.commandFetch ring [] ecc) ecc (fun d => d.commandFetch ring) else d)))

/-- Meaning of COMMAND_GRANT. -/
def execCommandGrant (s : State) : Host.Outcome State Fault Refusal := .next (s.onDev (s.dev.live Dev.commandGrant))

/-- Meaning of PROMOTION. -/
def execPromotion (ring : Nat) (s : State) : Host.Outcome State Fault Refusal := .next (s.onDev (s.dev.live (fun d => if ring < 4096 then d.promote ring else d)))

/-- Meaning of COMPLETION_RECORD_WRITE. -/
def execCompletionRecordWrite (ring : Nat) (s : State) : Host.Outcome State Fault Refusal :=
  .next (s.onDev (s.dev.live (fun d => if ring < 4096 then d.act (.completionRecordWrite ring) {} (fun d => d.recordWrite ring) else d)))

/-- Meaning of NOP. -/
def execNop (ring seq : Nat) (s : State) : Host.Outcome State Fault Refusal := .next (s.onDev (s.dev.live (fun d => d.nopCmd ring seq)))

/-- Meaning of POOL_ALLOC. -/
def execPoolAlloc (ring seq : Nat) (s : State) : Host.Outcome State Fault Refusal :=
  .next (s.onDev (s.dev.live (fun d => d.poolAllocCmd ring seq)))

/-- Meaning of POOL_FREE. -/
def execPoolFree (ring seq : Nat) (s : State) : Host.Outcome State Fault Refusal :=
  .next (s.onDev (s.dev.live (fun d => d.poolFreeCmd ring seq)))

/-- Meaning of COPY. -/
def execCopy (ring seq : Nat) (host : HostStores) (ecc : Ecc) (s : State) : Host.Outcome State Fault Refusal :=
  .next (s.onDev (s.dev.live (fun d => (d.hostStore host).act (.copy ring seq [] ecc) ecc (fun d => d.copyCmd ring seq ecc.corrHbm))))

end Sys2Proof.Machine
end

