-- ==== Sys2Proof/Machine/Launch.lean ====
section
/-! DEFINITION. The command PROGRAM: its load list, the fetch of its bytes and its start on a core group (R53, R54, R56, R70, R112, R114,
R302). -/

namespace Sys2Proof.Machine

/-- A load list entry (Table 12.5). -/
structure Load where
  dev : Nat
  loc : Nat
  bytes : Nat
  mode : Nat
  deriving DecidableEq, Repr

/-- The entry that 16 bytes spell, if its fields are within their limits and its range within a local memory (R302, Table 3.2); a reserved
bit is taken as an invalid entry (log entry 48). -/
def loadOf (bs : List Byte) : Option Load :=
  let loc := fldOf bs 8 21 0
  let n := fldOf bs 12 20 0
  if fldOf bs 0 63 48 ≠ 0 ∨ fldOf bs 8 31 22 ≠ 0 ∨ fldOf bs 12 31 23 ≠ 0 ∨ loc % 32 ≠ 0 ∨ n = 0 ∨ 1835008 < n ∨ fldOf bs 12 22 21 = 3 then none
  else if loc + n ≤ 0x1C0000 ∨ (0x200000 ≤ loc ∧ loc + n ≤ 0x240000) then some ⟨fldOf bs 0 47 0, loc, n, fldOf bs 12 22 21⟩
  else none

/-- Every entry of a list, if all are valid. -/
def loadsOf : List (List Byte) → Option (List Load)
  | [] => some []
  | b :: bs =>
    match loadOf b, loadsOf bs with
    | some l, some ls => some (l :: ls)
    | _, _ => none

/-- One load: n bytes from the device range into a core's local memory, with the code that it faults with and the address. -/
def Dev.loadOne (d : Dev) (ctx core a loc n : Nat) : (Nat × Nat) ⊕ Dev :=
  match d.engineCheck a n with
  | some fault => .inl fault
  | none =>
    let (bs, d) := d.engineRead (some ctx) a n
    .inr (d.locWrite core loc bs)

/-- A fault of a load, recorded on the group's first core with SLOT = 1 (R302). -/
def Dev.loadFault (d : Dev) (p ctx code at_ loc addr : Nat) : Dev := d.coreFault p ctx code 1 at_ loc addr 1

/-- The cores that run an entry, with their numbers counted from FIRST. -/
def Blocks.loadCores (b : Blocks) (cores : List Nat) (mode : Nat) : List (Nat × Nat) :=
  cores.zipIdx.filter (fun c => mode ≠ 2 || b.isLeader c.1)

/-- An entry on every core that runs it; answers whether all was loaded. `at_` is the entry's own address. -/
def Dev.loadEntry (d : Dev) (ctx lead at_ : Nat) (cores : List Nat) (e : Load) : Bool × Dev :=
  (d.loadCores cores e.mode).foldl (fun (acc : Bool × Dev) c =>
    if !acc.1 then acc else
    match acc.2.loadOne ctx c.1 (if e.mode = 1 then e.dev + c.2 * e.bytes else e.dev) e.loc e.bytes with
    | .inl (code, addr) => (false, acc.2.loadFault lead ctx code at_ e.loc addr)
    | .inr d => (true, d)) (true, d)

/-- The whole list in order. -/
def Dev.loadList (d : Dev) (ctx lead base : Nat) (cores : List Nat) (es : List Load) : Bool × Dev :=
  es.zipIdx.foldl (fun (acc : Bool × Dev) e => if acc.1 then acc.2.loadEntry ctx lead (base + 16 * e.2) cores e.1 else acc) (true, d)

/-- The half and the local slot whose shape word a PROGRAM of the layer in progress names (R53). -/
def Blocks.shapeSlot (b : Blocks) (j : Job) : Option (Nat × Nat) :=
  match b.routing.layer with
  | none => none
  | some l =>
    if l.ctx ≠ j.ctx ∨ cmdShapeSeq j.cmd ≠ l.stepSeq ∨ cmdShape j.cmd = 0 then none
    else [0, 1].findSome? (fun h => (List.range (l.slotsOf b.me).length).findSome? (fun n =>
      if cmdShape j.cmd = b.slotShape l h n then some (h, n) else none))

/-- The dispatch of a half has ended, so its rows are there (R33). -/
def Blocks.rowsThere (b : Blocks) (h : Nat) : Bool := b.routing.layer.any (fun l => (l.halfOf h).dispatchOk)

/-- A program of a local expert starts (R223). -/
def Dev.noteExpert (d : Dev) (h n : Nat) : Dev := d.modHalf h (fun x => { x with started := x.started ++ [n] })

/-- The program begins on its cores: CORE_M, CORE_KEEP all ones, ownership; a ganged quartet runs its leader's stream (R78, R114). -/
def Dev.beginProgram (d : Dev) (j : Job) (m : Nat) (cores : List Nat) : Dev :=
  let assay := if cmdAssay j.cmd then d.groupOf j.cmd else none
  let parts := ((j.occ.bind (fun id => (d.ctx j.ctx).occs.find? (fun o => o.id = id))).map (fun o => o.parts)).getD []
  let order := parts.foldl (fun n p => max n (p.order + 1)) 0
  let led := cores.flatMap (fun p => (d.gangOf p).filter (· ≠ p))
  let d := (cores.filter (fun p => !led.contains p)).foldl (fun d p =>
    let g : Prog := { ring := j.ring, seq := j.seq, ctx := j.ctx, pc := fldOf j.cmd 28 21 0, pcM := fldOf j.cmd 28 21 0, progLocal := fldOf j.cmd 28 21 0,
                      progAddr := fldOf j.cmd 32 47 0, hlayer := cmdHlayer j.cmd, ordinal := cmdOrdinal j.cmd, occ := j.occ,
                      assay := assay.isSome, assayWidth := (assay.map (fun g => g.assayWidth)).getD 0, first := order,
                      gang := d.gangOf p }
    d.modCore p (fun c => { c with prog := some g })) d
  (cores ++ led).eraseDups.foldl (fun d p =>
    d.modCore p (fun c =>
      let owner := if c.slot.isSome then some j.ctx else c.owner
      { c with m := m, keep := BitVec.allOnes 256, owner := owner })) d

/-- Loads and start of a PROGRAM whose M is known; `corr` counts the corrected words. -/
def Dev.launch (d : Dev) (j : Job) (m corr : Nat) : Dev :=
  let cores := d.placeCores j.cmd
  let lead := cores.headD 0
  let base := fldOf j.cmd 56 47 0
  let count := if base = 0 then 0 else fldOf j.cmd 56 55 48
  let loc := fldOf j.cmd 28 21 0
  let n := fldOf j.cmd 40 23 0
  let pa := fldOf j.cmd 32 47 0
  match (if count = 0 then none else d.engineCheck base (16 * count)) with
  | some (code, x) => d.loadFault lead j.ctx code base 0 x
  | none =>
    let (bs, d) := if count = 0 then ([], d) else d.engineRead (some j.ctx) base (16 * count)
    match loadsOf (chunks 16 count bs) with
    | none => d.finish j.ring j.seq 0xB3 false 0 0
    | some es =>
      if 0x1C0000 < loc + n then d.finish j.ring j.seq 0xB3 false 0 0 else
      match d.loadList j.ctx lead base cores es with
      | (false, d) => d
      | (true, d) =>
        match d.loadEntry j.ctx lead pa cores ⟨pa, loc, n, 0⟩ with
        | (false, d) => d
        | (true, d) =>
          let d := d.countEcc pa corr
          (d.modJob j.ring j.seq (fun x => { x with started := true })).beginProgram j m cores

/-- PROGRAM (R302). With M = 0 in its shape word it retires empty (R56). A program of a local expert starts after the dispatch of its half
(R33). -/
def Dev.programCmd (d : Dev) (ring seq corr : Nat) : Dev :=
  match d.takes ring seq 1 with
  | none => d
  | some j =>
    let a := cmdShape j.cmd
    match (if a = 0 then none else d.engineCheck a 8) with
    | some (code, x) => d.engineFault j.ctx code x
    | none =>
      let (word, d) := if a = 0 then ([], d) else d.engineRead (some j.ctx) a 8
      let m := if a = 0 then fldOf j.cmd 44 23 0 else fldOf word 0 23 0
      let slot := d.shapeSlot j
      let mark (d : Dev) : Dev := match slot with
        | some (h, n) => d.noteExpert h n
        | none => d
      if a ≠ 0 ∧ m = 0 then (mark d).finish ring seq 0 true 0 0
      else if !d.coresReady j.ctx j.cmd || slot.any (fun s => !d.rowsThere s.1) then d
      else (mark d).launch j m corr

/-- Meaning of PROGRAM. -/
def execProgram (ring seq : Nat) (ecc : Ecc) (s : State) : Host.Outcome State Fault Refusal :=
  .next (s.onDev (s.dev.live (fun d => d.act (.program ring seq ecc) ecc (fun d => d.programCmd ring seq ecc.corrHbm))))

end Sys2Proof.Machine
end

