-- ==== Sys2Proof/Machine/Flags.lean ====
section
/-! DEFINITION. The status registers that the device computes from its state: the value a read or a Loupe shadow shows (R31, R65, R101,
R145, R161, R185, R212, R303, R317, R322, R332, R340). -/

namespace Sys2Proof.Machine

/-- A list of (low bit, value) put together as one word. -/
def word (xs : List (Nat × Nat)) : Nat := sumBy (fun x => x.2 * 2 ^ x.1) xs

/-- GLB_IDENT of the grade (Table 0.2). -/
def Blocks.identView (b : Blocks) : Nat := 0x01110000 + 32 * gradeLc b.grade

/-- GLB_CLK_LOCK: an optical port's domain is locked from the codeword lock of its training on (R31, R173); the host link and the vault
links have theirs while they are up. -/
def Blocks.clkLockView (b : Blocks) : Nat :=
  let optical := (List.range 6).map (fun n =>
    let st := (b.optPort n).st
    (41 + n, b2n (st = .exchange || st = .quarantine || st = .active)))
  let vault := [0, 1].flatMap (fun n => [(56 + n, b2n (b.vaultUp n)), (58 + n, b2n (b.vaultUp n))])
  let fixed := setBits (setBits (setBits (b.rd Reg.glbClkLock) 46 41 0) 55 55 0) 59 56 0
  fixed + word (optical ++ vault ++ [(55, b2n b.glb.hostLink)])

/-- Logical cores that a context owns. -/
def Blocks.ownedBy (b : Blocks) (c : Nat) : Nat := (b.cores.filter (fun e => e.2.owner = some c && e.2.slot.isSome)).length

/-- The code of a context state (Table 13.1). -/
def CtxMode.code : CtxMode → Nat
  | .free => 0
  | .live => 1
  | .tearing => 2
  | .dead => 3

/-- GLB_CTX_STATEc (Table 13.5). -/
def Blocks.ctxView (b : Blocks) (c : Nat) : Nat :=
  let x := b.ctx c
  word [(26, x.role), (16, b.ownedBy c), (8, x.cause), (5, b2n (x.saveBase ≠ 0)), (4, b2n (b.isRunnable c)), (3, b2n x.rt), (0, x.mode.code)]

/-- CORE_STATUS (Table 3.11); a follower is busy while its leader's program runs on it. -/
def Blocks.coreView (b : Blocks) (p : Nat) : Nat :=
  let busy (slot : Slot) : Bool := b.cores.any (fun e => e.2.prog.any (fun g =>
    (e.1 = p || g.gang.contains p) && g.score.any (fun i => i.slot = slot)))
  let place := b.gangPlace p
  word [(16, if b.mgmt.mount.isSome then (b.logOf p).getD 0 else 0), (6, b2n (place = some 0)), (5, b2n (place.any (· ≠ 0))), (4, b2n (b.core p).assayOnly),
        (3, b2n (b.mgmt.mount.isSome && (b.core p).slot.isSome)), (2, b2n (b.flag (Reg.coreFault p) 31)), (1, b2n (busy .v)), (0, b2n (busy .m))]

/-- CORE_OWNER (Table 13.6): a switch is one step of the model, so MOVING reads 0. Every core of a suspended program's gang shows
SUSPENDED. -/
def Blocks.ownerView (b : Blocks) (p : Nat) : Nat :=
  let c := b.core p
  word [(9, b2n (b.suspendedOn p)), (8, b2n c.owner.isSome), (0, c.owner.getD 0)]

/-- The half that engine i works on: half B once the engine has begun it or half A is done. -/
def Layer.curHalf (l : Layer) (i : Nat) : Nat := if (l.b.re i).planned || (l.split && l.a.done) then 1 else 0

/-- HALT is set and engine i has no half in progress (R64). -/
def Blocks.reHalted (b : Blocks) (i : Nat) : Bool :=
  b.flag (Reg.reCtrl i) 2 &&
    (match b.routing.layer with
     | none => true
     | some l => l.split && l.a.done && !(l.b.re i).planned)

/-- RE_STATUS (Table 2.10). -/
def Blocks.reView (b : Blocks) (i : Nat) : Nat :=
  let host := b.routing.layer.any (fun l => (l.a.re i).waitHost || (l.b.re i).waitHost)
  word [(16, (b.routing.layer.map (fun l => l.curHalf i)).getD 0), (8, (b.routing.layer.map Layer.number).getD 0),
        (4, b2n (b.flag (Reg.reFault i) 31)), (3, b2n (b.reHalted i)), (2, b2n (b.waitsCounts i)), (1, b2n host), (0, b2n b.routing.layer.isSome)]

/-- MIG_STATUS (Table 5.13). -/
def Blocks.migView (b : Blocks) : Nat :=
  let up (n : Nat) : Nat := b2n (b.vaultUp n && !b.vaultLost n)
  let busy := b.mig.ports.any (fun p => p.running.isSome || !p.queue.isEmpty)
  word [(16, b.mig.hints.length), (3, b2n (b.flag Reg.migFault 31)), (2, up 1), (1, up 0), (0, b2n busy)]

/-- POOL_STATUS (Table 6.8): an auditor pass is one step of the model, so AUDITING reads 0. -/
def Blocks.poolView (b : Blocks) : Nat := word [(2, b2n (b.flag Reg.poolFault 31)), (1, b2n (b.ctxs.any (fun e => e.2.mode = .tearing)))]

/-- POOL_CLASS_FREEk and POOL_CLASS_FREEHIk (Table 6.9). -/
def Blocks.poolFreeView (b : Blocks) (k : Nat) : Nat := word ((List.range 4).map (fun p => (16 * p, b.freeCount k p % 65536)))
/-- Bit 16 of the four counts. -/
def Blocks.poolFreeHiView (b : Blocks) (k : Nat) : Nat := word ((List.range 4).map (fun p => (p, b.freeCount k p / 65536)))

/-- POOL_CLASS_SPAREk. -/
def Blocks.poolSpareView (b : Blocks) (k : Nat) : Nat := word [(8, (b.poolClass k).bad.length), (0, (b.poolClass k).spares)]

/-- FAB_RT_STATUS (Table 8.8): SPARES_LEFT is stored. -/
def Blocks.routerView (b : Blocks) : Nat :=
  let transit := b.router.banks.any (fun e => !e.2.reserve.isEmpty)
  let usable := (List.range 12).map (fun n => (n, b2n (if n < 6 then b.inBlockPort n else b.flag Reg.fabRtCtrl 0)))
  word ((20, b.fld Reg.fabRtStatus 21 20) :: (16, b2n transit) :: usable)

/-- FAB_PORT_STATUS (Table 7.8). -/
def Blocks.portView (b : Blocks) (n : Nat) : Nat :=
  let p := b.optPort n
  word [(16, p.lastEvent), (12, p.version), (8, p.width), (7, b2n (p.st ≠ .active)), (6, b2n p.fec), (5, b2n p.light), (0, p.st.code)]

/-- FAB_PORT_LANES (Table 7.9). -/
def Blocks.lanesView (b : Blocks) (n : Nat) : Nat :=
  let p := b.optPort n
  word [(42, p.rxRetired), (32, p.rxActive), (10, p.txRetired), (0, p.txActive)]

/-- COLL_STATUS.OPEN (Table 9.11). -/
def Blocks.collView (b : Blocks) : Nat := b.openColls

/-- PWR_STATUS (Table 13.7). -/
def Blocks.pwrView (b : Blocks) : Nat := word [(16, b2n b.pwr.rampLast), (0, b.pwr.waiting.length)]

/-- RING_STATUS (Table 12.11): a head held by its context shows WAIT 0. -/
def Blocks.ringView (b : Blocks) (r : Nat) : Nat :=
  let wait : Nat := match b.headState r with
    | .waits n => n
    | .failed => 2
    | _ => 0
  word [(16, b.inflight r), (11, b2n (!b.flag (Reg.ringCtrl r) 0 && b.inflight r = 0)), (10, b2n (b.ring r).promoted),
        (9, b2n (b.granted = some r)), (8, b2n (b.headState r = .ready)), (0, wait)]

/-- LOUPE_STATUS (Table 14.8). -/
def Blocks.loupeView (b : Blocks) : Nat :=
  let o := b.obs
  word [(16, o.id), (8, o.errCode), (4, o.source), (3, b2n o.late), (2, b2n o.pending.isSome), (1, b2n o.armed), (0, b2n o.held)]

/-- Word w of an error log slot (Table 14.6). -/
def logWord (seq : Nat) (e : LogEntry) (w : Nat) : Nat :=
  if w = 0 then
    word [(0, seq), (32, e.code), (40, e.ctx.getD 0), (46, b2n e.ctx.isSome), (47, e.port), (48, e.domain), (54, e.unit)]
  else if w = 1 then word [(0, e.addr), (48, e.kind), (52, e.resp)]
  else if w = 2 then e.stroke.toNat
  else e.time.toNat

/-- ERR_LOG_ENTRYn_Ww. -/
def Blocks.logView (b : Blocks) (n w : Nat) : Nat :=
  match b.obs.slots.find? (fun e => e.1 = n) with
  | some (_, seq, e) => logWord seq e w
  | none => 0

/-- CORE_KEEPj and CORE_M. -/
def Blocks.keepView (b : Blocks) (p j : Nat) : Nat := (b.core p).keep.toNat / 2 ^ (64 * j) % 2 ^ 64

/-- MGMT_L2Pi: the physical core of a logical core that is served (Table 11.8). -/
def Blocks.l2pView (b : Blocks) (l : Nat) : Nat :=
  match (if l < 32 * b.lc ∧ b.mgmt.mount.isSome then b.physOf l else none) with
  | some p => 2 ^ 31 + p
  | none => 0

/-! The capability shape (R99, R287). -/

/-- The selected positions of cluster g for lc cores, ascending: descending width, then cores already serving, then position. -/
def Blocks.selected (b : Blocks) (g lc : Nat) : List Nat :=
  let key (s : Nat) : Nat := (64 - b.coreWidth (18 * g + s)) * 64 + b2n (b.core (18 * g + s)).slot.isNone * 32 + s
  let usable := (List.range 18).filter (fun s => !b.mgmt.dead.contains (18 * g + s))
  sortBy (fun x y => decide (x < y)) ((sortBy (fun x y => decide (key x < key y)) usable).take lc)

/-- The selection of cluster g for lc cores: its core numbers. -/
def Blocks.serving (b : Blocks) (g lc : Nat) : List Nat := (b.selected g lc).map (18 * g + ·)

/-- Usable cores of a cluster. -/
def Blocks.usableCores (b : Blocks) (g : Nat) : List Nat :=
  ((List.range 18).map (18 * g + ·)).filter (fun p => !b.mgmt.dead.contains p)

/-- The smallest of a list of widths; 64 for none. -/
def Blocks.narrowest (b : Blocks) (ps : List Nat) : Nat := ps.foldl (fun w p => min w (b.coreWidth p)) 64

/-- The LC that the device can provide (R287): the smaller of the grade's and the smallest count of usable cores in a cluster. -/
def Blocks.capLc (b : Blocks) : Nat := (List.range 32).foldl (fun n g => min n (b.usableCores g).length) (gradeLc b.grade)

/-- The WIDTH that the device can provide: the smallest among the cores that would serve at that LC. -/
def Blocks.capWidth (b : Blocks) : Nat := (List.range 32).foldl (fun w g => min w (b.narrowest (b.serving g b.capLc))) 64

/-- MGMT_CAP_CLUSTERg (R292, Table 11.9). -/
def Blocks.capCluster (b : Blocks) (g : Nat) : Nat :=
  let lc := b.capLc
  let usable := b.usableCores g
  let serving := b.serving g lc
  let assay := usable.filter (fun p => !serving.contains p && decide (b.coreWidth p < 64))
  let full := usable.filter (fun p => b.coreWidth p = 64)
  word [(24, assay.length), (16, b.narrowest serving), (5, full.length), (0, usable.length)]

/-- MGMT_CAP (R287, R292, Table 11.9): the shape of the present widths (log entry 91). Until the built-in test has found anything it is
the grade's reset value. -/
def Blocks.capView (b : Blocks) : Nat :=
  let lc := b.capLc
  let spares (g : Nat) : Nat := ((b.usableCores g).filter (fun p => !(b.serving g lc).contains p && b.coreWidth p = 64)).length
  word [(32, (List.range 32).foldl (fun n g => min n (spares g)) 18), (24, b.capWidth), (16, lc), (0, 32 * lc)]

/-- The current value of the register of the map whose instance (i, j) lies at `off`. -/
def Blocks.current (b : Blocks) (r : RegSpec) (i j off : Nat) : Nat :=
  let is (first : Nat) : Bool := r.base = first
  if is Reg.glbIdent then b.identView
  else if is Reg.glbClkLock then b.clkLockView
  else if is (Reg.glbCtxState 0) then b.ctxView i
  else if is (Reg.coreStatus 0) then b.coreView i
  else if is (Reg.coreM 0) then (b.core i).m
  else if is (Reg.coreKeep 0 0) then b.keepView i j
  else if is (Reg.coreOwner 0) then b.ownerView i
  else if is (Reg.coreCntCycle 0) then b.coreCycles i % 2 ^ 64
  else if is (Reg.coreCntTdFront 0) then b.frontSlots i
  else if is (Reg.reStatus 0) then b.reView i
  else if is (Reg.reStepSeq 0) then (b.routing.layer.map (fun l => l.stepSeq)).getD 0
  else if is Reg.migStatus then b.migView
  else if is Reg.poolStatus then b.poolView
  else if is (Reg.poolClassFree 0) then b.poolFreeView i
  else if is (Reg.poolClassFreehi 0) then b.poolFreeHiView i
  else if is (Reg.poolClassSpare 0) then b.poolSpareView i
  else if is Reg.fabRtStatus then b.routerView
  else if is (Reg.fabPortStatus 0) then b.portView i
  else if is (Reg.fabPortLanes 0) then b.lanesView i
  else if is Reg.collStatus then b.collView
  else if is Reg.tbClaspOpen then b.tb.clasps.length
  else if is (Reg.pwrHeld 0) then b.heldAgainst i
  else if is Reg.pwrReserved then b.reservedLeft
  else if is Reg.pwrStatus then b.pwrView
  else if is (Reg.ringStatus 0) then b.ringView i
  else if is Reg.loupeStatus then b.loupeView
  else if is (Reg.errLogEntry 0 0) then b.logView i j
  else if is (Reg.mgmtL2p 0) then b.l2pView i
  else if is Reg.mgmtCap then b.capView
  else if is (Reg.mgmtCapCluster 0) then b.capCluster i
  else b.rd off

end Sys2Proof.Machine
end

