-- ==== Sys2Proof/Machine/RegCheck.lean ====
section
/-! DEFINITION. What a register takes from a write: reserved bits (R15, R372), access types (R14), the checks that each register makes of
its value, and the states in which it takes no write. -/

namespace Sys2Proof.Machine

/-- The bits of a word that lie in fields of some access types, kept in place. -/
def RegSpec.pick (r : RegSpec) (accs : List Acc) (v : Nat) : Nat :=
  sumBy (fun f => bitsOf v f.hi f.lo * 2 ^ f.lo) (r.flds.filter (fun f => accs.contains f.acc))

/-- The width of a register in bytes. -/
def RegSpec.bytes (r : RegSpec) : Nat := if r.wide then 8 else 4

/-- A write sets a reserved bit or a reserved value that its chapter puts under R15 (R15, R184, R318, R338, R372). -/
def RegSpec.setsReserved (r : RegSpec) (v : Nat) : Bool :=
  r.pick [.rw, .ro, .wo, .w1c, .w1s] v ≠ v ||
  (r.base = Reg.corePmsel 0 0 && decide (0x11 < bitsOf v 7 0)) ||
  (r.base = Reg.fabPortCtrl 0 && bitsOf v 5 4 = 3) ||
  ((r.base = Reg.ringSqBase 0 || r.base = Reg.ringCqBase 0) && bitOf v 0 && bitsOf v 63 48 ≠ 0)

/-- What the register holds after a write of v over `old` (Table 0.6). -/
def RegSpec.merge (r : RegSpec) (old v : Nat) : Nat :=
  let set (bits : Nat) : Nat := Nat.lor (r.pick [.w1s] old) bits
  r.pick [.rw] v + r.pick [.ro] old + Nat.land (r.pick [.w1c] old) (Nat.xor (r.pick [.w1c] v) (r.pick [.w1c] (2 ^ 64 - 1))) +
  set (r.pick [.w1s] v)

/-- What a read shows of a value: WO fields read as zero. -/
def RegSpec.shown (r : RegSpec) (v : Nat) : Nat := r.pick [.rw, .ro, .w1c, .w1s] v

/-! Checks of a value. The block already holds it. -/

/-- On one axis, the block's extent, its origin and the torus extent meet R195. -/
def axisOk (t b o : Nat) : Bool := (b = t && o = 0) || (b % 4 = 0 && decide (b < t) && o % 4 = 0 && (t = 16 || decide (o + b ≤ t)))

/-- FAB_RT_BLOCK meets R195 under FAB_RT_TORUS. -/
def Blocks.blockFits (b : Blocks) : Bool :=
  (List.range 3).all (fun a => axisOk (b.torusT a) (b.blockB a) (b.fld Reg.fabRtBlock (4 * a + 3) (4 * a)))

/-- The region of a pool class. -/
def Blocks.poolRegion (b : Blocks) (k : Nat) : Nat × Nat := (b.rd (Reg.poolClassBase k), 64 * b.classWords k * classBytes k)

/-- The tag store. -/
def Blocks.tagStore (b : Blocks) : Nat × Nat := (b.rd Reg.poolTagBase, 2 * 2 ^ 20)

/-- The frames of a pool register as (base, bytes). -/
def Blocks.frameArea (b : Blocks) (reg : Nat) : Nat × Nat := ((b.poolFrames reg).1 * tileBytes, (b.poolFrames reg).2 * tileBytes)

/-- No byte of an area lies outside the direct part. -/
def inDirect (a : Nat × Nat) : Bool := a.2 = 0 || decide (a.1 + a.2 ≤ directSize)

/-- Two areas meet. -/
def clash (a c : Nat × Nat) : Bool := overlaps a.1 a.2 c.1 c.2

/-- An area of the pool manager lies in the direct part and meets no other area of the manager and no migration frame pool (text above
R160). `others` are the manager's other areas. -/
def Blocks.poolAreaOk (b : Blocks) (a : Nat × Nat) (others : List (Nat × Nat)) : Bool :=
  inDirect a && !(others ++ [b.frameArea Reg.migStreamPool, b.frameArea Reg.migCachePool]).any (clash a)

/-- The checks of a class's region. -/
def Blocks.classOk (b : Blocks) (k : Nat) : Bool :=
  b.rd (Reg.poolClassBase k) % classBytes k = 0 && decide (b.classWords k ≤ 1024) &&
  b.poolAreaOk (b.poolRegion k) (b.tagStore :: ((List.range 8).filter (· ≠ k)).map b.poolRegion)

/-- The replica pool lies in the direct part, clear of the other protected areas. -/
def Dev.replPoolOk (d : Dev) : Bool :=
  let area := d.frameArea Reg.memReplPool
  let others := (d.unset Reg.memReplPool).protectedAreas
  inDirect area && !others.any (clash area)

/-- The export window lies within one part. -/
def Blocks.exportOk (b : Blocks) : Bool :=
  let a := b.rd Reg.memExportBase
  b.exportBytes = 0 || partOf a = partOf (a + b.exportBytes - 1)

/-- The value v of the register (r, i) passes the register's own checks; the device holds it. -/
def Dev.valueOk (d : Dev) (r : RegSpec) (i v : Nat) : Bool :=
  let is (first : Nat) : Bool := r.base = first
  let within (lo hi x : Nat) : Bool := decide (lo ≤ x) && decide (x ≤ hi)
  if is Reg.loupeCtrl then bitsOf v 15 8 ≠ 0
  else if is Reg.glbTherm then within 60 115 (bitsOf v 23 16) && decide (24 ≤ bitsOf v 47 32)
  else if is (Reg.pwrBudget 0) || is Reg.pwrDevBudget || is Reg.pwrRamp then decide (24 ≤ v)
  else if is Reg.pwrBudget4 then decide (6 ≤ v)
  else if is (Reg.ringSize 0) then within 4 12 (bitsOf v 3 0) && within 4 12 (bitsOf v 11 8)
  else if is (Reg.ringShapeRate 0) then decide (bitsOf v 15 0 ≤ bitsOf v 31 16)
  else if is Reg.fabVcWeight then [0, 1, 2].all (fun k => bitsOf v (8 * k + 7) (8 * k) ≠ 0)
  else if is Reg.fabMirrorDst then bitsOf v 11 8 = 6 && d.inBlock (placeOf v)
  else if is (Reg.fabPortRetry 0) then bitsOf v 31 16 ≠ 0 && bitsOf v 15 0 ≠ 0
  else if is Reg.collTimeout || is Reg.memTimeout then v ≠ 0
  else if is Reg.filDupHold then within 16 1024 v
  else if is (Reg.coreSparseXover 0) then decide (v ≤ 100)
  else if is Reg.tbHmSlots then decide (2 ≤ v)
  else if is Reg.tbCtrl then !bitOf v 2 || decide (2 ≤ d.rd Reg.tbHmSlots)
  else if is Reg.memExportBase || is Reg.memExportSize then d.exportOk
  else if is Reg.memReplPool then d.replPoolOk
  else if is (Reg.poolClassBase 0) || is (Reg.poolClassPart 0) then d.classOk i
  else if is Reg.poolTagBase then d.poolAreaOk d.tagStore ((List.range 8).map d.poolRegion)
  else if is Reg.migStreamPool || is Reg.migCachePool then
    let s := d.frameArea Reg.migStreamPool
    let c := d.frameArea Reg.migCachePool
    inDirect (if is Reg.migStreamPool then s else c) && !clash s c
  else if is Reg.fabRtBlock then d.blockFits
  else true

/-! States in which a register takes no write; the Mount loader is not bound by them (R280). -/

/-- A context exists (R319). -/
def Blocks.contextExists (b : Blocks) : Bool := b.ctxs.any (fun e => e.2.mode ≠ .free)

/-- A write of v is discarded because of the state the device is in. -/
def Blocks.writeBarred (b : Blocks) (r : RegSpec) (i off v : Nat) : Bool :=
  let is (first : Nat) : Bool := r.base = first
  let old := b.rd off
  if is Reg.tbHmBase || is Reg.tbHmSlots || is Reg.memExportBase || is Reg.memExportSize || is Reg.memReplMap || is Reg.memReplPool ||
     is Reg.poolTagBase || is (Reg.poolClassBase 0) || is (Reg.poolClassPart 0) then b.contextExists
  else if is Reg.memCtrl then b.contextExists && decide (bitsOf v 1 1 ≠ bitsOf old 1 1)
  else if is Reg.migCtrl then b.contextExists && decide (bitsOf v 2 2 ≠ bitsOf old 2 2)
  else if is Reg.poolCtrl then b.contextExists && decide (bitsOf v 7 5 ≠ bitsOf old 7 5)
  else if is Reg.tbBezelStart then b.flag Reg.tbBezelCtrl 0
  else if is Reg.tbStroke then b.flag Reg.tbCtrl 0 || !b.flag Reg.tbCtrl 1
  else if is Reg.tbBezelPeriod0 then b.activeBank = 0
  else if is Reg.tbBezelPeriod1 then b.activeBank = 1
  else if is (Reg.tbBezelEntry 0 0) then b.activeBank = i
  else if is Reg.errLogTail then decide (256 < (b.rd Reg.errLogHead + 2 ^ 32 - v) % 2 ^ 32)
  else if is Reg.fabRtSelf || is Reg.fabRtTorus || is Reg.fabRtBlock then b.flag Reg.fabRtCtrl 0
  else if is Reg.fabSweep then decide (bitsOf v 15 0 < bitsOf old 15 0)
  else if is (Reg.ringSqBase 0) || is (Reg.ringCqBase 0) || is (Reg.ringSize 0) then b.ringLocked i
  else false

end Sys2Proof.Machine
end

