-- ==== Sys2Proof/Machine/Mount.lean ====
section
/-! DEFINITION. The Mount image (R271 to R277): header, sections, signature, shape, groups, register list and Bezel table; the plan of
serving cores (R287); and steps 1 to 11 of a load (R278, R279), which read and write nothing. -/

namespace Sys2Proof.Machine

/-- The first check that fails, as (result, image offset). -/
def firstBad : List (Bool × Nat × Nat) → Option (Nat × Nat)
  | [] => none
  | (bad, r, at_) :: rest => if bad then some (r, at_) else firstBad rest

/-! Header (Table 11.1). -/

/-- FMT. -/
def imgFmt (img : List Byte) : Nat := fldOf img 4 7 0
/-- SECTIONS. -/
def imgSections (img : List Byte) : Nat := fldOf img 4 31 16
/-- LC. -/
def imgLc (img : List Byte) : Nat := fldOf img 20 23 16
/-- WIDTH. -/
def imgWidth (img : List Byte) : Nat := fldOf img 20 31 24
/-- FAB_RT_BLOCK that the header's extents and ARG2's origin give. -/
def imgBlock (img : List Byte) (origin : Nat) : Nat := origin % 4096 + fldOf img 24 11 0 * 2 ^ 16

/-- Step 3. LC and WIDTH outside their ranges and a directory that runs past the image count as header faults (log entry 52). -/
def headerBad (img : List Byte) (n : Nat) : Option (Nat × Nat) :=
  let s := imgSections img
  let lc := imgLc img
  firstBad [(decide (fldOf img 0 31 0 ≠ 0x4D46584E), 4, 0), (decide (fldOf img 8 63 0 ≠ n), 4, 8),
    (decide (s < 3) || decide (1024 < s) || decide (n < 64 + 32 * s), 4, 4),
    (decide (fldOf img 20 15 0 ≠ 32 * lc) || lc = 0 || decide (16 < lc) || decide (imgWidth img < 16) || decide (64 < imgWidth img), 4, 20),
    (fldOf img 4 15 8 ≠ 0, 4, 4), (fldOf img 24 31 12 ≠ 0, 4, 24), (((img.drop 28).take 36).any (· ≠ 0), 4, 28)]

/-! Sections (Tables 11.2 and 11.3). -/

/-- A directory entry; `at_` is its own image offset. -/
structure Section where
  at_ : Nat
  typ : Nat
  off : Nat
  len : Nat
  dest : Nat
  reserved : Bool
  deriving DecidableEq, Repr

/-- Entry k of the directory. -/
def sectionOf (img : List Byte) (k : Nat) : Section :=
  let e := (img.drop (64 + 32 * k)).take 32
  { at_ := 64 + 32 * k, typ := fldOf e 0 7 0, off := fldOf e 8 63 0, len := fldOf e 16 63 0, dest := fldOf e 24 47 0,
    reserved := fldOf e 0 63 8 ≠ 0 || fldOf e 24 63 48 ≠ 0 }

/-- The directory. -/
def sectionsOf (img : List Byte) : List Section := (List.range (imgSections img)).map (sectionOf img)

/-- The sections of a type. -/
def ofType (ss : List Section) (t : Nat) : List Section := ss.filter (fun s => s.typ = t)

/-- The bytes of a section. -/
def Section.bytes (s : Section) (img : List Byte) : List Byte := (img.drop s.off).take s.len

/-- The bytes of the only section of a type. -/
def bytesOfType (img : List Byte) (t : Nat) : List Byte := ((ofType (sectionsOf img) t).head?.map (fun s => s.bytes img)).getD []

/-- The offset of the only section of a type. -/
def offOfType (img : List Byte) (t : Nat) : Nat := ((ofType (sectionsOf img) t).head?.map Section.off).getD 0

/-- The bytes that the signature covers. -/
def signedBytes (img : List Byte) : List Byte := img.take ((((sectionsOf img).getLast?).map Section.off).getD 0)

/-- MOUNT_ID (R273). -/
def imgId (img : List Byte) : Nat := leNat ((sha384 (signedBytes img)).take 8)

/-- The key slots that are not empty, as bytes. -/
def Blocks.keySlots (b : Blocks) : List (List Byte) :=
  ((List.range 4).map (fun n => (List.range 6).flatMap (fun w => toLe 8 (b.rd (Reg.mgmtKeyHash n w))))).filter (fun k => k.any (· ≠ 0))

/-- Step 5. -/
def Blocks.signatureBad (b : Blocks) (img : List Byte) (n : Nat) : Option (Nat × Nat) :=
  match (sectionsOf img).getLast? with
  | none => some (6, 64)
  | some s =>
    let key := (img.drop s.off).take 97
    let sig := (img.drop (s.off + 97)).take 96
    firstBad [(s.typ ≠ 0x7F || s.len ≠ 193 || s.off + 193 ≠ n, 6, s.at_),
      (!ecdsaValid key sig (sha384 (img.take s.off)), 6, s.off + 97),
      (!b.keySlots.isEmpty && !b.keySlots.contains (sha384 key), 7, s.off)]

/-- The first of the later areas that a list of areas meets: pairwise disjointness, as (base, bytes, image offset). -/
def firstOverlap : List (Nat × Nat × Nat) → Option Nat
  | [] => none
  | a :: rest =>
    match rest.find? (fun c => overlaps a.1 a.2.1 c.1 c.2.1) with
    | some c => some c.2.2
    | none => firstOverlap rest

/-- A section entry breaks Table 11.2 or 11.3 on its own; sections lie after the directory (log entry 52). -/
def Section.isBad (s : Section) (first n : Nat) : Bool :=
  s.reserved || !([1, 2, 3, 4, 0x7F].contains s.typ) || decide (s.off % 64 ≠ 0) || decide (s.off < first) || decide (n < s.off + s.len) ||
  (if s.typ = 4 then decide (s.dest % 64 ≠ 0) || decide (directSize < s.dest + s.len) else s.dest ≠ 0)

/-! Register list (R276). -/

/-- An entry of REGS; `at_` is its image offset. -/
structure RegEntry where
  at_ : Nat
  off : Nat
  w64 : Bool
  reserved : Bool
  val : Nat
  deriving DecidableEq, Repr

/-- The entries of REGS. -/
def regEntries (img : List Byte) : List RegEntry :=
  let bs := bytesOfType img 2
  (chunks 16 bs.length bs).zipIdx.map (fun e =>
    { at_ := offOfType img 2 + 16 * e.2, off := fldOf e.1 0 27 0, w64 := bitOf (fldOf e.1 0 31 0) 28,
      reserved := fldOf e.1 0 63 29 ≠ 0 || e.1.length ≠ 16, val := fldOf e.1 8 63 0 })

/-- Registers that REGS may not name although they are RW. -/
def regBarred (off : Nat) : Bool :=
  decide (off < 0x00200000) || (decide (0x03200000 ≤ off) && decide (off < 0x03270000)) ||
  [Reg.fabRtCtrl, Reg.fabRtSelf, Reg.fabRtTorus, Reg.fabRtBlock, Reg.tbStroke, Reg.tbTime, Reg.tbHmTail].contains off

/-- The register that an entry names, with the offset written: a core offset names a logical core. -/
def RegEntry.target (l2p : Nat → Option Nat) (e : RegEntry) : Option (RegSpec × Nat × Nat) :=
  let off := if 0x08000000 ≤ e.off then (l2p ((e.off - 0x08000000) / 65536)).map (fun p => 0x08000000 + p * 65536 + e.off % 65536)
             else some e.off
  match off.bind (fun o => (regAt o).map (fun x => (x.1, x.2.1, o))) with
  | none => none
  | some (r, i, o) =>
    if e.reserved || r.wide ≠ e.w64 || (!r.wide && decide (2 ^ 32 ≤ e.val)) || regBarred o || !r.flds.any (fun f => f.acc = .rw) ||
       decide (r.pick [.rw] e.val ≠ e.val) || (o = Reg.tbCtrl && e.val % 4 ≠ 0) then none
    else some (r, i, o)

/-- The ENABLE bit of a register that REGS may write: held at 0 by step 13, written by step 15. -/
def enableBit (r : RegSpec) : Option Nat :=
  if [Reg.reCtrl 0, Reg.migCtrl, Reg.poolCtrl, Reg.collCtrl, Reg.memCtrl, Reg.tbBezelCtrl].contains r.base then some 0
  else if r.base = Reg.fabMirrorCtrl then some 32
  else if r.base = Reg.corePmsel 0 0 then some 15
  else none

/-- A value with the register's ENABLE bit as given. -/
def RegSpec.withEnable (r : RegSpec) (v x : Nat) : Nat :=
  match enableBit r with
  | some k => setBits v k k x
  | none => v

/-- The entry's value as the loader writes it: RW fields only; TB_CTRL keeps MASTER and ENABLE. -/
def Dev.loaderWrite (d : Dev) (r : RegSpec) (off v : Nat) : Dev :=
  let old := d.rd off
  if off = Reg.tbCtrl then d.wr off (v / 4 * 4 + old % 4) else d.wr off (r.merge old v)

/-- Every entry in list order. -/
def Dev.loadRegs (d : Dev) (l2p : Nat → Option Nat) (es : List RegEntry) : Dev :=
  es.foldl (fun d e => match e.target l2p with
    | some (r, _, off) => d.loaderWrite r off e.val
    | none => d) d

/-- Rules about a value that other chapters attach to a write: no ring is enabled and no queue index moved before a context exists, and
the error log's tail stays in its window (log entry 53); a completion queue's tail does not pass its head (R298). -/
def Dev.indexBad (d : Dev) (r : RegSpec) (i off v : Nat) : Bool :=
  (r.base = Reg.ringCtrl 0 && bitOf v 0) || r.base = Reg.ringSqTail 0 || (r.base = Reg.ringCqTail 0 && (d.cqTailWrite i v).isNone) ||
  (r.base = Reg.errLogTail && d.writeBarred r 0 off v)

/-- Step 9: the first entry that is not allowed, or is the last for its register and holds a value that the register refuses. `final` has
every value in place. -/
def Dev.regsBad (d final : Dev) (l2p : Nat → Option Nat) (es : List RegEntry) : Option (Nat × Nat) :=
  (es.find? (fun e => match e.target l2p with
    | none => true
    | some (r, i, off) =>
      let last := (es.reverse.find? (fun x => (x.target l2p).any (fun t => t.2.2 = off))) = some e
      last && (r.setsReserved e.val || !final.valueOk r i (final.rd off) || d.indexBad r i off e.val))).map (fun e => (0x0D, e.at_))

/-! Shape and groups (R275). -/

/-- The slot that the image's map names for position s of cluster g. -/
def imgMap (img : List Byte) (g s : Nat) : Nat := ((bytesOfType img 1).getD (18 * g + s) 0).toNat

/-- The ganged quartets, as 4 × cluster + m. -/
def imgGangs (img : List Byte) : List Nat :=
  let bits := leNat (((bytesOfType img 1).drop 576).take 16)
  (List.range 128).filter (fun i => bitOf bits i)

/-- Step 7 but for the block: gang bits, then map bytes; a slot is named once in its cluster (log entry 52). -/
def shapeBad (img : List Byte) : Option (Nat × Nat) :=
  let lc := imgLc img
  let at_ := offOfType img 1
  let bad (g s : Nat) : Bool :=
    let j := imgMap img g s
    j ≠ 255 && (decide (lc ≤ j) || (List.range s).any (fun t => imgMap img g t = j))
  if (bytesOfType img 1).length < 596 then some (9, at_)
  else if (imgGangs img).any (fun q => decide (lc / 4 ≤ q % 4)) then some (9, at_ + 576)
  else (((List.range 576).find? (fun i => bad (i / 18) (i % 18))).map (fun i => (9, at_ + i)))

/-- The group that 16 bytes spell. -/
def groupOfBytes (bs : List Byte) : Group :=
  { first := fldOf bs 0 15 0, count := fldOf bs 0 31 16, assayWidth := fldOf bs 4 7 0, fbFirst := fldOf bs 8 15 0, fbCount := fldOf bs 8 31 16 }

/-- Cores [first, first + count) are of one quadrant of 8 × LC. -/
def inQuadrant (lc first count : Nat) : Bool := decide (1 ≤ count) && decide (first + count ≤ 32 * lc) && first / (8 * lc) = (first + count - 1) / (8 * lc)

/-- An entry breaks Table 11.4. -/
def groupBad (lc : Nat) (assay : Bool) (bs : List Byte) : Bool :=
  let g := groupOfBytes bs
  fldOf bs 4 31 8 ≠ 0 || fldOf bs 12 31 0 ≠ 0 || !inQuadrant lc g.first g.count ||
  (if assay then decide (g.assayWidth < 16) || decide (64 < g.assayWidth) || !inQuadrant lc g.fbFirst g.fbCount
   else g.assayWidth ≠ 0 || g.fbFirst ≠ 0 || g.fbCount ≠ 0)

/-- The number of core groups, and where the Assay groups' count stands in SHAPE. -/
def imgGroupCount (img : List Byte) : Nat := leNat (((bytesOfType img 1).drop 592).take 4)
/-- Place of the Assay count. -/
def imgAssayAt (img : List Byte) : Nat := 596 + 16 * imgGroupCount img

/-- A list of n group entries at a place of SHAPE. -/
def imgGroupList (img : List Byte) (at_ n : Nat) : List (List Byte) := chunks 16 n (((bytesOfType img 1).drop at_).take (16 * n))

/-- Core groups and Assay groups as bytes. -/
def imgGroups (img : List Byte) : List (List Byte) := imgGroupList img 596 (imgGroupCount img)
/-- Assay groups. -/
def imgAssay (img : List Byte) : List (List Byte) :=
  imgGroupList img (imgAssayAt img + 4) (leNat (((bytesOfType img 1).drop (imgAssayAt img)).take 4))

/-- Step 8. -/
def groupsBad (img : List Byte) : Option (Nat × Nat) :=
  let bs := bytesOfType img 1
  let at_ := offOfType img 1
  let n := imgGroupCount img
  let m := leNat ((bs.drop (imgAssayAt img)).take 4)
  if n = 0 ∨ 256 < n ∨ bs.length < imgAssayAt img + 4 then some (0x0C, at_ + 592)
  else if 256 < m ∨ bs.length < imgAssayAt img + 4 + 16 * m then some (0x0C, at_ + imgAssayAt img)
  else match (imgGroups img).findIdx? (groupBad (imgLc img) false) with
    | some k => some (0x0C, at_ + 596 + 16 * k)
    | none => ((imgAssay img).findIdx? (groupBad (imgLc img) true)).map (fun k => (0x0C, at_ + imgAssayAt img + 4 + 16 * k))

/-! Bezel (R256, R277). -/

/-- Period, count and entries of the BEZEL section. -/
def imgPeriod (img : List Byte) : Nat := fldOf (bytesOfType img 3) 0 31 0
/-- Entries of the BEZEL section. -/
def imgBezel (img : List Byte) : List Nat :=
  (List.range (fldOf (bytesOfType img 3) 4 31 0)).map (fun k => fldOf (bytesOfType img 3) (8 + 8 * k) 63 0)

/-- Entries in ascending OFFSET order below the period, with known actions and no reserved bit. -/
def bezelOrdered (period : Nat) : Nat → List Nat → Bool
  | _, [] => true
  | least, e :: es =>
    decide (least ≤ bitsOf e 23 0) && decide (bitsOf e 23 0 < period) && bitsOf e 31 30 ≠ 3 && bitsOf e 63 48 = 0 &&
    bezelOrdered period (bitsOf e 23 0) es

/-- The Bezel part of step 10. -/
def bezelBad (img : List Byte) : Bool :=
  let bs := bytesOfType img 3
  let n := fldOf bs 4 31 0
  !(ofType (sectionsOf img) 3).isEmpty &&
    (decide (bs.length < 8) || decide (512 < n) || decide (bs.length < 8 + 8 * n) || imgPeriod img = 0 || decide (2 ^ 24 ≤ imgPeriod img) ||
     !bezelOrdered (imgPeriod img) 0 (imgBezel img))

/-! The plan of a load (R287, R288). -/

/-- Give the slots of a list, in order, the positions of a list, in order. -/
def fillSlots (plan : List (Nat × Nat)) (slots free : List Nat) : List (Nat × Nat) := plan ++ slots.zip free

/-- The (slot, position) pairs of cluster g: what `first` names for selected positions, then slots that keep their core, then vacated slots
and cores in ascending order. -/
def Blocks.planCluster (b : Blocks) (g lc : Nat) (first : Nat → Option Nat) : List (Nat × Nat) :=
  let sel := b.selected g lc
  let mapped := sel.filterMap (fun s => (first s).map (fun j => (j, s)))
  let kept := sel.foldl (fun plan s =>
    match (b.core (18 * g + s)).slot with
    | some j => if j < lc && !plan.any (fun e => e.1 = j || e.2 = s) then plan ++ [(j, s)] else plan
    | none => plan) mapped
  fillSlots kept ((List.range lc).filter (fun j => !kept.any (fun e => e.1 = j))) (sel.filter (fun s => !kept.any (fun e => e.2 = s)))

/-- The plan that a load makes: the SHAPE map first. -/
def Blocks.planLoad (b : Blocks) (img : List Byte) (g : Nat) : List (Nat × Nat) :=
  b.planCluster g (imgLc img) (fun s => if imgMap img g s = 255 then none else some (imgMap img g s))

/-- The logical-to-physical map of a load. -/
def Blocks.planL2p (b : Blocks) (img : List Byte) (l : Nat) : Option Nat :=
  if 32 * imgLc img ≤ l then none
  else ((b.planLoad img (l / imgLc img)).find? (fun e => e.1 = l % imgLc img)).map (fun e => 18 * (l / imgLc img) + e.2)

/-! Steps 1 to 11. -/

/-- The Mount that an image describes. -/
def mountOf (img : List Byte) : Mount :=
  { lc := imgLc img, width := imgWidth img, fmt := imgFmt img, gangs := imgGangs img, groups := (imgGroups img).map groupOfBytes,
    assay := (imgAssay img).map groupOfBytes }

/-- The MEMIMG sections as (destination, bytes). -/
def memImages (img : List Byte) : List (Nat × List Byte) := (ofType (sectionsOf img) 4).map (fun s => (s.dest, s.bytes img))

/-- Copy the MEMIMG sections. -/
def Dev.copyImages (d : Dev) (img : List Byte) : Dev :=
  (memImages img).foldl (fun d m => (d.dirWrite m.1 m.2).countHbm m.1 m.2.length true none) d

/-- The device as steps 6 to 11 judge it: every register value, the block and the Mount in place. -/
def Dev.withImage (d : Dev) (img : List Byte) (origin : Nat) : Dev :=
  let d' := (d.loadRegs (d.planL2p img) (regEntries img)).wr Reg.fabRtBlock (imgBlock img origin)
  { d' with mgmt := { d'.mgmt with mount := some (mountOf img) } }

/-- The values of REGS outside the cores, in place without a check: what defines the protected areas of step 6. -/
def Dev.withRawRegs (d : Dev) (img : List Byte) : Dev :=
  let d' := (regEntries img).foldl (fun d e => if e.off < 0x08000000 ∧ (regAt e.off).isSome = true then d.wr e.off e.val else d) d
  { d' with mgmt := { d'.mgmt with mount := some (mountOf img) } }

/-- Step 6. -/
def Dev.sectionsBad (d : Dev) (img : List Byte) (base n : Nat) : Option (Nat × Nat) :=
  let ss := sectionsOf img
  let first := 64 + 32 * ss.length
  let spans := ss.map (fun s => (s.off, s.len, s.at_))
  let mems := (ofType ss 4).map (fun s => (s.dest, s.len, s.at_))
  let kept := (base, n) :: (d.withRawRegs img).protectedAreas
  match ss.find? (fun s => s.isBad first n) with
  | some s => some (8, s.at_)
  | none =>
    match firstOverlap spans with
    | some a => some (8, a)
    | none =>
      if (ofType ss 1).length ≠ 1 ∨ (ofType ss 2).length ≠ 1 ∨ 1 < (ofType ss 3).length ∨ (ofType ss 0x7F).length ≠ 1 then some (8, 64)
      else match firstOverlap mems with
        | some a => some (8, a)
        | none => (mems.find? (fun m => kept.any (fun k => overlaps m.1 m.2.1 k.1 k.2))).map (fun m => (8, m.2.2))

/-- Step 7. -/
def Dev.step7Bad (d : Dev) (img : List Byte) (origin : Nat) : Option (Nat × Nat) :=
  let new := d.wr Reg.fabRtBlock (imgBlock img origin)
  if d.capLc < imgLc img ∨ d.capWidth < imgWidth img then some (9, 20)
  else match shapeBad img with
    | some x => some x
    | none => if new.blockFits && new.inBlock new.self then none else some (9, 24)

/-- Step 10. The failing field of a resource check is named by the REGS section (log entry 52). No tile is resident under the new Mount. -/
def Dev.step10Bad (d : Dev) (img : List Byte) (origin : Nat) : Option (Nat × Nat) :=
  let new := (d.withImage img origin).copyImages img
  let new := new.dirClear (new.rd Reg.migTdirBase) (8 * new.tiles)
  let frames := (new.poolFrames Reg.migStreamPool).2
  let stages := ((new.stageEntries 0 (2 ^ 44)).map (fun e => e.1)).eraseDups
  let quotas := sumBy (fun c => new.rd (Reg.migKvQuota c)) (List.range 64)
  firstBad [(stages.any (fun s => decide (frames < (new.stageTiles s).length)), 0x0A, offOfType img 2),
    (decide (64 * new.partWords (new.fld Reg.poolCtrl 7 5) 1 < quotas), 0x0A, offOfType img 2),
    ((List.range 8).any (fun k => decide (1024 - (new.poolClass k).lost < new.classWords k)), 0x0A, offOfType img 2),
    (bezelBad img, 0x0B, offOfType img 3)]

/-- Step 11. -/
def Dev.step11Bad (d : Dev) (img : List Byte) (origin : Nat) : Option (Nat × Nat) :=
  let new := d.wr Reg.fabRtBlock (imgBlock img origin)
  let other (n : Nat) : Bool :=
    let fmt := d.fld (Reg.fabPortPeer n) 47 40
    (d.optPort n).st = .active && new.inBlock (placeOf (d.fld (Reg.fabPortPeer n) 31 0)) && fmt ≠ 0 && fmt ≠ imgFmt img
  if (List.range 6).any other then some (0x0E, 4) else none

/-- Steps 1 and 2. -/
def Blocks.argsBad (b : Blocks) (base n origin : Nat) : Option Nat :=
  if b.contextExists then some 3
  else if base % 4096 ≠ 0 ∨ n < 64 ∨ 2 ^ 30 < n ∨ directSize < base + n ∨ 4096 ≤ origin ∨ b.glb.selfWritten = false ∨
    b.glb.torusWritten = false then some 2
  else none

/-- Steps 3 to 11 in order, each with its failure; `bad` is a step at which the image cannot be read. -/
def runSteps (bad : Option Nat) : List (Nat × (Unit → Option (Nat × Nat))) → Option (Nat × Nat)
  | [] => none
  | (k, f) :: rest =>
    if bad = some k then some (0x14, 0)
    else match f () with
      | some x => some x
      | none => runSteps bad rest

/-- The failure of steps 3 to 11, as (result, information). -/
def Dev.loadBad (d : Dev) (base n origin : Nat) (bad : Option Nat) : Option (Nat × Nat) :=
  let img := d.dirRead base n
  runSteps bad [(3, fun _ => headerBad img n),
    (4, fun _ => if imgFmt img = 0 ∨ 32 < imgFmt img ∨ bitOf (d.rd Reg.mgmtFmtSupported) (imgFmt img - 1) = false then some (5, 4) else none),
    (5, fun _ => d.signatureBad img n), (6, fun _ => d.sectionsBad img base n), (7, fun _ => d.step7Bad img origin),
    (8, fun _ => groupsBad img), (9, fun _ => d.regsBad (d.withImage img origin) (d.planL2p img) (regEntries img)),
    (10, fun _ => d.step10Bad img origin), (11, fun _ => d.step11Bad img origin)]

end Sys2Proof.Machine
end

