-- ==== Sys2Proof/Machine/Load.lean ====
section
/-! DEFINITION. Management commands: start (R282, R285), steps 12 to 15 of a Mount load, MOUNT_CLEAR (R279 to R281), the spare-core swap
(R287, R288), link retrains (R290, R143). -/

namespace Sys2Proof.Machine

/-! Start of a command (R282, R285). -/

/-- The opcode or the TARGET is not of Table 11.6. -/
def badCommand (op target : Nat) : Option Nat :=
  if 4 < op then some 1
  else if (op < 3 && target ≠ 0) || (op = 3 && decide (31 < target) && target ≠ 0xFF) || (op = 4 && decide (7 < target)) then some 2
  else none

/-- A write of MGMT_CMD while no command runs: the command starts with the port's arguments. One that Table 11.6 does not give ends at
once (its 1 µs is timing). -/
def Dev.mgmtStart (d : Dev) (port : MPort) (args : List W64) (v : Nat) : Dev :=
  let op := bitsOf v 7 0
  let target := bitsOf v 15 8
  let run : MgmtRun := { op := op, target := target, port := port, args := args }
  let d : Dev := { d with mgmt := { d.mgmt with run := some run, notIdle := false } }
  let st := setBits (setBits (setBits (d.rd Reg.mgmtStatus) 0 0 1) 3 3 (if port = .host then 0 else 1)) 27 24 (if op = 1 then 1 else 0)
  let d := d.wr Reg.mgmtStatus st
  match badCommand op target with
  | some r => d.mgmtEnd r 0
  | none => d

/-- The running command, if it is one of an opcode that has not begun its wait. -/
def Blocks.running (b : Blocks) (op : Nat) : Option MgmtRun := b.mgmt.run.filter (fun r => r.op = op && !r.begun)

/-- The running command begins to wait. -/
def Dev.beginWait (d : Dev) : Dev :=
  { d with mgmt := { d.mgmt with run := d.mgmt.run.map (fun r => { r with begun := true }) } }

/-- MANAGEMENT_NOP. -/
def Dev.mgmtNop (d : Dev) : Dev :=
  match d.running 0 with
  | some _ => d.mgmtEnd 0 0
  | none => d

/-! Steps 12 to 15 (Table 11.5). -/

/-- The registers whose ENABLE field step 12 clears. -/
def enableRegs : List Nat :=
  (List.range 4).map Reg.reCtrl ++ [Reg.migCtrl, Reg.poolCtrl, Reg.collCtrl, Reg.memCtrl, Reg.tbBezelCtrl]

/-- Step 12: engines disabled, no Mount, every pool buffer free. -/
def Dev.clearMount (d : Dev) : Dev :=
  let d := enableRegs.foldl (fun d off => d.wrFld off 0 0 0) d
  let d := (d.wr Reg.mgmtMountId 0).wrFld Reg.mgmtMountInfo 7 0 0
  let d := d.reclaim (fun _ => true)
  { d with mgmt := { d.mgmt with mount := none }, pool := { d.pool with reclaimed := [] } }

/-- Zero n bytes of the direct part. -/
def Dev.zeroDirect (d : Dev) (a n : Nat) : Dev := if a + n ≤ directSize then (d.dirClear a n).countHbm a n true none else d

/-- Zero n bytes of the tiered part in the Vault, while no tile is resident. -/
def Dev.zeroTiles (d : Dev) (a n : Nat) : Dev :=
  if partOf a ≠ .tiered then d else
  (tilePieces a n).foldl (fun d p =>
    let (port, off) := d.vaultOf (tileOf p.1)
    { d with vault := memClear d.vault (port * 2 ^ 42 + off + p.1 % tileBytes) p.2 }) d

/-- Bytes of the sequence slot records of all contexts (R139). -/
def slotBytes : Nat := 64 * 4096 * 8

/-- The pool's tags and bitmaps and the sequence slot records start afresh; the bitmap words around quarantined ones are renumbered. Records
in the tiered part are zeroed in step 14, once their tiles are known. -/
def Dev.clearPools (d : Dev) : Dev :=
  let d := (d.zeroDirect (d.rd Reg.poolTagBase) (2 * 2 ^ 20)).zeroDirect (d.rd Reg.migKvSeqBase) slotBytes
  { d with pool := { d.pool with classes := d.pool.classes.map (fun c => { c with words := [], bad := [] }) } }

/-- What the migration engine and the memory-semantic unit held for the old Mount's tiles and pages goes; a command that waited for a tile
is heard again (log entry 54). -/
def Dev.dropTiles (d : Dev) : Dev :=
  let again := (d.mig.stalls.filter (fun s => s.cmd.isSome)).map (fun s => { s with parts := [] })
  { d with mig := { d.mig with ports := d.mig.ports.map (fun p => { p with queue := [], running := none }), frames := [], ahead := [],
                               predicted := [], stalls := again, hints := [] },
           remote := { d.remote with replicas := [], lines := [] } }

/-- Slots of the plan are served; an unselected usable core below full width is ASSAY_ONLY (R287). -/
def Dev.applyPlan (d : Dev) (g : Nat) (plan : List (Nat × Nat)) : Dev :=
  (List.range 18).foldl (fun d s =>
    let p := 18 * g + s
    let slot := (plan.find? (fun e => e.2 = s)).map (fun e => e.1)
    let spare := slot.isNone && !d.mgmt.dead.contains p && decide (d.coreWidth p < 64)
    d.modCore p (fun c => { c with slot := slot, assayOnly := spare })) d

/-- Every cluster's selection for the image. All plans are made before any is applied. -/
def Dev.applyShape (d : Dev) (img : List Byte) : Dev :=
  let plans := (List.range 32).map (fun g => (g, d.planLoad img g))
  plans.foldl (fun d e => d.applyPlan e.1 e.2) d

/-- The BEZEL section goes to bank 0, which becomes active (R277). -/
def Dev.applyBezel (d : Dev) (img : List Byte) : Dev :=
  if (ofType (sectionsOf img) 3).isEmpty then d else
  let es := imgBezel img
  let d := es.zipIdx.foldl (fun d e => d.wr (Reg.tbBezelEntry 0 e.2) e.1) d
  ((d.wr Reg.tbBezelPeriod0 (imgPeriod img)).wr Reg.tbBezelCount es.length).wrFld Reg.tbBezelCtrl 1 1 0

/-- The values of REGS with their ENABLE bits at 0, or only those bits. -/
def Dev.loadPass (d : Dev) (l2p : Nat → Option Nat) (es : List RegEntry) (enables : Bool) : Dev :=
  es.foldl (fun d e => match e.target l2p with
    | none => d
    | some (r, _, off) =>
      if enables then
        match enableBit r with
        | some k => d.wrFld off k k (bitsOf e.val k k)
        | none => d
      else d.loaderWrite r off (r.withEnable e.val 0)) d

/-- Step 13. -/
def Dev.step13 (d : Dev) (img : List Byte) (origin : Nat) : Dev :=
  let d := d.loadPass (d.planL2p img) (regEntries img) false
  let d := (d.clearPools.dropTiles).applyShape img
  ((d.applyBezel img).copyImages img).wr Reg.fabRtBlock (imgBlock img origin)

/-- The tiles that a vault port counts at most: 4 TiB (Table 5.11). -/
def maxTiles : Nat := 2 ^ 26

/-- VLT_PORT_STATUS of a link (Table 5.16), with the whole GiB of up to 4 TiB counted and LOST clear. -/
def linkStatus (v : VaultLink) : Nat :=
  if v.width = 0 then 0
  else word [(32, min v.capTiles maxTiles / 16384), (4, v.width), (2, if v.rate64 then 2 else 1), (1, b2n v.flit256), (0, 1)]

/-- A vault port is enumerated (R142). -/
def Dev.enumerate (d : Dev) (n : Nat) (v : VaultLink) : Dev :=
  let d := d.wr (Reg.vltPortStatus n) (linkStatus v)
  let d := if v.width = 0 then (d.wrFld Reg.glbClkLock (56 + n) (56 + n) 0).wrFld Reg.glbClkLock (58 + n) (58 + n) 0
           else (d.clockUp (56 + n)).clockUp (58 + n)
  d.modVport n (fun p => { p with counted := decide (v.width ≠ 0), retraining := false })

/-- MIG_VAULT_SIZE (R125). -/
def vaultSize (v0 v1 : VaultLink) : Nat :=
  let cap (v : VaultLink) : Nat := min v.capTiles maxTiles * tileBytes
  if v0.width ≠ 0 ∧ v1.width ≠ 0 then 2 * min (cap v0) (cap v1)
  else if v0.width ≠ 0 then cap v0
  else if v1.width ≠ 0 then cap v1
  else 0

/-- Step 14. -/
def Dev.step14 (d : Dev) (v0 v1 : VaultLink) : Dev :=
  let d := ((d.enumerate 0 v0).enumerate 1 v1).wr Reg.migVaultSize (vaultSize v0 v1)
  (d.zeroDirect (d.rd Reg.migTdirBase) (8 * d.tiles)).zeroTiles (d.rd Reg.migKvSeqBase) slotBytes

/-- Optical ports in ACTIVE whose peer is in the block. -/
def Blocks.blockPorts (b : Blocks) : List Nat :=
  (List.range 6).filter (fun n => (b.optPort n).st = .active && b.inBlock (placeOf (b.fld (Reg.fabPortPeer n) 31 0)))

/-- Step 15: ENABLE fields, publication, and the retrains whose end the command waits for. -/
def Dev.step15 (d : Dev) (img : List Byte) : Dev :=
  let l2p := d.planL2p img
  let d := d.loadPass l2p (regEntries img) true
  let d : Dev := { d with mgmt := { d.mgmt with mount := some (mountOf img) }, tb := { d.tb with hmSeq := 0 } }
  let d := d.wr Reg.mgmtMountId (imgId img)
  let d := d.wr Reg.mgmtMountInfo (word [(16, imgWidth img), (8, imgLc img), (0, imgFmt img)])
  let d := d.wr Reg.mgmtMountVersion (fldOf img 16 31 0)
  let ports := d.blockPorts
  let d := ports.foldl (fun d n => d.beginRetrain n 1) d
  if ports.isEmpty then d.mgmtEnd 0 0 else (d.wrFld Reg.mgmtStatus 27 24 15).beginWait

/-- An uncorrectable HBM error while the image is read: code 0x45 at the image's address. -/
def Dev.imageError (d : Dev) (base : Nat) : Dev :=
  let s := d.stackOf base
  (d.countUncorr 0x45 base).log { code := 0x45, domain := 47 + s, unit := s, addr := base, kind := 1 }

/-- A failure at steps 12 to 15: no Mount is left. -/
def Dev.applyFail (d : Dev) (base : Nat) : Dev :=
  let d := ((d.imageError base).wr Reg.mgmtMountId 0).wrFld Reg.mgmtMountInfo 7 0 0
  ({ d with mgmt := { d.mgmt with mount := none } } : Dev).mgmtEnd 0x0F 0

/-- Steps 12 to 15; `bad` is the step at which the image meets an uncorrectable error: it and later steps are not done (log entry 51). -/
def Dev.applyMount (d : Dev) (base : Nat) (img : List Byte) (origin : Nat) (v0 v1 : VaultLink) (bad : Option Nat) : Dev :=
  let fails (k : Nat) : Bool := bad = some k
  if fails 12 then d.applyFail base else
  let d := d.clearMount
  if fails 13 then d.applyFail base else
  let d := d.step13 img origin
  if fails 14 then d.applyFail base else
  let d := d.step14 v0 v1
  if fails 15 then d.applyFail base else d.step15 img

/-- MOUNT_LOAD (R278, R279): steps 1 to 15 for the image that ARG0 to ARG2 name. -/
def Dev.mountLoad (d : Dev) (v0 v1 : VaultLink) (bad : Option Nat) : Dev :=
  match d.running 1 with
  | none => d
  | some run =>
    let arg (k : Nat) : Nat := (run.args.getD k 0).toNat
    let base := arg 0
    let n := arg 1
    match d.argsBad base n (arg 2) with
    | some r => d.mgmtEnd r 0
    | none =>
      if d.onFailedStack base n then (d.imageError base).mgmtEnd 0x14 0 else
      let d := d.countHbm base n false none
      match d.loadBad base n (arg 2) bad with
      | some (0x14, info) => (d.imageError base).mgmtEnd 0x14 info
      | some (r, info) => d.mgmtEnd r info
      | none => d.applyMount base (d.dirRead base n) (arg 2) v0 v1 bad

/-- MOUNT_CLEAR (R281). -/
def Dev.mountClear (d : Dev) : Dev :=
  match d.running 2 with
  | none => d
  | some _ => if d.contextExists then d.mgmtEnd 3 0 else d.clearMount.mgmtEnd 0 0

/-! Spare-core swap (R288). -/

/-- The moves of a cluster in ascending slot order: slots whose serving core changes, to cores no narrower than the Mount's WIDTH. -/
def Blocks.clusterMoves (b : Blocks) (m : Mount) (g : Nat) : List (Nat × Nat × Nat) :=
  let plan := sortBy (fun (x y : Nat × Nat) => decide (x.1 < y.1)) (b.planCluster g m.lc (fun _ => none))
  (plan.filter (fun e => (b.core (18 * g + e.2)).slot ≠ some e.1 && decide (m.width ≤ b.coreWidth (18 * g + e.2)))).map
    (fun e => (g, e.1, 18 * g + e.2))

/-- A core serves a slot although it is narrower than the loaded WIDTH. -/
def Blocks.belowShape (b : Blocks) (gs : List Nat) : Bool :=
  b.mgmt.mount.any (fun m => gs.any (fun g => (List.range 18).any (fun s =>
    (b.core (18 * g + s)).slot.isSome && decide (b.coreWidth (18 * g + s) < m.width))))

/-- The clusters that TARGET names. -/
def swapTargets (target : Nat) : List Nat := if target = 0xFF then List.range 32 else [target]

/-- The command ends when no move is left: NOT_IDLE before SHAPE_BELOW. -/
def Dev.swapEnd (d : Dev) (target : Nat) : Dev :=
  if !d.mgmt.moves.isEmpty then d
  else d.mgmtEnd (if d.mgmt.notIdle then 0x10 else if d.belowShape (swapTargets target) then 0x11 else 0) 0

/-- Usable cores of a cluster that serve no slot and are narrower than 64 columns are ASSAY_ONLY. -/
def Dev.markAssay (d : Dev) (g : Nat) : Dev :=
  (List.range 18).foldl (fun d s =>
    let p := 18 * g + s
    let spare := !d.mgmt.dead.contains p && decide (d.coreWidth p < 64)
    d.modCore p (fun c => { c with assayOnly := c.slot.isNone && spare })) d

/-- SPARE_SWAP: the selection is made again in the target clusters, and the slots whose core changes wait for their moves. -/
def Dev.spareSwap (d : Dev) : Dev :=
  match d.running 3 with
  | none => d
  | some run =>
    match d.mgmt.mount with
    | none => d.mgmtEnd 0 0
    | some m =>
      let gs := swapTargets run.target
      let moves := gs.flatMap (d.clusterMoves m)
      let d : Dev := { d with mgmt := { d.mgmt with moves := moves, notIdle := false } }
      ((gs.foldl Dev.markAssay d).beginWait).swapEnd run.target

/-- The cores that a slot waits for: its own, or its ganged quartet. -/
def Blocks.moveCores (b : Blocks) (p : Nat) : List Nat :=
  match b.gangPlace p, b.logOf p with
  | some k, some l => (List.range 4).filterMap (fun i => b.physOf (l - k + i))
  | _, _ => [p]

/-- The state of core `p` goes to core `q`: local memories, CORE_M, CORE_KEEP, owner and suspended programs. -/
def Dev.moveCore (d : Dev) (p q : Nat) : Dev :=
  let d : Dev := { d with loc := memCopy d.loc (q * 2 ^ 22) d.loc (p * 2 ^ 22) 0x1C0000 }
  let d : Dev := { d with loc := memCopy d.loc (q * 2 ^ 22 + 0x200000) d.loc (p * 2 ^ 22 + 0x200000) 0x40000 }
  let old := d.core p
  let d := d.modCore q (fun c => { c with slot := old.slot, assayOnly := false, owner := old.owner, incoming := old.incoming,
                                          suspended := old.suspended, m := old.m, keep := old.keep })
  let d := d.modCore p (fun c => { c with slot := none, owner := none, incoming := none, suspended := [] })
  -- suspended programs of a gang name their cores by number
  let renamed (g : Prog) : Prog := { g with gang := g.gang.map (fun x => if x = p then q else x) }
  { d with cores := d.cores.map (fun e => (e.1, { e.2 with suspended := e.2.suspended.map renamed })) }

/-- SLOT_MOVE: the first slot of its cluster that still waits moves when its cores are idle (R288). -/
def Dev.slotMove (d : Dev) (g j : Nat) : Dev :=
  match d.mgmt.run, d.mgmt.moves.find? (fun m => m.1 = g) with
  | some run, some (_, j', q) =>
    match (List.range 18).find? (fun s => (d.core (18 * g + s)).slot = some j) with
    | none => d
    | some s =>
      let p := 18 * g + s
      if run.op ≠ 3 ∨ j' ≠ j ∨ ((d.moveCores p) ++ [q]).any d.runsOn = true then d else
      let d := (d.moveCore p q).markAssay g
      let d : Dev := { d with mgmt := { d.mgmt with moves := d.mgmt.moves.filter (fun m => !(m.1 = g && m.2.1 = j)) } }
      d.swapEnd run.target
  | _, _ => d

/-- SWAP_WAIT_EXPIRE: a slot that waits stays where it is (R288). -/
def Dev.swapExpire (d : Dev) (g j : Nat) : Dev :=
  match d.mgmt.run with
  | none => d
  | some run =>
    if run.op ≠ 3 ∨ d.mgmt.moves.any (fun m => m.1 = g && m.2.1 = j) = false then d else
    let d : Dev := { d with mgmt := { d.mgmt with notIdle := true, moves := d.mgmt.moves.filter (fun m => !(m.1 = g && m.2.1 = j)) } }
    d.swapEnd run.target

/-! Link retrains (R143, R290). -/

/-- LINK_RETRAIN of an optical port. A port that is on its way to ACTIVE by itself is waited for (R179). -/
def Dev.retrainPort (d : Dev) (n : Nat) : Dev :=
  let p := d.optPort n
  let lanes (d : Dev) : Dev := d.modPort n (fun p => { p with txRetired := 0, rxRetired := 0 })
  match p.st with
  | .disabled => d.mgmtEnd 2 0
  | .failed => ((lanes d).beginWait).portDark n
  | .active => if p.asked then d else ((lanes d).beginWait).beginRetrain n (if p.width = d.maxWidth n then 1 else 2)
  | .quarantine => if p.asked then d else ((lanes d).beginWait).beginRetrain n (if p.width = d.maxWidth n then 1 else 2)
  | _ => d

/-- LINK_RETRAIN of a vault port: a link that is up goes down, so its traffic stops, and is trained again (R143, R286; log entry 92). -/
def Dev.retrainVault (d : Dev) (n : Nat) : Dev := ((d.vaultLinkDown n).modVport n (fun p => { p with retraining := true })).beginWait

/-- LINK_RETRAIN. -/
def Dev.linkRetrain (d : Dev) : Dev :=
  match d.running 4 with
  | none => d
  | some run =>
    if run.target < 6 then d.retrainPort run.target
    else d.retrainVault (run.target - 6)

/-- NO_LIGHT: the target port is still in DARK or WAKE 1,000 strokes after the command began. -/
def Dev.noLight (d : Dev) : Dev :=
  match d.mgmt.run with
  | none => d
  | some run =>
    let st := (d.optPort run.target).st
    if run.op = 4 ∧ run.target < 6 ∧ (st = .dark ∨ st = .wake) then d.mgmtEnd 0x13 0 else d

/-- A vault port's LINK_RETRAIN ends. -/
def Dev.vaultDone (d : Dev) (n result : Nat) : Dev :=
  match d.mgmt.run with
  | none => d
  | some run => if run.op = 4 ∧ run.target = 6 + n ∧ run.begun = true then d.mgmtEnd result 0 else d

/-- VAULT_LINK_UP: a link that retrains comes up; its queue resumes, or the port is LOST if the expander was reset
(R143); what a reset expander holds is left open (log entry 1). -/
def Dev.vaultLinkUp (d : Dev) (n : Nat) (v : VaultLink) (wasReset : Bool) : Dev :=
  if 2 ≤ n || !(d.vport n).retraining || v.width = 0 then d else
  let old := d.rd (Reg.vltPortStatus n)
  let link := word [(4, v.width), (2, if v.rate64 then 2 else 1), (1, b2n v.flit256), (0, 1)]
  let lost := bitOf old 9 || wasReset
  let d := d.wr (Reg.vltPortStatus n) (setBits (setBits old 8 0 link) 9 9 (b2n lost))
  let d := ((d.clockUp (56 + n)).clockUp (58 + n)).modVport n (fun p => { p with retraining := false })
  let d : Dev := if wasReset then { d.abortTransfers n with vault := memClear d.vault (n * 2 ^ 42) (2 ^ 42) } else d
  (if lost then d.portFaults n else d).vaultDone n 0

/-- VAULT_RETRAIN_TIMEOUT: the link has not come up within 200 ms (R290). -/
def Dev.vaultTimeout (d : Dev) (n : Nat) : Dev :=
  if 2 ≤ n || !(d.vport n).retraining then d else (d.modVport n (fun p => { p with retraining := false })).vaultDone n 0x12

/-- Meaning of MANAGEMENT_NOP. -/
def execManagementNop (s : State) : Host.Outcome State Fault Refusal := .next (s.onDev (s.dev.live Dev.mgmtNop))

/-- Meaning of MOUNT_LOAD. -/
def execMountLoad (vault0 vault1 : VaultLink) (applyFail : Option Nat) (s : State) : Host.Outcome State Fault Refusal :=
  .next (s.onDev (s.dev.live (fun d => d.mountLoad vault0 vault1 applyFail)))

/-- Meaning of MOUNT_CLEAR. -/
def execMountClear (s : State) : Host.Outcome State Fault Refusal := .next (s.onDev (s.dev.live Dev.mountClear))

/-- Meaning of SPARE_SWAP. -/
def execSpareSwap (s : State) : Host.Outcome State Fault Refusal := .next (s.onDev (s.dev.live Dev.spareSwap))

/-- Meaning of SLOT_MOVE. -/
def execSlotMove (cluster slot : Nat) (s : State) : Host.Outcome State Fault Refusal :=
  .next (s.onDev (s.dev.live (fun d => d.slotMove cluster slot)))

/-- Meaning of SWAP_WAIT_EXPIRE. -/
def execSwapWaitExpire (cluster slot : Nat) (s : State) : Host.Outcome State Fault Refusal :=
  .next (s.onDev (s.dev.live (fun d => d.swapExpire cluster slot)))

/-- Meaning of LINK_RETRAIN. -/
def execLinkRetrain (s : State) : Host.Outcome State Fault Refusal := .next (s.onDev (s.dev.live Dev.linkRetrain))

/-- Meaning of NO_LIGHT. -/
def execNoLight (s : State) : Host.Outcome State Fault Refusal := .next (s.onDev (s.dev.live Dev.noLight))

/-- Meaning of VAULT_RETRAIN_TIMEOUT. -/
def execVaultRetrainTimeout (port : Nat) (s : State) : Host.Outcome State Fault Refusal :=
  .next (s.onDev (s.dev.live (fun d => d.vaultTimeout port)))

end Sys2Proof.Machine
end

