-- ==== Sys2Proof/Machine/Global.lean ====
section
/-! DEFINITION. Device reset and its release (R356 to R360), clock faults (R30), heat (R365, R366) and the reset of the host port
(R295). -/

namespace Sys2Proof.Machine

/-! Device reset. -/

/-- The TAP instruction that an opcode acts as (R362): EXTEST, EXTEST_PULSE and EXTEST_TRAIN only while PORST# is low. -/
def tapActsAs (porstLow : Bool) (opcode : Nat) : Nat :=
  if opcode = 0x01 ∨ opcode = 0x02 then opcode
  else if (opcode = 0x00 ∨ opcode = 0x08 ∨ opcode = 0x09) ∧ porstLow = true then opcode
  else 0xFF

/-- PORST# is low: in a reset that it began. -/
def Blocks.porstLow (b : Blocks) : Bool := b.glb.phase = .inReset && b.fld Reg.glbResetStatus 23 16 = 1

/-- The word that IDCODE shifts out (R362). -/
def Blocks.idcode (b : Blocks) : Nat :=
  word [(28, bitsOf b.identView 19 16), (12, if b.grade = .t512 then 0x5412 else 0x5448), (1, 0x2F5), (0, 1)]

/-! Output pins (R357, R354, R365, R366); true = driven high or released. -/

/-- READY. -/
def Blocks.readyPin (b : Blocks) : Bool := b.glb.phase = .running

/-- THERM_HOT#. -/
def Blocks.thermHotPin (b : Blocks) : Bool := !b.flag Reg.glbTherm 48

/-- THERMTRIP#. -/
def Blocks.thermtripPin (b : Blocks) : Bool := !b.glb.thermtripLow

/-- VLT_PERST#0 and VLT_PERST#1: low until step 2 of Table 15.6. -/
def Blocks.vltPerstPin (b : Blocks) : Bool := b.glb.phase = .starting || b.glb.phase = .running

/-- BEAT_OUT carries the beat; it is held low in reset and while TB_CTRL.ENABLE = 0. -/
def Blocks.beatOutRuns (b : Blocks) : Bool := b.glb.phase = .running && b.flag Reg.tbCtrl 0

/-- How a configuration request of the host port is answered (Table 15.5). -/
inductive ConfigAnswer where
  | linkDown
  | requestRetry
  | served
  deriving DecidableEq, Repr

/-- The answer to a configuration request: the link is down until step 2 of Table 15.6, and then Request Retry Status goes out until READY. -/
def Blocks.configAnswer (b : Blocks) : ConfigAnswer :=
  if !b.glb.hostLink then .linkDown else if b.glb.phase = .starting then .requestRetry else .served

/-- The TAP judges its instruction again. -/
def Dev.tapSettle (d : Dev) : Dev :=
  { d with glb := { d.glb with tapActs := BitVec.ofNat 8 (tapActsAs d.porstLow d.glb.tapInsn.toNat) } }

/-- The device in reset (R357, R359): every register at its reset value, no Mount, no context, ports disabled, host link down, and the CAUSE
of the reset. What the memories hold is left open (log entry 1). The host's memory, the messages already sent and the TAP are outside the
reset. -/
def Dev.intoReset (d : Dev) (cause : Nat) (phase : Phase) : Dev :=
  let fresh : Dev :=
    { grade := d.grade, hostMem := d.hostMem, freeUsed := d.freeUsed,
      glb := { phase := phase, hostLink := false, perstHigh := d.glb.perstHigh, msix := d.glb.msix, tapInsn := d.glb.tapInsn,
               thermtripLow := decide (phase = .tripped) } }
  (fresh.wrFld Reg.glbResetStatus 23 16 cause).tapSettle

/-- A write of the KEY to GLB_RESET_CMD (R356); any other value is discarded. -/
def Dev.resetKey (d : Dev) (p : MPort) (v : Nat) : Option Dev :=
  if bitsOf v 15 0 = 0xA5C3 then some (d.intoReset (if p = .host then 2 else 3) .inReset) else none

/-! Release (Table 15.6). -/

/-- Results of the column test (R97): failing columns and the good columns of each array. -/
def Dev.bistColumns (d : Dev) (xs : List (Nat × Nat × W64)) : Dev :=
  xs.foldl (fun d x =>
    let (p, a, mask) := x
    if 576 ≤ p ∨ 4 ≤ a then d else
    let bad := Nat.lor (d.rd (Reg.coreColbad p a)) mask.toNat
    let good := 64 - ((List.range 64).filter (fun i => bitOf bad i)).length
    (d.wr (Reg.coreColbad p a) bad).wrFld (Reg.coreWidth p) (8 * a + 7) (8 * a) good) d

/-- Cores that fail outside their columns or have an array with fewer than 16 good columns (R287). -/
def Dev.bistCores (d : Dev) (failed : List Nat) (xs : List (Nat × Nat × W64)) : Dev :=
  let narrow := (xs.map (fun x => x.1)).filter (fun p => decide (p < 576) && decide (d.coreWidth p < 16))
  let dead := sortBy (fun (x y : Nat) => decide (x < y)) ((failed.filter (fun p => decide (p < 576)) ++ narrow).eraseDups)
  { d with mgmt := { d.mgmt with dead := dead } }

/-- Failing bitmap words take spares; further ones are lost (R158). -/
def Dev.bistWords (d : Dev) (xs : List (Nat × Nat)) : Dev :=
  xs.foldl (fun d x => d.modClass x.1 (fun c =>
    let n := (8 - c.spares) + c.lost + x.2
    { c with spares := 8 - n, lost := n - 8 })) d

/-- The results of step 3. -/
def Dev.builtIn (d : Dev) (r : Bist) : Dev :=
  let d := (d.bistColumns r.columns).bistCores r.deadCores r.columns
  let d := (d.bistWords r.words).wrFld Reg.fabRtStatus 21 20 (2 - r.badBanks)
  let d := (r.repaired.filter (fun x => decide (x.1 < 8))).foldl (fun d x =>
    d.wr (Reg.hbmRepaired x.1) (word [(16, x.2.1 % 65536), (0, x.2.2 % 65536)])) d
  d.wrFld Reg.glbResetStatus 15 8 r.stackFail

/-- RESET_RELEASE: straps, PLLs, vault resets, built-in tests (Table 15.6 steps 1 to 3). -/
def Dev.release (d : Dev) (addr0 addr1 : Bool) (r : Bist) : Dev :=
  if d.glb.phase ≠ .inReset then d else
  let locks := List.range 41 ++ (List.range 8).map (47 + ·)
  let d : Dev := { d with glb := { d.glb with phase := .starting, straps := 2 * b2n addr1 + b2n addr0, lockedOnce := locks } }
  let d := (d.wr Reg.glbClkLock (word (locks.map (fun k => (k, 1))))).wrFld Reg.glbResetStatus 3 0 0xE
  (d.builtIn r).tapSettle

/-- READY: vault enumeration has ended (step 4). -/
def Dev.ready (d : Dev) (v0 v1 : VaultLink) : Dev :=
  if d.glb.phase ≠ .starting then d else
  let d := (d.enumerate 0 v0).enumerate 1 v1
  let d : Dev := { d with glb := { d.glb with phase := .running } }
  (d.wrFld Reg.glbResetStatus 4 4 1).wrFld Reg.glbResetStatus 0 0 1

/-! Host port (R295, R31). -/

/-- Every context is torn down; every ring register returns to its reset value, the counters among them (log entry 14); records not yet sent
and BAR2 accesses not yet answered go. Outside operation there is no context and no ring register to reset. -/
def Dev.hostReset (d : Dev) : Dev := d.live fun d =>
  let d := (List.range 64).foldl (fun d c => d.tearDown c 0xFF) d
  let isBar2 (s : Stall) : Bool := match s.cmd with
    | some (.bar2Access _ _ _ _ _) => true
    | _ => false
  { d.unsetRange 0x01000000 0x02000000 with rings := [], granted := none,
                                            mig := { d.mig with stalls := d.mig.stalls.filter (fun s => !isBar2 s) } }

/-- The host port link falls. -/
def Dev.hostDown (d : Dev) : Dev :=
  if d.glb.hostLink then
    let d : Dev := { d with glb := { d.glb with hostLink := false } }
    d.clockDown 55
  else d

/-- HOST_PORT_RESET. PCIE_PERST# and the link fall in every phase. -/
def Dev.hostPortReset (d : Dev) (kind : HostReset) : Dev :=
  match kind with
  | .flr => d.hostReset
  | .hotReset => d.hostReset
  | .linkDown => d.hostReset.hostDown
  | .perst =>
    let d := d.hostReset.hostDown
    { d with glb := { d.glb with perstHigh := false } }

/-- HOST_PORT_LINK_UP: the link trains once PCIE_PERST# is high and step 2 of Table 15.6 has been reached. -/
def Dev.hostPortUp (d : Dev) : Dev :=
  if d.glb.phase = .starting ∨ d.glb.phase = .running then
    let d : Dev := { d with glb := { d.glb with hostLink := true, perstHigh := true } }
    d.clockUp 55
  else d

/-! Clock faults (R30). -/

/-- The clock of a cluster stops: its cores, and the counters that run with it (R334, R353). -/
def Dev.clusterStop (d : Dev) (g : Nat) : Dev :=
  if 32 ≤ g then d else { d with glb := { d.glb with lostAt := tabSet 0 d.glb.lostAt g (d.glb.hubNow + 1) } }

/-- A device-level clock fault: injection stops, every transmitter goes dark and no port is up any more, the domain is recorded and logged. -/
def Dev.clockFault (d : Dev) (dom : Nat) : Dev :=
  let d : Dev := { d with glb := { d.glb with stopped := true } }
  let d := (List.range 6).foldl Dev.portStop d
  ((d.clusterStop dom).clockDown dom).log { code := 0xC6, domain := dom }

/-- PLL_LOCK_LOSS of a domain that is locked. -/
def Dev.pllLockLoss (d : Dev) (dom : Nat) : Dev :=
  if 60 ≤ dom ∨ bitOf d.clkLockView dom = false then d
  else if 41 ≤ dom ∧ dom ≤ 46 then d.portLoss (dom - 41) 0x6A
  else if dom = 55 then d.hostReset.hostDown
  else if dom = 56 ∨ dom = 58 then d.vaultLinkDown 0
  else if dom = 57 ∨ dom = 59 then d.vaultLinkDown 1
  else d.clockFault dom

/-! Heat (R365, R366). -/

/-- The hottest die sensor. -/
def hottest (t : Temps) : Nat := max t.q0 (max t.q1 (max t.q2 (max t.q3 t.hub)))

/-- The sensors as GLB_THERM and GLB_THERM_DIE show them, in 8 bits each. -/
def Dev.senseHeat (d : Dev) (t : Temps) : Dev :=
  let c (x : Nat) : Nat := min x 255
  (d.wrFld Reg.glbTherm 7 0 (c (hottest t))).wr Reg.glbThermDie
    (word [(0, c t.q0), (8, c t.q1), (16, c t.q2), (24, c t.q3), (32, c t.hub), (40, c t.hbm)])

/-- HOT sets: a die sensor at HOT_C or a stack at 95 °C. -/
def Dev.heatSet (d : Dev) (t : Temps) : Dev :=
  if d.fld Reg.glbTherm 23 16 ≤ hottest t ∨ 95 ≤ t.hbm then d.wrFld Reg.glbTherm 48 48 1 else d

/-- HOT clears: every die sensor at HOT_C − 5 °C or below and every stack at 90 °C or below. -/
def Dev.heatClear (d : Dev) (t : Temps) : Dev :=
  if hottest t + 5 ≤ d.fld Reg.glbTherm 23 16 ∧ t.hbm ≤ 90 then d.wrFld Reg.glbTherm 48 48 0 else d

/-- THERMTRIP: a die sensor at 125 °C. -/
def Dev.trip (d : Dev) (t : Temps) : Dev :=
  if 125 ≤ hottest t ∧ (d.glb.phase = .running ∨ d.glb.phase = .starting) then d.intoReset 1 .tripped else d

/-! Meanings. -/

/-- Meaning of DEVICE_RESET. -/
def execDeviceReset (s : State) : Host.Outcome State Fault Refusal := .next (s.onDev (s.dev.intoReset 1 .inReset))

/-- Meaning of RESET_RELEASE. -/
def execResetRelease (addr0 addr1 : Bool) (bist : Bist) (s : State) : Host.Outcome State Fault Refusal :=
  .next (s.onDev (s.dev.release addr0 addr1 bist))

/-- Meaning of READY. -/
def execReady (vault0 vault1 : VaultLink) (s : State) : Host.Outcome State Fault Refusal := .next (s.onDev (s.dev.ready vault0 vault1))

/-- Meaning of PLL_LOCK_LOSS. -/
def execPllLockLoss (domain : Nat) (s : State) : Host.Outcome State Fault Refusal :=
  .next (s.onDev (s.dev.live (fun d => d.pllLockLoss domain)))

/-- What the device senses in every phase, in reset and while it starts too (Table 15.5), but not with every clock stopped (R366). -/
def Dev.sensing (d : Dev) (f : Dev → Dev) : Dev := if d.glb.phase = .tripped then d else f d

/-- Meaning of THERM_HOT. -/
def execThermHot (t : Temps) (s : State) : Host.Outcome State Fault Refusal :=
  .next (s.onDev (s.dev.sensing (fun d => (d.senseHeat t).heatSet t)))

/-- Meaning of THERM_HOT_CLEAR. -/
def execThermHotClear (t : Temps) (s : State) : Host.Outcome State Fault Refusal :=
  .next (s.onDev (s.dev.sensing (fun d => (d.senseHeat t).heatClear t)))

/-- Meaning of THERMTRIP. -/
def execThermtrip (t : Temps) (s : State) : Host.Outcome State Fault Refusal := .next (s.onDev (s.dev.trip t))

/-- Meaning of HOST_PORT_RESET. -/
def execHostPortReset (kind : HostReset) (s : State) : Host.Outcome State Fault Refusal :=
  .next (s.onDev (s.dev.hostPortReset kind))

/-- Meaning of HOST_PORT_LINK_UP. -/
def execHostPortLinkUp (s : State) : Host.Outcome State Fault Refusal := .next (s.onDev s.dev.hostPortUp)

/-- Meaning of TAP_INSTRUCTION. -/
def execTapInstruction (opcode : Byte) (s : State) : Host.Outcome State Fault Refusal :=
  .next (s.onDev (({ s.dev with glb := { s.dev.glb with tapInsn := opcode } } : Dev).tapSettle))

end Sys2Proof.Machine
end

