-- ==== Sys2Proof/Machine/Observe.lean ====
section
/-! DEFINITION. The error log's intake and the commands and messages of Loupe (R340 to R345). -/

namespace Sys2Proof.Machine

/-- The oldest entry of the staging FIFO takes SEQ = ERR_LOG_HEAD and its slot; a full log loses its oldest entry (R345). -/
def Dev.slotWrite (d : Dev) : Dev :=
  match d.obs.fifo with
  | [] => d
  | e :: rest =>
    let head := d.rd Reg.errLogHead
    let tail := d.rd Reg.errLogTail
    let full : Bool := (head + 2 ^ 32 - tail) % 2 ^ 32 = 256
    let d := if full then (d.wr Reg.errLogTail ((tail + 1) % 2 ^ 32)).bump Reg.errCntOverwritten 1 else d
    let d : Dev := { d with obs := { d.obs with fifo := rest, slots := tabInsert (head % 256) (head, e) (tabErase (head % 256) d.obs.slots) } }
    d.wr Reg.errLogHead ((head + 1) % 2 ^ 32)

/-- ERROR_LOG_WRITE: a hub cycle of the log: the staging FIFO takes what has its turn, and the log takes one entry from the FIFO (R345; log
entry 18). -/
def Dev.errorLogWrite (d : Dev) : Dev := d.logIntake.slotWrite

/-- No snapshot is pending any more; one that was is counted as replaced (R341). -/
def Dev.dropPending (d : Dev) : Dev :=
  if d.obs.pending.isSome then ({ d with obs := { d.obs with pending := none } } : Dev).bump Reg.loupeCntIgnored 1 else d

/-- A snapshot is scheduled for a stroke, or latches at once with LATE if the stroke has passed (R341). -/
def Dev.schedule (d : Dev) (stroke source id : Nat) : Dev :=
  let d := d.dropPending
  if stroke ≤ d.stroke then d.snapshot source 0 id true
  else { d with obs := { d.obs with pending := some (stroke, source, id) } }

/-- LOUPE_MESSAGE: a message of TYPE 6 schedules a snapshot at its stroke (R342). -/
def Dev.loupeMessage (d : Dev) : Dev :=
  match d.filTake 6 with
  | (none, d) => d
  | (some m, d) => d.schedule (leNat (m.data.take 8)) 4 (m.key % 2 ^ 16)

/-- The ARM bit (R340). -/
def Dev.loupeArm (d : Dev) : Dev := { d with obs := { d.obs with armed := true, held := false } }

/-- A write of LOUPE_CMD: ARM before the triggers; SCHEDULE with TRIGGER latches at once and leaves nothing pending; SEND with SCHEDULE
tells the other devices of the block (R341, R342, R347). -/
def Dev.loupeCmd (d : Dev) (v : Nat) : Dev :=
  let id := bitsOf v 31 16
  let d : Dev := { d with obs := { d.obs with cmdId := id } }
  let d := if bitOf v 1 then d.loupeArm else d
  let d := if bitOf v 2 && bitOf v 3 then d.filBroadcast 6 id 0 (toLe 8 (d.rd Reg.loupeAt)) else d
  if bitOf v 0 then (if bitOf v 2 then d.dropPending else d).snapshot 1 0 id false
  else if bitOf v 2 then d.schedule (d.rd Reg.loupeAt) 3 id
  else d

/-- Meaning of ERROR_LOG_WRITE. -/
def execErrorLogWrite (s : State) : Host.Outcome State Fault Refusal := .next (s.onDev (s.dev.live Dev.errorLogWrite))

/-- Meaning of LOUPE_MESSAGE. -/
def execLoupeMessage (s : State) : Host.Outcome State Fault Refusal := .next (s.onDev (s.dev.live Dev.loupeMessage))

end Sys2Proof.Machine
end

