-- ==== Sys2Proof/Machine/Bus.lean ====
section
/-! DEFINITION. Register accesses over the two management ports: what an offset selects (R12, R16), the staging and read latches (R17),
what a write is answered with (R15, R282, R284, R346), and every register's own effect. -/

namespace Sys2Proof.Machine

/-- Which part of a register an access reaches. -/
inductive Half32 where
  | whole
  | low
  | high
  deriving DecidableEq, Repr

/-- The register that an access reaches: its entry of the map, instance numbers, offset, and the part. -/
structure Target where
  r : RegSpec
  i : Nat
  j : Nat
  off : Nat
  half : Half32
  deriving DecidableEq, Repr

/-- The register under an access of `bytes` bytes at an offset; `none` where R16 finds none. An I3C private transfer can name an offset of
2^28 or more, which lies outside BAR0 and for which the specification gives no answer: it is taken as an offset at which no register
lies (log entry 93). -/
def busTarget (off bytes : Nat) : Option Target :=
  if 2 ^ 28 ≤ off then none
  else if bytes = 8 ∧ off % 8 = 0 then
    match regAt off with
    | some (r, i, j) => if r.wide then some ⟨r, i, j, off, .whole⟩ else none
    | none => none
  else if bytes = 4 ∧ off % 4 = 0 then
    match regAt off with
    | some (r, i, j) => some ⟨r, i, j, off, if r.wide then .low else .whole⟩
    | none =>
      match (if 4 ≤ off then regAt (off - 4) else none) with
      | some (r, i, j) => if r.wide then some ⟨r, i, j, off - 4, .high⟩ else none
      | none => none
  else none

/-! The effect of a register's own (Table 0.6 and the chapters). -/

/-- FAB_PORT_CTRL: edges of ENABLE move the port (R184). -/
def Dev.portCtrlEdge (d : Dev) (n old : Nat) : Dev :=
  let now := d.flag (Reg.fabPortCtrl n) 0
  if now && !bitOf old 0 then d.portEnable n else if !now && bitOf old 0 then d.portDisable n else d

/-- FAB_SWEEP: ACTIVE = 0 completes the sweep of EPOCH on this device (R289). -/
def Dev.sweepEdge (d : Dev) : Dev :=
  if d.flag Reg.fabSweep 16 then d else { d with glb := { d.glb with sweepDone := d.fld Reg.fabSweep 15 0 } }

/-- MSI-X vector control: an unmasked vector that is pending is sent (log entry 6). -/
def Dev.msixEdge (d : Dev) (v : Nat) : Dev :=
  let pba := Reg.msixPba (v / 64)
  if d.flag (Reg.msixCtrl v) 0 || !d.flag pba (v % 64) then d
  else ({ d with glb := { d.glb with msix := d.glb.msix ++ [v] } } : Dev).wr pba (setBits (d.rd pba) (v % 64) (v % 64) 0)

/-- A register takes a value by its access types if the value passes the register's checks. -/
def Dev.plainWrite (d : Dev) (r : RegSpec) (i off v : Nat) : Option Dev :=
  let old := d.rd off
  let is (first : Nat) : Bool := r.base = first
  let d := d.wr off (r.merge old v)
  if d.valueOk r i v then
    some (if is (Reg.fabPortCtrl 0) then d.portCtrlEdge i old
          else if is Reg.fabSweep then d.sweepEdge
          else if is Reg.fabRtSelf then { d with glb := { d.glb with selfWritten := true } }
          else if is Reg.fabRtTorus then { d with glb := { d.glb with torusWritten := true } }
          else if is (Reg.msixCtrl 0) then d.msixEdge i
          else d)
  else none

/-- A whole register is written over port p: `none` where the register's own rule discards the write (RESP 4). `ecc` brings the words that
the engine started by the write meets. -/
def Dev.regWrite (d : Dev) (p : MPort) (r : RegSpec) (i off v : Nat) (ecc : Ecc := {}) : Option Dev :=
  let is (first : Nat) : Bool := r.base = first
  if d.writeBarred r i off v then none
  else if is (Reg.ringCtrl 0) then d.ringCtrlWrite i v
  else if is (Reg.ringSqTail 0) then d.doorbell i v
  else if is (Reg.ringCqTail 0) then d.cqTailWrite i v
  else if is (Reg.ringShapeRate 0) || is (Reg.ringShapeBurst 0) then d.shapeWrite i off v
  else if is (Reg.ringCancel 0) then some (d.ringCancel i (v % 65536))
  else if is (Reg.reKeothResume 0) then d.keothResume p i v ecc
  else if is Reg.tbCtrl then d.tbCtrlWrite v
  else if is Reg.tbTime then some (d.timeSet v)
  else if is Reg.tbTimeAdj then some (d.timeAdj v)
  else if is Reg.glbCtxCmd then d.ctxCmd v
  else if is Reg.glbResetCmd then d.resetKey p v
  else if is Reg.mgmtCmd then some (d.mgmtStart p (d.bus p).args v)
  else if is (Reg.mgmtArg 0) then some (d.modBus p (fun x => { x with args := x.args.set i (BitVec.ofNat 64 v) }))
  else if is Reg.loupeSel then some (d.modBus p (fun x => { x with loupeSel := v }))
  else if is Reg.loupeCmd then some (d.loupeCmd v)
  else d.plainWrite r i off v

/-- An error response to a write: over the I3C port it also sets the protocol-error bit of GETSTATUS (Table 14.7). -/
def Dev.writeErr (d : Dev) (p : MPort) (resp off bytes : Nat) : Dev :=
  let d := d.errResp p resp off bytes false
  match p with
  | .host => d
  | .i3c => { d with i3c := { d.i3c with protErr := true } }

/-- A whole value reaches a register and is judged: reserved bits first, then the register's own rules (R15, R17). -/
def Dev.judge (d : Dev) (p : MPort) (t : Target) (v bytes : Nat) (ecc : Ecc := {}) : Dev :=
  if t.r.setsReserved v then d.writeErr p 2 t.off bytes
  else match d.regWrite p t.r t.i t.off v ecc with
    | some d => d.answer p .done
    | none => d.writeErr p 4 t.off bytes

/-! Writes. -/

/-- MGMT_CMD or an argument register. -/
def Target.isMailbox (t : Target) : Bool := t.r.base = Reg.mgmtCmd || t.r.base = Reg.mgmtArg 0

/-- The write sets bits in W1C fields alone. -/
def Target.clearsOnly (t : Target) (v : Nat) : Bool :=
  let v := if t.half = .high then v * 2 ^ 32 else v
  t.r.pick [.w1c] (2 ^ 64 - 1) ≠ 0 && t.r.pick [.w1c] v = v

/-- The running management command keeps the register from being written (R284). -/
def Blocks.mgmtBars (b : Blocks) (t : Target) (v : Nat) : Bool :=
  match b.mgmt.run with
  | none => false
  | some run =>
    ((run.op = 1 || run.op = 2) && !([Reg.mgmtCtrl, Reg.mgmtStatus, Reg.tbTime, Reg.tbTimeAdj].contains t.r.base) && !t.clearsOnly v) ||
    (run.op = 4 && t.r.base = Reg.fabPortCtrl 0 && t.i = run.target)

/-- A write that has found its register. -/
def Dev.writeTarget (d : Dev) (p : MPort) (t : Target) (v bytes : Nat) (ecc : Ecc := {}) : Dev :=
  if d.mgmt.run.isSome && t.isMailbox then (d.wrFld Reg.mgmtStatus 2 2 1).answer p .done
  else if d.mgmtBars t v then d.writeErr p 4 t.off bytes
  else match t.half with
    | .whole => d.judge p t v bytes ecc
    | .low => (d.modBus p (fun x => { x with stage := some ⟨t.off, BitVec.ofNat 32 v⟩ })).answer p .done
    | .high =>
      let staged := (d.bus p).stage
      let d := d.modBus p (fun x => { x with stage := none })
      match staged with
      | some l => if l.off = t.off then d.judge p t (l.val.toNat + v % 2 ^ 32 * 2 ^ 32) bytes ecc else d.writeErr p 3 t.off bytes
      | none => d.writeErr p 3 t.off bytes

/-- The port reaches the device: the host port only while its link is up (R357). -/
def Blocks.reaches (b : Blocks) (p : MPort) : Bool := p = .i3c || b.glb.hostLink

/-- A write of `bytes` bytes at a BAR0 offset. -/
def Dev.busWrite (d : Dev) (p : MPort) (off bytes v : Nat) (ecc : Ecc := {}) : Dev :=
  if !d.reaches p then d.answer p .silent
  else match busTarget off bytes with
    | none => d.writeErr p 1 off bytes
    | some t => d.writeTarget p t (v % 2 ^ (8 * bytes)) bytes ecc

/-! Reads. -/

/-- The register has a shadow (R340): a counter, whatever its name, or one of the named kinds. -/
def RegSpec.hasShadow (r : RegSpec) : Bool := r.cls ≠ .plain || r.base = Reg.corePmc 0 0 || r.base = Reg.vltPortPoison 0

/-- The shadow that LOUPE_SEL selects (R343): `none` if the offset has none; before the first latch a shadow holds 0. -/
def Dev.shadow (d : Dev) (p : MPort) : Option Nat :=
  let sel := (d.bus p).loupeSel
  match regAt sel with
  | some (r, i, j) =>
    if !r.hasShadow then none
    else some ((d.snap.map (fun b => r.shown (b.current r i j sel))).getD 0)
  | none => none

/-- The value that a read over port p returns: `none` where it is answered with RESP 1. -/
def Dev.readValue (d : Dev) (p : MPort) (t : Target) : Option Nat :=
  if t.r.base = Reg.loupeData then d.shadow p
  else if t.r.base = Reg.loupeSel then some (d.bus p).loupeSel
  else if t.r.base = Reg.mgmtArg 0 then some ((d.bus p).args.getD t.i 0).toNat
  else some (t.r.shown (d.current t.r t.i t.j t.off))

/-- A read that has found its register (R17). -/
def Dev.readTarget (d : Dev) (p : MPort) (t : Target) (bytes : Nat) : Dev :=
  let held := (d.bus p).latch
  match t.half, d.readValue p t with
  | .whole, some v => d.answer p (.data bytes (BitVec.ofNat 64 v))
  | .low, some v =>
    (d.modBus p (fun x => { x with latch := some ⟨t.off, BitVec.ofNat 32 (v / 2 ^ 32)⟩ })).answer p (.data 4 (BitVec.ofNat 64 (v % 2 ^ 32)))
  | .high, v =>
    let d := d.modBus p (fun x => { x with latch := none })
    match held.filter (fun l => l.off = t.off), v with
    | some l, _ => d.answer p (.data 4 (l.val.setWidth 64))
    | none, some v => d.answer p (.data 4 (BitVec.ofNat 64 (v / 2 ^ 32 % 2 ^ 32)))
    | none, none => d.errResp p 1 t.off bytes false
  | _, none => d.errResp p 1 t.off bytes false

/-- A read of `bytes` bytes at a BAR0 offset. -/
def Dev.busRead (d : Dev) (p : MPort) (off bytes : Nat) : Dev :=
  if !d.reaches p then d.answer p .silent
  else match busTarget off bytes with
    | none => d.errResp p 1 off bytes false
    | some t => d.readTarget p t bytes

/-! Rows that are writes of one register. -/

/-- A write of a whole register of 32 bits. -/
def Dev.write32 (d : Dev) (p : MPort) (off v : Nat) (ecc : Ecc := {}) : Dev := d.busWrite p off 4 v ecc

/-- A write of RING_CTRL of an existing ring with one field changed. -/
def Dev.ringField (d : Dev) (p : MPort) (ring hi lo v : Nat) : Dev :=
  if ring < 4096 then d.write32 p (Reg.ringCtrl ring) (setBits (d.rd (Reg.ringCtrl ring)) hi lo v) else d

/-- A write of an optical port's ENABLE. -/
def Dev.portField (d : Dev) (p : MPort) (n v : Nat) : Dev :=
  if n < 6 then d.write32 p (Reg.fabPortCtrl n) (setBits (d.rd (Reg.fabPortCtrl n)) 0 0 v) else d

/-- A write of an existing ring's register. -/
def Dev.ringReg (d : Dev) (p : MPort) (ring off v : Nat) : Dev := if ring < 4096 then d.write32 p off v else d

/-- Meaning of REGISTER_WRITE. -/
def execRegisterWrite (p : MPort) (off bytes : Nat) (val : W64) (s : State) : Host.Outcome State Fault Refusal :=
  .next (s.onDev (s.dev.live (fun d => d.busWrite p off bytes val.toNat)))

/-- Meaning of REGISTER_READ. -/
def execRegisterRead (p : MPort) (off bytes : Nat) (s : State) : Host.Outcome State Fault Refusal :=
  .next (s.onDev (s.dev.live (fun d => d.busRead p off bytes)))

/-- Meaning of RESET_CMD. -/
def execResetCmd (p : MPort) (key : W32) (s : State) : Host.Outcome State Fault Refusal :=
  .next (s.onDev (s.dev.live (fun d => d.write32 p Reg.glbResetCmd key.toNat)))

/-- Meaning of DOORBELL. -/
def execDoorbell (p : MPort) (ring : Nat) (tail : W32) (s : State) : Host.Outcome State Fault Refusal :=
  .next (s.onDev (s.dev.live (fun d => d.ringReg p ring (Reg.ringSqTail ring) tail.toNat)))

/-- Meaning of RING_ENABLE: the value written, its ENABLE bit set. -/
def execRingEnable (p : MPort) (ring : Nat) (ctrl : W32) (s : State) : Host.Outcome State Fault Refusal :=
  .next (s.onDev (s.dev.live (fun d => d.ringReg p ring (Reg.ringCtrl ring) (setBits ctrl.toNat 0 0 1))))

/-- Meaning of RING_DISABLE. -/
def execRingDisable (p : MPort) (ring : Nat) (s : State) : Host.Outcome State Fault Refusal :=
  .next (s.onDev (s.dev.live (fun d => d.ringField p ring 0 0 0)))

/-- Meaning of RING_CANCEL. -/
def execRingCancel (p : MPort) (ring : Nat) (val : W32) (s : State) : Host.Outcome State Fault Refusal :=
  .next (s.onDev (s.dev.live (fun d => d.ringReg p ring (Reg.ringCancel ring) val.toNat)))

/-- Meaning of RING_PRIO_WRITE. -/
def execRingPrioWrite (p : MPort) (ring prio : Nat) (s : State) : Host.Outcome State Fault Refusal :=
  .next (s.onDev (s.dev.live (fun d => d.ringField p ring 6 4 prio)))

/-- Meaning of RE_HALT. -/
def execReHalt (p : MPort) (re : Nat) (on : Bool) (s : State) : Host.Outcome State Fault Refusal :=
  .next (s.onDev (s.dev.live (fun d =>
    if re < 4 then d.write32 p (Reg.reCtrl re) (setBits (d.rd (Reg.reCtrl re)) 2 2 (b2n on)) else d)))

/-- Meaning of KEOTH_RESUME. -/
def execKeothResume (p : MPort) (re : Nat) (val : W32) (ecc : Ecc) (s : State) : Host.Outcome State Fault Refusal :=
  .next (s.onDev (s.dev.live (fun d => if re < 4 then d.write32 p (Reg.reKeothResume re) val.toNat ecc else d)))

/-- Meaning of PORT_ENABLE. -/
def execPortEnable (p : MPort) (port : Nat) (s : State) : Host.Outcome State Fault Refusal :=
  .next (s.onDev (s.dev.live (fun d => d.portField p port 1)))

/-- Meaning of PORT_DISABLE. -/
def execPortDisable (p : MPort) (port : Nat) (s : State) : Host.Outcome State Fault Refusal :=
  .next (s.onDev (s.dev.live (fun d => d.portField p port 0)))

/-- Meaning of SWEEP_WRITE. -/
def execSweepWrite (p : MPort) (val : W32) (s : State) : Host.Outcome State Fault Refusal :=
  .next (s.onDev (s.dev.live (fun d => d.write32 p Reg.fabSweep val.toNat)))

/-- Meaning of TIMEBASE_ENABLE. -/
def execTimebaseEnable (p : MPort) (s : State) : Host.Outcome State Fault Refusal :=
  .next (s.onDev (s.dev.live (fun d => d.write32 p Reg.tbCtrl (setBits (d.rd Reg.tbCtrl) 0 0 1))))

/-- Meaning of BEZEL_SWITCH. -/
def execBezelSwitch (p : MPort) (s : State) : Host.Outcome State Fault Refusal :=
  .next (s.onDev (s.dev.live (fun d => d.write32 p Reg.tbBezelCtrl (setBits (d.rd Reg.tbBezelCtrl) 2 2 1))))

/-- Meaning of TIME_WRITE. -/
def execTimeWrite (p : MPort) (val : W64) (s : State) : Host.Outcome State Fault Refusal :=
  .next (s.onDev (s.dev.live (fun d => d.busWrite p Reg.tbTime 8 val.toNat)))

/-- Meaning of TIME_ADJ. -/
def execTimeAdj (p : MPort) (val : W32) (s : State) : Host.Outcome State Fault Refusal :=
  .next (s.onDev (s.dev.live (fun d => d.write32 p Reg.tbTimeAdj val.toNat)))

/-- Meaning of HM_DISABLE. -/
def execHmDisable (p : MPort) (s : State) : Host.Outcome State Fault Refusal :=
  .next (s.onDev (s.dev.live (fun d => d.write32 p Reg.tbCtrl (setBits (d.rd Reg.tbCtrl) 2 2 0))))

/-- Meaning of CONTEXT_CREATE: the create word of Table 13.5, each operand in its field. -/
def execContextCreate (p : MPort) (ctx role : Nat) (rt : Bool) (saveBase : Nat) (s : State) : Host.Outcome State Fault Refusal :=
  let w := word [(0, 1), (8, ctx % 64), (14, b2n rt), (15, role % 64), (21, saveBase / 2 ^ 21 % 2 ^ 27)]
  .next (s.onDev (s.dev.live (fun d => d.busWrite p Reg.glbCtxCmd 8 w)))

/-- Meaning of CONTEXT_DESTROY. -/
def execContextDestroy (p : MPort) (ctx : Nat) (s : State) : Host.Outcome State Fault Refusal :=
  .next (s.onDev (s.dev.live (fun d => d.busWrite p Reg.glbCtxCmd 8 (word [(0, 2), (8, ctx % 64)]))))

/-- Meaning of LOUPE_TRIGGER. -/
def execLoupeTrigger (p : MPort) (id : Nat) (s : State) : Host.Outcome State Fault Refusal :=
  .next (s.onDev (s.dev.live (fun d => d.write32 p Reg.loupeCmd (word [(0, 1), (16, id % 65536)]))))

/-- Meaning of LOUPE_SCHEDULE. -/
def execLoupeSchedule (p : MPort) (id : Nat) (send : Bool) (s : State) : Host.Outcome State Fault Refusal :=
  .next (s.onDev (s.dev.live (fun d => d.write32 p Reg.loupeCmd (word [(2, 1), (3, b2n send), (16, id % 65536)]))))

/-- Meaning of LOUPE_ARM. -/
def execLoupeArm (p : MPort) (s : State) : Host.Outcome State Fault Refusal :=
  .next (s.onDev (s.dev.live (fun d => d.write32 p Reg.loupeCmd 2)))

end Sys2Proof.Machine
end

