-- ==== Sys2Proof/Machine/Bar2.lean ====
section
/-! DEFINITION. Host accesses through BAR2 (R126). -/

namespace Sys2Proof.Machine

/-- The device address of a BAR2 offset. -/
def Blocks.bar2Addr (b : Blocks) (off : Nat) : Nat := b.fld Reg.glbBar2Base 47 36 * 2 ^ 36 + off

/-- BAR2_RANGE for an access of n bytes at a; a code that an engine would fault with for want of the tile, of its port or of the stack is
logged as well, with its own address x. -/
def Dev.bar2Fail (d : Dev) (code x a n : Nat) : Dev :=
  let s := d.errStack x
  let d := if code = 0x45 then (d.countUncorr code x).log { code := code, domain := 47 + s, unit := s, addr := x, kind := 1 }
           else if code = 0x43 ∨ code = 0x44 then d.log { code := code, domain := 35, addr := x, kind := 1 }
           else d
  d.errResp .host 5 a n true

/-- What keeps a BAR2 access from being served: the remote part, and what an engine's access would fault with. -/
def Blocks.bar2Check (b : Blocks) (a n : Nat) : Option (Nat × Nat) := if partOf a = .remote then some (0x41, a) else b.engineCheck a n

/-- BAR2_ACCESS. During MOUNT_LOAD and MOUNT_CLEAR a write is refused (R284). -/
def Dev.bar2 (d : Dev) (write : Bool) (off len : Nat) (data : List Byte) : Dev :=
  let n := if write then data.length else len
  if !d.glb.hostLink || n = 0 || decide (2 ^ 36 < off + n) then d else
  let a := d.bar2Addr off
  if write && d.mgmt.run.any (fun r => r.op = 1 || r.op = 2) then d.errResp .host 4 a n true
  else match d.bar2Check a n with
    | some (code, x) => d.bar2Fail code x a n
    | none =>
      if write then (d.engineWrite (some bar2Who) a data).answer .host .done
      else
        let (bs, d) := d.engineRead (some bar2Who) a n
        d.answer .host (.block bs)

/-- Meaning of BAR2_ACCESS: nothing is answered while a tile is awaited. -/
def execBar2Access (write : Bool) (off len : Nat) (data : List Byte) (ecc : Ecc) (s : State) : Host.Outcome State Fault Refusal :=
  .next (s.onDev (s.dev.live (fun d =>
    (d.answer .host .silent).act (.bar2Access write off len data ecc) ecc (fun d => d.bar2 write off len data))))

end Sys2Proof.Machine
end

