-- ==== Sys2Proof/Machine/I3cTarget.lean ====
section
/-! DEFINITION. The I3C target (R283, R361): private transfers and CCCs. -/

namespace Sys2Proof.Machine

/-- Change the target's state. -/
def Dev.modI3c (d : Dev) (f : I3c → I3c) : Dev := { d with i3c := f d.i3c }

/-- A private transfer is acknowledged: the target has a dynamic address and no command runs. -/
def Blocks.i3cAcks (b : Blocks) : Bool := b.i3c.dyn.isSome && b.mgmt.run.isNone

/-- A private write: a 4-byte offset, which becomes the read pointer, and data for the register there. Data of a length that no register
has is an access that does not fit the map (R16); a transfer without a whole offset does nothing. -/
def Dev.i3cWrite (d : Dev) (data : List Byte) : Dev :=
  if !d.i3cAcks then d.answer .i3c .nack
  else if data.length < 4 then d
  else
    let off := leNat (data.take 4)
    let rest := data.drop 4
    let d := d.modI3c (fun x => { x with readPtr := off })
    if rest.isEmpty then d.answer .i3c .done else d.busWrite .i3c off rest.length (leNat rest)

/-- The bytes that a private read at an offset returns: 8 where a 64-bit register begins, else 4. -/
def i3cWidth (off : Nat) : Nat := if (busTarget off 8).isSome then 8 else 4

/-- A private read of the register at the read pointer. -/
def Dev.i3cRead (d : Dev) : Dev :=
  if !d.i3cAcks then d.answer .i3c .nack else d.busRead .i3c d.i3c.readPtr (i3cWidth d.i3c.readPtr)

/-- The provisional ID (R361). -/
def Blocks.pid (b : Blocks) : Nat := word [(33, 0x02F5), (16, bitsOf b.identView 15 0), (12, b.glb.straps)]

/-- The static address (R361). -/
def Blocks.staticAddr (b : Blocks) : Nat := 0x58 + b.glb.straps

/-- The GETSTATUS word: BUSY in bit 8 (R283), protocol error in bit 5 (the place that the I3C standard gives it, log entry 5). -/
def Blocks.i3cStatus (b : Blocks) : Nat := word [(8, b2n b.mgmt.run.isSome), (5, b2n b.i3c.protErr)]

/-- The answer to a CCC that reads. -/
def Dev.cccAnswer (d : Dev) (bytes v : Nat) : Dev := d.answer .i3c (.data bytes (BitVec.ofNat 64 v))

/-- ENTDAA or SETDASA gives a target that has no dynamic address one. -/
def Dev.takeAddr (d : Dev) (addr : Nat) : Dev := if d.i3c.dyn.isNone then d.modI3c (fun x => { x with dyn := some (addr % 128) }) else d

/-- Meaning of I3C_PRIVATE_WRITE. -/
def execI3cPrivateWrite (data : List Byte) (s : State) : Host.Outcome State Fault Refusal :=
  .next (s.onDev (s.dev.live (fun d => d.i3cWrite data)))

/-- Meaning of I3C_PRIVATE_READ. -/
def execI3cPrivateRead (s : State) : Host.Outcome State Fault Refusal := .next (s.onDev (s.dev.live Dev.i3cRead))

/-- Meaning of ENEC. -/
def execEnec (events : Byte) (s : State) : Host.Outcome State Fault Refusal :=
  .next (s.onDev (s.dev.live (fun d => d.modI3c (fun x => { x with events := x.events ||| events }))))

/-- Meaning of DISEC. -/
def execDisec (events : Byte) (s : State) : Host.Outcome State Fault Refusal :=
  .next (s.onDev (s.dev.live (fun d => d.modI3c (fun x => { x with events := x.events &&& ~~~events }))))

/-- Meaning of RSTDAA. -/
def execRstdaa (s : State) : Host.Outcome State Fault Refusal :=
  .next (s.onDev (s.dev.live (fun d => d.modI3c (fun x => { x with dyn := none }))))

/-- Meaning of ENTDAA. -/
def execEntdaa (addr : Nat) (s : State) : Host.Outcome State Fault Refusal := .next (s.onDev (s.dev.live (fun d => d.takeAddr addr)))

/-- Meaning of SETDASA: the controller addresses the target by its static address. -/
def execSetdasa (addr : Nat) (s : State) : Host.Outcome State Fault Refusal := .next (s.onDev (s.dev.live (fun d => d.takeAddr addr)))

/-- Meaning of GETPID. -/
def execGetpid (s : State) : Host.Outcome State Fault Refusal := .next (s.onDev (s.dev.live (fun d => d.cccAnswer 6 d.pid)))

/-- Meaning of GETBCR. -/
def execGetbcr (s : State) : Host.Outcome State Fault Refusal := .next (s.onDev (s.dev.live (fun d => d.cccAnswer 1 0x06)))

/-- Meaning of GETDCR. -/
def execGetdcr (s : State) : Host.Outcome State Fault Refusal := .next (s.onDev (s.dev.live (fun d => d.cccAnswer 1 0x00)))

/-- Meaning of GETSTATUS; the protocol-error bit is spent when it has been read (log entry 5). -/
def execGetstatus (s : State) : Host.Outcome State Fault Refusal :=
  .next (s.onDev (s.dev.live (fun d => (d.cccAnswer 2 d.i3cStatus).modI3c (fun x => { x with protErr := false }))))

end Sys2Proof.Machine
end

