-- ==== Sys2Proof/Machine/Waits.lean ====
section
/-! DEFINITION. Commands of engines that wait for a tile or for the sharers of a line (R127, R129, R233; log entry 21): what each does when
it acts again, and the events that let them. -/

namespace Sys2Proof.Machine

/-- What the engine of a command does, with the words that it meets; none for a command that never waits. -/
def engineOf : Instr → Option (Ecc × (Dev → Dev))
  | .program ring seq ecc => some (ecc, fun d => d.programCmd ring seq ecc.corrHbm)
  | .step ring seq ecc => some (ecc, fun d => d.stepCmd ring seq)
  | .copy ring seq _ ecc => some (ecc, fun d => d.copyCmd ring seq ecc.corrHbm)
  | .commandFetch ring _ ecc => some (ecc, fun d => d.commandFetch ring)
  | .completionRecordWrite ring => some ({}, fun d => d.recordWrite ring)
  | .hallmarkEntryWrite => some ({}, Dev.hallmarkWrite)
  | .rePlanReady re ecc => some (ecc, fun d => d.planReady re)
  | .countMessageReceive => some ({}, Dev.countReceive)
  | .keothRecordPost re => some ({}, fun d => if re < 4 then d.keothPost re else d)
  | .keothResume _ re _ ecc => some (ecc, fun d => d.keothPlan re)
  | .orderedCombine half ecc => some (ecc, fun d => d.orderedCombine half)
  | .collective ring seq ecc => some (ecc, fun d => d.collective ring seq)
  | .collectiveOpen ecc => some (ecc, Dev.collectiveOpen)
  | .dispatchOpen half ecc => some (ecc, fun d => d.dispatchOpen half)
  | .returnOpen half => some ({}, fun d => d.returnOpen half)
  | .collectiveCellReceive ecc => some (ecc, Dev.collReceive)
  | .barrierMessage ecc => some (ecc, Dev.barrierMessage)
  | .smallCollectiveMessage ecc => some (ecc, Dev.smallMessage)
  | .memRequest ecc => some (ecc, Dev.memRequest)
  | .flaggedStoreApply src ecc => some (ecc, fun d => d.flaggedApply src)
  | .memResponse ecc => some (ecc, Dev.memResponse)
  | .invalidateTimeout line => some ({}, fun d => (d.invalidateTimeout line).progress)
  | .mirrorCapture => some ({}, Dev.mirrorCapture)
  | .bar2Access write off len data ecc => some (ecc, fun d => d.bar2 write off len data)
  | _ => none

/-- A command that has waited acts again, with the parts that were served for it. -/
def Dev.redo (d : Dev) (c : Instr) (parts : List WaitPart) : Dev :=
  match engineOf c with
  | some (ecc, f) => d.actWith c parts ecc f
  | none => d

/-- The command that waits at place k of `Mig.stalls` may act: none of its parts waits, and no command like it waits before it. -/
def Blocks.isDue (b : Blocks) (k : Nat) (s : Stall) : Bool :=
  s.cmd.isSome && s.parts.all (fun p => p.st ≠ .waiting) && !(b.mig.stalls.take k).any (fun x => x.cmd = s.cmd)

/-- The first command that may act: its place and what waits there. -/
def Blocks.nextDue (b : Blocks) : Option (Nat × Stall) :=
  (b.mig.stalls.zipIdx.find? (fun e => b.isDue e.2 e.1)).map (fun e => (e.2, e.1))

/-- Commands whose parts have all been served act, oldest first, each at most once. -/
def Dev.wakeUp (d : Dev) : Nat → Dev
  | 0 => d
  | fuel + 1 =>
    match d.nextDue with
    | none => d
    | some (k, s) =>
      let d : Dev := { d with mig := { d.mig with stalls := d.mig.stalls.eraseIdx k } }
      match s.cmd with
      | some c => (d.redo c s.parts).wakeUp fuel
      | none => d.wakeUp fuel

/-- Every command that can go on does. -/
def Dev.wake (d : Dev) : Dev := d.wakeUp d.mig.stalls.length

/-- Meaning of VAULT_FETCH_COMPLETE. -/
def execVaultFetchComplete (port : Nat) (poison : Bool) (ecc : Ecc) (s : State) : Host.Outcome State Fault Refusal :=
  .next (s.onDev (s.dev.live (fun d => (d.vaultFetchComplete port poison ecc).wake)))

/-- Meaning of VAULT_LINK_DOWN. -/
def execVaultLinkDown (port : Nat) (s : State) : Host.Outcome State Fault Refusal :=
  .next (s.onDev (s.dev.live (fun d => (d.vaultLinkDown port).wake)))

/-- Meaning of VAULT_LINK_UP. -/
def execVaultLinkUp (port : Nat) (link : VaultLink) (wasReset : Bool) (s : State) : Host.Outcome State Fault Refusal :=
  .next (s.onDev (s.dev.live (fun d => (d.vaultLinkUp port link wasReset).wake)))

/-- Meaning of MEM_RESPONSE. -/
def execMemResponse (ecc : Ecc) (s : State) : Host.Outcome State Fault Refusal :=
  .next (s.onDev (s.dev.live (fun d => (d.act (.memResponse ecc) ecc Dev.memResponse).wake)))

/-- Meaning of INVALIDATE_TIMEOUT. -/
def execInvalidateTimeout (line : Nat) (s : State) : Host.Outcome State Fault Refusal :=
  .next (s.onDev (s.dev.live (fun d => (d.act (.invalidateTimeout line) {} (fun d => (d.invalidateTimeout line).progress)).wake)))

end Sys2Proof.Machine
end

