-- ==== Sys2Proof/Machine/Dispatch.lean ====
section
/-! DEFINITION. The effect of each command: one arm per constructor of Instr. -/

namespace Sys2Proof.Machine

def exec (i : Instr) (s : State) : Host.Outcome State Fault Refusal :=
  match i with
  | .registerWrite p off bytes val => Sys2Proof.Machine.execRegisterWrite p off bytes val s
  | .bar2Access write off len data ecc => Sys2Proof.Machine.execBar2Access write off len data ecc s
  | .deviceReset => Sys2Proof.Machine.execDeviceReset s
  | .resetCmd p key => Sys2Proof.Machine.execResetCmd p key s
  | .resetRelease addr0 addr1 bist => Sys2Proof.Machine.execResetRelease addr0 addr1 bist s
  | .ready vault0 vault1 => Sys2Proof.Machine.execReady vault0 vault1 s
  | .pllLockLoss domain => Sys2Proof.Machine.execPllLockLoss domain s
  | .thermHot t => Sys2Proof.Machine.execThermHot t s
  | .thermHotClear t => Sys2Proof.Machine.execThermHotClear t s
  | .thermtrip t => Sys2Proof.Machine.execThermtrip t s
  | .hostPortReset kind => Sys2Proof.Machine.execHostPortReset kind s
  | .nop ring seq => Sys2Proof.Machine.execNop ring seq s
  | .program ring seq ecc => Sys2Proof.Machine.execProgram ring seq ecc s
  | .step ring seq ecc => Sys2Proof.Machine.execStep ring seq ecc s
  | .collective ring seq ecc => Sys2Proof.Machine.execCollective ring seq ecc s
  | .clasp ring seq => Sys2Proof.Machine.execClasp ring seq s
  | .poolAlloc ring seq => Sys2Proof.Machine.execPoolAlloc ring seq s
  | .poolFree ring seq => Sys2Proof.Machine.execPoolFree ring seq s
  | .hallmarkFlush ring seq => Sys2Proof.Machine.execHallmarkFlush ring seq s
  | .copy ring seq host ecc => Sys2Proof.Machine.execCopy ring seq host ecc s
  | .doorbell p ring tail => Sys2Proof.Machine.execDoorbell p ring tail s
  | .commandFetch ring host ecc => Sys2Proof.Machine.execCommandFetch ring host ecc s
  | .ringEnable p ring ctrl => Sys2Proof.Machine.execRingEnable p ring ctrl s
  | .ringDisable p ring => Sys2Proof.Machine.execRingDisable p ring s
  | .ringCancel p ring val => Sys2Proof.Machine.execRingCancel p ring val s
  | .ringPrioWrite p ring prio => Sys2Proof.Machine.execRingPrioWrite p ring prio s
  | .commandGrant => Sys2Proof.Machine.execCommandGrant s
  | .promotion ring => Sys2Proof.Machine.execPromotion ring s
  | .completionRecordWrite ring => Sys2Proof.Machine.execCompletionRecordWrite ring s
  | .denseInstruction core ecc => Sys2Proof.Machine.execDenseInstruction core ecc s
  | .sparseArrayInstruction core ecc => Sys2Proof.Machine.execSparseArrayInstruction core ecc s
  | .arrayDrain core residue ecc => Sys2Proof.Machine.execArrayDrain core residue ecc s
  | .end_ core ecc => Sys2Proof.Machine.execEnd core ecc s
  | .clwait core ecc => Sys2Proof.Machine.execClwait core ecc s
  | .clwaitTimeout core => Sys2Proof.Machine.execClwaitTimeout core s
  | .vcopy core ecc => Sys2Proof.Machine.execVcopy core ecc s
  | .vadd core ecc => Sys2Proof.Machine.execVadd core ecc s
  | .vmul core ecc => Sys2Proof.Machine.execVmul core ecc s
  | .vfma core ecc => Sys2Proof.Machine.execVfma core ecc s
  | .vaxpy core ecc => Sys2Proof.Machine.execVaxpy core ecc s
  | .vmax core ecc => Sys2Proof.Machine.execVmax core ecc s
  | .vmin core ecc => Sys2Proof.Machine.execVmin core ecc s
  | .vscale core ecc => Sys2Proof.Machine.execVscale core ecc s
  | .vexp core ecc => Sys2Proof.Machine.execVexp core ecc s
  | .vrcp core ecc => Sys2Proof.Machine.execVrcp core ecc s
  | .vrsqrt core ecc => Sys2Proof.Machine.execVrsqrt core ecc s
  | .vsilu core ecc => Sys2Proof.Machine.execVsilu core ecc s
  | .vgelu core ecc => Sys2Proof.Machine.execVgelu core ecc s
  | .vrsum core ecc => Sys2Proof.Machine.execVrsum core ecc s
  | .vrmax core ecc => Sys2Proof.Machine.execVrmax core ecc s
  | .vdot core ecc => Sys2Proof.Machine.execVdot core ecc s
  | .vcvt core ecc => Sys2Proof.Machine.execVcvt core ecc s
  | .vload core ecc => Sys2Proof.Machine.execVload core ecc s
  | .vstore core ecc => Sys2Proof.Machine.execVstore core ecc s
  | .vsel core ecc => Sys2Proof.Machine.execVsel core ecc s
  | .vkeep core ecc => Sys2Proof.Machine.execVkeep core ecc s
  | .vhint core ecc => Sys2Proof.Machine.execVhint core ecc s
  | .valloc core ecc => Sys2Proof.Machine.execValloc core ecc s
  | .vfree core ecc => Sys2Proof.Machine.execVfree core ecc s
  | .vatom core ecc => Sys2Proof.Machine.execVatom core ecc s
  | .vstoref core ecc => Sys2Proof.Machine.execVstoref core ecc s
  | .vcount core ecc => Sys2Proof.Machine.execVcount core ecc s
  | .rePlanReady re ecc => Sys2Proof.Machine.execRePlanReady re ecc s
  | .countMessageReceive => Sys2Proof.Machine.execCountMessageReceive s
  | .countTimeout re => Sys2Proof.Machine.execCountTimeout re s
  | .reHalt p re on => Sys2Proof.Machine.execReHalt p re on s
  | .keothRecordPost re => Sys2Proof.Machine.execKeothRecordPost re s
  | .keothResume p re val ecc => Sys2Proof.Machine.execKeothResume p re val ecc s
  | .keothTimeout re => Sys2Proof.Machine.execKeothTimeout re s
  | .dispatchOpen half ecc => Sys2Proof.Machine.execDispatchOpen half ecc s
  | .returnOpen half => Sys2Proof.Machine.execReturnOpen half s
  | .orderedCombine half ecc => Sys2Proof.Machine.execOrderedCombine half ecc s
  | .stageAdmission => Sys2Proof.Machine.execStageAdmission s
  | .vaultTransfer port ecc => Sys2Proof.Machine.execVaultTransfer port ecc s
  | .vaultFetchComplete port poison ecc => Sys2Proof.Machine.execVaultFetchComplete port poison ecc s
  | .vaultWritebackComplete port => Sys2Proof.Machine.execVaultWritebackComplete port s
  | .vaultLinkDown port => Sys2Proof.Machine.execVaultLinkDown port s
  | .hintQueueTake => Sys2Proof.Machine.execHintQueueTake s
  | .hintMessage => Sys2Proof.Machine.execHintMessage s
  | .poolAllocation who size ctx sub => Sys2Proof.Machine.execPoolAllocation who size ctx sub s
  | .hardwareFree who ptr => Sys2Proof.Machine.execHardwareFree who ptr s
  | .tagReclaim pat => Sys2Proof.Machine.execTagReclaim pat s
  | .auditPass => Sys2Proof.Machine.execAuditPass s
  | .bitmapRebuild cls word correctable => Sys2Proof.Machine.execBitmapRebuild cls word correctable s
  | .linkCellSend port => Sys2Proof.Machine.execLinkCellSend port s
  | .linkCellReceive port cell q => Sys2Proof.Machine.execLinkCellReceive port cell q s
  | .replayTimeout port => Sys2Proof.Machine.execReplayTimeout port s
  | .retrainRequest port block => Sys2Proof.Machine.execRetrainRequest port block s
  | .lightDetected port lanes => Sys2Proof.Machine.execLightDetected port lanes s
  | .lockAchieved port lanes => Sys2Proof.Machine.execLockAchieved port lanes s
  | .trainingBlock port block hubNow => Sys2Proof.Machine.execTrainingBlock port block hubNow s
  | .trainTimeout port => Sys2Proof.Machine.execTrainTimeout port s
  | .lightLost port => Sys2Proof.Machine.execLightLost port s
  | .fecLockLost port => Sys2Proof.Machine.execFecLockLost port s
  | .clockLost port => Sys2Proof.Machine.execClockLost port s
  | .laneRetired port dir lane => Sys2Proof.Machine.execLaneRetired port dir lane s
  | .retrainInterval port => Sys2Proof.Machine.execRetrainInterval port s
  | .portEnable p port => Sys2Proof.Machine.execPortEnable p port s
  | .portDisable p port => Sys2Proof.Machine.execPortDisable p port s
  | .sweepWrite p val => Sys2Proof.Machine.execSweepWrite p val s
  | .routerCellArrive port slot => Sys2Proof.Machine.execRouterCellArrive port slot s
  | .cellInject port slot => Sys2Proof.Machine.execCellInject port slot s
  | .transitReserveDepart bank slot corrected => Sys2Proof.Machine.execTransitReserveDepart bank slot corrected s
  | .stage2FifoFill bank slot corrected => Sys2Proof.Machine.execStage2FifoFill bank slot corrected s
  | .bankUncorr bank at_ => Sys2Proof.Machine.execBankUncorr bank at_ s
  | .mirrorCapture => Sys2Proof.Machine.execMirrorCapture s
  | .collectiveOpen ecc => Sys2Proof.Machine.execCollectiveOpen ecc s
  | .collectiveCellReceive ecc => Sys2Proof.Machine.execCollectiveCellReceive ecc s
  | .barrierMessage ecc => Sys2Proof.Machine.execBarrierMessage ecc s
  | .smallCollectiveMessage ecc => Sys2Proof.Machine.execSmallCollectiveMessage ecc s
  | .collectiveDeadline id => Sys2Proof.Machine.execCollectiveDeadline id s
  | .heldMessageExpire => Sys2Proof.Machine.execHeldMessageExpire s
  | .filterIdentityExpire => Sys2Proof.Machine.execFilterIdentityExpire s
  | .replicaInvalidate => Sys2Proof.Machine.execReplicaInvalidate s
  | .memRequest ecc => Sys2Proof.Machine.execMemRequest ecc s
  | .flaggedStoreApply src ecc => Sys2Proof.Machine.execFlaggedStoreApply src ecc s
  | .memResponse ecc => Sys2Proof.Machine.execMemResponse ecc s
  | .memInvalidate => Sys2Proof.Machine.execMemInvalidate s
  | .memTimeout core slot => Sys2Proof.Machine.execMemTimeout core slot s
  | .invalidateTimeout line => Sys2Proof.Machine.execInvalidateTimeout line s
  | .replicaFetchComplete home page => Sys2Proof.Machine.execReplicaFetchComplete home page s
  | .replicaTtlExpire home page => Sys2Proof.Machine.execReplicaTtlExpire home page s
  | .timebaseEnable p => Sys2Proof.Machine.execTimebaseEnable p s
  | .beatInEdge good errPs => Sys2Proof.Machine.execBeatInEdge good errPs s
  | .beatInLost => Sys2Proof.Machine.execBeatInLost s
  | .beatRecord port atPs => Sys2Proof.Machine.execBeatRecord port atPs s
  | .parentLost => Sys2Proof.Machine.execParentLost s
  | .strokeBoundary => Sys2Proof.Machine.execStrokeBoundary s
  | .bezelSwitch p => Sys2Proof.Machine.execBezelSwitch p s
  | .claspMessage => Sys2Proof.Machine.execClaspMessage s
  | .claspTimeout n => Sys2Proof.Machine.execClaspTimeout n s
  | .timeWrite p val => Sys2Proof.Machine.execTimeWrite p val s
  | .timeAdj p val => Sys2Proof.Machine.execTimeAdj p val s
  | .hallmarkEntryWrite => Sys2Proof.Machine.execHallmarkEntryWrite s
  | .hmDisable p => Sys2Proof.Machine.execHmDisable p s
  | .managementNop => Sys2Proof.Machine.execManagementNop s
  | .mountLoad vault0 vault1 applyFail => Sys2Proof.Machine.execMountLoad vault0 vault1 applyFail s
  | .mountClear => Sys2Proof.Machine.execMountClear s
  | .spareSwap => Sys2Proof.Machine.execSpareSwap s
  | .slotMove cluster slot => Sys2Proof.Machine.execSlotMove cluster slot s
  | .swapWaitExpire cluster slot => Sys2Proof.Machine.execSwapWaitExpire cluster slot s
  | .linkRetrain => Sys2Proof.Machine.execLinkRetrain s
  | .noLight => Sys2Proof.Machine.execNoLight s
  | .i3cPrivateWrite data => Sys2Proof.Machine.execI3cPrivateWrite data s
  | .i3cPrivateRead => Sys2Proof.Machine.execI3cPrivateRead s
  | .enec events => Sys2Proof.Machine.execEnec events s
  | .disec events => Sys2Proof.Machine.execDisec events s
  | .rstdaa => Sys2Proof.Machine.execRstdaa s
  | .entdaa addr => Sys2Proof.Machine.execEntdaa addr s
  | .setdasa addr => Sys2Proof.Machine.execSetdasa addr s
  | .getpid => Sys2Proof.Machine.execGetpid s
  | .getbcr => Sys2Proof.Machine.execGetbcr s
  | .getdcr => Sys2Proof.Machine.execGetdcr s
  | .getstatus => Sys2Proof.Machine.execGetstatus s
  | .contextCreate p ctx role rt saveBase => Sys2Proof.Machine.execContextCreate p ctx role rt saveBase s
  | .contextDestroy p ctx => Sys2Proof.Machine.execContextDestroy p ctx s
  | .teardownComplete ctx => Sys2Proof.Machine.execTeardownComplete ctx s
  | .contextSwitch core ctx => Sys2Proof.Machine.execContextSwitch core ctx s
  | .suspendedResume core => Sys2Proof.Machine.execSuspendedResume core s
  | .permitGrant => Sys2Proof.Machine.execPermitGrant s
  | .permitReturn req => Sys2Proof.Machine.execPermitReturn req s
  | .rampWindow => Sys2Proof.Machine.execRampWindow s
  | .loupeTrigger p id => Sys2Proof.Machine.execLoupeTrigger p id s
  | .loupeSchedule p id send => Sys2Proof.Machine.execLoupeSchedule p id send s
  | .loupeArm p => Sys2Proof.Machine.execLoupeArm p s
  | .loupeMessage => Sys2Proof.Machine.execLoupeMessage s
  | .errorLogWrite => Sys2Proof.Machine.execErrorLogWrite s
  | .registerRead p off bytes => Sys2Proof.Machine.execRegisterRead p off bytes s
  | .hostPortLinkUp => Sys2Proof.Machine.execHostPortLinkUp s
  | .vaultLinkUp port link wasReset => Sys2Proof.Machine.execVaultLinkUp port link wasReset s
  | .vaultRetrainTimeout port => Sys2Proof.Machine.execVaultRetrainTimeout port s
  | .trainingPatternSeen port => Sys2Proof.Machine.execTrainingPatternSeen port s
  | .tapInstruction opcode => Sys2Proof.Machine.execTapInstruction opcode s

end Sys2Proof.Machine
end

