-- ==== Sys2Proof/Machine/Tick.lean ====
section
/-! DEFINITION. What a cycle of the hub clock does when nothing is commanded (log entry 7): the wall clock, starvation counts, shaping
buckets, and the counters of waiting and of issue slots. -/

namespace Sys2Proof.Machine

/-- TB_TIME advances by 5/6 ns a cycle; a slew moves it by 1 ns every 2,400 cycles, 500 ns per millisecond (R259). -/
def Dev.tickTime (d : Dev) : Dev :=
  let sixths := d.glb.timeSixths + 5
  let clock := d.tb.slewClock + 1
  let due : Bool := d.tb.slew ≠ 0 && decide (2400 ≤ clock)
  let step : Int := if due then (if 0 < d.tb.slew then 1 else -1) else 0
  let now : Int := (d.rd Reg.tbTime : Int) + (sixths / 6 : Nat) + step
  let d : Dev := { d with glb := { d.glb with timeSixths := sixths % 6 },
                          tb := { d.tb with slew := d.tb.slew - step, slewClock := if d.tb.slew = 0 ∨ due = true then 0 else clock } }
  d.wr Reg.tbTime (ofInt 64 now)

/-- Ready heads that hold no grant starve (R305). -/
def Dev.tickStarve (d : Dev) : Dev :=
  (d.enabledRings.filter (fun r => d.granted ≠ some r && d.headState r = .ready)).foldl (fun d r =>
    d.modRing r (fun x => { x with starve := x.starve + 1 })) d

/-- The rings whose traffic is shaped. -/
def Blocks.shapedRings (b : Blocks) : List Nat :=
  (b.regs.filter (fun e => 0x01000000 ≤ e.1 && e.1 < 0x02000000 && e.1 % 4096 = 0 && bitOf e.2.toNat 28)).map
    (fun e => (e.1 - 0x01000000) / 4096)

/-- The buckets gain CIR ÷ 75 and PIR ÷ 75 bytes up to their bursts (R315). -/
def Dev.tickShape (d : Dev) : Dev :=
  d.shapedRings.foldl (fun d r =>
    let cap (hi lo : Nat) : Nat := d.fld (Reg.ringShapeBurst r) hi lo * cellUnits
    d.modRing r (fun x => { x with committed := min (cap 15 0) (x.committed + d.fld (Reg.ringShapeRate r) 15 0),
                                   peak := min (cap 31 16) (x.peak + d.fld (Reg.ringShapeRate r) 31 16) })) d

/-- The core awaits a carat grant. -/
def Blocks.awaitsCarats (b : Blocks) (p : Nat) : Bool := b.pwr.waiting.any (fun r => r.req = p)

/-- The program whose stream runs on a core: the core that issues it, and the program. -/
def Blocks.streamOn (b : Blocks) (p : Nat) : Option (Nat × Prog) :=
  b.busyCores.findSome? (fun q => ((b.prog? q).filter (fun g => g.gang.contains p)).map (fun g => (q, g)))

/-- Issue slots of n new core cycles that no issue has used ahead of them (log entry 7). -/
def Dev.payOwed (d : Dev) (n p : Nat) : Nat × Dev :=
  let k := min (d.core p).owed (2 * n)
  (2 * n - k, if k = 0 then d else d.modCore p (fun c => { c with owed := c.owed - k }))

/-- The counters of a core over n of its cycles: the slots that held an instruction which could not issue (R337), and the events of Table
14.4 that count cycles. Slot M's instructions are those of the core that issues them. -/
def Dev.tickCore (d : Dev) (n p : Nat) : Dev :=
  let (free, d) := d.payOwed n p
  match d.streamOn p with
  | none => d
  | some (q, g) =>
    let full : Bool := decide (16 ≤ g.score.length)
    let carats := g.gang.any d.awaitsCarats
    let back := min free (n * (b2n (d.slotBlocked q g .v) + b2n (p = q && d.slotBlocked q g .m)))
    let count (d : Dev) (on : Bool) (event : Nat) : Dev := if on then d.countEvent p event g.ctx n else d
    let d := if back = 0 then d else d.bump (Reg.coreCntTdBack p) back
    count (count (count (count d true 0x01) full 0x0A) carats 0x0B) (g.score.any Issued.isClwait) 0x10

/-- The counters of every core whose clock runs and that has a program or used slots ahead; `before` gives the core cycles counted so
far. -/
def Dev.tickCores (d : Dev) (before : Nat → Nat) : Dev :=
  (d.cores.map (fun e => e.1)).foldl (fun d p =>
    let n := d.coreCycles p - before p
    if n = 0 then d else d.tickCore n p) d

/-- One cycle of the hub clock. -/
def Dev.tick (d : Dev) : Dev :=
  let cycles := d.coreCycles
  let d : Dev := { d.logIntake.tickStarve with granted := none }
  let d := d.tickShape
  let d := if d.pwr.waiting.isEmpty then d else d.bump Reg.pwrCntWaitCycles 1
  let d : Dev := { d with glb := { d.glb with hubNow := d.glb.hubNow + 1 } }
  (d.tickTime.tickCores cycles).wake

/-- What an idle step does. -/
def idle (s : State) : State := s.onDev (s.dev.live Dev.tick)

end Sys2Proof.Machine
end

