-- ==== Sys2Proof/Machine/Step.lean ====
section
/-! DEFINITION. One step: the command at the front of the queue, or a tick of the hub clock when the queue is empty. -/

namespace Sys2Proof.Machine

/-- One step. With a command in front: its effect on the machine whose queue is the rest. With an empty queue nothing is commanded, and a
cycle of the hub clock passes (log entry 7). -/
def step (s : State) : Host.Outcome State Fault Refusal :=
  match s.pending with
  | [] => .next (idle s)
  | c :: rest => exec c { s with pending := rest }

/-- The machine with the command that a word spells in front of its queue; no word spells a command (log entry 2). -/
def State.withFetchWord (s : State) (nbits w : Nat) : State :=
  match decodeTableWord nbits w with
  | some c => { s with pending := c :: s.pending }
  | none => s

end Sys2Proof.Machine
end

