-- ==== Sys2Proof/Safety.lean ====
section
/-! DEFINITION. What a safe run is, and the predicates in which claims about the device are written. -/

namespace Sys2Proof

open Sys2Proof.Machine

/-- A step that answers a next state. -/
def Safety.Runs (s : State) : Prop := ∃ t, step s = .next t

/-- The device is in operation: neither in reset, starting nor tripped. -/
abbrev Safety.Operating (s : State) : Prop := s.dev.glb.phase = .running

/-- The command completes, and its next state has a property. -/
def Safety.Gives (c : Instr) (s : State) (P : State → Prop) : Prop := ∃ t, exec c s = .next t ∧ P t

/-- The rows that act on a device that is not in operation: resets, their release, heat, the host link and the test port. -/
def Safety.actsOutsideOperation : Instr → Bool
  | .deviceReset | .resetRelease _ _ _ | .ready _ _ | .thermHot _ | .thermHotClear _ | .thermtrip _ | .hostPortReset _ | .hostPortLinkUp
  | .tapInstruction _ => true
  | _ => false

/-- Every byte of every memory stands as before: HBM, Vault, the cores' local memories, host memory. -/
def Safety.SameMemory (s t : State) : Prop :=
  ∀ a, memByte t.dev.hbm a = memByte s.dev.hbm a ∧ memByte t.dev.vault a = memByte s.dev.vault a ∧
    memByte t.dev.loc a = memByte s.dev.loc a ∧ memByte t.dev.hostMem a = memByte s.dev.hostMem a

/-- Every register but those at some offsets reads as before. -/
def Safety.SameRegsBut (offs : List Nat) (s t : State) : Prop := ∀ off, off ∉ offs → t.dev.rd off = s.dev.rd off

/-- The blocks that an access to a register of another block does not reach: contexts, cores, engines, ports, router and queues. -/
def Safety.SameEngines (s t : State) : Prop :=
  t.dev.ctxs = s.dev.ctxs ∧ t.dev.cores = s.dev.cores ∧ t.dev.jobs = s.dev.jobs ∧ t.dev.routing = s.dev.routing ∧
  t.dev.mig = s.dev.mig ∧ t.dev.pool = s.dev.pool ∧ t.dev.ports = s.dev.ports ∧ t.dev.router = s.dev.router ∧
  t.dev.colls = s.dev.colls ∧ t.dev.remote = s.dev.remote ∧ t.dev.tb = s.dev.tb ∧ t.dev.mgmt = s.dev.mgmt ∧
  t.dev.pwr = s.dev.pwr ∧ t.dev.rings = s.dev.rings

/-- The state of R357 and R359 in a reset with a cause: every register but GLB_RESET_STATUS at its reset value, CAUSE there, no context, no
core's program, no ring, ports disabled, no Mount, host link down, I3C address gone, Loupe and log empty, and MGMT_CAP and MGMT_CAP_CLUSTERg as
Table 11.9 gives them for the grade (R18, R292); the host's memory stands. -/
def Safety.ResetState (d : Dev) (s : State) (cause : Nat) (phase : Phase) : Prop :=
  d.glb.phase = phase ∧ (∀ off, off ≠ Reg.glbResetStatus → d.rd off = (regReset off).toNat) ∧
  d.rd Reg.glbResetStatus = cause * 2 ^ 16 ∧
  (∀ c, d.ctx c = {}) ∧ (∀ p, d.core p = {}) ∧ (∀ r, d.ring r = {}) ∧ (∀ n, (d.optPort n).st = .disabled) ∧ d.jobs = [] ∧
  d.mgmt.mount = none ∧ d.mgmt.run = none ∧ d.routing = {} ∧ d.colls = [] ∧ d.i3c = {} ∧ d.obs = {} ∧ d.snap = none ∧
  d.capView = (match s.dev.grade with | .t512 => 0x240100200 | .t448 => 0x4400E01C0) ∧ (∀ g, g < 32 → d.capCluster g = 0x00400252) ∧
  d.glb.hostLink = false ∧ d.glb.stopped = false ∧ d.readyPin = false ∧ d.beatOutRuns = false ∧ d.vltPerstPin = false ∧
  d.hostMem = s.dev.hostMem ∧ d.grade = s.dev.grade

/-- Registers with an effect of their own beside taking a value: a write of one is not a plain write. -/
def Safety.ownEffect : List Nat :=
  [Reg.ringCtrl 0, Reg.ringSqTail 0, Reg.ringCqTail 0, Reg.ringShapeRate 0, Reg.ringShapeBurst 0, Reg.ringCancel 0, Reg.reKeothResume 0,
   Reg.tbCtrl, Reg.tbTime, Reg.tbTimeAdj, Reg.glbCtxCmd, Reg.glbResetCmd, Reg.mgmtCmd, Reg.mgmtArg 0, Reg.loupeSel, Reg.loupeCmd,
   Reg.fabPortCtrl 0, Reg.fabSweep, Reg.fabRtSelf, Reg.fabRtTorus, Reg.msixCtrl 0]

/-- A management port serves writes: the device operates, the port reaches it and no management command runs. -/
abbrev Safety.Writable (s : State) (p : MPort) : Prop := Safety.Operating s ∧ s.dev.reaches p = true ∧ s.dev.mgmt.run = none

/-- The value sets no reserved bit of the register that begins at an offset. -/
abbrev Safety.Fits (off v : Nat) : Prop := (regAt off).all (fun x => !x.1.setsReserved v) = true

/-- The port has answered its write, and the rest of the device is d. -/
def Safety.Done (d : Dev) (p : MPort) : Dev := d.modBus p (fun x => { x with answer := .done })

/-- Every ring's head waits for nothing that happens without a grant: no failed prerequisite, no stage to ask for, no shape word to fetch. -/
abbrev Safety.HeadsAtRest (d : Dev) : Prop :=
  ∀ r ∈ d.enabledRings, d.headState r ≠ .failed ∧ d.headState r ≠ .waits 5 ∧
    (d.headState r = .waits 3 → ∀ e ∈ (d.ring r).fetched.head?, d.allResident (cmdShape e.2) 8 = true)

/-! Links. -/

/-- A link has failed with an event (R180 to R182, Table 7.12): its port is in FAILED, dark, its retry buffer handed to the router. No other
port and no memory has changed. -/
def Safety.LinkFailed (s t : State) (n code : Nat) : Prop :=
  (t.dev.optPort n).st = .failed ∧ (t.dev.optPort n).lastEvent = code ∧ (t.dev.optPort n).retry = [] ∧ (t.dev.optPort n).light = false ∧
  (∀ m, m ≠ n → t.dev.optPort m = s.dev.optPort m) ∧ Safety.SameMemory s t

/-- A block reaches a port in EXCHANGE that has not taken the leader's decision yet; the block answers a STAMP of this end (log entry 27). -/
abbrev Safety.InExchange (s : State) (n : Nat) (blk : List Byte) : Prop :=
  Safety.Operating s ∧ s.dev.mgmt.run = none ∧ n < 6 ∧ (s.dev.optPort n).st = .exchange ∧ (s.dev.optPort n).decided = none ∧
  fldOf blk 20 31 0 ≠ 0

/-- Both ends list link protocol version 1, the one there is (R175, R177). -/
def Safety.sameVersion (s : State) (blk : List Byte) : Bool := bitOf (s.dev.rd Reg.fabLinkVers) 0 && bitOf (fldOf blk 0 15 8) 0

/-- The block passes the first three decisions of R175: cabling, version and delay. -/
abbrev Safety.Linkable (s : State) (n : Nat) (blk : List Byte) (hub : Nat) : Prop :=
  fldOf blk 0 26 24 = n / 2 * 2 + (1 - n % 2) ∧ Safety.sameVersion s blk = true ∧ oneWayPs blk hub ≤ 720000

/-- The width of R176, 0 where fewer than 4 lanes are good. -/
def Safety.linkWidth (s : State) (n : Nat) (blk : List Byte) : Nat :=
  widthFor (min (min (bothLanes (s.dev.optPort n).txGood (fldOf blk 8 9 0)).length (bothLanes (s.dev.optPort n).rxGood (fldOf blk 8 19 10)).length)
    (min (s.dev.maxWidth n) (fldOf blk 8 23 20)))

/-- A port in EXCHANGE shows a decision in final blocks (REQ = 3) and FAB_PORT_DELAY shows the measured delay (R175). -/
def Safety.Deciding (s t : State) (n hub : Nat) (blk : List Byte) : Prop :=
  (t.dev.optPort n).st = .exchange ∧ (t.dev.optPort n).req = 3 ∧ t.dev.rd (Reg.fabPortDelay n) = oneWayPs blk hub ∧
  (∀ m, m ≠ n → t.dev.optPort m = s.dev.optPort m) ∧ Safety.SameRegsBut [Reg.fabPortDelay n] s t ∧ Safety.SameMemory s t

/-- A port leaves EXCHANGE: version 1, the decided width, the peer's place in FAB_PORT_PEER and in the record of R183 (R175, R186). -/
def Safety.LinkSettled (s t : State) (n : Nat) (blk : List Byte) : Prop :=
  (t.dev.optPort n).version = 1 ∧ (t.dev.optPort n).width = (s.dev.optPort n).width ∧ (t.dev.optPort n).decided = none ∧
  (t.dev.optPort n).peerPlace = some (fldOf blk 4 31 0) ∧
  t.dev.rd (Reg.fabPortPeer n) = fldOf blk 4 31 0 + fldOf blk 0 26 24 * 2 ^ 32 + fldOf blk 0 23 16 * 2 ^ 40 + fldOf blk 0 15 8 * 2 ^ 48 ∧
  (∀ m, m ≠ n → t.dev.optPort m = s.dev.optPort m) ∧ Safety.SameRegsBut [Reg.fabPortDelay n, Reg.fabPortPeer n] s t ∧ Safety.SameMemory s t

/-! Programs on cores. -/

/-- The core, the opcode and the memory errors of a row that executes an instruction. -/
def Safety.insnRow : Instr → Option (Nat × Nat × Ecc)
  | .end_ p e => some (p, 0x01, e)
  | .clwait p e => some (p, 0x02, e)
  | .denseInstruction p e => some (p, 0x40, e)
  | .sparseArrayInstruction p e => some (p, 0x41, e)
  | .vcopy p e => some (p, 0x80, e)
  | .vadd p e => some (p, 0x81, e)
  | .vmul p e => some (p, 0x82, e)
  | .vfma p e => some (p, 0x83, e)
  | .vaxpy p e => some (p, 0x84, e)
  | .vmax p e => some (p, 0x85, e)
  | .vmin p e => some (p, 0x86, e)
  | .vscale p e => some (p, 0x87, e)
  | .vexp p e => some (p, 0x88, e)
  | .vrcp p e => some (p, 0x89, e)
  | .vrsqrt p e => some (p, 0x8A, e)
  | .vsilu p e => some (p, 0x8B, e)
  | .vgelu p e => some (p, 0x8C, e)
  | .vrsum p e => some (p, 0x8D, e)
  | .vrmax p e => some (p, 0x8E, e)
  | .vdot p e => some (p, 0x8F, e)
  | .vcvt p e => some (p, 0x90, e)
  | .vsel p e => some (p, 0x91, e)
  | .vkeep p e => some (p, 0x92, e)
  | .vhint p e => some (p, 0x93, e)
  | .valloc p e => some (p, 0x94, e)
  | .vfree p e => some (p, 0x95, e)
  | .vatom p e => some (p, 0x96, e)
  | .vload p e => some (p, 0x98, e)
  | .vstore p e => some (p, 0x99, e)
  | .vstoref p e => some (p, 0x9A, e)
  | .vcount p e => some (p, 0x9B, e)
  | _ => none

/-- Program g is core p's, its clock runs and it may issue. -/
abbrev Safety.Ready (s : State) (p : Nat) (g : Prog) : Prop :=
  Safety.Operating s ∧ s.dev.prog? p = some g ∧ g.mayIssue = true ∧ s.dev.clocked p = true

/-- The next instruction of its slot in core p's program g, which may issue, lies at x and has an opcode; its bytes are bs, and no CLWAIT and no
mask holds it back. -/
abbrev Safety.Turn (s : State) (p op : Nat) (g : Prog) (x : Nat) (bs : List Byte) : Prop :=
  Safety.Ready s p g ∧ s.dev.nextIn p g (opSlot op) = some x ∧ s.dev.locRead p x 32 = bs ∧ insnOp bs = op ∧
  s.dev.heldBack p g (opSlot op) x bs = false

/-- The instruction of slot V at x breaks no rule that is checked at issue, meets no hazard of the scoreboard and no memory error. -/
abbrev Safety.Clear (s : State) (p x : Nat) (bs : List Byte) (r : VecRule) (ecc : Ecc) : Prop :=
  (vecOf bs).fault r = none ∧ s.dev.hazard p .v x (s.dev.rangesOf p bs) = false ∧ ecc.badLocal = none

/-- Local memory stands but for n c bytes from address a on each core c of a list. -/
def Safety.LocalBut (s t : State) (cores : List Nat) (a : Nat) (n : Nat → Nat) : Prop :=
  ∀ x, (∀ c ∈ cores, ¬ (c * 2 ^ 22 + a ≤ x ∧ x < c * 2 ^ 22 + a + n c)) → memByte t.dev.loc x = memByte s.dev.loc x

/-- No byte of HBM, Vault or host memory has changed. -/
def Safety.SameOuter (s t : State) : Prop :=
  ∀ a, memByte t.dev.hbm a = memByte s.dev.hbm a ∧ memByte t.dev.vault a = memByte s.dev.vault a ∧ memByte t.dev.hostMem a = memByte s.dev.hostMem a

/-- A core's registers that count retired and wasted slots, corrected words and programmed events. -/
def Safety.isCoreCounter (cores : List Nat) (off : Nat) : Prop :=
  ∃ c ∈ cores, off = Reg.coreCntTdRetired c ∨ off = Reg.coreCntTdWasted c ∨ off = Reg.coreCntEccCorr c ∨ ∃ i, i < 8 ∧ off = Reg.corePmc c i

/-- Every register stands but the counters of some cores. -/
def Safety.SameRegsButCounters (cores : List Nat) (s t : State) : Prop :=
  ∀ off, ¬ Safety.isCoreCounter cores off → t.dev.rd off = s.dev.rd off

/-- The blocks beside the cores, the contexts, the pools and the migration engine. -/
def Safety.SameOthers (s t : State) : Prop :=
  t.dev.jobs = s.dev.jobs ∧ t.dev.routing = s.dev.routing ∧ t.dev.ports = s.dev.ports ∧ t.dev.router = s.dev.router ∧
  t.dev.colls = s.dev.colls ∧ t.dev.remote = s.dev.remote ∧ t.dev.tb = s.dev.tb ∧ t.dev.mgmt = s.dev.mgmt ∧ t.dev.rings = s.dev.rings ∧
  t.dev.glb = s.dev.glb ∧ t.dev.obs = s.dev.obs ∧ t.dev.snap = s.dev.snap

/-- Slot V of a program has moved past the instruction at x. -/
def Safety.pastV (g : Prog) (x : Nat) : Prog := { g with pc := x + 32 }

/-- Slot M of a program has moved past the instruction at x. -/
def Safety.pastM (g : Prog) (x : Nat) : Prog := { g with pcM := x + 32 }

/-- The frame of an instruction of slot V that issues and completes at once: the slot moves on, every core of its stream counts one retired
slot, and nothing else changes but the counters named, the slots used, local memory and the contexts' Hallmark streams. -/
def Safety.Passed (s t : State) (p : Nat) (g : Prog) (x : Nat) : Prop :=
  t.dev.prog? p = some (Safety.pastV g x) ∧ (∀ c, (t.dev.core c).m = (s.dev.core c).m ∧ (t.dev.core c).owner = (s.dev.core c).owner) ∧
  (∀ c, c ≠ p → (t.dev.core c).prog = (s.dev.core c).prog) ∧
  (g.gang.Nodup → ∀ c ∈ g.gang, t.dev.rd (Reg.coreCntTdRetired c) = (s.dev.rd (Reg.coreCntTdRetired c) + 1) % 2 ^ 64) ∧
  Safety.SameRegsButCounters (p :: g.gang) s t ∧ Safety.SameOuter s t ∧ Safety.SameOthers s t ∧ t.dev.mig = s.dev.mig ∧
  t.dev.pwr = s.dev.pwr

/-- The operations that map words to words (Table 3.9): core, opcode, memory errors, rule, where the second source's element i lies, and the result from the
elements of SRC1, SRC2 and DST. -/
def Safety.mapRow : Instr → Option (Nat × Nat × Ecc × (VecInsn → VecRule) × (Nat → Nat) × (VecInsn → Nat → Nat → Nat → Nat))
  | .vcopy p e => some (p, 0x80, e, mapRule false false, (4 * ·), fun _ x _ _ => x)
  | .vadd p e => some (p, 0x81, e, mapRule true false, (4 * ·), fun _ x y _ => fadd x y)
  | .vmul p e => some (p, 0x82, e, mapRule true false, (4 * ·), fun _ x y _ => fmul x y)
  | .vfma p e => some (p, 0x83, e, mapRule true true, (4 * ·), fun _ x y z => ffma x y z)
  | .vaxpy p e => some (p, 0x84, e, axpyRule, fun _ => 0, fun _ x y z => fadd z (fmul y x))
  | .vmax p e => some (p, 0x85, e, mapRule true false, (4 * ·), fun _ x y _ => fmax x y)
  | .vmin p e => some (p, 0x86, e, mapRule true false, (4 * ·), fun _ x y _ => fmin x y)
  | .vscale p e => some (p, 0x87, e, mapRule false false, (4 * ·), fun v x _ _ => fmul x v.imm)
  | .vexp p e => some (p, 0x88, e, mapRule false false, (4 * ·), fun _ x _ _ => fexp x)
  | .vrcp p e => some (p, 0x89, e, mapRule false false, (4 * ·), fun _ x _ _ => frcp x)
  | .vrsqrt p e => some (p, 0x8A, e, mapRule false false, (4 * ·), fun _ x _ _ => frsqrt x)
  | .vsilu p e => some (p, 0x8B, e, mapRule false false, (4 * ·), fun _ x _ _ => fsilu x)
  | .vgelu p e => some (p, 0x8C, e, mapRule false false, (4 * ·), fun _ x _ _ => fgelu x)
  | _ => none

/-- The other operations on local memory: core, opcode, memory errors, rule and the bytes that they write at DST on a core. -/
def Safety.resultRow : Instr → Option (Nat × Nat × Ecc × (VecInsn → VecRule) × (Blocks → Nat → VecInsn → List Byte))
  | .vrsum p e => some (p, 0x8D, e, reduceRule false, fun b c v => toLe 4 (laneReduce v.count 0 (fun a i => fadd a (b.locNat c (v.src1 + 4 * i) 4)) fadd))
  | .vrmax p e => some (p, 0x8E, e, reduceRule false, fun b c v =>
      toLe 4 (laneReduce v.count 0xFF800000 (fun a i => fmax a (b.locNat c (v.src1 + 4 * i) 4)) fmax))
  | .vdot p e => some (p, 0x8F, e, reduceRule true, fun b c v =>
      let x (a : Nat) : Nat := if v.sfmt = 0xB then fp32r (b.locNat c a 4) else b.locNat c a 4
      toLe 4 (laneReduce v.count 0 (fun a i => ffma (x (v.src1 + 4 * i)) (x (v.src2 + 4 * i)) a) fadd))
  | .vcvt p e => some (p, 0x90, e, cvtRule, fun b c v =>
      packRow v.dfmt (unpackRow v.sfmt v.count (b.locRead c v.src1 (vecBytes v.sfmt v.count))))
  | .vsel p e => some (p, 0x91, e, selRule, fun b c v =>
      streamOf v.count true ((List.range (v.count / 32)).filter (fun k =>
        (List.range 16).any (fun r => (b.words c (v.src1 + 4 * (r * v.count + 32 * k)) 32).any (selects v.imm)))))
  | _ => none

/-- One core of the stream after the other does its part, as long as no fault stops the stream. -/
def Safety.eachCore (g : Prog) (p : Nat) (f : Dev → Nat → Dev) (d : Dev) : Dev :=
  g.gang.foldl (fun d c => if (d.prog? p).isNone then d else f d c) d

/-- A memory instruction of a row with its opcode, the rule of its checks and its request at a remote home (Table 9.8). -/
def Safety.memoryRow : Instr → Option (Nat × Nat × Ecc × (VecInsn → VecRule) × Nat)
  | .vload p ecc => some (p, 0x98, ecc, loadRule, 0)
  | .vstore p ecc => some (p, 0x99, ecc, storeRule, 1)
  | .vstoref p ecc => some (p, 0x9A, ecc, storefRule, 2)
  | .vatom p ecc => some (p, 0x96, ecc, atomRule, 3)
  | _ => none

/-- A memory instruction that passes every check at issue, its hazards over the device range included (R72, R127), and meets no memory error. -/
abbrev Safety.MemoryClear (s : State) (p x : Nat) (bs : List Byte) (r : VecRule) (ecc : Ecc) : Prop :=
  Safety.Clear s p x bs r ecc ∧ 0 < (vecOf bs).devLen ∧ s.dev.coreCheck (vecOf bs).dev (vecOf bs).devLen = none ∧ ecc.badHbm = none

/-- A device range in the direct part, outside the export window. -/
abbrev Safety.Private (s : State) (v : VecInsn) : Prop :=
  partOf v.dev = .direct ∧ overlaps v.dev v.devLen (s.dev.rd Reg.memExportBase) s.dev.exportBytes = false

/-! Granted ring commands. -/

/-- A granted command has ended with a record: it is gone, its result stands in the ring's window, and the record waits for the CQ unless the
command is SILENT and ended OK. No other ring changes. -/
def Safety.Ended (s t : State) (j : Job) (r : Record) : Prop :=
  t.dev.job? j.ring j.seq = none ∧ (j.seq, decide (r.status = 0)) ∈ (t.dev.ring j.ring).ended ∧
  (t.dev.ring j.ring).hold =
    (if bitOf (fldOf j.cmd 0 31 0) 9 = true ∧ r.status = 0 then (s.dev.ring j.ring).hold else (s.dev.ring j.ring).hold ++ [r]) ∧
  ∀ q, q ≠ j.ring → t.dev.ring q = s.dev.ring q

/-- An engine can take up the command (ring, seq), whose opcode is op; it belongs to no Hallmark occurrence and its context holds no stage. -/
abbrev Safety.Granted (s : State) (ring seq op : Nat) (j : Job) : Prop :=
  Safety.Operating s ∧ s.dev.takes ring seq op = some j ∧ j.occ = none ∧ (s.dev.ctx j.ctx).stagePins = []

/-- A checked range of the direct part. -/
abbrev Safety.Direct (s : State) (a n : Nat) : Prop := 0 < n ∧ partOf a = .direct ∧ s.dev.checkRange a n = none

/-- A range outside the export window. -/
abbrev Safety.Unshared (s : State) (a n : Nat) : Prop := overlaps a n (s.dev.rd Reg.memExportBase) s.dev.exportBytes = false

/-- HBM stands but for n bytes from a direct address, which hold some bytes. -/
def Safety.DirectHolds (s t : State) (a : Nat) (bs : List Byte) : Prop :=
  t.dev.devRead a bs.length = bs ∧ ∀ x, (∀ i, i < bs.length → x ≠ hbmKey s.dev.ilv (a + i)) → memByte t.dev.hbm x = memByte s.dev.hbm x

/-! Buffer pools. -/

/-- The pools as a Mount lays them out: eight classes of at most 1,024 bitmap words, the tag store in the direct part (R151, R153). -/
abbrev Safety.PoolPlaced (s : State) : Prop :=
  s.dev.pool.classes.length = 8 ∧ s.dev.rd Reg.poolTagBase + 2 ^ 21 ≤ directSize ∧ ∀ k, k < 8 → s.dev.classWords k ≤ 1024

/-- The sequence slot records lie in the direct part, apart from the tag store (R139, R153). -/
abbrev Safety.SlotsApart (s : State) : Prop :=
  s.dev.rd Reg.migKvSeqBase + 2 ^ 21 ≤ directSize ∧ overlaps (s.dev.rd Reg.migKvSeqBase) (2 ^ 21) (s.dev.rd Reg.poolTagBase) (2 ^ 21) = false

/-- The bitmap word of a buffer is quarantined (R158). -/
abbrev Safety.quarantined (s : State) (k n : Nat) : Bool := (s.dev.poolClass k).bad.contains (n / 64)

/-- A reclaim by a pattern frees this buffer: it is allocated, its tag is valid and the pattern matches it (R157). -/
def Safety.reclaimed (s : State) (pat : Reclaim) (k n : Nat) : Bool :=
  (s.dev.allocated k).contains n && tagValid (s.dev.tag k n) && reclaimPat pat (s.dev.tag k n)

/-- The auditor looks at this buffer: its tag is valid, or its bitmap bit is set in a word that is not quarantined (R159). -/
def Safety.audited (s : State) (k n : Nat) : Bool := tagValid (s.dev.tag k n) || (s.dev.mapBit k n && !Safety.quarantined s k n)

/-- The auditor finds a mismatch, a dead owner or a stale buffer here (Table 6.5). -/
def Safety.leaked (s : State) (k n : Nat) : Bool :=
  Safety.audited s k n && (s.dev.audit k n = .mismatch || s.dev.audit k n = .dead || s.dev.audit k n = .stale)

/-- How many buffers of the pools have a property. -/
def Safety.countBufs (s : State) (f : Nat → Nat → Bool) : Nat :=
  sumBy (fun k => ((List.range (64 * s.dev.classWords k)).filter (f k)).length) (List.range 8)

/-- The counters of the HBM controllers' accesses (Table 14.1). -/
def Safety.hbmCounters : List Nat := (List.range 8).flatMap (fun x => [Reg.hbmCntRead x, Reg.hbmCntWrite x, Reg.hbmCntCross x])

/-- Nothing outside HBM, its counters, the contexts, the pools and the permit arbiter has changed but some registers and the log's intake. -/
def Safety.PoolFrame (regs : List Nat) (s t : State) : Prop :=
  Safety.SameRegsBut (regs ++ Safety.hbmCounters) s t ∧ t.dev.vault = s.dev.vault ∧ t.dev.loc = s.dev.loc ∧ t.dev.hostMem = s.dev.hostMem ∧
  t.dev.cores = s.dev.cores ∧ t.dev.jobs = s.dev.jobs ∧ t.dev.rings = s.dev.rings ∧ t.dev.routing = s.dev.routing ∧ t.dev.mig = s.dev.mig ∧
  t.dev.ports = s.dev.ports ∧ t.dev.router = s.dev.router ∧ t.dev.colls = s.dev.colls ∧ t.dev.remote = s.dev.remote ∧ t.dev.tb = s.dev.tb ∧
  t.dev.mgmt = s.dev.mgmt ∧ ∀ c, (t.dev.ctx c).mode = (s.dev.ctx c).mode

/-! Layers. -/

/-- A layer of which only the descriptor and the directory are known. -/
def Safety.bareLayer (desc : List Byte) (dir : List (List Byte)) : Layer :=
  { ctx := 0, ring := 0, seq := 0, occ := none, desc := desc, stepSeq := 0, tokens := 0, keoth := [], shapeBase := [], dir := dir }

/-- The descriptor of layer n at the bases of Routing Engine i. -/
def Safety.descAt (s : State) (n i : Nat) : List Byte := s.dev.devRead (s.dev.rd (Reg.reLayerTableBase i) + 64 * n) 64

/-- Where the directory of that layer lies for Routing Engine i, and its bytes (R41). -/
def Safety.dirRange (s : State) (n i : Nat) : Nat × Nat :=
  let l := Safety.bareLayer (Safety.descAt s n i) []
  (s.dev.rd (Reg.reDirBase i) + l.number * 524288, 32 * l.experts)

/-- Descriptor and directory of layer n as Routing Engine i reads them (R36, R41). -/
def Safety.instanceView (s : State) (n i : Nat) : List Byte × List (List Byte) :=
  (Safety.descAt s n i,
   chunks 32 (Safety.bareLayer (Safety.descAt s n i) []).experts (s.dev.devRead (Safety.dirRange s n i).1 (Safety.dirRange s n i).2))

/-- R37 rejects the descriptor that Routing Engine i reads. -/
def Safety.badInstance (s : State) (n i : Nat) : Bool := (Safety.bareLayer (Safety.descAt s n i) []).badDesc s.dev.blockN

/-- Routing Engine i reads a descriptor and a directory that R37 and R43 accept, in the direct part and apart from the slot records. -/
abbrev Safety.InstanceReads (s : State) (n i : Nat) : Prop :=
  Safety.Direct s (s.dev.rd (Reg.reLayerTableBase i) + 64 * n) 64 ∧ Safety.badInstance s n i = false ∧
  Safety.Direct s (Safety.dirRange s n i).1 (Safety.dirRange s n i).2 ∧
  s.dev.badHome (Safety.bareLayer (Safety.instanceView s n i).1 (Safety.instanceView s n i).2) = none ∧
  overlaps (s.dev.rd (Reg.reLayerTableBase i) + 64 * n) 64 (s.dev.rd Reg.migKvSeqBase) (2 ^ 21) = false ∧
  overlaps (Safety.dirRange s n i).1 (Safety.dirRange s n i).2 (s.dev.rd Reg.migKvSeqBase) (2 ^ 21) = false

/-- A STEP names a batch change list in the direct part with these entries, which pass the checks of R141 step 1; the slot records lie in the
direct part (R139, R140). -/
abbrev Safety.BatchList (s : State) (j : Job) (es : List KvEntry) : Prop :=
  let a := fldOf j.cmd 32 47 0
  a ≠ 0 ∧ Safety.Direct s a 8 ∧ leNat (s.dev.devRead a 8) = es.length ∧ es.length ≤ 4096 ∧ (es ≠ [] → Safety.Direct s (a + 8) (16 * es.length)) ∧
  kvEntriesOf (chunks 16 es.length (s.dev.devRead (a + 8) (16 * es.length))) = some es ∧ s.dev.kvListOk j.ctx (fldOf j.cmd 28 15 0) es = true ∧
  j.ctx < 64 ∧ s.dev.rd Reg.migKvSeqBase + 2 ^ 21 ≤ directSize

/-- The joins of a list in order, each with the slot that it takes or none: the lowest slot that is free, while MAX_BLOCKS fits in the quota less
what is reserved and no join before it was refused (R141 step 3). -/
def Safety.kvOutcome (s : State) (c : Nat) : List KvEntry → Nat → List Nat → List (KvEntry × Option Nat)
  | [], _, _ => []
  | e :: es, reserved, taken =>
    match (List.range 4096).find? (fun m => !s.dev.slotUsed c m && !taken.contains m) with
    | some m =>
      if e.blocks + reserved ≤ s.dev.rd (Reg.migKvQuota c) then (e, some m) :: Safety.kvOutcome s c es (reserved + e.blocks) (taken ++ [m])
      else (e :: es).map (fun x => (x, none))
    | none => (e :: es).map (fun x => (x, none))

/-- A ring takes the join reports of a command: an enabled command ring of its context (R312). -/
def Safety.takesReports (s : State) (j : Job) (q : Nat) : Bool :=
  s.dev.flag (Reg.ringCtrl q) 0 && s.dev.fld (Reg.ringCtrl q) 2 1 = 0 && s.dev.ringCtx q = j.ctx

/-! Tiers. -/

/-- The directory entry of tile i lies in the direct part. -/
abbrev Safety.EntryPlaced (s : State) (i : Nat) : Prop := s.dev.rd Reg.migTdirBase + 8 * i + 8 ≤ directSize

/-- Frame f lies in the direct part and apart from the directory entry of tile i. -/
abbrev Safety.FramePlaced (s : State) (i f : Nat) : Prop :=
  Safety.EntryPlaced s i ∧ f * tileBytes + tileBytes ≤ directSize ∧
  overlaps (s.dev.rd Reg.migTdirBase + 8 * i) 8 (f * tileBytes) tileBytes = false

/-- No access waits for a tile: no instruction in a scoreboard, no engine and no host access. -/
def Safety.NoTileWaiters (s : State) : Prop :=
  s.dev.mig.stalls = [] ∧ ∀ p g i ts, s.dev.prog? p = some g → i ∈ g.score → i.pend ≠ .tiles ts

/-- HBM is in canonical form and lists only places of the direct part. -/
abbrev Safety.HbmPlaced (s : State) : Prop :=
  Memory.wf s.dev.hbm = true ∧ ∀ e ∈ s.dev.hbm, hbmKey s.dev.ilv (hbmAddr s.dev.ilv e.1) = e.1 ∧ hbmAddr s.dev.ilv e.1 < directSize

/-- The management command that runs has ended with a result (R282). -/
abbrev Safety.MgmtEnded (t : State) (result : Nat) : Prop :=
  t.dev.mgmt.run = none ∧ t.dev.flag Reg.mgmtStatus 0 = false ∧ t.dev.flag Reg.mgmtStatus 1 = true ∧ t.dev.fld Reg.mgmtStatus 15 8 = result

/-! Timebase. -/

/-- An entry waits at its block for its turn in the error log, stamped with the stroke, the time and the hub cycle (R344, R345). -/
def Safety.Logged (s t : State) (e : LogEntry) : Prop :=
  t.dev.obs.waiting = insertBy LogEntry.before
    { e with addr := e.addr % 2 ^ 48, stroke := BitVec.ofNat 64 s.dev.stroke, time := BitVec.ofNat 64 (s.dev.rd Reg.tbTime),
             cycle := s.dev.glb.hubNow } s.dev.obs.waiting

/-- An event of Table 10.11 has happened: LAST_EVENT and the log tell it. -/
def Safety.TbEvent (s t : State) (code reg : Nat) (ctx : Option Nat) : Prop :=
  t.dev.fld Reg.tbStatus 23 16 = code ∧ Safety.Logged s t { code := code, ctx := ctx, domain := 37, addr := reg, kind := 2 }

/-- What does the device's work stands: contexts, cores, rings and their commands, engines, ports, router, collectives, management. -/
def Safety.SameWork (s t : State) : Prop :=
  t.dev.ctxs = s.dev.ctxs ∧ t.dev.cores = s.dev.cores ∧ t.dev.jobs = s.dev.jobs ∧ t.dev.rings = s.dev.rings ∧
  t.dev.routing = s.dev.routing ∧ t.dev.mig = s.dev.mig ∧ t.dev.pool = s.dev.pool ∧ t.dev.router = s.dev.router ∧
  t.dev.colls = s.dev.colls ∧ t.dev.remote = s.dev.remote ∧ t.dev.mgmt = s.dev.mgmt ∧ t.dev.pwr = s.dev.pwr

/-- The error e between an edge and the beat is slewed away, by at most 1 ns, if it is at most 100 ns at equal strokes; a larger one, or a
stroke that differs, steps the beat and the stroke counter at the next boundary (R248). -/
def Safety.Aligned (s t : State) (stroke : Nat) (e : Int) : Prop :=
  if stroke = s.dev.stroke ∧ e.natAbs ≤ 100000 then
    t.dev.tb.phasePs = s.dev.tb.phasePs + max (-1000) (min 1000 e) ∧ t.dev.tb.stepTo = s.dev.tb.stepTo
  else t.dev.tb.phasePs = s.dev.tb.phasePs + e ∧ t.dev.tb.stepTo = some ((stroke + 1) % 2 ^ 64)

/-- A Clasp's command belongs to no occurrence, and its context holds no stage. -/
def Safety.PlainClasp (s : State) (c : Clasp) : Prop :=
  ∀ j, s.dev.job? c.ring c.seq = some j → j.occ = none ∧ (s.dev.ctx j.ctx).stagePins = []

/-- A Clasp has closed here with a status: it is gone, the status is remembered, and its command has ended (R253, R254). -/
def Safety.ClaspClosed (s t : State) (c : Clasp) (st r1 : Nat) : Prop :=
  t.dev.clasp? c.n = none ∧ t.dev.tb.claspClosed = ((c.n, st) :: s.dev.tb.claspClosed).take 16 ∧
  ∀ j, s.dev.job? c.ring c.seq = some j →
    Safety.Ended s t j { s.dev.recordOf j (if st = 2 then 0xB6 else 0) false (if st = 2 then 0 else st) r1 with
      stroke := BitVec.ofNat 64 t.dev.stroke }

/-- The management command that runs has ended with a result and done nothing else; some registers may have changed. -/
def Safety.OnlyEnded (regs : List Nat) (s t : State) (result : Nat) : Prop :=
  Safety.MgmtEnded t result ∧ Safety.SameRegsBut ([Reg.mgmtStatus, Reg.mgmtResultInfo] ++ regs) s t ∧ Safety.SameMemory s t ∧
  t.dev.mgmt.mount = s.dev.mgmt.mount ∧ t.dev.ctxs = s.dev.ctxs ∧ t.dev.cores = s.dev.cores ∧ t.dev.jobs = s.dev.jobs ∧
  t.dev.rings = s.dev.rings ∧ t.dev.ports = s.dev.ports ∧ t.dev.pool = s.dev.pool ∧ t.dev.mig = s.dev.mig ∧
  t.dev.remote = s.dev.remote ∧ t.dev.router = s.dev.router ∧ t.dev.tb = s.dev.tb

/-! The invariant. -/

/-- Every memory of a device is in its canonical form: addresses in rising order, and no byte listed that reads as an unlisted one does. -/
abbrev Safety.MemoriesCanonical (d : Dev) : Prop :=
  Memory.wf d.hbm = true ∧ Memory.wf d.vault = true ∧ Memory.wf d.loc = true ∧ Memory.wf d.hostMem = true

end Sys2Proof
end

