-- ==== Sys2Proof/Certificates/Slice0/Obligations.lean ====
section
/-! DEFINITION. The statements for the provers. Each names the rule of spec/ that it formalises; where a clause rests on a choice of the
model, the log entry is named. -/

open Sys2Proof Sys2Proof.Machine

/-! The machine. -/

/-- A step takes the command at the front of the queue and is that command's meaning on the machine with the queue's rest; on an empty queue a
cycle of the hub clock passes (the model's choice, log entry 7). -/
def Obligations.StepRunsFrontCommand : Prop :=
  (∀ (c : Instr) (rest : List Instr) (s : State), s.pending = c :: rest → step s = exec c { s with pending := rest }) ∧
  (∀ s : State, s.pending = [] → step s = .next (idle s))

/-- Every command answers a next state and leaves the waiting commands alone: nothing stops the block. -/
def Obligations.EveryCommandLeavesQueue : Prop :=
  ∀ (c : Instr) (s : State), ∃ t, exec c s = .next t ∧ t.pending = s.pending

/-- A device that is not in operation takes nothing but resets, their release, heat, the host link and the test port (R357, R366; the model's
choice for every other row, log entry 8). R366: a tripped device holds itself in reset with THERMTRIP# low; no command but DEVICE_RESET ends that. -/
def Obligations.OutsideOperationNothingActs : Prop :=
  (∀ (c : Instr) (s : State), ¬ Safety.Operating s → Safety.actsOutsideOperation c = false → exec c s = .next s) ∧
  (∀ (c : Instr) (s : State), s.dev.glb.phase = .tripped → c ≠ .deviceReset →
     ∃ t, exec c s = .next t ∧ t.dev.glb.phase = .tripped ∧ t.dev.thermtripPin = s.dev.thermtripPin ∧ t.dev.readyPin = false)

/-- DEVICE_RESET takes every state to that of R357 and R359 with CAUSE 0x01; RESET_CMD with KEY 0xA5C3 takes a device in operation there with
CAUSE 0x02 over the host port and 0x03 over I3C, also while SPARE_SWAP or LINK_RETRAIN runs (R356, R360); any other KEY is refused with
REG_REJECTED and nothing is reset, and so is every KEY while MOUNT_LOAD or MOUNT_CLEAR runs (R284). R358, Table 15.6: at the release the straps
are sampled, the locks of step 1 and the flags of steps 1 to 3 are set, STACK_FAIL shows the stacks that failed, and configuration requests are
not served before READY (Table 15.5); when READY rises the device is in operation and READY and VAULT_DONE are set, each vault port showing its
link. The reset sequence from the state after reset, with a clean test, no vault device and the host link trained, gives the state after reset
again (R356 to R359; State.reset's grade, straps and links are the model's choice, log entry 9). -/
def Obligations.ResetAndRelease : Prop :=
  ((∀ s : State, Safety.Gives .deviceReset s (fun t => Safety.ResetState t.dev s 1 .inReset ∧ t.dev.thermtripPin = true)) ∧
   (∀ (s : State) (p : MPort), Safety.Operating s → s.dev.reaches p = true → (∀ r, s.dev.mgmt.run = some r → r.op ≠ 1 ∧ r.op ≠ 2) →
     Safety.Gives (.resetCmd p 0xA5C3) s (fun t =>
       Safety.ResetState t.dev s (if p = .host then 2 else 3) .inReset ∧ t.dev.thermtripPin = true)) ∧
   (∀ (s : State) (p : MPort) (key : W32), Safety.Operating s → s.dev.reaches p = true →
     ((∀ r, s.dev.mgmt.run = some r → r.op ≠ 1 ∧ r.op ≠ 2) → key.toNat < 2 ^ 16 → key ≠ 0xA5C3 →
       exec (.resetCmd p key) s = .next (s.onDev (s.dev.writeErr p 4 Reg.glbResetCmd 4))) ∧
     (∀ r, s.dev.mgmt.run = some r → r.op = 1 ∨ r.op = 2 →
       exec (.resetCmd p key) s = .next (s.onDev (s.dev.writeErr p 4 Reg.glbResetCmd 4))))) ∧
  ((∀ (s : State) (a0 a1 : Bool) (b : Bist), s.dev.glb.phase = .inReset →
     Safety.Gives (.resetRelease a0 a1 b) s (fun t =>
       t.dev.glb.phase = .starting ∧ t.dev.staticAddr = 0x58 + 2 * b2n a1 + b2n a0 ∧
       t.dev.fld Reg.glbResetStatus 3 0 = 0xE ∧ t.dev.fld Reg.glbResetStatus 15 8 = b.stackFail % 256 ∧
       t.dev.fld Reg.glbResetStatus 23 16 = s.dev.fld Reg.glbResetStatus 23 16 ∧
       t.dev.rd Reg.glbClkLock = 0x007F81FFFFFFFFFF ∧ t.dev.vltPerstPin = true ∧ t.dev.readyPin = false ∧
       t.dev.configAnswer = (if s.dev.glb.hostLink then .requestRetry else .linkDown))) ∧
   (∀ (s : State) (v0 v1 : VaultLink), s.dev.glb.phase = .starting →
     Safety.Gives (.ready v0 v1) s (fun t =>
       Safety.Operating t ∧ t.dev.readyPin = true ∧ t.dev.flag Reg.glbResetStatus 0 = true ∧ t.dev.flag Reg.glbResetStatus 4 = true ∧
       t.dev.configAnswer = (if s.dev.glb.hostLink then .served else .linkDown) ∧
       t.dev.rd (Reg.vltPortStatus 0) = linkStatus v0 % 2 ^ 64 ∧ t.dev.rd (Reg.vltPortStatus 1) = linkStatus v1 % 2 ^ 64))) ∧
  (∃ a b c d : State, exec .deviceReset State.reset = .next a ∧ exec (.resetRelease false false {}) a = .next b ∧
     exec .hostPortLinkUp b = .next c ∧ exec (.ready ⟨0, false, false, 0⟩ ⟨0, false, false, 0⟩) c = .next d ∧ d = State.reset)

/-! Register accesses. -/

/-- R16: an access that finds no register, in either direction and of any width, is answered with RESP 1. An error response changes no memory, no
engine, no context and no register but GLB_ERR_RESP of its port; it answers the port with the error, an entry waits for the error log, and
GLB_ERR_RESP takes VALID, the response and the address if it held none (R346); a write over I3C that is refused also sets the protocol-error bit
of GETSTATUS and nothing else (Table 14.7). R282: while a management command runs, a write of MGMT_CMD or of an
argument register is discarded and sets REJECTED in MGMT_STATUS; it causes no error response and no log entry, and the running command goes on. -/
def Obligations.RefusedAccessesChangeNothing : Prop :=
  ((∀ (s : State) (p : MPort) (off bytes : Nat) (v : W64), Safety.Operating s → s.dev.reaches p = true → busTarget off bytes = none →
     exec (.registerWrite p off bytes v) s = .next (s.onDev (s.dev.writeErr p 1 off bytes)) ∧
     exec (.registerRead p off bytes) s = .next (s.onDev (s.dev.errResp p 1 off bytes false))) ∧
   (∀ off bytes, bytes < 4 ∨ (bytes = 4 ∧ off % 4 ≠ 0) ∨ (bytes = 8 ∧ off % 8 ≠ 0) ∨ 2 ^ 28 ≤ off → busTarget off bytes = none) ∧
   (∀ (s : State) (p : MPort) (resp addr bytes : Nat) (bar2 : Bool), Safety.Operating s →
     let t := s.onDev (s.dev.errResp p resp addr bytes bar2)
     let reg := Reg.glbErrResp (if p = .host then 0 else 1)
     Safety.SameMemory s t ∧ Safety.SameEngines s t ∧ Safety.SameRegsBut [reg] s t ∧
     Safety.Logged s t { code := 0xC0 + resp, port := if p = .host then 0 else 1, domain := if p = .host then 55 else 36, addr := addr,
                         kind := if bar2 then 1 else 2, resp := resp } ∧
     (t.dev.bus p).answer = .error resp bytes ∧
     (s.dev.flag reg 63 = false → t.dev.rd reg = (2 ^ 63 + resp * 2 ^ 52 + b2n bar2 * 2 ^ 48 + addr % 2 ^ 48) % 2 ^ 64) ∧
     (s.dev.flag reg 63 = true → t.dev.rd reg = s.dev.rd reg)) ∧
   (∀ (d : Dev) (resp off bytes : Nat), d.writeErr .host resp off bytes = d.errResp .host resp off bytes false ∧
     d.writeErr .i3c resp off bytes =
       { d.errResp .i3c resp off bytes false with i3c := { (d.errResp .i3c resp off bytes false).i3c with protErr := true } })) ∧
  (∀ (s : State) (p : MPort) (off bytes : Nat) (v : W64) (t : Target), Safety.Operating s → s.dev.reaches p = true →
     s.dev.mgmt.run.isSome = true → busTarget off bytes = some t → t.isMailbox = true →
     exec (.registerWrite p off bytes v) s =
       .next (s.onDev ((s.dev.wrFld Reg.mgmtStatus 2 2 1).modBus p (fun x => { x with answer := .done }))))

/-- R15: reserved bits read as zero, and a write that sets one, of a whole register or of one assembled from its halves, is discarded whole: it is
answered with an error response, its address is recorded in the error log, and no register but that of the response, no memory and no engine
changes. It is so for every register of the map, whatever else the write sets. -/
def Obligations.ReservedBits : Prop :=
  (∀ (s : State) (p : MPort) (off bytes : Nat) (v : W64) (t : Target) (i : Nat), Safety.Operating s → s.dev.reaches p = true →
    busTarget off bytes = some t → t.half = .whole → (s.dev.mgmt.run.isSome = true → t.isMailbox = false) →
    s.dev.mgmtBars t (v.toNat % 2 ^ (8 * bytes)) = false → i < 8 * bytes → bitOf v.toNat i = true → (∀ f ∈ t.r.flds, ¬ (f.lo ≤ i ∧ i ≤ f.hi)) →
    Safety.Gives (.registerWrite p off bytes v) s (fun u =>
      (u.dev.bus p).answer = .error 2 bytes ∧
      Safety.SameRegsBut [Reg.glbErrResp (if p = .host then 0 else 1)] s u ∧ Safety.SameMemory s u ∧ Safety.SameEngines s u ∧
      Safety.Logged s u { code := 0xC2, port := if p = .host then 0 else 1, domain := if p = .host then 55 else 36, addr := off, kind := 2,
                          resp := 2 })) ∧
  (∀ (d : Dev) (p : MPort) (t : Target) (v bytes i : Nat) (ecc : Ecc), i < 64 → bitOf v i = true → (∀ f ∈ t.r.flds, ¬ (f.lo ≤ i ∧ i ≤ f.hi)) →
    (∀ f ∈ t.r.flds, f.hi < 64 ∧ f.lo ≤ f.hi) → d.judge p t v bytes ecc = d.writeErr p 2 t.off bytes) ∧
  (∀ (s : State) (p : MPort) (off bytes i : Nat) (t : Target), Safety.Operating s → s.dev.reaches p = true →
    busTarget off bytes = some t → t.half = .whole → (s.dev.bus p).loupeSel < 2 ^ 28 → i < 8 * bytes →
    (∀ f ∈ t.r.flds, ¬ (f.lo ≤ i ∧ i ≤ f.hi)) →
    Safety.Gives (.registerRead p off bytes) s (fun u => ∀ n x, (u.dev.bus p).answer = .data n x → x.getLsbD i = false))

/-- A write of a whole register without an effect of its own, whose value no rule refuses: the register takes the value by its fields' access
types (Table 0.6), the port is answered, and nothing else changes: no other register, no memory, no engine (R13, R14). -/
def Obligations.PlainWriteTakesValue : Prop :=
  ∀ (s : State) (p : MPort) (off bytes : Nat) (v : W64) (t : Target), Safety.Operating s → s.dev.reaches p = true →
    s.dev.mgmt.run = none → busTarget off bytes = some t → t.half = .whole → t.r.base ∉ Safety.ownEffect → v.toNat < 2 ^ (8 * bytes) →
    t.r.setsReserved v.toNat = false → s.dev.writeBarred t.r t.i off v.toNat = false →
    (s.dev.wr off (t.r.merge (s.dev.rd off) v.toNat)).valueOk t.r t.i v.toNat = true →
    Safety.Gives (.registerWrite p off bytes v) s (fun u =>
      u.dev.rd off = t.r.merge (s.dev.rd off) v.toNat % 2 ^ 64 ∧ Safety.SameRegsBut [off] s u ∧ Safety.SameMemory s u ∧
      Safety.SameEngines s u ∧ (u.dev.bus p).answer = .done)

/-- A read of a whole register answers its current value, fields that only take writes as zero, and changes nothing but that answer (R14);
RING_STARVE of every ring, written with 16 bits and read back, gives the bits written, over either port. -/
def Obligations.ReadAnswersValue : Prop :=
  (∀ (s : State) (p : MPort) (off bytes : Nat) (t : Target), Safety.Operating s → s.dev.reaches p = true → busTarget off bytes = some t →
    t.half = .whole → t.r.base ∉ [Reg.loupeData, Reg.loupeSel, Reg.mgmtArg 0] →
    exec (.registerRead p off bytes) s =
      .next (s.onDev (s.dev.modBus p (fun x => { x with answer := .data bytes (BitVec.ofNat 64 (t.r.shown (s.dev.current t.r t.i t.j t.off))) })))) ∧
  (∀ (s : State) (p : MPort) (ring : Nat) (v : W64), Safety.Operating s → s.dev.reaches p = true → s.dev.mgmt.run = none → ring < 4096 →
    v.toNat < 2 ^ 16 →
    Safety.Gives (.registerWrite p (Reg.ringStarve ring) 4 v) s (fun t =>
      Safety.Gives (.registerRead p (Reg.ringStarve ring) 4) t (fun u => (u.dev.bus p).answer = .data 4 v ∧ u.dev.rd (Reg.ringStarve ring) = v.toNat)))

/-- R17: a low half is held untested in the port's staging latch with the register's offset; the high half is then judged with it as one whole
value and empties the latch; a high half without a matching low half is answered with RESP 3 and empties the latch. R17: a 32-bit read of a low
half returns it and captures the high half in the port's read latch; the read of the high half of the same register that follows returns the
captured half, even if the register has changed, and empties the latch. -/
def Obligations.HalvesMakeOneValue : Prop :=
  (∀ (s : State) (p : MPort) (off : Nat) (t : Target) (lo hi : W64), Safety.Operating s → s.dev.reaches p = true →
     s.dev.mgmt.run = none → busTarget off 8 = some t → busTarget (off + 4) 4 = some { t with half := .high } → lo.toNat < 2 ^ 32 → hi.toNat < 2 ^ 32 →
     Safety.Gives (.registerWrite p off 4 lo) s (fun a =>
       a.dev = s.dev.modBus p (fun x => { x with stage := some ⟨off, BitVec.ofNat 32 lo.toNat⟩, answer := .done }) ∧
       exec (.registerWrite p (off + 4) 4 hi) a =
         .next (s.onDev ((s.dev.modBus p (fun x => { x with stage := none, answer := .done })).judge p t (lo.toNat + hi.toNat * 2 ^ 32) 4))) ∧
     (exec (.registerWrite p off 8 (BitVec.ofNat 64 (lo.toNat + hi.toNat * 2 ^ 32))) s =
       .next (s.onDev (s.dev.judge p t (lo.toNat + hi.toNat * 2 ^ 32) 8))) ∧
     ((∀ l, (s.dev.bus p).stage = some l → l.off ≠ off) →
       exec (.registerWrite p (off + 4) 4 hi) s =
         .next (s.onDev ((s.dev.modBus p (fun x => { x with stage := none })).writeErr p 3 off 4)))) ∧
  (∀ (s u : State) (p : MPort) (off : Nat) (t : Target), Safety.Operating s → s.dev.reaches p = true → busTarget off 8 = some t →
     busTarget (off + 4) 4 = some { t with half := .high } → t.r.base ∉ [Reg.loupeData, Reg.loupeSel, Reg.mgmtArg 0] →
     let v := t.r.shown (s.dev.current t.r t.i t.j t.off)
     Safety.Gives (.registerRead p off 4) s (fun a =>
       (a.dev.bus p).answer = .data 4 (BitVec.ofNat 64 (v % 2 ^ 32)) ∧
       (Safety.Operating u → u.dev.reaches p = true → (u.dev.bus p).latch = (a.dev.bus p).latch →
         Safety.Gives (.registerRead p (off + 4) 4) u (fun b =>
           (b.dev.bus p).answer = .data 4 (BitVec.ofNat 64 (v / 2 ^ 32 % 2 ^ 32)) ∧ (b.dev.bus p).latch = none))))

/-! Clocks, heat, host port, test port. -/

/-- R30, R334, R353: a domain other than a port's, the host port's or a vault's that is locked and loses lock stops injection, shows as unlocked
in GLB_CLK_LOCK, sets its bit of GLB_CLK_LOSS if it has locked since reset, and every optical engine that was lit gives up its carats with its
lasers and is FAILED; the cores of a cluster whose domain it is issue nothing more, and their cycle counter stands. No transmitter is lit again
before the device is reset. R365, R366: at sensor readings of a device that is not tripped, also while it is in reset or starts (Table 15.5),
GLB_THERM.TJ shows the hottest die sensor; HOT sets at HOT_C or at a stack of 95 °C, clears when every die is at HOT_C − 5 °C or below and every
stack at 90 °C or below, and THERM_HOT# follows HOT; a die sensor at 125 °C resets the device with THERMTRIP# low. Nothing else of the device
changes. -/
def Obligations.ClockLossAndHeat : Prop :=
  ((∀ (s : State) (dom : Nat), Safety.Operating s → (dom < 41 ∨ 47 ≤ dom ∧ dom < 55) → bitOf s.dev.clkLockView dom = true →
     Safety.Gives (.pllLockLoss dom) s (fun t =>
       t.dev.glb.stopped = true ∧ t.dev.flag Reg.glbClkLock dom = false ∧
       (s.dev.glb.lockedOnce.contains dom = true → t.dev.flag Reg.glbClkLoss dom = true) ∧
       (∀ n, n < 6 → (s.dev.optPort n).st = .disabled ∨ (s.dev.optPort n).st = .failed → t.dev.optPort n = s.dev.optPort n) ∧
       (∀ n, n < 6 → (s.dev.optPort n).st ≠ .disabled → (s.dev.optPort n).st ≠ .failed →
         (t.dev.optPort n).st = .failed ∧ (t.dev.optPort n).sticky = true ∧ t.dev.holds (584 + n) = 0) ∧
       (∀ p, dom < 32 → clusterOf p = dom → t.dev.toBlocks.clocked p = false ∧ t.dev.coreCycles p = s.dev.glb.hubNow * 3 / 2) ∧
       Safety.SameMemory s t ∧ t.dev.jobs = s.dev.jobs ∧ t.dev.cores = s.dev.cores)) ∧
   (∀ s : State, Safety.Operating s → s.dev.glb.stopped = true →
     (∀ n, exec (.retrainInterval n) s = .next s) ∧ Safety.Gives .permitGrant s (fun t => t.dev.ports = s.dev.ports))) ∧
  ((∀ (s : State) (t : Temps), s.dev.glb.phase ≠ .tripped →
     Safety.Gives (.thermHot t) s (fun u =>
       u.dev.fld Reg.glbTherm 7 0 = min (hottest t) 255 ∧ u.dev.fld Reg.glbTherm 23 16 = s.dev.fld Reg.glbTherm 23 16 ∧
       u.dev.flag Reg.glbTherm 48 = (decide (s.dev.fld Reg.glbTherm 23 16 ≤ hottest t) || decide (95 ≤ t.hbm) || s.dev.flag Reg.glbTherm 48) ∧
       u.dev.thermHotPin = !u.dev.flag Reg.glbTherm 48 ∧ u.dev.glb = s.dev.glb ∧
       Safety.SameRegsBut [Reg.glbTherm, Reg.glbThermDie] s u ∧ Safety.SameMemory s u ∧ Safety.SameEngines s u)) ∧
   (∀ (s : State) (t : Temps), s.dev.glb.phase ≠ .tripped →
     Safety.Gives (.thermHotClear t) s (fun u =>
       u.dev.fld Reg.glbTherm 7 0 = min (hottest t) 255 ∧
       u.dev.flag Reg.glbTherm 48 =
         (s.dev.flag Reg.glbTherm 48 && !(decide (hottest t + 5 ≤ s.dev.fld Reg.glbTherm 23 16) && decide (t.hbm ≤ 90))) ∧
       u.dev.glb = s.dev.glb ∧
       Safety.SameRegsBut [Reg.glbTherm, Reg.glbThermDie] s u ∧ Safety.SameMemory s u ∧ Safety.SameEngines s u)) ∧
   (∀ (s : State) (t : Temps), Safety.Operating s → 125 ≤ hottest t →
     Safety.Gives (.thermtrip t) s (fun u => Safety.ResetState u.dev s 1 .tripped ∧ u.dev.thermtripPin = false)) ∧
   (∀ (s : State) (t : Temps), hottest t < 125 → exec (.thermtrip t) s = .next s))

/-- R295, R356: every kind of host-port reset of an operating device returns every ring register, the counters among them, to its reset value
and drops what the rings held; it tears every live context down with CAUSE 0xFF, whose commands are gone. Without a live context it leaves every
register outside the rings and the clock block, the Mount, the ports and all memory alone. The link falls for a link loss and PCIE_PERST#;
HOST_PORT_LINK_UP brings it back with GLB_CLK_LOCK bit 55, and before READY configuration requests are answered with Request Retry Status (Table
15.5). R362: an opcode in no row of the instruction table acts as BYPASS, IDCODE and SAMPLE/PRELOAD as themselves, and the EXTEST instructions as
themselves only while PORST# is low and else as BYPASS; IDCODE reads 0x1541_25EB on an NX-T512 of stepping A1 and 0x1544_85EB on an NX-T448. -/
def Obligations.HostResetAndTestPort : Prop :=
  ((∀ (s : State) (kind : HostReset), Safety.Operating s →
     Safety.Gives (.hostPortReset kind) s (fun t =>
       (∀ r x, r < 4096 → x < 0x1000 → t.dev.rd (0x01000000 + r * 0x1000 + x) = (regReset (0x01000000 + r * 0x1000 + x)).toNat) ∧
       (∀ r, t.dev.ring r = {}) ∧ t.dev.granted = none ∧
       t.dev.glb.hostLink = (match kind with | .flr | .hotReset => s.dev.glb.hostLink | .linkDown | .perst => false) ∧
       (∀ c, c < 64 → (s.dev.ctx c).mode = .live → (t.dev.ctx c).mode = .tearing ∧ (t.dev.ctx c).cause = 0xFF) ∧
       (∀ c, c < 64 → (s.dev.ctx c).mode ≠ .live → (t.dev.ctx c).mode = (s.dev.ctx c).mode) ∧
       (∀ j ∈ t.dev.jobs, j.ctx < 64 → (s.dev.ctx j.ctx).mode ≠ .live) ∧ t.dev.mgmt.mount = s.dev.mgmt.mount ∧ t.dev.hostMem = s.dev.hostMem ∧
       ((∀ c, (s.dev.ctx c).mode ≠ .live) →
         (∀ off, off < 0x01000000 ∨ 0x02000000 ≤ off → off ≠ Reg.glbClkLock → off ≠ Reg.glbClkLoss → t.dev.rd off = s.dev.rd off) ∧
         t.dev.mgmt = s.dev.mgmt ∧ t.dev.ports = s.dev.ports ∧ t.dev.tb = s.dev.tb ∧ t.dev.router = s.dev.router ∧ Safety.SameMemory s t))) ∧
   (∀ s : State, Safety.Operating s →
     Safety.Gives .hostPortLinkUp s (fun t =>
       t.dev.glb.hostLink = true ∧ bitOf t.dev.clkLockView 55 = true ∧ t.dev.configAnswer = .served ∧ Safety.SameRegsBut [Reg.glbClkLock] s t ∧
       Safety.SameMemory s t ∧ Safety.SameEngines s t)) ∧
   (∀ s : State, s.dev.glb.phase = .starting → Safety.Gives .hostPortLinkUp s (fun t => t.dev.configAnswer = .requestRetry))) ∧
  ((∀ (s : State) (op : Byte),
     Safety.Gives (.tapInstruction op) s (fun t =>
       t.dev.glb.tapInsn = op ∧
       t.dev.glb.tapActs = (if op = 0x01 ∨ op = 0x02 then op
         else if (op = 0x00 ∨ op = 0x08 ∨ op = 0x09) ∧ s.dev.porstLow = true then op else 0xFF) ∧
       ({ t.dev.toBlocks with glb := s.dev.glb } : Blocks) = s.dev.toBlocks)) ∧
   (∀ d : Blocks, (d.grade = .t512 → d.idcode = 0x154125EB) ∧ (d.grade = .t448 → d.idcode = 0x154485EB)))

/-! I3C. -/

/-- R283, R361: the CCCs at any time. ENEC and DISEC set and clear target events; RSTDAA drops the dynamic address; ENTDAA and SETDASA give one to
a target without (the model's reading, log entry 5); GETPID, GETBCR, GETDCR answer the fixed values and GETSTATUS shows BUSY in bit 8. Nothing but
the I3C target's own state changes. R283: while BUSY the target acknowledges no private transfer and nothing but its answer changes; otherwise a
target with a dynamic address takes a private write as a write of the register at its 4-byte offset, which becomes the read pointer: a plain
register takes the value, and any other access is answered as one over the I3C port; and a private read answers the value of the register there,
8 bytes wide where a 64-bit register begins and 4 bytes elsewhere, or REG_UNMAPPED where no register lies (an offset beyond BAR0 among them: the
model's choice, log entry 93). -/
def Obligations.I3cTarget : Prop :=
  (∀ s : State, Safety.Operating s →
     (∀ e, exec (.enec e) s = .next (s.onDev { s.dev with i3c := { s.dev.i3c with events := s.dev.i3c.events ||| e } })) ∧
     (∀ e, exec (.disec e) s = .next (s.onDev { s.dev with i3c := { s.dev.i3c with events := s.dev.i3c.events &&& ~~~e } })) ∧
     exec .rstdaa s = .next (s.onDev { s.dev with i3c := { s.dev.i3c with dyn := none } }) ∧
     (∀ a, s.dev.i3c.dyn = none → a < 128 →
       exec (.entdaa a) s = .next (s.onDev { s.dev with i3c := { s.dev.i3c with dyn := some a } }) ∧
       exec (.setdasa a) s = .next (s.onDev { s.dev with i3c := { s.dev.i3c with dyn := some a } })) ∧
     exec .getpid s = .next (s.onDev { s.dev with i3cPort := { s.dev.i3cPort with answer := .data 6 (BitVec.ofNat 64
       (0x02F5 * 2 ^ 33 + (if s.dev.grade = .t512 then 512 else 448) * 2 ^ 16 + s.dev.glb.straps * 2 ^ 12)) } }) ∧
     exec .getbcr s = .next (s.onDev { s.dev with i3cPort := { s.dev.i3cPort with answer := .data 1 0x06 } }) ∧
     exec .getdcr s = .next (s.onDev { s.dev with i3cPort := { s.dev.i3cPort with answer := .data 1 0x00 } }) ∧
     Safety.Gives .getstatus s (fun t => ∃ v : W64, t.dev.i3cPort.answer = .data 2 v ∧ v.getLsbD 8 = s.dev.mgmt.run.isSome ∧
       ({ t.dev.toBlocks with i3c := s.dev.i3c, i3cPort := s.dev.i3cPort } : Blocks) = s.dev.toBlocks)) ∧
  ((∀ (s : State) (bs : List Byte), Safety.Operating s → s.dev.mgmt.run.isSome = true →
     exec (.i3cPrivateWrite bs) s = .next (s.onDev { s.dev with i3cPort := { s.dev.i3cPort with answer := .nack } }) ∧
     exec .i3cPrivateRead s = .next (s.onDev { s.dev with i3cPort := { s.dev.i3cPort with answer := .nack } })) ∧
   (∀ (s : State) (off n : Nat) (v : W64), Safety.Operating s → s.dev.mgmt.run = none → s.dev.i3c.dyn.isSome = true → off < 2 ^ 32 →
     (n = 4 ∨ n = 8) → v.toNat < 2 ^ (8 * n) →
     let c : Instr := .i3cPrivateWrite (toLe 4 off ++ toLe n v.toNat)
     let d : Dev := { s.dev with i3c := { s.dev.i3c with readPtr := off } }
     exec c s = .next (s.onDev (d.busWrite .i3c off n v.toNat)) ∧
     (busTarget off n = none → exec c s = .next (s.onDev (d.writeErr .i3c 1 off n))) ∧
     (∀ t, busTarget off n = some t → t.half = .whole → t.r.setsReserved v.toNat = true → exec c s = .next (s.onDev (d.writeErr .i3c 2 off n))) ∧
     (∀ t, busTarget off n = some t → t.half = .whole → t.r.base ∉ Safety.ownEffect → t.r.setsReserved v.toNat = false →
       s.dev.writeBarred t.r t.i off v.toNat = false → (s.dev.wr off (t.r.merge (s.dev.rd off) v.toNat)).valueOk t.r t.i v.toNat = true →
       Safety.Gives c s (fun u => u.dev.rd off = t.r.merge (s.dev.rd off) v.toNat % 2 ^ 64 ∧ u.dev.i3c = d.i3c ∧ u.dev.i3cPort.answer = .done ∧
         Safety.SameRegsBut [off] s u ∧ Safety.SameMemory s u ∧ Safety.SameEngines s u))) ∧
   (∀ (s : State) (off : Nat), Safety.Operating s → s.dev.mgmt.run = none → s.dev.i3c.dyn.isSome = true → off < 2 ^ 32 →
     exec (.i3cPrivateWrite (toLe 4 off)) s = .next (s.onDev { s.dev with i3c := { s.dev.i3c with readPtr := off },
                                                                          i3cPort := { s.dev.i3cPort with answer := .done } })) ∧
   (∀ s : State, Safety.Operating s → s.dev.mgmt.run = none → s.dev.i3c.dyn.isSome = true →
     let off := s.dev.i3c.readPtr
     let n := if (busTarget off 8).isSome then 8 else 4
     exec .i3cPrivateRead s = .next (s.onDev (s.dev.busRead .i3c off n)) ∧
     (∀ t, busTarget off n = some t → t.half = .whole → t.r.base ∉ [Reg.loupeData, Reg.loupeSel, Reg.mgmtArg 0] →
       exec .i3cPrivateRead s = .next (s.onDev { s.dev with i3cPort := { s.dev.i3cPort with
         answer := .data n (BitVec.ofNat 64 (t.r.shown (s.dev.current t.r t.i t.j t.off))) } })) ∧
     (busTarget off n = none → exec .i3cPrivateRead s = .next (s.onDev (s.dev.errResp .i3c 1 off n false)))) ∧
   (∀ off, 2 ^ 28 ≤ off → busTarget off 8 = none ∧ busTarget off 4 = none))

/-! Loupe and error log. -/

/-- R340, R341: LOUPE_TRIGGER on an armed Loupe latches a shadow of every register, holds it with its ID and source 1, and disarms; on a Loupe
that is not armed it only counts, but in the hub cycle of a latch by a source of a higher number it lends its code to SOURCE and counts nothing;
LOUPE_ARM clears HELD and arms; LOUPE_SCHEDULE for a stroke to come sets the pending snapshot, replacing one that was pending, and for a stroke
that has passed latches at once with LATE. R344, R345: entries wait at their blocks in the order of their hub cycle, then DOMAIN, then UNIT; the
staging FIFO takes up to 4 of them at a time, and loses and counts those whose turn comes while it holds 64; the log takes the oldest entry of the
FIFO into slot SEQ mod 256 with SEQ the old ERR_LOG_HEAD, which advances; a full log first gives up its oldest entry and counts it. A Loupe message
schedules a snapshot at its stroke, source 4, and one for a stroke that has passed latches at once with LATE (R342). -/
def Obligations.LoupeAndLog : Prop :=
  (∀ (s : State) (p : MPort) (id : Nat), Safety.Operating s → s.dev.reaches p = true → s.dev.mgmt.run = none → id < 2 ^ 16 →
     (s.dev.obs.armed = true → Safety.Gives (.loupeTrigger p id) s (fun t =>
       t.dev.snap = some { s.dev.toBlocks with obs := { s.dev.obs with cmdId := id } } ∧ t.dev.obs.armed = false ∧ t.dev.obs.held = true ∧
       t.dev.obs.id = id ∧ t.dev.obs.source = 1 ∧ t.dev.obs.latchedAt = some s.dev.glb.hubNow ∧ t.dev.rd Reg.loupeStroke = s.dev.stroke ∧
       Safety.SameRegsBut [Reg.loupeStroke] s t ∧ Safety.SameMemory s t ∧ Safety.SameEngines s t)) ∧
     (s.dev.obs.armed = false → (s.dev.obs.latchedAt = some s.dev.glb.hubNow → s.dev.obs.source = 1) →
       Safety.Gives (.loupeTrigger p id) s (fun t =>
         t.dev.snap = s.dev.snap ∧ t.dev.rd Reg.loupeCntIgnored = (s.dev.rd Reg.loupeCntIgnored + 1) % 2 ^ 64 ∧
         t.dev.obs = { s.dev.obs with cmdId := id } ∧
         Safety.SameRegsBut [Reg.loupeCntIgnored] s t ∧ Safety.SameMemory s t ∧ Safety.SameEngines s t)) ∧
     (s.dev.obs.armed = false → s.dev.obs.latchedAt = some s.dev.glb.hubNow → 1 < s.dev.obs.source →
       Safety.Gives (.loupeTrigger p id) s (fun t =>
         t.dev.snap = s.dev.snap ∧ t.dev.obs.source = 1 ∧ t.dev.obs.id = id ∧ t.dev.obs.armed = false ∧
         Safety.SameRegsBut [] s t ∧ Safety.SameMemory s t ∧ Safety.SameEngines s t)) ∧
     Safety.Gives (.loupeArm p) s (fun t => t.dev.obs.armed = true ∧ t.dev.obs.held = false ∧ t.dev.snap = s.dev.snap ∧
       Safety.SameRegsBut [] s t ∧ Safety.SameMemory s t ∧ Safety.SameEngines s t) ∧
     (s.dev.stroke < s.dev.rd Reg.loupeAt → Safety.Gives (.loupeSchedule p id false) s (fun t =>
       t.dev.obs.pending = some (s.dev.rd Reg.loupeAt, 3, id) ∧ t.dev.snap = s.dev.snap ∧
       (s.dev.obs.pending.isSome = true → t.dev.rd Reg.loupeCntIgnored = (s.dev.rd Reg.loupeCntIgnored + 1) % 2 ^ 64) ∧
       Safety.SameRegsBut [Reg.loupeCntIgnored] s t ∧ Safety.SameMemory s t ∧ Safety.SameEngines s t)) ∧
     (s.dev.rd Reg.loupeAt ≤ s.dev.stroke → s.dev.obs.armed = true → Safety.Gives (.loupeSchedule p id false) s (fun t =>
       t.dev.snap.isSome = true ∧ t.dev.obs.late = true ∧ t.dev.obs.source = 3 ∧ t.dev.obs.id = id ∧ t.dev.obs.pending = none ∧
       t.dev.obs.held = true ∧ t.dev.obs.armed = false ∧ t.dev.rd Reg.loupeStroke = s.dev.stroke ∧
       Safety.SameRegsBut [Reg.loupeStroke, Reg.loupeCntIgnored] s t ∧ Safety.SameMemory s t ∧ Safety.SameEngines s t))) ∧
  ((∀ (d : Dev) (e : LogEntry), d.obs.waiting.Pairwise (fun x y => y.before x = false) →
     (d.log e).obs.waiting.Pairwise (fun x y => y.before x = false) ∧ (d.log e).obs.waiting.length = d.obs.waiting.length + 1) ∧
   (∀ d : Dev, d.flag Reg.loupeCtrl 0 = false →
     let ready := d.obs.waiting.take 4
     let room := 64 - d.obs.fifo.length
     d.logIntake.obs.waiting = d.obs.waiting.drop 4 ∧ d.logIntake.obs.fifo = d.obs.fifo ++ ready.take room ∧
     d.logIntake.rd Reg.errCntLost = (d.rd Reg.errCntLost + (ready.length - room)) % 2 ^ 64 ∧
     (∀ off, off ≠ Reg.errCntLost → d.logIntake.rd off = d.rd off)) ∧
   (∀ (s : State) (e : LogEntry) (rest : List LogEntry), Safety.Operating s → s.dev.logIntake.obs.fifo = e :: rest →
     s.dev.flag Reg.loupeCtrl 0 = false →
     let head := s.dev.rd Reg.errLogHead
     let full : Prop := (head + 2 ^ 32 - s.dev.rd Reg.errLogTail) % 2 ^ 32 = 256
     Safety.Gives .errorLogWrite s (fun t =>
       t.dev.obs.fifo = rest ∧ t.dev.obs.waiting = s.dev.obs.waiting.drop 4 ∧
       (head % 256, head, e) ∈ t.dev.obs.slots ∧ t.dev.rd Reg.errLogHead = (head + 1) % 2 ^ 32 ∧
       (¬ full → Safety.SameRegsBut [Reg.errLogHead, Reg.errCntLost] s t) ∧
       (full → t.dev.rd Reg.errLogTail = (s.dev.rd Reg.errLogTail + 1) % 2 ^ 32 ∧
         t.dev.rd Reg.errCntOverwritten = (s.dev.rd Reg.errCntOverwritten + 1) % 2 ^ 64) ∧
       Safety.SameRegsBut [Reg.errLogHead, Reg.errLogTail, Reg.errCntOverwritten, Reg.errCntLost] s t ∧ Safety.SameMemory s t ∧
       Safety.SameEngines s t)) ∧
   (∀ (s : State) (m : FilMsg) (d : Dev), Safety.Operating s → s.dev.filTake 6 = (some m, d) → s.dev.obs.pending = none →
     (s.dev.stroke < leNat (m.data.take 8) →
       exec .loupeMessage s =
         .next (s.onDev { d with obs := { s.dev.obs with pending := some (leNat (m.data.take 8), 4, m.key % 2 ^ 16) } })) ∧
     (leNat (m.data.take 8) ≤ s.dev.stroke → s.dev.obs.armed = true → Safety.Gives .loupeMessage s (fun t =>
       t.dev.snap = some d.toBlocks ∧ t.dev.obs.late = true ∧ t.dev.obs.source = 4 ∧ t.dev.obs.id = m.key % 2 ^ 16 ∧ t.dev.obs.pending = none ∧
       Safety.SameRegsBut [Reg.loupeStroke] s t ∧ Safety.SameMemory s t ∧ Safety.SameEngines s t))))

/-- R343: a write of a BAR0 offset to LOUPE_SEL selects that register's shadow for the port that wrote it and for no other; LOUPE_DATA then reads
the shadow, below 2^32 for a 32-bit register, and an offset without a shadow gives an error response. -/
def Obligations.LoupeShadows : Prop :=
  (∀ (s : State) (p : MPort) (v : W64), Safety.Writable s p → v.toNat < 2 ^ 28 →
    Safety.Gives (.registerWrite p Reg.loupeSel 4 v) s (fun t =>
      (t.dev.bus p).loupeSel = v.toNat ∧ (t.dev.bus p).answer = .done ∧ (∀ q, q ≠ p → t.dev.bus q = s.dev.bus q) ∧
      t.dev.snap = s.dev.snap ∧ Safety.SameRegsBut [] s t ∧ Safety.SameMemory s t ∧ Safety.SameEngines s t)) ∧
  (∀ (s : State) (p : MPort), Safety.Operating s → s.dev.reaches p = true →
    let sel := (s.dev.bus p).loupeSel
    (∀ r i j b, regAt sel = some (r, i, j) → r.hasShadow = true → s.dev.snap = some b →
      exec (.registerRead p Reg.loupeData 8) s =
        .next (s.onDev (s.dev.modBus p (fun x => { x with answer := .data 8 (BitVec.ofNat 64 (r.shown (b.current r i j sel))) })))) ∧
    ((∀ r i j, regAt sel = some (r, i, j) → r.hasShadow = false) →
      exec (.registerRead p Reg.loupeData 8) s = .next (s.onDev (s.dev.errResp p 1 Reg.loupeData 8 false)))) ∧
  (∀ off r i j v, regAt off = some (r, i, j) → r.wide = false → r.shown v < 2 ^ 32)

/-! Rings. -/

/-- R297: setting ENABLE of a ring whose context is LIVE, whose KIND is not reserved and, for a capture ring, when no other is enabled, takes
the value written, sets the four queue indices to 0 and clears the status window; the three cases of the rule are refused and nothing of the
ring changes. -/
def Obligations.RingEnable : Prop :=
  (∀ (s : State) (p : MPort) (ring : Nat) (v : W32), Safety.Writable s p → ring < 4096 → bitOf v.toNat 0 = true →
    Safety.Fits (Reg.ringCtrl ring) v.toNat → s.dev.ringLocked ring = false → (s.dev.ctx (bitsOf v.toNat 13 8)).mode = .live →
    bitsOf v.toNat 2 1 ≠ 3 → (bitsOf v.toNat 2 1 = 2 → s.dev.captureRing = none) →
    Safety.Gives (.ringEnable p ring v) s (fun t =>
      t.dev.rd (Reg.ringCtrl ring) = v.toNat ∧ t.dev.rd (Reg.ringSqHead ring) = 0 ∧ t.dev.rd (Reg.ringSqTail ring) = 0 ∧
      t.dev.rd (Reg.ringCqHead ring) = 0 ∧ t.dev.rd (Reg.ringCqTail ring) = 0 ∧ (t.dev.ring ring).ended = [] ∧
      (∀ r, r ≠ ring → t.dev.ring r = s.dev.ring r) ∧
      Safety.SameRegsBut [Reg.ringCtrl ring, Reg.ringSqHead ring, Reg.ringSqTail ring, Reg.ringCqHead ring, Reg.ringCqTail ring] s t ∧
      Safety.SameMemory s t ∧ t.dev.jobs = s.dev.jobs ∧ t.dev.ctxs = s.dev.ctxs)) ∧
  (∀ (s : State) (p : MPort) (ring : Nat) (v : W32), Safety.Writable s p → ring < 4096 → bitOf v.toNat 0 = true →
    Safety.Fits (Reg.ringCtrl ring) v.toNat → bitOf (s.dev.rd (Reg.ringCtrl ring)) 0 = false →
    ((s.dev.ctx (bitsOf v.toNat 13 8)).mode ≠ .live ∨ bitsOf v.toNat 2 1 = 3 ∨ (bitsOf v.toNat 2 1 = 2 ∧ s.dev.captureRing.isSome = true)) →
    exec (.ringEnable p ring v) s = .next (s.onDev (s.dev.writeErr p 4 (Reg.ringCtrl ring) 4)))

/-- R306: a write of PRIO sets the level at which the ring competes, clears the starvation count and an unused promotion, and leaves a grant
that is held and every command alone; a ring that is disabled while it holds the grant keeps its granted command, fetches nothing more and
keeps what it fetched. -/
def Obligations.PriorityChangeAndDisable : Prop :=
  (∀ (s : State) (p : MPort) (ring prio : Nat), Safety.Writable s p → ring < 4096 → prio < 8 →
    Safety.Fits (Reg.ringCtrl ring) (s.dev.rd (Reg.ringCtrl ring)) →
    Safety.Gives (.ringPrioWrite p ring prio) s (fun t =>
      t.dev.level ring = prio ∧ (t.dev.ring ring).starve = 0 ∧ (t.dev.ring ring).promoted = false ∧ t.dev.granted = s.dev.granted ∧
      t.dev.jobs = s.dev.jobs ∧ (t.dev.ring ring).fetched = (s.dev.ring ring).fetched ∧
      t.dev.rd (Reg.ringCtrl ring) = setBits (s.dev.rd (Reg.ringCtrl ring)) 6 4 prio ∧
      Safety.SameRegsBut [Reg.ringCtrl ring] s t ∧ Safety.SameMemory s t)) ∧
  (∀ (s : State) (p : MPort) (ring : Nat), Safety.Writable s p → ring < 4096 →
    Safety.Fits (Reg.ringCtrl ring) (s.dev.rd (Reg.ringCtrl ring)) →
    Safety.Gives (.ringDisable p ring) s (fun t =>
      t.dev.rd (Reg.ringCtrl ring) = setBits (s.dev.rd (Reg.ringCtrl ring)) 0 0 0 ∧ t.dev.granted = s.dev.granted ∧
      t.dev.jobs = s.dev.jobs ∧ (t.dev.ring ring).fetched = (s.dev.ring ring).fetched ∧ t.dev.headState ring = .empty ∧
      (∀ fuel, t.dev.fetchCmds ring fuel = t.dev) ∧ Safety.SameRegsBut [Reg.ringCtrl ring] s t ∧ Safety.SameMemory s t))

/-- R298: a doorbell of an enabled command ring that is neither backward nor beyond the queue's size takes the new tail and changes nothing else;
any other is refused with REG_REJECTED. R298, R299: the fetch of the one submitted command of a ring whose queue lies in host memory reads its 64
bytes at its SQ entry, after what the host stored before, and advances RING_SQ_HEAD; a valid command joins the fetched ones and an invalid one
completes at once with BAD_CMD. -/
def Obligations.DoorbellsAndFetch : Prop :=
  (∀ (s : State) (p : MPort) (ring : Nat) (v : W32), Safety.Writable s p → ring < 4096 → v.toNat < 2 ^ 16 →
     let gap (t : Nat) : Nat := (t + 65536 - s.dev.rd (Reg.ringSqHead ring)) % 65536
     (s.dev.isCommandRing ring = true → gap v.toNat ≤ 2 ^ s.dev.fld (Reg.ringSize ring) 3 0 →
       gap (s.dev.rd (Reg.ringSqTail ring)) ≤ gap v.toNat →
       exec (.doorbell p ring v) s = .next (s.onDev (Safety.Done (s.dev.wr (Reg.ringSqTail ring) v.toNat) p))) ∧
     (¬ (s.dev.isCommandRing ring = true ∧ gap v.toNat ≤ 2 ^ s.dev.fld (Reg.ringSize ring) 3 0 ∧
         gap (s.dev.rd (Reg.ringSqTail ring)) ≤ gap v.toNat) →
       exec (.doorbell p ring v) s = .next (s.onDev (s.dev.writeErr p 4 (Reg.ringSqTail ring) 4)))) ∧
  (∀ (s : State) (ring : Nat) (host : HostStores) (ecc : Ecc), Safety.Operating s → ring < 4096 → s.dev.isCommandRing ring = true →
     s.dev.flag (Reg.ringSqBase ring) 0 = false →
     let seq := s.dev.rd (Reg.ringSqHead ring)
     let d : Dev := { s.dev with hostMem := host.foldl (fun m e => memSet m e.1 e.2) s.dev.hostMem }
     let cmd := memRead d.hostMem (s.dev.sqAddr ring seq) 64
     let e := (d.wr (Reg.ringSqHead ring) ((seq + 1) % 65536)).modRing ring (fun x => { x with ended := x.ended.filter (fun e => e.1 ≠ seq) })
     s.dev.rd (Reg.ringSqTail ring) = (seq + 1) % 65536 → s.dev.inWindow ring seq = true → seq ∉ (s.dev.ring ring).cancelled →
     (e.badCmd ring seq cmd = false →
       let f := e.modRing ring (fun x => { x with fetched := x.fetched ++ [(seq, cmd)] })
       Safety.HeadsAtRest f → exec (.commandFetch ring host ecc) s = .next (s.onDev f)) ∧
     (e.badCmd ring seq cmd = true →
       let f := e.endUngranted ring seq cmd 0xB3
       Safety.HeadsAtRest f → exec (.commandFetch ring host ecc) s = .next (s.onDev f)))

/-- R303, R304: with the heads at rest, the arbiter grants the ready ring that it chooses, hands the head to its engine as a granted command of
the ring's context, counts it and restarts the starvation count; the ring chosen is ready, no ready ring has a better level, and at its own level
none comes before it in the round after the ring last granted. With no ready ring nothing is granted. Commands without a Hallmark occurrence and
without a stage tag; for a first PROGRAM or STEP an occurrence of its HLAYER opens with it (R373). R305, R308, R310: a ring below level 0 whose
starvation count has reached 256 × LIMIT is promoted one level, and no other; a record enters a command ring's CQ in host memory when there is
room, at RING_CQ_HEAD, which advances; a full CQ keeps it waiting. -/
def Obligations.GrantsAndPromotion : Prop :=
  ((∀ (s : State) (r seq : Nat) (cmd : List Byte) (rest : List (Nat × List Byte)), Safety.Operating s → Safety.HeadsAtRest s.dev →
     s.dev.grantee = some r → (s.dev.ring r).fetched = (seq, cmd) :: rest → (s.dev.ring r).promoted = false → cmdStage cmd = none →
     cmdOp cmd ∉ [1, 2, 7] → s.dev.job? r seq = none →
     exec .commandGrant s = .next (s.onDev
       { (({ s.dev with granted := some r, lastGrant := tabSet 4095 s.dev.lastGrant (s.dev.level r) r } : Dev).modRing r
           (fun x => { x with fetched := rest, starve := 0, promoted := false })).bump (Reg.ringCntCmds r) 1 with
         jobs := s.dev.jobs ++ [{ ring := r, seq := seq, ctx := s.dev.ringCtx r, cmd := cmd }] })) ∧
   (∀ (s : State) (r seq : Nat) (cmd : List Byte) (rest : List (Nat × List Byte)), Safety.Operating s → Safety.HeadsAtRest s.dev →
     s.dev.grantee = some r → (s.dev.ring r).fetched = (seq, cmd) :: rest → cmdStage cmd = none → cmdOp cmd ∈ [1, 2] →
     (s.dev.ctx (s.dev.ringCtx r)).occs = [] → s.dev.job? r seq = none →
     Safety.Gives .commandGrant s (fun t =>
       t.dev.granted = some r ∧ (t.dev.ring r).fetched = rest ∧
       t.dev.job? r seq = some { ring := r, seq := seq, ctx := s.dev.ringCtx r, cmd := cmd, occ := some s.dev.tb.occId } ∧
       (t.dev.ctx (s.dev.ringCtx r)).occs.map (fun o => (o.id, o.hlayer, o.closed, o.jobs)) =
         [(s.dev.tb.occId, cmdHlayer cmd, false, [(r, seq)])])) ∧
   (∀ (b : Blocks) (r : Nat), b.grantee = some r →
     b.headState r = .ready ∧ r ∈ b.enabledRings ∧
     (∀ q ∈ b.enabledRings, b.headState q = .ready → b.level r ≤ b.level q ∧
       (b.level q = b.level r → (r + 4095 - tabGet 4095 b.lastGrant (b.level r)) % 4096 ≤ (q + 4095 - tabGet 4095 b.lastGrant (b.level r)) % 4096))) ∧
   (∀ s : State, Safety.Operating s → Safety.HeadsAtRest s.dev → s.dev.grantee = none →
     exec .commandGrant s = .next (s.onDev { s.dev with granted := none }))) ∧
  ((∀ (s : State) (r : Nat), Safety.Operating s → r < 4096 →
     let due := s.dev.fld (Reg.ringStarve r) 15 0 ≠ 0 ∧ s.dev.fld (Reg.ringCtrl r) 6 4 ≠ 0 ∧
       256 * s.dev.fld (Reg.ringStarve r) 15 0 ≤ (s.dev.ring r).starve
     (due → exec (.promotion r) s = .next (s.onDev (s.dev.modRing r (fun x => { x with promoted := true })))) ∧
     (¬ due → exec (.promotion r) s = .next s)) ∧
   (∀ (s : State) (r : Nat) (x : Record) (rest : List Record), Safety.Operating s → r < 4096 → (s.dev.ring r).hold = x :: rest →
     s.dev.cqFull r = false → s.dev.flag (Reg.ringCqBase r) 0 = false → s.dev.flag (Reg.ringCtrl r) 27 = false →
     let head := s.dev.rd (Reg.ringCqHead r)
     let a := s.dev.rd (Reg.ringCqBase r) / 4096 * 4096 + head % 2 ^ s.dev.fld (Reg.ringSize r) 11 8 * 32
     let d : Dev := { s.dev.modRing r (fun y => { y with hold := rest }) with hostMem := memWrite s.dev.hostMem a (padTo 32 x.bytes) }
     Safety.HeadsAtRest (d.wr (Reg.ringCqHead r) ((head + 1) % 65536)) →
     exec (.completionRecordWrite r) s = .next (s.onDev (d.wr (Reg.ringCqHead r) ((head + 1) % 65536)))) ∧
   (∀ (s : State) (r : Nat), Safety.Operating s → s.dev.cqFull r = true → exec (.completionRecordWrite r) s = .next s))

/-- R307: a cancel of a command that is fetched and not granted completes it with CANCELLED and removes it; of a granted command it is TOO_LATE
and its record will carry CANCEL_LATE; of a SEQ the ring does not hold, or on a ring of another kind, it is NOT_FOUND. RING_CANCEL_STATUS shows
the SEQ and the result, and no starvation count changes. R308, R309: a command that ends leaves the granted commands, its result stands in the
ring's window for prerequisites, and its record waits for the CQ unless the command is SILENT and ended OK; no other ring, register or memory
changes. The granted NOP of a ring ends so with status OK. -/
def Obligations.CancelAndCompletion : Prop :=
  (∀ (s : State) (p : MPort) (ring seq : Nat), Safety.Writable s p → ring < 4096 → seq < 2 ^ 16 →
     let c : Instr := .ringCancel p ring (BitVec.ofNat 32 seq)
     (s.dev.fld (Reg.ringCtrl ring) 2 1 = 0 → (s.dev.ring ring).fetched.find? (fun f => f.1 = seq) = none →
       (s.dev.job? ring seq).isSome = true →
       exec c s = .next (s.onDev (Safety.Done ((s.dev.modJob ring seq (fun j => { j with cancelLate := true })).wr
         (Reg.ringCancelStatus ring) (2 * 65536 + seq)) p))) ∧
     (s.dev.fld (Reg.ringCtrl ring) 2 1 ≠ 0 →
       exec c s = .next (s.onDev (Safety.Done (s.dev.wr (Reg.ringCancelStatus ring) (3 * 65536 + seq)) p))) ∧
     (s.dev.fld (Reg.ringCtrl ring) 2 1 = 0 → s.dev.isPending ring seq = false → (s.dev.ring ring).ended.any (fun e => e.1 = seq) = false →
       (s.dev.rd (Reg.ringSqTail ring) + 65536 - s.dev.rd (Reg.ringSqHead ring)) % 65536 ≤
         (seq + 65536 - s.dev.rd (Reg.ringSqHead ring)) % 65536 →
       exec c s = .next (s.onDev (Safety.Done (s.dev.wr (Reg.ringCancelStatus ring) (3 * 65536 + seq)) p))) ∧
     (∀ cmd, s.dev.fld (Reg.ringCtrl ring) 2 1 = 0 → (s.dev.ring ring).fetched.find? (fun f => f.1 = seq) = some (seq, cmd) →
       cmdStage cmd = none →
       let d := ((s.dev.modRing ring (fun x => { x with fetched := x.fetched.filter (fun f => f.1 ≠ seq) })).endUngranted ring seq cmd 0xB1).wr
         (Reg.ringCancelStatus ring) (65536 + seq)
       Safety.HeadsAtRest d → exec c s = .next (s.onDev (Safety.Done d p)) ∧ (d.ring ring).starve = (s.dev.ring ring).starve)) ∧
  ((∀ (d : Dev) (j : Job) (r : Record), (d.ctx j.ctx).stagePins = [] →
     let e := d.endJob j r
     e.job? j.ring j.seq = none ∧ (j.seq, decide (r.status = 0)) ∈ (e.ring j.ring).ended ∧
     (e.ring j.ring).hold = (if bitOf (fldOf j.cmd 0 31 0) 9 = true ∧ r.status = 0 then (d.ring j.ring).hold else (d.ring j.ring).hold ++ [r]) ∧
     (∀ q, q ≠ j.ring → e.ring q = d.ring q) ∧ e.regs = d.regs ∧ e.hbm = d.hbm ∧ e.vault = d.vault ∧ e.loc = d.loc ∧ e.hostMem = d.hostMem) ∧
   (∀ (s : State) (ring seq : Nat) (j : Job), Safety.Operating s → s.dev.takes ring seq 0 = some j → j.occ = none →
     exec (.nop ring seq) s = .next (s.onDev (s.dev.endJob j (s.dev.recordOf j 0 false 0 0)))))

/-! Buffer pools. -/

/-- R151, R152, R154: the buffer that an allocation takes lies in its partition, is free and not in a quarantined word, and every lower buffer of
the partition is taken or quarantined; the class is the smallest whose buffers hold the size, and a class without a free buffer in the
partition refuses. -/
def Obligations.PoolPicksLowestFree : Prop :=
  (∀ (b : Blocks) (k p n : Nat), b.poolPick k p = some n →
    b.partFirst k p ≤ n / 64 ∧ n / 64 < b.partFirst k p + b.partWords k p ∧ b.mapBit k n = false ∧ n / 64 ∉ (b.poolClass k).bad ∧
    ∀ m, b.partFirst k p ≤ m / 64 → m < n → b.mapBit k m = true) ∧
  (∀ (b : Blocks) (k p : Nat), b.poolPick k p = none →
    ∀ m, b.partFirst k p ≤ m / 64 → m / 64 < b.partFirst k p + b.partWords k p → b.mapBit k m = true) ∧
  (∀ size k, classFor size = some k → k < 8 ∧ size ≤ classBytes k ∧ ∀ j, j < k → classBytes j < size) ∧
  (∀ size, classFor size = none → 2 ^ 22 < size)

/-- R152 to R154: an allocation of the hardware marks the chosen buffer, writes its owner tag (SUB, CONTEXT, PART, VALID), counts it and answers
its address; a refusal answers 0, counts in POOL_CNT_EMPTY and changes nothing else. A ring's POOL_ALLOC in the general partition completes with
the same pointer. R156, R157: a free that passes the four checks in their order clears the buffer's bit and its tag's VALID and counts it; a
failing check of a hardware free is logged with its code and the pointer and changes nothing of the pool, and one of a buffer that a reclaim took
is counted as stale without an entry. A ring's POOL_FREE that passes frees and completes. -/
def Obligations.PoolAllocAndFree : Prop :=
  ((∀ (s : State) (who : PoolUser) (size ctx sub k n : Nat), Safety.Operating s → s.dev.flag Reg.poolCtrl 0 = true →
     (s.dev.ctx ctx).mode ≠ .tearing → classFor size = some k →
     let p := match who with | .re _ => 0 | _ => 2
     s.dev.poolPick k p = some n →
     let d := ((s.dev.setMapBit k n 1).setTag k n (sub % 65536 + ctx * 2 ^ 22 + p * 2 ^ 28 + 2 ^ 31)).bump Reg.poolCntAlloc 1
     exec (.poolAllocation who size ctx sub) s =
       .next (s.onDev { d with pool := { d.pool with reply := s.dev.bufAddr k n,
                                                     reclaimed := d.pool.reclaimed.filter (· ≠ s.dev.bufAddr k n) } })) ∧
   (∀ (s : State) (who : PoolUser) (size ctx sub k : Nat), Safety.Operating s → classFor size = some k →
     let p := match who with | .re _ => 0 | _ => 2
     (s.dev.flag Reg.poolCtrl 0 = false ∨ (s.dev.ctx ctx).mode = .tearing ∨ s.dev.poolPick k p = none) →
     exec (.poolAllocation who size ctx sub) s =
       .next (s.onDev { s.dev.bump Reg.poolCntEmpty 1 with pool := { s.dev.pool with reply := 0 } })) ∧
   (∀ (s : State) (ring seq : Nat) (j : Job), Safety.Operating s → s.dev.takes ring seq 5 = some j → j.occ = none →
     fldOf j.cmd 28 17 16 = 3 → 1 ≤ fldOf j.cmd 24 22 0 → fldOf j.cmd 24 22 0 ≤ 4194304 →
     let (ptr, d) := s.dev.alloc (fldOf j.cmd 24 22 0) 3 j.ctx (fldOf j.cmd 28 15 0)
     d.job? ring seq = some j →
     exec (.poolAlloc ring seq) s = .next (s.onDev (d.endJob j (d.recordOf j 0 false ptr 0))))) ∧
  ((∀ (b : Blocks) (ptr : Nat) (owner : Option Nat) (k n : Nat), b.checkFree ptr owner = .inr (k, n) →
     k < 8 ∧ ptr = b.bufAddr k n ∧ n / 64 < b.classWords k ∧ tagValid (b.tag k n) = true ∧
     (∀ c, owner = some c → tagCtx (b.tag k n) = c ∧ (tagPart (b.tag k n) = 1 ∨ tagPart (b.tag k n) = 3))) ∧
   (∀ (s : State) (who : PoolUser) (ptr k n : Nat), Safety.Operating s → s.dev.checkFree ptr none = .inr (k, n) → tagPart (s.dev.tag k n) ≠ 1 →
     exec (.hardwareFree who ptr) s = .next (s.onDev
       (((s.dev.setMapBit k n 0).setTag k n (setBits (s.dev.tag k n) 31 31 0)).bump Reg.poolCntFree 1))) ∧
   (∀ (s : State) (who : PoolUser) (ptr code : Nat), Safety.Operating s → s.dev.checkFree ptr none = .inl code →
     (ptr ∉ s.dev.pool.reclaimed →
       exec (.hardwareFree who ptr) s = .next (s.onDev (s.dev.log { code := code, domain := 35, addr := ptr, kind := 1 }))) ∧
     (ptr ∈ s.dev.pool.reclaimed →
       exec (.hardwareFree who ptr) s = .next (s.onDev
         (({ s.dev with pool := { s.dev.pool with reclaimed := s.dev.pool.reclaimed.filter (· ≠ ptr) } } : Dev).bump Reg.poolCntStale 1)))) ∧
   (∀ (s : State) (ring seq k n : Nat) (j : Job), Safety.Operating s → s.dev.takes ring seq 6 = some j → j.occ = none →
     s.dev.checkFree (fldOf j.cmd 32 47 0) (some j.ctx) = .inr (k, n) → (s.dev.freeBuf k n).job? ring seq = some j →
     exec (.poolFree ring seq) s = .next (s.onDev ((s.dev.freeBuf k n).endJob j ((s.dev.freeBuf k n).recordOf j 0 false 0 0)))))

/-- R157 to R159, Table 6.5: a reclaim frees every allocated buffer whose valid tag its pattern matches, however many there are: the bitmap bit
and the tag's VALID are cleared, each is counted, a hardware owner's pointer is remembered as reclaimed, and every other buffer stands. The
auditor's pass with AUDIT_EN = 0 does nothing; with AUDIT_EN = 1 each mismatch, dead owner and stale buffer is logged with code 0x57 and its
pointer and counted in POOL_CNT_LEAK, a hardware buffer seen for the first time is marked SEEN, and with RECLAIM a mismatched bit follows its tag
and a dead owner's buffer is freed, a stale one is only reported; any other buffer stands. A correctable error of a bitmap word is corrected
and counted, after an uncorrectable one the word is rebuilt from the tags into a spare and counted, or, without a spare, is quarantined. -/
def Obligations.ReclaimAuditRebuild : Prop :=
  (∀ (s : State) (pat : Reclaim), Safety.Operating s → Safety.PoolPlaced s →
    Safety.Gives (.tagReclaim pat) s (fun t =>
      (∀ k n, k < 8 → n < 64 * s.dev.classWords k →
        (Safety.reclaimed s pat k n = true →
          t.dev.tag k n = setBits (s.dev.tag k n) 31 31 0 ∧ t.dev.mapBit k n = Safety.quarantined s k n ∧
          (tagPart (s.dev.tag k n) = 0 ∨ tagPart (s.dev.tag k n) = 2 → s.dev.bufAddr k n ∈ t.dev.pool.reclaimed)) ∧
        (Safety.reclaimed s pat k n = false → t.dev.tag k n = s.dev.tag k n ∧ t.dev.mapBit k n = s.dev.mapBit k n)) ∧
      t.dev.rd Reg.poolCntFree = (s.dev.rd Reg.poolCntFree + Safety.countBufs s (Safety.reclaimed s pat)) % 2 ^ 64 ∧
      Safety.PoolFrame [Reg.poolCntFree] s t ∧ t.dev.obs = s.dev.obs)) ∧
  (∀ s : State, Safety.Operating s → s.dev.flag Reg.poolCtrl 1 = false → exec .auditPass s = .next s) ∧
  (∀ s : State, Safety.Operating s → s.dev.flag Reg.poolCtrl 1 = true → Safety.PoolPlaced s → Safety.SlotsApart s →
    let act := s.dev.flag Reg.poolCtrl 2
    Safety.Gives .auditPass s (fun t =>
      (∀ k n, k < 8 → n < 64 * s.dev.classWords k →
        (Safety.leaked s k n = true → ∃ e ∈ t.dev.obs.waiting, e.code = 0x57 ∧ e.addr = s.dev.bufAddr k n % 2 ^ 48) ∧
        (Safety.audited s k n = true → s.dev.audit k n = .mark →
          t.dev.tag k n = setBits (s.dev.tag k n) 30 30 1 ∧ t.dev.mapBit k n = s.dev.mapBit k n) ∧
        (Safety.audited s k n = true → s.dev.audit k n = .mismatch → act = true →
          t.dev.tag k n = s.dev.tag k n ∧ t.dev.mapBit k n = tagValid (s.dev.tag k n)) ∧
        (Safety.audited s k n = true → s.dev.audit k n = .dead → act = true →
          t.dev.tag k n = setBits (s.dev.tag k n) 31 31 0 ∧ t.dev.mapBit k n = Safety.quarantined s k n) ∧
        (Safety.audited s k n = false ∨ s.dev.audit k n = .fine ∨ s.dev.audit k n = .stale ∨ (act = false ∧ s.dev.audit k n ≠ .mark) →
          t.dev.tag k n = s.dev.tag k n ∧ t.dev.mapBit k n = s.dev.mapBit k n)) ∧
      t.dev.rd Reg.poolCntLeak = (s.dev.rd Reg.poolCntLeak + Safety.countBufs s (Safety.leaked s)) % 2 ^ 64 ∧
      t.dev.obs.waiting.length = s.dev.obs.waiting.length + Safety.countBufs s (Safety.leaked s) ∧
      Safety.PoolFrame [Reg.poolCntFree, Reg.poolCntLeak, Reg.poolLeakAddr] s t)) ∧
  (∀ (s : State) (k w : Nat), Safety.Operating s → k < 8 → w < 1024 →
    exec (.bitmapRebuild k w true) s = .next (s.onDev (s.dev.modClass k (fun c => { c with corr := c.corr + 1 }))) ∧
    (0 < (s.dev.poolClass k).spares →
      exec (.bitmapRebuild k w false) s = .next (s.onDev ((s.dev.modClass k (fun c =>
        { c with spares := c.spares - 1, words := tabSet 0 c.words w (BitVec.ofNat 64 (s.dev.wordFromTags k w)) })).bump Reg.poolCntRebuilt 1)) ∧
      (s.dev.pool.classes.length = 8 → w ∉ (s.dev.poolClass k).bad → Safety.Gives (.bitmapRebuild k w false) s (fun t =>
        ∀ j, j < 64 → t.dev.mapBit k (64 * w + j) = tagValid (s.dev.tag k (64 * w + j))))) ∧
    ((s.dev.poolClass k).spares = 0 → w ∉ (s.dev.poolClass k).bad →
      exec (.bitmapRebuild k w false) s =
        .next (s.onDev (s.dev.modClass k (fun c => { c with bad := c.bad ++ [w], lost := c.lost + 1 })))) ∧
    ((s.dev.poolClass k).spares = 0 → w ∈ (s.dev.poolClass k).bad → exec (.bitmapRebuild k w false) s = .next s))

/-! Optical ports. -/

/-- R173, R179, R181, R184, Table 7.3: ENABLE takes a disabled port to DARK, where it asks for its 6 carats; light on at least 4 lanes takes WAKE
to LOCK; lock and deskew take LOCK to EXCHANGE with the lanes that locked; the peer's training pattern takes RETRAIN to LOCK; the retrain interval
takes FAILED back to DARK with AUTO_RETRAIN, unless only a management retrain may. In any other state each of these events changes nothing of the
port. R180 to R182, Table 7.12: the loss of light, of codeword lock and of the recovered clock take a trained or training port to FAILED with
event 0x61, 0x62 and 0x6A, a time limit takes LOCK, EXCHANGE and RETRAIN there with 0x68; the port darkens, gives its carats back, hands its
unacknowledged cells back for re-injection marked as possible copies, and the loss is counted. Clearing ENABLE does the same to DISABLED without
an event. With no management command running. -/
def Obligations.PortTrainingAndLoss : Prop :=
  ((∀ (s : State) (p : MPort) (n : Nat), Safety.Writable s p → n < 6 → Safety.Fits (Reg.fabPortCtrl n) (s.dev.rd (Reg.fabPortCtrl n)) →
     s.dev.flag (Reg.fabPortCtrl n) 0 = false → (s.dev.optPort n).st = .disabled → s.dev.holds (584 + n) = 0 → s.dev.glb.stopped = false →
     Safety.Gives (.portEnable p n) s (fun t =>
       (t.dev.optPort n).st = .dark ∧ (∃ r ∈ t.dev.pwr.waiting, r.req = 584 + n) ∧ t.dev.flag (Reg.fabPortCtrl n) 0 = true ∧
       (∀ m, m ≠ n → t.dev.optPort m = s.dev.optPort m) ∧ Safety.SameRegsBut [Reg.fabPortCtrl n] s t ∧ Safety.SameMemory s t)) ∧
   (∀ (s : State) (n lanes : Nat), Safety.Operating s → n < 6 →
     ((s.dev.optPort n).st = .wake → 4 ≤ (lanesOf lanes).length →
       exec (.lightDetected n lanes) s = .next (s.onDev (s.dev.modPort n (fun p => { p with st := .lock, light := true })))) ∧
     ((s.dev.optPort n).st = .lock → Safety.Gives (.lockAchieved n lanes) s (fun t =>
       (t.dev.optPort n).st = .exchange ∧ (t.dev.optPort n).rxLocked = lanes % 1024 ∧ (t.dev.optPort n).fec = true ∧
       bitOf t.dev.clkLockView (41 + n) = true ∧ 41 + n ∈ t.dev.glb.lockedOnce ∧ t.dev.regs = s.dev.regs ∧
       ∀ m, m ≠ n → t.dev.optPort m = s.dev.optPort m)) ∧
     ((s.dev.optPort n).st = .retrain →
       exec (.trainingPatternSeen n) s = .next (s.onDev (s.dev.modPort n (fun p => { p with st := .lock, fec := false })))) ∧
     ((s.dev.optPort n).st = .failed → s.dev.flag (Reg.fabPortCtrl n) 2 = true → (s.dev.optPort n).sticky = false →
       s.dev.holds (584 + n) = 0 → s.dev.glb.stopped = false → Safety.Gives (.retrainInterval n) s (fun t =>
         (t.dev.optPort n).st = .dark ∧ (∃ r ∈ t.dev.pwr.waiting, r.req = 584 + n) ∧ t.dev.regs = s.dev.regs ∧
         ∀ m, m ≠ n → t.dev.optPort m = s.dev.optPort m)) ∧
     ((s.dev.optPort n).st ≠ .wake → exec (.lightDetected n lanes) s = .next s) ∧
     ((s.dev.optPort n).st ≠ .lock → exec (.lockAchieved n lanes) s = .next s) ∧
     ((s.dev.optPort n).st ≠ .retrain → exec (.trainingPatternSeen n) s = .next s) ∧
     ((s.dev.optPort n).st ≠ .failed ∨ s.dev.flag (Reg.fabPortCtrl n) 2 = false ∨ (s.dev.optPort n).sticky = true →
       exec (.retrainInterval n) s = .next s))) ∧
  ((∀ (s : State) (n code : Nat) (c : Instr), Safety.Operating s → n < 6 → s.dev.mgmt.run = none →
     ((c = .lightLost n ∧ code = 0x61 ∨ c = .fecLockLost n ∧ code = 0x62 ∨ c = .clockLost n ∧ code = 0x6A) ∧
         (s.dev.optPort n).st ∈ [.lock, .exchange, .quarantine, .active, .retrain] ∨
       c = .trainTimeout n ∧ code = 0x68 ∧ (s.dev.optPort n).st ∈ [.lock, .exchange, .retrain]) →
     Safety.Gives c s (fun t =>
       (t.dev.optPort n).st = .failed ∧ (t.dev.optPort n).lastEvent = code ∧ (t.dev.optPort n).retry = [] ∧
       (t.dev.optPort n).txActive = 0 ∧ (t.dev.optPort n).rxActive = 0 ∧ t.dev.holds (584 + n) = 0 ∧
       (∀ e ∈ (s.dev.optPort n).retry, { e.2 with cell := e.2.cell.withCopy, inPort := n } ∈ (t.dev.optPort n).rx) ∧
       t.dev.rd (Reg.fabPortCntDown n) = (s.dev.rd (Reg.fabPortCntDown n) + 1) % 2 ^ 64 ∧
       (∀ m, m ≠ n → t.dev.optPort m = s.dev.optPort m) ∧ Safety.SameMemory s t ∧ t.dev.cores = s.dev.cores)) ∧
   (∀ (s : State) (p : MPort) (n : Nat), Safety.Writable s p → n < 6 → Safety.Fits (Reg.fabPortCtrl n) (s.dev.rd (Reg.fabPortCtrl n)) →
     s.dev.flag (Reg.fabPortCtrl n) 0 = true → (s.dev.optPort n).st ≠ .disabled →
     Safety.Gives (.portDisable p n) s (fun t =>
       (t.dev.optPort n).st = .disabled ∧ (t.dev.optPort n).peerPlace = none ∧ (t.dev.optPort n).retry = [] ∧ t.dev.holds (584 + n) = 0 ∧
       (∀ e ∈ (s.dev.optPort n).retry, { e.2 with cell := e.2.cell.withCopy, inPort := n } ∈ (t.dev.optPort n).rx) ∧
       Safety.SameRegsBut [Reg.fabPortCtrl n, Reg.fabPortCntReinjected n] s t ∧
       (∀ m, m ≠ n → t.dev.optPort m = s.dev.optPort m) ∧ Safety.SameMemory s t)))

/-- R170 to R172: an undamaged data cell with the LSEQ expected is accepted once for the router and moves the expectation on; any other data
cell, a damaged one whatever its LSEQ, is discarded, and the first of an episode makes a NAK due. An idle cell is taken as the peer's sign of life.
An ACK of a cell in the retry buffer takes it and every older one out; one of no cell there that was not the last ACK is counted. A NAK or a
timeout begins a replay at the oldest unacknowledged cell that covers every one in order; as many replays from one cell as RETRY_LIMIT allows make
this end ask for a retrain with event 0x63, and while it asks none begins. R169, R170, R206: in a slot of an active port that has nothing to replay
and may send, the cell at the head of an output FIFO leaves with the next LSEQ and its age raised by one, and stays in the retry buffer until
acknowledged; with nothing to send an idle cell leaves; a replay sends its oldest cell with its old LSEQ and adds nothing to the retry buffer. -/
def Obligations.LinkSendAndRetry : Prop :=
  ((∀ (s : State) (n : Nat) (c : Cell), Safety.Operating s → n < 6 → (s.dev.optPort n).st = .active → bitsOf c.link.toNat 26 25 = 0 →
     bitsOf c.link.toNat 31 28 = 0 → (s.dev.optPort n).beatIn = [] → bitOf c.link.toNat 27 = false → bitOf c.link.toNat 24 = false →
     let lseq := bitsOf c.link.toNat 11 0
     (lseq = (s.dev.optPort n).expect →
       exec (.linkCellReceive n c {}) s = .next (s.onDev ((s.dev.modPort n (fun p => { p with
         rx := p.rx ++ [⟨c, n, false⟩], expect := (lseq + 1) % 4096, accepted := some lseq, episode := false, peerSeen := true })).bump
           (Reg.fabPortCntRxCells n) 1))) ∧
     (lseq ≠ (s.dev.optPort n).expect → (s.dev.optPort n).episode = true →
       Safety.Gives (.linkCellReceive n c {}) s (fun t => (∀ m, t.dev.optPort m = s.dev.optPort m) ∧ t.dev.regs = s.dev.regs ∧
         t.dev.router = s.dev.router ∧ Safety.SameMemory s t)) ∧
     (lseq ≠ (s.dev.optPort n).expect → (s.dev.optPort n).episode = false →
       exec (.linkCellReceive n c {}) s = .next (s.onDev ((s.dev.modPort n (fun p => { p with episode := true, nakDue := true })).bump
         (Reg.fabPortCntNak n) 1)))) ∧
   (∀ (s : State) (n : Nat) (c : Cell) (q : RxQuality), Safety.Operating s → n < 6 → (s.dev.optPort n).st = .active → q.damaged = true →
     Safety.Gives (.linkCellReceive n c q) s (fun t =>
       (∀ m, m ≠ n → t.dev.optPort m = s.dev.optPort m) ∧ (t.dev.optPort n).rx = (s.dev.optPort n).rx ∧
       (t.dev.optPort n).expect = (s.dev.optPort n).expect ∧ (t.dev.optPort n).retry = (s.dev.optPort n).retry ∧
       (t.dev.optPort n).accepted = (s.dev.optPort n).accepted ∧ (t.dev.optPort n).st = .active ∧
       (bitsOf c.link.toNat 26 25 = 0 → (s.dev.optPort n).episode = false →
         (t.dev.optPort n).episode = true ∧ (t.dev.optPort n).nakDue = true ∧
         t.dev.rd (Reg.fabPortCntNak n) = (s.dev.rd (Reg.fabPortCntNak n) + 1) % 2 ^ 64) ∧
       (bitsOf c.link.toNat 26 25 ≠ 0 ∨ (s.dev.optPort n).episode = true →
         (t.dev.optPort n).episode = (s.dev.optPort n).episode ∧ (t.dev.optPort n).nakDue = (s.dev.optPort n).nakDue ∧
         t.dev.rd (Reg.fabPortCntNak n) = s.dev.rd (Reg.fabPortCntNak n)) ∧
       t.dev.router = s.dev.router ∧ Safety.SameMemory s t)) ∧
   (∀ (s : State) (n : Nat) (c : Cell), Safety.Operating s → n < 6 → (s.dev.optPort n).st = .active → bitsOf c.link.toNat 26 25 = 1 →
     bitsOf c.link.toNat 31 28 = 0 → (s.dev.optPort n).beatIn = [] →
     let ack := bitsOf c.link.toNat 23 12
     (bitOf c.link.toNat 27 = false → bitOf c.link.toNat 24 = false →
       exec (.linkCellReceive n c {}) s = .next (s.onDev (s.dev.modPort n (fun p => { p with peerSeen := true })))) ∧
     (bitOf c.link.toNat 27 = true → bitOf c.link.toNat 24 = false →
       (∀ old q new, (s.dev.optPort n).retry = old ++ (ack, q) :: new → (∀ e ∈ old, e.1 ≠ ack) →
         exec (.linkCellReceive n c {}) s = .next (s.onDev (s.dev.modPort n (fun p => { p with
           retry := new, replay := p.replay.filter (fun e => new.any (fun r => r.1 = e.1)), lastAckIn := some ack, peerSeen := true })))) ∧
       ((∀ e ∈ (s.dev.optPort n).retry, e.1 ≠ ack) →
         Safety.Gives (.linkCellReceive n c {}) s (fun t =>
           (t.dev.optPort n) = { s.dev.optPort n with peerSeen := true } ∧ (∀ m, m ≠ n → t.dev.optPort m = s.dev.optPort m) ∧
           t.dev.rd (Reg.fabPortCntBadAck n) =
             (s.dev.rd (Reg.fabPortCntBadAck n) + (if (s.dev.optPort n).lastAckIn = some ack then 0 else 1)) % 2 ^ 64 ∧
           Safety.SameRegsBut [Reg.fabPortCntBadAck n] s t ∧ Safety.SameMemory s t)))) ∧
   (∀ (s : State) (n lseq : Nat) (q : QCell) (rest : List (Nat × QCell)) (e : Instr), Safety.Operating s → n < 6 → (s.dev.optPort n).st = .active →
     (s.dev.optPort n).retry = (lseq, q) :: rest →
     (e = .replayTimeout n ∨ ∃ c : Cell, e = .linkCellReceive n c {} ∧ bitsOf c.link.toNat 26 25 = 1 ∧ bitsOf c.link.toNat 31 28 = 0 ∧
       (s.dev.optPort n).beatIn = [] ∧ bitOf c.link.toNat 27 = false ∧ bitOf c.link.toNat 24 = true ∧ (s.dev.optPort n).peerSeen = true) →
     ((s.dev.optPort n).asked = false → (s.dev.optPort n).replayFrom ≠ some lseq →
       exec e s = .next (s.onDev ((s.dev.modPort n (fun p => { p with
         replay := (lseq, q) :: rest, replayFrom := some lseq, repeats := 0 })).bump (Reg.fabPortCntReplays n) 1))) ∧
     ((s.dev.optPort n).asked = false → (s.dev.optPort n).replayFrom = some lseq →
       Safety.Gives e s (fun t =>
         (t.dev.optPort n).replay = (lseq, q) :: rest ∧ (t.dev.optPort n).repeats = (s.dev.optPort n).repeats + 1 ∧
         t.dev.rd (Reg.fabPortCntReplays n) = (s.dev.rd (Reg.fabPortCntReplays n) + 1) % 2 ^ 64 ∧
         (t.dev.optPort n).asked = decide (max 1 (s.dev.fld (Reg.fabPortCtrl n) 19 16) ≤ (s.dev.optPort n).repeats + 1) ∧
         (max 1 (s.dev.fld (Reg.fabPortCtrl n) 19 16) ≤ (s.dev.optPort n).repeats + 1 → (t.dev.optPort n).lastEvent = 0x63 ∧
           Safety.Logged s t { code := 0x63, domain := 41 + n, unit := n, addr := Reg.fabPortStatus n, kind := 2 }) ∧
         Safety.SameRegsBut [Reg.fabPortCntReplays n] s t ∧ Safety.SameMemory s t)) ∧
     ((s.dev.optPort n).asked = true → Safety.Gives e s (fun t =>
       (∀ m, t.dev.optPort m = s.dev.optPort m) ∧ t.dev.regs = s.dev.regs ∧ t.dev.obs = s.dev.obs))) ∧
   (∀ (s : State) (n : Nat), (s.dev.optPort n).st ≠ .active → exec (.replayTimeout n) s = .next s)) ∧
  (∀ (s : State) (n : Nat), Safety.Operating s → n < 6 → s.dev.glb.stopped = false → (s.dev.optPort n).st = .active →
     (s.dev.optPort n).asked = false → (s.dev.optPort n).peerSeen = true → (∃ a, a < 4096 ∧ (s.dev.optPort n).accepted = some a) →
     (s.dev.optPort n).markPos = none →
     (∀ c rest, (s.dev.optPort n).replay = [] → (s.dev.optPort n).retry.length < 512 → tabGet [] s.dev.router.vc0 n = [] →
       tabGet [] s.dev.router.bulk n = c :: rest → c.cell.gold = false →
       Safety.Gives (.linkCellSend n) s (fun t =>
         (t.dev.optPort n).retry = (s.dev.optPort n).retry ++
           [((s.dev.optPort n).nextSeq, { c with cell := c.cell.withAge (min 255 (c.cell.age + 1)) })] ∧
         (t.dev.optPort n).nextSeq = ((s.dev.optPort n).nextSeq + 1) % 4096 ∧ tabGet [] t.dev.router.bulk n = rest ∧
         (∃ x, (t.dev.optPort n).sent = some x ∧ bitsOf x.link.toNat 11 0 = (s.dev.optPort n).nextSeq % 4096 ∧ bitsOf x.link.toNat 26 25 = 0 ∧
           x.payload = c.cell.payload ∧ x.dst = c.cell.dst) ∧
         Safety.SameRegsBut [Reg.fabPortCntTxCells n] s t ∧ Safety.SameMemory s t)) ∧
     ((s.dev.optPort n).replay = [] → tabGet [] s.dev.router.vc0 n = [] → tabGet [] s.dev.router.bulk n = [] →
       Safety.Gives (.linkCellSend n) s (fun t =>
         (∃ x, (t.dev.optPort n).sent = some x ∧ bitsOf x.link.toNat 26 25 = 1) ∧ (t.dev.optPort n).retry = (s.dev.optPort n).retry ∧
         (t.dev.optPort n).nextSeq = (s.dev.optPort n).nextSeq ∧ Safety.SameRegsBut [] s t ∧ Safety.SameMemory s t)) ∧
     (∀ lseq c rest, (s.dev.optPort n).replay = (lseq, c) :: rest →
       Safety.Gives (.linkCellSend n) s (fun t =>
         (t.dev.optPort n).replay = rest ∧ (t.dev.optPort n).retry = (s.dev.optPort n).retry ∧
         (∃ x, (t.dev.optPort n).sent = some x ∧ bitsOf x.link.toNat 11 0 = lseq % 4096 ∧ x.payload = c.cell.payload ∧ x.ctl = c.cell.ctl) ∧
         Safety.SameRegsBut [Reg.fabPortCntReplayed n] s t ∧ Safety.SameMemory s t)))

/-- R174 to R179, R183: a retrain request takes an active port to RETRAIN, its retry buffer kept, and is answered; a lane that is retired in
either direction leaves it for good and a retrain begins while at least 4 lanes stay, or the link fails with 0x67. In EXCHANGE the leader refuses
a wrong PORT with 0x69, then no common version with 0x65, then, as either end does, more than 720 ns with 0x66, then fewer than 4 good lanes with
0x67, or else shows its decision; it ends when the follower shows the same, and the follower when the leader has left, in ACTIVE if both ends know
each other and no sweep runs, else in QUARANTINE. A quarantined link becomes active when both ends show a sweep with an epoch above the one at
which it was quarantined; a block without that leaves it there, and one of another PLACE clears its record. That the follower shows the decision
until the leader has left is log entry 85, and that a sweep shown as active counts as not completed at the peer too. -/
def Obligations.RetrainAndQuarantine : Prop :=
  (∀ (s : State) (n : Nat) (blk : List Byte), Safety.Operating s → n < 6 → (s.dev.optPort n).st = .active →
    (∀ a, (s.dev.optPort n).accepted = some a → a < 4096) →
    Safety.Gives (.retrainRequest n blk) s (fun t =>
      (t.dev.optPort n).st = .retrain ∧ (t.dev.optPort n).retraining = true ∧ (t.dev.optPort n).retry = (s.dev.optPort n).retry ∧
      (s.dev.glb.stopped = false → ∃ x, (t.dev.optPort n).sent = some x ∧ bitsOf x.link.toNat 26 25 = 2) ∧
      t.dev.rd (Reg.fabPortCntRetrains n) = (s.dev.rd (Reg.fabPortCntRetrains n) + 1) % 2 ^ 64 ∧
      (∀ m, m ≠ n → t.dev.optPort m = s.dev.optPort m) ∧ Safety.SameMemory s t)) ∧
  (∀ (s : State) (n lane : Nat) (dir : LaneDir), Safety.Operating s → n < 6 → (s.dev.optPort n).st = .active → lane < 10 →
    bitOf (match dir with | .tx => (s.dev.optPort n).txActive | .rx => (s.dev.optPort n).rxActive) lane = true → (s.dev.optPort n).asked = false →
    4 ≤ (lanesOf (match dir with
      | .tx => lanesBut 0x3FF (setBits (s.dev.optPort n).txRetired lane lane 1)
      | .rx => lanesBut (s.dev.optPort n).rxLocked (setBits (s.dev.optPort n).rxRetired lane lane 1))).length →
    Safety.Gives (.laneRetired n dir lane) s (fun t =>
      bitOf (match dir with | .tx => (t.dev.optPort n).txRetired | .rx => (t.dev.optPort n).rxRetired) lane = true ∧
      (t.dev.optPort n).asked = true ∧ (t.dev.optPort n).lastEvent = 0x64 ∧
      (t.dev.optPort n).st = .active ∧ (∀ m, m ≠ n → t.dev.optPort m = s.dev.optPort m) ∧ Safety.SameMemory s t)) ∧
  (∀ (s : State) (n lane : Nat) (dir : LaneDir), Safety.Operating s → s.dev.mgmt.run = none → n < 6 → (s.dev.optPort n).st = .active → lane < 10 →
    bitOf (match dir with | .tx => (s.dev.optPort n).txActive | .rx => (s.dev.optPort n).rxActive) lane = true →
    (lanesOf (match dir with
      | .tx => lanesBut 0x3FF (setBits (s.dev.optPort n).txRetired lane lane 1)
      | .rx => lanesBut (s.dev.optPort n).rxLocked (setBits (s.dev.optPort n).rxRetired lane lane 1))).length < 4 →
    Safety.Gives (.laneRetired n dir lane) s (fun t =>
      bitOf (match dir with | .tx => (t.dev.optPort n).txRetired | .rx => (t.dev.optPort n).rxRetired) lane = true ∧ Safety.LinkFailed s t n 0x67)) ∧
  (∀ (s : State) (n : Nat) (blk : List Byte) (hub : Nat), Safety.InExchange s n blk →
    (s.dev.leads n blk = true → fldOf blk 0 26 24 ≠ n / 2 * 2 + (1 - n % 2) →
      Safety.Gives (.trainingBlock n blk hub) s (fun t => Safety.LinkFailed s t n 0x69 ∧ (t.dev.optPort n).sticky = true)) ∧
    (s.dev.leads n blk = true → fldOf blk 0 26 24 = n / 2 * 2 + (1 - n % 2) → Safety.sameVersion s blk = false →
      Safety.Gives (.trainingBlock n blk hub) s (fun t => Safety.LinkFailed s t n 0x65 ∧ (t.dev.optPort n).sticky = true)) ∧
    (fldOf blk 0 26 24 = n / 2 * 2 + (1 - n % 2) → Safety.sameVersion s blk = true → 720000 < oneWayPs blk hub →
      Safety.Gives (.trainingBlock n blk hub) s (fun t => Safety.LinkFailed s t n 0x66 ∧ (t.dev.optPort n).sticky = true ∧
        t.dev.rd (Reg.fabPortDelay n) = min (oneWayPs blk hub) 0xFFFFFF)) ∧
    (Safety.Linkable s n blk hub → s.dev.leads n blk = true → Safety.linkWidth s n blk = 0 →
      Safety.Gives (.trainingBlock n blk hub) s (fun t => Safety.LinkFailed s t n 0x67)) ∧
    (Safety.Linkable s n blk hub → s.dev.leads n blk = true → Safety.linkWidth s n blk ≠ 0 →
      (fldOf blk 0 5 4 ≠ 3 ∨ (s.dev.optPort n).req ≠ 3 ∨ fldOf blk 8 23 20 ≠ (s.dev.optPort n).width) →
      Safety.Gives (.trainingBlock n blk hub) s (fun t => Safety.Deciding s t n hub blk ∧ (t.dev.optPort n).decided = none ∧
        (t.dev.optPort n).width = Safety.linkWidth s n blk ∧
        (t.dev.optPort n).txActive = laneMap ((bothLanes (s.dev.optPort n).txGood (fldOf blk 8 9 0)).take (Safety.linkWidth s n blk)) ∧
        (t.dev.optPort n).rxActive = laneMap ((bothLanes (s.dev.optPort n).rxGood (fldOf blk 8 19 10)).take (Safety.linkWidth s n blk)))) ∧
    (Safety.Linkable s n blk hub → s.dev.leads n blk = true → Safety.linkWidth s n blk ≠ 0 →
      fldOf blk 0 5 4 = 3 → (s.dev.optPort n).req = 3 → fldOf blk 8 23 20 = (s.dev.optPort n).width →
      Safety.Gives (.trainingBlock n blk hub) s (fun t => Safety.LinkSettled s t n blk ∧
        (let known := (s.dev.optPort n).peerPlace = some (fldOf blk 4 31 0) ∧ bitOf (fldOf blk 12 31 0) 17 = true
         let sweeps := sweepAbove (s.dev.rd Reg.fabSweep) s.dev.glb.sweepDone = true ∨ bitOf (fldOf blk 12 16 0) 16 = true
         (known ∧ ¬ sweeps → (t.dev.optPort n).st = .active) ∧
         (¬ (known ∧ ¬ sweeps) → (t.dev.optPort n).st = .quarantine ∧
           (t.dev.optPort n).e0 = max (s.dev.fld Reg.fabSweep 15 0) (fldOf blk 12 15 0))))) ∧
    (Safety.Linkable s n blk hub → s.dev.leads n blk = false → Safety.linkWidth s n blk ≠ 0 → fldOf blk 0 5 4 = 3 →
      Safety.Gives (.trainingBlock n blk hub) s (fun t => Safety.Deciding s t n hub blk ∧ (t.dev.optPort n).decided = some blk ∧
        (t.dev.optPort n).width = fldOf blk 8 23 20))) ∧
  (∀ (s : State) (n : Nat) (blk final : List Byte) (hub : Nat), Safety.Operating s → s.dev.mgmt.run = none → n < 6 →
    (s.dev.optPort n).st = .exchange → (s.dev.optPort n).decided = some final → fldOf blk 0 3 0 ≠ 4 →
    Safety.Gives (.trainingBlock n blk hub) s (fun t => Safety.LinkSettled s t n final ∧
      ((t.dev.optPort n).st = .active ∨ (t.dev.optPort n).st = .quarantine))) ∧
  (∀ (s : State) (n : Nat) (blk : List Byte) (hub : Nat), Safety.Operating s → n < 6 → (s.dev.optPort n).st = .quarantine →
    (s.dev.optPort n).asked = false → fldOf blk 0 5 4 ≠ 1 → fldOf blk 0 5 4 ≠ 2 →
    Safety.Gives (.trainingBlock n blk hub) s (fun t =>
      (sweepAbove (fldOf blk 12 16 0) (s.dev.optPort n).e0 = true → sweepAbove (s.dev.rd Reg.fabSweep) (s.dev.optPort n).e0 = true →
        (t.dev.optPort n).st = .active ∧ (t.dev.optPort n).accepted = none ∧ (t.dev.optPort n).peerSeen = false ∧
        (t.dev.optPort n).slots = 0 ∧ (t.dev.optPort n).replay = (s.dev.optPort n).retry) ∧
      (sweepAbove (fldOf blk 12 16 0) (s.dev.optPort n).e0 = false ∨ sweepAbove (s.dev.rd Reg.fabSweep) (s.dev.optPort n).e0 = false →
        (t.dev.optPort n).st = .quarantine ∧ (t.dev.optPort n).e0 = (s.dev.optPort n).e0) ∧
      (t.dev.optPort n).peerPlace = (if (s.dev.optPort n).peerPlace = some (fldOf blk 4 31 0) then (s.dev.optPort n).peerPlace else none) ∧
      (t.dev.optPort n).retry = (s.dev.optPort n).retry ∧ (∀ m, m ≠ n → t.dev.optPort m = s.dev.optPort m) ∧
      Safety.SameRegsBut [] s t ∧ Safety.SameMemory s t)) ∧
  (∀ (s : State) (p : MPort) (v : W32), Safety.Writable s p → Safety.Fits Reg.fabSweep v.toNat →
    s.dev.fld Reg.fabSweep 15 0 ≤ bitsOf v.toNat 15 0 →
    Safety.Gives (.sweepWrite p v) s (fun t => t.dev.rd Reg.fabSweep = v.toNat ∧
      t.dev.glb.sweepDone = (if bitOf v.toNat 16 then s.dev.glb.sweepDone else bitsOf v.toNat 15 0) ∧
      Safety.SameRegsBut [Reg.fabSweep] s t ∧ Safety.SameMemory s t ∧ Safety.SameEngines s t))

/-! Carats. -/

/-- R330, R331: grants take no budget above its limit: where no requester is listed twice, no budget holds more than PWR_BUDGETq, and the carats
held and reserved are within the device's budget (PWR_DEV_BUDGET, or the lower one of a hot device), the same is so after the scan; no more
carats are added than the window had left, and no grant is taken back. -/
def Obligations.GrantsStayWithinBudgets : Prop :=
  ∀ s : State, Safety.Operating s → (s.dev.pwr.held.map (·.1)).Nodup →
    (∀ q, q < 5 → s.dev.heldAgainst q ≤ s.dev.rd (Reg.pwrBudgetOf q)) →
    s.dev.heldAll + s.dev.reservedLeft ≤ s.dev.devBudget →
    Safety.Gives .permitGrant s (fun t =>
      (∀ q, q < 5 → t.dev.heldAgainst q ≤ t.dev.rd (Reg.pwrBudgetOf q)) ∧
      t.dev.heldAll + t.dev.reservedLeft ≤ t.dev.devBudget ∧
      t.dev.heldAll + t.dev.pwr.rampLeft ≤ s.dev.heldAll + s.dev.pwr.rampLeft ∧
      (∀ req, s.dev.holds req ≤ t.dev.holds req) ∧ Safety.SameRegsBut [Reg.pwrCntGrants] s t ∧ Safety.SameMemory s t)

/-- R166, R328 to R331: the only waiting request, within the ramp, the device budget and its own budget, is granted, be it of a core, an HBM stack,
a vault port or an optical engine, whose port in DARK then turns its lasers on and enters WAKE; a core's request for a runnable real-time context
draws on what is left of its reservation, whatever the device budget has left; an idle requester gives back all it holds; a window gives the ramp
back and is counted if the ramp had stopped a scan. -/
def Obligations.PermitRows : Prop :=
  (∀ (s : State) (r : CaratReq), Safety.Operating s → s.dev.pwr.waiting = [r] → r.ctx = none → (r.req < 584 ∨ 590 ≤ r.req) →
    r.carats ≤ s.dev.pwr.rampLeft → s.dev.heldAll + s.dev.reservedLeft + r.carats ≤ s.dev.devBudget →
    s.dev.heldAgainst (budgetOf r.req) + r.carats ≤ s.dev.rd (Reg.pwrBudgetOf (budgetOf r.req)) →
    exec .permitGrant s = .next (s.onDev (({ s.dev with pwr := { s.dev.pwr with
      held := tabSet 0 s.dev.pwr.held r.req (s.dev.holds r.req + r.carats), waiting := [], rampLeft := s.dev.pwr.rampLeft - r.carats } } : Dev).bump
        Reg.pwrCntGrants 1))) ∧
  (∀ (s : State) (r : CaratReq) (n : Nat), Safety.Operating s → s.dev.glb.stopped = false → s.dev.pwr.waiting = [r] → r.ctx = none → n < 6 →
    r.req = 584 + n → (s.dev.optPort n).st = .dark →
    r.carats ≤ s.dev.pwr.rampLeft → s.dev.heldAll + s.dev.reservedLeft + r.carats ≤ s.dev.devBudget →
    s.dev.heldAgainst 4 + r.carats ≤ s.dev.rd Reg.pwrBudget4 →
    Safety.Gives .permitGrant s (fun t => (t.dev.optPort n).st = .wake ∧ t.dev.holds r.req = s.dev.holds r.req + r.carats ∧
      t.dev.pwr.waiting = [] ∧ t.dev.pwr.rampLeft = s.dev.pwr.rampLeft - r.carats ∧ (∀ m, m ≠ n → t.dev.optPort m = s.dev.optPort m) ∧
      Safety.SameRegsBut [Reg.pwrCntGrants] s t ∧ Safety.SameMemory s t)) ∧
  (∀ (s : State) (r : CaratReq) (c : Nat), Safety.Operating s → s.dev.pwr.waiting = [r] → r.req < 576 → r.ctx = some c →
    s.dev.isRunnable c = true → r.carats ≤ (s.dev.ctx c).resLeft → r.carats ≤ s.dev.pwr.rampLeft →
    s.dev.heldAgainst (budgetOf r.req) + r.carats ≤ s.dev.rd (Reg.pwrBudgetOf (budgetOf r.req)) →
    Safety.Gives .permitGrant s (fun t => t.dev.holds r.req = s.dev.holds r.req + r.carats ∧ t.dev.pwr.waiting = [] ∧
      (t.dev.ctx c).resLeft = (s.dev.ctx c).resLeft - r.carats ∧ (∀ x, x ≠ c → t.dev.ctx x = s.dev.ctx x) ∧
      t.dev.pwr.fromRes = s.dev.pwr.fromRes ++ [(r.req, c, r.carats)] ∧
      Safety.SameRegsBut [Reg.pwrCntGrants] s t ∧ Safety.SameMemory s t)) ∧
  (∀ (s : State) (req : Nat), Safety.Operating s → req < 592 → s.dev.mayReturn req = true →
    Safety.Gives (.permitReturn req) s (fun t => t.dev.holds req = 0 ∧ (∀ q, q ≠ req → t.dev.holds q = s.dev.holds q) ∧
      t.dev.regs = s.dev.regs ∧ t.dev.cores = s.dev.cores ∧ Safety.SameMemory s t)) ∧
  (∀ s : State, Safety.Operating s → Safety.Gives .rampWindow s (fun t =>
    t.dev.pwr.rampLeft = s.dev.rd Reg.pwrRamp ∧ t.dev.pwr.rampHit = false ∧ t.dev.pwr.held = s.dev.pwr.held ∧
    t.dev.rd Reg.pwrCntRampWindows = (s.dev.rd Reg.pwrCntRampWindows + b2n s.dev.pwr.rampHit) % 2 ^ 64 ∧
    Safety.SameRegsBut [Reg.pwrCntRampWindows] s t ∧ Safety.SameMemory s t))

/-! Cores. -/

/-- R70 to R72, R103, R334: for every row that executes an instruction: where the next instruction of its slot has another opcode, a fetch beyond
the scratchpad faults with code 0x24, SLOT = 1 and the fetch address, an undefined opcode whose turn has come faults with 0x21, and anything else is
left for its own row; a fetch that meets an uncorrectable word faults with 0x28. A core without a program, with 16 instructions in flight, being
pre-empted or without its clock issues nothing, and neither does an instruction that a CLWAIT or a mask holds back. END completes the program
once every earlier instruction is complete and faults with 0x21 when another byte of it is set (R73). -/
def Obligations.IssueOrder : Prop :=
  (∀ (s : State) (c : Instr) (p op : Nat) (ecc : Ecc) (g : Prog), Safety.insnRow c = some (p, op, ecc) → Safety.Ready s p g →
    (∀ x, s.dev.nextIn p g (opSlot op) = some x → insnOp (s.dev.locRead p x 32) ≠ op) →
    let stop := g.pc + (0x1C0000 - g.pc) / 32 * 32
    (s.dev.nextIn p g .v = none → exec c s = .next (s.onDev (s.dev.insnFault p (g.at_ stop) stop 0x24 .v stop))) ∧
    (s.dev.nextIn p g .v ≠ none → ∀ x, s.dev.undefinedAt p g .v = some x →
      exec c s = .next (s.onDev (s.dev.insnFault p (g.at_ x) x 0x21 .v 0))) ∧
    (s.dev.nextIn p g .v ≠ none → s.dev.undefinedAt p g .v = none → ∀ x, s.dev.undefinedAt p g .m = some x →
      exec c s = .next (s.onDev (s.dev.insnFault p (g.at_ x) x 0x21 .m 0))) ∧
    (s.dev.nextIn p g .v ≠ none → s.dev.undefinedAt p g .v = none → s.dev.undefinedAt p g .m = none → exec c s = .next s)) ∧
  (∀ (s : State) (c : Instr) (p op : Nat) (ecc : Ecc), Safety.insnRow c = some (p, op, ecc) →
    (s.dev.prog? p = none ∨ s.dev.clocked p = false ∨ ∃ g, s.dev.prog? p = some g ∧ (16 ≤ g.score.length ∨ g.quiesce = true)) →
    exec c s = .next s) ∧
  (∀ (s : State) (c : Instr) (p op x : Nat) (ecc : Ecc) (g : Prog) (bs : List Byte), Safety.insnRow c = some (p, op, ecc) →
    Safety.Ready s p g → s.dev.nextIn p g (opSlot op) = some x → s.dev.locRead p x 32 = bs → insnOp bs = op →
    (s.dev.heldBack p g (opSlot op) x bs = true → exec c s = .next s) ∧
    (∀ w, s.dev.heldBack p g (opSlot op) x bs = false → ecc.place = 0 → ecc.badLocal = some w → x ≤ w → w < x + 32 → ecc.corrLocal = 0 →
      exec c s = .next (s.onDev (s.dev.localFault p (g.at_ x) x 0x28 (opSlot op) w)))) ∧
  (∀ (s : State) (p x : Nat) (ecc : Ecc) (g : Prog) (bs : List Byte), Safety.Turn s p 1 g x bs → ecc.badLocal = none →
    ((∃ b ∈ bs.drop 1, b ≠ 0) → exec (.end_ p ecc) s = .next (s.onDev (s.dev.insnFault p (g.at_ x) x 0x21 .v 0))) ∧
    ((∀ b ∈ bs.drop 1, b = 0) → (g.score ≠ [] ∨ s.dev.unissued p .v x ≠ []) → exec (.end_ p ecc) s = .next s) ∧
    ((∀ b ∈ bs.drop 1, b = 0) → g.score = [] → s.dev.unissued p .v x = [] →
      exec (.end_ p ecc) s = .next (s.onDev ((s.dev.passed p (g.at_ x) g.gang).endProgram p (g.at_ x))) ∧
      Safety.Gives (.end_ p ecc) s (fun t => (t.dev.core p).prog = none ∧ t.dev.loc = s.dev.loc ∧ t.dev.routing = s.dev.routing ∧
        (∀ q, q ≠ p → (t.dev.core q).prog = (s.dev.core q).prog) ∧ (∀ q, (t.dev.core q).m = (s.dev.core q).m))))

/-- R93, R94, R103, Table 3.9: an operation that maps words, issued on core p, leaves on every core of the stream element i of its result at
DST + 4i, computed from the elements as they stood before, and nothing else of local memory changed; with a broken rule it faults with the first
code of R103, with a hazard it does not issue, and an uncorrectable word in a source faults with 0x28 on the core that has it. -/
def Obligations.VectorElementwise : Prop :=
  ∀ (s : State) (c : Instr) (p op x : Nat) (ecc : Ecc) (rule : VecInsn → VecRule) (at2 : Nat → Nat) (f : VecInsn → Nat → Nat → Nat → Nat)
    (g : Prog) (bs : List Byte), Safety.mapRow c = some (p, op, ecc, rule, at2, f) → Safety.Turn s p op g x bs →
    let v := vecOf bs
    (Safety.Clear s p x bs (rule v) ecc → g.gang.Nodup → Safety.Gives c s (fun t =>
      (∀ q ∈ g.gang, ∀ i, i < v.count → t.dev.locNat q (v.dst + 4 * i) 4 =
        f v (s.dev.locNat q (v.src1 + 4 * i) 4) (s.dev.locNat q (v.src2 + at2 i) 4) (s.dev.locNat q (v.dst + 4 * i) 4) % 2 ^ 32) ∧
      Safety.LocalBut s t g.gang v.dst (fun _ => 4 * v.count) ∧ Safety.Passed s t p g x ∧ (v.hm = false → t.dev.ctxs = s.dev.ctxs))) ∧
    (∀ code loc, ecc.badLocal = none → v.fault (rule v) = some (code, loc) →
      exec c s = .next (s.onDev (s.dev.insnFault p (g.at_ x) x code .v loc))) ∧
    (ecc.badLocal = none → v.fault (rule v) = none → s.dev.hazard p .v x (s.dev.rangesOf p bs) = true → exec c s = .next s) ∧
    (∀ w, v.fault (rule v) = none → s.dev.hazard p .v x (s.dev.rangesOf p bs) = false → ecc.badLocal = some w → ecc.corrLocal = 0 →
      (ecc.place ≠ 0 ∨ w < x ∨ x + 32 ≤ w) → meets (spansOf false (rule v).spans) [(w, 1)] = true →
      exec c s = .next (s.onDev (s.dev.localFault (g.errCore p ecc) (g.at_ x) x 0x28 .v w)))

/-- R95, R96, R113: VRSUM, VRMAX and VDOT reduce in the fixed order of 64 lanes and a binary tree, VCVT converts each element once, and VSEL
lists the blocks that hold a NaN or a magnitude of at least IMM: the result stands at DST on every core of the stream. VKEEP writes all of
CORE_KEEP from its stream. Nothing else of local memory changes. -/
def Obligations.VectorResults : Prop :=
  (∀ (s : State) (c : Instr) (p op x : Nat) (ecc : Ecc) (rule : VecInsn → VecRule) (f : Blocks → Nat → VecInsn → List Byte) (g : Prog)
    (bs : List Byte), Safety.resultRow c = some (p, op, ecc, rule, f) → Safety.Turn s p op g x bs →
    let v := vecOf bs
    (Safety.Clear s p x bs (rule v) ecc → g.gang.Nodup → Safety.Gives c s (fun t =>
      (∀ q ∈ g.gang, t.dev.locRead q v.dst (f s.dev.toBlocks q v).length = f s.dev.toBlocks q v) ∧
      Safety.LocalBut s t g.gang v.dst (fun q => (f s.dev.toBlocks q v).length) ∧ Safety.Passed s t p g x ∧
      (∀ q, (t.dev.core q).keep = (s.dev.core q).keep) ∧ (v.hm = false → t.dev.ctxs = s.dev.ctxs))) ∧
    (∀ code loc, ecc.badLocal = none → v.fault (rule v) = some (code, loc) →
      exec c s = .next (s.onDev (s.dev.insnFault p (g.at_ x) x code .v loc)))) ∧
  (∀ (s : State) (p x : Nat) (ecc : Ecc) (g : Prog) (bs : List Byte) (m : Nat → BitVec 256), Safety.Turn s p 0x92 g x bs →
    let v := vecOf bs
    Safety.Clear s p x bs (keepRule s.dev.toBlocks p v) ecc →
    (∀ q ∈ g.gang, ∃ vs, s.dev.stream q v.src1 (s.dev.locNat q (v.src1 + 2) 2) true none = .inr vs ∧ keepMask v.count v.src1 vs 0 0 = .inr (m q)) →
    Safety.Gives (.vkeep p ecc) s (fun t => (∀ q ∈ g.gang, (t.dev.core q).keep = m q) ∧
      (∀ q, q ∉ g.gang → (t.dev.core q).keep = (s.dev.core q).keep) ∧
      t.dev.loc = s.dev.loc ∧ t.dev.ctxs = s.dev.ctxs ∧ Safety.Passed s t p g x)) ∧
  (∀ (count addr : Nat) (vs : List Nat) (m : BitVec 256), 0 < count → keepMask count addr vs 0 0 = .inr m →
    ∀ b, b < 256 → (m.getLsbD b = true ↔ ∃ v ∈ vs, 32 * v / count = b))

/-- R254, R339: CLWAIT of a Clasp among the last 16 closed here writes its status and completes, and of any other waits in the scoreboard from
the present stroke on; TB_CLASP_CFG.TIMEOUT strokes later, without a CLASP, it writes FAIL (2), and not before. VCOUNT writes a counter's 8 bytes
where the context may read counters, and faults with 0x2D and 0x2E otherwise. -/
def Obligations.WaitsAndCounters : Prop :=
  (∀ (s : State) (p x : Nat) (ecc : Ecc) (g : Prog) (bs : List Byte), Safety.Turn s p 2 g x bs →
    let v := vecOf bs
    Safety.Clear s p x bs (slotRule (v.hm || decide (65536 ≤ v.imm)) none [Span.w v.dst 4 4]) ecc →
    (∀ e, s.dev.claspHere v.imm = false → s.dev.tb.claspClosed.find? (fun e => e.1 = v.imm) = some e → Safety.Gives (.clwait p ecc) s (fun t =>
      (∀ q ∈ g.gang, t.dev.locNat q v.dst 4 = if e.2 = 2 then 2 else 1) ∧ Safety.LocalBut s t g.gang v.dst (fun _ => 4) ∧
      Safety.Passed s t p g x ∧ t.dev.ctxs = s.dev.ctxs)) ∧
    (s.dev.claspHere v.imm = true ∨ s.dev.tb.claspClosed.find? (fun e => e.1 = v.imm) = none → Safety.Gives (.clwait p ecc) s (fun t =>
      (∃ i, t.dev.prog? p = some { Safety.pastV g x with score := g.score ++ [i] } ∧ i.pend = .clasp v.imm s.dev.stroke ∧ i.insn = bs ∧
        i.slot = .v) ∧ Safety.SameMemory s t ∧ Safety.SameRegsButCounters g.gang s t))) ∧
  (∀ (s : State) (p : Nat) (g : Prog) (i : Issued) (n since : Nat), Safety.Operating s → s.dev.prog? p = some g → g.score = [i] →
    i.pend = .clasp n since → s.dev.claspHere n = false → (vecOf i.insn).dst + 4 ≤ 2 ^ 22 →
    (s.dev.stroke < since + s.dev.fld Reg.tbClaspCfg 31 8 → exec (.clwaitTimeout p) s = .next s) ∧
    (since + s.dev.fld Reg.tbClaspCfg 31 8 ≤ s.dev.stroke → Safety.Gives (.clwaitTimeout p) s (fun t =>
      t.dev.prog? p = some { g with score := [] } ∧
      (∀ q ∈ g.gang, t.dev.locNat q (vecOf i.insn).dst 4 = 2) ∧ Safety.LocalBut s t g.gang (vecOf i.insn).dst (fun _ => 4) ∧
      Safety.SameRegsButCounters g.gang s t ∧ Safety.SameOuter s t))) ∧
  (∀ (s : State) (p x : Nat) (ecc : Ecc) (g : Prog) (bs : List Byte), Safety.Turn s p 0x9B g x bs →
    let v := vecOf bs
    Safety.Clear s p x bs (slotRule (countIllegal v) none [Span.w v.dst 8 8]) ecc → ecc.corrLocal = 0 →
    (∀ y : Nat → Nat, s.dev.flag Reg.glbCtxPerf g.ctx = true → (∀ q ∈ g.gang, s.dev.counterAt (countOffset q v) = some (y q)) →
      Safety.Gives (.vcount p ecc) s (fun t => (∀ q ∈ g.gang, t.dev.locNat q v.dst 8 = y q % 2 ^ 64) ∧
        Safety.LocalBut s t g.gang v.dst (fun _ => 8) ∧ Safety.Passed s t p g x ∧ t.dev.ctxs = s.dev.ctxs)) ∧
    (∀ q, g.gang = [q] → s.dev.flag Reg.glbCtxPerf g.ctx = false →
      (s.dev.insnFault q (g.at_ x) x 0x2D .v 0).prog? p = none →
      exec (.vcount p ecc) s = .next (s.onDev (s.dev.insnFault q (g.at_ x) x 0x2D .v 0))) ∧
    (∀ q, g.gang = [q] → s.dev.flag Reg.glbCtxPerf g.ctx = true → s.dev.counterAt (countOffset q v) = none →
      (s.dev.insnFault q (g.at_ x) x 0x2E .v 0).prog? p = none →
      exec (.vcount p ecc) s = .next (s.onDev (s.dev.insnFault q (g.at_ x) x 0x2E .v 0))))

/-- R127, R129, R149, R231: in the direct part outside the export window VLOAD brings the device bytes to DST on every core of its stream, VSTORE
and VSTOREF leave the last core's bytes in the device range, and VATOM leaves the old value at DST and stores the operation's result; no other byte
changes. An access whose tiles are all away moves nothing and waits for them; one to another device becomes a request to its home and waits. A
range that fails its check faults, and so does one with an uncorrectable word, with 0x45 and the word's address. -/
def Obligations.CoreMemory : Prop :=
  (∀ (s : State) (p x : Nat) (ecc : Ecc) (g : Prog) (bs : List Byte), Safety.Turn s p 0x98 g x bs →
    let v := vecOf bs
    Safety.MemoryClear s p x bs (loadRule v) ecc → Safety.Private s v → s.dev.settled g.gang (g.at_ x).order = true →
    Safety.Gives (.vload p ecc) s (fun t =>
      (∀ q ∈ g.gang, t.dev.locRead q v.dst v.count = s.dev.devRead v.dev v.count) ∧ Safety.LocalBut s t g.gang v.dst (fun _ => v.count) ∧
      Safety.SameOuter s t ∧ t.dev.prog? p = some (Safety.pastV g x) ∧ Safety.SameOthers s t ∧ t.dev.mig = s.dev.mig)) ∧
  (∀ (s : State) (c : Instr) (p op mop q x : Nat) (ecc : Ecc) (rule : VecInsn → VecRule) (g : Prog) (bs : List Byte),
    Safety.memoryRow c = some (p, op, ecc, rule, mop) → op = 0x99 ∨ op = 0x9A → Safety.Turn s p op g x bs →
    let v := vecOf bs
    Safety.MemoryClear s p x bs (rule v) ecc → Safety.Private s v → s.dev.settled g.gang (g.at_ x).order = true → g.gang.getLast? = some q →
    Safety.Gives c s (fun t =>
      t.dev.devRead v.dev v.count = s.dev.locRead q v.src1 v.count ∧ t.dev.loc = s.dev.loc ∧ t.dev.vault = s.dev.vault ∧ t.dev.hostMem = s.dev.hostMem ∧
      (∀ y, (∀ i, i < v.count → y ≠ hbmKey s.dev.ilv (v.dev + i)) → memByte t.dev.hbm y = memByte s.dev.hbm y) ∧
      t.dev.prog? p = some (Safety.pastV g x) ∧ Safety.SameOthers s t ∧ t.dev.mig = s.dev.mig)) ∧
  (∀ (s : State) (p q x : Nat) (ecc : Ecc) (g : Prog) (bs : List Byte), Safety.Turn s p 0x96 g x bs →
    let v := vecOf bs
    let n := atomicBytes v.imm
    let old := s.dev.devNat v.dev n
    Safety.MemoryClear s p x bs (atomRule v) ecc → Safety.Private s v → s.dev.settled g.gang (g.at_ x).order = true → g.gang = [q] →
    Safety.Gives (.vatom p ecc) s (fun t =>
      t.dev.locNat q v.dst 8 = old ∧ Safety.LocalBut s t [q] v.dst (fun _ => 8) ∧
      t.dev.devNat v.dev n = (atomicNew (v.imm % 8) (8 * n) (s.dev.locNat q v.src1 n) (s.dev.locNat q (v.src1 + 8) n) old).getD old ∧
      (∀ y, (∀ i, i < n → y ≠ hbmKey s.dev.ilv (v.dev + i)) → memByte t.dev.hbm y = memByte s.dev.hbm y) ∧
      t.dev.prog? p = some (Safety.pastV g x) ∧ Safety.SameOthers s t ∧ t.dev.mig = s.dev.mig)) ∧
  (∀ (s : State) (c : Instr) (p op mop x : Nat) (ecc : Ecc) (rule : VecInsn → VecRule) (g : Prog) (bs : List Byte),
    Safety.memoryRow c = some (p, op, ecc, rule, mop) → Safety.Turn s p op g x bs →
    let v := vecOf bs
    Safety.MemoryClear s p x bs (rule v) ecc →
    (partOf v.dev = .tiered → s.dev.awayTiles v.dev v.devLen = tilesOf v.dev v.devLen →
      overlaps v.dev v.devLen (s.dev.rd Reg.memExportBase) s.dev.exportBytes = false → Safety.Gives c s (fun t =>
        (∃ i, t.dev.prog? p = some { Safety.pastV g x with score := g.score ++ [i] } ∧ i.pend = .tiles (tilesOf v.dev v.devLen) ∧ i.insn = bs) ∧
        Safety.SameMemory s t ∧ t.dev.jobs = s.dev.jobs)) ∧
    (∀ q, partOf v.dev = .remote → g.gang = [q] → (remoteOf v.dev).1 < s.dev.blockN → (remoteOf v.dev).1 ≠ s.dev.me → v.dev / 128 = (v.dev + v.devLen - 1) / 128 →
      (s.dev.ctx g.ctx).mode = .live → s.dev.cachedLoad (remoteOf v.dev).1 (remoteOf v.dev).2 v.devLen = none →
      s.dev.servingReplica (remoteOf v.dev).1 (remoteOf v.dev).2 v.devLen = none → Safety.Gives c s (fun t =>
        (∃ i, t.dev.prog? p = some { Safety.pastV g x with score := g.score ++ [i] } ∧ i.pend = .remote ∧ i.insn = bs) ∧
        (∃ r ∈ t.dev.remote.reqs, r.core = q ∧ r.ctx = g.ctx ∧ r.home = (remoteOf v.dev).1 ∧ r.off = (remoteOf v.dev).2 ∧ r.len = v.devLen ∧
          r.mop = mop ∧ r.order = (g.at_ x).order ∧ r.pc = g.devPc x) ∧
        Safety.SameMemory s t ∧ t.dev.jobs = s.dev.jobs))) ∧
  (∀ (s : State) (p q x : Nat) (g : Prog) (bs : List Byte), Safety.Turn s p 0x98 g x bs → g.gang = [q] →
    let v := vecOf bs
    v.fault (loadRule v) = none → s.dev.hazard p .v x (s.dev.rangesOf p bs) = false → 0 < v.count →
    (∀ code y, s.dev.coreCheck v.dev v.count = some (code, y) → (s.dev.deviceFault q (g.at_ x) x code y).prog? p = none →
      exec (.vload p {}) s = .next (s.onDev (s.dev.deviceFault q (g.at_ x) x code y))) ∧
    (∀ w, s.dev.coreCheck v.dev v.count = none → partOf v.dev = .direct → v.dev ≤ w → w < v.dev + v.count →
      (s.dev.deviceFault q (g.at_ x) x 0x45 w).prog? p = none →
      exec (.vload p { badHbm := some w }) s = .next (s.onDev (s.dev.deviceFault q (g.at_ x) x 0x45 w))))

/-- R113, R116, R155, R156: VALLOC writes the pointer that the pool answers, VFREE frees the buffer named at SRC1, and VHINT hands the union of
the experts chosen in 16 rows, ascending, to the migration engine; with several cores in the stream each does so in turn. -/
def Obligations.VectorUnits : Prop :=
  (∀ (s : State) (p x : Nat) (ecc : Ecc) (g : Prog) (bs : List Byte), Safety.Turn s p 0x94 g x bs →
    let v := vecOf bs
    Safety.Clear s p x bs (slotRule v.hm none [Span.w v.dst 8 8]) ecc → ecc.corrLocal = 0 →
    (∀ q ptr d, g.gang = [q] → s.dev.userAlloc g.ctx v.count v.imm (g.devPc x) = .inr (ptr, d) → Safety.Gives (.valloc p ecc) s (fun t =>
      t.dev.locNat q v.dst 8 = ptr % 2 ^ 64 ∧ Safety.LocalBut s t [q] v.dst (fun _ => 8) ∧ t.dev.pool = d.pool ∧ t.dev.hbm = d.hbm ∧
      t.dev.ctxs = d.ctxs ∧ t.dev.prog? p = some (Safety.pastV g x) ∧ Safety.SameOthers s t ∧ t.dev.vault = s.dev.vault ∧
      t.dev.hostMem = s.dev.hostMem)) ∧
    (∀ d, d = Safety.eachCore g p (fun d c => match d.userAlloc g.ctx v.count v.imm (g.devPc x) with
        | .inl (code, addr) => d.deviceFault c (g.at_ x) x code addr
        | .inr (ptr, d) => d.locWrite c v.dst (toLe 8 ptr)) s.dev →
      (d.prog? p).isSome = true → exec (.valloc p ecc) s = .next (s.onDev (d.passed p (g.at_ x) g.gang)))) ∧
  (∀ (s : State) (p x : Nat) (ecc : Ecc) (g : Prog) (bs : List Byte), Safety.Turn s p 0x95 g x bs →
    let v := vecOf bs
    Safety.Clear s p x bs (slotRule false none [Span.r v.src1 8 8]) ecc → ecc.corrLocal = 0 → v.imm = 0 →
    (∀ q k n, g.gang = [q] → s.dev.checkFree (s.dev.locNat q v.src1 8) (some g.ctx) = .inr (k, n) →
      exec (.vfree p ecc) s = .next (s.onDev ((s.dev.freeBuf k n).passed p (g.at_ x) [q]))) ∧
    (∀ d, d = Safety.eachCore g p (fun d c => match d.checkFree (d.locNat c v.src1 8) (some g.ctx) with
        | .inl code => d.deviceFault c (g.at_ x) x code (d.locNat c v.src1 8)
        | .inr (k, n) => d.freeBuf k n) s.dev →
      (d.prog? p).isSome = true → exec (.vfree p ecc) s = .next (s.onDev (d.passed p (g.at_ x) g.gang)))) ∧
  (∀ (s : State) (p x : Nat) (ecc : Ecc) (g : Prog) (bs : List Byte), Safety.Turn s p 0x93 g x bs →
    let v := vecOf bs
    Safety.Clear s p x bs (hintRule v) ecc → ecc.corrLocal = 0 →
    let union (c : Nat) : List Nat := (List.range v.count).filter (fun e =>
      (List.range 16).any (fun r => (hintRow v.imm (s.dev.words c (v.src1 + 4 * r * v.count) v.count)).contains e))
    exec (.vhint p ecc) s =
      .next (s.onDev ((g.gang.foldl (fun d c => d.takeHints v.dev v.count (union c)) s.dev).passed p (g.at_ x) g.gang))) ∧
  (∀ (s : State) (p x : Nat) (ecc : Ecc) (g : Prog) (bs : List Byte) (code loc : Nat), ecc.badLocal = none →
    (Safety.Turn s p 0x94 g x bs ∧ (vecOf bs).fault (slotRule (vecOf bs).hm none [Span.w (vecOf bs).dst 8 8]) = some (code, loc) →
      exec (.valloc p ecc) s = .next (s.onDev (s.dev.insnFault p (g.at_ x) x code .v loc))) ∧
    (Safety.Turn s p 0x93 g x bs ∧ (vecOf bs).fault (hintRule (vecOf bs)) = some (code, loc) →
      exec (.vhint p ecc) s = .next (s.onDev (s.dev.insnFault p (g.at_ x) x code .v loc))))

/-- R72, R81, R103, R107, R328: an array instruction, dense or sparse, that breaks a rule faults with the first code of the order of R103; one
without valid rows, or masked by CORE_KEEP, retires empty, reading and writing nothing, its slot wasted (R337); any other enters the scoreboard in
slot M and its core asks for the mode's carats. R74, R89, R97, R100: the drain of a core's oldest array instruction, its carats granted and its
clock running, leaves on every core of the mode the tile of sums at OUT, counts the operations and completes the instruction, and nothing else of
local memory changes; without its carats nothing happens; a residue mismatch bypasses the failing column and faults with code 0x27, writing
nothing; an uncorrectable word among the operands faults with 0x28. -/
def Obligations.ArrayIssueAndDrain : Prop :=
  (∀ (s : State) (c : Instr) (p op x : Nat) (ecc : Ecc) (g : Prog) (bs : List Byte),
     (c = .denseInstruction p ecc ∧ op = 0x40 ∨ c = .sparseArrayInstruction p ecc ∧ op = 0x41) → Safety.Turn s p op g x bs →
     ecc.badLocal = none →
     let a := arrOf bs
     let empty : Prop := s.dev.rowCount a p = 0 ∨ (a.keep = true ∧ (s.dev.core p).keep.getLsbD a.keepBit = false)
     (∀ code loc, s.dev.arrFault a p g = some (code, loc) → exec c s = .next (s.onDev (s.dev.insnFault p (g.at_ x) x code .m loc))) ∧
     (s.dev.arrFault a p g = none → empty → Safety.Gives c s (fun t =>
       t.dev.prog? p = some (Safety.pastM g x) ∧ Safety.SameMemory s t ∧ Safety.SameRegsButCounters [p] s t ∧ Safety.SameOthers s t ∧
       t.dev.ctxs = s.dev.ctxs ∧ t.dev.pwr = s.dev.pwr ∧ t.dev.rd (Reg.coreCntTdRetired p) = s.dev.rd (Reg.coreCntTdRetired p) ∧
       t.dev.rd (Reg.coreCntTdWasted p) = (s.dev.rd (Reg.coreCntTdWasted p) + 1) % 2 ^ 64)) ∧
     (s.dev.arrFault a p g = none → ¬ empty → s.dev.hazard p .m x (s.dev.rangesOf p bs) = false →
       (∀ fed, s.dev.fedSet a p = .inr fed → Safety.Gives c s (fun t =>
         (∃ i, t.dev.prog? p = some { Safety.pastM g x with score := g.score ++ [i] } ∧ i.slot = .m ∧ i.pend = .array (op = 0x41) ∧ i.insn = bs ∧
           i.order = (g.at_ x).order) ∧
         (a.carats ≤ t.dev.holds p ∨ ∃ r ∈ t.dev.pwr.waiting, r.req = p ∧ a.carats ≤ s.dev.holds p + r.carats) ∧
         Safety.SameMemory s t ∧ Safety.SameOthers s t ∧ t.dev.ctxs = s.dev.ctxs)) ∧
       (∀ code loc, ecc.corrLocal = 0 → ecc.corrHbm = 0 → s.dev.fedSet a p = .inl (code, loc) →
         exec c s = .next (s.onDev (s.dev.localFault p (g.at_ x) x code .m loc)))) ∧
     (s.dev.arrFault a p g = none → ¬ empty → s.dev.hazard p .m x (s.dev.rangesOf p bs) = true → exec c s = .next s)) ∧
  (∀ (s : State) (p : Nat) (residue : List (Nat × Nat)) (ecc : Ecc) (g : Prog) (i : Issued), Safety.Operating s → s.dev.prog? p = some g →
     g.oldestArray = some i →
     let a := arrOf i.insn
     let cores := s.dev.arrCores a p
     let total := s.dev.rowCount a p
     (s.dev.holds p < a.carats ∨ s.dev.clocked p = false → exec (.arrayDrain p residue ecc) s = .next s) ∧
     (∀ fed, a.carats ≤ s.dev.holds p → s.dev.clocked p = true → ecc.badLocal = none → s.dev.residueHits a cores residue = [] →
       s.dev.fedSet a p = .inr fed → a.badLocal = none → cores.Nodup → cores.length ≤ 4 →
       let idx := a.fedElems fed
       Safety.Gives (.arrayDrain p residue ecc) s (fun t =>
         (∀ cq ∈ cores.zip (List.range 4), t.dev.locRead cq.1 a.outAddr (4 * a.cols * a.coreRows total cq.2) =
           s.dev.arrTile a p cq.1 (a.coreRows total cq.2) idx (idx.map (· / 32)).eraseDups) ∧
         Safety.LocalBut s t cores a.outAddr (fun _ => 4 * a.cols * a.coreRows total 0) ∧ Safety.SameOuter s t ∧
         (∀ cq ∈ cores.zip (List.range 4), t.dev.rd (Reg.coreCntOps cq.1) =
           (s.dev.rd (Reg.coreCntOps cq.1) + 2 * a.coreRows total cq.2 * a.cols * idx.length) % 2 ^ 64) ∧
         t.dev.prog? p = some { g with score := g.score.filter (fun y => y.order ≠ i.order) } ∧ Safety.SameOthers s t ∧ t.dev.pwr = s.dev.pwr)) ∧
     (∀ w, a.carats ≤ s.dev.holds p → s.dev.clocked p = true → a.pave ≠ 2 → ecc = { badLocal := some w } →
       meets (s.dev.arrReads a p total 0) [(w, 1)] = true →
       exec (.arrayDrain p residue ecc) s = .next (s.onDev (s.dev.localFault p g i.pc 0x28 .m w))) ∧
     (∀ h, a.carats ≤ s.dev.holds p → s.dev.clocked p = true → ecc = {} → s.dev.residueHits a cores residue = [h] →
       exec (.arrayDrain p residue ecc) s = .next (s.onDev ((s.dev.bypass h.1 h.2.1 h.2.2).insnFault h.1 g i.pc 0x27 .m 0))))

/-! Engines of the ring commands. -/

/-- R301: COPY moves bytes between host memory, after what the host stored before, and the device range, and completes; each direction leaves the
other memories alone. R129: one that reads a tile that is away moves nothing and waits as a whole. R126, R284: a BAR2 read of the direct part
answers the bytes there and changes no memory; a write stores its bytes and nothing else; one beyond the window reaches nothing; a read that meets
an uncorrectable word is answered with BAR2_RANGE and counted at its stack; while MOUNT_LOAD or MOUNT_CLEAR runs a write is refused with
REG_REJECTED and stores nothing. -/
def Obligations.CopiesAndBar2 : Prop :=
  (∀ (s : State) (ring seq : Nat) (host : HostStores) (ecc : Ecc) (j : Job), Safety.Granted s ring seq 8 j →
     let m := host.foldl (fun m e => memSet m e.1 e.2) s.dev.hostMem
     let ha := fldOf j.cmd 24 63 0
     let da := fldOf j.cmd 32 47 0
     let n := fldOf j.cmd 40 31 0
     (Safety.Direct s da n → Safety.Unshared s da n → ecc.badHbm = none →
       Safety.Gives (.copy ring seq host ecc) s (fun t =>
         Safety.Ended s t j (s.dev.recordOf j 0 false 0 0) ∧ t.dev.vault = s.dev.vault ∧ t.dev.loc = s.dev.loc ∧ t.dev.cores = s.dev.cores ∧
         t.dev.colls = s.dev.colls ∧ t.dev.remote = s.dev.remote ∧ t.dev.tb = s.dev.tb ∧ t.dev.routing = s.dev.routing ∧
         (fldOf j.cmd 44 0 0 = 0 → t.dev.hostMem = m ∧ Safety.DirectHolds s t da (memRead m ha n)) ∧
         (fldOf j.cmd 44 0 0 ≠ 0 → t.dev.hbm = s.dev.hbm ∧ t.dev.hostMem = memWrite m ha (s.dev.devRead da n)))) ∧
     (host = [] → fldOf j.cmd 44 0 0 ≠ 0 → 0 < n → partOf da = .tiered → tileOf da = tileOf (da + n - 1) → s.dev.checkRange da n = none →
       s.dev.resident (tileOf da) = false → (s.dev.fetching (tileOf da) = true ∨ s.dev.tileServed (tileOf da) = true) → s.dev.mig.stalls = [] →
       Safety.Gives (.copy ring seq host ecc) s (fun t =>
         (∃ w, t.dev.mig.stalls = [w] ∧ w.cmd = some (.copy ring seq [] ecc)) ∧ t.dev.job? ring seq = some j ∧ t.dev.rings = s.dev.rings ∧
         Safety.SameMemory s t ∧ t.dev.cores = s.dev.cores))) ∧
  (∀ (s : State) (off len : Nat) (data : List Byte) (ecc : Ecc), Safety.Operating s → s.dev.glb.hostLink = true →
     let a := s.dev.bar2Addr off
     (off + len ≤ 2 ^ 36 → Safety.Direct s a len → ecc.badHbm = none → Safety.Gives (.bar2Access false off len data ecc) s (fun t =>
       t.dev.hostPort.answer = .block (s.dev.devRead a len) ∧ Safety.SameMemory s t ∧ t.dev.jobs = s.dev.jobs ∧ t.dev.mig = s.dev.mig)) ∧
     (∀ w, off + len ≤ 2 ^ 36 → Safety.Direct s a len → ecc.badHbm = some w → a ≤ w → w < a + len →
       Safety.Gives (.bar2Access false off len data ecc) s (fun t =>
         t.dev.hostPort.answer = .error 5 len ∧ Safety.SameMemory s t ∧ t.dev.ctxs = s.dev.ctxs ∧
         t.dev.rd (Reg.hbmCntUncorr (s.dev.errStack w)) = (s.dev.rd (Reg.hbmCntUncorr (s.dev.errStack w)) + 1) % 2 ^ 64)) ∧
     (off + data.length ≤ 2 ^ 36 → s.dev.mgmt.run = none → Safety.Direct s a data.length → Safety.Unshared s a data.length → ecc.badHbm = none →
       Safety.Gives (.bar2Access true off len data ecc) s (fun t =>
         t.dev.hostPort.answer = .done ∧ Safety.DirectHolds s t a data ∧ t.dev.loc = s.dev.loc ∧ t.dev.vault = s.dev.vault ∧
         t.dev.hostMem = s.dev.hostMem ∧ t.dev.remote = s.dev.remote ∧ t.dev.jobs = s.dev.jobs)) ∧
     (2 ^ 36 < off + len → exec (.bar2Access false off len data ecc) s = .next (s.onDev (s.dev.answer .host .silent))) ∧
     (∀ r, off + data.length ≤ 2 ^ 36 → 0 < data.length → s.dev.mgmt.run = some r → r.op = 1 ∨ r.op = 2 →
       exec (.bar2Access true off len data ecc) s = .next (s.onDev (s.dev.errResp .host 4 a data.length true))))

/-- R54, R56, R70, R302: a PROGRAM whose shape word holds M = 0 retires empty, and no core changes; one without shape word and load list puts its
bytes at LOCAL on every core of its group and starts there at its first instruction, with CORE_M from the command, CORE_KEEP all ones and the
cores the context's. A ganged quartet runs its leader's program. R36, R38, R40, R41, R43, R67, R141: a STEP on engines that are ready and hold no
early counts starts a layer execution with the descriptors and the directories in memory, each Routing Engine's read at its own bases, and with the
context's STEP_SEQ, which advances (that the layer has the count before the increase is log entry 89); a descriptor that R37 rejects faults with
0x08. R139 to R141, R312: the joins of its batch change list are admitted in list order into the lowest free slots while the quota holds and none
was refused, each is reported to its ring, the tokens of the refused ones leave the step, and the leaving slots are noted; a list of more than 4,096
entries completes the STEP with BAD_BATCH_LIST and its token count (RESULT1 is open in the specification, log entry 3). -/
def Obligations.ProgramsAndLayersStart : Prop :=
  ((∀ (s : State) (ring seq : Nat) (ecc : Ecc) (j : Job), Safety.Granted s ring seq 1 j → cmdShape j.cmd ≠ 0 → ecc.badHbm = none →
     Safety.Direct s (cmdShape j.cmd) 8 → bitsOf (s.dev.devNat (cmdShape j.cmd) 8) 23 0 = 0 →
     Safety.Gives (.program ring seq ecc) s (fun t =>
       Safety.Ended s t j (s.dev.recordOf j 0 true 0 0) ∧ t.dev.cores = s.dev.cores ∧ Safety.SameMemory s t ∧
       Safety.SameRegsBut Safety.hbmCounters s t)) ∧
   (∀ (s : State) (ring seq : Nat) (ecc : Ecc) (j : Job), Safety.Granted s ring seq 1 j → cmdShape j.cmd = 0 → fldOf j.cmd 56 47 0 = 0 →
     s.dev.coresReady j.ctx j.cmd = true → cmdAssay j.cmd = false → ecc.badHbm = none →
     let cores := s.dev.placeCores j.cmd
     let loc := fldOf j.cmd 28 21 0
     let n := fldOf j.cmd 40 23 0
     let pa := fldOf j.cmd 32 47 0
     Safety.Direct s pa n → loc + n ≤ 0x1C0000 → cores.Nodup →
     Safety.Gives (.program ring seq ecc) s (fun t =>
       (∀ p ∈ cores, t.dev.locRead p loc n = s.dev.devRead pa n ∧ (t.dev.core p).m = fldOf j.cmd 44 23 0 ∧
         (t.dev.core p).keep = BitVec.allOnes 256 ∧ ((s.dev.core p).slot.isSome = true → (t.dev.core p).owner = some j.ctx)) ∧
       (∀ p ∈ cores, (∀ q ∈ cores, p ∈ s.dev.gangOf q → q = p) → t.dev.prog? p = some
         { ring := j.ring, seq := j.seq, ctx := j.ctx, pc := loc, pcM := loc, progLocal := loc, progAddr := pa, hlayer := cmdHlayer j.cmd,
           ordinal := cmdOrdinal j.cmd, occ := none, assay := false, assayWidth := 0, gang := s.dev.gangOf p }) ∧
       (∀ p, (∀ q ∈ cores, p ≠ q ∧ p ∉ s.dev.gangOf q) → t.dev.core p = s.dev.core p) ∧
       Safety.LocalBut s t cores loc (fun _ => n) ∧ Safety.SameOuter s t ∧
       t.dev.job? ring seq = some { j with started := true } ∧ (∀ q, t.dev.ring q = s.dev.ring q)))) ∧
  (∀ (s : State) (ring seq : Nat) (ecc : Ecc) (j : Job), Safety.Granted s ring seq 2 j → s.dev.nextStep = some j → s.dev.reReady = true →
     s.dev.routing.counts = [] → ecc.badHbm = none →
     let t0 := fldOf j.cmd 28 15 0
     let list := fldOf j.cmd 32 47 0
     let n := fldOf j.cmd 24 7 0
     (∀ es : List KvEntry, (list = 0 ∧ es = [] ∨ Safety.BatchList s j es) → (∀ i, i < 4 → Safety.InstanceReads s n i) →
       let out := Safety.kvOutcome s j.ctx (es.filter (fun e => e.join)) (s.dev.rd (Reg.migKvReserved j.ctx)) []
       let refused := out.filter (fun x => x.2.isNone)
       let joined := out.filterMap (fun x => x.2.map (fun m => (m, x.1.blocks)))
       Safety.Gives (.step ring seq ecc) s (fun t =>
         t.dev.routing.layer = some
           { ctx := j.ctx, ring := ring, seq := seq, occ := none, desc := (Safety.instanceView s n 0).1,
             stepSeq := (s.dev.ctx j.ctx).stepSeq, tokens := t0 - sumBy (fun x => x.1.tokens) refused,
             keoth := (List.range 4).map (fun i => s.dev.flag (Reg.reCtrl i) 1),
             shapeBase := (List.range 4).map (fun i => s.dev.rd (Reg.reShapeBase i)),
             dir := (Safety.instanceView s n 0).2, own := (List.range 4).map (Safety.instanceView s n),
             admitted := joined.length, refused := refused.length, joined := joined, leaving := kvLeaves es } ∧
         (t.dev.ctx j.ctx).stepSeq = ((s.dev.ctx j.ctx).stepSeq + 1) % 65536 ∧
         t.dev.job? ring seq = some { j with started := true } ∧ t.dev.cores = s.dev.cores ∧ t.dev.colls = s.dev.colls ∧
         (∀ x ∈ joined, t.dev.slotRec j.ctx x.1 = x.2 + 2 ^ 63) ∧
         t.dev.rd (Reg.migKvReserved j.ctx) = s.dev.rd (Reg.migKvReserved j.ctx) + sumBy (fun x => x.2) joined ∧
         t.dev.rd Reg.migCntKvRefused = (s.dev.rd Reg.migCntKvRefused + refused.length) % 2 ^ 64 ∧
         (∀ q, (t.dev.ring q).hold = (s.dev.ring q).hold ++
           (out.filter (fun x => x.1.ring = q && Safety.takesReports s j q)).map (fun x =>
             { s.dev.recordOf j (if x.2.isSome then 0xB7 else 0xB8) false (x.1.tag + x.2.getD 0 * 2 ^ 32) 0 with kind := 1, cancelLate := false })) ∧
         (∀ y, (∀ x ∈ joined, ∀ i, i < 8 → y ≠ hbmKey s.dev.ilv (s.dev.slotAddr j.ctx x.1 + i)) → memByte t.dev.hbm y = memByte s.dev.hbm y) ∧
         t.dev.vault = s.dev.vault ∧ t.dev.loc = s.dev.loc ∧ t.dev.hostMem = s.dev.hostMem)) ∧
     (∀ i, list = 0 → i < 4 → (s.dev.ctx j.ctx).mode = .live → (∀ k, k < i → Safety.InstanceReads s n k) →
       Safety.Direct s (s.dev.rd (Reg.reLayerTableBase i) + 64 * n) 64 → Safety.badInstance s n i = true →
       Safety.Gives (.step ring seq ecc) s (fun t =>
         t.dev.routing.layer = none ∧ (t.dev.ctx j.ctx).mode = .tearing ∧ (t.dev.ctx j.ctx).cause = 0x08 ∧ t.dev.job? ring seq = none)) ∧
     (list ≠ 0 → Safety.Direct s list 8 → 4096 < fldOf (s.dev.devRead list 8) 0 15 0 →
       Safety.Gives (.step ring seq ecc) s (fun t =>
         (∃ v, Safety.Ended s t j (s.dev.recordOf j 0xB5 false t0 v)) ∧ t.dev.routing = s.dev.routing ∧ Safety.SameMemory s t ∧
         (t.dev.ctx j.ctx).stepSeq = (s.dev.ctx j.ctx).stepSeq)))

/-- R215, R251, R266: a COLLECTIVE whose number no other here bears waits to open with the descriptor in memory; a CLASP that finds a free place
and none open of its number arrives at the present stroke and proposes that stroke plus its lead, and one that finds 16 open waits; a
HALLMARK_FLUSH completes at once with all ones while HM_ENABLE = 0, and else waits for the entries outstanding at its grant. -/
def Obligations.CollectiveClaspFlushTakenUp : Prop :=
  (∀ (s : State) (ring seq : Nat) (ecc : Ecc) (j : Job), Safety.Granted s ring seq 3 j → ecc.badHbm = none →
    let a := fldOf j.cmd 24 47 0
    let desc := s.dev.devRead a 64
    Safety.Direct s a 64 → (∀ c ∈ s.dev.colls, c.id ≠ fldOf desc 4 14 0) →
    Safety.Gives (.collective ring seq ecc) s (fun t =>
      t.dev.colls = s.dev.colls ++ [{ id := fldOf desc 4 14 0, ctx := j.ctx, ring := ring, seq := seq, desc := desc }] ∧
      t.dev.job? ring seq = some { j with started := true } ∧ Safety.SameMemory s t ∧ t.dev.rings = s.dev.rings ∧ t.dev.fil = s.dev.fil)) ∧
  (∀ (s : State) (ring seq : Nat) (j : Job), Safety.Granted s ring seq 4 j → s.dev.tb.claspQueue = [] →
    let n := fldOf j.cmd 24 15 0
    let lead := if fldOf j.cmd 24 23 16 = 0 then s.dev.fld Reg.tbClaspCfg 7 0 else fldOf j.cmd 24 23 16
    let timeout := if fldOf j.cmd 28 31 0 = 0 then s.dev.fld Reg.tbClaspCfg 31 8 else fldOf j.cmd 28 31 0
    (s.dev.tb.clasps.length < 16 → s.dev.clasp? n = none → s.dev.fil.held = [] → 0 < lead →
      Safety.Gives (.clasp ring seq) s (fun t =>
        (∃ c ∈ t.dev.tb.clasps, c.n = n ∧ c.ring = ring ∧ c.seq = seq ∧ c.ctx = j.ctx ∧ c.ok = true ∧ c.arrived = s.dev.stroke ∧
          c.proposal = s.dev.stroke + lead ∧ c.timeout = timeout) ∧
        (∀ c ∈ s.dev.tb.clasps, c ∈ t.dev.tb.clasps) ∧ t.dev.tb.claspQueue = [] ∧
        t.dev.job? ring seq = some { j with started := true } ∧ Safety.SameMemory s t ∧ Safety.SameRegsBut [] s t ∧ t.dev.rings = s.dev.rings)) ∧
    (16 ≤ s.dev.tb.clasps.length → Safety.Gives (.clasp ring seq) s (fun t =>
        t.dev.tb = { s.dev.tb with claspQueue := [(n, lead, timeout, ring, seq, j.ctx)] } ∧ t.dev.fil = s.dev.fil ∧
        t.dev.job? ring seq = some { j with started := true } ∧ Safety.SameMemory s t ∧ Safety.SameRegsBut [] s t ∧ t.dev.rings = s.dev.rings))) ∧
  (∀ (s : State) (ring seq : Nat) (j : Job), Safety.Granted s ring seq 7 j →
    (s.dev.flag Reg.tbCtrl 2 = false → Safety.Gives (.hallmarkFlush ring seq) s (fun t =>
      Safety.Ended s t j (s.dev.recordOf j 0 false (2 ^ 64 - 1) 0) ∧ Safety.SameMemory s t ∧ Safety.SameRegsBut [] s t ∧
      t.dev.tb.hmDue = s.dev.tb.hmDue ∧ t.dev.tb.hmSeq = s.dev.tb.hmSeq)) ∧
    (∀ f, s.dev.flag Reg.tbCtrl 2 = true → s.dev.tb.flushes = [f] → f.ring = ring → f.seq = seq → f.waits ≠ [] →
      exec (.hallmarkFlush ring seq) s = .next (s.onDev (s.dev.modJob ring seq (fun x => { x with started := true })))) ∧
    (∀ f, s.dev.flag Reg.tbCtrl 2 = true → s.dev.tb.flushes = [f] → f.ring = ring → f.seq = seq → f.waits = [] →
      Safety.Gives (.hallmarkFlush ring seq) s (fun t => Safety.Ended s t j (s.dev.recordOf j 0 false (flushResult f.last) 0) ∧
        Safety.SameMemory s t ∧ Safety.SameRegsBut [] s t ∧ t.dev.tb.flushes = [])))

/-! Routing Engines. -/

/-- R44 to R51: a half's plan. No expert takes more pairs than CAP_QUOTA in a half; the segments are in ascending destination order, none is
empty, every row of one is for an expert whose home is the segment's destination and gathers its token's row, and the segments hold each
granted pair once. RE_PLAN_READY counts the dropped and diverted choices and leaves the half planned with these pairs, by the descriptor and the
directory of its own bases (R67); the last engine of the device to plan also sends the counts (R52). In Keoth-step mode it writes the sorted pairs
and waits for the host (R61). -/
def Obligations.PlanHoldsGrantedPairs : Prop :=
  (∀ (l : Layer) (ranked : List (Nat × List (Nat × Nat))) (e : Nat),
    ((l.capacity ranked).choices.filter (fun c => c.expert = e)).length ≤ l.quota) ∧
  (∀ (l : Layer) (me : Nat) (cs : List Choice),
    ((l.segments me cs).map (fun s => s.peer)).Pairwise (· < ·) ∧
    ((l.segments me cs).flatMap (fun s => s.rows.map (fun r => r.pair))).Perm cs ∧
    ∀ s ∈ l.segments me cs, s.rows ≠ [] ∧ ∀ r ∈ s.rows, l.homeOf me r.pair.expert = s.peer ∧ r.gather = r.pair.token) ∧
  (∀ (s : State) (re h : Nat) (ecc : Ecc) (l : Layer) (ranked : List (Nat × List (Nat × Nat))) (d e : Dev), Safety.Operating s → re < 4 →
    s.dev.mig.now = {} → ecc.badHbm = none → s.dev.routing.layer = some l → s.dev.nextHalf l re = some h →
    let own := l.asRe re
    let cap := own.capacity ranked
    let pairs := own.sortPairs d.me cap.choices
    let counted := (d.bump (Reg.reCntDropped re) cap.dropped).bump (Reg.reCntDiverted re) cap.diverted
    let done (e : Dev) : Dev := e.modRe h re (fun r => { r with planned := true, choices := pairs, ranked := ranked })
    (s.dev.modLayer (fun l => { l with half := h })).scoreHalf own h re = (some ranked, d) →
    (l.keothRe re = true → counted.putKeoth own h re pairs = (true, e) → e.mig.now = {} →
      exec (.rePlanReady re ecc) s = .next (s.onDev (done e))) ∧
    (l.keothRe re = false → counted.putPlan own h re (own.segments d.me cap.choices) = (true, e) →
      ∀ m, (done e).routing.layer = some m → m.keothRe re = false →
        (m.ownPlanned h = false → e.mig.now = {} → exec (.rePlanReady re ecc) s = .next (s.onDev (done e))) ∧
        (m.ownPlanned h = true → (((done e).sendCounts m h).tryMap h).mig.now = {} →
          exec (.rePlanReady re ecc) s = .next (s.onDev (((done e).sendCounts m h).tryMap h)))))

/-- R52 to R55: a count message of the current or next step from a device of the block whose slots fit joins the count table; one of a step done
is counted in FIL_CNT_DUP, one further ahead or from outside faults with code 0x05. The message that completes the table of a half builds its
receive maps. A shape word shows M, STEP_SEQ, LAYER, HALF and VALID in their bits. -/
def Obligations.CountsBuildReceiveMaps : Prop :=
  (∀ (s : State) (m : FilMsg) (d : Dev), Safety.Operating s → s.dev.mig.now = {} → s.dev.filTake 0 = (some m, d) →
    let r := countRowOf m
    let e : Dev := { d with routing := { d.routing with counts := d.routing.counts ++ [r] } }
    let serves (l : Layer) (q : Nat) : Bool := !l.keothRe q
    let fault := d.countFault r.layer r.half r.first
    (d.countAge r.seq = 0 → exec .countMessageReceive s = .next (s.onDev (d.bump Reg.filCntDup 1))) ∧
    (d.countAge r.seq = 2 ∨ (d.countAge r.seq = 1 ∧ d.blockN ≤ r.src) → fault.mig.now = {} →
      exec .countMessageReceive s = .next (s.onDev fault)) ∧
    (∀ l, d.countAge r.seq = 1 → r.src < d.blockN → d.routing.layer = some l → d.rowMisfits l r = true → fault.mig.now = {} →
      exec .countMessageReceive s = .next (s.onDev fault)) ∧
    (d.countAge r.seq = 1 → r.src < d.blockN → d.routing.layer = none → exec .countMessageReceive s = .next (s.onDev e)) ∧
    (∀ l, d.countAge r.seq = 1 → r.src < d.blockN → d.routing.layer = some l → d.rowMisfits l r = false →
      ((l.halfOf r.half).exchanged = true ∨ l.ownPlanned r.half = false ∨ e.countTable l r.half = none →
        exec .countMessageReceive s = .next (s.onDev e)) ∧
      (∀ table f, (l.halfOf r.half).exchanged = false → l.ownPlanned r.half = true → e.countTable l r.half = some table →
        e.mapSlots l r.half table (serves l) = (true, f) → f.mig.now = {} →
        exec .countMessageReceive s = .next (s.onDev ((f.modHalf r.half (fun x =>
          { x with exchanged := true, counts := f.joinCounts l (serves l) x.counts table })).settleMaps r.half))))) ∧
  (∀ (s : State) (l : Layer) (h slot e : Nat) (table : List (List Nat)),
    let a := s.dev.slotShape l h slot
    let m := rowsFor table slot
    let own := l.asRe (s.dev.servingRe l e)
    s.dev.mig.now = {} → m ≤ s.dev.reserveOf own → m < 2 ^ 24 → l.stepSeq < 2 ^ 16 → own.number < 2 ^ 8 → h < 2 →
    Safety.Direct s a 8 → Safety.Unshared s a 8 →
    ∃ d, s.dev.mapSlot l h table slot e = (true, d) ∧ Safety.DirectHolds s (s.onDev d) a (toLe 8 (shapeWord m l.stepSeq own.number h)) ∧
      bitsOf (d.devNat a 8) 23 0 = m ∧ bitsOf (d.devNat a 8) 47 32 = l.stepSeq ∧ bitsOf (d.devNat a 8) 55 48 = own.number ∧
      bitsOf (d.devNat a 8) 56 56 = h ∧ bitOf (d.devNat a 8) 63 = true ∧ d.loc = s.dev.loc ∧ d.vault = s.dev.vault)

/-- R59, R61, R62, R64: RE_HALT writes HALT and nothing else. COUNT_TIMEOUT of an engine that waits, be it for another engine of its device
that is halted, abandons the layer: its STEP ends with status 0x0C and the context stays. KEOTH_RECORD_POST puts the half's record into the
event ring once; a KEOTH_RESUME that matches no waiting half is refused; KEOTH_TIMEOUT faults with code 0x07 at the plan's address. -/
def Obligations.HaltTimeoutAndKeoth : Prop :=
  (∀ (s : State) (p : MPort) (re : Nat) (on : Bool), Safety.Writable s p → re < 4 → Safety.Fits (Reg.reCtrl re) (s.dev.rd (Reg.reCtrl re)) →
    Safety.Gives (.reHalt p re on) s (fun t =>
      t.dev.rd (Reg.reCtrl re) = setBits (s.dev.rd (Reg.reCtrl re)) 2 2 (b2n on) ∧ t.dev.flag (Reg.reCtrl re) 2 = on ∧
      Safety.SameRegsBut [Reg.reCtrl re] s t ∧ Safety.SameMemory s t ∧ Safety.SameEngines s t)) ∧
  (∀ (s : State) (re : Nat) (l : Layer) (j : Job), Safety.Operating s → re < 4 → s.dev.routing.layer = some l → s.dev.waitsCounts re = true →
    s.dev.rd (Reg.reCountTimeout re) ≠ 0 → s.dev.colls = [] → l.joined = [] → l.occ = none → s.dev.job? l.ring l.seq = some j → j.occ = none →
    (s.dev.ctx j.ctx).stagePins = [] →
    Safety.Gives (.countTimeout re) s (fun t =>
      t.dev.routing.layer = none ∧ t.dev.routing.lastSeq = some l.stepSeq ∧ Safety.Ended s t j (s.dev.recordOf j 0x0C false l.result0 l.stepSeq) ∧
      (∀ c, (t.dev.ctx c).mode = (s.dev.ctx c).mode) ∧ t.dev.cores = s.dev.cores ∧ t.dev.loc = s.dev.loc ∧ t.dev.vault = s.dev.vault ∧
      t.dev.hostMem = s.dev.hostMem)) ∧
  (∀ (s : State) (re h : Nat) (l : Layer), Safety.Operating s → re < 4 → s.dev.waitsHost re = some (l, h) →
    let r := s.dev.fld (Reg.reKeothRing re) 11 0
    let at_ := s.dev.rd (Reg.ringCqBase r) / 4096 * 4096 + s.dev.rd (Reg.ringCqHead r) % 2 ^ s.dev.fld (Reg.ringSize r) 11 8 * 32
    (((l.halfOf h).re re).posted = true → exec (.keothRecordPost re) s = .next s) ∧
    (((l.halfOf h).re re).posted = false → s.dev.flag (Reg.ringCtrl r) 0 = true → s.dev.fld (Reg.ringCtrl r) 2 1 = 1 → s.dev.cqFull r = false →
      s.dev.flag (Reg.ringCqBase r) 0 = false → s.dev.flag (Reg.ringCtrl r) 27 = false → Safety.Gives (.keothRecordPost re) s (fun t =>
        t.dev.hostMem = memWrite s.dev.hostMem at_ (l.keothRecord h re) ∧ (l.keothRecord h re).length = 32 ∧
        t.dev.rd (Reg.ringCqHead r) = (s.dev.rd (Reg.ringCqHead r) + 1) % 65536 ∧ Safety.SameRegsBut [Reg.ringCqHead r] s t ∧
        t.dev.hbm = s.dev.hbm ∧ t.dev.loc = s.dev.loc ∧ t.dev.jobs = s.dev.jobs)) ∧
    (s.dev.rd (Reg.reKeothTimeout re) ≠ 0 →
      exec (.keothTimeout re) s = .next (s.onDev (s.dev.reFault re l.ctx h l.number 0x07 (some ((l.halfOf h).re re).planAddr)))) ∧
    (∀ (p : MPort) (v : W32) (ecc : Ecc) (segs : List Segment) (d : Dev), Safety.Writable s p → v.toNat = l.stepSeq % 2 ^ 16 + h * 2 ^ 16 →
      l.stepSeq < 2 ^ 16 → s.dev.mig.now = {} → ecc.badHbm = none → s.dev.hostPlan l h re = (some segs, d) →
      (d.acceptPlan l h re segs).glb.phase = .running → (d.acceptPlan l h re segs).mig.now = {} →
      exec (.keothResume p re v ecc) s = .next (s.onDev (Safety.Done (d.acceptPlan l h re segs) p)))) ∧
  (∀ (s : State) (p : MPort) (re : Nat) (v : W32) (ecc : Ecc), Safety.Writable s p → re < 4 → v.toNat < 2 ^ 17 →
    (∀ l h, s.dev.waitsHost re = some (l, h) → bitsOf v.toNat 15 0 ≠ l.stepSeq ∨ bitsOf v.toNat 16 16 ≠ h) →
    exec (.keothResume p re v ecc) s = .next (s.onDev (s.dev.writeErr p 4 (Reg.reKeothResume re) 4)))

/-- R57, R58, R59, R222 to R224: the dispatch of a half opens once, with a receive map, as the all-to-all of its COLL_ID that expects one stream
from each device with rows; its return opens after the dispatch has ended and its experts' programs are done (stated on a block of two devices
or more without a message held back and without a collective in its close vote). The ordered combine of a half leaves for every token of it at
OUT_ADDR the sum over its filled ranks, ascending, in OUT_FMT, and nothing else in HBM changed; the half is complete, and with the last half the
layer completes and its STEP ends with OK, its counts and STEP_SEQ (R34, R60). -/
def Obligations.AllToAllAndCombine : Prop :=
  (∀ (s : State) (h dir : Nat) (ecc : Ecc) (l : Layer) (c : Instr), Safety.Operating s → h < 2 → s.dev.routing.layer = some l → s.dev.mayOpen = true →
    s.dev.fil.held = [] → 1 < s.dev.blockN → (∀ x ∈ s.dev.colls, x.phase ≠ .closing) →
    let id := 0x8000 + l.stepSeq % 4096 * 4 + h * 2 + dir
    let row := if dir = 0 then l.dispBytes else l.retBytes
    let spans (q : Nat) : List (Nat × Nat) := if dir = 0 then s.dev.dispatchSpans l h q
      else ((l.halfOf h).merged q).map (fun r => (l.combineAddr r.pair.token r.pair.rank, row))
    (c = .dispatchOpen h ecc ∧ dir = 0 ∧ (l.halfOf h).mapped = true ∧ (l.halfOf h).dispatched = false) ∨
    (c = .returnOpen h ∧ dir = 1 ∧ (l.halfOf h).dispatchOk = true ∧ (l.halfOf h).returned = false ∧ s.dev.expertsDone l h = true) →
    (∀ x ∈ s.dev.colls, x.id ≠ id) →
    Safety.Gives c s (fun t =>
      (∃ x, t.dev.coll? id = some x ∧ x.re = some (h, dir) ∧ x.ctx = l.ctx ∧ x.phase = .opening ∧ x.own = 0 ∧
        x.streams = ((List.range s.dev.blockN).filter (fun q => !(spans q).isEmpty)).map (fun q =>
          ⟨0, q, s.dev.me, segHeader l.number h dir l.stepSeq q s.dev.me (spans q).length row, spans q, []⟩)) ∧
      (∀ k, k ≠ id → t.dev.coll? k = s.dev.coll? k) ∧
      (∃ m, t.dev.routing.layer = some m ∧ (if dir = 0 then (m.halfOf h).dispatched else (m.halfOf h).returned) = true) ∧
      Safety.SameRegsBut [Reg.collCntOpened] s t ∧ Safety.SameMemory s t ∧ t.dev.jobs = s.dev.jobs ∧ t.dev.ctxs = s.dev.ctxs)) ∧
  (∀ (s : State) (h : Nat) (ecc : Ecc) (l : Layer) (j : Job), Safety.Operating s → h < 2 → s.dev.routing.layer = some l → ecc.badHbm = none →
    (l.halfOf h).returnOk = true → (l.halfOf h).done = false → l.occ = none → s.dev.combineReady l h = true →
    (l.halfOf h).res.all (fun r => r.bufs.isEmpty) = true → l.leaving = [] → (s.dev.ctx l.ctx).demandPins = [] →
    s.dev.job? l.ring l.seq = some j → j.occ = none → (s.dev.ctx j.ctx).stagePins = [] →
    let tokens := (l.halfTokens h).map (fun x => x.2.2)
    let n := (packCodes l.outFmt ((List.replicate l.outElems 0).map (fun v => convWord l.outFmt (f32 v)))).length
    let out (tok : Nat) : List Byte := packCodes l.outFmt ((((l.halfOf h).filled tok).foldl (fun a x =>
      combineTerm l.outFmt x.2 a (s.dev.devRead (l.combineAddr tok x.1) l.retBytes)) (List.replicate l.outElems 0)).map
        (fun v => convWord l.outFmt (f32 v)))
    (∀ tok ∈ tokens, Safety.Direct s (l.addr 48 + tok * n) n ∧ Safety.Unshared s (l.addr 48 + tok * n) n ∧
      ∀ x ∈ (l.halfOf h).filled tok, Safety.Direct s (l.combineAddr tok x.1) l.retBytes ∧
        ∀ tok' ∈ tokens, overlaps (l.addr 48 + tok' * n) n (l.combineAddr tok x.1) l.retBytes = false) →
    Safety.Gives (.orderedCombine h ecc) s (fun t =>
      (∀ tok ∈ tokens, t.dev.devRead (l.addr 48 + tok * n) n = out tok) ∧
      (∀ y, (∀ tok ∈ tokens, ∀ i, i < n → y ≠ hbmKey s.dev.ilv (l.addr 48 + tok * n + i)) → memByte t.dev.hbm y = memByte s.dev.hbm y) ∧
      t.dev.loc = s.dev.loc ∧ t.dev.vault = s.dev.vault ∧ t.dev.hostMem = s.dev.hostMem ∧ t.dev.colls = s.dev.colls ∧
      ((l.halfOf (1 - h)).done = false → (l.split = true ∨ h = 1) → t.dev.jobs = s.dev.jobs ∧
        ∃ m, t.dev.routing.layer = some m ∧ (m.halfOf h).done = true ∧ (m.halfOf (1 - h)).done = false) ∧
      ((l.halfOf (1 - h)).done = true ∨ (l.split = false ∧ h = 0) →
        t.dev.routing.layer = none ∧ t.dev.routing.lastSeq = some l.stepSeq ∧
        Safety.Ended s t j (s.dev.recordOf j 0 false l.result0 l.stepSeq))))

/-! Tiers. -/

/-- R130, R131: an idle port that is up and holds its carats begins the queued fetch into the lowest free frame of its pool, whose directory
entry shows FETCHING and the frame; when it completes the tile is resident and the frame holds the Vault's bytes, and when it read poison the
tile is not resident and the event is counted. A write-back leaves the frame's bytes in the
Vault and the tile resident, or its frame free where an eviction or an unpinned stage waited for it. -/
def Obligations.TileTransfers : Prop :=
  (∀ (s : State) (n f : Nat) (x : Xfer) (ecc : Ecc), Safety.Operating s → n < 2 → s.dev.vaultUp n = true → s.dev.vaultLost n = false →
    (s.dev.vport n).retraining = false → (s.dev.vport n).running = none → (s.dev.vport n).queue = [x] → s.dev.flag Reg.migCtrl 1 = false →
    4 ≤ s.dev.holds (590 + n) → x.writeback = false → s.dev.resident x.tile = false → s.dev.fetching x.tile = false →
    (s.dev.poolList x.stream).find? (fun f => !s.dev.frameUsed f) = some f → Safety.EntryPlaced s x.tile → f < 2 ^ 23 →
    Safety.Gives (.vaultTransfer n ecc) s (fun t =>
      (t.dev.vport n).running = some x ∧ (t.dev.vport n).queue = [] ∧ t.dev.fetching x.tile = true ∧ t.dev.resident x.tile = false ∧
      t.dev.dirty x.tile = false ∧ t.dev.frameOf x.tile = f ∧ t.dev.tileIn f = x.tile ∧ t.dev.vault = s.dev.vault ∧ t.dev.loc = s.dev.loc ∧
      Safety.SameRegsBut Safety.hbmCounters s t)) ∧
  (∀ (s : State) (n : Nat) (x : Xfer) (ecc : Ecc), Safety.Operating s → n < 2 → (s.dev.vport n).running = some x → x.writeback = false →
    Safety.NoTileWaiters s → Safety.FramePlaced s x.tile (s.dev.frameOf x.tile) → Memory.wf s.dev.vault = true →
    let from_ := (s.dev.vaultOf x.tile).1 * 2 ^ 42 + (s.dev.vaultOf x.tile).2
    (x.tile ∉ s.dev.mig.poisoned → Safety.Gives (.vaultFetchComplete n false ecc) s (fun t =>
      t.dev.resident x.tile = true ∧ t.dev.fetching x.tile = false ∧ t.dev.dirty x.tile = false ∧ t.dev.frameOf x.tile = s.dev.frameOf x.tile ∧
      t.dev.dirRead (s.dev.frameOf x.tile * tileBytes) tileBytes = memRead s.dev.vault from_ tileBytes ∧ (t.dev.vport n).running = none ∧
      t.dev.vault = s.dev.vault ∧ t.dev.loc = s.dev.loc ∧ t.dev.jobs = s.dev.jobs)) ∧
    (s.dev.tileIn (s.dev.frameOf x.tile) = x.tile → Safety.Gives (.vaultFetchComplete n true ecc) s (fun t =>
      t.dev.resident x.tile = false ∧ t.dev.fetching x.tile = false ∧ t.dev.frameUsed (s.dev.frameOf x.tile) = false ∧
      (t.dev.vport n).running = none ∧ t.dev.rd (Reg.vltPortPoison n) = (s.dev.rd (Reg.vltPortPoison n) + 1) % 2 ^ 64 ∧
      Safety.SameRegsBut (Reg.vltPortPoison n :: Safety.hbmCounters) s t ∧ t.dev.vault = s.dev.vault ∧ t.dev.loc = s.dev.loc ∧
      t.dev.jobs = s.dev.jobs))) ∧
  (∀ (s : State) (n : Nat) (x : Xfer), Safety.Operating s → n < 2 → (s.dev.vport n).running = some x → x.writeback = true →
    Safety.HbmPlaced s → Safety.EntryPlaced s x.tile → s.dev.frameOf x.tile * tileBytes + tileBytes ≤ directSize →
    let home := (s.dev.vaultOf x.tile).1 * 2 ^ 42 + (s.dev.vaultOf x.tile).2
    (bitOf (s.dev.tdir x.tile) 4 = false → Safety.Gives (.vaultWritebackComplete n) s (fun t =>
      memRead t.dev.vault home tileBytes = s.dev.dirRead (s.dev.frameOf x.tile * tileBytes) tileBytes ∧
      t.dev.resident x.tile = s.dev.resident x.tile ∧ bitOf (t.dev.tdir x.tile) 3 = false ∧ (t.dev.vport n).running = none ∧
      t.dev.rd Reg.migCntWriteback = (s.dev.rd Reg.migCntWriteback + 1) % 2 ^ 64 ∧ t.dev.loc = s.dev.loc ∧ t.dev.jobs = s.dev.jobs)) ∧
    (bitOf (s.dev.tdir x.tile) 4 = true → s.dev.dirty x.tile = false → s.dev.pins x.tile = 0 → s.dev.tileIn (s.dev.frameOf x.tile) = x.tile →
      Safety.Gives (.vaultWritebackComplete n) s (fun t =>
        memRead t.dev.vault home tileBytes = s.dev.dirRead (s.dev.frameOf x.tile * tileBytes) tileBytes ∧ t.dev.resident x.tile = false ∧
        t.dev.frameUsed (s.dev.frameOf x.tile) = false ∧ (t.dev.vport n).running = none ∧
        t.dev.rd Reg.migCntWriteback = (s.dev.rd Reg.migCntWriteback + 1) % 2 ^ 64 ∧ t.dev.loc = s.dev.loc ∧ t.dev.jobs = s.dev.jobs)))

/-- R30, R118, R133, R137, R143, R290: a stage is admitted all or nothing, each of its tiles with one pin more; a hint at the head of the queue
becomes class-2 fetches of its expert's tiles or is counted invalid; a hint at its home is queued while there is room, and one for an expert
that is present or whose hint waits already is discarded and counted. A vault link that falls clears LINK_UP, rate, width and its clocks' lock
bits and keeps its queue; one that comes up again shows what it trained to, is LOST for good once its expander was reset, which ends the
transfer that ran and empties the queue, and ends the LINK_RETRAIN that waits for it, as does the timeout with 0x12. -/
def Obligations.StagesHintsAndVaultLinks : Prop :=
  (∀ (s : State) (c st : Nat) (rest : List (Nat × Nat)), Safety.Operating s → s.dev.mig.stageReqs = (c, st) :: rest →
    (s.dev.stageFits st = false → exec .stageAdmission s = .next s) ∧
    (s.dev.stageFits st = true → s.dev.fld Reg.migCtrl 5 4 = 0 →
      (∀ i ∈ s.dev.stageTiles st, Safety.EntryPlaced s i ∧ s.dev.pins i + 1 < 2 ^ 16) →
      Safety.Gives .stageAdmission s (fun t =>
        t.dev.mig.stageReqs = rest ∧ (t.dev.ctx c).stagePins = (s.dev.ctx c).stagePins ++ [(st, s.dev.stageTiles st)] ∧
        (∀ i ∈ s.dev.stageTiles st, t.dev.pins i = s.dev.pins i + 1 ∧ t.dev.resident i = s.dev.resident i ∧
          (s.dev.resident i = false → s.dev.fetching i = false → (s.dev.vaultOf i).1 < s.dev.mig.ports.length → t.dev.queued i = true)) ∧
        Safety.SameRegsBut Safety.hbmCounters s t ∧ t.dev.vault = s.dev.vault ∧ t.dev.loc = s.dev.loc ∧ t.dev.jobs = s.dev.jobs))) ∧
  (∀ (s : State) (l e : Nat) (rest : List (Nat × Nat)), Safety.Operating s → s.dev.mig.hints = (l, e) :: rest →
    let d : Dev := { s.dev with mig := { s.dev.mig with hints := rest } }
    (s.dev.xtab l e = none → exec .hintQueueTake s = .next (s.onDev (d.bump Reg.migCntHintInvalid 1))) ∧
    (∀ first n, s.dev.xtab l e = some (first, n) → exec .hintQueueTake s =
      .next (s.onDev (((List.range n).map (first + ·)).foldl (fun d i => d.queueFetch i 2 false true false) d)))) ∧
  (∀ (s : State) (m : FilMsg), Safety.Operating s → s.dev.fil.rx.find? (fun m => m.typ = 1) = some m →
    let d : Dev := { s.dev with fil := { s.dev.fil with rx := s.dev.fil.rx.erase m } }
    (hintOk m = false → exec .hintMessage s = .next (s.onDev (d.bump Reg.migCntHintInvalid 1))) ∧
    (hintOk m = true → fldOf m.data 0 12 8 = 1 → fldOf m.data 8 15 0 < 16384 →
      exec .hintMessage s = .next (s.onDev (d.localHint (fldOf m.data 0 7 0) (fldOf m.data 8 15 0))))) ∧
  (∀ (d : Dev) (l e : Nat), d.dirEntry l e = none → d.localHint l e = d.bump Reg.migCntHintInvalid 1) ∧
  (∀ (d : Dev) (l e : Nat) (ent : List Byte), d.dirEntry l e = some ent →
    (dirEnable ent = false → d.localHint l e = d.bump Reg.migCntHintInvalid 1) ∧
    (dirEnable ent = true → (dirTier ent = false ∨ d.expertPresent l e = true ∨ (l, e) ∈ d.mig.hints) →
      d.localHint l e = d.bump Reg.migCntHintPresent 1) ∧
    (dirEnable ent = true → dirTier ent = true → d.expertPresent l e = false → (l, e) ∉ d.mig.hints →
      d.localHint l e =
        if d.ctxs.any (fun c => c.2.mode = .live) = false then d.bump Reg.migCntHintIdle 1
        else if d.mig.hints.length < 512 then
          ({ d with mig := { d.mig with hints := d.mig.hints ++ [(l, e)] } } : Dev).bump Reg.migCntHintQueued 1
        else d.bump Reg.migCntHintFull 1)) ∧
  (∀ (s : State) (n : Nat), Safety.Operating s → n < 2 → s.dev.vaultUp n = true → Safety.NoTileWaiters s →
    Safety.Gives (.vaultLinkDown n) s (fun t =>
      t.dev.fld (Reg.vltPortStatus n) 8 0 = 0 ∧ t.dev.vaultLost n = s.dev.vaultLost n ∧ t.dev.flag Reg.glbClkLock (56 + n) = false ∧
      t.dev.flag Reg.glbClkLock (58 + n) = false ∧ t.dev.mig = s.dev.mig ∧
      Safety.SameRegsBut [Reg.vltPortStatus n, Reg.glbClkLock, Reg.glbClkLoss] s t ∧ Safety.SameMemory s t ∧ t.dev.jobs = s.dev.jobs)) ∧
  (∀ (s : State) (n : Nat) (r : MgmtRun), Safety.Operating s → n < 2 → (s.dev.vport n).retraining = true → s.dev.mgmt.run = some r → r.op = 4 →
    r.target = 6 + n → r.begun = true → Safety.NoTileWaiters s →
    (∀ (v : VaultLink) (wasReset : Bool), 0 < v.width → v.width < 32 → Safety.Gives (.vaultLinkUp n v wasReset) s (fun t =>
      t.dev.vaultUp n = true ∧ t.dev.fld (Reg.vltPortStatus n) 8 4 = v.width ∧ t.dev.vaultLost n = (s.dev.vaultLost n || wasReset) ∧
      (t.dev.vport n).retraining = false ∧ Safety.MgmtEnded t 0 ∧ t.dev.loc = s.dev.loc ∧
      (wasReset = false → (t.dev.vport n).queue = (s.dev.vport n).queue ∧ (t.dev.vport n).running = (s.dev.vport n).running ∧
        Safety.SameMemory s t) ∧
      (wasReset = true → (t.dev.vport n).queue = [] ∧ (t.dev.vport n).running = none ∧
        ((s.dev.vport n).running = none → t.dev.hbm = s.dev.hbm) ∧
        ∀ x, (s.dev.vport n).running = some x → Safety.EntryPlaced s x.tile →
          (x.writeback = false → s.dev.tileIn (s.dev.frameOf x.tile) = x.tile → t.dev.resident x.tile = false ∧ t.dev.fetching x.tile = false) ∧
          (x.writeback = true → t.dev.resident x.tile = s.dev.resident x.tile ∧ t.dev.dirty x.tile = true)))) ∧
    Safety.Gives (.vaultRetrainTimeout n) s (fun t =>
      (t.dev.vport n).retraining = false ∧ (t.dev.vport n).queue = (s.dev.vport n).queue ∧ Safety.MgmtEnded t 0x12 ∧
      Safety.SameRegsBut [Reg.mgmtStatus, Reg.mgmtResultInfo] s t ∧ Safety.SameMemory s t))

/-! Router. -/

/-- R193, R197 to R204, R208: the oldest cell accepted on an optical port is discarded with the event of the first check that fails, or without
one while the router is disabled; else it is placed in the bank that stage 1 reaches, first and whatever becomes of a mirror copy, which is made
of it at most once in this router. Placed, it joins the first usable productive queue; a cell that is not gold and finds none joins the first
usable optical queue in cyclic order, else the transit reserve, else it is lost with event 0x76; a gold one takes the place of the youngest
cell of a productive queue that holds a younger one than itself, which is deflected. An offered cell that finds no place waits. The
productive outputs of a cell for another device are in-block ports, and of equal ages the last to enter is displaced. -/
def Obligations.RouterPlacesCells : Prop :=
  (∀ (s : State) (n sl : Nat) (q : QCell) (rest : List QCell), Safety.Operating s → n < 6 → (s.dev.optPort n).rx = q :: rest →
    let d := s.dev.modPort n (fun p => { p with rx := rest })
    let m := (n + sl) % 12
    let c := q.cell
    (∀ code, c.headerFault = some code →
      exec (.routerCellArrive n sl) s = .next (s.onDev ((d.bump Reg.fabCntDropHdr 1).routerEvent code n c))) ∧
    (c.headerFault = none → s.dev.flag Reg.fabRtCtrl 0 = false →
      exec (.routerCellArrive n sl) s = .next (s.onDev (d.bump Reg.fabCntDropRoute 1))) ∧
    (c.headerFault = none → s.dev.flag Reg.fabRtCtrl 0 = true → s.dev.unroutable c = true →
      exec (.routerCellArrive n sl) s = .next (s.onDev ((d.bump Reg.fabCntDropRoute 1).routerEvent 0x74 n c))) ∧
    (c.headerFault = none → s.dev.flag Reg.fabRtCtrl 0 = true → s.dev.unroutable c = false →
      (c.age = 255 → s.dev.isHere c = false →
        exec (.routerCellArrive n sl) s = .next (s.onDev ((d.bump Reg.fabCntDropAge 1).routerEvent 0x75 n c))) ∧
      (c.age ≠ 255 ∨ s.dev.isHere c = true →
        ((s.dev.flag Reg.fabMirrorCtrl 32 = false ∨ q.copied = true ∨ c.mirrored = true) →
          exec (.routerCellArrive n sl) s = .next (s.onDev (d.place m q))) ∧
        (s.dev.flag Reg.fabMirrorCtrl 32 = true → (s.dev.flag Reg.fabMirrorCtrl n = true ∨ s.dev.mirrorMatch c = true) → q.copied = false →
          c.mirrored = false →
          let made := (d.place m { q with copied := true }).mirrorCell c n false
          (∀ o, made.2.refuses made.1 = false → made.2.glb.stopped = false → made.2.admission m made.1 = some o →
            exec (.routerCellArrive n sl) s = .next (s.onDev ((made.2.enqueue m o ⟨made.1, 11, true⟩).bump Reg.fabCntMirror 1))) ∧
          ((made.2.refuses made.1 = true ∨ made.2.glb.stopped = true ∨ made.2.admission m made.1 = none) →
            exec (.routerCellArrive n sl) s = .next (s.onDev ((d.place m q).bump Reg.fabCntMirrorDrop 1))))))) ∧
  (∀ (s : State) (m : Nat) (q : QCell),
    let c := q.cell
    let Placed (P : State → Prop) : Prop := P (s.onDev (s.dev.place m q))
    (∀ o, (s.dev.productive c).find? (s.dev.usable m c.vc) = some o → Placed (fun t =>
      t.dev.bankQ m o c.vc = s.dev.bankQ m o c.vc ++ [q] ∧
      (∀ m' o' v, o' < 12 → v < 4 → (m', o', v) ≠ (m, o, c.vc) → t.dev.bankQ m' o' v = s.dev.bankQ m' o' v) ∧
      Safety.SameRegsBut [] s t ∧ Safety.SameMemory s t)) ∧
    ((s.dev.productive c).find? (s.dev.usable m c.vc) = none → c.gold = false →
      (∀ o, (((List.range 12).map (fun i => (q.inPort + 1 + i) % 12)).filter (fun o => o < 6)).find? (s.dev.usable m c.vc) = some o →
        Placed (fun t => t.dev.bankQ m o c.vc = s.dev.bankQ m o c.vc ++ [q] ∧
          t.dev.rd Reg.fabCntDeflected = (s.dev.rd Reg.fabCntDeflected + 1) % 2 ^ 64 ∧
          Safety.SameRegsBut [Reg.fabCntDeflected] s t ∧ Safety.SameMemory s t)) ∧
      ((∀ o, o < 6 → s.dev.usable m c.vc o = false) →
        ((s.dev.bank m).reserve.length < 16 → Placed (fun t =>
          (t.dev.bank m).reserve = (s.dev.bank m).reserve ++ [q] ∧ (t.dev.bank m).queues = (s.dev.bank m).queues ∧
          t.dev.rd Reg.fabCntTransit = (s.dev.rd Reg.fabCntTransit + 1) % 2 ^ 64 ∧
          Safety.SameRegsBut [Reg.fabCntTransit] s t ∧ Safety.SameMemory s t)) ∧
        (16 ≤ (s.dev.bank m).reserve.length →
          s.dev.place m q = (s.dev.bump Reg.fabCntDropTransit 1).routerEvent 0x76 q.inPort c))) ∧
    ((s.dev.productive c).find? (s.dev.usable m c.vc) = none → c.gold = true →
      ∀ o i v, (s.dev.productive c).find? (fun o => (victimOf c.age (s.dev.bankQ m o c.vc)).isSome) = some o →
        victimOf c.age (s.dev.bankQ m o c.vc) = some i → (s.dev.bankQ m o c.vc)[i]? = some v →
        s.dev.place m q = ((((s.dev.setQ m o c.vc ((s.dev.bankQ m o c.vc).eraseIdx i ++ [q])).bump Reg.fabCntDisplaced 1).bump
          Reg.fabCntDeflected 1).deflect m v true))) ∧
  (∀ (s : State) (n sl : Nat) (o : Offer), Safety.Operating s → 6 ≤ n → n < 12 →
    (s.dev.glb.stopped = true → exec (.cellInject n sl) s = .next (s.onDev s.dev.progress)) ∧
    (s.dev.glb.stopped = false → n ≠ 10 → s.dev.nextOffer n = some o → o.cell.headerFault = none → s.dev.refuses o.cell = false →
      (s.dev.admission ((n + sl) % 12) o.cell = none →
        exec (.cellInject n sl) s = .next (s.onDev (s.dev.bump Reg.fabCntInjectHeld 1).progress)) ∧
      (∀ out, s.dev.admission ((n + sl) % 12) o.cell = some out → s.dev.flag Reg.fabMirrorCtrl 32 = false → o.ring = none → o.coll = none →
        exec (.cellInject n sl) s = .next (s.onDev
          ((((s.dev.enqueue ((n + sl) % 12) out ⟨o.cell, n, false⟩).dropOffer n o).markInjected o.cell).progress))))) ∧
  (∀ (b : Blocks) (c : Cell), b.isHere c = false → ∀ o ∈ b.productive c, o < 6 ∧ b.inBlockPort o = true) ∧
  (∀ (age : Nat) (q : List QCell) (i : Nat), victimOf age q = some i →
    ∃ v, q[i]? = some v ∧ v.cell.age < age ∧ (∀ x ∈ q, v.cell.age ≤ x.cell.age) ∧ ∀ j w, i < j → q[j]? = some w → v.cell.age < w.cell.age)

/-- R197, R199, R201, R207, R211, R313: with FAB_RT_CTRL.ENABLE = 0 the router forwards nothing. Else stage 2 serves the cells left in a failing
bank before those of the spare that took its number, and on a side the oldest transit-reserve cell that the output's FIFO has room for before
any cell of its queues, then the oldest VC0 cell; the bulk FIFO takes the oldest gold cell, else a VC with cells by deficit round-robin. An
uncorrectable bank error loses that cell alone, is logged, and, where the cell is not one of a failing bank, moves the bank's cells behind a
spare while one is left. A mirror copy that finds no capture ring is dropped and counted; with one that has room it is written as 320 bytes at
its CQ head. -/
def Obligations.RouterServesBanks : Prop :=
  (∀ (s : State) (m sl : Nat) (corr : Bool), s.dev.flag Reg.fabRtCtrl 0 = false →
    exec (.transitReserveDepart m sl corr) s = .next s ∧ exec (.stage2FifoFill m sl corr) s = .next s) ∧
  (∀ (b : Blocks) (m out : Nat),
    (∀ r, b.stageTurn m out = some (false, r) → b.reserveReady m true out = none ∧ b.queueReady m true out = false) ∧
    (∀ old, b.stageTurn m out = some (old, false) → b.reserveReady m old out = none)) ∧
  (∀ (s : State) (m sl : Nat) (corr old : Bool), Safety.Operating s → m < 12 → s.dev.flag Reg.fabRtCtrl 0 = true →
    s.dev.flag Reg.fabMirrorCtrl 32 = false →
    let out := (m + sl) % 12
    (s.dev.stageTurn m out ≠ some (old, true) → s.dev.stageTurn m out ≠ some (!old, true) →
      exec (.transitReserveDepart m sl corr) s = .next s) ∧
    (s.dev.stageTurn m out ≠ some (old, false) → s.dev.stageTurn m out ≠ some (!old, false) →
      exec (.stage2FifoFill m sl corr) s = .next s) ∧
    (∀ i q, s.dev.stageTurn m out = some (old, true) → s.dev.reserveReady m old out = some i → (s.dev.sideReserve m old)[i]? = some q →
      Safety.Gives (.transitReserveDepart m sl corr) s (fun t =>
        t.dev.sideReserve m old = (s.dev.sideReserve m old).eraseIdx i ∧ t.dev.sideReserve m (!old) = s.dev.sideReserve m (!old) ∧ out < 6 ∧
        (q.cell.vc = 0 → tabGet [] t.dev.router.vc0 out = tabGet [] s.dev.router.vc0 out ++ [q] ∧ t.dev.router.bulk = s.dev.router.bulk) ∧
        (q.cell.vc ≠ 0 → tabGet [] t.dev.router.bulk out = tabGet [] s.dev.router.bulk out ++ [q] ∧ t.dev.router.vc0 = s.dev.router.vc0) ∧
        Safety.SameRegsBut [Reg.fabCntBankCorr] s t ∧ Safety.SameMemory s t ∧ t.dev.ports = s.dev.ports)) ∧
    (∀ q rest, s.dev.stageTurn m out = some (old, false) → s.dev.fifoRoom out 0 = true → s.dev.sideQ m old out 0 = q :: rest → q.cell.vc = 0 →
      (out < 6 → Safety.Gives (.stage2FifoFill m sl corr) s (fun t =>
        t.dev.sideQ m old out 0 = rest ∧ t.dev.sideQ m (!old) out 0 = s.dev.sideQ m (!old) out 0 ∧
        tabGet [] t.dev.router.vc0 out = tabGet [] s.dev.router.vc0 out ++ [q] ∧
        t.dev.router.bulk = s.dev.router.bulk ∧ Safety.SameRegsBut [Reg.fabCntBankCorr] s t ∧ Safety.SameMemory s t)) ∧
      (6 ≤ out → corr = false → exec (.stage2FifoFill m sl corr) s = .next (s.onDev ((s.dev.takeQ m old out 0 0).deliver q.cell)))) ∧
    (∀ v i e q, s.dev.stageTurn m out = some (old, false) → (s.dev.fifoRoom out 0 = false ∨ s.dev.sideQ m old out 0 = []) → corr = false →
      out < 6 → s.dev.pickBulk m old out = some (v, i, e) → (s.dev.sideQ m old out v)[i]? = some q → q.cell.vc = v →
      Safety.Gives (.stage2FifoFill m sl corr) s (fun t =>
        0 < v ∧ v < 4 ∧ t.dev.sideQ m old out v = (s.dev.sideQ m old out v).eraseIdx i ∧
        tabGet [] t.dev.router.bulk out = tabGet [] s.dev.router.bulk out ++ [q] ∧ t.dev.router.vc0 = s.dev.router.vc0 ∧
        (∀ w x, 0 < w → w < 4 → x ∈ s.dev.sideQ m old out w → x.cell.gold = true → q.cell.gold = true ∧ x.cell.age ≤ q.cell.age) ∧
        Safety.SameRegsBut [] s t ∧ Safety.SameMemory s t))) ∧
  (∀ (s : State) (m : Nat), Safety.Operating s → m < 12 → ((s.dev.bank m).queues.map (·.1)).Nodup →
    let cells (d : Dev) (out vc : Nat) : List QCell := d.sideQ m true out vc ++ d.sideQ m false out vc
    let held (d : Dev) : List QCell := d.sideReserve m true ++ d.sideReserve m false
    let Moved (t : State) (ofSpare : Bool) : Prop :=
      if ofSpare = true ∧ 0 < s.dev.fld Reg.fabRtStatus 21 20 then
        t.dev.fld Reg.fabRtStatus 21 20 = s.dev.fld Reg.fabRtStatus 21 20 - 1 ∧ (t.dev.bank m).queues = [] ∧ (t.dev.bank m).reserve = []
      else t.dev.rd Reg.fabRtStatus = s.dev.rd Reg.fabRtStatus
    (∀ out vc pos, out < 12 → vc < 4 → pos < (cells s.dev out vc).length → Safety.Gives (.bankUncorr m (.queue out vc pos)) s (fun t =>
      cells t.dev out vc = (cells s.dev out vc).eraseIdx pos ∧ held t.dev = held s.dev ∧
      (∀ o v, o < 12 → v < 4 → (o, v) ≠ (out, vc) → cells t.dev o v = cells s.dev o v) ∧
      Moved t (decide ((s.dev.sideQ m true out vc).length ≤ pos)) ∧
      Safety.Logged s t { code := 0x77, domain := 32, addr := Reg.fabRtStatus, kind := 2 } ∧ Safety.SameMemory s t)) ∧
    (∀ pos, pos < (held s.dev).length → Safety.Gives (.bankUncorr m (.reserve pos)) s (fun t =>
      held t.dev = (held s.dev).eraseIdx pos ∧ (∀ o v, o < 12 → v < 4 → cells t.dev o v = cells s.dev o v) ∧
      Moved t (decide ((s.dev.sideReserve m true).length ≤ pos)) ∧
      Safety.Logged s t { code := 0x77, domain := 32, addr := Reg.fabRtStatus, kind := 2 } ∧ Safety.SameMemory s t))) ∧
  (∀ (s : State) (c : Cell) (rest : List Cell), Safety.Operating s → s.dev.router.mirrorIn = c :: rest →
    let ring := s.dev.enabledRings.find? (fun r => s.dev.fld (Reg.ringCtrl r) 2 1 = 2)
    (ring = none → exec .mirrorCapture s =
      .next (s.onDev (({ s.dev with router := { s.dev.router with mirrorIn := rest } } : Dev).bump Reg.fabCntMirrorDrop 1))) ∧
    (∀ r, ring = some r → s.dev.cqFull r = false → s.dev.flag (Reg.ringCqBase r) 0 = false → s.dev.flag (Reg.ringCtrl r) 27 = false →
      let at_ := s.dev.rd (Reg.ringCqBase r) / 4096 * 4096 + s.dev.rd (Reg.ringCqHead r) % 2 ^ s.dev.fld (Reg.ringSize r) 11 8 * 320
      Safety.Gives .mirrorCapture s (fun t =>
        t.dev.router.mirrorIn = rest ∧
        t.dev.hostMem = memWrite s.dev.hostMem at_ (padTo 320 (c.bytes ++ toLe 8 s.dev.stroke ++ toLe 8 ((s.dev.ring r).captures + 1))) ∧
        t.dev.rd (Reg.ringCqHead r) = (s.dev.rd (Reg.ringCqHead r) + 1) % 65536 ∧ Safety.SameRegsBut [Reg.ringCqHead r] s t ∧
        t.dev.hbm = s.dev.hbm ∧ t.dev.loc = s.dev.loc)))

/-! Determinism, collectives and Filigree. -/

/-- R7, R44, R86, R87, R221, R228: orders that the device leaves open change no bit. The long accumulator gives the same word for its blocks in any
order and so does the sum S of a gating function for its terms; the votes of a barrier round combine to the same result in any order; and
the bytes of a stream land at the same addresses however it is cut into cells. -/
def Obligations.OrderNeverChangesBits : Prop :=
  (∀ (toInt32 : Bool) (bs cs : List AccBlock) (fl : CellFlags) (init : Sys2Proof.Machine.Num), bs.Perm cs →
    longAccumulate toInt32 bs fl init = longAccumulate toInt32 cs fl init) ∧
  (∀ us vs : List Nat, us.Perm vs → gridSum us = gridSum vs) ∧
  (∀ (me : Nat) (own : Bool × Nat) (xs ys : List (Nat × Bool × Nat)), xs.Perm ys → (me :: xs.map (·.1)).Nodup →
    combineVotes me own xs = combineVotes me own ys ∧ ((combineVotes me own xs).1 = true ↔ own.1 = true ∧ ∀ v ∈ xs, v.2.1 = true)) ∧
  (∀ (spans : List (Nat × Nat)) (o : Nat) (xs ys : List Byte),
    let bytes (parts : List (Nat × List Byte)) : List (Nat × Byte) := parts.flatMap (fun p => p.2.zipIdx.map (fun b => (p.1 + b.2, b.1)))
    bytes (landing spans o (xs ++ ys)) = bytes (landing spans o xs) ++ bytes (landing spans (o + xs.length) ys))

/-- R221, R224, R225, R227 to R229, R238, R241: a waiting collective opens only while collectives are enabled and a place is free, with the streams
that it expects, or with status BAD_DESC in its barrier; a cell of an expected stream is placed by its CELL_INDEX once, and a duplicate, a
stale one and one of another Mount format are counted and change no memory, the last making an open collective vote FAIL with status VERSION;
round messages that come early are kept until the hold has passed and then dropped and counted, and a vote of FAIL among them ends the data
phase; at its deadline a collective that has not voted votes FAIL and ends here as LOST. -/
def Obligations.CollectivesOpenPlaceAndVote : Prop :=
  (∀ (s : State) (c : Coll) (ecc : Ecc), Safety.Operating s → s.dev.mig.now = {} → ecc.badHbm = none →
    s.dev.colls.find? (fun c => c.phase = .waiting) = some c →
    (s.dev.mayOpen = false → exec (.collectiveOpen ecc) s = .next s) ∧
    (s.dev.mayOpen = true → s.dev.isSmall c = false →
      (s.dev.badColl c = true → (s.dev.enterOpen c.id 0x81).mig.now = {} →
        exec (.collectiveOpen ecc) s = .next (s.onDev (s.dev.enterOpen c.id 0x81))) ∧
      (∀ bufs d, s.dev.badColl c = false → s.dev.takeSpace c = (true, bufs, d) →
        let e := (d.modColl c.id (fun x => { x with bufs := bufs.map (fun b => b.2.2.2), streams := d.expected c bufs })).enterOpen c.id 0
        e.mig.now = {} → exec (.collectiveOpen ecc) s = .next (s.onDev e))) ∧
    (s.dev.mayOpen = true → s.dev.isSmall c = true → s.dev.badColl c = false → c.count ≠ 0 →
      let d := (s.dev.bump Reg.collCntOpened 1).modColl c.id (fun c => { c with small := true, phase := .data, own := 0 })
      let e := (if d.failHeard c.id then d.voteFail c.id else d.smallStart c).collSweep
      e.mig.now = {} → exec (.collectiveOpen ecc) s = .next (s.onDev e))) ∧
  (∀ (d : Dev) (id status : Nat) (c : Coll), d.coll? id = some c → d.fil.held = [] → 1 < d.blockN → (∀ x ∈ d.colls, x.phase ≠ .closing) →
    (d.enterOpen id status).coll? id = some { c with phase := .opening, own := status, open_ :=
      { ok := status = 0, status := status, axis := (((List.range 3).find? (fun a => !(d.lineOf a).isEmpty)).getD 0) } }) ∧
  (∀ (s : State) (cell : Cell) (rest : List Cell) (i : Nat) (ecc : Ecc), Safety.Operating s → s.dev.mig.now = {} → ecc.badHbm = none →
    s.dev.router.collIn = cell :: rest → (List.range cell.extCount).find? (fun i => bitsOf (cell.extWord i) 2 0 = 1) = some i →
    let e := cell.ext i
    let id := fldOf e 4 15 0
    let d : Dev := { s.dev with router := { s.dev.router with collIn := rest } }
    let Does (r : Dev) : Prop := exec (.collectiveCellReceive ecc) s = .next (s.onDev r)
    (fldOf e 0 15 8 ≠ d.mountFmt → d.coll? id = none → Safety.Gives (.collectiveCellReceive ecc) s (fun t =>
      t.dev.rd Reg.collCntVersion = (s.dev.rd Reg.collCntVersion + 1) % 2 ^ 64 ∧ t.dev.router.collIn = rest ∧
      Safety.SameRegsBut [Reg.collCntVersion] s t ∧ Safety.SameMemory s t)) ∧
    (∀ c, fldOf e 0 15 8 ≠ d.mountFmt → s.dev.colls = [c] → c.id = id → c.phase = .data → c.early = false → c.own = 0 → s.dev.fil.held = [] →
      1 < s.dev.blockN → Safety.Gives (.collectiveCellReceive ecc) s (fun t =>
        (∃ x, t.dev.coll? id = some x ∧ x.version = true ∧ x.phase = .closing ∧ x.close.ok = false ∧ x.close.status = 0x82) ∧
        (∀ axis, s.dev.firstAxis = some axis → ∀ k ∈ s.dev.lineOf axis, ∃ m ∈ t.dev.fil.tx, isRound m id true axis = true ∧
          m.dst = BitVec.ofNat 32 (addrOf (s.dev.placeAt k) 2 0) ∧ bitOf m.sub 1 = false ∧ bitsOf m.sub 19 12 = 0x82) ∧
        t.dev.rd Reg.collCntVersion = (s.dev.rd Reg.collCntVersion + 1) % 2 ^ 64 ∧
        Safety.SameRegsBut [Reg.collCntVersion] s t ∧ Safety.SameMemory s t)) ∧
    (fldOf e 0 15 8 = d.mountFmt →
      (d.coll? id = none → Does (d.bump Reg.collCntStale 1)) ∧
      (∀ c x, d.coll? id = some c → c.reported = false → c.phase ≠ .waiting →
        c.streams.find? (fun x => x.level = fldOf e 0 21 19 && x.src = fldOf e 4 27 16 && x.shard = fldOf e 12 11 0) = some x →
        (fldOf e 8 31 0 ∈ x.got → Does (d.bump Reg.collCntDup 1)) ∧
        (fldOf e 8 31 0 ∉ x.got → c.phase = .closing ∨ x.cells ≤ fldOf e 8 31 0 → Does (d.bump Reg.collCntStale 1)) ∧
        (fldOf e 8 31 0 ∉ x.got → c.phase = .data → fldOf e 8 31 0 < x.cells → x.head = [] →
          let mine (y : Stream) : Bool := y.level = x.level && y.src = x.src && y.shard = x.shard
          let mark (y : Stream) : Stream := { y with got := y.got ++ [fldOf e 8 31 0] }
          ∀ f, ((d.modColl c.id (fun c => { c with streams := updWhere mine mark c.streams })).bump Reg.collCntRxCells 1).landAll c.ctx
                (landing x.spans (240 * fldOf e 8 31 0) cell.data) = (true, f) →
            ((f.collStep c.id).collSweep).mig.now = {} → Does ((f.collStep c.id).collSweep))))) ∧
  (∀ (s : State) (m : FilMsg) (d : Dev) (ecc : Ecc), Safety.Operating s → s.dev.mig.now = {} → ecc.badHbm = none →
    let kept (d : Dev) : Dev := { d with fil := { d.fil with held := d.fil.held ++ [m] } }
    (s.dev.filTake 2 = (some m, d) → bitsOf m.sub 9 2 = d.mountFmt →
      (d.coll? m.key = none → exec (.barrierMessage ecc) s = .next (s.onDev (kept d))) ∧
      (∀ c, d.coll? m.key = some c → c.phase = .data → isFail m m.key = true → (((kept d).voteFail m.key).collSweep).mig.now = {} →
        exec (.barrierMessage ecc) s = .next (s.onDev (((kept d).voteFail m.key).collSweep))) ∧
      (∀ c, d.coll? m.key = some c → (if bitOf m.sub 0 then c.phase = .closing else c.phase = .opening) →
        (c.bar (bitOf m.sub 0)).axis = bitsOf m.sub 11 10 →
        let e := (((d.modColl m.key (fun c => c.takeVote (bitOf m.sub 0) d.mountFmt m)).barrierRun m.key (bitOf m.sub 0) false 4).collStep
          m.key).collSweep
        e.mig.now = {} → exec (.barrierMessage ecc) s = .next (s.onDev e))) ∧
    (s.dev.filTake 3 = (some m, d) →
      (d.coll? m.key = none → exec (.smallCollectiveMessage ecc) s = .next (s.onDev (kept d))) ∧
      (∀ c, d.coll? m.key = some c → c.small = true → c.phase = .data → c.smallAxis = bitsOf m.sub 1 0 →
        let e := ((d.modColl m.key (fun c =>
          { c with smallGot := c.smallGot ++ [(bitsOf m.sub 1 0, bitsOf m.sub 2 2, m.src, m.data)] })).smallRun m.key false 5).collSweep
        e.mig.now = {} → exec (.smallCollectiveMessage ecc) s = .next (s.onDev e)))) ∧
  (∀ (s : State) (id : Nat) (c : Coll), Safety.Operating s → s.dev.coll? id = some c → c.phase ≠ .waiting → c.reported = false → c.re = none →
    s.dev.fil.held = [] → 1 < s.dev.blockN → c.phase = .data → c.bufs = [] → s.dev.colls = [c] → s.dev.job? c.ring c.seq = none →
    Safety.Gives (.collectiveDeadline id) s (fun t =>
      (∃ x, t.dev.coll? id = some x ∧ x.lost = true ∧ x.reported = true ∧ x.phase = .closing ∧ x.close.ok = false) ∧
      t.dev.rd Reg.collCntFailed = (s.dev.rd Reg.collCntFailed + 1) % 2 ^ 64 ∧ Safety.SameRegsBut [Reg.collCntFailed] s t ∧ Safety.SameMemory s t)) ∧
  (∀ s : State, Safety.Operating s →
    Safety.Gives .heldMessageExpire s (fun t =>
      t.dev.fil = { s.dev.fil with held := s.dev.fil.held.filter (fun m => decide (s.dev.ageOf m ≤ s.dev.dupHold)) } ∧
      t.dev.rd Reg.filCntStale =
        (s.dev.rd Reg.filCntStale + (s.dev.fil.held.filter (fun m => decide (s.dev.dupHold < s.dev.ageOf m))).length) % 2 ^ 64 ∧
      Safety.SameRegsBut [Reg.filCntStale] s t ∧ Safety.SameMemory s t ∧ Safety.SameEngines s t) ∧
    exec .filterIdentityExpire s = .next (s.onDev
      { s.dev with fil := { s.dev.fil with filter := s.dev.fil.filter.filter (fun m => decide (s.dev.ageOf m ≤ s.dev.dupHold)) } }))

/-! Memory-semantic traffic. -/

/-- R230 to R237, R280: a home applies a valid store or load that nothing holds and answers it with OK, counts a duplicate, holds a flagged store
until every earlier request of its source is applied, answers FAULT without a Mount or where the access faults, and RANGE beyond the window, and
lets a request to a line that is shared wait for the sharers, who are asked. A response without its request is discarded; the answer of a load
lands at its local address; a timeout faults its core in its context with 0x94. An invalidate request drops the line. When the last sharer has
answered, a core's store is made and its pages take their new epochs. A replica serves once its fetch is complete and goes at its TTL or by an
invalidation with a later epoch. -/
def Obligations.HomesReplicasAndRequests : Prop :=
  (∀ (s : State) (c : Cell) (h : List Byte) (d : Dev) (ecc : Ecc), Safety.Operating s → s.dev.mig.now = {} → ecc.badHbm = none →
    s.dev.takeMem [0, 1, 2, 3] = some (c, h, d) →
    let r := d.requestOf c h
    let a := d.rd Reg.memExportBase + r.off
    let src := d.homeSrc r.srcPlace.toNat
    let Does (e : Dev) : Prop := exec (.memRequest ecc) s = .next (s.onDev e)
    0 < r.len → r.len ≤ 128 →
    (d.isDup r = true → Does (d.bump Reg.memCntDup 1)) ∧
    (d.isDup r = false → r.mop = 2 → src.next ≠ r.seq → Does (d.setHome r.srcPlace.toNat { src with flagged := src.flagged ++ [r] })) ∧
    (d.isDup r = false → r.mop < 2 → (d.mountFmt = 0 ∨ d.flag Reg.memCtrl 0 = false) → Does (d.refuseAtHome r 2)) ∧
    (d.isDup r = false → r.mop < 2 → d.mountFmt ≠ 0 → d.flag Reg.memCtrl 0 = true →
      (d.exportBytes < r.off + r.len → Does (d.refuseAtHome r 1)) ∧
      (∀ code x, r.off + r.len ≤ d.exportBytes → d.engineCheck a r.len = some (code, x) → Does ((d.homeFault code x).refuseAtHome r 2)) ∧
      (d.flag Reg.memCtrl 1 = false → r.off + r.len ≤ d.exportBytes → Safety.Direct s a r.len → d.remote.sharers = [] → d.remote.waits = [] →
        c.data.length = (if r.mop = 1 then r.len else 0) →
        (∀ k, r.off / 65536 ≤ k → k ≤ (r.off + r.len - 1) / 65536 → d.replicable k = false) →
        Safety.Gives (.memRequest ecc) s (fun t =>
          (r.mop = 1 → Safety.DirectHolds s t a c.data) ∧ (r.mop = 0 → t.dev.hbm = s.dev.hbm) ∧
          (∃ o, tabGet [] t.dev.router.offers (d.homePort a) = tabGet [] s.dev.router.offers (d.homePort a) ++ [o] ∧ o.ring = none ∧
            o.cell.dst = c.src ∧ o.cell.endTag = c.endTag ∧ o.cell.vc = 2 ∧ o.cell.data = (if r.mop = 0 then s.dev.devRead a r.len else [])) ∧
          t.dev.homeSrc r.srcPlace.toNat = HomeSrc.advance { src with applied := src.applied ++ [r.seq] } 65 ∧
          t.dev.loc = s.dev.loc ∧ t.dev.vault = s.dev.vault ∧ t.dev.hostMem = s.dev.hostMem)) ∧
      (∀ l, r.off + r.len ≤ d.exportBytes → d.engineCheck a r.len = none → d.heldLine r r.len = some l →
        Safety.Gives (.memRequest ecc) s (fun t => Safety.SameMemory s t ∧
          t.dev.remote.waits = s.dev.remote.waits ++ [{ line := l, sharers := d.waitsFor l, req := some r, local_ := [] }] ∧
          (tabGet [] t.dev.router.offers 11).length = (tabGet [] s.dev.router.offers 11).length +
            ((d.waitsFor l).filter (fun i => !(d.askedOf l).contains i)).length)))) ∧
  (∀ (b : Blocks) (r : HomeReq) (n l : Nat), r.mop ≠ 0 → b.heldLine r n = some l → b.sharersOf l ≠ [] ∨ b.askedOf l ≠ []) ∧
  (∀ (s : State) (src : Nat) (ecc : Ecc), Safety.Operating s → s.dev.mig.now = {} → ecc.badHbm = none →
    ((∀ r ∈ (s.dev.homeSrc src).flagged, r.seq ≠ (s.dev.homeSrc src).next) → exec (.flaggedStoreApply src ecc) s = .next s) ∧
    (∀ r, s.dev.dueFlagged src = some r →
      let e := (s.dev.setHome src { s.dev.homeSrc src with flagged := (s.dev.homeSrc src).flagged.filter (· ≠ r) }).serveRequest r
      e.mig.now = {} → exec (.flaggedStoreApply src ecc) s = .next (s.onDev e))) ∧
  (∀ (s : State) (c : Cell) (rest : List Cell) (h : List Byte) (ecc : Ecc), Safety.Operating s → s.dev.mig.now = {} → s.dev.mig.stalls = [] →
    ecc.badHbm = none → s.dev.router.respIn = c :: rest → c.memExt = some h → fldOf h 0 11 8 = 4 →
    let d : Dev := { s.dev with router := { s.dev.router with respIn := rest } }
    (d.answered c h = none → exec (.memResponse ecc) s = .next (s.onDev d)) ∧
    (∀ r, d.answered c h = some r → r.core < 576 → r.mop = 0 → fldOf h 0 26 24 = 0 → bitOf (fldOf h 0 31 0) 27 = false → d.inOctet r.home = false →
      let e := (((d.dropReq r).locWrite r.core r.local_ (c.data.take r.len)).pumped).progress
      e.mig.now = {} → e.mig.stalls = [] → exec (.memResponse ecc) s = .next (s.onDev e))) ∧
  (∀ (s : State) (core slot : Nat), Safety.Operating s →
    let sent := s.dev.remote.reqs.find? (fun r => r.sent && r.core = core && r.slot = slot)
    (sent = none → exec (.memTimeout core slot) s = .next s) ∧
    (∀ r, sent = some r → core ≠ 576 → exec (.memTimeout core slot) s = .next (s.onDev
      ((s.dev.dropReq r).coreFault core r.ctx 0x94 1 r.pc 0 (reqAddr r) 1).pumped.progress)) ∧
    (∀ r, sent = some r → core = 576 → exec (.memTimeout core slot) s = .next (s.onDev
      ((s.dev.dropReq r).dropFetch r.home (r.off / 65536)).pumped.progress))) ∧
  (∀ (s : State) (c : Cell) (h : List Byte) (d : Dev), Safety.Operating s → s.dev.takeMem [5] = some (c, h, d) →
    Safety.Gives .memInvalidate s (fun t =>
      (∀ e ∈ t.dev.remote.lines, ¬ (e.1 = (d.requestOf c h).src ∧ e.2.1 = (d.requestOf c h).off / 64)) ∧
      (∃ o, tabGet [] t.dev.router.offers 11 = tabGet [] s.dev.router.offers 11 ++ [o] ∧ o.cell.dst = c.src) ∧
      Safety.SameRegsBut [] s t ∧ Safety.SameMemory s t)) ∧
  (∀ (s : State) (line i : Nat) (w : LineWait), Safety.Operating s → s.dev.mig.now = {} → s.dev.remote.waits = [w] → w.line = line →
    w.sharers = [i] →
    let e := ((s.dev.log { code := 0x94, domain := 33, addr := s.dev.rd Reg.memExportBase + line * 64, kind := 1 }).sharerDone line i).progress
    e.mig.now = {} → e.mig.stalls = [] → exec (.invalidateTimeout line) s = .next (s.onDev e)) ∧
  (∀ (d : Dev) (line i a : Nat) (bs : List Byte) (w : LineWait) (o : Nat × Nat), d.remote.waits = [w] → d.remote.sharers = [(line, [i])] →
    d.mig.stalls = [] → w.line = line → w.sharers = [i] → w.req = none → w.owner = some o → w.local_ = bs.zipIdx.map (fun b => (a + b.2, b.1)) →
    bs ≠ [] → a + bs.length ≤ directSize →
    (d.sharerDone line i).remote.waits = [] ∧ (d.sharerDone line i).remote.sharers = [] ∧ (d.sharerDone line i).devRead a bs.length = bs ∧
    ∀ page ∈ d.windowUnits 65536 a bs.length, d.replicable page = true →
      tabGet 0 (d.sharerDone line i).remote.epochs page = (tabGet 0 d.remote.epochs page + 1) % 65536) ∧
  (∀ (s : State) (home page : Nat) (r : Replica), Safety.Operating s → s.dev.replica? home page = some r →
    (r.complete = false → r.dropped = false → s.dev.remote.reqs.any (fun q => q.core = 576 && q.home = home && q.off / 65536 = page) = false →
      Safety.Gives (.replicaFetchComplete home page) s (fun t =>
        t.dev.replica? home page = some { r with complete := true } ∧ Safety.SameRegsBut [] s t ∧ Safety.SameMemory s t)) ∧
    (s.dev.stroke < r.born + s.dev.rd Reg.memReplTtl → exec (.replicaTtlExpire home page) s = .next s) ∧
    (r.born + s.dev.rd Reg.memReplTtl ≤ s.dev.stroke → r.complete = true → r.dropped = false →
      Safety.Gives (.replicaTtlExpire home page) s (fun t => t.dev.replica? home page = none ∧
        t.dev.rd Reg.memCntReplDrop = (s.dev.rd Reg.memCntReplDrop + 1) % 2 ^ 64 ∧ Safety.SameRegsBut [Reg.memCntReplDrop] s t ∧
        Safety.SameMemory s t)) ∧
    (∀ m, s.dev.fil.rx.find? (fun m => m.typ = 4) = some m → m.src = home → m.sub = page → r.complete = true → r.dropped = false →
      (r.epoch < m.key → Safety.Gives .replicaInvalidate s (fun t => t.dev.replica? home page = none ∧ Safety.SameMemory s t ∧
        Safety.SameRegsBut [Reg.memCntReplDrop] s t)) ∧
      (m.key ≤ r.epoch → exec .replicaInvalidate s = .next (s.onDev { s.dev with fil := { s.dev.fil with rx := s.dev.fil.rx.erase m } }))))

/-! Timebase. -/

/-- R244, R247, R248, R249, R355: ENABLE starts the beat in holdover, not locked, without a parent, TB_STROKE standing. On the master sixteen
good BEAT_IN edges in a row lock the beat to them, and HOLDOVER falls unless the beat has still to step; the fourth bad one in a row, or the loss
of BEAT_IN, clears BEAT_IN_OK and puts a locked beat in holdover with event 0xA1. On a follower a record that is not valid is counted; a valid
one of its parent, or the first one of any, gives PARENT, HOPS + 1, MASTER_PLACE and HOLDOVER and aligns the beat by its arrival less
FAB_PORT_DELAY and OFFSET. A second MASTER_PLACE sets DUAL_MASTER with event 0xA3; a master follows no record. A parent that is lost is replaced
by the port that the four keys of R247 choose, or by holdover with HOPS unchanged, counted, with event 0xA2. -/
def Obligations.BeatFollowsItsReference : Prop :=
  (∀ (s : State) (p : MPort), Safety.Writable s p → s.dev.flag Reg.tbCtrl 0 = false →
    Safety.Fits Reg.tbCtrl (setBits (s.dev.rd Reg.tbCtrl) 0 0 1) → (s.dev.flag Reg.tbCtrl 2 = true → 2 ≤ s.dev.rd Reg.tbHmSlots) →
    Safety.Gives (.timebaseEnable p) s (fun t =>
      t.dev.rd Reg.tbCtrl = setBits (s.dev.rd Reg.tbCtrl) 0 0 1 ∧ t.dev.flag Reg.tbStatus 0 = false ∧ t.dev.flag Reg.tbStatus 1 = true ∧
      t.dev.flag Reg.tbStatus 3 = false ∧ t.dev.parent = 15 ∧ t.dev.stroke = s.dev.stroke ∧ (s.dev.isMaster = true → t.dev.fld Reg.tbStatus 8 4 = 0) ∧
      Safety.SameRegsBut [Reg.tbCtrl, Reg.tbStatus, Reg.tbMasterPlace] s t ∧ Safety.SameMemory s t ∧ Safety.SameWork s t ∧
      (t.dev.bus p).answer = .done)) ∧
  (∀ (s : State) (e : Int), Safety.Operating s → s.dev.beatOn = true → s.dev.isMaster = true →
    (s.dev.tb.goodEdges < 15 → s.dev.flag Reg.tbStatus 0 = false → Safety.Gives (.beatInEdge true e) s (fun t =>
      t.dev.tb = { s.dev.tb with goodEdges := s.dev.tb.goodEdges + 1, badEdges := 0 } ∧ t.dev.flag Reg.tbStatus 3 = true ∧
      t.dev.flag Reg.tbStatus 0 = false ∧
      t.dev.flag Reg.tbStatus 1 = s.dev.flag Reg.tbStatus 1 ∧ Safety.SameRegsBut [Reg.tbStatus] s t ∧ Safety.SameMemory s t ∧
      Safety.SameWork s t)) ∧
    (15 ≤ s.dev.tb.goodEdges ∨ s.dev.flag Reg.tbStatus 0 = true → Safety.Gives (.beatInEdge true e) s (fun t =>
      t.dev.flag Reg.tbStatus 0 = true ∧ t.dev.flag Reg.tbStatus 3 = true ∧ Safety.Aligned s t s.dev.stroke e ∧
      t.dev.flag Reg.tbStatus 1 = (s.dev.flag Reg.tbStatus 1 && t.dev.tb.stepTo.isSome) ∧
      Safety.SameRegsBut [Reg.tbStatus] s t ∧ Safety.SameMemory s t ∧ Safety.SameWork s t)) ∧
    (s.dev.tb.badEdges < 3 → exec (.beatInEdge false e) s =
      .next (s.onDev { s.dev with tb := { s.dev.tb with badEdges := s.dev.tb.badEdges + 1, goodEdges := 0 } })) ∧
    (∀ c, c = Instr.beatInLost ∨ (c = .beatInEdge false e ∧ 3 ≤ s.dev.tb.badEdges) → s.dev.flag Reg.tbStatus 0 = true →
      Safety.Gives c s (fun t =>
        t.dev.flag Reg.tbStatus 0 = false ∧ t.dev.flag Reg.tbStatus 1 = true ∧ t.dev.flag Reg.tbStatus 3 = false ∧
        Safety.TbEvent s t 0xA1 Reg.tbStatus none ∧
        t.dev.tb.phasePs = s.dev.tb.phasePs ∧ t.dev.tb.stepTo = s.dev.tb.stepTo ∧
        Safety.SameRegsBut [Reg.tbStatus] s t ∧ Safety.SameMemory s t ∧ Safety.SameWork s t)) ∧
    (∀ c, c = Instr.beatInLost ∨ (c = .beatInEdge false e ∧ 3 ≤ s.dev.tb.badEdges) → s.dev.flag Reg.tbStatus 0 = false →
      Safety.Gives c s (fun t => t.dev.flag Reg.tbStatus 3 = false ∧ t.dev.obs = s.dev.obs ∧ Safety.SameRegsBut [Reg.tbStatus] s t ∧
        Safety.SameMemory s t ∧ Safety.SameWork s t))) ∧
  (∀ (s : State) (n : Nat) (at_ : Int) (r : BitVec 128), Safety.Operating s → n < 6 → s.dev.beatOn = true → (s.dev.optPort n).st = .active →
    (s.dev.optPort n).record = some r →
    let e : Int := at_ - (s.dev.fld (Reg.fabPortDelay n) 23 0 : Int) - (recOffset r : Int)
    (recValid r = false → Safety.Gives (.beatRecord n at_) s (fun t =>
      t.dev.rd Reg.tbCntRecordBad = (s.dev.rd Reg.tbCntRecordBad + 1) % 2 ^ 64 ∧ t.dev.tb = s.dev.tb ∧
      Safety.SameRegsBut [Reg.tbCntRecordBad] s t ∧ Safety.SameMemory s t ∧ Safety.SameWork s t)) ∧
    (recValid r = true →
      let heard := s.dev.tb.heard.filter (fun x => x.1 ≠ n) ++ [(n, r)]
      (s.dev.isMaster = false → s.dev.parent = 15 ∨ s.dev.parent = n → (∀ x ∈ heard ++ s.dev.tb.heardLast, recMaster x.2 = recMaster r) →
        Safety.Gives (.beatRecord n at_) s (fun t =>
          t.dev.parent = n ∧ t.dev.fld Reg.tbStatus 8 4 = min 31 (recHops r + 1) ∧
          t.dev.flag Reg.tbStatus 1 = decide (recHoldover r = 1) ∧ t.dev.rd Reg.tbMasterPlace = recMaster r * 4096 ∧
          Safety.Aligned s t (recStroke r) e ∧
          t.dev.flag Reg.tbStatus 0 = decide (recStroke r = s.dev.stroke ∧ e.natAbs ≤ 100) ∧ t.dev.stroke = s.dev.stroke ∧
          t.dev.tb.heard = heard ∧ (t.dev.optPort n).record = none ∧ Safety.SameRegsBut [Reg.tbStatus, Reg.tbMasterPlace] s t ∧
          Safety.SameMemory s t ∧ Safety.SameWork s t)) ∧
      (∀ x ∈ heard, recMaster x.2 ≠ recMaster r → s.dev.flag Reg.tbStatus 2 = false → Safety.Gives (.beatRecord n at_) s (fun t =>
        t.dev.flag Reg.tbStatus 2 = true ∧ Safety.TbEvent s t 0xA3 Reg.tbMasterPlace none ∧ Safety.SameMemory s t ∧ Safety.SameWork s t)) ∧
      (s.dev.isMaster = true → Safety.Gives (.beatRecord n at_) s (fun t =>
        t.dev.parent = s.dev.parent ∧ t.dev.tb.phasePs = s.dev.tb.phasePs ∧ t.dev.tb.stepTo = s.dev.tb.stepTo ∧
        t.dev.rd Reg.tbMasterPlace = s.dev.rd Reg.tbMasterPlace ∧ t.dev.fld Reg.tbStatus 8 4 = s.dev.fld Reg.tbStatus 8 4 ∧
        Safety.SameMemory s t ∧ Safety.SameWork s t)))) ∧
  (∀ (s : State), Safety.Operating s → s.dev.beatOn = true → s.dev.isMaster = false → s.dev.parent ≠ 15 →
    ((s.dev.optPort s.dev.parent).st = .active → (∃ x ∈ s.dev.tb.heardLast ++ s.dev.tb.heard, x.1 = s.dev.parent) →
      exec .parentLost s = .next s) ∧
    ((s.dev.optPort s.dev.parent).st ≠ .active ∨ (∀ x ∈ s.dev.tb.heardLast ++ s.dev.tb.heard, x.1 ≠ s.dev.parent) →
      (s.dev.chooseParent s.dev.tb.heardLast = none → Safety.Gives .parentLost s (fun t =>
        t.dev.parent = 15 ∧ t.dev.flag Reg.tbStatus 1 = true ∧ t.dev.flag Reg.tbStatus 0 = false ∧
        t.dev.fld Reg.tbStatus 8 4 = s.dev.fld Reg.tbStatus 8 4 ∧ t.dev.rd Reg.tbCntReparent = (s.dev.rd Reg.tbCntReparent + 1) % 2 ^ 64 ∧
        Safety.TbEvent s t 0xA2 Reg.tbStatus none ∧ t.dev.tb = s.dev.tb ∧
        Safety.SameRegsBut [Reg.tbStatus, Reg.tbCntReparent] s t ∧ Safety.SameMemory s t ∧ Safety.SameWork s t)) ∧
      (∀ m r, m < 6 → s.dev.chooseParent s.dev.tb.heardLast = some (m, r) → Safety.Gives .parentLost s (fun t =>
        t.dev.parent = m ∧ t.dev.fld Reg.tbStatus 8 4 = min 31 (recHops r + 1) ∧ t.dev.flag Reg.tbStatus 1 = decide (recHoldover r = 1) ∧
        t.dev.rd Reg.tbMasterPlace = recMaster r * 4096 ∧ t.dev.rd Reg.tbCntReparent = (s.dev.rd Reg.tbCntReparent + 1) % 2 ^ 64 ∧
        Safety.TbEvent s t 0xA2 Reg.tbStatus none ∧ t.dev.tb = s.dev.tb ∧
        Safety.SameRegsBut [Reg.tbStatus, Reg.tbCntReparent, Reg.tbMasterPlace] s t ∧ Safety.SameMemory s t ∧
        Safety.SameWork s t)))) ∧
  (∀ (b : Blocks) (heard : List (Nat × BitVec 128)) (n : Nat) (r : BitVec 128), (∀ x ∈ heard, x.1 < 16) → b.chooseParent heard = some (n, r) →
    (n, r) ∈ heard ∧ (b.optPort n).st = .active ∧ ∀ x ∈ heard, (b.optPort x.1).st = .active →
      recMaster r < recMaster x.2 ∨ (recMaster r = recMaster x.2 ∧ (recHoldover r < recHoldover x.2 ∨ (recHoldover r = recHoldover x.2 ∧
        (recHops r < recHops x.2 ∨ (recHops r = recHops x.2 ∧ n ≤ x.1))))))

/-- R248, R250, R256 to R259: a stroke begins with the next number, or with the one that a step has set. At it a Loupe trigger that is due latches
the state before the boundary, the Bezel entries of the active bank fire in table order, and the Clasps release in ascending number. An entry
for a context that is not LIVE is skipped; start, yield and fence act on their context alone, and a start begins
the restore of what was saved for a real-time context (R325). A bank switch takes place at the next cycle
start of the outgoing bank. A write of TB_TIME steps the clock, one of TB_TIME_ADJ replaces the slew, and both are served while a management
command runs. -/
def Obligations.StrokeFiresItsEvents : Prop :=
  (∀ (s : State), Safety.Operating s →
    (s.dev.beatOn = false → exec .strokeBoundary s = .next s) ∧
    (s.dev.beatOn = true → s.dev.obs.pending = none → s.dev.tb.clasps = [] → s.dev.tb.claspQueue = [] → s.dev.stroke + 1 < 2 ^ 64 →
      let next := s.dev.stroke + 1
      let quiet : Prop := s.dev.tb.stepTo = none
      let off : Prop := s.dev.flag Reg.tbBezelCtrl 0 = false
      (off → s.dev.flag Reg.tbBezelCtrl 2 = false → s.dev.isMaster = true → s.dev.tb.hmDue = [] → Safety.Gives .strokeBoundary s (fun t =>
        t.dev.stroke = s.dev.tb.stepTo.getD next % 2 ^ 64 ∧ t.dev.tb.heard = [] ∧ t.dev.tb.heardLast = s.dev.tb.heard ∧
        t.dev.tb.stepTo = none ∧ t.dev.tb.fired = s.dev.tb.fired ∧
        (quiet → Safety.SameRegsBut [Reg.tbStroke, Reg.tbMasterPlace] s t) ∧
        (¬ quiet → Safety.Logged ⟨s.dev.wr Reg.tbStroke (s.dev.tb.stepTo.getD next), s.pending⟩ t
            { code := 0xA4, ctx := none, domain := 37, addr := Reg.tbStroke, kind := 2 }) ∧
        (¬ quiet → s.dev.flag Reg.tbStatus 0 = true → t.dev.flag Reg.tbStatus 1 = false) ∧
        Safety.SameMemory s t ∧ Safety.SameWork s t)) ∧
      (off → quiet → s.dev.flag Reg.tbBezelCtrl 2 = true → s.dev.isMaster = true → s.dev.tb.hmDue = [] →
        Safety.Gives .strokeBoundary s (fun t =>
          t.dev.stroke = next ∧
          (s.dev.cycleStart next = true → t.dev.flag Reg.tbBezelCtrl 2 = false ∧ t.dev.activeBank = 1 - s.dev.activeBank ∧
            t.dev.rd Reg.tbBezelStart = next) ∧
          (s.dev.cycleStart next = false → t.dev.rd Reg.tbBezelCtrl = s.dev.rd Reg.tbBezelCtrl ∧
            t.dev.rd Reg.tbBezelStart = s.dev.rd Reg.tbBezelStart) ∧
          Safety.SameRegsBut [Reg.tbStroke, Reg.tbMasterPlace, Reg.tbBezelCtrl, Reg.tbBezelStart] s t ∧ Safety.SameMemory s t ∧
          Safety.SameWork s t)) ∧
      (∀ e, quiet → s.dev.flag Reg.tbBezelCtrl 0 = true → s.dev.flag Reg.tbBezelCtrl 2 = false → s.dev.tb.fired ≤ s.dev.stroke →
        s.dev.entriesAt next = [e] →
        let at_ := Reg.tbBezelEntry s.dev.activeBank e
        let c := s.dev.fld at_ 29 24
        let act := s.dev.fld at_ 31 30
        Safety.Gives .strokeBoundary s (fun t =>
          t.dev.stroke = next ∧ Safety.SameMemory s t ∧ t.dev.jobs = s.dev.jobs ∧ t.dev.rings = s.dev.rings ∧
          (∀ x, x ≠ c → t.dev.ctx x = s.dev.ctx x) ∧
          ((s.dev.ctx c).mode ≠ .live → t.dev.ctxs = s.dev.ctxs ∧
            t.dev.rd Reg.tbCntBezelSkip = (s.dev.rd Reg.tbCntBezelSkip + 1) % 2 ^ 64) ∧
          ((s.dev.ctx c).mode = .live →
            (act = 0 → (t.dev.ctx c).runnable = true ∧ (t.dev.ctx c).yielded = false ∧ (t.dev.ctx c).resv = s.dev.fld at_ 47 32 ∧
              ((s.dev.ctx c).runnable = false → (s.dev.ctx c).rt = true → (t.dev.ctx c).restoring = (s.dev.ctx c).saved) ∧
              ((s.dev.ctx c).runnable = true → t.dev.cores = s.dev.cores)) ∧
            (act = 1 → t.dev.ctx c = { s.dev.ctx c with runnable := false, yielded := true, resv := 0, resLeft := 0, restoring := [] } ∧
              t.dev.cores = s.dev.cores) ∧
            (act = 2 → t.dev.ctx c =
                { s.dev.ctx c with fence := (s.dev.jobs.filter (fun j => j.ctx = c)).map (fun j => (j.ring, j.seq)) } ∧
              t.dev.cores = s.dev.cores)))))) ∧
  (∀ (s : State), Safety.Operating s → s.dev.beatOn = true → s.dev.tb.stepTo = none → s.dev.stroke + 1 < 2 ^ 64 →
    s.dev.flag Reg.tbBezelCtrl 2 = false →
    let next := s.dev.stroke + 1
    (∀ src id, s.dev.obs.pending = some (next, src, id) → s.dev.obs.armed = true → s.dev.flag Reg.tbBezelCtrl 0 = false →
      s.dev.tb.clasps = [] → s.dev.tb.claspQueue = [] →
      Safety.Gives .strokeBoundary s (fun t => t.dev.stroke = next ∧ t.dev.obs.pending = none ∧ t.dev.obs.source = src ∧ t.dev.obs.id = id ∧
        ∃ b, t.dev.snap = some b ∧ b.stroke = s.dev.stroke)) ∧
    (∀ e f, s.dev.obs.pending = none → s.dev.flag Reg.tbBezelCtrl 0 = true → s.dev.tb.fired ≤ s.dev.stroke → s.dev.tb.clasps = [] →
      s.dev.tb.claspQueue = [] → s.dev.entriesAt next = [e, f] →
      let act (k : Nat) : Nat := s.dev.fld (Reg.tbBezelEntry s.dev.activeBank k) 31 30
      let who (k : Nat) : Nat := s.dev.fld (Reg.tbBezelEntry s.dev.activeBank k) 29 24
      e < f ∧ (who e = who f → (s.dev.ctx (who e)).mode = .live →
        (act e = 0 → act f = 1 → Safety.Gives .strokeBoundary s (fun t => (t.dev.ctx (who e)).runnable = false)) ∧
        (act e = 1 → act f = 0 → Safety.Gives .strokeBoundary s (fun t => (t.dev.ctx (who e)).runnable = true)))) ∧
    (∀ c f, s.dev.obs.pending = none → s.dev.flag Reg.tbBezelCtrl 0 = false → s.dev.tb.clasps = [c, f] ∨ s.dev.tb.clasps = [f, c] → c.n < f.n →
      c.release = some next → f.release = some next → s.dev.tb.claspQueue = [] → s.dev.busyCores = [] → Safety.PlainClasp s c →
      Safety.PlainClasp s f →
      Safety.Gives .strokeBoundary s (fun t => t.dev.tb.clasps = [] ∧
        t.dev.tb.claspClosed = ((f.n, 0) :: (((c.n, 0) :: s.dev.tb.claspClosed).take 16)).take 16))) ∧
  (∀ (s : State) (p : MPort), Safety.Writable s p → s.dev.flag Reg.tbBezelCtrl 2 = false →
    Safety.Fits Reg.tbBezelCtrl (setBits (s.dev.rd Reg.tbBezelCtrl) 2 2 1) →
    Safety.Gives (.bezelSwitch p) s (fun t =>
      t.dev.flag Reg.tbBezelCtrl 2 = true ∧ t.dev.activeBank = s.dev.activeBank ∧
      t.dev.flag Reg.tbBezelCtrl 0 = s.dev.flag Reg.tbBezelCtrl 0 ∧ (t.dev.bus p).answer = .done ∧
      Safety.SameRegsBut [Reg.tbBezelCtrl] s t ∧ Safety.SameMemory s t ∧ Safety.SameEngines s t)) ∧
  (∀ (s : State) (p : MPort) (v : W64) (d : W32), Safety.Operating s → s.dev.reaches p = true →
    Safety.Gives (.timeWrite p v) s (fun t =>
      t.dev.rd Reg.tbTime = v.toNat ∧ t.dev.tb = { s.dev.tb with slew := 0, slewClock := 0 } ∧ (t.dev.bus p).answer = .done ∧
      Safety.SameRegsBut [Reg.tbTime] s t ∧ Safety.SameMemory s t ∧ Safety.SameWork s t) ∧
    Safety.Gives (.timeAdj p d) s (fun t =>
      t.dev.tb = { s.dev.tb with slew := d.toInt, slewClock := 0 } ∧ (t.dev.bus p).answer = .done ∧ Safety.SameRegsBut [] s t ∧
      Safety.SameMemory s t ∧ Safety.SameWork s t))

/-- R228, R252 to R254: a Clasp message out of its round is kept; the last vote of the Z round combines OK by AND and the proposals by their
maximum, and then the Clasp waits for that stroke, or closes LATE where the stroke has come, or FAIL. One whose rounds have not finished by
its timeout closes FAIL; one released at the boundary that begins its stroke is ON_TIME, and LATE where that was skipped. Closing completes its
command and the CLWAITs for it; a CLWAIT for which no Clasp has arrived ends TIMEOUT strokes after its issue. -/
def Obligations.ClaspsReleaseOrFail : Prop :=
  (∀ (s : State) (m : FilMsg) (d : Dev), Safety.Operating s → s.dev.filTake 5 = (some m, d) →
    ((∀ c, d.clasp? m.key = some c → isClaspRound m c.n c.axis = false) →
      exec .claspMessage s = .next (s.onDev { d with fil := { d.fil with held := d.fil.held ++ [m] } })) ∧
    (∀ c, d.clasp? m.key = some c → isClaspRound m c.n 2 = true → c.axis = 2 → c.release = none → d.tb.claspQueue = [] → d.lineOf 2 ≠ [] →
      d.busyCores = [] → Safety.PlainClasp s c →
      let votes := (c.take m).got.filter (fun g => g.1 = 2)
      let all : Prop := ∀ i ∈ d.lineOf 2, ∃ v ∈ votes, v.2.1 = i
      let ok : Prop := c.ok = true ∧ ∀ v ∈ votes, v.2.2.1 = true
      let top := votes.foldl (fun m v => max m v.2.2.2) c.proposal
      (¬ all → Safety.Gives .claspMessage s (fun t => t.dev.clasp? c.n = some (c.take m) ∧
        t.dev.tb.claspClosed = s.dev.tb.claspClosed ∧ Safety.SameRegsBut [] s t ∧ Safety.SameMemory s t ∧ Safety.SameWork s t)) ∧
      (all → ok → d.stroke < top → Safety.Gives .claspMessage s (fun t =>
        t.dev.clasp? c.n = some { c.take m with axis := 3, ok := true, proposal := top, release := some top } ∧
        t.dev.tb.claspClosed = s.dev.tb.claspClosed ∧ Safety.SameRegsBut [] s t ∧ Safety.SameMemory s t ∧ Safety.SameWork s t)) ∧
      (all → ok → top ≤ d.stroke → Safety.Gives .claspMessage s (fun t => Safety.ClaspClosed s t c 1 top ∧
        t.dev.rd Reg.tbCntClaspLate = (s.dev.rd Reg.tbCntClaspLate + 1) % 2 ^ 64 ∧ Safety.TbEvent s t 0xA7 Reg.tbClaspOpen (some c.ctx))) ∧
      (all → ¬ ok → Safety.Gives .claspMessage s (fun t => Safety.ClaspClosed s t c 2 0 ∧
        Safety.TbEvent s t 0xA8 Reg.tbClaspOpen (some c.ctx))))) ∧
  (∀ (s : State) (n : Nat) (c : Clasp), Safety.Operating s → s.dev.clasp? n = some c →
    (c.release.isSome = true ∨ s.dev.stroke < c.arrived + c.timeout → exec (.claspTimeout n) s = .next s) ∧
    (c.release = none → c.arrived + c.timeout ≤ s.dev.stroke → s.dev.tb.claspQueue = [] → s.dev.busyCores = [] →
      Safety.PlainClasp s c → Safety.Gives (.claspTimeout n) s (fun t => Safety.ClaspClosed s t c 2 0 ∧ Safety.TbEvent s t 0xA8 Reg.tbClaspOpen (some c.ctx)))) ∧
  (∀ (s : State) (c : Clasp) (r : Nat), Safety.Operating s → s.dev.beatOn = true → s.dev.tb.clasps = [c] → c.release = some r →
    s.dev.stroke < r → s.dev.tb.claspQueue = [] → s.dev.tb.stepTo.getD (s.dev.stroke + 1) < 2 ^ 64 → s.dev.stroke + 1 < 2 ^ 64 →
    s.dev.flag Reg.tbBezelCtrl 0 = false → s.dev.flag Reg.tbBezelCtrl 2 = false → s.dev.busyCores = [] → s.dev.obs.pending = none →
    Safety.PlainClasp s c →
    let next := s.dev.tb.stepTo.getD (s.dev.stroke + 1)
    (next < r → Safety.Gives .strokeBoundary s (fun t => t.dev.tb.clasps = [c] ∧ t.dev.tb.claspClosed = s.dev.tb.claspClosed ∧
      t.dev.jobs = s.dev.jobs)) ∧
    (next = r → Safety.Gives .strokeBoundary s (fun t => Safety.ClaspClosed s t c 0 r ∧ t.dev.stroke = r ∧
      t.dev.rd Reg.tbCntClaspLate = s.dev.rd Reg.tbCntClaspLate)) ∧
    (r < next → Safety.Gives .strokeBoundary s (fun t => Safety.ClaspClosed s t c 1 r ∧ t.dev.stroke = next ∧
      t.dev.rd Reg.tbCntClaspLate = (s.dev.rd Reg.tbCntClaspLate + 1) % 2 ^ 64))) ∧
  (∀ (s : State) (p n since : Nat) (g : Prog) (i : Issued), Safety.Operating s → s.dev.prog? p = some g → g.score = [i] →
    i.pend = .clasp n since →
    (s.dev.claspHere n = true ∨ s.dev.stroke < since + s.dev.fld Reg.tbClaspCfg 31 8 → exec (.clwaitTimeout p) s = .next s) ∧
    (s.dev.claspHere n = false → since + s.dev.fld Reg.tbClaspCfg 31 8 ≤ s.dev.stroke →
      exec (.clwaitTimeout p) s = .next (s.onDev (s.dev.endClwaits p n 2)))) ∧
  (∀ (d : Dev) (p n st since : Nat) (g : Prog) (i : Issued), d.busyCores = [p] → d.prog? p = some g → g.score = [i] → i.pend = .clasp n since →
    (vecOf i.insn).dst + 4 ≤ 2 ^ 22 → st < 3 →
    (d.clwaitDone n st).prog? p = some { g with score := [] } ∧ ∀ q ∈ g.gang, (d.clwaitDone n st).locNat q (vecOf i.insn).dst 4 = st)

/-- R263, R265, R266: the CRC has its check value, and an entry is 4,160 bytes with its fields in Table 10.6's places. The oldest entry due is written
at TB_HM_HEAD, which advances, and takes the next SEQ; on a full ring it waits while HM_BLOCK = 1, and otherwise is discarded with event 0xA9
and takes a SEQ too. Clearing HM_ENABLE drops every entry that waits and takes no SEQ. -/
def Obligations.HallmarkEntries : Prop :=
  crc64 [] = 0 ∧ crc64 ([0x31, 0x32, 0x33, 0x34, 0x35, 0x36, 0x37, 0x38, 0x39] : List Byte) = 0x62EC59E3F1A4F00A ∧
  (∀ (b : Blocks) (c : Nat) (o : Occurrence), (b.hmEntry c o).length = 4160 ∧
    fldOf (b.hmEntry c o) 0 63 0 = b.tb.hmSeq % 2 ^ 64 ∧ fldOf (b.hmEntry c o) 16 63 0 = o.digest b.logicalCores % 2 ^ 64 ∧
    fldOf (b.hmEntry c o) 24 63 0 = b.stroke ∧ fldOf (b.hmEntry c o) 32 63 0 = b.rd Reg.tbTime ∧
    fldOf (b.hmEntry c o) 40 63 0 = b.rd Reg.mgmtMountId ∧ fldOf (b.hmEntry c o) 48 31 0 = b.logicalCores % 2 ^ 32 ∧
    fldOf (b.hmEntry c o) 52 31 0 = o.occ % 2 ^ 32 ∧ fldOf (b.hmEntry c o) 56 63 0 = 0 ∧
    (o.step.getD 0 < 2 ^ 16 → fldOf (b.hmEntry c o) 12 15 0 = o.step.getD 0 ∧ fldOf (b.hmEntry c o) 12 27 16 = b.me % 4096) ∧
    (c < 64 → o.hlayer < 2 ^ 16 → (b.ctx c).role < 64 →
      fldOf (b.hmEntry c o) 8 15 0 = o.hlayer ∧ fldOf (b.hmEntry c o) 8 21 16 = c ∧ fldOf (b.hmEntry c o) 8 24 24 = b2n o.step.isSome ∧
      fldOf (b.hmEntry c o) 8 30 25 = (b.ctx c).role) ∧
    ∀ l, l < 512 → fldOf (b.hmEntry c o) (64 + 8 * l) 63 0 = (if l < b.logicalCores then crc64 (o.stream l) % 2 ^ 64 else 0)) ∧
  (∀ (s : State), Safety.Operating s → s.dev.tb.hmDue = [] → exec .hallmarkEntryWrite s = .next s) ∧
  (∀ (s : State) (c id : Nat) (rest : List (Nat × Nat)) (o : Occurrence), Safety.Operating s → s.dev.tb.hmDue = (c, id) :: rest →
    (s.dev.ctx c).occs.find? (fun o => o.id = id) = some o → s.dev.tb.flushes = [] →
    (∀ j ∈ s.dev.jobs, ¬ (j.ctx = c ∧ j.occ = some id)) →
    let a := s.dev.rd Reg.tbHmBase + s.dev.rd Reg.tbHmHead * 4160
    let settled (t : State) : Prop := t.dev.tb = { s.dev.tb with hmSeq := s.dev.tb.hmSeq + 1, hmDue := rest.filter (fun e => e ≠ (c, id)) } ∧
      t.dev.ctx c = { s.dev.ctx c with occs := (s.dev.ctx c).occs.filter (fun o => o.id ≠ id) } ∧ t.dev.jobs = s.dev.jobs
    (s.dev.hmFull = false → Safety.Direct s a 4160 → Safety.Unshared s a 4160 → Safety.Gives .hallmarkEntryWrite s (fun t =>
      Safety.DirectHolds s t a (s.dev.hmEntry c o) ∧
      t.dev.rd Reg.tbHmHead = (s.dev.rd Reg.tbHmHead + 1) % s.dev.rd Reg.tbHmSlots ∧ settled t ∧
      Safety.SameRegsBut (Reg.tbHmHead :: Safety.hbmCounters) s t ∧ t.dev.loc = s.dev.loc ∧ t.dev.vault = s.dev.vault ∧ t.dev.hostMem = s.dev.hostMem)) ∧
    (s.dev.hmFull = true → s.dev.flag Reg.tbCtrl 3 = true → exec .hallmarkEntryWrite s = .next s) ∧
    (s.dev.hmFull = true → s.dev.flag Reg.tbCtrl 3 = false → Safety.Gives .hallmarkEntryWrite s (fun t =>
      t.dev.rd Reg.tbCntHmDrop = (s.dev.rd Reg.tbCntHmDrop + 1) % 2 ^ 64 ∧ Safety.TbEvent s t 0xA9 Reg.tbHmHead (some c) ∧ settled t ∧
      Safety.SameRegsBut [Reg.tbCntHmDrop, Reg.tbStatus] s t ∧ Safety.SameMemory s t))) ∧
  (∀ (s : State) (p : MPort), Safety.Writable s p → s.dev.flag Reg.tbCtrl 2 = true →
    Safety.Fits Reg.tbCtrl (setBits (s.dev.rd Reg.tbCtrl) 2 2 0) → s.dev.jobs = [] → s.dev.tb.flushes = [] →
    (∀ e ∈ s.dev.tb.hmDue, e.1 < 64 ∧ ∃ o ∈ (s.dev.ctx e.1).occs, o.id = e.2 ∧ o.closed = true ∧ o.jobs = []) →
    Safety.Gives (.hmDisable p) s (fun t =>
      t.dev.rd Reg.tbCtrl = setBits (s.dev.rd Reg.tbCtrl) 2 2 0 ∧ t.dev.tb = { s.dev.tb with hmDue := [] } ∧
      (∀ c, c < 64 → ∀ o ∈ (t.dev.ctx c).occs, ∃ x ∈ (s.dev.ctx c).occs, o = { x with enabled := false } ∧ ¬ (x.closed = true ∧ x.jobs = [])) ∧
      (t.dev.bus p).answer = .done ∧ Safety.SameRegsBut [Reg.tbCtrl] s t ∧ Safety.SameMemory s t ∧ t.dev.obs = s.dev.obs ∧
      t.dev.cores = s.dev.cores ∧ t.dev.rings = s.dev.rings))

/-! Management commands. -/

/-- R278 to R282, R288, R290: a command starts with its port's arguments, one of no known opcode or TARGET ends with code 1 or 2. MANAGEMENT_NOP ends
with OK. MOUNT_LOAD with a context, with bad arguments or with an image that fails a check of steps 3 to 11 ends with that code and writes
nothing; one that passes leaves its Mount, its id, format, block and a Hallmark count of 0. MOUNT_CLEAR with a context does nothing; else no
Mount is left and the engines are disabled. SPARE_SWAP lists the moves of its clusters; a slot moves once no program runs on its cores, its
state with it, and one that waits too long stays and makes the result NOT_IDLE. LINK_RETRAIN of a disabled port is refused, of an active one
asks for a retrain, of a vault port takes its link down and retrains it; a port still dark after its time ends it with NO_LIGHT. -/
def Obligations.ManagementCommands : Prop :=
  (∀ (s : State) (p : MPort) (v : W64), Safety.Writable s p → v.toNat < 2 ^ 16 →
    (∀ r, badCommand (bitsOf v.toNat 7 0) (bitsOf v.toNat 15 8) = some r →
      Safety.Gives (.registerWrite p Reg.mgmtCmd 4 v) s (fun t => Safety.OnlyEnded [] s t r ∧ (t.dev.bus p).answer = .done)) ∧
    (badCommand (bitsOf v.toNat 7 0) (bitsOf v.toNat 15 8) = none →
      Safety.Gives (.registerWrite p Reg.mgmtCmd 4 v) s (fun t =>
        t.dev.mgmt.run = some { op := bitsOf v.toNat 7 0, target := bitsOf v.toNat 15 8, port := p, args := (s.dev.bus p).args } ∧
        t.dev.flag Reg.mgmtStatus 0 = true ∧ (t.dev.bus p).answer = .done ∧ Safety.SameRegsBut [Reg.mgmtStatus] s t ∧
        Safety.SameMemory s t ∧ t.dev.mgmt.mount = s.dev.mgmt.mount))) ∧
  (∀ (s : State) (v0 v1 : VaultLink) (bad : Option Nat) (run : MgmtRun), Safety.Operating s → s.dev.mgmt.run = some run → run.begun = false →
    (run.op = 0 → Safety.Gives .managementNop s (fun t => Safety.OnlyEnded [] s t 0)) ∧
    (run.op = 1 →
      let arg (k : Nat) : Nat := (run.args.getD k 0).toNat
      let img := s.dev.dirRead (arg 0) (arg 1)
      let read := s.dev.countHbm (arg 0) (arg 1) false none
      let Ended (t : State) (r : Nat) : Prop := Safety.OnlyEnded Safety.hbmCounters s t r
      (s.dev.contextExists = true → Safety.Gives (.mountLoad v0 v1 bad) s (fun t => Safety.OnlyEnded [] s t 3)) ∧
      (s.dev.contextExists = false → arg 0 % 4096 ≠ 0 ∨ arg 1 < 64 ∨ 2 ^ 30 < arg 1 ∨ directSize < arg 0 + arg 1 ∨ 4096 ≤ arg 2 →
        Safety.Gives (.mountLoad v0 v1 bad) s (fun t => Safety.OnlyEnded [] s t 2)) ∧
      (s.dev.argsBad (arg 0) (arg 1) (arg 2) = none → s.dev.onFailedStack (arg 0) (arg 1) = false →
        (bad = none → fldOf img 0 31 0 ≠ 0x4D46584E → Safety.Gives (.mountLoad v0 v1 bad) s (fun t => Ended t 4)) ∧
        (∀ r info, r < 0x14 → read.loadBad (arg 0) (arg 1) (arg 2) bad = some (r, info) → r ≠ 0x0F →
          Safety.Gives (.mountLoad v0 v1 bad) s (fun t => Ended t r ∧ t.dev.rd Reg.mgmtResultInfo = info % 2 ^ 64)) ∧
        (bad = none → read.loadBad (arg 0) (arg 1) (arg 2) none = none → (∀ n, n < 6 → (s.dev.optPort n).st ≠ .active) →
          Safety.Gives (.mountLoad v0 v1 bad) s (fun t => Safety.MgmtEnded t 0 ∧ t.dev.mgmt.mount = some (mountOf img) ∧
            t.dev.rd Reg.mgmtMountId = imgId img % 2 ^ 64 ∧ t.dev.fld Reg.mgmtMountInfo 7 0 = imgFmt img ∧
            t.dev.rd Reg.fabRtBlock = imgBlock img (arg 2) % 2 ^ 64 ∧ t.dev.tb.hmSeq = 0 ∧ (∀ c, (t.dev.ctx c).mode = (s.dev.ctx c).mode) ∧
            t.dev.hostMem = s.dev.hostMem ∧ t.dev.loc = s.dev.loc)))) ∧
    (run.op = 2 →
      (s.dev.contextExists = true → Safety.Gives .mountClear s (fun t => Safety.OnlyEnded [] s t 3)) ∧
      (s.dev.contextExists = false → Safety.Gives .mountClear s (fun t => Safety.MgmtEnded t 0 ∧ t.dev.mgmt.mount = none ∧
        t.dev.rd Reg.mgmtMountId = 0 ∧ t.dev.fld Reg.mgmtMountInfo 7 0 = 0 ∧ (∀ off ∈ enableRegs, t.dev.flag off 0 = false) ∧
        t.dev.loc = s.dev.loc ∧ t.dev.vault = s.dev.vault ∧ t.dev.hostMem = s.dev.hostMem ∧ t.dev.cores = s.dev.cores))) ∧
    (run.op = 3 →
      (s.dev.mgmt.mount = none → Safety.Gives .spareSwap s (fun t => Safety.OnlyEnded [] s t 0)) ∧
      (∀ m, s.dev.mgmt.mount = some m →
        let moves := (swapTargets run.target).flatMap (s.dev.clusterMoves m)
        (moves ≠ [] → Safety.Gives .spareSwap s (fun t => t.dev.mgmt.moves = moves ∧ t.dev.mgmt.run = some { run with begun := true } ∧
          (∀ p, (t.dev.core p).slot = (s.dev.core p).slot) ∧ Safety.SameRegsBut [] s t ∧ Safety.SameMemory s t)) ∧
        (moves = [] → Safety.Gives .spareSwap s (fun t => (Safety.MgmtEnded t 0 ∨ Safety.MgmtEnded t 0x11) ∧
          (∀ p, (t.dev.core p).slot = (s.dev.core p).slot) ∧ Safety.SameRegsBut [Reg.mgmtStatus, Reg.mgmtResultInfo] s t ∧
          Safety.SameMemory s t)))) ∧
    (run.op = 4 →
      (run.target < 6 →
        ((s.dev.optPort run.target).st = .disabled → Safety.Gives .linkRetrain s (fun t => Safety.OnlyEnded [] s t 2)) ∧
        ((s.dev.optPort run.target).st = .active → (s.dev.optPort run.target).asked = false → Safety.Gives .linkRetrain s (fun t =>
          (t.dev.optPort run.target).asked = true ∧ (t.dev.optPort run.target).st = .active ∧
          (t.dev.optPort run.target).txRetired = 0 ∧ (t.dev.optPort run.target).rxRetired = 0 ∧
          (∀ n, n ≠ run.target → t.dev.optPort n = s.dev.optPort n) ∧ t.dev.mgmt.run = some { run with begun := true } ∧
          Safety.SameRegsBut [] s t ∧ Safety.SameMemory s t))) ∧
      (∀ n, run.target = 6 + n → n < 2 → n < s.dev.mig.ports.length → Safety.NoTileWaiters s → Safety.Gives .linkRetrain s (fun t =>
        (t.dev.vport n).retraining = true ∧ (t.dev.vport n).queue = (s.dev.vport n).queue ∧ t.dev.vaultUp n = false ∧
        t.dev.vaultLost n = s.dev.vaultLost n ∧ t.dev.mgmt.run = some { run with begun := true } ∧
        Safety.SameRegsBut [Reg.vltPortStatus n, Reg.glbClkLock, Reg.glbClkLoss] s t ∧ Safety.SameMemory s t)))) ∧
  (∀ (s : State) (run : MgmtRun), Safety.Operating s → s.dev.mgmt.run = some run → run.op = 4 → run.target < 6 →
    ((s.dev.optPort run.target).st = .dark ∨ (s.dev.optPort run.target).st = .wake →
      Safety.Gives .noLight s (fun t => Safety.OnlyEnded [] s t 0x13)) ∧
    ((s.dev.optPort run.target).st ≠ .dark → (s.dev.optPort run.target).st ≠ .wake → exec .noLight s = .next s)) ∧
  (∀ (s : State) (run : MgmtRun) (g j q k : Nat), Safety.Operating s → s.dev.mgmt.run = some run → run.op = 3 → q < 576 →
    s.dev.mgmt.moves.find? (fun m => m.1 = g) = some (g, j, q) →
    (List.range 18).find? (fun i => (s.dev.core (18 * g + i)).slot = some j) = some k → 18 * g + k ≠ q →
    let p := 18 * g + k
    let left := s.dev.mgmt.moves.filter (fun m => !(m.1 = g && m.2.1 = j))
    (((s.dev.moveCores p) ++ [q]).any s.dev.runsOn = true → exec (.slotMove g j) s = .next s) ∧
    (((s.dev.moveCores p) ++ [q]).any s.dev.runsOn = false → Memory.wf s.dev.loc = true → Safety.Gives (.slotMove g j) s (fun t =>
      (t.dev.core q).slot = some j ∧ (t.dev.core q).owner = (s.dev.core p).owner ∧ (t.dev.core q).m = (s.dev.core p).m ∧
      (t.dev.core p).slot = none ∧ (t.dev.core p).owner = none ∧ (∀ x, x ≠ p → x ≠ q → (t.dev.core x).slot = (s.dev.core x).slot) ∧
      (∀ a, a < 0x1C0000 ∨ (0x200000 ≤ a ∧ a < 0x240000) → memByte t.dev.loc (q * 2 ^ 22 + a) = memByte s.dev.loc (p * 2 ^ 22 + a)) ∧
      (∀ x, x / 2 ^ 22 ≠ q → memByte t.dev.loc x = memByte s.dev.loc x) ∧ Safety.SameOuter s t ∧ t.dev.mgmt.moves = left ∧
      (left ≠ [] → t.dev.mgmt.run = some run ∧ Safety.SameRegsBut [] s t))) ∧
    Safety.Gives (.swapWaitExpire g j) s (fun t =>
      t.dev.mgmt.moves = left ∧ (left ≠ [] → t.dev.mgmt.run = some run ∧ t.dev.mgmt.notIdle = true ∧ Safety.SameRegsBut [] s t) ∧
      (left = [] → Safety.MgmtEnded t 0x10) ∧ t.dev.cores = s.dev.cores ∧ Safety.SameMemory s t))

/-- R287: in a cluster the selection serves slots 0 to LC − 1, each by one usable core, as many as there are; no usable core that is left out is
wider than one that serves; and a selected core that serves a slot of the shape already goes on serving it. -/
def Obligations.SelectionServesWidestCores : Prop :=
  ∀ (b : Blocks) (g lc : Nat),
    let plan := b.planCluster g lc (fun _ => none)
    let usable := (List.range 18).filter (fun s => !b.mgmt.dead.contains (18 * g + s))
    (plan.map (fun e => e.1)).Nodup ∧ (plan.map (fun e => e.2)).Nodup ∧ plan.length = min lc usable.length ∧
    (∀ e ∈ plan, e.1 < lc ∧ e.2 ∈ usable) ∧
    (∀ e ∈ plan, ∀ s ∈ usable, s ∉ plan.map (fun x => x.2) → b.coreWidth (18 * g + s) ≤ b.coreWidth (18 * g + e.2)) ∧
    (∀ e ∈ plan, ∀ j, (b.core (18 * g + e.2)).slot = some j → j < lc →
      (∀ s, s < 18 → s ≠ e.2 → (b.core (18 * g + s)).slot ≠ some j) → e.1 = j)

/-! Contexts. -/

/-- R319, R320, R327: a create takes a FREE context to LIVE with its RT, ROLE and SAVE_BASE, and a destroy of a DEAD one makes it FREE at once, while
that of a LIVE one begins its teardown; the cases that the rule lists are refused and no context changes. The end of the teardown makes a
context DEAD, or FREE after a destroy, keeps CAUSE, and frees the pool buffers whose tag names the context, and no other. -/
def Obligations.ContextStates : Prop :=
  (∀ (s : State) (p : MPort) (c role base : Nat) (rt : Bool), Safety.Writable s p → c < 64 → role < 64 → base % 2 ^ 21 = 0 → base < 2 ^ 48 →
    let fits : Prop := base = 0 ∨ (base + s.dev.saveBytes ≤ directSize ∧ s.dev.isProtected base s.dev.saveBytes = false)
    ((s.dev.ctx c).mode = .free → s.dev.mgmt.mount.isSome = true → fits → Safety.Gives (.contextCreate p c role rt base) s (fun t =>
      t.dev.ctx c = { mode := .live, rt := rt, role := role, saveBase := base, cause := (s.dev.ctx c).cause } ∧
      (∀ x, x ≠ c → t.dev.ctx x = s.dev.ctx x) ∧ (t.dev.bus p).answer = .done ∧ Safety.SameRegsBut [] s t ∧ Safety.SameMemory s t ∧
      t.dev.cores = s.dev.cores ∧ t.dev.jobs = s.dev.jobs ∧ t.dev.rings = s.dev.rings ∧ t.dev.mgmt = s.dev.mgmt)) ∧
    ((s.dev.ctx c).mode ≠ .free ∨ s.dev.mgmt.mount = none ∨ ¬ fits →
      exec (.contextCreate p c role rt base) s = .next (s.onDev (s.dev.writeErr p 4 Reg.glbCtxCmd 8)))) ∧
  (∀ (s : State) (p : MPort) (c : Nat), Safety.Writable s p → c < 64 →
    ((s.dev.ctx c).mode = .free ∨ (s.dev.ctx c).mode = .tearing ∨ s.dev.mgmt.mount = none →
      exec (.contextDestroy p c) s = .next (s.onDev (s.dev.writeErr p 4 Reg.glbCtxCmd 8))) ∧
    (s.dev.mgmt.mount.isSome = true →
      ((s.dev.ctx c).mode = .dead → Safety.Gives (.contextDestroy p c) s (fun t =>
        t.dev.ctx c = { cause := (s.dev.ctx c).cause } ∧ (∀ x, x ≠ c → t.dev.ctx x = s.dev.ctx x) ∧ Safety.SameRegsBut [] s t ∧
        Safety.SameMemory s t ∧ t.dev.cores = s.dev.cores ∧ t.dev.jobs = s.dev.jobs)) ∧
      ((s.dev.ctx c).mode = .live → exec (.contextDestroy p c) s = .next (s.onDev
        (((s.dev.modCtx c (fun x => { x with destroyed := true })).tearDown c 0).answer p .done))))) ∧
  (∀ (s : State) (c : Nat), Safety.Operating s →
    ((s.dev.ctx c).mode ≠ .tearing → exec (.teardownComplete c) s = .next s) ∧
    ((s.dev.ctx c).mode = .tearing → Safety.Gives (.teardownComplete c) s (fun t =>
      (t.dev.ctx c).mode = (if (s.dev.ctx c).destroyed then .free else .dead) ∧ (t.dev.ctx c).cause = (s.dev.ctx c).cause ∧
      (∀ x, x ≠ c → (t.dev.ctx x).mode = (s.dev.ctx x).mode) ∧ t.dev.cores = s.dev.cores ∧ t.dev.jobs = s.dev.jobs ∧
      t.dev.rings = s.dev.rings ∧ t.dev.loc = s.dev.loc ∧ t.dev.vault = s.dev.vault ∧ t.dev.hostMem = s.dev.hostMem ∧
      (Safety.PoolPlaced s → ∀ k n, k < 8 → n < 64 * s.dev.classWords k →
        (Safety.reclaimed s (.context c) k n = true →
          t.dev.tag k n = setBits (s.dev.tag k n) 31 31 0 ∧ t.dev.mapBit k n = Safety.quarantined s k n) ∧
        (Safety.reclaimed s (.context c) k n = false → t.dev.tag k n = s.dev.tag k n ∧ t.dev.mapBit k n = s.dev.mapBit k n)))))

/-- R103, R225, R311, R327, R331, Table 13.2: the teardown of a LIVE context takes everything that is the context's and nothing of another's
programs: it is TEARING with the first cause, its commands have ended with TORN_DOWN, its rings are disabled with nothing fetched, no program,
suspended program, owned core or saved record of it is left, its cores hold no carats and wait for none, no layer, no pin, no stage admission, no
request but the replica fetches, no draw on a reservation; its open Clasps and collectives vote no. (Its pool buffers go when the teardown ends:
`Obligations.ContextStates`.) A second cause changes nothing but CAUSE, and that only to a lower code of the same hub cycle. -/
def Obligations.TeardownTakesEverything : Prop :=
  ∀ (d : Dev) (c cause : Nat), c < 64 → (∀ l, d.routing.layer = some l → l.ctx < 64) → (d.colls.map (fun x => x.id)).Nodup →
    let t := d.tearDown c cause
    ((d.ctx c).mode ≠ .live →
      t = if (d.ctx c).mode = .tearing ∧ (d.ctx c).tornAt = some d.glb.hubNow ∧ cause < (d.ctx c).cause
        then d.modCtx c (fun x => { x with cause := cause }) else d) ∧
    ((d.ctx c).mode = .live →
      (t.ctx c).mode = .tearing ∧ (t.ctx c).cause = cause ∧ (t.ctx c).runnable = false ∧ (t.ctx c).resv = 0 ∧ (t.ctx c).occs = [] ∧
      (t.ctx c).saved = [] ∧ (t.ctx c).restoring = [] ∧ (t.ctx c).stagePins = [] ∧ (t.ctx c).demandPins = [] ∧ (t.ctx c).kvHeld = [] ∧
      (∀ x, x ≠ c → (t.ctx x).mode = (d.ctx x).mode) ∧ t.rd Reg.glbCtxCntTeardown = (d.rd Reg.glbCtxCntTeardown + 1) % 2 ^ 64 ∧
      (∀ j ∈ t.jobs, j.ctx ≠ c) ∧
      (∀ j ∈ d.jobs, j.ctx = c → ∃ r ∈ (t.ring j.ring).hold, r.seq = j.seq ∧ r.status = 0xB4 ∧
        r.result0 = BitVec.ofNat 64 (d.tornResults j).1 ∧ r.result1 = BitVec.ofNat 64 (d.tornResults j).2) ∧
      (∀ r, r < 4096 → d.ringCtx r = c → d.flag (Reg.ringCtrl r) 0 = true →
        t.flag (Reg.ringCtrl r) 0 = false ∧ (t.ring r).fetched = []) ∧
      (∀ p, (t.core p).owner ≠ some c ∧ (∀ g, (t.core p).prog = some g → g.ctx ≠ c) ∧ (∀ g ∈ (t.core p).suspended, g.ctx ≠ c) ∧
        (∀ g, (d.core p).prog = some g → g.ctx ≠ c → (t.core p).prog = some g) ∧
        (∀ o, (d.core p).owner = some o → o ≠ c → (t.core p).owner = some o)) ∧
      (∀ p, p < 576 → (d.core p).owner = some c ∨ (∃ g, (d.core p).prog = some g ∧ g.ctx = c) →
        t.holds p = 0 ∧ ∀ r ∈ t.pwr.waiting, r.req ≠ p) ∧
      (∀ x ∈ t.colls, x.ctx = c → x.phase = .closing ∨ (x.phase = .opening ∧ x.open_.ok = false)) ∧
      (∀ x ∈ d.colls, x.ctx = c → x.phase = .data → ∀ y ∈ t.colls, y.id = x.id → y.close.ok = false) ∧
      (∀ r ∈ t.records, r.ctx ≠ c) ∧ (∀ l, t.routing.layer = some l → l.ctx ≠ c) ∧
      (∀ r ∈ t.remote.reqs, r.ctx = c → r.core = 576) ∧ (∀ e ∈ t.mig.stageReqs, e.1 ≠ c) ∧ (∀ e ∈ t.pwr.fromRes, e.2.1 ≠ c) ∧
      (∀ x ∈ t.tb.clasps, x.ctx = c → x.ok = false) ∧ t.rd (Reg.migKvReserved c) = 0 ∧
      (∀ a, memByte t.loc a = memByte d.loc a) ∧ t.hostMem = d.hostMem)

/-- R322, R323, R325, R326: a context switch changes no bit: what is saved of a core comes back, whatever the core has held since. A switch of an
owned core saves a switchable owner's state and gives the core to the context that needs it; a program in the way that may be pre-empted
stops issuing and, once its scoreboard is empty, is suspended; one that may not be is left alone. A suspended program resumes before later
ones when its cores are idle and no runnable real-time context needs them. -/
def Obligations.SwitchChangesNoBit : Prop :=
  (∀ (s : State) (c l p : Nat) (loc : Mem), Safety.HbmPlaced s → Memory.wf s.dev.loc = true → Memory.wf loc = true →
    l < 32 * s.dev.lc → (s.dev.ctx c).saveBase + s.dev.saveBytes ≤ directSize →
    let d := s.dev.saveCore c l p
    let e := ({ d with loc := loc } : Dev).restoreCore c l p
    (∀ a, a < 0x1C0000 ∨ (0x200000 ≤ a ∧ a < 0x240000) → memByte e.loc (p * 2 ^ 22 + a) = memByte s.dev.loc (p * 2 ^ 22 + a)) ∧
    (∀ x, ¬ (p * 2 ^ 22 ≤ x ∧ x < p * 2 ^ 22 + 0x240000) → memByte e.loc x = memByte loc x) ∧
    (e.core p).m = (s.dev.core p).m ∧ (e.core p).keep = (s.dev.core p).keep ∧ l ∉ (e.ctx c).saved ∧ l ∈ (d.ctx c).saved ∧
    (∀ i, ¬ (s.dev.saveSlot c l ≤ i ∧ i < s.dev.saveSlot c l + 2 ^ 21) →
      ¬ (s.dev.saveRecord c l ≤ i ∧ i < s.dev.saveRecord c l + 64) → i < directSize →
      memByte d.hbm (hbmKey d.ilv i) = memByte s.dev.hbm (hbmKey s.dev.ilv i))) ∧
  (∀ (s : State) (p c o l : Nat), Safety.Operating s → p < 576 → c < 64 → s.dev.unitOf p = [p] → (s.dev.core p).owner = some o → o ≠ c →
    s.dev.logOf p = some l → (s.dev.ctx c).mode = .live → s.dev.slotMoving p = false → s.dev.claimed p = false →
    s.dev.wantsCore c p = true →
    (s.dev.unitProgs [p] = [] → s.dev.suspendedOn p = false →
      Safety.Gives (.contextSwitch p c) s (fun t =>
        (t.dev.core p).owner = some c ∧ (∀ q, q ≠ p → t.dev.core q = s.dev.core q) ∧
        t.dev.rd Reg.glbCtxCntSwitch = (s.dev.rd Reg.glbCtxCntSwitch + 1) % 2 ^ 64 ∧
        ((s.dev.ctx o).saveBase ≠ 0 → l ∈ (t.dev.ctx o).saved) ∧ ((s.dev.ctx o).saveBase = 0 → t.dev.hbm = s.dev.hbm) ∧
        (l ∉ (s.dev.ctx c).saved → t.dev.loc = s.dev.loc) ∧ t.dev.jobs = s.dev.jobs ∧ t.dev.vault = s.dev.vault ∧
        t.dev.hostMem = s.dev.hostMem ∧
        Safety.SameRegsBut (Reg.glbCtxCntSwitch :: Safety.hbmCounters ++ (List.range 8).map (Reg.corePmc p ·)) s t ∧
        ((s.dev.ctx o).saveBase = 0 → l ∉ (s.dev.ctx c).saved → Safety.SameRegsBut [Reg.glbCtxCntSwitch] s t))) ∧
    (∀ g, s.dev.unitProgs [p] = [p] → s.dev.prog? p = some g →
      (s.dev.mayPreempt c g = false → exec (.contextSwitch p c) s = .next s) ∧
      (s.dev.mayPreempt c g = true → (∃ i ∈ g.score, i.isClwait = false) →
        exec (.contextSwitch p c) s = .next (s.onDev (s.dev.quiesce c p))) ∧
      (s.dev.mayPreempt c g = true → g.score = [] → Safety.Gives (.contextSwitch p c) s (fun t =>
        t.dev.prog? p = none ∧ (t.dev.core p).suspended = (s.dev.core p).suspended ++ [{ g with quiesce := false }] ∧
        (t.dev.core p).owner = some c ∧ t.dev.jobs = s.dev.jobs)))) ∧
  (∀ (s : State) (p : Nat) (g : Prog) (rest : List Prog), Safety.Operating s → p < 576 → s.dev.unitOf p = [p] →
    (s.dev.core p).suspended = g :: rest →
    (s.dev.runsOn p = true ∨ s.dev.slotMoving p = true ∨ s.dev.claimed p = true ∨ s.dev.rtNeeds p = true →
      exec (.suspendedResume p) s = .next s) ∧
    (s.dev.runsOn p = false → s.dev.slotMoving p = false → s.dev.claimed p = false → s.dev.rtNeeds p = false →
      Safety.Gives (.suspendedResume p) s (fun t =>
        t.dev.prog? p = some g ∧ (t.dev.core p).suspended = rest ∧ (∀ q, q ≠ p → t.dev.core q = s.dev.core q) ∧ t.dev.jobs = s.dev.jobs ∧
        ((s.dev.core p).owner = some g.ctx → s.dev.isSaved g.ctx p = false → (t.dev.core p).owner = some g.ctx ∧ Safety.SameRegsBut [] s t ∧
          Safety.SameMemory s t))))

/-! The invariant of every step. -/

/-- The model's four memories (log entries 3 and 4) keep their canonical form in every step, whatever command it takes and whatever state it
takes it in: equal memories stay equal data. -/
def Obligations.EveryStepKeepsMemoriesCanonical : Prop :=
  ∀ s t : State, Safety.MemoriesCanonical s.dev → step s = .next t → Safety.MemoriesCanonical t.dev

/-- The memories are in canonical form at reset. -/
def Obligations.MemoriesCanonicalAtReset : Prop := Safety.MemoriesCanonical State.reset.dev
end

