-- ==== Sys2Proof/Laws/PerInstr.lean ====
section
/-! SUPPORT. Laws stated per command. Family `Unspelt`: the opcode table gives no row any bits, so no word of any length spells a command. -/

/-- No word spells the command. -/
def Sys2Proof.Laws.Unspelt.Statement (i : Sys2Proof.Instr) : Prop := ∀ nbits w : Nat, Sys2Proof.decodeTableWord nbits w ≠ some i

open Sys2Proof in
/-- The decoder answers nothing at all. -/
theorem Sys2Proof.Laws.unspelt (i : Instr) : Sys2Proof.Laws.Unspelt.Statement i := by
  intro _ _ h
  simp [decodeTableWord] at h

theorem Sys2Proof.Laws.Unspelt.registerWrite (p : Sys2Proof.MPort) (off bytes : Nat) (val : Sys2Proof.W64) : Sys2Proof.Laws.Unspelt.Statement (.registerWrite p off bytes val) := Sys2Proof.Laws.unspelt _
theorem Sys2Proof.Laws.Unspelt.bar2Access (write : Bool) (off len : Nat) (data : List Sys2Proof.Byte) (ecc : Sys2Proof.Ecc) : Sys2Proof.Laws.Unspelt.Statement (.bar2Access write off len data ecc) := Sys2Proof.Laws.unspelt _
theorem Sys2Proof.Laws.Unspelt.deviceReset : Sys2Proof.Laws.Unspelt.Statement (.deviceReset) := Sys2Proof.Laws.unspelt _
theorem Sys2Proof.Laws.Unspelt.resetCmd (p : Sys2Proof.MPort) (key : Sys2Proof.W32) : Sys2Proof.Laws.Unspelt.Statement (.resetCmd p key) := Sys2Proof.Laws.unspelt _
theorem Sys2Proof.Laws.Unspelt.resetRelease (addr0 addr1 : Bool) (bist : Sys2Proof.Bist) : Sys2Proof.Laws.Unspelt.Statement (.resetRelease addr0 addr1 bist) := Sys2Proof.Laws.unspelt _
theorem Sys2Proof.Laws.Unspelt.ready (vault0 vault1 : Sys2Proof.VaultLink) : Sys2Proof.Laws.Unspelt.Statement (.ready vault0 vault1) := Sys2Proof.Laws.unspelt _
theorem Sys2Proof.Laws.Unspelt.pllLockLoss (domain : Nat) : Sys2Proof.Laws.Unspelt.Statement (.pllLockLoss domain) := Sys2Proof.Laws.unspelt _
theorem Sys2Proof.Laws.Unspelt.thermHot (t : Sys2Proof.Temps) : Sys2Proof.Laws.Unspelt.Statement (.thermHot t) := Sys2Proof.Laws.unspelt _
theorem Sys2Proof.Laws.Unspelt.thermHotClear (t : Sys2Proof.Temps) : Sys2Proof.Laws.Unspelt.Statement (.thermHotClear t) := Sys2Proof.Laws.unspelt _
theorem Sys2Proof.Laws.Unspelt.thermtrip (t : Sys2Proof.Temps) : Sys2Proof.Laws.Unspelt.Statement (.thermtrip t) := Sys2Proof.Laws.unspelt _
theorem Sys2Proof.Laws.Unspelt.hostPortReset (kind : Sys2Proof.HostReset) : Sys2Proof.Laws.Unspelt.Statement (.hostPortReset kind) := Sys2Proof.Laws.unspelt _
theorem Sys2Proof.Laws.Unspelt.nop (ring seq : Nat) : Sys2Proof.Laws.Unspelt.Statement (.nop ring seq) := Sys2Proof.Laws.unspelt _
theorem Sys2Proof.Laws.Unspelt.program (ring seq : Nat) (ecc : Sys2Proof.Ecc) : Sys2Proof.Laws.Unspelt.Statement (.program ring seq ecc) := Sys2Proof.Laws.unspelt _
theorem Sys2Proof.Laws.Unspelt.step (ring seq : Nat) (ecc : Sys2Proof.Ecc) : Sys2Proof.Laws.Unspelt.Statement (.step ring seq ecc) := Sys2Proof.Laws.unspelt _
theorem Sys2Proof.Laws.Unspelt.collective (ring seq : Nat) (ecc : Sys2Proof.Ecc) : Sys2Proof.Laws.Unspelt.Statement (.collective ring seq ecc) := Sys2Proof.Laws.unspelt _
theorem Sys2Proof.Laws.Unspelt.clasp (ring seq : Nat) : Sys2Proof.Laws.Unspelt.Statement (.clasp ring seq) := Sys2Proof.Laws.unspelt _
theorem Sys2Proof.Laws.Unspelt.poolAlloc (ring seq : Nat) : Sys2Proof.Laws.Unspelt.Statement (.poolAlloc ring seq) := Sys2Proof.Laws.unspelt _
theorem Sys2Proof.Laws.Unspelt.poolFree (ring seq : Nat) : Sys2Proof.Laws.Unspelt.Statement (.poolFree ring seq) := Sys2Proof.Laws.unspelt _
theorem Sys2Proof.Laws.Unspelt.hallmarkFlush (ring seq : Nat) : Sys2Proof.Laws.Unspelt.Statement (.hallmarkFlush ring seq) := Sys2Proof.Laws.unspelt _
theorem Sys2Proof.Laws.Unspelt.copy (ring seq : Nat) (host : Sys2Proof.HostStores) (ecc : Sys2Proof.Ecc) : Sys2Proof.Laws.Unspelt.Statement (.copy ring seq host ecc) := Sys2Proof.Laws.unspelt _
theorem Sys2Proof.Laws.Unspelt.doorbell (p : Sys2Proof.MPort) (ring : Nat) (tail : Sys2Proof.W32) : Sys2Proof.Laws.Unspelt.Statement (.doorbell p ring tail) := Sys2Proof.Laws.unspelt _
theorem Sys2Proof.Laws.Unspelt.commandFetch (ring : Nat) (host : Sys2Proof.HostStores) (ecc : Sys2Proof.Ecc) : Sys2Proof.Laws.Unspelt.Statement (.commandFetch ring host ecc) := Sys2Proof.Laws.unspelt _
theorem Sys2Proof.Laws.Unspelt.ringEnable (p : Sys2Proof.MPort) (ring : Nat) (ctrl : Sys2Proof.W32) : Sys2Proof.Laws.Unspelt.Statement (.ringEnable p ring ctrl) := Sys2Proof.Laws.unspelt _
theorem Sys2Proof.Laws.Unspelt.ringDisable (p : Sys2Proof.MPort) (ring : Nat) : Sys2Proof.Laws.Unspelt.Statement (.ringDisable p ring) := Sys2Proof.Laws.unspelt _
theorem Sys2Proof.Laws.Unspelt.ringCancel (p : Sys2Proof.MPort) (ring : Nat) (val : Sys2Proof.W32) : Sys2Proof.Laws.Unspelt.Statement (.ringCancel p ring val) := Sys2Proof.Laws.unspelt _
theorem Sys2Proof.Laws.Unspelt.ringPrioWrite (p : Sys2Proof.MPort) (ring : Nat) (prio : Nat) : Sys2Proof.Laws.Unspelt.Statement (.ringPrioWrite p ring prio) := Sys2Proof.Laws.unspelt _
theorem Sys2Proof.Laws.Unspelt.commandGrant : Sys2Proof.Laws.Unspelt.Statement (.commandGrant) := Sys2Proof.Laws.unspelt _
theorem Sys2Proof.Laws.Unspelt.promotion (ring : Nat) : Sys2Proof.Laws.Unspelt.Statement (.promotion ring) := Sys2Proof.Laws.unspelt _
theorem Sys2Proof.Laws.Unspelt.completionRecordWrite (ring : Nat) : Sys2Proof.Laws.Unspelt.Statement (.completionRecordWrite ring) := Sys2Proof.Laws.unspelt _
theorem Sys2Proof.Laws.Unspelt.denseInstruction (core : Nat) (ecc : Sys2Proof.Ecc) : Sys2Proof.Laws.Unspelt.Statement (.denseInstruction core ecc) := Sys2Proof.Laws.unspelt _
theorem Sys2Proof.Laws.Unspelt.sparseArrayInstruction (core : Nat) (ecc : Sys2Proof.Ecc) : Sys2Proof.Laws.Unspelt.Statement (.sparseArrayInstruction core ecc) := Sys2Proof.Laws.unspelt _
theorem Sys2Proof.Laws.Unspelt.arrayDrain (core : Nat) (residue : List (Nat × Nat)) (ecc : Sys2Proof.Ecc) : Sys2Proof.Laws.Unspelt.Statement (.arrayDrain core residue ecc) := Sys2Proof.Laws.unspelt _
theorem Sys2Proof.Laws.Unspelt.end_ (core : Nat) (ecc : Sys2Proof.Ecc) : Sys2Proof.Laws.Unspelt.Statement (.end_ core ecc) := Sys2Proof.Laws.unspelt _
theorem Sys2Proof.Laws.Unspelt.clwait (core : Nat) (ecc : Sys2Proof.Ecc) : Sys2Proof.Laws.Unspelt.Statement (.clwait core ecc) := Sys2Proof.Laws.unspelt _
theorem Sys2Proof.Laws.Unspelt.clwaitTimeout (core : Nat) : Sys2Proof.Laws.Unspelt.Statement (.clwaitTimeout core) := Sys2Proof.Laws.unspelt _
theorem Sys2Proof.Laws.Unspelt.vcopy (core : Nat) (ecc : Sys2Proof.Ecc) : Sys2Proof.Laws.Unspelt.Statement (.vcopy core ecc) := Sys2Proof.Laws.unspelt _
theorem Sys2Proof.Laws.Unspelt.vadd (core : Nat) (ecc : Sys2Proof.Ecc) : Sys2Proof.Laws.Unspelt.Statement (.vadd core ecc) := Sys2Proof.Laws.unspelt _
theorem Sys2Proof.Laws.Unspelt.vmul (core : Nat) (ecc : Sys2Proof.Ecc) : Sys2Proof.Laws.Unspelt.Statement (.vmul core ecc) := Sys2Proof.Laws.unspelt _
theorem Sys2Proof.Laws.Unspelt.vfma (core : Nat) (ecc : Sys2Proof.Ecc) : Sys2Proof.Laws.Unspelt.Statement (.vfma core ecc) := Sys2Proof.Laws.unspelt _
theorem Sys2Proof.Laws.Unspelt.vaxpy (core : Nat) (ecc : Sys2Proof.Ecc) : Sys2Proof.Laws.Unspelt.Statement (.vaxpy core ecc) := Sys2Proof.Laws.unspelt _
theorem Sys2Proof.Laws.Unspelt.vmax (core : Nat) (ecc : Sys2Proof.Ecc) : Sys2Proof.Laws.Unspelt.Statement (.vmax core ecc) := Sys2Proof.Laws.unspelt _
theorem Sys2Proof.Laws.Unspelt.vmin (core : Nat) (ecc : Sys2Proof.Ecc) : Sys2Proof.Laws.Unspelt.Statement (.vmin core ecc) := Sys2Proof.Laws.unspelt _
theorem Sys2Proof.Laws.Unspelt.vscale (core : Nat) (ecc : Sys2Proof.Ecc) : Sys2Proof.Laws.Unspelt.Statement (.vscale core ecc) := Sys2Proof.Laws.unspelt _
theorem Sys2Proof.Laws.Unspelt.vexp (core : Nat) (ecc : Sys2Proof.Ecc) : Sys2Proof.Laws.Unspelt.Statement (.vexp core ecc) := Sys2Proof.Laws.unspelt _
theorem Sys2Proof.Laws.Unspelt.vrcp (core : Nat) (ecc : Sys2Proof.Ecc) : Sys2Proof.Laws.Unspelt.Statement (.vrcp core ecc) := Sys2Proof.Laws.unspelt _
theorem Sys2Proof.Laws.Unspelt.vrsqrt (core : Nat) (ecc : Sys2Proof.Ecc) : Sys2Proof.Laws.Unspelt.Statement (.vrsqrt core ecc) := Sys2Proof.Laws.unspelt _
theorem Sys2Proof.Laws.Unspelt.vsilu (core : Nat) (ecc : Sys2Proof.Ecc) : Sys2Proof.Laws.Unspelt.Statement (.vsilu core ecc) := Sys2Proof.Laws.unspelt _
theorem Sys2Proof.Laws.Unspelt.vgelu (core : Nat) (ecc : Sys2Proof.Ecc) : Sys2Proof.Laws.Unspelt.Statement (.vgelu core ecc) := Sys2Proof.Laws.unspelt _
theorem Sys2Proof.Laws.Unspelt.vrsum (core : Nat) (ecc : Sys2Proof.Ecc) : Sys2Proof.Laws.Unspelt.Statement (.vrsum core ecc) := Sys2Proof.Laws.unspelt _
theorem Sys2Proof.Laws.Unspelt.vrmax (core : Nat) (ecc : Sys2Proof.Ecc) : Sys2Proof.Laws.Unspelt.Statement (.vrmax core ecc) := Sys2Proof.Laws.unspelt _
theorem Sys2Proof.Laws.Unspelt.vdot (core : Nat) (ecc : Sys2Proof.Ecc) : Sys2Proof.Laws.Unspelt.Statement (.vdot core ecc) := Sys2Proof.Laws.unspelt _
theorem Sys2Proof.Laws.Unspelt.vcvt (core : Nat) (ecc : Sys2Proof.Ecc) : Sys2Proof.Laws.Unspelt.Statement (.vcvt core ecc) := Sys2Proof.Laws.unspelt _
theorem Sys2Proof.Laws.Unspelt.vload (core : Nat) (ecc : Sys2Proof.Ecc) : Sys2Proof.Laws.Unspelt.Statement (.vload core ecc) := Sys2Proof.Laws.unspelt _
theorem Sys2Proof.Laws.Unspelt.vstore (core : Nat) (ecc : Sys2Proof.Ecc) : Sys2Proof.Laws.Unspelt.Statement (.vstore core ecc) := Sys2Proof.Laws.unspelt _
theorem Sys2Proof.Laws.Unspelt.vsel (core : Nat) (ecc : Sys2Proof.Ecc) : Sys2Proof.Laws.Unspelt.Statement (.vsel core ecc) := Sys2Proof.Laws.unspelt _
theorem Sys2Proof.Laws.Unspelt.vkeep (core : Nat) (ecc : Sys2Proof.Ecc) : Sys2Proof.Laws.Unspelt.Statement (.vkeep core ecc) := Sys2Proof.Laws.unspelt _
theorem Sys2Proof.Laws.Unspelt.vhint (core : Nat) (ecc : Sys2Proof.Ecc) : Sys2Proof.Laws.Unspelt.Statement (.vhint core ecc) := Sys2Proof.Laws.unspelt _
theorem Sys2Proof.Laws.Unspelt.valloc (core : Nat) (ecc : Sys2Proof.Ecc) : Sys2Proof.Laws.Unspelt.Statement (.valloc core ecc) := Sys2Proof.Laws.unspelt _
theorem Sys2Proof.Laws.Unspelt.vfree (core : Nat) (ecc : Sys2Proof.Ecc) : Sys2Proof.Laws.Unspelt.Statement (.vfree core ecc) := Sys2Proof.Laws.unspelt _
theorem Sys2Proof.Laws.Unspelt.vatom (core : Nat) (ecc : Sys2Proof.Ecc) : Sys2Proof.Laws.Unspelt.Statement (.vatom core ecc) := Sys2Proof.Laws.unspelt _
theorem Sys2Proof.Laws.Unspelt.vstoref (core : Nat) (ecc : Sys2Proof.Ecc) : Sys2Proof.Laws.Unspelt.Statement (.vstoref core ecc) := Sys2Proof.Laws.unspelt _
theorem Sys2Proof.Laws.Unspelt.vcount (core : Nat) (ecc : Sys2Proof.Ecc) : Sys2Proof.Laws.Unspelt.Statement (.vcount core ecc) := Sys2Proof.Laws.unspelt _
theorem Sys2Proof.Laws.Unspelt.rePlanReady (re : Nat) (ecc : Sys2Proof.Ecc) : Sys2Proof.Laws.Unspelt.Statement (.rePlanReady re ecc) := Sys2Proof.Laws.unspelt _
theorem Sys2Proof.Laws.Unspelt.countMessageReceive : Sys2Proof.Laws.Unspelt.Statement (.countMessageReceive) := Sys2Proof.Laws.unspelt _
theorem Sys2Proof.Laws.Unspelt.countTimeout (re : Nat) : Sys2Proof.Laws.Unspelt.Statement (.countTimeout re) := Sys2Proof.Laws.unspelt _
theorem Sys2Proof.Laws.Unspelt.reHalt (p : Sys2Proof.MPort) (re : Nat) (on : Bool) : Sys2Proof.Laws.Unspelt.Statement (.reHalt p re on) := Sys2Proof.Laws.unspelt _
theorem Sys2Proof.Laws.Unspelt.keothRecordPost (re : Nat) : Sys2Proof.Laws.Unspelt.Statement (.keothRecordPost re) := Sys2Proof.Laws.unspelt _
theorem Sys2Proof.Laws.Unspelt.keothResume (p : Sys2Proof.MPort) (re : Nat) (val : Sys2Proof.W32) (ecc : Sys2Proof.Ecc) : Sys2Proof.Laws.Unspelt.Statement (.keothResume p re val ecc) := Sys2Proof.Laws.unspelt _
theorem Sys2Proof.Laws.Unspelt.keothTimeout (re : Nat) : Sys2Proof.Laws.Unspelt.Statement (.keothTimeout re) := Sys2Proof.Laws.unspelt _
theorem Sys2Proof.Laws.Unspelt.dispatchOpen (half : Nat) (ecc : Sys2Proof.Ecc) : Sys2Proof.Laws.Unspelt.Statement (.dispatchOpen half ecc) := Sys2Proof.Laws.unspelt _
theorem Sys2Proof.Laws.Unspelt.returnOpen (half : Nat) : Sys2Proof.Laws.Unspelt.Statement (.returnOpen half) := Sys2Proof.Laws.unspelt _
theorem Sys2Proof.Laws.Unspelt.orderedCombine (half : Nat) (ecc : Sys2Proof.Ecc) : Sys2Proof.Laws.Unspelt.Statement (.orderedCombine half ecc) := Sys2Proof.Laws.unspelt _
theorem Sys2Proof.Laws.Unspelt.stageAdmission : Sys2Proof.Laws.Unspelt.Statement (.stageAdmission) := Sys2Proof.Laws.unspelt _
theorem Sys2Proof.Laws.Unspelt.vaultTransfer (port : Nat) (ecc : Sys2Proof.Ecc) : Sys2Proof.Laws.Unspelt.Statement (.vaultTransfer port ecc) := Sys2Proof.Laws.unspelt _
theorem Sys2Proof.Laws.Unspelt.vaultFetchComplete (port : Nat) (poison : Bool) (ecc : Sys2Proof.Ecc) : Sys2Proof.Laws.Unspelt.Statement (.vaultFetchComplete port poison ecc) := Sys2Proof.Laws.unspelt _
theorem Sys2Proof.Laws.Unspelt.vaultWritebackComplete (port : Nat) : Sys2Proof.Laws.Unspelt.Statement (.vaultWritebackComplete port) := Sys2Proof.Laws.unspelt _
theorem Sys2Proof.Laws.Unspelt.vaultLinkDown (port : Nat) : Sys2Proof.Laws.Unspelt.Statement (.vaultLinkDown port) := Sys2Proof.Laws.unspelt _
theorem Sys2Proof.Laws.Unspelt.hintQueueTake : Sys2Proof.Laws.Unspelt.Statement (.hintQueueTake) := Sys2Proof.Laws.unspelt _
theorem Sys2Proof.Laws.Unspelt.hintMessage : Sys2Proof.Laws.Unspelt.Statement (.hintMessage) := Sys2Proof.Laws.unspelt _
theorem Sys2Proof.Laws.Unspelt.poolAllocation (who : Sys2Proof.PoolUser) (size ctx sub : Nat) : Sys2Proof.Laws.Unspelt.Statement (.poolAllocation who size ctx sub) := Sys2Proof.Laws.unspelt _
theorem Sys2Proof.Laws.Unspelt.hardwareFree (who : Sys2Proof.PoolUser) (ptr : Nat) : Sys2Proof.Laws.Unspelt.Statement (.hardwareFree who ptr) := Sys2Proof.Laws.unspelt _
theorem Sys2Proof.Laws.Unspelt.tagReclaim (pat : Sys2Proof.Reclaim) : Sys2Proof.Laws.Unspelt.Statement (.tagReclaim pat) := Sys2Proof.Laws.unspelt _
theorem Sys2Proof.Laws.Unspelt.auditPass : Sys2Proof.Laws.Unspelt.Statement (.auditPass) := Sys2Proof.Laws.unspelt _
theorem Sys2Proof.Laws.Unspelt.bitmapRebuild (cls word : Nat) (correctable : Bool) : Sys2Proof.Laws.Unspelt.Statement (.bitmapRebuild cls word correctable) := Sys2Proof.Laws.unspelt _
theorem Sys2Proof.Laws.Unspelt.linkCellSend (port : Nat) : Sys2Proof.Laws.Unspelt.Statement (.linkCellSend port) := Sys2Proof.Laws.unspelt _
theorem Sys2Proof.Laws.Unspelt.linkCellReceive (port : Nat) (cell : Sys2Proof.Cell) (q : Sys2Proof.RxQuality) : Sys2Proof.Laws.Unspelt.Statement (.linkCellReceive port cell q) := Sys2Proof.Laws.unspelt _
theorem Sys2Proof.Laws.Unspelt.replayTimeout (port : Nat) : Sys2Proof.Laws.Unspelt.Statement (.replayTimeout port) := Sys2Proof.Laws.unspelt _
theorem Sys2Proof.Laws.Unspelt.retrainRequest (port : Nat) (block : List Sys2Proof.Byte) : Sys2Proof.Laws.Unspelt.Statement (.retrainRequest port block) := Sys2Proof.Laws.unspelt _
theorem Sys2Proof.Laws.Unspelt.lightDetected (port : Nat) (lanes : Nat) : Sys2Proof.Laws.Unspelt.Statement (.lightDetected port lanes) := Sys2Proof.Laws.unspelt _
theorem Sys2Proof.Laws.Unspelt.lockAchieved (port : Nat) (lanes : Nat) : Sys2Proof.Laws.Unspelt.Statement (.lockAchieved port lanes) := Sys2Proof.Laws.unspelt _
theorem Sys2Proof.Laws.Unspelt.trainingBlock (port : Nat) (block : List Sys2Proof.Byte) (hubNow : Nat) : Sys2Proof.Laws.Unspelt.Statement (.trainingBlock port block hubNow) := Sys2Proof.Laws.unspelt _
theorem Sys2Proof.Laws.Unspelt.trainTimeout (port : Nat) : Sys2Proof.Laws.Unspelt.Statement (.trainTimeout port) := Sys2Proof.Laws.unspelt _
theorem Sys2Proof.Laws.Unspelt.lightLost (port : Nat) : Sys2Proof.Laws.Unspelt.Statement (.lightLost port) := Sys2Proof.Laws.unspelt _
theorem Sys2Proof.Laws.Unspelt.fecLockLost (port : Nat) : Sys2Proof.Laws.Unspelt.Statement (.fecLockLost port) := Sys2Proof.Laws.unspelt _
theorem Sys2Proof.Laws.Unspelt.clockLost (port : Nat) : Sys2Proof.Laws.Unspelt.Statement (.clockLost port) := Sys2Proof.Laws.unspelt _
theorem Sys2Proof.Laws.Unspelt.laneRetired (port : Nat) (dir : Sys2Proof.LaneDir) (lane : Nat) : Sys2Proof.Laws.Unspelt.Statement (.laneRetired port dir lane) := Sys2Proof.Laws.unspelt _
theorem Sys2Proof.Laws.Unspelt.retrainInterval (port : Nat) : Sys2Proof.Laws.Unspelt.Statement (.retrainInterval port) := Sys2Proof.Laws.unspelt _
theorem Sys2Proof.Laws.Unspelt.portEnable (p : Sys2Proof.MPort) (port : Nat) : Sys2Proof.Laws.Unspelt.Statement (.portEnable p port) := Sys2Proof.Laws.unspelt _
theorem Sys2Proof.Laws.Unspelt.portDisable (p : Sys2Proof.MPort) (port : Nat) : Sys2Proof.Laws.Unspelt.Statement (.portDisable p port) := Sys2Proof.Laws.unspelt _
theorem Sys2Proof.Laws.Unspelt.sweepWrite (p : Sys2Proof.MPort) (val : Sys2Proof.W32) : Sys2Proof.Laws.Unspelt.Statement (.sweepWrite p val) := Sys2Proof.Laws.unspelt _
theorem Sys2Proof.Laws.Unspelt.routerCellArrive (port slot : Nat) : Sys2Proof.Laws.Unspelt.Statement (.routerCellArrive port slot) := Sys2Proof.Laws.unspelt _
theorem Sys2Proof.Laws.Unspelt.cellInject (port slot : Nat) : Sys2Proof.Laws.Unspelt.Statement (.cellInject port slot) := Sys2Proof.Laws.unspelt _
theorem Sys2Proof.Laws.Unspelt.transitReserveDepart (bank slot : Nat) (corrected : Bool) : Sys2Proof.Laws.Unspelt.Statement (.transitReserveDepart bank slot corrected) := Sys2Proof.Laws.unspelt _
theorem Sys2Proof.Laws.Unspelt.stage2FifoFill (bank slot : Nat) (corrected : Bool) : Sys2Proof.Laws.Unspelt.Statement (.stage2FifoFill bank slot corrected) := Sys2Proof.Laws.unspelt _
theorem Sys2Proof.Laws.Unspelt.bankUncorr (bank : Nat) (at_ : Sys2Proof.BankPlace) : Sys2Proof.Laws.Unspelt.Statement (.bankUncorr bank at_) := Sys2Proof.Laws.unspelt _
theorem Sys2Proof.Laws.Unspelt.mirrorCapture : Sys2Proof.Laws.Unspelt.Statement (.mirrorCapture) := Sys2Proof.Laws.unspelt _
theorem Sys2Proof.Laws.Unspelt.collectiveOpen (ecc : Sys2Proof.Ecc) : Sys2Proof.Laws.Unspelt.Statement (.collectiveOpen ecc) := Sys2Proof.Laws.unspelt _
theorem Sys2Proof.Laws.Unspelt.collectiveCellReceive (ecc : Sys2Proof.Ecc) : Sys2Proof.Laws.Unspelt.Statement (.collectiveCellReceive ecc) := Sys2Proof.Laws.unspelt _
theorem Sys2Proof.Laws.Unspelt.barrierMessage (ecc : Sys2Proof.Ecc) : Sys2Proof.Laws.Unspelt.Statement (.barrierMessage ecc) := Sys2Proof.Laws.unspelt _
theorem Sys2Proof.Laws.Unspelt.smallCollectiveMessage (ecc : Sys2Proof.Ecc) : Sys2Proof.Laws.Unspelt.Statement (.smallCollectiveMessage ecc) := Sys2Proof.Laws.unspelt _
theorem Sys2Proof.Laws.Unspelt.collectiveDeadline (id : Nat) : Sys2Proof.Laws.Unspelt.Statement (.collectiveDeadline id) := Sys2Proof.Laws.unspelt _
theorem Sys2Proof.Laws.Unspelt.heldMessageExpire : Sys2Proof.Laws.Unspelt.Statement (.heldMessageExpire) := Sys2Proof.Laws.unspelt _
theorem Sys2Proof.Laws.Unspelt.filterIdentityExpire : Sys2Proof.Laws.Unspelt.Statement (.filterIdentityExpire) := Sys2Proof.Laws.unspelt _
theorem Sys2Proof.Laws.Unspelt.replicaInvalidate : Sys2Proof.Laws.Unspelt.Statement (.replicaInvalidate) := Sys2Proof.Laws.unspelt _
theorem Sys2Proof.Laws.Unspelt.memRequest (ecc : Sys2Proof.Ecc) : Sys2Proof.Laws.Unspelt.Statement (.memRequest ecc) := Sys2Proof.Laws.unspelt _
theorem Sys2Proof.Laws.Unspelt.flaggedStoreApply (src : Nat) (ecc : Sys2Proof.Ecc) : Sys2Proof.Laws.Unspelt.Statement (.flaggedStoreApply src ecc) := Sys2Proof.Laws.unspelt _
theorem Sys2Proof.Laws.Unspelt.memResponse (ecc : Sys2Proof.Ecc) : Sys2Proof.Laws.Unspelt.Statement (.memResponse ecc) := Sys2Proof.Laws.unspelt _
theorem Sys2Proof.Laws.Unspelt.memInvalidate : Sys2Proof.Laws.Unspelt.Statement (.memInvalidate) := Sys2Proof.Laws.unspelt _
theorem Sys2Proof.Laws.Unspelt.memTimeout (core slot : Nat) : Sys2Proof.Laws.Unspelt.Statement (.memTimeout core slot) := Sys2Proof.Laws.unspelt _
theorem Sys2Proof.Laws.Unspelt.invalidateTimeout (line : Nat) : Sys2Proof.Laws.Unspelt.Statement (.invalidateTimeout line) := Sys2Proof.Laws.unspelt _
theorem Sys2Proof.Laws.Unspelt.replicaFetchComplete (home page : Nat) : Sys2Proof.Laws.Unspelt.Statement (.replicaFetchComplete home page) := Sys2Proof.Laws.unspelt _
theorem Sys2Proof.Laws.Unspelt.replicaTtlExpire (home page : Nat) : Sys2Proof.Laws.Unspelt.Statement (.replicaTtlExpire home page) := Sys2Proof.Laws.unspelt _
theorem Sys2Proof.Laws.Unspelt.timebaseEnable (p : Sys2Proof.MPort) : Sys2Proof.Laws.Unspelt.Statement (.timebaseEnable p) := Sys2Proof.Laws.unspelt _
theorem Sys2Proof.Laws.Unspelt.beatInEdge (good : Bool) (errPs : Int) : Sys2Proof.Laws.Unspelt.Statement (.beatInEdge good errPs) := Sys2Proof.Laws.unspelt _
theorem Sys2Proof.Laws.Unspelt.beatInLost : Sys2Proof.Laws.Unspelt.Statement (.beatInLost) := Sys2Proof.Laws.unspelt _
theorem Sys2Proof.Laws.Unspelt.beatRecord (port : Nat) (atPs : Int) : Sys2Proof.Laws.Unspelt.Statement (.beatRecord port atPs) := Sys2Proof.Laws.unspelt _
theorem Sys2Proof.Laws.Unspelt.parentLost : Sys2Proof.Laws.Unspelt.Statement (.parentLost) := Sys2Proof.Laws.unspelt _
theorem Sys2Proof.Laws.Unspelt.strokeBoundary : Sys2Proof.Laws.Unspelt.Statement (.strokeBoundary) := Sys2Proof.Laws.unspelt _
theorem Sys2Proof.Laws.Unspelt.bezelSwitch (p : Sys2Proof.MPort) : Sys2Proof.Laws.Unspelt.Statement (.bezelSwitch p) := Sys2Proof.Laws.unspelt _
theorem Sys2Proof.Laws.Unspelt.claspMessage : Sys2Proof.Laws.Unspelt.Statement (.claspMessage) := Sys2Proof.Laws.unspelt _
theorem Sys2Proof.Laws.Unspelt.claspTimeout (n : Nat) : Sys2Proof.Laws.Unspelt.Statement (.claspTimeout n) := Sys2Proof.Laws.unspelt _
theorem Sys2Proof.Laws.Unspelt.timeWrite (p : Sys2Proof.MPort) (val : Sys2Proof.W64) : Sys2Proof.Laws.Unspelt.Statement (.timeWrite p val) := Sys2Proof.Laws.unspelt _
theorem Sys2Proof.Laws.Unspelt.timeAdj (p : Sys2Proof.MPort) (val : Sys2Proof.W32) : Sys2Proof.Laws.Unspelt.Statement (.timeAdj p val) := Sys2Proof.Laws.unspelt _
theorem Sys2Proof.Laws.Unspelt.hallmarkEntryWrite : Sys2Proof.Laws.Unspelt.Statement (.hallmarkEntryWrite) := Sys2Proof.Laws.unspelt _
theorem Sys2Proof.Laws.Unspelt.hmDisable (p : Sys2Proof.MPort) : Sys2Proof.Laws.Unspelt.Statement (.hmDisable p) := Sys2Proof.Laws.unspelt _
theorem Sys2Proof.Laws.Unspelt.managementNop : Sys2Proof.Laws.Unspelt.Statement (.managementNop) := Sys2Proof.Laws.unspelt _
theorem Sys2Proof.Laws.Unspelt.mountLoad (vault0 vault1 : Sys2Proof.VaultLink) (applyFail : Option Nat) : Sys2Proof.Laws.Unspelt.Statement (.mountLoad vault0 vault1 applyFail) := Sys2Proof.Laws.unspelt _
theorem Sys2Proof.Laws.Unspelt.mountClear : Sys2Proof.Laws.Unspelt.Statement (.mountClear) := Sys2Proof.Laws.unspelt _
theorem Sys2Proof.Laws.Unspelt.spareSwap : Sys2Proof.Laws.Unspelt.Statement (.spareSwap) := Sys2Proof.Laws.unspelt _
theorem Sys2Proof.Laws.Unspelt.slotMove (cluster slot : Nat) : Sys2Proof.Laws.Unspelt.Statement (.slotMove cluster slot) := Sys2Proof.Laws.unspelt _
theorem Sys2Proof.Laws.Unspelt.swapWaitExpire (cluster slot : Nat) : Sys2Proof.Laws.Unspelt.Statement (.swapWaitExpire cluster slot) := Sys2Proof.Laws.unspelt _
theorem Sys2Proof.Laws.Unspelt.linkRetrain : Sys2Proof.Laws.Unspelt.Statement (.linkRetrain) := Sys2Proof.Laws.unspelt _
theorem Sys2Proof.Laws.Unspelt.noLight : Sys2Proof.Laws.Unspelt.Statement (.noLight) := Sys2Proof.Laws.unspelt _
theorem Sys2Proof.Laws.Unspelt.i3cPrivateWrite (data : List Sys2Proof.Byte) : Sys2Proof.Laws.Unspelt.Statement (.i3cPrivateWrite data) := Sys2Proof.Laws.unspelt _
theorem Sys2Proof.Laws.Unspelt.i3cPrivateRead : Sys2Proof.Laws.Unspelt.Statement (.i3cPrivateRead) := Sys2Proof.Laws.unspelt _
theorem Sys2Proof.Laws.Unspelt.enec (events : Sys2Proof.Byte) : Sys2Proof.Laws.Unspelt.Statement (.enec events) := Sys2Proof.Laws.unspelt _
theorem Sys2Proof.Laws.Unspelt.disec (events : Sys2Proof.Byte) : Sys2Proof.Laws.Unspelt.Statement (.disec events) := Sys2Proof.Laws.unspelt _
theorem Sys2Proof.Laws.Unspelt.rstdaa : Sys2Proof.Laws.Unspelt.Statement (.rstdaa) := Sys2Proof.Laws.unspelt _
theorem Sys2Proof.Laws.Unspelt.entdaa (addr : Nat) : Sys2Proof.Laws.Unspelt.Statement (.entdaa addr) := Sys2Proof.Laws.unspelt _
theorem Sys2Proof.Laws.Unspelt.setdasa (addr : Nat) : Sys2Proof.Laws.Unspelt.Statement (.setdasa addr) := Sys2Proof.Laws.unspelt _
theorem Sys2Proof.Laws.Unspelt.getpid : Sys2Proof.Laws.Unspelt.Statement (.getpid) := Sys2Proof.Laws.unspelt _
theorem Sys2Proof.Laws.Unspelt.getbcr : Sys2Proof.Laws.Unspelt.Statement (.getbcr) := Sys2Proof.Laws.unspelt _
theorem Sys2Proof.Laws.Unspelt.getdcr : Sys2Proof.Laws.Unspelt.Statement (.getdcr) := Sys2Proof.Laws.unspelt _
theorem Sys2Proof.Laws.Unspelt.getstatus : Sys2Proof.Laws.Unspelt.Statement (.getstatus) := Sys2Proof.Laws.unspelt _
theorem Sys2Proof.Laws.Unspelt.contextCreate (p : Sys2Proof.MPort) (ctx role : Nat) (rt : Bool) (saveBase : Nat) : Sys2Proof.Laws.Unspelt.Statement (.contextCreate p ctx role rt saveBase) := Sys2Proof.Laws.unspelt _
theorem Sys2Proof.Laws.Unspelt.contextDestroy (p : Sys2Proof.MPort) (ctx : Nat) : Sys2Proof.Laws.Unspelt.Statement (.contextDestroy p ctx) := Sys2Proof.Laws.unspelt _
theorem Sys2Proof.Laws.Unspelt.teardownComplete (ctx : Nat) : Sys2Proof.Laws.Unspelt.Statement (.teardownComplete ctx) := Sys2Proof.Laws.unspelt _
theorem Sys2Proof.Laws.Unspelt.contextSwitch (core ctx : Nat) : Sys2Proof.Laws.Unspelt.Statement (.contextSwitch core ctx) := Sys2Proof.Laws.unspelt _
theorem Sys2Proof.Laws.Unspelt.suspendedResume (core : Nat) : Sys2Proof.Laws.Unspelt.Statement (.suspendedResume core) := Sys2Proof.Laws.unspelt _
theorem Sys2Proof.Laws.Unspelt.permitGrant : Sys2Proof.Laws.Unspelt.Statement (.permitGrant) := Sys2Proof.Laws.unspelt _
theorem Sys2Proof.Laws.Unspelt.permitReturn (req : Nat) : Sys2Proof.Laws.Unspelt.Statement (.permitReturn req) := Sys2Proof.Laws.unspelt _
theorem Sys2Proof.Laws.Unspelt.rampWindow : Sys2Proof.Laws.Unspelt.Statement (.rampWindow) := Sys2Proof.Laws.unspelt _
theorem Sys2Proof.Laws.Unspelt.loupeTrigger (p : Sys2Proof.MPort) (id : Nat) : Sys2Proof.Laws.Unspelt.Statement (.loupeTrigger p id) := Sys2Proof.Laws.unspelt _
theorem Sys2Proof.Laws.Unspelt.loupeSchedule (p : Sys2Proof.MPort) (id : Nat) (send : Bool) : Sys2Proof.Laws.Unspelt.Statement (.loupeSchedule p id send) := Sys2Proof.Laws.unspelt _
theorem Sys2Proof.Laws.Unspelt.loupeArm (p : Sys2Proof.MPort) : Sys2Proof.Laws.Unspelt.Statement (.loupeArm p) := Sys2Proof.Laws.unspelt _
theorem Sys2Proof.Laws.Unspelt.loupeMessage : Sys2Proof.Laws.Unspelt.Statement (.loupeMessage) := Sys2Proof.Laws.unspelt _
theorem Sys2Proof.Laws.Unspelt.errorLogWrite : Sys2Proof.Laws.Unspelt.Statement (.errorLogWrite) := Sys2Proof.Laws.unspelt _
theorem Sys2Proof.Laws.Unspelt.registerRead (p : Sys2Proof.MPort) (off bytes : Nat) : Sys2Proof.Laws.Unspelt.Statement (.registerRead p off bytes) := Sys2Proof.Laws.unspelt _
theorem Sys2Proof.Laws.Unspelt.hostPortLinkUp : Sys2Proof.Laws.Unspelt.Statement (.hostPortLinkUp) := Sys2Proof.Laws.unspelt _
theorem Sys2Proof.Laws.Unspelt.vaultLinkUp (port : Nat) (link : Sys2Proof.VaultLink) (wasReset : Bool) : Sys2Proof.Laws.Unspelt.Statement (.vaultLinkUp port link wasReset) := Sys2Proof.Laws.unspelt _
theorem Sys2Proof.Laws.Unspelt.vaultRetrainTimeout (port : Nat) : Sys2Proof.Laws.Unspelt.Statement (.vaultRetrainTimeout port) := Sys2Proof.Laws.unspelt _
theorem Sys2Proof.Laws.Unspelt.trainingPatternSeen (port : Nat) : Sys2Proof.Laws.Unspelt.Statement (.trainingPatternSeen port) := Sys2Proof.Laws.unspelt _
theorem Sys2Proof.Laws.Unspelt.tapInstruction (opcode : Sys2Proof.Byte) : Sys2Proof.Laws.Unspelt.Statement (.tapInstruction opcode) := Sys2Proof.Laws.unspelt _
end

