-- ==== Sys2Proof/Laws/State.lean ====
section
/-! SUPPORT. What the updates of the device leave alone: one lemma per field and update, so that no proof unfolds a record update. -/

namespace Sys2Proof.Machine

@[simp] theorem State.onDev_dev (s : State) (d : Dev) : (s.onDev d).dev = d := rfl
@[simp] theorem State.onDev_pending (s : State) (d : Dev) : (s.onDev d).pending = s.pending := rfl
@[simp] theorem State.onDev_onDev (s : State) (d e : Dev) : (s.onDev d).onDev e = s.onDev e := rfl
@[simp] theorem State.onDev_self (s : State) : s.onDev s.dev = s := rfl

/-- A running device does what it is told. -/
@[simp] theorem Dev.live_running (d : Dev) (f : Dev → Dev) (h : d.glb.phase = .running) : d.live f = f d := by simp [Dev.live, h]

/-- A device that does not run does nothing of it. -/
theorem Dev.live_other (d : Dev) (f : Dev → Dev) (h : d.glb.phase ≠ .running) : d.live f = d := by simp [Dev.live, h]

/-! wr -/

@[simp] theorem Dev.wr_grade (d : Dev) (off v : Nat) : (d.wr off v).grade = d.grade := rfl
@[simp] theorem Dev.wr_hostPort (d : Dev) (off v : Nat) : (d.wr off v).hostPort = d.hostPort := rfl
@[simp] theorem Dev.wr_i3cPort (d : Dev) (off v : Nat) : (d.wr off v).i3cPort = d.i3cPort := rfl
@[simp] theorem Dev.wr_glb (d : Dev) (off v : Nat) : (d.wr off v).glb = d.glb := rfl
@[simp] theorem Dev.wr_i3c (d : Dev) (off v : Nat) : (d.wr off v).i3c = d.i3c := rfl
@[simp] theorem Dev.wr_hbm (d : Dev) (off v : Nat) : (d.wr off v).hbm = d.hbm := rfl
@[simp] theorem Dev.wr_vault (d : Dev) (off v : Nat) : (d.wr off v).vault = d.vault := rfl
@[simp] theorem Dev.wr_loc (d : Dev) (off v : Nat) : (d.wr off v).loc = d.loc := rfl
@[simp] theorem Dev.wr_hostMem (d : Dev) (off v : Nat) : (d.wr off v).hostMem = d.hostMem := rfl
@[simp] theorem Dev.wr_rings (d : Dev) (off v : Nat) : (d.wr off v).rings = d.rings := rfl
@[simp] theorem Dev.wr_jobs (d : Dev) (off v : Nat) : (d.wr off v).jobs = d.jobs := rfl
@[simp] theorem Dev.wr_granted (d : Dev) (off v : Nat) : (d.wr off v).granted = d.granted := rfl
@[simp] theorem Dev.wr_lastGrant (d : Dev) (off v : Nat) : (d.wr off v).lastGrant = d.lastGrant := rfl
@[simp] theorem Dev.wr_ctxs (d : Dev) (off v : Nat) : (d.wr off v).ctxs = d.ctxs := rfl
@[simp] theorem Dev.wr_cores (d : Dev) (off v : Nat) : (d.wr off v).cores = d.cores := rfl
@[simp] theorem Dev.wr_records (d : Dev) (off v : Nat) : (d.wr off v).records = d.records := rfl
@[simp] theorem Dev.wr_routing (d : Dev) (off v : Nat) : (d.wr off v).routing = d.routing := rfl
@[simp] theorem Dev.wr_mig (d : Dev) (off v : Nat) : (d.wr off v).mig = d.mig := rfl
@[simp] theorem Dev.wr_pool (d : Dev) (off v : Nat) : (d.wr off v).pool = d.pool := rfl
@[simp] theorem Dev.wr_ports (d : Dev) (off v : Nat) : (d.wr off v).ports = d.ports := rfl
@[simp] theorem Dev.wr_router (d : Dev) (off v : Nat) : (d.wr off v).router = d.router := rfl
@[simp] theorem Dev.wr_fil (d : Dev) (off v : Nat) : (d.wr off v).fil = d.fil := rfl
@[simp] theorem Dev.wr_colls (d : Dev) (off v : Nat) : (d.wr off v).colls = d.colls := rfl
@[simp] theorem Dev.wr_remote (d : Dev) (off v : Nat) : (d.wr off v).remote = d.remote := rfl
@[simp] theorem Dev.wr_tb (d : Dev) (off v : Nat) : (d.wr off v).tb = d.tb := rfl
@[simp] theorem Dev.wr_mgmt (d : Dev) (off v : Nat) : (d.wr off v).mgmt = d.mgmt := rfl
@[simp] theorem Dev.wr_pwr (d : Dev) (off v : Nat) : (d.wr off v).pwr = d.pwr := rfl
@[simp] theorem Dev.wr_obs (d : Dev) (off v : Nat) : (d.wr off v).obs = d.obs := rfl
@[simp] theorem Dev.wr_freeUsed (d : Dev) (off v : Nat) : (d.wr off v).freeUsed = d.freeUsed := rfl
@[simp] theorem Dev.wr_snap (d : Dev) (off v : Nat) : (d.wr off v).snap = d.snap := rfl

/-! bump -/

@[simp] theorem Dev.bump_grade (d : Dev) (off n : Nat) : (d.bump off n).grade = d.grade := rfl
@[simp] theorem Dev.bump_hostPort (d : Dev) (off n : Nat) : (d.bump off n).hostPort = d.hostPort := rfl
@[simp] theorem Dev.bump_i3cPort (d : Dev) (off n : Nat) : (d.bump off n).i3cPort = d.i3cPort := rfl
@[simp] theorem Dev.bump_glb (d : Dev) (off n : Nat) : (d.bump off n).glb = d.glb := rfl
@[simp] theorem Dev.bump_i3c (d : Dev) (off n : Nat) : (d.bump off n).i3c = d.i3c := rfl
@[simp] theorem Dev.bump_hbm (d : Dev) (off n : Nat) : (d.bump off n).hbm = d.hbm := rfl
@[simp] theorem Dev.bump_vault (d : Dev) (off n : Nat) : (d.bump off n).vault = d.vault := rfl
@[simp] theorem Dev.bump_loc (d : Dev) (off n : Nat) : (d.bump off n).loc = d.loc := rfl
@[simp] theorem Dev.bump_hostMem (d : Dev) (off n : Nat) : (d.bump off n).hostMem = d.hostMem := rfl
@[simp] theorem Dev.bump_rings (d : Dev) (off n : Nat) : (d.bump off n).rings = d.rings := rfl
@[simp] theorem Dev.bump_jobs (d : Dev) (off n : Nat) : (d.bump off n).jobs = d.jobs := rfl
@[simp] theorem Dev.bump_granted (d : Dev) (off n : Nat) : (d.bump off n).granted = d.granted := rfl
@[simp] theorem Dev.bump_lastGrant (d : Dev) (off n : Nat) : (d.bump off n).lastGrant = d.lastGrant := rfl
@[simp] theorem Dev.bump_ctxs (d : Dev) (off n : Nat) : (d.bump off n).ctxs = d.ctxs := rfl
@[simp] theorem Dev.bump_cores (d : Dev) (off n : Nat) : (d.bump off n).cores = d.cores := rfl
@[simp] theorem Dev.bump_records (d : Dev) (off n : Nat) : (d.bump off n).records = d.records := rfl
@[simp] theorem Dev.bump_routing (d : Dev) (off n : Nat) : (d.bump off n).routing = d.routing := rfl
@[simp] theorem Dev.bump_mig (d : Dev) (off n : Nat) : (d.bump off n).mig = d.mig := rfl
@[simp] theorem Dev.bump_pool (d : Dev) (off n : Nat) : (d.bump off n).pool = d.pool := rfl
@[simp] theorem Dev.bump_ports (d : Dev) (off n : Nat) : (d.bump off n).ports = d.ports := rfl
@[simp] theorem Dev.bump_router (d : Dev) (off n : Nat) : (d.bump off n).router = d.router := rfl
@[simp] theorem Dev.bump_fil (d : Dev) (off n : Nat) : (d.bump off n).fil = d.fil := rfl
@[simp] theorem Dev.bump_colls (d : Dev) (off n : Nat) : (d.bump off n).colls = d.colls := rfl
@[simp] theorem Dev.bump_remote (d : Dev) (off n : Nat) : (d.bump off n).remote = d.remote := rfl
@[simp] theorem Dev.bump_tb (d : Dev) (off n : Nat) : (d.bump off n).tb = d.tb := rfl
@[simp] theorem Dev.bump_mgmt (d : Dev) (off n : Nat) : (d.bump off n).mgmt = d.mgmt := rfl
@[simp] theorem Dev.bump_pwr (d : Dev) (off n : Nat) : (d.bump off n).pwr = d.pwr := rfl
@[simp] theorem Dev.bump_obs (d : Dev) (off n : Nat) : (d.bump off n).obs = d.obs := rfl
@[simp] theorem Dev.bump_freeUsed (d : Dev) (off n : Nat) : (d.bump off n).freeUsed = d.freeUsed := rfl
@[simp] theorem Dev.bump_snap (d : Dev) (off n : Nat) : (d.bump off n).snap = d.snap := rfl

/-! wrFld -/

@[simp] theorem Dev.wrFld_grade (d : Dev) (off hi lo v : Nat) : (d.wrFld off hi lo v).grade = d.grade := rfl
@[simp] theorem Dev.wrFld_hostPort (d : Dev) (off hi lo v : Nat) : (d.wrFld off hi lo v).hostPort = d.hostPort := rfl
@[simp] theorem Dev.wrFld_i3cPort (d : Dev) (off hi lo v : Nat) : (d.wrFld off hi lo v).i3cPort = d.i3cPort := rfl
@[simp] theorem Dev.wrFld_glb (d : Dev) (off hi lo v : Nat) : (d.wrFld off hi lo v).glb = d.glb := rfl
@[simp] theorem Dev.wrFld_i3c (d : Dev) (off hi lo v : Nat) : (d.wrFld off hi lo v).i3c = d.i3c := rfl
@[simp] theorem Dev.wrFld_hbm (d : Dev) (off hi lo v : Nat) : (d.wrFld off hi lo v).hbm = d.hbm := rfl
@[simp] theorem Dev.wrFld_vault (d : Dev) (off hi lo v : Nat) : (d.wrFld off hi lo v).vault = d.vault := rfl
@[simp] theorem Dev.wrFld_loc (d : Dev) (off hi lo v : Nat) : (d.wrFld off hi lo v).loc = d.loc := rfl
@[simp] theorem Dev.wrFld_hostMem (d : Dev) (off hi lo v : Nat) : (d.wrFld off hi lo v).hostMem = d.hostMem := rfl
@[simp] theorem Dev.wrFld_rings (d : Dev) (off hi lo v : Nat) : (d.wrFld off hi lo v).rings = d.rings := rfl
@[simp] theorem Dev.wrFld_jobs (d : Dev) (off hi lo v : Nat) : (d.wrFld off hi lo v).jobs = d.jobs := rfl
@[simp] theorem Dev.wrFld_granted (d : Dev) (off hi lo v : Nat) : (d.wrFld off hi lo v).granted = d.granted := rfl
@[simp] theorem Dev.wrFld_lastGrant (d : Dev) (off hi lo v : Nat) : (d.wrFld off hi lo v).lastGrant = d.lastGrant := rfl
@[simp] theorem Dev.wrFld_ctxs (d : Dev) (off hi lo v : Nat) : (d.wrFld off hi lo v).ctxs = d.ctxs := rfl
@[simp] theorem Dev.wrFld_cores (d : Dev) (off hi lo v : Nat) : (d.wrFld off hi lo v).cores = d.cores := rfl
@[simp] theorem Dev.wrFld_records (d : Dev) (off hi lo v : Nat) : (d.wrFld off hi lo v).records = d.records := rfl
@[simp] theorem Dev.wrFld_routing (d : Dev) (off hi lo v : Nat) : (d.wrFld off hi lo v).routing = d.routing := rfl
@[simp] theorem Dev.wrFld_mig (d : Dev) (off hi lo v : Nat) : (d.wrFld off hi lo v).mig = d.mig := rfl
@[simp] theorem Dev.wrFld_pool (d : Dev) (off hi lo v : Nat) : (d.wrFld off hi lo v).pool = d.pool := rfl
@[simp] theorem Dev.wrFld_ports (d : Dev) (off hi lo v : Nat) : (d.wrFld off hi lo v).ports = d.ports := rfl
@[simp] theorem Dev.wrFld_router (d : Dev) (off hi lo v : Nat) : (d.wrFld off hi lo v).router = d.router := rfl
@[simp] theorem Dev.wrFld_fil (d : Dev) (off hi lo v : Nat) : (d.wrFld off hi lo v).fil = d.fil := rfl
@[simp] theorem Dev.wrFld_colls (d : Dev) (off hi lo v : Nat) : (d.wrFld off hi lo v).colls = d.colls := rfl
@[simp] theorem Dev.wrFld_remote (d : Dev) (off hi lo v : Nat) : (d.wrFld off hi lo v).remote = d.remote := rfl
@[simp] theorem Dev.wrFld_tb (d : Dev) (off hi lo v : Nat) : (d.wrFld off hi lo v).tb = d.tb := rfl
@[simp] theorem Dev.wrFld_mgmt (d : Dev) (off hi lo v : Nat) : (d.wrFld off hi lo v).mgmt = d.mgmt := rfl
@[simp] theorem Dev.wrFld_pwr (d : Dev) (off hi lo v : Nat) : (d.wrFld off hi lo v).pwr = d.pwr := rfl
@[simp] theorem Dev.wrFld_obs (d : Dev) (off hi lo v : Nat) : (d.wrFld off hi lo v).obs = d.obs := rfl
@[simp] theorem Dev.wrFld_freeUsed (d : Dev) (off hi lo v : Nat) : (d.wrFld off hi lo v).freeUsed = d.freeUsed := rfl
@[simp] theorem Dev.wrFld_snap (d : Dev) (off hi lo v : Nat) : (d.wrFld off hi lo v).snap = d.snap := rfl

/-! modRing -/

@[simp] theorem Dev.modRing_grade (d : Dev) (i : Nat) (f : Ring → Ring) : (d.modRing i f).grade = d.grade := rfl
@[simp] theorem Dev.modRing_regs (d : Dev) (i : Nat) (f : Ring → Ring) : (d.modRing i f).regs = d.regs := rfl
@[simp] theorem Dev.modRing_hostPort (d : Dev) (i : Nat) (f : Ring → Ring) : (d.modRing i f).hostPort = d.hostPort := rfl
@[simp] theorem Dev.modRing_i3cPort (d : Dev) (i : Nat) (f : Ring → Ring) : (d.modRing i f).i3cPort = d.i3cPort := rfl
@[simp] theorem Dev.modRing_glb (d : Dev) (i : Nat) (f : Ring → Ring) : (d.modRing i f).glb = d.glb := rfl
@[simp] theorem Dev.modRing_i3c (d : Dev) (i : Nat) (f : Ring → Ring) : (d.modRing i f).i3c = d.i3c := rfl
@[simp] theorem Dev.modRing_hbm (d : Dev) (i : Nat) (f : Ring → Ring) : (d.modRing i f).hbm = d.hbm := rfl
@[simp] theorem Dev.modRing_vault (d : Dev) (i : Nat) (f : Ring → Ring) : (d.modRing i f).vault = d.vault := rfl
@[simp] theorem Dev.modRing_loc (d : Dev) (i : Nat) (f : Ring → Ring) : (d.modRing i f).loc = d.loc := rfl
@[simp] theorem Dev.modRing_hostMem (d : Dev) (i : Nat) (f : Ring → Ring) : (d.modRing i f).hostMem = d.hostMem := rfl
@[simp] theorem Dev.modRing_jobs (d : Dev) (i : Nat) (f : Ring → Ring) : (d.modRing i f).jobs = d.jobs := rfl
@[simp] theorem Dev.modRing_granted (d : Dev) (i : Nat) (f : Ring → Ring) : (d.modRing i f).granted = d.granted := rfl
@[simp] theorem Dev.modRing_lastGrant (d : Dev) (i : Nat) (f : Ring → Ring) : (d.modRing i f).lastGrant = d.lastGrant := rfl
@[simp] theorem Dev.modRing_ctxs (d : Dev) (i : Nat) (f : Ring → Ring) : (d.modRing i f).ctxs = d.ctxs := rfl
@[simp] theorem Dev.modRing_cores (d : Dev) (i : Nat) (f : Ring → Ring) : (d.modRing i f).cores = d.cores := rfl
@[simp] theorem Dev.modRing_records (d : Dev) (i : Nat) (f : Ring → Ring) : (d.modRing i f).records = d.records := rfl
@[simp] theorem Dev.modRing_routing (d : Dev) (i : Nat) (f : Ring → Ring) : (d.modRing i f).routing = d.routing := rfl
@[simp] theorem Dev.modRing_mig (d : Dev) (i : Nat) (f : Ring → Ring) : (d.modRing i f).mig = d.mig := rfl
@[simp] theorem Dev.modRing_pool (d : Dev) (i : Nat) (f : Ring → Ring) : (d.modRing i f).pool = d.pool := rfl
@[simp] theorem Dev.modRing_ports (d : Dev) (i : Nat) (f : Ring → Ring) : (d.modRing i f).ports = d.ports := rfl
@[simp] theorem Dev.modRing_router (d : Dev) (i : Nat) (f : Ring → Ring) : (d.modRing i f).router = d.router := rfl
@[simp] theorem Dev.modRing_fil (d : Dev) (i : Nat) (f : Ring → Ring) : (d.modRing i f).fil = d.fil := rfl
@[simp] theorem Dev.modRing_colls (d : Dev) (i : Nat) (f : Ring → Ring) : (d.modRing i f).colls = d.colls := rfl
@[simp] theorem Dev.modRing_remote (d : Dev) (i : Nat) (f : Ring → Ring) : (d.modRing i f).remote = d.remote := rfl
@[simp] theorem Dev.modRing_tb (d : Dev) (i : Nat) (f : Ring → Ring) : (d.modRing i f).tb = d.tb := rfl
@[simp] theorem Dev.modRing_mgmt (d : Dev) (i : Nat) (f : Ring → Ring) : (d.modRing i f).mgmt = d.mgmt := rfl
@[simp] theorem Dev.modRing_pwr (d : Dev) (i : Nat) (f : Ring → Ring) : (d.modRing i f).pwr = d.pwr := rfl
@[simp] theorem Dev.modRing_obs (d : Dev) (i : Nat) (f : Ring → Ring) : (d.modRing i f).obs = d.obs := rfl
@[simp] theorem Dev.modRing_freeUsed (d : Dev) (i : Nat) (f : Ring → Ring) : (d.modRing i f).freeUsed = d.freeUsed := rfl
@[simp] theorem Dev.modRing_snap (d : Dev) (i : Nat) (f : Ring → Ring) : (d.modRing i f).snap = d.snap := rfl

/-! modCtx -/

@[simp] theorem Dev.modCtx_grade (d : Dev) (c : Nat) (f : Ctx → Ctx) : (d.modCtx c f).grade = d.grade := rfl
@[simp] theorem Dev.modCtx_regs (d : Dev) (c : Nat) (f : Ctx → Ctx) : (d.modCtx c f).regs = d.regs := rfl
@[simp] theorem Dev.modCtx_hostPort (d : Dev) (c : Nat) (f : Ctx → Ctx) : (d.modCtx c f).hostPort = d.hostPort := rfl
@[simp] theorem Dev.modCtx_i3cPort (d : Dev) (c : Nat) (f : Ctx → Ctx) : (d.modCtx c f).i3cPort = d.i3cPort := rfl
@[simp] theorem Dev.modCtx_glb (d : Dev) (c : Nat) (f : Ctx → Ctx) : (d.modCtx c f).glb = d.glb := rfl
@[simp] theorem Dev.modCtx_i3c (d : Dev) (c : Nat) (f : Ctx → Ctx) : (d.modCtx c f).i3c = d.i3c := rfl
@[simp] theorem Dev.modCtx_hbm (d : Dev) (c : Nat) (f : Ctx → Ctx) : (d.modCtx c f).hbm = d.hbm := rfl
@[simp] theorem Dev.modCtx_vault (d : Dev) (c : Nat) (f : Ctx → Ctx) : (d.modCtx c f).vault = d.vault := rfl
@[simp] theorem Dev.modCtx_loc (d : Dev) (c : Nat) (f : Ctx → Ctx) : (d.modCtx c f).loc = d.loc := rfl
@[simp] theorem Dev.modCtx_hostMem (d : Dev) (c : Nat) (f : Ctx → Ctx) : (d.modCtx c f).hostMem = d.hostMem := rfl
@[simp] theorem Dev.modCtx_rings (d : Dev) (c : Nat) (f : Ctx → Ctx) : (d.modCtx c f).rings = d.rings := rfl
@[simp] theorem Dev.modCtx_jobs (d : Dev) (c : Nat) (f : Ctx → Ctx) : (d.modCtx c f).jobs = d.jobs := rfl
@[simp] theorem Dev.modCtx_granted (d : Dev) (c : Nat) (f : Ctx → Ctx) : (d.modCtx c f).granted = d.granted := rfl
@[simp] theorem Dev.modCtx_lastGrant (d : Dev) (c : Nat) (f : Ctx → Ctx) : (d.modCtx c f).lastGrant = d.lastGrant := rfl
@[simp] theorem Dev.modCtx_cores (d : Dev) (c : Nat) (f : Ctx → Ctx) : (d.modCtx c f).cores = d.cores := rfl
@[simp] theorem Dev.modCtx_records (d : Dev) (c : Nat) (f : Ctx → Ctx) : (d.modCtx c f).records = d.records := rfl
@[simp] theorem Dev.modCtx_routing (d : Dev) (c : Nat) (f : Ctx → Ctx) : (d.modCtx c f).routing = d.routing := rfl
@[simp] theorem Dev.modCtx_mig (d : Dev) (c : Nat) (f : Ctx → Ctx) : (d.modCtx c f).mig = d.mig := rfl
@[simp] theorem Dev.modCtx_pool (d : Dev) (c : Nat) (f : Ctx → Ctx) : (d.modCtx c f).pool = d.pool := rfl
@[simp] theorem Dev.modCtx_ports (d : Dev) (c : Nat) (f : Ctx → Ctx) : (d.modCtx c f).ports = d.ports := rfl
@[simp] theorem Dev.modCtx_router (d : Dev) (c : Nat) (f : Ctx → Ctx) : (d.modCtx c f).router = d.router := rfl
@[simp] theorem Dev.modCtx_fil (d : Dev) (c : Nat) (f : Ctx → Ctx) : (d.modCtx c f).fil = d.fil := rfl
@[simp] theorem Dev.modCtx_colls (d : Dev) (c : Nat) (f : Ctx → Ctx) : (d.modCtx c f).colls = d.colls := rfl
@[simp] theorem Dev.modCtx_remote (d : Dev) (c : Nat) (f : Ctx → Ctx) : (d.modCtx c f).remote = d.remote := rfl
@[simp] theorem Dev.modCtx_tb (d : Dev) (c : Nat) (f : Ctx → Ctx) : (d.modCtx c f).tb = d.tb := rfl
@[simp] theorem Dev.modCtx_mgmt (d : Dev) (c : Nat) (f : Ctx → Ctx) : (d.modCtx c f).mgmt = d.mgmt := rfl
@[simp] theorem Dev.modCtx_pwr (d : Dev) (c : Nat) (f : Ctx → Ctx) : (d.modCtx c f).pwr = d.pwr := rfl
@[simp] theorem Dev.modCtx_obs (d : Dev) (c : Nat) (f : Ctx → Ctx) : (d.modCtx c f).obs = d.obs := rfl
@[simp] theorem Dev.modCtx_freeUsed (d : Dev) (c : Nat) (f : Ctx → Ctx) : (d.modCtx c f).freeUsed = d.freeUsed := rfl
@[simp] theorem Dev.modCtx_snap (d : Dev) (c : Nat) (f : Ctx → Ctx) : (d.modCtx c f).snap = d.snap := rfl

/-! modCore -/

@[simp] theorem Dev.modCore_grade (d : Dev) (p : Nat) (f : Core → Core) : (d.modCore p f).grade = d.grade := rfl
@[simp] theorem Dev.modCore_regs (d : Dev) (p : Nat) (f : Core → Core) : (d.modCore p f).regs = d.regs := rfl
@[simp] theorem Dev.modCore_hostPort (d : Dev) (p : Nat) (f : Core → Core) : (d.modCore p f).hostPort = d.hostPort := rfl
@[simp] theorem Dev.modCore_i3cPort (d : Dev) (p : Nat) (f : Core → Core) : (d.modCore p f).i3cPort = d.i3cPort := rfl
@[simp] theorem Dev.modCore_glb (d : Dev) (p : Nat) (f : Core → Core) : (d.modCore p f).glb = d.glb := rfl
@[simp] theorem Dev.modCore_i3c (d : Dev) (p : Nat) (f : Core → Core) : (d.modCore p f).i3c = d.i3c := rfl
@[simp] theorem Dev.modCore_hbm (d : Dev) (p : Nat) (f : Core → Core) : (d.modCore p f).hbm = d.hbm := rfl
@[simp] theorem Dev.modCore_vault (d : Dev) (p : Nat) (f : Core → Core) : (d.modCore p f).vault = d.vault := rfl
@[simp] theorem Dev.modCore_loc (d : Dev) (p : Nat) (f : Core → Core) : (d.modCore p f).loc = d.loc := rfl
@[simp] theorem Dev.modCore_hostMem (d : Dev) (p : Nat) (f : Core → Core) : (d.modCore p f).hostMem = d.hostMem := rfl
@[simp] theorem Dev.modCore_rings (d : Dev) (p : Nat) (f : Core → Core) : (d.modCore p f).rings = d.rings := rfl
@[simp] theorem Dev.modCore_jobs (d : Dev) (p : Nat) (f : Core → Core) : (d.modCore p f).jobs = d.jobs := rfl
@[simp] theorem Dev.modCore_granted (d : Dev) (p : Nat) (f : Core → Core) : (d.modCore p f).granted = d.granted := rfl
@[simp] theorem Dev.modCore_lastGrant (d : Dev) (p : Nat) (f : Core → Core) : (d.modCore p f).lastGrant = d.lastGrant := rfl
@[simp] theorem Dev.modCore_ctxs (d : Dev) (p : Nat) (f : Core → Core) : (d.modCore p f).ctxs = d.ctxs := rfl
@[simp] theorem Dev.modCore_records (d : Dev) (p : Nat) (f : Core → Core) : (d.modCore p f).records = d.records := rfl
@[simp] theorem Dev.modCore_routing (d : Dev) (p : Nat) (f : Core → Core) : (d.modCore p f).routing = d.routing := rfl
@[simp] theorem Dev.modCore_mig (d : Dev) (p : Nat) (f : Core → Core) : (d.modCore p f).mig = d.mig := rfl
@[simp] theorem Dev.modCore_pool (d : Dev) (p : Nat) (f : Core → Core) : (d.modCore p f).pool = d.pool := rfl
@[simp] theorem Dev.modCore_ports (d : Dev) (p : Nat) (f : Core → Core) : (d.modCore p f).ports = d.ports := rfl
@[simp] theorem Dev.modCore_router (d : Dev) (p : Nat) (f : Core → Core) : (d.modCore p f).router = d.router := rfl
@[simp] theorem Dev.modCore_fil (d : Dev) (p : Nat) (f : Core → Core) : (d.modCore p f).fil = d.fil := rfl
@[simp] theorem Dev.modCore_colls (d : Dev) (p : Nat) (f : Core → Core) : (d.modCore p f).colls = d.colls := rfl
@[simp] theorem Dev.modCore_remote (d : Dev) (p : Nat) (f : Core → Core) : (d.modCore p f).remote = d.remote := rfl
@[simp] theorem Dev.modCore_tb (d : Dev) (p : Nat) (f : Core → Core) : (d.modCore p f).tb = d.tb := rfl
@[simp] theorem Dev.modCore_mgmt (d : Dev) (p : Nat) (f : Core → Core) : (d.modCore p f).mgmt = d.mgmt := rfl
@[simp] theorem Dev.modCore_pwr (d : Dev) (p : Nat) (f : Core → Core) : (d.modCore p f).pwr = d.pwr := rfl
@[simp] theorem Dev.modCore_obs (d : Dev) (p : Nat) (f : Core → Core) : (d.modCore p f).obs = d.obs := rfl
@[simp] theorem Dev.modCore_freeUsed (d : Dev) (p : Nat) (f : Core → Core) : (d.modCore p f).freeUsed = d.freeUsed := rfl
@[simp] theorem Dev.modCore_snap (d : Dev) (p : Nat) (f : Core → Core) : (d.modCore p f).snap = d.snap := rfl

/-! modPort -/

@[simp] theorem Dev.modPort_grade (d : Dev) (n : Nat) (f : OptPort → OptPort) : (d.modPort n f).grade = d.grade := rfl
@[simp] theorem Dev.modPort_regs (d : Dev) (n : Nat) (f : OptPort → OptPort) : (d.modPort n f).regs = d.regs := rfl
@[simp] theorem Dev.modPort_hostPort (d : Dev) (n : Nat) (f : OptPort → OptPort) : (d.modPort n f).hostPort = d.hostPort := rfl
@[simp] theorem Dev.modPort_i3cPort (d : Dev) (n : Nat) (f : OptPort → OptPort) : (d.modPort n f).i3cPort = d.i3cPort := rfl
@[simp] theorem Dev.modPort_glb (d : Dev) (n : Nat) (f : OptPort → OptPort) : (d.modPort n f).glb = d.glb := rfl
@[simp] theorem Dev.modPort_i3c (d : Dev) (n : Nat) (f : OptPort → OptPort) : (d.modPort n f).i3c = d.i3c := rfl
@[simp] theorem Dev.modPort_hbm (d : Dev) (n : Nat) (f : OptPort → OptPort) : (d.modPort n f).hbm = d.hbm := rfl
@[simp] theorem Dev.modPort_vault (d : Dev) (n : Nat) (f : OptPort → OptPort) : (d.modPort n f).vault = d.vault := rfl
@[simp] theorem Dev.modPort_loc (d : Dev) (n : Nat) (f : OptPort → OptPort) : (d.modPort n f).loc = d.loc := rfl
@[simp] theorem Dev.modPort_hostMem (d : Dev) (n : Nat) (f : OptPort → OptPort) : (d.modPort n f).hostMem = d.hostMem := rfl
@[simp] theorem Dev.modPort_rings (d : Dev) (n : Nat) (f : OptPort → OptPort) : (d.modPort n f).rings = d.rings := rfl
@[simp] theorem Dev.modPort_jobs (d : Dev) (n : Nat) (f : OptPort → OptPort) : (d.modPort n f).jobs = d.jobs := rfl
@[simp] theorem Dev.modPort_granted (d : Dev) (n : Nat) (f : OptPort → OptPort) : (d.modPort n f).granted = d.granted := rfl
@[simp] theorem Dev.modPort_lastGrant (d : Dev) (n : Nat) (f : OptPort → OptPort) : (d.modPort n f).lastGrant = d.lastGrant := rfl
@[simp] theorem Dev.modPort_ctxs (d : Dev) (n : Nat) (f : OptPort → OptPort) : (d.modPort n f).ctxs = d.ctxs := rfl
@[simp] theorem Dev.modPort_cores (d : Dev) (n : Nat) (f : OptPort → OptPort) : (d.modPort n f).cores = d.cores := rfl
@[simp] theorem Dev.modPort_records (d : Dev) (n : Nat) (f : OptPort → OptPort) : (d.modPort n f).records = d.records := rfl
@[simp] theorem Dev.modPort_routing (d : Dev) (n : Nat) (f : OptPort → OptPort) : (d.modPort n f).routing = d.routing := rfl
@[simp] theorem Dev.modPort_mig (d : Dev) (n : Nat) (f : OptPort → OptPort) : (d.modPort n f).mig = d.mig := rfl
@[simp] theorem Dev.modPort_pool (d : Dev) (n : Nat) (f : OptPort → OptPort) : (d.modPort n f).pool = d.pool := rfl
@[simp] theorem Dev.modPort_router (d : Dev) (n : Nat) (f : OptPort → OptPort) : (d.modPort n f).router = d.router := rfl
@[simp] theorem Dev.modPort_fil (d : Dev) (n : Nat) (f : OptPort → OptPort) : (d.modPort n f).fil = d.fil := rfl
@[simp] theorem Dev.modPort_colls (d : Dev) (n : Nat) (f : OptPort → OptPort) : (d.modPort n f).colls = d.colls := rfl
@[simp] theorem Dev.modPort_remote (d : Dev) (n : Nat) (f : OptPort → OptPort) : (d.modPort n f).remote = d.remote := rfl
@[simp] theorem Dev.modPort_tb (d : Dev) (n : Nat) (f : OptPort → OptPort) : (d.modPort n f).tb = d.tb := rfl
@[simp] theorem Dev.modPort_mgmt (d : Dev) (n : Nat) (f : OptPort → OptPort) : (d.modPort n f).mgmt = d.mgmt := rfl
@[simp] theorem Dev.modPort_pwr (d : Dev) (n : Nat) (f : OptPort → OptPort) : (d.modPort n f).pwr = d.pwr := rfl
@[simp] theorem Dev.modPort_obs (d : Dev) (n : Nat) (f : OptPort → OptPort) : (d.modPort n f).obs = d.obs := rfl
@[simp] theorem Dev.modPort_freeUsed (d : Dev) (n : Nat) (f : OptPort → OptPort) : (d.modPort n f).freeUsed = d.freeUsed := rfl
@[simp] theorem Dev.modPort_snap (d : Dev) (n : Nat) (f : OptPort → OptPort) : (d.modPort n f).snap = d.snap := rfl

/-! modI3c -/

@[simp] theorem Dev.modI3c_grade (d : Dev) (f : I3c → I3c) : (d.modI3c f).grade = d.grade := rfl
@[simp] theorem Dev.modI3c_regs (d : Dev) (f : I3c → I3c) : (d.modI3c f).regs = d.regs := rfl
@[simp] theorem Dev.modI3c_hostPort (d : Dev) (f : I3c → I3c) : (d.modI3c f).hostPort = d.hostPort := rfl
@[simp] theorem Dev.modI3c_i3cPort (d : Dev) (f : I3c → I3c) : (d.modI3c f).i3cPort = d.i3cPort := rfl
@[simp] theorem Dev.modI3c_glb (d : Dev) (f : I3c → I3c) : (d.modI3c f).glb = d.glb := rfl
@[simp] theorem Dev.modI3c_hbm (d : Dev) (f : I3c → I3c) : (d.modI3c f).hbm = d.hbm := rfl
@[simp] theorem Dev.modI3c_vault (d : Dev) (f : I3c → I3c) : (d.modI3c f).vault = d.vault := rfl
@[simp] theorem Dev.modI3c_loc (d : Dev) (f : I3c → I3c) : (d.modI3c f).loc = d.loc := rfl
@[simp] theorem Dev.modI3c_hostMem (d : Dev) (f : I3c → I3c) : (d.modI3c f).hostMem = d.hostMem := rfl
@[simp] theorem Dev.modI3c_rings (d : Dev) (f : I3c → I3c) : (d.modI3c f).rings = d.rings := rfl
@[simp] theorem Dev.modI3c_jobs (d : Dev) (f : I3c → I3c) : (d.modI3c f).jobs = d.jobs := rfl
@[simp] theorem Dev.modI3c_granted (d : Dev) (f : I3c → I3c) : (d.modI3c f).granted = d.granted := rfl
@[simp] theorem Dev.modI3c_lastGrant (d : Dev) (f : I3c → I3c) : (d.modI3c f).lastGrant = d.lastGrant := rfl
@[simp] theorem Dev.modI3c_ctxs (d : Dev) (f : I3c → I3c) : (d.modI3c f).ctxs = d.ctxs := rfl
@[simp] theorem Dev.modI3c_cores (d : Dev) (f : I3c → I3c) : (d.modI3c f).cores = d.cores := rfl
@[simp] theorem Dev.modI3c_records (d : Dev) (f : I3c → I3c) : (d.modI3c f).records = d.records := rfl
@[simp] theorem Dev.modI3c_routing (d : Dev) (f : I3c → I3c) : (d.modI3c f).routing = d.routing := rfl
@[simp] theorem Dev.modI3c_mig (d : Dev) (f : I3c → I3c) : (d.modI3c f).mig = d.mig := rfl
@[simp] theorem Dev.modI3c_pool (d : Dev) (f : I3c → I3c) : (d.modI3c f).pool = d.pool := rfl
@[simp] theorem Dev.modI3c_ports (d : Dev) (f : I3c → I3c) : (d.modI3c f).ports = d.ports := rfl
@[simp] theorem Dev.modI3c_router (d : Dev) (f : I3c → I3c) : (d.modI3c f).router = d.router := rfl
@[simp] theorem Dev.modI3c_fil (d : Dev) (f : I3c → I3c) : (d.modI3c f).fil = d.fil := rfl
@[simp] theorem Dev.modI3c_colls (d : Dev) (f : I3c → I3c) : (d.modI3c f).colls = d.colls := rfl
@[simp] theorem Dev.modI3c_remote (d : Dev) (f : I3c → I3c) : (d.modI3c f).remote = d.remote := rfl
@[simp] theorem Dev.modI3c_tb (d : Dev) (f : I3c → I3c) : (d.modI3c f).tb = d.tb := rfl
@[simp] theorem Dev.modI3c_mgmt (d : Dev) (f : I3c → I3c) : (d.modI3c f).mgmt = d.mgmt := rfl
@[simp] theorem Dev.modI3c_pwr (d : Dev) (f : I3c → I3c) : (d.modI3c f).pwr = d.pwr := rfl
@[simp] theorem Dev.modI3c_obs (d : Dev) (f : I3c → I3c) : (d.modI3c f).obs = d.obs := rfl
@[simp] theorem Dev.modI3c_freeUsed (d : Dev) (f : I3c → I3c) : (d.modI3c f).freeUsed = d.freeUsed := rfl
@[simp] theorem Dev.modI3c_snap (d : Dev) (f : I3c → I3c) : (d.modI3c f).snap = d.snap := rfl

/-! locWrite -/

@[simp] theorem Dev.locWrite_grade (d : Dev) (p a : Nat) (bs : List Byte) : (d.locWrite p a bs).grade = d.grade := rfl
@[simp] theorem Dev.locWrite_regs (d : Dev) (p a : Nat) (bs : List Byte) : (d.locWrite p a bs).regs = d.regs := rfl
@[simp] theorem Dev.locWrite_hostPort (d : Dev) (p a : Nat) (bs : List Byte) : (d.locWrite p a bs).hostPort = d.hostPort := rfl
@[simp] theorem Dev.locWrite_i3cPort (d : Dev) (p a : Nat) (bs : List Byte) : (d.locWrite p a bs).i3cPort = d.i3cPort := rfl
@[simp] theorem Dev.locWrite_glb (d : Dev) (p a : Nat) (bs : List Byte) : (d.locWrite p a bs).glb = d.glb := rfl
@[simp] theorem Dev.locWrite_i3c (d : Dev) (p a : Nat) (bs : List Byte) : (d.locWrite p a bs).i3c = d.i3c := rfl
@[simp] theorem Dev.locWrite_hbm (d : Dev) (p a : Nat) (bs : List Byte) : (d.locWrite p a bs).hbm = d.hbm := rfl
@[simp] theorem Dev.locWrite_vault (d : Dev) (p a : Nat) (bs : List Byte) : (d.locWrite p a bs).vault = d.vault := rfl
@[simp] theorem Dev.locWrite_hostMem (d : Dev) (p a : Nat) (bs : List Byte) : (d.locWrite p a bs).hostMem = d.hostMem := rfl
@[simp] theorem Dev.locWrite_rings (d : Dev) (p a : Nat) (bs : List Byte) : (d.locWrite p a bs).rings = d.rings := rfl
@[simp] theorem Dev.locWrite_jobs (d : Dev) (p a : Nat) (bs : List Byte) : (d.locWrite p a bs).jobs = d.jobs := rfl
@[simp] theorem Dev.locWrite_granted (d : Dev) (p a : Nat) (bs : List Byte) : (d.locWrite p a bs).granted = d.granted := rfl
@[simp] theorem Dev.locWrite_lastGrant (d : Dev) (p a : Nat) (bs : List Byte) : (d.locWrite p a bs).lastGrant = d.lastGrant := rfl
@[simp] theorem Dev.locWrite_ctxs (d : Dev) (p a : Nat) (bs : List Byte) : (d.locWrite p a bs).ctxs = d.ctxs := rfl
@[simp] theorem Dev.locWrite_cores (d : Dev) (p a : Nat) (bs : List Byte) : (d.locWrite p a bs).cores = d.cores := rfl
@[simp] theorem Dev.locWrite_records (d : Dev) (p a : Nat) (bs : List Byte) : (d.locWrite p a bs).records = d.records := rfl
@[simp] theorem Dev.locWrite_routing (d : Dev) (p a : Nat) (bs : List Byte) : (d.locWrite p a bs).routing = d.routing := rfl
@[simp] theorem Dev.locWrite_mig (d : Dev) (p a : Nat) (bs : List Byte) : (d.locWrite p a bs).mig = d.mig := rfl
@[simp] theorem Dev.locWrite_pool (d : Dev) (p a : Nat) (bs : List Byte) : (d.locWrite p a bs).pool = d.pool := rfl
@[simp] theorem Dev.locWrite_ports (d : Dev) (p a : Nat) (bs : List Byte) : (d.locWrite p a bs).ports = d.ports := rfl
@[simp] theorem Dev.locWrite_router (d : Dev) (p a : Nat) (bs : List Byte) : (d.locWrite p a bs).router = d.router := rfl
@[simp] theorem Dev.locWrite_fil (d : Dev) (p a : Nat) (bs : List Byte) : (d.locWrite p a bs).fil = d.fil := rfl
@[simp] theorem Dev.locWrite_colls (d : Dev) (p a : Nat) (bs : List Byte) : (d.locWrite p a bs).colls = d.colls := rfl
@[simp] theorem Dev.locWrite_remote (d : Dev) (p a : Nat) (bs : List Byte) : (d.locWrite p a bs).remote = d.remote := rfl
@[simp] theorem Dev.locWrite_tb (d : Dev) (p a : Nat) (bs : List Byte) : (d.locWrite p a bs).tb = d.tb := rfl
@[simp] theorem Dev.locWrite_mgmt (d : Dev) (p a : Nat) (bs : List Byte) : (d.locWrite p a bs).mgmt = d.mgmt := rfl
@[simp] theorem Dev.locWrite_pwr (d : Dev) (p a : Nat) (bs : List Byte) : (d.locWrite p a bs).pwr = d.pwr := rfl
@[simp] theorem Dev.locWrite_obs (d : Dev) (p a : Nat) (bs : List Byte) : (d.locWrite p a bs).obs = d.obs := rfl
@[simp] theorem Dev.locWrite_freeUsed (d : Dev) (p a : Nat) (bs : List Byte) : (d.locWrite p a bs).freeUsed = d.freeUsed := rfl
@[simp] theorem Dev.locWrite_snap (d : Dev) (p a : Nat) (bs : List Byte) : (d.locWrite p a bs).snap = d.snap := rfl

end Sys2Proof.Machine
end

