-- ==== Sys2Proof/Laws/Tables.lean ====
section
/-! SUPPORT. Sparse tables, byte memories and the register file: a read after a write, and the canonical form that every memory operation
keeps. -/

namespace Sys2Proof.Machine

/-! Tables. -/

/-- A key that a table does not list reads as the default. -/
theorem tabGet_absent {α : Type} (dflt : α) (t : Tab α) (k : Nat) (h : ∀ e ∈ t, e.1 ≠ k) : tabGet dflt t k = dflt := by
  induction t with
  | nil => rfl
  | cons e t ih =>
    obtain ⟨k', v⟩ := e
    have h1 : k' ≠ k := h (k', v) (by simp)
    simp [tabGet, h1, ih (fun e he => h e (by simp [he]))]

/-- An erased key reads as the default. -/
@[simp] theorem tabGet_tabErase_same {α : Type} (dflt : α) (t : Tab α) (k : Nat) : tabGet dflt (tabErase k t) k = dflt := by
  apply tabGet_absent
  intro e he
  simp [tabErase] at he
  exact he.2

/-- Erasing a key leaves the others. -/
theorem tabGet_tabErase_other {α : Type} (dflt : α) (t : Tab α) (k j : Nat) (h : j ≠ k) : tabGet dflt (tabErase k t) j = tabGet dflt t j := by
  induction t with
  | nil => rfl
  | cons e t ih =>
    obtain ⟨k', v⟩ := e
    by_cases hk : k' = k
    · subst hk
      have : tabErase k' ((k', v) :: t) = tabErase k' t := by simp [tabErase]
      rw [this, ih]
      simp [tabGet, Ne.symm h]
    · have : tabErase k ((k', v) :: t) = (k', v) :: tabErase k t := by simp [tabErase, hk]
      rw [this]
      simp [tabGet, ih]

/-- A key entered in a table that does not list it. -/
theorem tabGet_tabInsert_same {α : Type} (dflt : α) (t : Tab α) (k : Nat) (v : α) (h : ∀ e ∈ t, e.1 ≠ k) :
    tabGet dflt (tabInsert k v t) k = v := by
  induction t with
  | nil => simp [tabInsert, tabGet]
  | cons e t ih =>
    obtain ⟨k', v'⟩ := e
    have h1 : k' ≠ k := h (k', v') (by simp)
    by_cases hk : k < k'
    · simp [tabInsert, hk, tabGet]
    · simp [tabInsert, hk, tabGet, h1, ih (fun e he => h e (by simp [he]))]

/-- Entering a key leaves the others. -/
theorem tabGet_tabInsert_other {α : Type} (dflt : α) (t : Tab α) (k j : Nat) (v : α) (h : j ≠ k) :
    tabGet dflt (tabInsert k v t) j = tabGet dflt t j := by
  induction t with
  | nil => simp [tabInsert, tabGet, Ne.symm h]
  | cons e t ih =>
    obtain ⟨k', v'⟩ := e
    by_cases hk : k < k'
    · simp [tabInsert, hk, tabGet, Ne.symm h]
    · simp [tabInsert, hk, tabGet, ih]

/-- Read after write of one key. -/
@[simp] theorem tabGet_tabSet_same {α : Type} [DecidableEq α] (dflt : α) (t : Tab α) (k : Nat) (v : α) :
    tabGet dflt (tabSet dflt t k v) k = v := by
  by_cases h : v = dflt
  · simp [tabSet, h]
  · simp only [tabSet, h, if_false]
    apply tabGet_tabInsert_same
    intro e he
    simp [tabErase] at he
    exact he.2

/-- A write leaves every other key. -/
theorem tabGet_tabSet_other {α : Type} [DecidableEq α] (dflt : α) (t : Tab α) (k j : Nat) (v : α) (h : j ≠ k) :
    tabGet dflt (tabSet dflt t k v) j = tabGet dflt t j := by
  by_cases hv : v = dflt
  · simp [tabSet, hv, tabGet_tabErase_other, h]
  · simp [tabSet, hv, tabGet_tabInsert_other, tabGet_tabErase_other, h]

/-! Registers and the numbered blocks. -/

/-- A register holds what was written, in 64 bits. -/
@[simp] theorem Dev.rd_wr_same (d : Dev) (off v : Nat) : (d.wr off v).rd off = v % 2 ^ 64 := by
  show (tabGet (regReset off) (tabSet (regReset off) d.regs off (BitVec.ofNat 64 v)) off).toNat = v % 2 ^ 64
  rw [tabGet_tabSet_same]
  simp

/-- Writing a register leaves every other. -/
theorem Dev.rd_wr_other (d : Dev) (off off' v : Nat) (h : off' ≠ off) : (d.wr off v).rd off' = d.rd off' := by
  show (tabGet (regReset off') (tabSet (regReset off) d.regs off (BitVec.ofNat 64 v)) off').toNat = _
  have key : ∀ dflt : W64, tabGet dflt (tabSet (regReset off) d.regs off (BitVec.ofNat 64 v)) off' = tabGet dflt d.regs off' := by
    intro dflt
    by_cases hv : BitVec.ofNat 64 v = regReset off
    · simp [tabSet, hv, tabGet_tabErase_other, h]
    · simp [tabSet, hv, tabGet_tabInsert_other, tabGet_tabErase_other, h]
  rw [key]
  rfl

/-- A changed ring. -/
@[simp] theorem Dev.ring_modRing_same (d : Dev) (i : Nat) (f : Ring → Ring) : (d.modRing i f).ring i = f (d.ring i) := by
  exact tabGet_tabSet_same _ _ _ _

/-- The other rings. -/
theorem Dev.ring_modRing_other (d : Dev) (i j : Nat) (f : Ring → Ring) (h : j ≠ i) : (d.modRing i f).ring j = d.ring j := by
  exact tabGet_tabSet_other _ _ _ _ _ h

/-- A changed context. -/
@[simp] theorem Dev.ctx_modCtx_same (d : Dev) (c : Nat) (f : Ctx → Ctx) : (d.modCtx c f).ctx c = f (d.ctx c) := by
  exact tabGet_tabSet_same _ _ _ _

/-- The other contexts. -/
theorem Dev.ctx_modCtx_other (d : Dev) (c j : Nat) (f : Ctx → Ctx) (h : j ≠ c) : (d.modCtx c f).ctx j = d.ctx j := by
  exact tabGet_tabSet_other _ _ _ _ _ h

/-- A changed core. -/
@[simp] theorem Dev.core_modCore_same (d : Dev) (p : Nat) (f : Core → Core) : (d.modCore p f).core p = f (d.core p) := by
  exact tabGet_tabSet_same _ _ _ _

/-- The other cores. -/
theorem Dev.core_modCore_other (d : Dev) (p j : Nat) (f : Core → Core) (h : j ≠ p) : (d.modCore p f).core j = d.core j := by
  exact tabGet_tabSet_other _ _ _ _ _ h

/-- A changed optical port. -/
@[simp] theorem Dev.optPort_modPort_same (d : Dev) (n : Nat) (f : OptPort → OptPort) : (d.modPort n f).optPort n = f (d.optPort n) := by
  exact tabGet_tabSet_same _ _ _ _

/-- The other optical ports. -/
theorem Dev.optPort_modPort_other (d : Dev) (n j : Nat) (f : OptPort → OptPort) (h : j ≠ n) : (d.modPort n f).optPort j = d.optPort j := by
  exact tabGet_tabSet_other _ _ _ _ _ h

/-! Byte memories. -/

/-- A byte written. -/
@[simp] theorem memByte_memSet_same (m : Mem) (a : Nat) (b : Byte) : memByte (memSet m a b) a = b := tabGet_tabSet_same 0 m a b

/-- Every other byte. -/
theorem memByte_memSet_other (m : Mem) (a a' : Nat) (b : Byte) (h : a' ≠ a) : memByte (memSet m a b) a' = memByte m a' :=
  tabGet_tabSet_other 0 m a a' b h

/-- Bytes outside a written range. -/
theorem memByte_memWrite_outside (m : Mem) (a a' : Nat) (bs : List Byte) (h : a' < a ∨ a + bs.length ≤ a') :
    memByte (memWrite m a bs) a' = memByte m a' := by
  induction bs generalizing m a with
  | nil => rfl
  | cons b bs ih =>
    simp only [List.length_cons] at h
    rw [memWrite, ih _ _ (by omega), memByte_memSet_other _ _ _ _ (by omega)]

/-- Bytes of a written range. -/
theorem memByte_memWrite_inside (m : Mem) (a i : Nat) (bs : List Byte) (h : i < bs.length) :
    memByte (memWrite m a bs) (a + i) = bs[i] := by
  induction bs generalizing m a i with
  | nil => simp at h
  | cons b bs ih =>
    cases i with
    | zero =>
      rw [memWrite, memByte_memWrite_outside _ _ _ _ (by omega)]
      simp
    | succ i =>
      have hi : i < bs.length := by simpa using h
      rw [memWrite, show a + (i + 1) = (a + 1) + i by omega, ih _ _ _ hi]
      rfl

/-! The canonical form. -/

/-- The form, as a proposition on neighbours. -/
theorem memWf_iff (m : Mem) : Memory.wf m = true ↔ m.Pairwise (fun x y => x.1 < y.1) ∧ ∀ e ∈ m, e.2 ≠ 0 := by
  induction m with
  | nil => simp [Memory.wf]
  | cons e t ih =>
    cases t with
    | nil => simp [Memory.wf]
    | cons f t =>
      have hstep : Memory.wf (e :: f :: t) = true ↔ (e.2 ≠ 0 ∧ e.1 < f.1) ∧ Memory.wf (f :: t) = true := by simp [Memory.wf]
      rw [hstep, ih]
      constructor
      · rintro ⟨⟨h0, hlt⟩, hp, hz⟩
        refine ⟨List.pairwise_cons.mpr ⟨?_, hp⟩, ?_⟩
        · intro x hx
          rcases List.mem_cons.mp hx with rfl | hx
          · exact hlt
          · exact Nat.lt_trans hlt ((List.pairwise_cons.mp hp).1 x hx)
        · intro x hx
          rcases List.mem_cons.mp hx with rfl | hx
          · exact h0
          · exact hz x hx
      · rintro ⟨hp, hz⟩
        have hp' := List.pairwise_cons.mp hp
        exact ⟨⟨hz e (by simp), hp'.1 f (by simp)⟩, hp'.2, fun x hx => hz x (by simp [List.mem_cons.mp hx])⟩

/-- Selecting entries keeps the form. -/
theorem memWf_filter (m : Mem) (p : Host.Cell → Bool) (h : Memory.wf m = true) : Memory.wf (m.filter p) = true := by
  rw [memWf_iff] at *
  exact ⟨h.1.filter p, fun e he => h.2 e (List.mem_filter.mp he).1⟩

/-- What a table with an entered key lists. -/
theorem mem_tabInsert {α : Type} (k : Nat) (v : α) (t : Tab α) (e : Nat × α) : e ∈ tabInsert k v t ↔ e = (k, v) ∨ e ∈ t := by
  induction t with
  | nil => simp [tabInsert]
  | cons f t ih =>
    obtain ⟨k', v'⟩ := f
    by_cases hk : k < k'
    · simp [tabInsert, hk]
    · simp only [tabInsert, hk, if_false, List.mem_cons, ih]
      tauto

/-- Entering a key keeps the keys rising. -/
theorem pairwise_tabInsert {α : Type} (k : Nat) (v : α) (t : Tab α) (h : t.Pairwise (fun x y => x.1 < y.1)) (hk : ∀ e ∈ t, e.1 ≠ k) :
    (tabInsert k v t).Pairwise (fun x y => x.1 < y.1) := by
  induction t with
  | nil => simp [tabInsert]
  | cons f t ih =>
    obtain ⟨k', v'⟩ := f
    have hp := List.pairwise_cons.mp h
    have hne : k' ≠ k := hk (k', v') (by simp)
    by_cases hlt : k < k'
    · simp only [tabInsert, hlt, if_true]
      refine List.pairwise_cons.mpr ⟨?_, h⟩
      intro e he
      rcases List.mem_cons.mp he with rfl | he
      · exact hlt
      · exact Nat.lt_trans hlt (hp.1 e he)
    · simp only [tabInsert, hlt, if_false]
      refine List.pairwise_cons.mpr ⟨?_, ih hp.2 (fun e he => hk e (by simp [he]))⟩
      intro e he
      rcases (mem_tabInsert k v t e).mp he with rfl | he
      · simp only; omega
      · exact hp.1 e he

/-- A byte store keeps the form. -/
theorem memWf_memSet (m : Mem) (a : Nat) (b : Byte) (h : Memory.wf m = true) : Memory.wf (memSet m a b) = true := by
  have herase : Memory.wf (tabErase a m) = true := memWf_filter m _ h
  by_cases hb : b = 0
  · simpa [memSet, tabSet, hb] using herase
  · have he := (memWf_iff _).mp herase
    simp only [memSet, tabSet, hb, if_false]
    refine (memWf_iff _).mpr ⟨pairwise_tabInsert a b _ he.1 ?_, ?_⟩
    · intro e hm
      simp [tabErase] at hm
      exact hm.2
    · intro e hm
      rcases (mem_tabInsert a b _ e).mp hm with rfl | hm
      · exact hb
      · exact he.2 e hm

/-- A store of bytes keeps the form. -/
theorem memWf_memWrite (m : Mem) (a : Nat) (bs : List Byte) (h : Memory.wf m = true) : Memory.wf (memWrite m a bs) = true := by
  induction bs generalizing m a with
  | nil => exact h
  | cons b bs ih => exact ih _ _ (memWf_memSet m a b h)

/-- Clearing a range keeps the form. -/
theorem memWf_memClear (m : Mem) (a n : Nat) (h : Memory.wf m = true) : Memory.wf (memClear m a n) = true := memWf_filter m _ h

/-- Copying between memories keeps the form. -/
theorem memWf_memCopy (dst : Mem) (da : Nat) (src : Mem) (sa n : Nat) (h : Memory.wf dst = true) :
    Memory.wf (memCopy dst da src sa n) = true := by
  have fold : ∀ (xs : List Host.Cell) (m : Mem), Memory.wf m = true →
      Memory.wf (xs.foldl (fun m e => memSet m (da + (e.1 - sa)) e.2) m) = true := by
    intro xs
    induction xs with
    | nil => intro m hm; exact hm
    | cons x xs ih => intro m hm; exact ih _ (memWf_memSet _ _ _ hm)
  exact fold _ _ (memWf_memClear dst da n h)

/-- Reset leaves every memory in the form. -/
theorem memWf_reset : Memory.wf State.reset.dev.hbm = true ∧ Memory.wf State.reset.dev.vault = true ∧
    Memory.wf State.reset.dev.loc = true ∧ Memory.wf State.reset.dev.hostMem = true := by decide

end Sys2Proof.Machine
end

