-- ==== Sys2Proof/Laws/RegMap.lean ====
section
/-! SUPPORT. What the register map answers for the registers of a ring, a Routing Engine and an optical port, and what a whole register
write comes down to. -/

namespace Sys2Proof.Machine

/-- An array with one stride finds instance r by the offset that is left. -/
theorem locate_stride (s : RegSpec) (start stride n o r x : Nat) (hb : s.base = start + o) (h1 : s.n1 = n) (hs : s.s1 = stride)
    (h2 : s.s2 = 0) (ho : o < stride) (hr : r < n) (hx : x < stride) :
    s.locate (start + r * stride + x) = if o = x then some (r, 0) else none := by
  have hpos : 0 < stride := Nat.lt_of_le_of_lt (Nat.zero_le _) ho
  have key : start + o ≤ start + r * stride + x ∧
      start + r * stride + x - (start + o) = min ((start + r * stride + x - (start + o)) / stride) (n - 1) * stride ↔ o = x := by
    constructor
    · rintro ⟨hle, hd⟩
      generalize hq : min ((start + r * stride + x - (start + o)) / stride) (n - 1) = q at hd
      have hd' : r * stride + x = q * stride + o := by omega
      have hx' : (r * stride + x) % stride = x := by
        rw [Nat.mul_comm, Nat.mul_add_mod]; exact Nat.mod_eq_of_lt hx
      have ho' : (q * stride + o) % stride = o := by
        rw [Nat.mul_comm, Nat.mul_add_mod]; exact Nat.mod_eq_of_lt ho
      rw [← hx', ← ho', hd']
    · rintro rfl
      have hsub : start + r * stride + o - (start + o) = r * stride := by omega
      rw [hsub, Nat.mul_div_cancel _ hpos, Nat.min_eq_left (by omega)]
      exact ⟨by omega, rfl⟩
  have hne : stride ≠ 0 := by omega
  unfold RegSpec.locate
  simp only [hb, h1, hs, h2, hne, if_false, if_true, Nat.mul_zero, Nat.add_zero]
  by_cases hox : o = x
  · subst hox
    rw [if_pos (key.mpr rfl), if_pos rfl]
    have hsub : start + r * stride + o - (start + o) = r * stride := by omega
    rw [hsub, Nat.mul_div_cancel _ hpos, Nat.min_eq_left (by omega)]
  · rw [if_neg (fun h => hox (key.mp h)), if_neg hox]

/-- In a list of such arrays, the one whose offset is left. -/
theorem findSome_stride (rs : List RegSpec) (start stride n r x : Nat)
    (h : ∀ s ∈ rs, start ≤ s.base ∧ s.base < start + stride ∧ s.n1 = n ∧ s.s1 = stride ∧ s.s2 = 0) (hr : r < n) (hx : x < stride) :
    rs.findSome? (fun s => (s.locate (start + r * stride + x)).map (fun ij => (s, ij.1, ij.2))) =
      (rs.find? (fun s => s.base = start + x)).map (fun s => (s, r, 0)) := by
  induction rs with
  | nil => rfl
  | cons s rs ih =>
    obtain ⟨hlo, hhi, h1, hs, h2⟩ := h s (by simp)
    have hl := locate_stride s start stride n (s.base - start) r x (by omega) h1 hs h2 (by omega) hr hx
    rw [List.findSome?_cons, hl]
    by_cases hbx : s.base = start + x
    · rw [if_pos (by omega)]
      simp [hbx]
    · rw [if_neg (by omega)]
      simp only [Option.map_none, List.find?_cons, hbx, decide_false]
      exact ih (fun t ht => h t (by simp [ht]))

/-- The registers of ring r. -/
theorem regAt_ring (r x : Nat) (hr : r < 4096) (hx : x < 0x1000) :
    regAt (0x01000000 + r * 0x1000 + x) = (ringRegs.find? (fun s => s.base = 0x01000000 + x)).map (fun s => (s, r, 0)) := by
  have hb : regBlocks.find? (fun b => b.1 ≤ 0x01000000 + r * 0x1000 + x ∧ 0x01000000 + r * 0x1000 + x ≤ b.2.1) =
      some (0x01000000, 0x01FFFFFF, ringRegs) := by
    simp only [regBlocks, List.find?]
    have e1 : decide (0 ≤ 16777216 + r * 4096 + x ∧ 16777216 + r * 4096 + x ≤ 1048575) = false := by simp; omega
    have e2 : decide (1048576 ≤ 16777216 + r * 4096 + x ∧ 16777216 + r * 4096 + x ≤ 2097151) = false := by simp; omega
    have e3 : decide (2097152 ≤ 16777216 + r * 4096 + x ∧ 16777216 + r * 4096 + x ≤ 3145727) = false := by simp; omega
    have e4 : decide (3145728 ≤ 16777216 + r * 4096 + x ∧ 16777216 + r * 4096 + x ≤ 4194303) = false := by simp; omega
    have e5 : decide (4194304 ≤ 16777216 + r * 4096 + x ∧ 16777216 + r * 4096 + x ≤ 16777215) = false := by simp; omega
    have e6 : decide (16777216 ≤ 16777216 + r * 4096 + x ∧ 16777216 + r * 4096 + x ≤ 33554431) = true := by simp; omega
    simp only [e1, e2, e3, e4, e5, e6]
  unfold regAt
  rw [hb]
  exact findSome_stride ringRegs 0x01000000 0x1000 4096 r x (by decide) hr hx

/-- A register access reaches a ring's 32-bit register. -/
theorem busTarget_ring (r x : Nat) (s : RegSpec) (hr : r < 4096) (hx : x < 0x1000) (h4 : x % 4 = 0)
    (hs : ringRegs.find? (fun s => s.base = 0x01000000 + x) = some s) (hw : s.wide = false) :
    busTarget (0x01000000 + r * 0x1000 + x) 4 = some ⟨s, r, 0, 0x01000000 + r * 0x1000 + x, .whole⟩ := by
  have hreg := regAt_ring r x hr hx
  rw [hs] at hreg
  unfold busTarget
  rw [if_neg (by omega), if_neg (by omega), if_pos (by constructor <;> omega), hreg]
  simp [hw]

/-- A whole register write that no rule refuses: the register's own effect, and the answer. -/
theorem busWrite_done (d e : Dev) (p : MPort) (off bytes v : Nat) (t : Target) (hreach : d.reaches p = true)
    (ht : busTarget off bytes = some t) (hh : t.half = .whole) (hrun : d.mgmt.run = none)
    (hres : t.r.setsReserved (v % 2 ^ (8 * bytes)) = false) (hw : d.regWrite p t.r t.i t.off (v % 2 ^ (8 * bytes)) = some e) :
    d.busWrite p off bytes v = e.answer p .done := by
  have hm : d.mgmtBars t (v % 2 ^ (8 * bytes)) = false := by
    show (match d.mgmt.run with | none => false | some run => _) = false
    rw [hrun]
  simp [Dev.busWrite, hreach, ht, Dev.writeTarget, hrun, hm, hh, Dev.judge, hres, hw]

/-- A whole register write that the register's own rule refuses. -/
theorem busWrite_rejected (d : Dev) (p : MPort) (off bytes v : Nat) (t : Target) (hreach : d.reaches p = true)
    (ht : busTarget off bytes = some t) (hh : t.half = .whole) (hrun : d.mgmt.run = none)
    (hres : t.r.setsReserved (v % 2 ^ (8 * bytes)) = false) (hw : d.regWrite p t.r t.i t.off (v % 2 ^ (8 * bytes)) = none) :
    d.busWrite p off bytes v = d.writeErr p 4 t.off bytes := by
  have hm : d.mgmtBars t (v % 2 ^ (8 * bytes)) = false := by
    show (match d.mgmt.run with | none => false | some run => _) = false
    rw [hrun]
  simp [Dev.busWrite, hreach, ht, Dev.writeTarget, hrun, hm, hh, Dev.judge, hres, hw]

end Sys2Proof.Machine
end

