-- ==== Sys2Proof/WellFormed.lean ====
section
/-! DEFINITION. Well-formed commands: every operand names something the device has. A command that is not well-formed names a ring, core,
port or context that does not exist, or a message of a wrong length; the machine's answer to it is of no interest. -/

namespace Sys2Proof

/-- A cell carries 256 payload bytes. -/
def Cell.wf (c : Cell) : Bool := c.payload.length = 256

/-- A training block has 32 bytes (Table 7.4). -/
def blockWf (b : List Byte) : Bool := b.length = 32

/-- Host stores lie in the 64-bit bus address space. -/
def hostWf (h : HostStores) : Bool := h.all (fun e => decide (e.1 < 2 ^ 64))

/-- An instance number below a bound. -/
def below (n bound : Nat) : Bool := decide (n < bound)

/-- Local errors lie in the memory of one of the cores of a quartet. -/
def eccWf (ecc : Ecc) : Bool := below ecc.place 4

/-- A ring and a sequence number. -/
def ringSeqWf (ring seq : Nat) : Bool := below ring 4096 && below seq 65536

/-- Built-in test results name cores, arrays, classes and stacks that exist. -/
def bistWf (r : Bist) : Bool :=
  r.columns.all (fun x => below x.1 576 && below x.2.1 4) && r.deadCores.all (fun p => below p 576) && below r.stackFail 256 &&
  r.words.all (fun x => below x.1 8) && below r.badBanks 3 && r.repaired.all (fun x => below x.1 8)

/-- The hardware requesters of the pool manager. -/
def poolUserWf : PoolUser → Bool
  | .re i => below i 4
  | .router => true
  | .collective => true

/-- The patterns of a reclaim. -/
def reclaimWf : Reclaim → Bool
  | .context c => below c 64
  | .sequence c slot => below c 64 && below slot 4096
  | .step layer half => below layer 256 && below half 2

/-- Well-formedness. -/
def Instr.wf (i : Instr) : Bool :=
  match i with
  | .registerWrite _ off bytes _ => below off (2 ^ 32) && below bytes 9 && below 0 bytes
  | .registerRead _ off bytes => below off (2 ^ 32) && below bytes 9 && below 0 bytes
  | .bar2Access write off len data _ => below (off + if write then data.length else len) (2 ^ 36 + 1)
  | .deviceReset | .hostPortReset _ | .hostPortLinkUp | .commandGrant | .countMessageReceive | .stageAdmission | .hintQueueTake
  | .hintMessage | .auditPass | .mirrorCapture | .collectiveOpen _ | .collectiveCellReceive _ | .barrierMessage _ | .smallCollectiveMessage _
  | .heldMessageExpire | .filterIdentityExpire | .replicaInvalidate | .memRequest _ | .memResponse _ | .memInvalidate | .timebaseEnable _
  | .beatInEdge _ _ | .beatInLost | .parentLost | .strokeBoundary | .bezelSwitch _ | .claspMessage | .timeWrite _ _ | .timeAdj _ _
  | .hallmarkEntryWrite | .hmDisable _ | .managementNop | .mountClear | .spareSwap | .linkRetrain | .noLight | .i3cPrivateRead
  | .enec _ | .disec _ | .rstdaa | .getpid | .getbcr | .getdcr | .getstatus | .permitGrant | .rampWindow | .loupeArm _
  | .loupeMessage | .errorLogWrite | .tapInstruction _ | .resetCmd _ _ | .sweepWrite _ _ | .ready _ _ => true
  | .resetRelease _ _ bist => bistWf bist
  | .pllLockLoss domain => below domain 60
  | .thermHot _ | .thermHotClear _ | .thermtrip _ => true
  | .nop ring seq | .step ring seq _ | .collective ring seq _ | .clasp ring seq | .poolAlloc ring seq | .poolFree ring seq
  | .hallmarkFlush ring seq => ringSeqWf ring seq
  | .program ring seq _ => ringSeqWf ring seq
  | .copy ring seq host _ => ringSeqWf ring seq && hostWf host
  | .commandFetch ring host _ => below ring 4096 && hostWf host
  | .doorbell _ ring _ | .ringEnable _ ring _ | .ringCancel _ ring _ => below ring 4096
  | .ringDisable _ ring | .promotion ring | .completionRecordWrite ring => below ring 4096
  | .ringPrioWrite _ ring prio => below ring 4096 && below prio 8
  | .denseInstruction core ecc | .sparseArrayInstruction core ecc | .vload core ecc | .vstore core ecc => below core 576 && eccWf ecc
  | .arrayDrain core residue _ => below core 576 && residue.all (fun x => below x.1 16 && below x.2 64)
  | .end_ core ecc | .clwait core ecc | .vcopy core ecc | .vadd core ecc | .vmul core ecc | .vfma core ecc | .vaxpy core ecc
  | .vmax core ecc | .vmin core ecc | .vscale core ecc | .vexp core ecc | .vrcp core ecc | .vrsqrt core ecc | .vsilu core ecc
  | .vgelu core ecc | .vrsum core ecc | .vrmax core ecc | .vdot core ecc | .vcvt core ecc | .vsel core ecc | .vkeep core ecc
  | .vhint core ecc | .valloc core ecc | .vfree core ecc | .vatom core ecc | .vstoref core ecc | .vcount core ecc =>
    below core 576 && eccWf ecc
  | .clwaitTimeout core | .suspendedResume core => below core 576
  | .rePlanReady re _ | .countTimeout re | .keothRecordPost re | .keothTimeout re | .reHalt _ re _ | .keothResume _ re _ _ => below re 4
  | .dispatchOpen half _ | .returnOpen half | .orderedCombine half _ => below half 2
  | .vaultTransfer port _ | .vaultFetchComplete port _ _ => below port 2
  | .vaultWritebackComplete port | .vaultLinkDown port | .vaultLinkUp port _ _ | .vaultRetrainTimeout port => below port 2
  | .poolAllocation who _ ctx sub => poolUserWf who && below ctx 64 && below sub 65536
  | .hardwareFree who ptr => poolUserWf who && below ptr (2 ^ 48)
  | .tagReclaim pat => reclaimWf pat
  | .bitmapRebuild cls word _ => below cls 8 && below word 1024
  | .linkCellReceive port cell q => below port 6 && cell.wf && q.corrected.all (fun e => below e.1 10)
  | .retrainRequest port block => below port 6 && blockWf block
  | .trainingBlock port block hubNow => below port 6 && blockWf block && below hubNow (2 ^ 32)
  | .lightDetected port lanes | .lockAchieved port lanes => below port 6 && below lanes 1024
  | .laneRetired port _ lane => below port 6 && below lane 10
  | .linkCellSend port | .replayTimeout port | .trainTimeout port | .lightLost port | .fecLockLost port | .clockLost port
  | .retrainInterval port | .portEnable _ port | .portDisable _ port | .trainingPatternSeen port | .beatRecord port _ => below port 6
  | .routerCellArrive port _ | .cellInject port _ => below port 12
  | .transitReserveDepart bank _ _ | .stage2FifoFill bank _ _ => below bank 12
  | .bankUncorr bank (.queue out vc _) => below bank 12 && below out 12 && below vc 4
  | .bankUncorr bank (.reserve _) => below bank 12
  | .collectiveDeadline id => below id 65536
  | .flaggedStoreApply src _ => below src 16384
  | .memTimeout core slot => below core 577 && below slot 64
  | .invalidateTimeout line => below line (2 ^ 29)
  | .replicaFetchComplete home page | .replicaTtlExpire home page => below home 4096 && below page (2 ^ 19)
  | .claspTimeout n => below n 65536
  | .mountLoad _ _ applyFail => applyFail.all (fun k => below 0 k && below k 16)
  | .slotMove cluster slot | .swapWaitExpire cluster slot => below cluster 32 && below slot 16
  | .i3cPrivateWrite data => data.length = 4 || data.length = 8 || data.length = 12
  | .entdaa addr | .setdasa addr => below addr 128
  | .contextCreate _ ctx role _ saveBase => below ctx 64 && below role 64 && below saveBase (2 ^ 48) && saveBase % 2 ^ 21 = 0
  | .contextDestroy _ ctx | .teardownComplete ctx => below ctx 64
  | .contextSwitch core ctx => below core 576 && below ctx 64
  | .permitReturn req => below req 592
  | .loupeTrigger _ id | .loupeSchedule _ id _ => below id 65536

end Sys2Proof
end

