-- ==== Sys2Proof/Tests/Slice0.lean ====
section
/-! SUPPORT. The package's own tests: ill-formed commands that well-formedness refuses, a witness for the hypotheses of every statement, and
values worked out by hand from the spec. -/

namespace Sys2Proof.Tests

open Sys2Proof.Machine

/-! States of the tests, each the state after reset with something in it. -/

/-- The state after reset with its device changed. -/
def on (f : Dev → Dev) : State := State.reset.onDev (f State.reset.dev)

/-- Registers set to values. -/
def regs (l : List (Nat × Nat)) (d : Dev) : Dev := l.foldl (fun d e => d.wr e.1 e.2) d

/-- Context c live. -/
def live (c : Nat) (d : Dev) : Dev := d.modCtx c (fun x => { x with mode := .live })

/-- Ring r enabled as a command ring of context 0. -/
def ringOn (r : Nat) (d : Dev) : Dev := (live 0 d).wr (Reg.ringCtrl r) 1

/-- A command of 64 bytes: its first word, then bytes from offset 8 on. -/
def cmd (w : Nat) (rest : List Byte) : List Byte := padTo 64 (toLe 8 w ++ rest)

/-- A command granted to an engine. -/
def granted (ring seq : Nat) (c : List Byte) (d : Dev) : Dev := { d with jobs := [{ ring := ring, seq := seq, ctx := 0, cmd := c }] }

/-- A port with a state. -/
def port (n : Nat) (f : OptPort → OptPort) (d : Dev) : Dev := d.modPort n f

/-! Well-formedness refuses, check by check. -/

/-- A cell with n payload bytes. -/
def cellOf (n : Nat) : Cell := ⟨0, 0, 0, 0, 0, 0, 0, List.replicate n 0⟩

/-- A training block of zeros. -/
def block : List Byte := List.replicate 32 0

theorem test_wf_accesses :
    [Instr.registerWrite .host (2 ^ 32) 4 0, .registerWrite .host 0 9 0, .registerWrite .host 0 0 0, .registerRead .i3c (2 ^ 32) 4,
     .registerRead .host 0 9, .registerRead .host 0 0, .bar2Access true (2 ^ 36) 0 [1] {}, .bar2Access false (2 ^ 36) 1 [] {},
     .i3cPrivateWrite [1, 2, 3], .entdaa 128, .setdasa 128].all (fun i => !i.wf) = true := by decide

theorem test_wf_reset_and_clocks :
    [Instr.pllLockLoss 60, .resetRelease false false { columns := [(576, 0, 0)] }, .resetRelease false false { columns := [(0, 4, 0)] },
     .resetRelease false false { deadCores := [576] }, .resetRelease false false { stackFail := 256 },
     .resetRelease false false { words := [(8, 0)] }, .resetRelease false false { badBanks := 3 },
     .resetRelease false false { repaired := [(8, 1, 1)] }].all (fun i => !i.wf) = true := by decide

theorem test_wf_ring_commands :
    [Instr.nop 4096 0, .nop 0 65536, .program 4096 0 {}, .step 0 65536 {}, .collective 4096 0 {}, .clasp 4096 0, .poolAlloc 4096 0,
     .poolFree 0 65536, .hallmarkFlush 4096 0, .copy 4096 0 [] {}, .copy 0 0 [(2 ^ 64, 1)] {}].all (fun i => !i.wf) = true := by decide

theorem test_wf_rings :
    [Instr.commandFetch 4096 [] {}, .commandFetch 0 [(2 ^ 64, 1)] {}, .doorbell .host 4096 0, .ringEnable .host 4096 0, .ringCancel .i3c 4096 0,
     .ringDisable .host 4096, .promotion 4096, .completionRecordWrite 4096, .ringPrioWrite .host 4096 0,
     .ringPrioWrite .host 0 8].all (fun i => !i.wf) = true := by decide

theorem test_wf_cores :
    [Instr.denseInstruction 576 {}, .sparseArrayInstruction 576 {}, .vload 576 {}, .vstore 576 {}, .arrayDrain 576 [] {},
     .arrayDrain 0 [(16, 0)] {}, .arrayDrain 0 [(0, 64)] {}, .end_ 576 {}, .clwait 576 {}, .clwaitTimeout 576, .vcopy 576 {}, .vadd 576 {}, .vmul 576 {},
     .vfma 576 {}, .vaxpy 576 {}, .vmax 576 {}, .vmin 576 {}, .vscale 576 {}, .vexp 576 {}, .vrcp 576 {}, .vrsqrt 576 {}, .vsilu 576 {}, .vgelu 576 {}, .vrsum 576 {},
     .vrmax 576 {}, .vdot 576 {}, .vcvt 576 {}, .vsel 576 {}, .vkeep 576 {}, .vhint 576 {}, .valloc 576 {}, .vfree 576 {}, .vatom 576 {}, .vstoref 576 {}, .vcount 576 {},
     .suspendedResume 576].all (fun i => !i.wf) = true := by decide

theorem test_wf_engines :
    [Instr.rePlanReady 4 {}, .countTimeout 4, .keothRecordPost 4, .keothTimeout 4, .reHalt .host 4 true, .keothResume .host 4 0 {},
     .dispatchOpen 2 {}, .returnOpen 2, .orderedCombine 2 {}, .vaultTransfer 2 {}, .vaultFetchComplete 2 false {}, .vaultWritebackComplete 2,
     .vaultLinkDown 2, .vaultLinkUp 2 ⟨0, false, false, 0⟩ false, .vaultRetrainTimeout 2].all (fun i => !i.wf) = true := by decide

theorem test_wf_pools :
    [Instr.poolAllocation (.re 4) 1 0 0, .poolAllocation .router 1 64 0, .poolAllocation .collective 1 0 65536, .hardwareFree (.re 4) 0,
     .hardwareFree .router (2 ^ 48), .tagReclaim (.context 64), .tagReclaim (.sequence 64 0), .tagReclaim (.sequence 0 4096),
     .tagReclaim (.step 256 0), .tagReclaim (.step 0 2), .bitmapRebuild 8 0 false, .bitmapRebuild 0 1024 true].all (fun i => !i.wf) = true := by decide

set_option maxRecDepth 4000 in
theorem test_wf_ports :
    [Instr.linkCellReceive 6 (cellOf 256) {}, .linkCellReceive 0 (cellOf 255) {}, .linkCellReceive 0 (cellOf 256) { corrected := [(10, 1)] },
     .retrainRequest 6 block, .retrainRequest 0 [], .trainingBlock 6 block 0, .trainingBlock 0 [] 0, .trainingBlock 0 block (2 ^ 32),
     .lightDetected 6 15, .lightDetected 0 1024, .lockAchieved 6 15, .lockAchieved 0 1024, .laneRetired 6 .rx 0, .laneRetired 0 .tx 10,
     .linkCellSend 6, .replayTimeout 6, .trainTimeout 6, .lightLost 6, .fecLockLost 6, .clockLost 6, .retrainInterval 6, .portEnable .host 6,
     .portDisable .host 6, .trainingPatternSeen 6, .beatRecord 6 0].all (fun i => !i.wf) = true := by decide

theorem test_wf_router_and_remote :
    [Instr.routerCellArrive 12 0, .cellInject 12 0, .transitReserveDepart 12 0 false, .stage2FifoFill 12 0 false, .bankUncorr 12 (.reserve 0),
     .bankUncorr 0 (.queue 12 0 0), .bankUncorr 0 (.queue 0 4 0), .collectiveDeadline 65536, .flaggedStoreApply 16384 {}, .memTimeout 577 0, .memTimeout 0 64,
     .invalidateTimeout (2 ^ 29), .replicaFetchComplete 4096 0, .replicaFetchComplete 0 (2 ^ 19), .replicaTtlExpire 4096 0,
     .replicaTtlExpire 0 (2 ^ 19), .claspTimeout 65536].all (fun i => !i.wf) = true := by decide

theorem test_wf_management_and_contexts :
    [Instr.mountLoad ⟨0, false, false, 0⟩ ⟨0, false, false, 0⟩ (some 0), .mountLoad ⟨0, false, false, 0⟩ ⟨0, false, false, 0⟩ (some 16),
     .slotMove 32 0, .slotMove 0 16, .swapWaitExpire 32 0, .swapWaitExpire 0 16, .contextCreate .host 64 0 false 0,
     .contextCreate .host 0 64 false 0, .contextCreate .host 0 0 false (2 ^ 48), .contextCreate .host 0 0 false 1, .contextDestroy .host 64,
     .teardownComplete 64, .contextSwitch 576 0, .contextSwitch 0 64, .permitReturn 592, .loupeTrigger .host 65536,
     .loupeSchedule .host 65536 false].all (fun i => !i.wf) = true := by decide

set_option maxRecDepth 4000 in
/-- The largest operands of the same checks are accepted. -/
theorem test_wf_accepts :
    [Instr.registerWrite .host (2 ^ 32 - 4) 8 0, .bar2Access true (2 ^ 36 - 1) 0 [1] {}, .pllLockLoss 59, .nop 4095 65535,
     .ringPrioWrite .i3c 4095 7, .vadd 575 {}, .arrayDrain 575 [(15, 63)] {}, .rePlanReady 3 {}, .dispatchOpen 1 {}, .vaultLinkDown 1,
     .poolAllocation .router 0 63 65535, .tagReclaim (.sequence 63 4095), .bitmapRebuild 7 1023 true, .linkCellReceive 5 (cellOf 256) {},
     .trainingBlock 5 block 0, .laneRetired 5 .tx 9, .routerCellArrive 11 0, .bankUncorr 11 (.queue 11 3 0), .memTimeout 576 63, .swapWaitExpire 31 15,
     .contextCreate .host 63 63 true (2 ^ 48 - 2 ^ 21), .permitReturn 591].all Instr.wf = true := by decide

/-! Witnesses: one state and operands, or one for each clause, that meet the hypotheses of a statement. -/

theorem wit_StepRunsFrontCommand :
    ({ State.reset with pending := [.managementNop, .noLight] } : State).pending = .managementNop :: [.noLight] ∧ State.reset.pending = [] := by decide

/-- The device has tripped. -/
def tripped : State := on (fun d => { d with glb := { d.glb with phase := .tripped, thermtripLow := true } })

theorem wit_OutsideOperationNothingActs :
    (¬ Safety.Operating tripped ∧ Safety.actsOutsideOperation (.nop 4095 65535) = false) ∧
    (tripped.dev.glb.phase = .tripped ∧ Instr.thermtrip ⟨0, 0, 0, 0, 125, 0⟩ ≠ .deviceReset) := by decide

/-- A management command runs. -/
def busy (op : Nat) (args : List W64) : State :=
  on (fun d => { d with mgmt := { d.mgmt with run := some ⟨op, 0, .host, args, false⟩ } })

theorem wit_ResetAndRelease :
    (Safety.Operating State.reset ∧ State.reset.dev.reaches .host = true ∧ State.reset.dev.mgmt.run = none ∧ (0xFFFF : W32).toNat < 2 ^ 16 ∧
      (0xFFFF : W32) ≠ 0xA5C3) ∧
    [1, 2, 3, 4].all (fun op => decide (Safety.Operating (busy op []) ∧ (busy op []).dev.reaches .host = true ∧
      ((busy op []).dev.mgmt.run.all (fun r => decide (r.op ≠ 1 ∧ r.op ≠ 2)) = decide (2 < op)))) = true ∧
    (on (fun d => { d with glb := { d.glb with phase := .inReset } })).dev.glb.phase = .inReset ∧
    (on (fun d => { d with glb := { d.glb with phase := .starting } })).dev.glb.phase = .starting := by decide

theorem wit_RefusedAccessesChangeNothing_1 :
    Safety.Operating State.reset ∧ State.reset.dev.reaches .i3c = true ∧ busTarget 0x4 8 = none ∧ busTarget (2 ^ 28) 4 = none ∧
    (3 < 4 ∨ (3 = 4 ∧ 0 % 4 ≠ 0) ∨ (3 = 8 ∧ 0 % 8 ≠ 0) ∨ 2 ^ 28 ≤ 0) := by decide

theorem wit_RefusedAccessesChangeNothing_2 :
    State.reset.dev.flag (Reg.glbErrResp 1) 63 = false ∧ (on (regs [(Reg.glbErrResp 0, 2 ^ 63)])).dev.flag (Reg.glbErrResp 0) 63 = true := by decide

theorem wit_RefusedAccessesChangeNothing_3 :
    Safety.Operating (busy 1 []) ∧ (busy 1 []).dev.reaches .host = true ∧ (busy 1 []).dev.mgmt.run.isSome = true ∧
    ∃ t, busTarget (Reg.mgmtArg 3) 8 = some t ∧ t.isMailbox = true := ⟨by decide, by decide, by decide, _, rfl, by decide⟩

theorem wit_ReservedBits_1 :
    Safety.Operating State.reset ∧ State.reset.dev.reaches .host = true ∧ ∃ t, busTarget (Reg.ringStarve 4095) 4 = some t ∧ t.half = .whole ∧
    (State.reset.dev.mgmt.run.isSome = true → t.isMailbox = false) ∧
    State.reset.dev.mgmtBars t ((0x80000000 : W64).toNat % 2 ^ (8 * 4)) = false ∧ 31 < 8 * 4 ∧ bitOf (0x80000000 : W64).toNat 31 = true ∧
    (∀ f ∈ t.r.flds, ¬ (f.lo ≤ 31 ∧ 31 ≤ f.hi)) ∧ ∀ f ∈ t.r.flds, f.hi < 64 ∧ f.lo ≤ f.hi :=
  ⟨by decide, by decide, _, rfl, by decide, by decide, by decide, by decide, by decide, by decide, by decide⟩

theorem wit_ReservedBits_2 :
    ∃ t, busTarget (Reg.ringStarve 0) 4 = some t ∧ t.half = .whole ∧ (State.reset.dev.bus .i3c).loupeSel < 2 ^ 28 ∧
    (∀ f ∈ t.r.flds, ¬ (f.lo ≤ 16 ∧ 16 ≤ f.hi)) := ⟨_, rfl, by decide, by decide, by decide⟩

theorem wit_PlainWriteTakesValue :
    Safety.Operating State.reset ∧ State.reset.dev.reaches .host = true ∧ State.reset.dev.mgmt.run = none ∧
    ∃ t, busTarget (Reg.ringStarve 4095) 4 = some t ∧ t.half = .whole ∧ t.r.base ∉ Safety.ownEffect ∧ (0xFFFF : W64).toNat < 2 ^ (8 * 4) ∧
    t.r.setsReserved (0xFFFF : W64).toNat = false ∧ State.reset.dev.writeBarred t.r t.i (Reg.ringStarve 4095) (0xFFFF : W64).toNat = false ∧
    (State.reset.dev.wr (Reg.ringStarve 4095) (t.r.merge (State.reset.dev.rd (Reg.ringStarve 4095)) (0xFFFF : W64).toNat)).valueOk t.r t.i
      (0xFFFF : W64).toNat = true :=
  ⟨by decide, by decide, by decide, _, rfl, by decide, by decide, by decide, by decide, by decide, by decide⟩

theorem wit_ReadAnswersValue :
    Safety.Operating State.reset ∧ State.reset.dev.reaches .i3c = true ∧ State.reset.dev.mgmt.run = none ∧ (4095 : Nat) < 4096 ∧
    (0xFFFF : W64).toNat < 2 ^ 16 ∧ ∃ t, busTarget (Reg.ringStarve 4095) 4 = some t ∧ t.half = .whole ∧
    t.r.base ∉ [Reg.loupeData, Reg.loupeSel, Reg.mgmtArg 0] := ⟨by decide, by decide, by decide, by decide, by decide, _, rfl, by decide, by decide⟩

theorem wit_HalvesMakeOneValue :
    Safety.Operating State.reset ∧ State.reset.dev.reaches .host = true ∧ State.reset.dev.mgmt.run = none ∧
    (∃ t, busTarget (Reg.ringSqBase 4095) 8 = some t ∧ busTarget (Reg.ringSqBase 4095 + 4) 4 = some { t with half := .high } ∧
      t.r.base ∉ [Reg.loupeData, Reg.loupeSel, Reg.mgmtArg 0]) ∧
    (∀ l, (State.reset.dev.bus .host).stage = some l → l.off ≠ Reg.ringSqBase 4095) ∧
    (on (fun d => d.modBus .host (fun x => { x with stage := some ⟨0, 0⟩ }))).dev.hostPort.stage = some ⟨0, 0⟩ ∧
    (0 : Nat) ≠ Reg.ringSqBase 4095 :=
  ⟨by decide, by decide, by decide, ⟨_, rfl, rfl, by decide⟩, by intro l h; simp [State.reset, Dev.reset, Blocks.bus] at h, by decide, by decide⟩

theorem wit_ClockLossAndHeat :
    (Safety.Operating State.reset ∧ (40 < 41 ∨ 47 ≤ 40 ∧ 40 < 55) ∧ bitOf State.reset.dev.clkLockView 40 = true ∧
      State.reset.dev.glb.lockedOnce.contains 40 = true) ∧
    (54 < 41 ∨ 47 ≤ 54 ∧ 54 < 55) ∧ bitOf State.reset.dev.clkLockView 54 = true ∧
    (let s := on (port 5 (fun p => { p with st := .active }))
     (s.dev.optPort 5).st ≠ .disabled ∧ (s.dev.optPort 5).st ≠ .failed ∧ (s.dev.optPort 0).st = .disabled) ∧
    (31 < 32 ∧ clusterOf 575 = 31) ∧
    (on (fun d => { d with glb := { d.glb with stopped := true } })).dev.glb.stopped = true ∧
    [Phase.running, .inReset, .starting].all (fun x => decide (x ≠ .tripped)) = true ∧
    125 ≤ hottest ⟨0, 0, 0, 125, 0, 0⟩ ∧ hottest ⟨124, 0, 0, 0, 124, 200⟩ < 125 := by decide

theorem wit_HostResetAndTestPort :
    (Safety.Operating State.reset ∧ (∀ c, (State.reset.dev.ctx c).mode ≠ .live)) ∧ Safety.Operating (on (live 63)) ∧
    ((on (live 63)).dev.ctx 63).mode = .live ∧ ((on (live 63)).dev.ctx 0).mode ≠ .live ∧
    (on (fun d => { d with glb := { d.glb with phase := .starting } })).dev.glb.phase = .starting ∧
    (4095 : Nat) < 4096 ∧ (0xFF : Nat) < 0x100 ∧ (0x02000000 < 0x01000000 ∨ 0x02000000 ≤ 0x02000000) ∧
    State.reset.dev.grade = .t512 ∧ (on (fun d => { d with grade := .t448 })).dev.grade = .t448 :=
  ⟨⟨by decide, fun c => by simp [State.reset, Dev.reset, Blocks.ctx, tabGet]⟩, by decide⟩

/-- An I3C target with a dynamic address. -/
def addressed : State := on (fun d => { d with i3c := { d.i3c with dyn := some 127 } })

theorem wit_I3cTarget_1 :
    Safety.Operating State.reset ∧ State.reset.dev.i3c.dyn = none ∧ (127 : Nat) < 128 ∧ Safety.Operating (busy 1 []) ∧
    (busy 1 []).dev.mgmt.run.isSome = true := by decide

theorem wit_I3cTarget_2 :
    Safety.Operating addressed ∧ addressed.dev.mgmt.run = none ∧ addressed.dev.i3c.dyn.isSome = true ∧ Reg.ringStarve 4095 < 2 ^ 32 ∧
    (4 = 4 ∨ 4 = 8) ∧ (0xFFFF : W64).toNat < 2 ^ (8 * 4) ∧ busTarget (2 ^ 28) 4 = none ∧
    (∃ t, busTarget (Reg.ringStarve 4095) 4 = some t ∧ t.half = .whole ∧ t.r.base ∉ Safety.ownEffect ∧
      t.r.setsReserved (0xFFFF : W64).toNat = false ∧ t.r.setsReserved (0x10000 : W64).toNat = true ∧
      addressed.dev.writeBarred t.r t.i (Reg.ringStarve 4095) (0xFFFF : W64).toNat = false ∧
      (addressed.dev.wr (Reg.ringStarve 4095) (t.r.merge (addressed.dev.rd (Reg.ringStarve 4095)) (0xFFFF : W64).toNat)).valueOk t.r t.i
        (0xFFFF : W64).toNat = true) :=
  ⟨by decide, by decide, by decide, by decide, by decide, by decide, by decide, _, rfl, by decide, by decide, by decide, by decide, by decide,
    by decide⟩

theorem wit_I3cTarget_3 :
    let at_ (off : Nat) : State := addressed.onDev { addressed.dev with i3c := { addressed.dev.i3c with readPtr := off } }
    (∃ t, busTarget (at_ (Reg.ringSqBase 4095)).dev.i3c.readPtr 8 = some t ∧ t.half = .whole ∧ t.r.base ∉ [Reg.loupeData, Reg.loupeSel, Reg.mgmtArg 0]) ∧
    (∃ t, busTarget (at_ (Reg.ringStarve 4095)).dev.i3c.readPtr 8 = none ∧
      busTarget (at_ (Reg.ringStarve 4095)).dev.i3c.readPtr 4 = some t ∧ t.half = .whole ∧ t.r.base ∉ [Reg.loupeData, Reg.loupeSel, Reg.mgmtArg 0]) ∧
    busTarget (at_ (2 ^ 28)).dev.i3c.readPtr 8 = none ∧ busTarget (at_ (2 ^ 28)).dev.i3c.readPtr 4 = none ∧
    Safety.Operating (at_ (2 ^ 28)) ∧ (at_ (2 ^ 28)).dev.i3c.dyn.isSome = true :=
  ⟨⟨_, rfl, by decide, by decide⟩, ⟨_, by decide, rfl, by decide, by decide⟩, by decide⟩

/-- The Loupe is not armed: it latched a snapshot in a hub cycle by a source. -/
def heldLoupe (at_ : Option Nat) (src : Nat) : State :=
  on (fun d => { d with obs := { d.obs with armed := false, latchedAt := at_, source := src } })

theorem wit_LoupeAndLog_1 :
    Safety.Writable State.reset .host ∧ (65535 : Nat) < 2 ^ 16 ∧ State.reset.dev.obs.armed = true ∧
    ((heldLoupe none 3).dev.obs.armed = false ∧ (heldLoupe none 3).dev.obs.latchedAt ≠ some (heldLoupe none 3).dev.glb.hubNow) ∧
    ((heldLoupe (some 0) 1).dev.obs.latchedAt = some (heldLoupe (some 0) 1).dev.glb.hubNow ∧ (heldLoupe (some 0) 1).dev.obs.source = 1) ∧
    ((heldLoupe (some 0) 2).dev.obs.latchedAt = some (heldLoupe (some 0) 2).dev.glb.hubNow ∧ 1 < (heldLoupe (some 0) 2).dev.obs.source) ∧
    (on (regs [(Reg.loupeAt, 1)])).dev.stroke < (on (regs [(Reg.loupeAt, 1)])).dev.rd Reg.loupeAt ∧
    (let s := on (regs [(Reg.loupeAt, 1), (Reg.tbStroke, 1)])
     Safety.Writable s .i3c ∧ s.dev.rd Reg.loupeAt ≤ s.dev.stroke ∧ s.dev.obs.armed = true) := by decide

/-- An error log with n entries written and a staged entry. -/
def logged (n : Nat) : State := on (fun d => { regs [(Reg.errLogHead, n)] d with obs := { d.obs with fifo := [{ code := 0x61 }] } })

theorem wit_LoupeAndLog_2 :
    (let d := (State.reset.dev.log { code := 0x61, domain := 5 }).log { code := 0x62, domain := 4 }
     d.obs.waiting.map (fun e => e.code) = [0x62, 0x61] ∧ d.obs.waiting.Pairwise (fun x y => y.before x = false) ∧
     d.flag Reg.loupeCtrl 0 = false) ∧
    Safety.Operating (logged 0) ∧ (logged 0).dev.logIntake.obs.fifo = { code := 0x61 } :: [] ∧ (logged 0).dev.flag Reg.loupeCtrl 0 = false ∧
    ((logged 0).dev.rd Reg.errLogHead + 2 ^ 32 - (logged 0).dev.rd Reg.errLogTail) % 2 ^ 32 ≠ 256 ∧
    ((logged 256).dev.rd Reg.errLogHead + 2 ^ 32 - (logged 256).dev.rd Reg.errLogTail) % 2 ^ 32 = 256 := by decide

/-- A Loupe message for stroke 5 has arrived at a stroke. -/
def loupeMsg (now : Nat) : State :=
  on (fun d => { d.wr Reg.tbStroke now with fil := { d.fil with rx := [⟨6, 1, 0xFFFF, 0, 0, [5, 0, 0, 0, 0, 0, 0, 0], 0, 0⟩] } })

theorem wit_LoupeAndLog_3 :
    [4, 5].all (fun now => match (loupeMsg now).dev.filTake 6 with
      | (some m, _) => decide (Safety.Operating (loupeMsg now) ∧ (loupeMsg now).dev.obs.pending = none ∧
          ((loupeMsg now).dev.stroke < leNat (m.data.take 8) ↔ now = 4) ∧ (loupeMsg now).dev.obs.armed = true)
      | _ => false) = true := by decide

/-- A snapshot of the state after reset is held, and the host port has a register selected. -/
def shadowed (sel : Nat) : State :=
  on (fun d => { d.modBus .host (fun x => { x with loupeSel := sel }) with snap := some d.toBlocks })

theorem wit_LoupeShadows_1 :
    Safety.Writable State.reset .i3c ∧ (0x0FFFFFFF : W32).toNat < 2 ^ 28 ∧
    Safety.Operating (shadowed (Reg.fabPortCntDown 5)) ∧ (shadowed (Reg.fabPortCntDown 5)).dev.reaches .host = true ∧
    (∃ r i j b, regAt ((shadowed (Reg.fabPortCntDown 5)).dev.bus .host).loupeSel = some (r, i, j) ∧ r.hasShadow = true ∧ (shadowed (Reg.fabPortCntDown 5)).dev.snap = some b) :=
  ⟨by decide, by decide, by decide, by decide, _, _, _, _, rfl, by decide, rfl⟩

theorem wit_LoupeShadows_2 :
    (∀ r i j, regAt ((shadowed 0x4).dev.bus .host).loupeSel = some (r, i, j) → r.hasShadow = false) ∧
    ∃ r i j, regAt (Reg.ringStarve 4095) = some (r, i, j) ∧ r.wide = false :=
  ⟨(by intro r i j h; rw [show regAt ((shadowed 0x4).dev.bus .host).loupeSel = none from by decide] at h; cases h), _, _, _, rfl, by decide⟩

/-! Rings and their arbiter. -/

theorem wit_RingEnable :
    (let s := on (live 63)
     Safety.Writable s .host ∧ 4095 < 4096 ∧ bitOf (0x3F01 : W32).toNat 0 = true ∧ Safety.Fits (Reg.ringCtrl 4095) (0x3F01 : W32).toNat ∧
     s.dev.ringLocked 4095 = false ∧ (s.dev.ctx (bitsOf (0x3F01 : W32).toNat 13 8)).mode = .live ∧ bitsOf (0x3F01 : W32).toNat 2 1 ≠ 3 ∧
     (bitsOf (0x3F01 : W32).toNat 2 1 = 2 → s.dev.captureRing = none)) ∧
    (Safety.Writable State.reset .i3c ∧ Safety.Fits (Reg.ringCtrl 0) (1 : W32).toNat ∧ bitOf (State.reset.dev.rd (Reg.ringCtrl 0)) 0 = false ∧
     (State.reset.dev.ctx (bitsOf (1 : W32).toNat 13 8)).mode ≠ .live) ∧
    (Safety.Fits (Reg.ringCtrl 0) (7 : W32).toNat ∧ bitsOf (7 : W32).toNat 2 1 = 3) ∧
    (let s := on (fun d => (ringOn 0 d).wr (Reg.ringCtrl 0) 5)
     Safety.Fits (Reg.ringCtrl 1) (5 : W32).toNat ∧ bitOf (s.dev.rd (Reg.ringCtrl 1)) 0 = false ∧ bitsOf (5 : W32).toNat 2 1 = 2 ∧
     s.dev.captureRing.isSome = true) := by decide

theorem wit_PriorityChangeAndDisable :
    let s := on (ringOn 4095)
    Safety.Writable s .host ∧ 4095 < 4096 ∧ 7 < 8 ∧ Safety.Fits (Reg.ringCtrl 4095) (s.dev.rd (Reg.ringCtrl 4095)) := by decide

theorem wit_DoorbellsAndFetch_1 :
    let s := on (fun d => (ringOn 4095 d).wr (Reg.ringSize 4095) 0)
    Safety.Writable s .host ∧ (65535 : W32).toNat < 2 ^ 16 ∧ s.dev.isCommandRing 4095 = true ∧
    (1 + 65536 - s.dev.rd (Reg.ringSqHead 4095)) % 65536 ≤ 2 ^ s.dev.fld (Reg.ringSize 4095) 3 0 ∧
    (s.dev.rd (Reg.ringSqTail 4095) + 65536 - s.dev.rd (Reg.ringSqHead 4095)) % 65536 ≤ (1 + 65536 - s.dev.rd (Reg.ringSqHead 4095)) % 65536 ∧
    ¬ (2 + 65536 - s.dev.rd (Reg.ringSqHead 4095)) % 65536 ≤ 2 ^ s.dev.fld (Reg.ringSize 4095) 3 0 := by decide

/-- Ring 4095 has one command submitted, at index 65535, that the host has stored. -/
def submitted : State := on (fun d => regs [(Reg.ringSqHead 4095, 65535), (Reg.ringSqTail 4095, 0)] (ringOn 4095 d))

theorem wit_DoorbellsAndFetch_2 :
    let s := submitted
    let seq := s.dev.rd (Reg.ringSqHead 4095)
    let f (host : HostStores) : Dev := { s.dev with hostMem := host.foldl (fun m e => memSet m e.1 e.2) s.dev.hostMem }
    let cmd (host : HostStores) := memRead (f host).hostMem (s.dev.sqAddr 4095 seq) 64
    let e (host : HostStores) := ((f host).wr (Reg.ringSqHead 4095) ((seq + 1) % 65536)).modRing 4095
      (fun x => { x with ended := x.ended.filter (fun e => e.1 ≠ seq) })
    Safety.Operating s ∧ s.dev.isCommandRing 4095 = true ∧ s.dev.flag (Reg.ringSqBase 4095) 0 = false ∧
    s.dev.rd (Reg.ringSqTail 4095) = (seq + 1) % 65536 ∧ s.dev.inWindow 4095 seq = true ∧ seq ∉ (s.dev.ring 4095).cancelled ∧
    ((e []).badCmd 4095 seq (cmd []) = false ∧
      Safety.HeadsAtRest ((e []).modRing 4095 (fun x => { x with fetched := x.fetched ++ [(seq, cmd [])] }))) ∧
    ((e [(960, 0xFF)]).badCmd 4095 seq (cmd [(960, 0xFF)]) = true ∧
      Safety.HeadsAtRest ((e [(960, 0xFF)]).endUngranted 4095 seq (cmd [(960, 0xFF)]) 0xB3)) := by decide

/-- Ring 4095 holds a fetched command. -/
def fetched (c : List Byte) : State := on (fun d => (ringOn 4095 d).modRing 4095 (fun x => { x with fetched := [(65535, c)] }))

theorem wit_GrantsAndPromotion_1 :
    (let s := fetched (cmd 0 [])
     Safety.Operating s ∧ Safety.HeadsAtRest s.dev ∧ s.dev.grantee = some 4095 ∧ (s.dev.ring 4095).fetched = (65535, cmd 0 []) :: [] ∧
     (s.dev.ring 4095).promoted = false ∧ cmdStage (cmd 0 []) = none ∧ cmdOp (cmd 0 []) ∉ [1, 2, 7] ∧ s.dev.job? 4095 65535 = none) ∧
    (let s := fetched (cmd 2 [])
     Safety.HeadsAtRest s.dev ∧ s.dev.grantee = some 4095 ∧ (s.dev.ring 4095).fetched = (65535, cmd 2 []) :: [] ∧ cmdStage (cmd 2 []) = none ∧
     cmdOp (cmd 2 []) ∈ [1, 2] ∧ (s.dev.ctx (s.dev.ringCtx 4095)).occs = [] ∧ s.dev.job? 4095 65535 = none) ∧
    (Safety.Operating State.reset ∧ Safety.HeadsAtRest State.reset.dev ∧ State.reset.dev.grantee = none) := by decide

/-- A record of an ended command. -/
def record : Record := ⟨1, 2, 0, 1, false, false, 3, 4, 5⟩

theorem wit_GrantsAndPromotion_2 :
    (let s := on (fun d => (regs [(Reg.ringStarve 4095, 65535), (Reg.ringCtrl 4095, 0x71)] d).modRing 4095 (fun x => { x with starve := 256 * 65535 }))
     s.dev.fld (Reg.ringStarve 4095) 15 0 ≠ 0 ∧ s.dev.fld (Reg.ringCtrl 4095) 6 4 ≠ 0 ∧
     256 * s.dev.fld (Reg.ringStarve 4095) 15 0 ≤ (s.dev.ring 4095).starve) ∧
    (on (regs [(Reg.ringStarve 4095, 0)])).dev.fld (Reg.ringStarve 4095) 15 0 = 0 ∧
    (let s := on (fun d => (ringOn 4095 d).modRing 4095 (fun x => { x with hold := [record] }))
     Safety.Operating s ∧ (s.dev.ring 4095).hold = record :: [] ∧ s.dev.cqFull 4095 = false ∧ s.dev.flag (Reg.ringCqBase 4095) 0 = false ∧
     s.dev.flag (Reg.ringCtrl 4095) 27 = false ∧
     Safety.HeadsAtRest ((s.dev.modRing 4095 (fun y => { y with hold := [] })).wr (Reg.ringCqHead 4095) 1)) ∧
    (on (regs [(Reg.ringCqHead 4095, 16)])).dev.cqFull 4095 = true := by decide

theorem wit_CancelAndCompletion_1 :
    (let s := on (fun d => granted 4095 65535 (cmd 0 []) (ringOn 4095 d))
     Safety.Writable s .host ∧ 65535 < 2 ^ 16 ∧ s.dev.fld (Reg.ringCtrl 4095) 2 1 = 0 ∧
     (s.dev.ring 4095).fetched.find? (fun f => f.1 = 65535) = none ∧ (s.dev.job? 4095 65535).isSome = true) ∧
    (on (regs [(Reg.ringCtrl 0, 5)])).dev.fld (Reg.ringCtrl 0) 2 1 ≠ 0 ∧
    (let s := State.reset
     s.dev.fld (Reg.ringCtrl 0) 2 1 = 0 ∧ s.dev.isPending 0 0 = false ∧ (s.dev.ring 0).ended.any (fun e => e.1 = 0) = false ∧
     (s.dev.rd (Reg.ringSqTail 0) + 65536 - s.dev.rd (Reg.ringSqHead 0)) % 65536 ≤ (0 + 65536 - s.dev.rd (Reg.ringSqHead 0)) % 65536) ∧
    (let s := fetched (cmd 0 [])
     Safety.Writable s .i3c ∧ s.dev.fld (Reg.ringCtrl 4095) 2 1 = 0 ∧
     (s.dev.ring 4095).fetched.find? (fun f => f.1 = 65535) = some (65535, cmd 0 []) ∧ cmdStage (cmd 0 []) = none ∧
     Safety.HeadsAtRest (((s.dev.modRing 4095 (fun x => { x with fetched := x.fetched.filter (fun f => f.1 ≠ 65535) })).endUngranted 4095 65535
       (cmd 0 []) 0xB1).wr (Reg.ringCancelStatus 4095) (65536 + 65535))) := by decide

theorem wit_CancelAndCompletion_2 :
    let s := on (granted 4095 65535 (cmd 0 []))
    ∃ j, Safety.Operating s ∧ s.dev.takes 4095 65535 0 = some j ∧ j.occ = none ∧ (s.dev.ctx j.ctx).stagePins = [] :=
  ⟨_, by decide, rfl, by decide, by decide⟩

/-! Buffer pools. -/

/-- Class 7 with a word in each partition, the pool enabled, and context 0 live. -/
def pools : State :=
  on (fun d => regs [(Reg.poolCtrl, 3), (Reg.poolTagBase, 0), (Reg.migKvSeqBase, 0x400000), (Reg.poolClassBase 7, 0x10000000), (Reg.poolClassPart 7, 0x0001000100010001),
                     (Reg.poolClassBase 0, 0x8000000), (Reg.poolClassPart 0, 0x0001000100010001)] (live 0 d))

/-- One buffer of 4 MiB allocated in a partition. -/
def oneBuf (p : Nat) : State := pools.onDev (pools.dev.alloc 4194304 p 0 7).2

/-- Its pointer. -/
def bufPtr (p : Nat) : Nat := (pools.dev.alloc 4194304 p 0 7).1

/-- Class 7's first word is full. -/
def fullWord : State := pools.onDev (pools.dev.modClass 7 (fun c => { c with words := [(0, BitVec.allOnes 64)] }))

theorem wit_PoolPicksLowestFree :
    pools.dev.poolPick 7 3 = some 192 ∧ fullWord.dev.poolPick 7 0 = none ∧ fullWord.dev.partFirst 7 0 ≤ 63 / 64 ∧
    63 / 64 < fullWord.dev.partFirst 7 0 + fullWord.dev.partWords 7 0 ∧ classFor 4194304 = some 7 ∧ classFor 0 = some 0 ∧
    classFor 4194305 = none := by decide

/-- A granted command beside the pools. -/
def poolJob (s : State) (c : List Byte) : State := s.onDev (granted 4095 65535 c s.dev)

theorem wit_PoolAllocAndFree_1 :
    (Safety.Operating pools ∧ pools.dev.flag Reg.poolCtrl 0 = true ∧ (pools.dev.ctx 0).mode ≠ .tearing ∧ classFor 4194304 = some 7 ∧
      pools.dev.poolPick 7 0 = some 0 ∧ pools.dev.poolPick 7 2 = some 128) ∧
    (State.reset.dev.flag Reg.poolCtrl 0 = false) ∧ fullWord.dev.poolPick 7 0 = none ∧
    (pools.onDev (pools.dev.modCtx 1 (fun x => { x with mode := .tearing }))).dev.flag Reg.poolCtrl 0 = true ∧
    ((pools.dev.modCtx 1 (fun x => { x with mode := .tearing })).ctx 1).mode = .tearing := by decide

/-- POOL_ALLOC of SIZE bytes in partition 3 with SUB 7. -/
def allocCmd (size : Nat) : List Byte := cmd 5 (List.replicate 16 0 ++ toLe 4 size ++ toLe 4 (3 * 65536 + 7))

theorem wit_PoolAllocAndFree_2 :
    let s := poolJob pools (allocCmd 4194304)
    ∃ j, s.dev.takes 4095 65535 5 = some j ∧ j.occ = none ∧ fldOf j.cmd 28 17 16 = 3 ∧ 1 ≤ fldOf j.cmd 24 22 0 ∧
      fldOf j.cmd 24 22 0 ≤ 4194304 ∧ (s.dev.alloc (fldOf j.cmd 24 22 0) 3 j.ctx (fldOf j.cmd 28 15 0)).2.job? 4095 65535 = some j :=
  ⟨_, rfl, by decide, by decide, by decide, by decide, by decide⟩

theorem wit_PoolAllocAndFree_3 :
    (Safety.Operating (oneBuf 3) ∧ (oneBuf 3).dev.checkFree (bufPtr 3) none = .inr (7, 192) ∧ tagPart ((oneBuf 3).dev.tag 7 192) ≠ 1) ∧
    (oneBuf 3).dev.checkFree (bufPtr 3) (some 0) = .inr (7, 192) ∧
    (oneBuf 3).dev.checkFree 0 none = .inl 0x51 ∧ 0 ∉ (oneBuf 3).dev.pool.reclaimed ∧
    (let s := pools.onDev { pools.dev with pool := { pools.dev.pool with reclaimed := [0x10000000] } }
     s.dev.checkFree 0x10000000 none = .inl 0x53 ∧ 0x10000000 ∈ s.dev.pool.reclaimed) := by decide

theorem wit_PoolAllocAndFree_4 :
    let s := poolJob (oneBuf 3) (cmd 6 (List.replicate 24 0 ++ toLe 8 (bufPtr 3)))
    ∃ j, s.dev.takes 4095 65535 6 = some j ∧ j.occ = none ∧ s.dev.checkFree (fldOf j.cmd 32 47 0) (some j.ctx) = .inr (7, 192) ∧
      (s.dev.freeBuf 7 192).job? 4095 65535 = some j := ⟨_, rfl, by decide, by decide, by decide⟩

/-- Two buffers of class 7 of context 0, in partitions 1 and 3. -/
def twoBufs : State := (oneBuf 1).onDev ((oneBuf 1).dev.alloc 4194304 3 0 9).2

theorem wit_ReclaimAuditRebuild_1 :
    Safety.Operating twoBufs ∧ Safety.PoolPlaced twoBufs ∧ (twoBufs.dev.classWords 7 = 4 ∧ 192 < 64 * twoBufs.dev.classWords 7) ∧
    twoBufs.dev.allocated 7 = [64, 192] ∧ [64, 192].map (Safety.reclaimed twoBufs (.context 0) 7) = [true, true] ∧
    [64, 192].map (Safety.reclaimed twoBufs (.sequence 0 7) 7) = [true, false] ∧ Safety.reclaimed twoBufs (.context 0) 7 65 = false ∧
    (tagPart ((oneBuf 2).dev.tag 7 128) = 2 ∧ Safety.reclaimed (oneBuf 2) (.context 0) 7 128 = true) := by decide

/-- The auditor is on. It finds, in class 7: buffer 0 with a bit and no tag, buffer 128 of a hardware owner not seen before; with
RECLAIM or without. -/
def audited (act : Nat) : State :=
  let s := oneBuf 2
  s.onDev ((s.dev.wr Reg.poolCtrl (3 + 4 * act)).setMapBit 7 0 1)

/-- The tag's context is gone. -/
def deadOwner : State := (oneBuf 3).onDev ((oneBuf 3).dev.modCtx 0 (fun _ => {}))

/-- A hardware buffer that the auditor saw once already. -/
def staleBuf : State := (oneBuf 2).onDev ((oneBuf 2).dev.setTag 7 128 (setBits ((oneBuf 2).dev.tag 7 128) 30 30 1))

set_option maxRecDepth 8000 in
theorem wit_ReclaimAuditRebuild_2 :
    State.reset.dev.flag Reg.poolCtrl 1 = false ∧
    [audited 0, audited 1, deadOwner, staleBuf, oneBuf 3].all (fun s => decide (Safety.Operating s ∧ s.dev.flag Reg.poolCtrl 1 = true ∧
      Safety.PoolPlaced s ∧ Safety.SlotsApart s)) = true ∧
    ((audited 0).dev.audit 7 0 = .mismatch ∧ Safety.leaked (audited 0) 7 0 = true ∧ (audited 0).dev.flag Reg.poolCtrl 2 = false) ∧
    ((audited 1).dev.audit 7 0 = .mismatch ∧ Safety.audited (audited 1) 7 0 = true ∧ (audited 1).dev.flag Reg.poolCtrl 2 = true) ∧
    ((audited 1).dev.audit 7 128 = .mark ∧ Safety.audited (audited 1) 7 128 = true) ∧
    (deadOwner.dev.audit 7 192 = .dead ∧ Safety.leaked deadOwner 7 192 = true) ∧
    (staleBuf.dev.audit 7 128 = .stale ∧ Safety.leaked staleBuf 7 128 = true) ∧
    ((oneBuf 3).dev.audit 7 192 = .fine ∧ Safety.audited (oneBuf 3) 7 192 = true ∧ Safety.audited (oneBuf 3) 7 191 = false) := by decide

set_option maxRecDepth 8000 in
theorem wit_ReclaimAuditRebuild_3 :
    0 < (pools.dev.poolClass 7).spares ∧ pools.dev.pool.classes.length = 8 ∧ 1023 ∉ (pools.dev.poolClass 7).bad ∧
    (let d := pools.dev.modClass 0 (fun c => { c with spares := 0 }); (d.poolClass 0).spares = 0 ∧ 1023 ∉ (d.poolClass 0).bad) ∧
    (let d := pools.dev.modClass 0 (fun c => { c with spares := 0, bad := [1023] }); (d.poolClass 0).spares = 0 ∧ 1023 ∈ (d.poolClass 0).bad) := by
  decide

/-! Optical ports. -/

/-- Port 5 in a state. -/
def portIn (st : PortState) : State := on (port 5 (fun p => { p with st := st }))

theorem wit_PortTrainingAndLoss_1 :
    (Safety.Writable State.reset .host ∧ 5 < 6 ∧ Safety.Fits (Reg.fabPortCtrl 5) (State.reset.dev.rd (Reg.fabPortCtrl 5)) ∧
      State.reset.dev.flag (Reg.fabPortCtrl 5) 0 = false ∧ (State.reset.dev.optPort 5).st = .disabled ∧ State.reset.dev.holds (584 + 5) = 0) ∧
    (Safety.Operating (portIn .wake) ∧ ((portIn .wake).dev.optPort 5).st = .wake ∧ 4 ≤ (lanesOf 15).length) ∧
    ((portIn .lock).dev.optPort 5).st = .lock ∧ ((portIn .retrain).dev.optPort 5).st = .retrain ∧
    (let s := (portIn .failed).onDev ((portIn .failed).dev.wr (Reg.fabPortCtrl 5) 5)
     (s.dev.optPort 5).st = .failed ∧ s.dev.flag (Reg.fabPortCtrl 5) 2 = true ∧ (s.dev.optPort 5).sticky = false ∧ s.dev.holds (584 + 5) = 0 ∧
      s.dev.glb.stopped = false) ∧
    ((portIn .dark).dev.optPort 5).st ≠ .wake ∧ ((portIn .dark).dev.optPort 5).st ≠ .lock ∧ ((portIn .dark).dev.optPort 5).st ≠ .retrain ∧
    ((portIn .dark).dev.optPort 5).st ≠ .failed := by decide

theorem wit_PortTrainingAndLoss_2 :
    (Safety.Operating (portIn .retrain) ∧ (portIn .retrain).dev.mgmt.run = none ∧ ((portIn .retrain).dev.optPort 5).st ∈ [.lock, .exchange, .retrain] ∧
      ((portIn .quarantine).dev.optPort 5).st ∈ [.lock, .exchange, .quarantine, .active, .retrain]) ∧
    (let s := (portIn .active).onDev ((portIn .active).dev.wr (Reg.fabPortCtrl 5) 5)
     Safety.Writable s .i3c ∧ Safety.Fits (Reg.fabPortCtrl 5) (s.dev.rd (Reg.fabPortCtrl 5)) ∧ s.dev.flag (Reg.fabPortCtrl 5) 0 = true ∧
     (s.dev.optPort 5).st ≠ .disabled) := by decide

/-- A data cell with LSEQ n. -/
def dataCell (n : Nat) : Cell := { cellOf 256 with link := BitVec.ofNat 32 n }

/-- Port 5 active, with something of its own. -/
def activePort (f : OptPort → OptPort) : State := on (port 5 (fun p => f { p with st := .active }))

theorem wit_LinkSendAndRetry_1 :
    let s := activePort (fun p => { p with expect := 4095 })
    let c := dataCell 4095
    let e := activePort (fun p => { p with episode := true })
    (Safety.Operating s ∧ (s.dev.optPort 5).st = .active ∧ bitsOf c.link.toNat 26 25 = 0 ∧ bitsOf c.link.toNat 31 28 = 0 ∧
      (s.dev.optPort 5).beatIn = [] ∧ bitOf c.link.toNat 27 = false ∧ bitOf c.link.toNat 24 = false) ∧
    bitsOf c.link.toNat 11 0 = (s.dev.optPort 5).expect ∧
    (bitsOf c.link.toNat 11 0 ≠ (e.dev.optPort 5).expect ∧ (e.dev.optPort 5).episode = true) ∧
    ((portIn .active).dev.optPort 5).episode = false ∧ bitsOf c.link.toNat 11 0 ≠ ((portIn .active).dev.optPort 5).expect ∧
    ((portIn .retrain).dev.optPort 5).st ≠ .active := by decide

/-- A cell of the router with LSEQ n behind it. -/
def linkCell (n : Nat) : QCell := ⟨dataCell n, 5, false⟩

/-- An idle cell: no ACK, or the ACK of an LSEQ, and a NAK or not. -/
def idleCell (ack : Option Nat) (nak : Nat) : Cell :=
  { cellOf 256 with link := BitVec.ofNat 32 (2 ^ 25 + (match ack with | some a => 2 ^ 27 + a * 2 ^ 12 | none => 0) + nak * 2 ^ 24) }

set_option maxRecDepth 8000 in
theorem wit_LinkSendAndRetry_2 :
    (let s := activePort (fun p => { p with peerSeen := true, accepted := some 4095 })
     s.dev.glb.stopped = false ∧ (s.dev.optPort 5).asked = false ∧ (s.dev.optPort 5).peerSeen = true ∧
     (s.dev.optPort 5).accepted = some 4095 ∧ (s.dev.optPort 5).markPos = none ∧ (s.dev.optPort 5).replay = [] ∧
     (s.dev.optPort 5).retry.length < 512 ∧ tabGet [] s.dev.router.vc0 5 = [] ∧ tabGet [] s.dev.router.bulk 5 = []) ∧
    (let s := on (fun d => { d with router := { d.router with bulk := [(5, [linkCell 0])] } })
     tabGet [] s.dev.router.vc0 5 = [] ∧ tabGet [] s.dev.router.bulk 5 = linkCell 0 :: [] ∧ (linkCell 0).cell.gold = false) ∧
    ((activePort (fun p => { p with replay := [(4095, linkCell 1)] })).dev.optPort 5).replay = (4095, linkCell 1) :: [] := by decide

set_option maxRecDepth 8000 in
theorem wit_LinkSendAndRetry_3 :
    (({ damaged := true } : RxQuality).damaged = true ∧ bitsOf (dataCell 0).link.toNat 26 25 = 0 ∧ bitsOf (idleCell none 0).link.toNat 26 25 ≠ 0) ∧
    [idleCell none 0, idleCell (some 4095) 0, idleCell none 1].all (fun c =>
      decide (bitsOf c.link.toNat 26 25 = 1 ∧ bitsOf c.link.toNat 31 28 = 0)) = true ∧
    (bitOf (idleCell none 0).link.toNat 27 = false ∧ bitOf (idleCell none 0).link.toNat 24 = false) ∧
    (bitOf (idleCell (some 4095) 0).link.toNat 27 = true ∧ bitOf (idleCell (some 4095) 0).link.toNat 24 = false ∧
      bitsOf (idleCell (some 4095) 0).link.toNat 23 12 = 4095) ∧
    (let s := activePort (fun p => { p with retry := [(4094, linkCell 0), (4095, linkCell 1), (0, linkCell 2)] })
     (s.dev.optPort 5).retry = [(4094, linkCell 0)] ++ (4095, linkCell 1) :: [(0, linkCell 2)] ∧ (∀ e ∈ [(4094, linkCell 0)], e.1 ≠ 4095) ∧
     (s.dev.optPort 5).beatIn = []) ∧
    (∀ e ∈ ((activePort id).dev.optPort 5).retry, e.1 ≠ 4095) ∧
    (bitOf (idleCell none 1).link.toNat 27 = false ∧ bitOf (idleCell none 1).link.toNat 24 = true) := by decide

set_option maxRecDepth 8000 in
theorem wit_LinkSendAndRetry_4 :
    [(false, none), (false, some 4095), (true, some 4095)].all (fun e =>
      let s := activePort (fun p => { p with retry := [(4095, linkCell 0)], asked := e.1, replayFrom := e.2, peerSeen := true })
      decide (Safety.Operating s ∧ (s.dev.optPort 5).st = .active ∧ (s.dev.optPort 5).retry = (4095, linkCell 0) :: [] ∧
        (s.dev.optPort 5).asked = e.1 ∧ (s.dev.optPort 5).replayFrom = e.2 ∧ (s.dev.optPort 5).peerSeen = true)) = true ∧
    ((portIn .retrain).dev.optPort 5).st ≠ .active := by decide

/-- A training block that shows sweep word w. -/
def sweepBlock (w : Nat) : List Byte := List.replicate 12 0 ++ toLe 4 w ++ List.replicate 16 0

theorem wit_RetrainAndQuarantine_1 :
    (Safety.Operating (activePort (fun p => { p with accepted := some 4095 })) ∧
      ∀ a, ((activePort (fun p => { p with accepted := some 4095 })).dev.optPort 5).accepted = some a → a < 4096) ∧
    ([1023, 15].all (fun lanes =>
      let s := activePort (fun p => { p with txActive := lanes, rxActive := lanes, rxLocked := lanes, txRetired := 1023 - lanes })
      decide (Safety.Operating s ∧ s.dev.mgmt.run = none ∧ bitOf (s.dev.optPort 5).rxActive 3 = true ∧ bitOf (s.dev.optPort 5).txActive 3 = true ∧
        (s.dev.optPort 5).asked = false ∧
        (4 ≤ (lanesOf (lanesBut (s.dev.optPort 5).rxLocked (setBits (s.dev.optPort 5).rxRetired 3 3 1))).length ↔ lanes = 1023) ∧
        (4 ≤ (lanesOf (lanesBut 0x3FF (setBits (s.dev.optPort 5).txRetired 3 3 1))).length ↔ lanes = 1023)))) = true :=
  ⟨⟨by decide, fun a h => by
      rw [show ((activePort (fun p => { p with accepted := some 4095 })).dev.optPort 5).accepted = some 4095 from by decide] at h
      cases h; decide⟩, by decide⟩

/-- A training block of EXCHANGE (Table 7.4): its first word, PLACE, lanes and width, sweep word, STAMP and TURN. -/
def exBlock (w0 place lanes sweep : Nat) : List Byte :=
  toLe 4 w0 ++ toLe 4 place ++ toLe 4 lanes ++ toLe 4 sweep ++ toLe 4 0 ++ toLe 4 1 ++ toLe 8 0

/-- Port 5 in EXCHANGE on a device of a place, all lanes locked. -/
def exchanging (self : Nat) (f : OptPort → OptPort) : State :=
  on (fun d => (d.wr Reg.fabRtSelf self).modPort 5 (fun p => f { p with st := .exchange, rxLocked := 1023 }))

/-- All ten lanes good in both directions, and a width. -/
def lanesWord (w : Nat) : Nat := 1023 + 1023 * 2 ^ 10 + w * 2 ^ 20

/-- A peer's first word: version 1, router port 4, a REQ. -/
def peerWord (req : Nat) : Nat := req * 16 + 0x100 + 4 * 2 ^ 24

theorem wit_RetrainAndQuarantine_3 :
    [(exBlock (5 * 2 ^ 24) 4096 0 0, 1), (exBlock (4 * 2 ^ 24) 4096 0 0, 1), (exBlock (peerWord 0) 4096 (lanesWord 8) 0, 1),
     (exBlock (peerWord 0) 4096 (7 + lanesWord 8 - 1023) 0, 1)].all (fun e =>
      decide (Safety.InExchange (exchanging 0 id) 5 e.1 ∧ (exchanging 0 id).dev.leads 5 e.1 = true)) = true ∧
    (exchanging 8192 id).dev.leads 5 (exBlock (peerWord 3) 4096 (lanesWord 8) 0) = false ∧
    (fldOf (exBlock (5 * 2 ^ 24) 4096 0 0) 0 26 24 ≠ 5 / 2 * 2 + (1 - 5 % 2)) ∧
    (fldOf (exBlock (4 * 2 ^ 24) 4096 0 0) 0 26 24 = 5 / 2 * 2 + (1 - 5 % 2) ∧
      Safety.sameVersion (exchanging 0 id) (exBlock (4 * 2 ^ 24) 4096 0 0) = false) ∧
    (let b := exBlock (peerWord 0) 4096 (lanesWord 8) 0
     Safety.sameVersion (exchanging 0 id) b = true ∧ 720000 < oneWayPs b 1730 ∧ Safety.Linkable (exchanging 0 id) 5 b 1729 ∧
     Safety.linkWidth (exchanging 0 id) 5 b = 8) ∧
    (let b := exBlock (peerWord 0) 4096 (7 + lanesWord 8 - 1023) 0
     Safety.Linkable (exchanging 0 id) 5 b 1 ∧ Safety.linkWidth (exchanging 0 id) 5 b = 0) := by decide

theorem wit_RetrainAndQuarantine_4 :
    let final (place sweep : Nat) := exBlock (peerWord 3) place (lanesWord 8) sweep
    let s := exchanging 0 (fun p => { p with req := 3, width := 8, peerPlace := some 4096 })
    (Safety.InExchange s 5 (final 4096 0x20000) ∧ Safety.Linkable s 5 (final 4096 0x20000) 1 ∧ s.dev.leads 5 (final 4096 0x20000) = true ∧
      Safety.linkWidth s 5 (final 4096 0x20000) ≠ 0 ∧ fldOf (final 4096 0x20000) 0 5 4 = 3 ∧ (s.dev.optPort 5).req = 3 ∧
      fldOf (final 4096 0x20000) 8 23 20 = (s.dev.optPort 5).width) ∧
    ((s.dev.optPort 5).peerPlace = some (fldOf (final 4096 0x20000) 4 31 0) ∧ bitOf (fldOf (final 4096 0x20000) 12 31 0) 17 = true ∧
      sweepAbove (s.dev.rd Reg.fabSweep) s.dev.glb.sweepDone = false ∧ bitOf (fldOf (final 4096 0x20000) 12 16 0) 16 = false) ∧
    (bitOf (fldOf (final 4096 0x30000) 12 16 0) 16 = true ∧ (s.dev.optPort 5).peerPlace ≠ some (fldOf (final 8192 0x20000) 4 31 0)) ∧
    (let f := exchanging 8192 id
     let b := final 4096 0x20000
     Safety.InExchange f 5 b ∧ Safety.Linkable f 5 b 1 ∧ f.dev.leads 5 b = false ∧ Safety.linkWidth f 5 b ≠ 0 ∧ fldOf b 0 5 4 = 3) ∧
    (let f := exchanging 8192 (fun p => { p with req := 3, width := 8, decided := some (final 4096 0x20000) })
     Safety.Operating f ∧ f.dev.mgmt.run = none ∧ (f.dev.optPort 5).st = .exchange ∧ (f.dev.optPort 5).decided = some (final 4096 0x20000) ∧
     fldOf (exBlock 6 4096 0 0) 0 3 0 ≠ 4) := by decide

theorem wit_RetrainAndQuarantine_2 :
    let s := (portIn .quarantine).onDev ((portIn .quarantine).dev.wr Reg.fabSweep 0x10001)
    (Safety.Operating s ∧ (s.dev.optPort 5).st = .quarantine ∧ (s.dev.optPort 5).asked = false ∧ fldOf (sweepBlock 0x10001) 0 5 4 ≠ 1 ∧
      fldOf (sweepBlock 0x10001) 0 5 4 ≠ 2 ∧ sweepAbove (fldOf (sweepBlock 0x10001) 12 16 0) (s.dev.optPort 5).e0 = true ∧
      sweepAbove (s.dev.rd Reg.fabSweep) (s.dev.optPort 5).e0 = true) ∧
    sweepAbove (fldOf (sweepBlock 0x10000) 12 16 0) (s.dev.optPort 5).e0 = false ∧
    (Safety.Writable s .host ∧ Safety.Fits Reg.fabSweep (0x1FFFF : W32).toNat ∧ s.dev.fld Reg.fabSweep 15 0 ≤ bitsOf (0x1FFFF : W32).toNat 15 0) := by
  decide

/-! Carats. -/

/-- A core's request waits. -/
def asking (n : Nat) : State := on (fun d => { d with pwr := { d.pwr with waiting := [⟨575, 1, n, none⟩], held := [(3, 24)] } })

theorem wit_GrantsStayWithinBudgets :
    Safety.Operating (asking 24) ∧ ((asking 24).dev.pwr.held.map (·.1)).Nodup ∧
    (∀ q, q < 5 → (asking 24).dev.heldAgainst q ≤ (asking 24).dev.rd (Reg.pwrBudgetOf q)) ∧
    (asking 24).dev.heldAll + (asking 24).dev.reservedLeft ≤ (asking 24).dev.devBudget := by decide

/-- An optical engine asks in DARK, and a core of a runnable real-time context with a reservation. -/
def askingLight : State := on (fun d => { port 5 (fun p => { p with st := .dark }) d with pwr := { d.pwr with waiting := [⟨584 + 5, 1, 6, none⟩] } })

/-- A core asks for a runnable real-time context, whose reservation has carats left; the device budget is all reserved. -/
def askingReserved : State :=
  on (fun d => { (d.wr Reg.pwrDevBudget 24).modCtx 63 (fun x => { x with mode := .live, rt := true, runnable := true, resv := 24, resLeft := 24 }) with
    pwr := { d.pwr with waiting := [⟨575, 1, 24, some 63⟩] } })

theorem wit_PermitRows_2 :
    (let s := askingLight
     Safety.Operating s ∧ s.dev.glb.stopped = false ∧ (s.dev.optPort 5).st = .dark ∧ 6 ≤ s.dev.pwr.rampLeft ∧
     s.dev.heldAll + s.dev.reservedLeft + 6 ≤ s.dev.devBudget ∧ s.dev.heldAgainst 4 + 6 ≤ s.dev.rd Reg.pwrBudget4) ∧
    (let s := askingReserved
     Safety.Operating s ∧ s.dev.pwr.waiting = [⟨575, 1, 24, some 63⟩] ∧ s.dev.isRunnable 63 = true ∧ 24 ≤ (s.dev.ctx 63).resLeft ∧
     24 ≤ s.dev.pwr.rampLeft ∧ s.dev.heldAgainst (budgetOf 575) + 24 ≤ s.dev.rd (Reg.pwrBudgetOf (budgetOf 575)) ∧
     s.dev.devBudget < s.dev.heldAll + s.dev.reservedLeft + 24) := by decide

theorem wit_PermitRows :
    let s := asking 24
    (Safety.Operating s ∧ s.dev.pwr.waiting = [⟨575, 1, 24, none⟩] ∧ (575 < 584 ∨ 590 ≤ 575) ∧ 24 ≤ s.dev.pwr.rampLeft ∧
      s.dev.heldAll + s.dev.reservedLeft + 24 ≤ s.dev.devBudget ∧
      s.dev.heldAgainst (budgetOf 575) + 24 ≤ s.dev.rd (Reg.pwrBudgetOf (budgetOf 575))) ∧
    3 < 592 ∧ s.dev.mayReturn 3 = true ∧ s.dev.mayReturn 591 = true := by decide

/-! Cores. -/

/-- A program on core p whose slots stand at a local address. -/
def progAt (p x : Nat) : Prog :=
  { ring := 0, seq := 0, ctx := 0, pc := x, pcM := x, progLocal := 0, progAddr := 0, hlayer := 0, ordinal := 0, occ := none, assay := false,
    assayWidth := 0, gang := [p] }

/-- A program on core p, at local address 0. -/
def prog (p : Nat) : Prog := progAt p 0

/-- Core p runs program g, whose next instruction is bs. -/
def running (p : Nat) (g : Prog) (bs : List Byte) : State :=
  on (fun d => { (live 0 d).modCore p (fun c => { c with prog := some g }) with loc := memWrite [] (p * 2 ^ 22 + g.pc) bs })

/-- The word of a vector instruction (Table 3.8). -/
def vec (op sfmt dfmt src1 src2 dst count imm dev : Nat) : List Byte :=
  toLe 4 (op + 256 * sfmt + 4096 * dfmt) ++ toLe 4 src1 ++ toLe 4 src2 ++ toLe 4 dst ++ toLe 4 count ++ toLe 4 imm ++ toLe 8 dev

/-- END's bytes. -/
def endInsn : List Byte := vec 1 0 0 0 0 0 0 0 0

/-- An instruction in the scoreboard, before every other. -/
def issued (pend : Pend) (bs : List Byte) (writes : List (Nat × Nat)) : Issued :=
  { slot := .v, pc := 0, order := 0, insn := bs, reads := [], writes := writes, pend := pend }

/-- A program on core p past its first instruction, which waits in the scoreboard for a response and writes some local bytes. -/
def behind (p : Nat) (writes : List (Nat × Nat)) : Prog := { progAt p 32 with score := [issued .remote [] writes] }

set_option maxRecDepth 8000 in
theorem wit_IssueOrder_1 :
    Safety.insnRow (.vadd 575 {}) = some (575, 0x81, {}) ∧
    (let g := progAt 575 0x1C0000
     let s := running 575 g []
     Safety.Ready s 575 g ∧ s.dev.nextIn 575 g .v = none) ∧
    (let g := progAt 575 (0x1C0000 - 32)
     let s := running 575 g (vec 0x3F 0 0 0 0 0 0 0 0)
     Safety.Ready s 575 g ∧ s.dev.nextIn 575 g (opSlot 0x81) = some (0x1C0000 - 32) ∧ insnOp (s.dev.locRead 575 (0x1C0000 - 32) 32) ≠ 0x81 ∧
     s.dev.undefinedAt 575 g .v = some (0x1C0000 - 32)) ∧
    (let g := { progAt 575 (0x1C0000 - 32) with pc := 0x1C0000 - 64 }
     let s := running 575 g (vec 0x82 0 0 0 0 0 0 0 0 ++ vec 0x42 0 0 0 0 0 0 0 0)
     Safety.Ready s 575 g ∧ s.dev.nextIn 575 g .v = some (0x1C0000 - 64) ∧ insnOp (s.dev.locRead 575 (0x1C0000 - 64) 32) ≠ 0x81 ∧
     s.dev.undefinedAt 575 g .v = none ∧ s.dev.undefinedAt 575 g .m = some (0x1C0000 - 32)) ∧
    (let g := progAt 575 (0x1C0000 - 32)
     let s := running 575 g (vec 0x82 0 0 0 0 0 0 0 0)
     Safety.Ready s 575 g ∧ s.dev.nextIn 575 g .v = some (0x1C0000 - 32) ∧ insnOp (s.dev.locRead 575 (0x1C0000 - 32) 32) ≠ 0x81 ∧
     s.dev.undefinedAt 575 g .v = none ∧ s.dev.undefinedAt 575 g .m = none) := by decide

theorem wit_IssueOrder_2 :
    State.reset.dev.prog? 575 = none ∧ (on (fun d => { d with glb := { d.glb with lostAt := [(31, 1)] } })).dev.clocked 575 = false ∧
    (let g := { prog 575 with score := List.replicate 16 (issued .remote [] []) }
     (running 575 g []).dev.prog? 575 = some g ∧ 16 ≤ g.score.length) ∧
    (let bs := vec 0x81 0 0 0x1000 0x2000 0x3000 2 0 0
     let g := { progAt 575 32 with score := [issued (.clasp 65535 0) [] []] }
     let s := running 575 g bs
     Safety.Ready s 575 g ∧ s.dev.nextIn 575 g (opSlot 0x81) = some 32 ∧ s.dev.locRead 575 32 32 = bs ∧ insnOp bs = 0x81 ∧
     s.dev.heldBack 575 g (opSlot 0x81) 32 bs = true) ∧
    (let bs := vec 0x81 0 0 0x1000 0x2000 0x3000 2 0 0
     let s := running 575 (prog 575) bs
     Safety.Turn s 575 0x81 (prog 575) 0 bs ∧ ({ badLocal := some 31 } : Ecc).place = 0 ∧ 0 ≤ 31 ∧ 31 < 0 + 32) := by decide

theorem wit_IssueOrder_3 :
    (let s := running 575 (prog 575) endInsn
     Safety.Turn s 575 1 (prog 575) 0 endInsn ∧ (∀ b ∈ endInsn.drop 1, b = 0) ∧ (prog 575).score = [] ∧ s.dev.unissued 575 .v 0 = []) ∧
    (let bs := vec 1 0 0 0 0 0 0 0 (2 ^ 63); Safety.Turn (running 0 (prog 0) bs) 0 1 (prog 0) 0 bs ∧ ∃ b ∈ bs.drop 1, b ≠ 0) ∧
    (let g := behind 575 []
     Safety.Turn (running 575 g endInsn) 575 1 g 32 endInsn ∧ g.score ≠ []) := by decide

/-- The operations that map words, on core 575. -/
def mapRows : List Instr :=
  [.vcopy 575 {}, .vadd 575 {}, .vmul 575 {}, .vfma 575 {}, .vaxpy 575 {}, .vmax 575 {}, .vmin 575 {}, .vscale 575 {}, .vexp 575 {}, .vrcp 575 {}, .vrsqrt 575 {}, .vsilu 575 {},
   .vgelu 575 {}]

/-- The outcomes of a vector row on core 575: clear, a fault, a hazard. -/
def threeWays (op : Nat) (rule : VecInsn → VecRule) (bs odd : List Byte) (busy : Nat × Nat) : Bool :=
  let g := behind 575 [busy]
  let s := running 575 (prog 575) bs
  let t := running 575 g bs
  decide (Safety.Turn s 575 op (prog 575) 0 bs) && decide (Safety.Clear s 575 0 bs (rule (vecOf bs)) {}) &&
  decide (Safety.Turn (running 575 (prog 575) odd) 575 op (prog 575) 0 odd) && ((vecOf odd).fault (rule (vecOf odd))).isSome &&
  decide (Safety.Turn t 575 op g 32 bs) && t.dev.hazard 575 .v 32 (t.dev.rangesOf 575 bs)

theorem wit_VectorElementwise :
    mapRows.all (fun c => match Safety.mapRow c with
      | some (_, op, _, rule, _, _) =>
        let bs := vec op 0 0 0x1000 0x2000 0x3000 2 0 0
        threeWays op rule bs (vec op 0 0 0x1001 0 0 2 0 0) (0x3004, 1) &&
        meets (spansOf false (rule (vecOf bs)).spans) [(0x1007, 1)] && decide (0 + 32 ≤ 0x1007)
      | none => false) = true := by decide

theorem wit_VectorResults_1 :
    [(Instr.vrsum 575 {}, 0, 0, 2), (.vrmax 575 {}, 0, 0, 2), (.vdot 575 {}, 0xB, 0, 2), (.vcvt 575 {}, 0xA, 0xC, 2), (.vsel 575 {}, 0, 0, 32)].all
      (fun e => match Safety.resultRow e.1 with
        | some (_, op, _, rule, _) =>
          threeWays op rule (vec op e.2.1 e.2.2.1 0x1000 0x2000 0x3000 e.2.2.2 0 0) (vec op 1 1 0x1001 0 0 2 0 0) (0x3000, 1)
        | none => false) = true := by decide

/-- VKEEP of 64 coordinates at 0x1000 in granules, of which blocks 0 and 1 are listed. -/
def keepInsn : List Byte := vec 0x92 0 0 0x1000 0 0 64 0 0

/-- The stream that it reads. -/
def keepState : State :=
  let s := running 575 (prog 575) keepInsn
  s.onDev { s.dev with loc := memWrite s.dev.loc (575 * 2 ^ 22 + 0x1000) (streamOf 64 true [0, 1]) }

theorem wit_VectorResults_2 :
    Safety.Turn keepState 575 0x92 (prog 575) 0 keepInsn ∧
    Safety.Clear keepState 575 0 keepInsn (keepRule keepState.dev.toBlocks 575 (vecOf keepInsn)) {} ∧
    (∃ vs m, keepState.dev.stream 575 0x1000 (keepState.dev.locNat 575 (0x1000 + 2) 2) true none = .inr vs ∧
      keepMask 64 0x1000 vs 0 0 = .inr m) ∧ keepMask 64 0 [0, 511] 0 0 = .inr (1 ||| (1 <<< 255)) := ⟨by decide, by decide, ⟨_, _, rfl, rfl⟩, by decide⟩

/-- CLWAIT of Clasp 65535 into 0x1000. -/
def clwaitInsn : List Byte := vec 2 0 0 0 0 0x1000 0 65535 0

/-- Core 575 at a CLWAIT, with Clasps closed here. -/
def waiting (closed : List (Nat × Nat)) : State :=
  let s := running 575 (prog 575) clwaitInsn
  s.onDev { s.dev with tb := { s.dev.tb with claspClosed := closed } }

theorem wit_WaitsAndCounters_1 :
    Safety.Turn (waiting [(65535, 2)]) 575 2 (prog 575) 0 clwaitInsn ∧
    Safety.Clear (waiting [(65535, 2)]) 575 0 clwaitInsn (slotRule false none [Span.w 0x1000 4 4]) {} ∧
    (waiting [(65535, 2)]).dev.claspHere 65535 = false ∧
    (waiting [(65535, 2)]).dev.tb.claspClosed.find? (fun e => e.1 = 65535) = some (65535, 2) ∧
    (waiting []).dev.tb.claspClosed.find? (fun e => e.1 = 65535) = none := by decide

/-- Core 575 waits for Clasp 65535 from a stroke on; the timeout is 1 stroke, and stroke n is the present one. -/
def clwaiting (since n : Nat) : State :=
  let s := running 575 { progAt 575 32 with score := [issued (.clasp 65535 since) clwaitInsn []] } []
  s.onDev (regs [(Reg.tbStroke, n), (Reg.tbClaspCfg, 256)] s.dev)

theorem wit_WaitsAndCounters_3 :
    let s := clwaiting 5 6
    (Safety.Operating s ∧ s.dev.claspHere 65535 = false ∧ (vecOf clwaitInsn).dst + 4 ≤ 2 ^ 22 ∧
      s.dev.prog? 575 = some { progAt 575 32 with score := [issued (.clasp 65535 5) clwaitInsn []] } ∧
      5 + s.dev.fld Reg.tbClaspCfg 31 8 ≤ s.dev.stroke) ∧
    (clwaiting 6 6).dev.stroke < 6 + (clwaiting 6 6).dev.fld Reg.tbClaspCfg 31 8 := by decide

/-- VCOUNT of the core's own retired slots, and of a register that is no counter. -/
def countInsn (imm : Nat) : List Byte := vec 0x9B 0 0 0 0 0x1000 0 imm 0

/-- Core 575 at a VCOUNT, counters readable by its context. -/
def counting (imm : Nat) : State :=
  let s := running 575 (prog 575) (countInsn imm)
  s.onDev (s.dev.wr Reg.glbCtxPerf 1)

theorem wit_WaitsAndCounters_2 :
    let own := 0x80000000 + Reg.coreCntTdRetired 0 % 0x10000
    Safety.Turn (counting own) 575 0x9B (prog 575) 0 (countInsn own) ∧
    Safety.Clear (counting own) 575 0 (countInsn own) (slotRule (countIllegal (vecOf (countInsn own))) none [Span.w 0x1000 8 8]) {} ∧
    (counting own).dev.flag Reg.glbCtxPerf 0 = true ∧ (counting own).dev.counterAt (countOffset 575 (vecOf (countInsn own))) = some 0 ∧
    (let s := running 575 (prog 575) (countInsn own)
     s.dev.flag Reg.glbCtxPerf 0 = false ∧ (s.dev.insnFault 575 ((prog 575).at_ 0) 0 0x2D .v 0).prog? 575 = none) ∧
    ((counting 8).dev.counterAt (countOffset 575 (vecOf (countInsn 8))) = none ∧
      ((counting 8).dev.insnFault 575 ((prog 575).at_ 0) 0 0x2E .v 0).prog? 575 = none) := by decide

/-- The memory instructions on core 575, with an address. -/
def memInsn (op dev : Nat) : List Byte := vec op 0 0 0x1000 0 0x2000 8 0 dev

/-- The memory rows. -/
def memoryRows : List Instr := [.vload 575 {}, .vstore 575 {}, .vstoref 575 {}, .vatom 575 {}]

theorem wit_CoreMemory_1 :
    memoryRows.all (fun c => match Safety.memoryRow c with
      | some (_, op, ecc, rule, _) =>
        let bs := memInsn op 0x17FFFFFFF8
        let s := running 575 (prog 575) bs
        decide (Safety.Turn s 575 op (prog 575) 0 bs ∧ Safety.MemoryClear s 575 0 bs (rule (vecOf bs)) ecc ∧
          Safety.Private s (vecOf bs) ∧ s.dev.settled (prog 575).gang ((prog 575).at_ 0).order = true ∧ (prog 575).gang.getLast? = some 575)
      | none => false) = true := by decide

/-- A tiered part of 16 tiles, all away, behind vault port 0. -/
def tier (d : Dev) : Dev :=
  let d := regs [(Reg.migCtrl, 1), (Reg.migVaultSize, 16 * 65536), (Reg.migTdirBase, 0x1000000), (Reg.vltPortStatus 0, 1)] d
  { d with mig := { d.mig with ports := [{ counted := true }, {}] } }

/-- The device is the first of a block of two. -/
def block2 (d : Dev) : Dev := regs [(Reg.fabRtBlock, 0x10000), (Reg.fabRtTorus, 0x1)] d

theorem wit_CoreMemory_2 :
    memoryRows.all (fun c => match Safety.memoryRow c with
      | some (_, op, ecc, rule, _) =>
        let bs := memInsn op (tieredBase + 16 * 65536 - 8)
        let s := (running 575 (prog 575) bs).onDev (tier (running 575 (prog 575) bs).dev)
        let v := vecOf bs
        decide (Safety.Turn s 575 op (prog 575) 0 bs ∧ Safety.MemoryClear s 575 0 bs (rule v) ecc ∧ partOf v.dev = .tiered ∧
          s.dev.awayTiles v.dev v.devLen = tilesOf v.dev v.devLen ∧
          overlaps v.dev v.devLen (s.dev.rd Reg.memExportBase) s.dev.exportBytes = false)
      | none => false) = true := by decide

theorem wit_CoreMemory_3 :
    memoryRows.all (fun c => match Safety.memoryRow c with
      | some (_, op, ecc, rule, _) =>
        let bs := memInsn op (0x800000000000 + 2 ^ 35)
        let s := (running 575 (prog 575) bs).onDev (block2 (running 575 (prog 575) bs).dev)
        let v := vecOf bs
        decide (Safety.Turn s 575 op (prog 575) 0 bs ∧ Safety.MemoryClear s 575 0 bs (rule v) ecc ∧ partOf v.dev = .remote ∧
          (prog 575).gang = [575] ∧ (remoteOf v.dev).1 < s.dev.blockN ∧ (remoteOf v.dev).1 ≠ s.dev.me ∧
          v.dev / 128 = (v.dev + v.devLen - 1) / 128 ∧ (s.dev.ctx 0).mode = .live ∧
          s.dev.cachedLoad (remoteOf v.dev).1 (remoteOf v.dev).2 v.devLen = none ∧
          s.dev.servingReplica (remoteOf v.dev).1 (remoteOf v.dev).2 v.devLen = none)
      | none => false) = true := by decide

theorem wit_CoreMemory_4 :
    let bs := memInsn 0x98 (0x090000000000 - 4)
    let s := running 575 (prog 575) bs
    let v := vecOf bs
    (Safety.Turn s 575 0x98 (prog 575) 0 bs ∧ v.fault (loadRule v) = none ∧ s.dev.hazard 575 .v 0 (s.dev.rangesOf 575 bs) = false ∧
      0 < v.count ∧ s.dev.coreCheck v.dev v.count = some (0x41, v.dev) ∧ (prog 575).gang = [575] ∧
      (s.dev.deviceFault 575 ((prog 575).at_ 0) 0 0x41 v.dev).prog? 575 = none) ∧
    (let bs := memInsn 0x98 0x17FFFFFFF8
     let s := running 575 (prog 575) bs
     let v := vecOf bs
     s.dev.coreCheck v.dev v.count = none ∧ partOf v.dev = .direct ∧ v.dev ≤ 0x17FFFFFFFF ∧ 0x17FFFFFFFF < v.dev + v.count ∧
     (s.dev.deviceFault 575 ((prog 575).at_ 0) 0 0x45 0x17FFFFFFFF).prog? 575 = none) := by decide

/-! Units beside the arrays. -/

/-- Core 575 runs an instruction beside the pools. -/
def poolCore (s : State) (bs : List Byte) : State :=
  s.onDev { s.dev.modCore 575 (fun c => { c with prog := some (prog 575) }) with loc := memWrite s.dev.loc (575 * 2 ^ 22) bs }

/-- VALLOC of 4 MiB in partition 3. -/
def vallocInsn : List Byte := vec 0x94 0 0 0 0 0x2000 4194304 (3 * 65536 + 7) 0

/-- VFREE of the pointer at 0x1000. -/
def vfreeInsn : List Byte := vec 0x95 0 0 0x1000 0 0 0 0 0

/-- VHINT of one expert, k = 16, layer 255. -/
def vhintInsn (imm : Nat) : List Byte := vec 0x93 0 0 0x1000 0 0 1 imm 255

/-- VFREE's state: its pointer in local memory. -/
def vfreeState : State :=
  let s := poolCore (oneBuf 3) vfreeInsn
  s.onDev { s.dev with loc := memWrite s.dev.loc (575 * 2 ^ 22 + 0x1000) (toLe 8 (bufPtr 3)) }

theorem wit_VectorUnits_1 :
    let s := poolCore pools vallocInsn
    Safety.Turn s 575 0x94 (prog 575) 0 vallocInsn ∧ Safety.Clear s 575 0 vallocInsn (slotRule false none [Span.w 0x2000 8 8]) {} ∧
    (∃ ptr d, s.dev.userAlloc 0 4194304 (3 * 65536 + 7) ((prog 575).devPc 0) = .inr (ptr, d) ∧
      (d.locWrite 575 0x2000 (toLe 8 ptr)).prog? 575 = some (prog 575)) :=
  ⟨by decide, by decide, _, _, rfl, by decide⟩

theorem wit_VectorUnits_2 :
    (Safety.Turn vfreeState 575 0x95 (prog 575) 0 vfreeInsn ∧ Safety.Clear vfreeState 575 0 vfreeInsn (slotRule false none [Span.r 0x1000 8 8]) {} ∧
      (vecOf vfreeInsn).imm = 0 ∧ vfreeState.dev.checkFree (vfreeState.dev.locNat 575 0x1000 8) (some 0) = .inr (7, 192)) ∧
    (let bs := vhintInsn 16
     let s := poolCore pools bs
     Safety.Turn s 575 0x93 (prog 575) 0 bs ∧ Safety.Clear s 575 0 bs (hintRule (vecOf bs)) {}) ∧
    (let bs := vhintInsn 17
     Safety.Turn (poolCore pools bs) 575 0x93 (prog 575) 0 bs ∧ (vecOf bs).fault (hintRule (vecOf bs)) = some (0x21, 0)) ∧
    (let bs := vec 0x94 0 0 0 0 0x2004 1 0 0
     Safety.Turn (poolCore pools bs) 575 0x94 (prog 575) 0 bs ∧
     (vecOf bs).fault (slotRule (vecOf bs).hm none [Span.w (vecOf bs).dst 8 8]) = some (0x24, 0x2004)) := by decide

/-! Arrays. -/

/-- An array instruction of one column and k = 64 in SOLO mode: its mode bits, rows, and operand A's stream. -/
def arr (op bits rows aMeta : Nat) : List Byte :=
  toLe 4 (op + bits) ++ toLe 4 0 ++ toLe 4 (rows + 1 * 256 + 64 * 2 ^ 19) ++ toLe 4 (128 + 128 * 65536) ++ toLe 4 (0x1000 + aMeta * 2 ^ 22) ++
    toLe 4 0x2000 ++ toLe 4 0 ++ toLe 4 0x200000

/-- The array rows on core 575, with a valid word, a word that breaks a rule, and an empty one (MSRC = 1 with CORE_M = 0). -/
def arrRows : List (Instr × Nat) := [(.denseInstruction 575 {}, 0x40), (.sparseArrayInstruction 575 {}, 0x41)]

theorem wit_ArrayIssueAndDrain_1 :
    arrRows.all (fun e =>
      let good := arr e.2 0 16 0
      let bad := arr e.2 0 17 0
      let none_ := arr e.2 (2 ^ 23) 0 0
      let s (bs : List Byte) := running 575 (prog 575) bs
      let g := behind 575 [(0x200000, 4)]
      decide (Safety.Turn (s good) 575 e.2 (prog 575) 0 good) && (s good).dev.arrFault (arrOf good) 575 (prog 575) = none &&
      (s good).dev.rowCount (arrOf good) 575 = 16 && !(arrOf good).keep &&
      !(s good).dev.hazard 575 .m 0 ((s good).dev.rangesOf 575 good) &&
      ((s good).dev.fedSet (arrOf good) 575).isRight &&
      decide (Safety.Turn (s bad) 575 e.2 (prog 575) 0 bad) && (s bad).dev.arrFault (arrOf bad) 575 (prog 575) = some (0x22, 0) &&
      decide (Safety.Turn (s none_) 575 e.2 (prog 575) 0 none_) && (s none_).dev.arrFault (arrOf none_) 575 (prog 575) = none &&
      (s none_).dev.rowCount (arrOf none_) 575 = 0 && decide (Safety.Turn (running 575 g good) 575 e.2 g 32 good) &&
      (running 575 g good).dev.hazard 575 .m 32 ((running 575 g good).dev.rangesOf 575 good)) = true := by decide

/-- A sparse instruction whose stream is missing. -/
def noStream : List Byte := arr 0x41 0 16 1

theorem wit_ArrayIssueAndDrain_2 :
    let s := running 575 (prog 575) noStream
    Safety.Turn s 575 0x41 (prog 575) 0 noStream ∧ s.dev.arrFault (arrOf noStream) 575 (prog 575) = none ∧
    s.dev.hazard 575 .m 0 (s.dev.rangesOf 575 noStream) = false ∧
    ∃ code loc, s.dev.fedSet (arrOf noStream) 575 = .inl (code, loc) := ⟨by decide, by decide, by decide, _, _, rfl⟩

/-- Core 575 has an array instruction in its scoreboard and holds carats. -/
def draining (carats : Nat) : State :=
  let s := running 575 { prog 575 with score := [{ issued (.array false) (arr 0x40 0 16 0) [] with slot := .m }] } []
  s.onDev { s.dev with pwr := { s.dev.pwr with held := [(575, carats)] } }

theorem wit_ArrayIssueAndDrain_3 :
    let g := { prog 575 with score := [{ issued (.array false) (arr 0x40 0 16 0) [] with slot := .m }] }
    let a := arrOf (arr 0x40 0 16 0)
    let s := draining 2
    (Safety.Operating s ∧ s.dev.prog? 575 = some g ∧ g.oldestArray.isSome = true ∧ (draining 1).dev.holds 575 < a.carats ∧
      a.carats ≤ s.dev.holds 575 ∧ s.dev.clocked 575 = true ∧ s.dev.residueHits a (s.dev.arrCores a 575) [] = [] ∧ a.badLocal = none ∧
      (s.dev.arrCores a 575).Nodup ∧ (s.dev.arrCores a 575).length ≤ 4) ∧
    (s.dev.fedSet a 575).isRight = true ∧ s.dev.residueHits a (s.dev.arrCores a 575) [(0, 63)] = [(575, 0, 63)] ∧ a.pave ≠ 2 ∧
    meets (s.dev.arrReads a 575 (s.dev.rowCount a 575) 0) [(0x1000, 1)] = true := by decide

/-! Engines of the ring commands. -/

/-- A command granted to its engine on a device changed by f. -/
def engine (f : Dev → Dev) (c : List Byte) : State := on (fun d => granted 4095 65535 c (live 0 (f d)))

/-- COPY of 8 bytes at the end of the direct part, in a direction. -/
def copyCmd (dir : Nat) : List Byte := cmd 8 (List.replicate 16 0 ++ toLe 8 (2 ^ 64 - 8) ++ toLe 8 (0x6000000000 - 8) ++ toLe 4 8 ++ toLe 4 dir)

theorem wit_CopiesAndBar2_1 :
    [0, 1].all (fun dir =>
      let s := engine id (copyCmd dir)
      match s.dev.takes 4095 65535 8 with
      | some j => decide (Safety.Granted s 4095 65535 8 j ∧ Safety.Direct s (fldOf j.cmd 32 47 0) (fldOf j.cmd 40 31 0) ∧
          Safety.Unshared s (fldOf j.cmd 32 47 0) (fldOf j.cmd 40 31 0) ∧ fldOf j.cmd 44 0 0 = dir)
      | none => false) = true := by decide

theorem wit_CopiesAndBar2_2 :
    let s := State.reset
    (Safety.Operating s ∧ s.dev.glb.hostLink = true ∧ 2 ^ 36 - 8 + 8 ≤ 2 ^ 36 ∧ Safety.Direct s (s.dev.bar2Addr (2 ^ 36 - 8)) 8 ∧
      s.dev.mgmt.run = none ∧ Safety.Unshared s (s.dev.bar2Addr (2 ^ 36 - 8)) 8) ∧ 2 ^ 36 < 2 ^ 36 - 8 + 9 ∧
    ((busy 2 []).dev.mgmt.run = some ⟨2, 0, .host, [], false⟩ ∧ (busy 2 []).dev.glb.hostLink = true) := by decide

/-- A Mount of one core group of one core, logical core 0, served by physical core 0. -/
def mounted (d : Dev) : Dev :=
  { d.modCore 0 (fun c => { c with slot := some 0 }) with
    mgmt := { d.mgmt with mount := some ⟨1, 64, 0, [], [⟨0, 1, 0, 0, 0⟩], []⟩ } }

/-- PROGRAM of 32 bytes at LOCAL = the last 32 of the scratchpad, CORE_M all ones. -/
def programCmd (shape : Nat) : List Byte :=
  cmd 1 (List.replicate 16 0 ++ toLe 4 0 ++ toLe 4 (0x1C0000 - 32) ++ toLe 8 0x8000000 ++ toLe 4 32 ++ toLe 4 0xFFFFFF ++ toLe 8 shape)

theorem wit_ProgramsAndLayersStart_1 :
    (match (engine mounted (programCmd 0x8000040)).dev.takes 4095 65535 1 with
     | some j =>
       let s := engine mounted (programCmd 0x8000040)
       decide (Safety.Granted s 4095 65535 1 j ∧ cmdShape j.cmd ≠ 0 ∧ Safety.Direct s (cmdShape j.cmd) 8 ∧
         bitsOf (s.dev.devNat (cmdShape j.cmd) 8) 23 0 = 0)
     | none => false) = true ∧
    (match (engine mounted (programCmd 0)).dev.takes 4095 65535 1 with
     | some j =>
       let s := engine mounted (programCmd 0)
       decide (Safety.Granted s 4095 65535 1 j ∧ cmdShape j.cmd = 0 ∧ fldOf j.cmd 56 47 0 = 0 ∧ s.dev.coresReady j.ctx j.cmd = true ∧
         cmdAssay j.cmd = false ∧ Safety.Direct s (fldOf j.cmd 32 47 0) (fldOf j.cmd 40 23 0) ∧
         fldOf j.cmd 28 21 0 + fldOf j.cmd 40 23 0 ≤ 0x1C0000 ∧ s.dev.placeCores j.cmd = [0])
     | none => false) = true := by decide

/-- A descriptor of one expert, k = 1, quota 65535 / 32 bytes a row, with addresses for logits, rows, combine and output. -/
def desc : List Byte :=
  toLe 4 0 ++ toLe 4 64 ++ toLe 4 0x3F800000 ++ toLe 4 (32 + 32 * 65536) ++ toLe 8 0x20000 ++ toLe 8 0x30000 ++ toLe 8 0x40000 ++ toLe 8 0x50000 ++
    toLe 8 0x60000 ++ toLe 8 0

/-- STEP with a token and a list address. -/
def stepCmd (list : Nat) : List Byte := cmd 2 (List.replicate 16 0 ++ toLe 4 0 ++ toLe 4 65535 ++ toLe 8 list)

/-- Descriptors in memory, the engines enabled: engines 0 and 3 read one, 1 and 2 another; directories and shape words elsewhere. -/
def routed (d : Dev) : Dev :=
  ((regs ((List.range 4).flatMap (fun i => [(Reg.reLayerTableBase i, 0x8010000 + i % 3 * 64), (Reg.reDirBase i, 0x8700000), (Reg.reCtrl i, 1)])) (mounted d)).devPut
    0x8010000 (desc ++ desc ++ desc))

/-- An entry of a change list (Table 5.10): a join of so many blocks, 9 tokens, reported to ring 4095. -/
def joinEntry (blocks : Nat) : List Byte := toLe 4 1 ++ toLe 4 (2 ^ 32 - blocks) ++ toLe 4 blocks ++ toLe 4 (9 + 4095 * 65536)

/-- A change list of two joins and a leave of slot 4095 at 0x8080000; the quota holds one join. -/
def listed (d : Dev) : Dev :=
  (((regs [(Reg.migKvQuota 0, 7)] (routed d)).devPut 32760 (toLe 8 (2 ^ 63 + 1))).devPut 0x8080000
    (toLe 8 3 ++ joinEntry 5 ++ joinEntry 6 ++ (toLe 8 0 ++ toLe 4 0 ++ toLe 4 4095)))

/-- The entries of a STEP's change list, what becomes of its joins, and the slots that leave. -/
def listOutcome (s : State) (j : Job) : Option (List (Nat × Option Nat) × List Nat) :=
  (kvEntriesOf (chunks 16 3 (s.dev.devRead 0x8080008 48))).bind (fun es =>
    if Safety.BatchList s j es then
      some ((Safety.kvOutcome s j.ctx (es.filter (fun e => e.join)) (s.dev.rd (Reg.migKvReserved j.ctx)) []).map (fun x => (x.1.blocks, x.2)), kvLeaves es)
    else none)

set_option maxRecDepth 8000 in
theorem wit_ProgramsAndLayersStart_2 :
    let s := engine routed (stepCmd 0)
    (match s.dev.takes 4095 65535 2 with
     | some j =>
       decide (Safety.Granted s 4095 65535 2 j ∧ s.dev.nextStep = some j ∧ s.dev.reReady = true ∧ s.dev.routing.counts = [] ∧
         fldOf j.cmd 32 47 0 = 0) && (List.range 4).all (fun i => decide (Safety.InstanceReads s (fldOf j.cmd 24 7 0) i))
     | none => false) = true := by decide

set_option maxRecDepth 8000 in
theorem wit_ProgramsAndLayersStart_4 :
    let s := engine listed (stepCmd 0x8080000)
    (s.dev.takes 4095 65535 2).bind (listOutcome s) = some ([(5, some 0), (6, none)], [4095]) := by decide

set_option maxRecDepth 8000 in
theorem wit_ProgramsAndLayersStart_3 :
    (let s := engine (fun d => (routed d).devPut 0x8080000 (toLe 8 4097)) (stepCmd 0x8080000)
     match s.dev.takes 4095 65535 2 with
     | some j => decide (Safety.Granted s 4095 65535 2 j ∧ s.dev.nextStep = some j ∧ s.dev.reReady = true ∧ s.dev.routing.counts = [] ∧
         fldOf j.cmd 32 47 0 ≠ 0 ∧ Safety.Direct s 0x8080000 8 ∧ 4096 < fldOf (s.dev.devRead 0x8080000 8) 0 15 0)
     | none => false) = true ∧
    (let s := engine (fun d => (routed d).devPut 0x8010000 (toLe 8 0x80)) (stepCmd 0)
     match s.dev.takes 4095 65535 2 with
     | some j => decide ((s.dev.ctx j.ctx).mode = .live ∧ fldOf j.cmd 32 47 0 = 0 ∧ Safety.Direct s (s.dev.rd (Reg.reLayerTableBase 0) + 64 * 0) 64 ∧
         Safety.badInstance s 0 0 = true)
     | none => false) = true := by decide

/-- A collective's descriptor with COLL_ID 0x7FFF. -/
def collDesc : List Byte := toLe 4 0 ++ toLe 4 0x7FFF ++ List.replicate 56 0

set_option maxRecDepth 8000 in
theorem wit_CollectiveClaspFlushTakenUp_1 :
    (let s := engine (fun d => d.devPut 0x10000 collDesc) (cmd 3 (List.replicate 16 0 ++ toLe 8 0x10000))
     match s.dev.takes 4095 65535 3 with
     | some j => decide (Safety.Granted s 4095 65535 3 j ∧ fldOf j.cmd 24 47 0 = 0x10000 ∧ Safety.Direct s 0x10000 64 ∧
         fldOf (s.dev.devRead 0x10000 64) 4 14 0 = 0x7FFF ∧ s.dev.colls = [])
     | none => false) = true := by decide

/-- CLASP 65535 with a lead of 255 and no timeout of its own. -/
def claspCmd : List Byte := cmd 4 (List.replicate 16 0 ++ toLe 4 (65535 + 255 * 65536))

/-- An open Clasp. -/
def openClasp (n : Nat) : Clasp := { n := n, ring := 1, seq := n, ctx := 0, arrived := 0, timeout := 100, proposal := 8 }

theorem wit_CollectiveClaspFlushTakenUp_2 :
    [0, 15, 16].all (fun k =>
      let s := engine (fun d => { d with tb := { d.tb with clasps := (List.range k).map openClasp } }) claspCmd
      match s.dev.takes 4095 65535 4 with
      | some j => decide (Safety.Granted s 4095 65535 4 j ∧ s.dev.tb.claspQueue = [] ∧ fldOf j.cmd 24 15 0 = 65535 ∧ fldOf j.cmd 24 23 16 = 255 ∧
          s.dev.clasp? 65535 = none ∧ s.dev.fil.held = [] ∧ s.dev.tb.clasps.length = k)
      | none => false) = true := by decide

/-- HALLMARK_FLUSH with the engine on, waiting for some entries. -/
def flushing (on_ : Nat) (waits : List Nat) : State :=
  engine (fun d => { d.wr Reg.tbCtrl on_ with tb := { d.tb with flushes := [⟨4095, 65535, 0, waits, none⟩] } }) (cmd 7 [])

theorem wit_CollectiveClaspFlushTakenUp_3 :
    [(0, []), (4, [1]), (4, [])].all (fun e =>
      let s := flushing e.1 e.2
      match s.dev.takes 4095 65535 7 with
      | some j => decide (Safety.Granted s 4095 65535 7 j ∧ s.dev.flag Reg.tbCtrl 2 = decide (e.1 = 4) ∧
          s.dev.tb.flushes = [⟨4095, 65535, 0, e.2, none⟩])
      | none => false) = true := by decide

/-! Routing Engines. -/

/-- A layer of one expert, at home here, with a part of each engine in both halves. -/
def layer (a b : Half) (tokens : Nat) (split : Bool) : Layer :=
  { ctx := 0, ring := 4095, seq := 65535, occ := none, desc := toLe 4 (if split then 2 ^ 27 else 0) ++ desc.drop 4, stepSeq := 65535,
    tokens := tokens, keoth := [], shapeBase := [0x70000, 0x70000, 0x70000, 0x70000], dir := [toLe 4 1 ++ List.replicate 28 0], a := a, b := b }

/-- A half whose engines have planned, but for engine 3 if it is said so. -/
def planned (last : Bool) : Half := { res := [{ planned := true }, { planned := true }, { planned := true }, { planned := last }] }

/-- The layer is in progress beside the pools. -/
def inLayer (l : Layer) : State := pools.onDev { pools.dev with routing := { pools.dev.routing with layer := some l } }

/-- The premises about RE_PLAN_READY of an engine in half A, and its result with the engine's pairs. -/
def planOf (s : State) (l : Layer) (re : Nat) : Option (Dev × List Choice) :=
  match (s.dev.modLayer (fun l => { l with half := 0 })).scoreHalf (l.asRe re) 0 re with
  | (some ranked, d) =>
    let cap := (l.asRe re).capacity ranked
    let pairs := (l.asRe re).sortPairs d.me cap.choices
    let d := (d.bump (Reg.reCntDropped re) cap.dropped).bump (Reg.reCntDiverted re) cap.diverted
    match (if l.keothRe re then d.putKeoth (l.asRe re) 0 re pairs else d.putPlan (l.asRe re) 0 re ((l.asRe re).segments d.me cap.choices)) with
    | (true, e) =>
      if e.mig.now = {} then some (e.modRe 0 re (fun r => { r with planned := true, choices := pairs, ranked := ranked }), pairs) else none
    | _ => none
  | _ => none

theorem wit_PlanHoldsGrantedPairs :
    [(({} : Half), [], false), (planned false, [], true), (({} : Half), [false, false, false, true], false)].all (fun e =>
      let l := { layer e.1 {} 4 false with keoth := e.2.1 }
      let s := (inLayer l).onDev (regs [(Reg.poolClassBase 6, 0x20000000), (Reg.poolClassPart 6, 0x0001000100010001)] (inLayer l).dev)
      decide (Safety.Operating s ∧ s.dev.mig.now = {} ∧ s.dev.routing.layer = some l ∧ s.dev.nextHalf l 3 = some 0 ∧
        l.keothRe 3 = !e.2.1.isEmpty) &&
      match planOf s l 3 with
      | some (f, cs) => cs.length = 1 && f.routing.layer.any (fun m => m.keothRe 3 = l.keothRe 3 && (l.keothRe 3 || m.ownPlanned 0 = e.2.2) &&
          decide (((f.sendCounts m 0).tryMap 0).mig.now = {}))
      | none => false) = true := by decide

/-- A count message of the layer's number and half for local slots from 0 on. -/
def countMsg (src seq lay : Nat) (counts : List Nat) : FilMsg := ⟨0, src, seq, lay, 0, counts.flatMap (toLe 2), 0, 0⟩

/-- It has arrived. -/
def countIn (s : State) (m : FilMsg) : State := s.onDev { s.dev with fil := { s.dev.fil with rx := [m] } }

/-- What the message is to the engines: its age, its sender in the block, and whether it fits a layer in progress. -/
def countOf (s : State) : Option (Nat × Bool × Bool) :=
  match s.dev.filTake 0 with
  | (some m, d) => some (d.countAge (countRowOf m).seq, decide ((countRowOf m).src < d.blockN), d.routing.layer.any (fun l => d.rowMisfits l (countRowOf m)))
  | _ => none

theorem wit_CountsBuildReceiveMaps_1 :
    let s (l : Option Layer) (m : FilMsg) := countIn (pools.onDev { pools.dev with routing := { pools.dev.routing with layer := l } }) m
    let l := layer (planned true) {} 4 false
    countOf (s (some l) (countMsg 0 65534 0 [1])) = some (0, true, false) ∧ countOf (s (some l) (countMsg 0 1 0 [1])) = some (2, true, false) ∧
    countOf (s (some l) (countMsg 1 65535 0 [1])) = some (1, false, false) ∧ countOf (s (some l) (countMsg 0 65535 1 [1])) = some (1, true, true) ∧
    countOf (s none (countMsg 0 0 0 [1])) = some (1, true, false) ∧ countOf (s (some l) (countMsg 0 0 0 [1])) = some (1, true, false) ∧
    (layer (planned false) {} 4 false).ownPlanned 0 = false ∧ State.reset.dev.mig.now = {} := by decide

theorem wit_CountsBuildReceiveMaps_2 :
    let l := layer (planned true) {} 4 false
    (match (countIn (inLayer l) (countMsg 0 65535 0 [65535])).dev.filTake 0 with
     | (some m, d) =>
       let e : Dev := { d with routing := { d.routing with counts := d.routing.counts ++ [countRowOf m] } }
       d.countAge (countRowOf m).seq = 1 && d.routing.layer = some l && !d.rowMisfits l (countRowOf m) &&
       l.ownPlanned 0 && !(l.halfOf 0).exchanged && e.countTable l 0 = some [[65535]]
     | _ => false) = true := by decide

theorem wit_CountsBuildReceiveMaps_3 :
    let l := layer (planned true) {} 4 false
    let s := inLayer l
    (match s.dev.mapSlots l 0 [[256]] (fun q => !l.keothRe q) with
     | (ok, f) => ok && decide (f.mig.now = {} ∧ s.dev.mig.now = {})) = true ∧
    rowsFor [[256]] 0 ≤ s.dev.reserveOf (l.asRe (s.dev.servingRe l 0)) ∧ rowsFor [[256]] 0 < 2 ^ 24 ∧ l.stepSeq < 2 ^ 16 ∧
    (l.asRe (s.dev.servingRe l 0)).number < 2 ^ 8 ∧ 1 < 2 ∧
    Safety.Direct s (s.dev.slotShape l 1 0) 8 ∧ Safety.Unshared s (s.dev.slotShape l 1 0) 8 := by decide

/-- The layer waits for counts, its STEP granted. -/
def waitsCounts : State :=
  let s := inLayer (layer (planned true) {} 4 false)
  s.onDev (granted 4095 65535 (stepCmd 0) (s.dev.wr (Reg.reCountTimeout 3) 1))

theorem wit_HaltTimeoutAndKeoth_1 :
    (Safety.Writable State.reset .host ∧ Safety.Fits (Reg.reCtrl 3) (State.reset.dev.rd (Reg.reCtrl 3))) ∧
    (let s := waitsCounts
     Safety.Operating s ∧ s.dev.routing.layer = some (layer (planned true) {} 4 false) ∧ s.dev.waitsCounts 3 = true ∧
     s.dev.rd (Reg.reCountTimeout 3) ≠ 0 ∧ s.dev.colls = [] ∧ (layer (planned true) {} 4 false).joined = [] ∧
     (layer (planned true) {} 4 false).occ = none ∧ (s.dev.job? 4095 65535).isSome = true ∧
     (s.dev.job? 4095 65535).all (fun j => j.occ = none && (s.dev.ctx j.ctx).stagePins = []) = true) := by decide

/-- Engine 3 waits for the host in half A, ring 7 the enabled event ring of its records. -/
def keothState (posted : Bool) : State :=
  let s := inLayer { layer { res := [{}, {}, {}, { planned := true, waitHost := true, posted := posted, planAddr := 0x8000000 }] } {} 4 false with keoth := [false, false, false, true] }
  s.onDev (regs [(Reg.reKeothRing 3, 7), (Reg.ringCtrl 7, 3), (Reg.reKeothTimeout 3, 1)] s.dev)

theorem wit_HaltTimeoutAndKeoth_2 :
    let s := keothState false
    (∃ l, s.dev.waitsHost 3 = some (l, 0) ∧ ((l.halfOf 0).re 3).posted = false ∧ l.stepSeq < 2 ^ 16 ∧
      (65535 : W32).toNat = l.stepSeq % 2 ^ 16 + 0 * 2 ^ 16) ∧
    (∃ l, (keothState true).dev.waitsHost 3 = some (l, 0) ∧ ((l.halfOf 0).re 3).posted = true) ∧
    s.dev.fld (Reg.reKeothRing 3) 11 0 = 7 ∧ s.dev.flag (Reg.ringCtrl 7) 0 = true ∧ s.dev.fld (Reg.ringCtrl 7) 2 1 = 1 ∧ s.dev.cqFull 7 = false ∧
    s.dev.flag (Reg.ringCqBase 7) 0 = false ∧ s.dev.flag (Reg.ringCtrl 7) 27 = false ∧ s.dev.rd (Reg.reKeothTimeout 3) ≠ 0 ∧ Safety.Writable s .host ∧
    (match s.dev.waitsHost 3 with
     | some (l, h) => match s.dev.hostPlan l h 3 with
       | (some segs, d) => decide ((d.acceptPlan l h 3 segs).glb.phase = .running ∧ (d.acceptPlan l h 3 segs).mig.now = {} ∧ s.dev.mig.now = {})
       | _ => false
     | none => false) = true ∧
    (∀ l h, State.reset.dev.waitsHost 3 = some (l, h) → bitsOf (0x1FFFF : W32).toNat 15 0 ≠ l.stepSeq ∨ bitsOf (0x1FFFF : W32).toNat 16 16 ≠ h) ∧
    (0x1FFFF : W32).toNat < 2 ^ 17 :=
  ⟨⟨_, rfl, by decide, by decide, by decide⟩, ⟨_, rfl, by decide⟩, by decide, by decide, by decide, by decide, by decide, by decide, by decide,
   by decide, by decide, (fun l h e => absurd (show (none : Option (Layer × Nat)) = some (l, h) from e) (by simp)), by decide⟩

/-- A layer on a block of two, collectives enabled. -/
def opening (x : Half) : State :=
  let s := inLayer (layer x {} 4 false)
  s.onDev (block2 (s.dev.wr Reg.collCtrl 1))

theorem wit_AllToAllAndCombine_1 :
    let x : Half := { mapped := true, counts := [[1], [0]] }
    let y : Half := { mapped := true, counts := [[1], [0]], dispatchOk := true, started := [0] }
    [(opening x, x, true), (opening y, y, false)].all (fun e =>
      let s := e.1
      decide (Safety.Operating s ∧ s.dev.routing.layer = some (layer e.2.1 {} 4 false) ∧ s.dev.mayOpen = true ∧ s.dev.fil.held = [] ∧
        1 < s.dev.blockN ∧ s.dev.colls = [] ∧ e.2.1.mapped = true ∧ e.2.1.dispatchOk = !e.2.2 ∧ e.2.1.dispatched = false ∧ e.2.1.returned = false ∧
        s.dev.expertsDone (layer e.2.1 {} 4 false) 0 = !e.2.2)) = true := by decide

/-- The returns of half A are in: one row for its token 0 and one for the last token, which engine 3 sent. -/
def returned : Half :=
  { res := [{}, {}, {}, { planned := true, segs := [⟨0, [⟨0, ⟨0, 0, 0, 0x3F800000⟩⟩, ⟨1, ⟨1, 0, 0, 0x3F800000⟩⟩]⟩] }], mapped := true, dispatchOk := true,
    returnOk := true }

/-- The STEP that the layer serves has been granted, and physical core 432 combines its rows. -/
def combining (b : Half) (split : Bool) : State :=
  let s := inLayer (layer returned b (if split then 4 else 2) split)
  s.onDev (granted 4095 65535 (stepCmd 0) (s.dev.modCore 432 (fun c => { c with slot := some 0 })))

set_option maxRecDepth 4000 in
theorem wit_AllToAllAndCombine_2 :
    [(({} : Half), true), ({ done := true }, true), ({}, false)].all (fun e =>
      let l := layer returned e.1 (if e.2 then 4 else 2) e.2
      let s := combining e.1 e.2
      let tokens := (l.halfTokens 0).map (fun x => x.2.2)
      decide (Safety.Operating s ∧ s.dev.routing.layer = some l ∧ (l.halfOf 0).returnOk = true ∧ (l.halfOf 0).done = false ∧ l.occ = none ∧
        s.dev.combineCores l 0 = [432] ∧ s.dev.combineReady l 0 = true ∧ (l.halfOf 0).res.all (fun r => r.bufs.isEmpty) = true ∧
        l.leaving = [] ∧ (s.dev.ctx l.ctx).demandPins = [] ∧ (s.dev.job? l.ring l.seq).isSome = true ∧
        (s.dev.job? l.ring l.seq).all (fun j => j.occ = none && (s.dev.ctx j.ctx).stagePins = []) = true ∧
        tokens = [0, 1] ∧ (l.halfOf 0).filled 1 = [(0, 0x3F800000)] ∧ (l.halfOf (1 - 0)).done = e.1.done ∧ l.split = e.2) &&
      tokens.all (fun tok => decide (Safety.Direct s (l.addr 48 + tok * 32) 32 ∧ Safety.Unshared s (l.addr 48 + tok * 32) 32 ∧
        ∀ x ∈ (l.halfOf 0).filled tok, Safety.Direct s (l.combineAddr tok x.1) l.retBytes ∧
          ∀ tok' ∈ tokens, overlaps (l.addr 48 + tok' * 32) 32 (l.combineAddr tok x.1) l.retBytes = false))) = true ∧
    (let l := layer returned {} 4 true
     (packCodes l.outFmt ((List.replicate l.outElems 0).map (fun v => convWord l.outFmt (f32 v)))).length = 32) := by decide

/-! Tiers. -/

/-- A tiered part whose last frame pool entry is frame 2000, with something of the engine's own. -/
def migrating (f : Mig → Mig) (l : List (Nat × Nat)) : State :=
  on (fun d => let d := regs ([(Reg.migStreamPool, 2000 + 2 ^ 32)] ++ l) (tier d); { d with mig := f d.mig })

/-- The transfer of tile 15 in the stream class. -/
def xfer (writeback : Bool) : Xfer := ⟨15, 1, writeback, true, false, false⟩

/-- Port 0 runs a transfer of tile 15, whose frame is 2000. -/
def transferring (writeback : Bool) : State :=
  let s := migrating (fun m => { m with ports := [{ counted := true, running := some (xfer writeback) }, {}], frames := [(2000, 16)] }) []
  s.onDev (s.dev.setTdir 15 (2000 * 128 + 4))

theorem noTileWaiters (s : State) (h : s.dev.mig.stalls = []) (c : s.dev.cores = []) : Safety.NoTileWaiters s := by
  refine ⟨h, fun p g i ts e => ?_⟩
  simp [Blocks.prog?, Blocks.core, c, tabGet] at e

theorem wit_TileTransfers_1 :
    let s := migrating (fun m => { m with ports := [{ counted := true, queue := [xfer false] }, {}] }) []
    let s := s.onDev { s.dev with pwr := { s.dev.pwr with held := [(590, 4)] } }
    Safety.Operating s ∧ s.dev.vaultUp 0 = true ∧ s.dev.vaultLost 0 = false ∧ (s.dev.vport 0).retraining = false ∧ (s.dev.vport 0).running = none ∧ (s.dev.vport 0).queue = [xfer false] ∧
    s.dev.flag Reg.migCtrl 1 = false ∧ 4 ≤ s.dev.holds (590 + 0) ∧ s.dev.resident 15 = false ∧ s.dev.fetching 15 = false ∧
    (s.dev.poolList true).find? (fun f => !s.dev.frameUsed f) = some 2000 ∧ Safety.EntryPlaced s 15 ∧ 2000 < 2 ^ 23 := by decide

theorem wit_TileTransfers_2 :
    let s := transferring false
    Safety.Operating s ∧ (s.dev.vport 0).running = some (xfer false) ∧ Safety.NoTileWaiters s ∧ Safety.FramePlaced s 15 (s.dev.frameOf 15) ∧
    s.dev.frameOf 15 = 2000 ∧ Memory.wf s.dev.vault = true ∧ 15 ∉ s.dev.mig.poisoned ∧ s.dev.tileIn (s.dev.frameOf 15) = 15 :=
  ⟨by decide, by decide, noTileWaiters _ (by decide) (by decide), by decide, by decide, by decide, by decide, by decide⟩

theorem wit_TileTransfers_3 :
    let s := transferring true
    (s.dev.vport 0).running = some (xfer true) ∧ Safety.HbmPlaced s ∧ s.dev.hbm ≠ [] ∧ Safety.EntryPlaced s 15 ∧
    s.dev.frameOf 15 * tileBytes + tileBytes ≤ directSize ∧ bitOf (s.dev.tdir 15) 4 = false ∧
    (let t := s.onDev (s.dev.setTdir 15 (2000 * 128 + 16 + 4))
     Safety.HbmPlaced t ∧ bitOf (t.dev.tdir 15) 4 = true ∧ t.dev.dirty 15 = false ∧ t.dev.pins 15 = 0 ∧ t.dev.tileIn (t.dev.frameOf 15) = 15) := by decide

/-- Stage 3 asks for admission: one tile, 15, or none that fits. -/
def staging (frames : Nat) : State :=
  let s := migrating (fun m => { m with stageReqs := [(0, 3)] }) [(Reg.migStreamPool, 2000 + frames * 2 ^ 32), (Reg.migStreamBase, 0x8000000), (Reg.migStreamCtrl, 4)]
  s.onDev (s.dev.devPut 0x8000000 (toLe 4 3 ++ toLe 4 15 ++ toLe 4 1))

/-- A hint message from device 1 for expert 16383 of layer 255. -/
def hintMsg (layer : Nat) : FilMsg := ⟨1, 0, 0, 0, 0, toLe 4 (layer + 1 * 256) ++ toLe 4 0 ++ toLe 2 16383 ++ List.replicate 54 0, 0, 0⟩

theorem wit_StagesHintsAndVaultLinks_1 :
    (∃ x, ((staging 1).dev.stageTiles 3) = x :: [] ∧ (staging 1).dev.stageFits 3 = true ∧ (staging 1).dev.fld Reg.migCtrl 5 4 = 0 ∧
      Safety.EntryPlaced (staging 1) x ∧ (staging 1).dev.pins x + 1 < 2 ^ 16) ∧ (staging 1).dev.mig.stageReqs = (0, 3) :: [] ∧
    (staging 0).dev.stageFits 3 = false := ⟨⟨_, rfl, by decide, by decide, by decide, by decide⟩, by decide, by decide⟩

theorem wit_StagesHintsAndVaultLinks_2 :
    let s := migrating (fun m => { m with hints := [(0, 1)] }) [(Reg.migXtabBase, 0x8000000)]
    let t := s.onDev (s.dev.devPut (0x8000000 + 8) (toLe 8 (2 ^ 63 + 2 * 2 ^ 32 + 14)))
    let m := countIn State.reset (hintMsg 255)
    (s.dev.mig.hints = (0, 1) :: [] ∧ s.dev.xtab 0 1 = none ∧ t.dev.xtab 0 1 = some (14, 2)) ∧
    (m.dev.fil.rx.find? (fun m => m.typ = 1) = some (hintMsg 255) ∧ hintOk (hintMsg 255) = true ∧ fldOf (hintMsg 255).data 0 12 8 = 1 ∧
      fldOf (hintMsg 255).data 8 15 0 = 16383 ∧ hintOk { hintMsg 255 with data := [] } = false) := by decide

/-- A device whose directory entry of layer 0's expert 0 has these low bits, and these hints waiting. -/
def hinted (ent : Nat) (hints : List (Nat × Nat)) : Dev :=
  let d := (live 0 (regs [(Reg.reDirBase 0, 0x9000000), (Reg.migXtabBase, 0x8000000)] (tier State.reset.dev))).devPut 0x9000000 (toLe 4 ent)
  { d with mig := { d.mig with hints := hints } }

theorem wit_StagesHintsAndVaultLinks_3 :
    (regs [(Reg.reDirBase 0, directSize)] State.reset.dev).dirEntry 0 0 = none ∧
    [(9, ([] : List (Nat × Nat))), (9, [(0, 0)]), (1, []), (8, [])].map (fun e =>
      ((hinted e.1 e.2).dirEntry 0 0).map (fun ent => (dirEnable ent, dirTier ent, (hinted e.1 e.2).expertPresent 0 0, decide ((0, 0) ∈ (hinted e.1 e.2).mig.hints))))
      = [some (true, true, false, false), some (true, true, false, true), some (true, false, false, false), some (false, true, false, false)] ∧
    (hinted 9 []).ctxs.any (fun c => c.2.mode = .live) = true := by decide

/-- LINK_RETRAIN of vault port 0 waits, with a transfer of tile 15 that ran when the link went down. -/
def vaultRetrain (x : Option Xfer) : State :=
  let s := migrating (fun m => { m with ports := [{ counted := true, retraining := true, queue := [xfer false], running := x }, {}], frames := [(2000, 16)] })
    [(Reg.vltPortStatus 0, 0)]
  s.onDev { s.dev.setTdir 15 (2000 * 128 + 4) with mgmt := { s.dev.mgmt with run := some ⟨4, 6, .host, [], true⟩ } }

theorem wit_StagesHintsAndVaultLinks_4 :
    (let s := migrating id []
     Safety.Operating s ∧ s.dev.vaultUp 0 = true ∧ Safety.NoTileWaiters s) ∧
    (let s := vaultRetrain (some (xfer false))
     Safety.Operating s ∧ Safety.NoTileWaiters s ∧ (s.dev.vport 0).retraining = true ∧ s.dev.mgmt.run = some ⟨4, 6, .host, [], true⟩ ∧
     (s.dev.vport 0).running = some (xfer false) ∧ Safety.EntryPlaced s 15 ∧ s.dev.tileIn (s.dev.frameOf 15) = 15) ∧
    ((vaultRetrain (some (xfer true))).dev.vport 0).running = some (xfer true) ∧ ((vaultRetrain none).dev.vport 0).running = none ∧ 0 < 16 ∧ 16 < 32 :=
  ⟨⟨by decide, by decide, noTileWaiters _ (by decide) (by decide)⟩,
   ⟨by decide, noTileWaiters _ (by decide) (by decide), by decide, by decide, by decide, by decide, by decide⟩, by decide, by decide, by decide, by decide⟩

/-! Router. -/

/-- The device is the first of four on X, ports 0 and 1 up, a Mount of format 1 loaded, the router on. -/
def fabric (d : Dev) : Dev :=
  let up (p : OptPort) : OptPort := { p with st := .active, peerSeen := true }
  let d := (regs [(Reg.fabRtCtrl, 1), (Reg.fabRtBlock, 0x30000), (Reg.fabRtTorus, 3)] d |>.modPort 0 up).modPort 1 up
  { d with mgmt := { d.mgmt with mount := some ⟨12, 64, 1, [], [⟨0, 1, 0, 0, 0⟩], []⟩ } }

/-- A cell for the place of a DST word, with an age and a VC. -/
def cellFor (dst age vc : Nat) : Cell := { cellOf 256 with dst := BitVec.ofNat 32 dst, ctl := BitVec.ofNat 32 (age + vc * 256) }

/-- The second device on X. -/
def next : Nat := 2 ^ 20

/-- A cell has arrived on port 5; bank 5 holds a full queue of output 0 and n cells in its reserve. -/
def arrived (f : Dev → Dev) (c : Cell) (full : Bool) (n : Nat) : State :=
  on (fun d => (f { d with router := { d.router with banks := [(5, { queues := if full then [(2, List.replicate 4 ⟨c, 1, false⟩)] else [],
                                                                      reserve := List.replicate n ⟨c, 1, false⟩ })] } }).modPort 5
    (fun p => { p with rx := [⟨c, 5, false⟩] }))

set_option maxRecDepth 8000 in
theorem wit_RouterPlacesCells_1 :
    let bad := { cellFor next 0 2 with last := 1 }
    (bad.headerFault = some 0x73 ∧ (cellFor next 0 2).headerFault = none ∧ (arrived id bad false 0).dev.flag Reg.fabRtCtrl 0 = false) ∧
    ((arrived fabric (cellFor (4 * next) 0 2) false 0).dev.unroutable (cellFor (4 * next) 0 2) = true) ∧
    (let s := arrived fabric (cellFor next 255 2) false 0
     s.dev.flag Reg.fabRtCtrl 0 = true ∧ s.dev.unroutable (cellFor next 255 2) = false ∧ (cellFor next 255 2).age = 255 ∧
     s.dev.isHere (cellFor next 255 2) = false) ∧
    (let s := arrived fabric (cellFor next 254 2) false 0
     (s.dev.optPort 5).rx = [⟨cellFor next 254 2, 5, false⟩] ∧ (cellFor next 254 2).age ≠ 255 ∧ s.dev.flag Reg.fabMirrorCtrl 32 = false ∧
     (s.dev.productive (cellFor next 254 2)).find? (s.dev.usable 5 2) = some 0) := by decide

set_option maxRecDepth 8000 in
theorem wit_RouterPlacesCells_4 :
    let c := cellFor next 7 2
    let q : QCell := ⟨c, 5, false⟩
    let mirroring (to_ : Nat) : Dev → Dev := fun d => regs [(Reg.fabMirrorCtrl, 2 ^ 32 + 2 ^ 5 + 2 ^ 6), (Reg.fabMirrorDst, to_)] (fabric d)
    ([next, 4 * next].map (fun to_ =>
      let s := arrived (mirroring to_) c false 0
      let d := s.dev.modPort 5 (fun p => { p with rx := [] })
      let made := (d.place 5 { q with copied := true }).mirrorCell c 5 false
      ([s.dev.flag Reg.fabMirrorCtrl 32, s.dev.flag Reg.fabMirrorCtrl 5, q.copied, c.mirrored, made.2.refuses made.1, made.2.glb.stopped],
        made.2.admission 5 made.1))) =
      [([true, true, false, false, false, false], some 0), ([true, true, false, false, true, false], none)] := by decide

set_option maxRecDepth 8000 in
theorem wit_RouterPlacesCells_5 :
    let c := cellFor next 48 2
    let s := arrived fabric (cellFor next 47 2) true 0
    (s.dev.productive c).find? (s.dev.usable 5 c.vc) = none ∧ c.gold = true ∧
    (s.dev.productive c).find? (fun o => (victimOf c.age (s.dev.bankQ 5 o c.vc)).isSome) = some 0 ∧
    victimOf c.age (s.dev.bankQ 5 0 c.vc) = some 3 ∧ (s.dev.bankQ 5 0 c.vc)[3]? = some ⟨cellFor next 47 2, 1, false⟩ := by decide

set_option maxRecDepth 8000 in
theorem wit_RouterPlacesCells_2 :
    let c := cellFor next 47 2
    let others := ((List.range 12).map (fun i => (5 + 1 + i) % 12)).filter (fun o => o < 6)
    (let s := arrived fabric c true 0
     (s.dev.productive c).find? (s.dev.usable 5 c.vc) = none ∧ c.gold = false ∧ others.find? (s.dev.usable 5 c.vc) = some 1) ∧
    [15, 16].all (fun n =>
      let s := arrived (fun d => (fabric d).modPort 1 (fun p => { p with st := .failed })) c true n
      (s.dev.productive c).find? (s.dev.usable 5 c.vc) = none && (List.range 6).all (fun o => !s.dev.usable 5 c.vc o) &&
      (s.dev.bank 5).reserve.length = n) = true := by decide

/-- A cell is offered at delivery port 11 for injection. -/
def offered (c : Cell) (n : Nat) : State :=
  let s := arrived fabric c false n
  s.onDev { s.dev with router := { s.dev.router with offers := [(11, [⟨c, none, none⟩])], banks := tabSet {} s.dev.router.banks 11 { reserve := List.replicate n ⟨c, 1, false⟩ } } }

set_option maxRecDepth 8000 in
theorem wit_RouterPlacesCells_3 :
    let c := cellFor next 0 2
    (∃ o, (offered c 0).dev.nextOffer 11 = some o ∧ o.cell.headerFault = none ∧ (offered c 0).dev.refuses o.cell = false ∧ o.ring = none ∧ o.coll = none ∧
      (offered c 0).dev.admission ((11 + 0) % 12) o.cell = some 0 ∧ (offered c 0).dev.flag Reg.fabMirrorCtrl 32 = false ∧
      (offered c 0).dev.glb.stopped = false) ∧
    (offered c 1).dev.admission ((11 + 0) % 12) c = none ∧
    (on (fun d => { d with glb := { d.glb with stopped := true } })).dev.glb.stopped = true ∧
    (offered c 0).dev.isHere c = false ∧ 0 ∈ (offered c 0).dev.productive c ∧
    victimOf 49 [⟨cellFor 0 3 2, 0, false⟩, ⟨cellFor 0 1 2, 0, false⟩, ⟨cellFor 0 1 2, 1, false⟩] = some 2 :=
  ⟨⟨_, rfl, by decide, by decide, by decide, by decide, by decide, by decide, by decide⟩, by decide, by decide, by decide, by decide, by decide⟩

/-- Bank 0 holds a cell in its reserve, or in the queue of an output and VC. -/
def banked (b : Bank) : State := on (fun d => fabric { d with router := { d.router with banks := [(0, b), (6, b)] } })

set_option maxRecDepth 8000 in
theorem wit_RouterServesBanks_1 :
    let q (vc : Nat) : QCell := ⟨cellFor next 0 vc, 1, false⟩
    ([({ reserve := [q 1] } : Bank), { drainReserve := [q 0], reserve := [q 1] }, { queues := [(0, [q 0]), (24, [q 0])] },
      { queues := [(0, [q 0])], draining := [(0, [q 0])], reserve := [q 1] }, { queues := [(3, [q 3])] }, {}].map (fun b =>
        (banked b).dev.stageTurn 0 0)) =
      [some (false, true), some (true, true), some (false, false), some (true, false), some (false, false), none] ∧
    (let s := banked { drainReserve := [q 0], reserve := [q 1] }
     s.dev.flag Reg.fabRtCtrl 0 = true ∧ s.dev.flag Reg.fabMirrorCtrl 32 = false ∧ s.dev.reserveReady 0 true 0 = some 0 ∧
     (s.dev.sideReserve 0 true)[0]? = some (q 0)) ∧
    (let s := banked { queues := [(0, [q 0]), (24, [q 0])] }
     s.dev.fifoRoom 0 0 = true ∧ s.dev.sideQ 0 false 0 0 = q 0 :: [] ∧ (q 0).cell.vc = 0 ∧
     s.dev.stageTurn 6 6 = some (false, false) ∧ s.dev.fifoRoom 6 0 = true ∧ s.dev.sideQ 6 false 6 0 = q 0 :: []) ∧
    (let s := banked { queues := [(3, [q 3])] }
     s.dev.sideQ 0 false 0 0 = [] ∧ s.dev.fifoRoom 0 1 = true ∧
     (∃ x, s.dev.pickBulk 0 false 0 = some x ∧ (s.dev.sideQ 0 false 0 x.1)[x.2.1]? = some (q 3) ∧ (q 3).cell.vc = x.1)) ∧
    State.reset.dev.flag Reg.fabRtCtrl 0 = false :=
  ⟨by decide, by decide, by decide, ⟨by decide, by decide, _, rfl, by decide, by decide⟩, by decide⟩

set_option maxRecDepth 8000 in
theorem wit_RouterServesBanks_2 :
    let q : QCell := ⟨cellFor next 0 3, 1, false⟩
    (let s := banked { queues := [(47, [q])], draining := [(47, [q])], reserve := [q], drainReserve := [q] }
     ((s.dev.bank 0).queues.map (·.1)).Nodup ∧ (s.dev.sideQ 0 true 11 3 ++ s.dev.sideQ 0 false 11 3).length = 2 ∧
     (s.dev.sideQ 0 true 11 3).length = 1 ∧ (s.dev.sideReserve 0 true ++ s.dev.sideReserve 0 false).length = 2 ∧
     0 < s.dev.fld Reg.fabRtStatus 21 20) ∧
    (on (regs [(Reg.fabRtStatus, 0)])).dev.fld Reg.fabRtStatus 21 20 = 0 ∧
    (let s := on (fun d => { d with router := { d.router with mirrorIn := [cellFor next 0 2] } })
     s.dev.router.mirrorIn = cellFor next 0 2 :: [] ∧ s.dev.enabledRings.find? (fun r => s.dev.fld (Reg.ringCtrl r) 2 1 = 2) = none) ∧
    (let s := on (fun d => { regs [(Reg.ringCtrl 4095, 5)] d with router := { d.router with mirrorIn := [cellFor next 0 2] } })
     s.dev.enabledRings.find? (fun r => s.dev.fld (Reg.ringCtrl r) 2 1 = 2) = some 4095 ∧ s.dev.cqFull 4095 = false ∧
     s.dev.flag (Reg.ringCqBase 4095) 0 = false ∧ s.dev.flag (Reg.ringCtrl 4095) 27 = false) := by decide

/-! Orders that change no bit, collectives and Filigree. -/

theorem wit_OrderNeverChangesBits :
    List.Perm [⟨1, 0, 2, false⟩, ⟨3, 1, 4, false⟩] ([⟨3, 1, 4, false⟩, ⟨1, 0, 2, false⟩] : List AccBlock) ∧ List.Perm [0x3F800000, 1] ([1, 0x3F800000] : List Nat) ∧
    List.Perm [(1, true, 0), (2, false, 3)] ([(2, false, 3), (1, true, 0)] : List (Nat × Bool × Nat)) ∧
    (0 :: [((1 : Nat), true, 0), (2, false, 3)].map (·.1)).Nodup := by
  refine ⟨List.Perm.swap _ _ _, List.Perm.swap _ _ _, List.Perm.swap _ _ _, by decide⟩

/-- A collective of COLL_ID 0x7FFF with a descriptor. -/
def coll (d : List Byte) : Coll := { id := 0x7FFF, ctx := 0, ring := 4095, seq := 65535, desc := d }

/-- Its descriptor: operation and formats, and a count. -/
def descOf (w count : Nat) : List Byte :=
  toLe 4 w ++ toLe 4 0x7FFF ++ toLe 4 count ++ toLe 4 0 ++ toLe 8 0x10000 ++ toLe 8 0x20000 ++ List.replicate 32 0

/-- It waits to open on a block of two. -/
def collState (on_ : Nat) (c : Coll) : State := on (fun d => { block2 (d.wr Reg.collCtrl on_) with colls := [c] })

theorem wit_CollectivesOpenPlaceAndVote_1 :
    (let c := coll (descOf 0 256)
     let s := collState 1 c
     Safety.Operating s ∧ s.dev.colls.find? (fun c => c.phase = .waiting) = some c ∧ (collState 0 c).dev.mayOpen = false ∧ s.dev.mayOpen = true ∧
     s.dev.isSmall c = false ∧ s.dev.badColl c = false ∧ s.dev.takeSpace c = (true, [], s.dev) ∧ s.dev.mig.now = {} ∧
     ((s.dev.modColl c.id (fun x => { x with bufs := [], streams := s.dev.expected c [] })).enterOpen c.id 0).mig.now = {}) ∧
    (let c := coll (descOf 15 256)
     let d := (collState 1 c).dev
     d.isSmall c = false ∧ d.badColl c = true ∧ (d.enterOpen c.id 0x81).mig.now = {}) ∧
    (let c := coll (descOf 0xAA3 2)
     let d := (collState 1 c).dev
     let e := (d.bump Reg.collCntOpened 1).modColl c.id (fun c => { c with small := true, phase := .data, own := 0 })
     d.isSmall c = true ∧ d.badColl c = false ∧ c.count ≠ 0 ∧ (if e.failHeard c.id then e.voteFail c.id else e.smallStart c).collSweep.mig.now = {}) := by
  decide

/-- A cell of stream (level 0, source 1, shard 0) has arrived, with a format and an index. -/
def collCell (fmt index : Nat) : Cell := mkCell 0 next 1 [collExt fmt 0 0 0x7FFF 1 index 0] [7, 8] 0 0 false

/-- It is at the engine's port beside a collective. -/
def cellIn (c : Option Coll) (cell : Cell) : State :=
  on (fun d => { block2 d with colls := c.toList, router := { d.router with collIn := [cell] } })

/-- A collective in its data phase that expects that stream. -/
def inData (phase : CollPhase) (got : List Nat) : Coll :=
  { coll (descOf 0 256) with phase := phase, streams := [⟨0, 1, 0, [], [(0x20000, 480)], got⟩] }

set_option maxRecDepth 8000 in
theorem wit_CollectivesOpenPlaceAndVote_2 :
    let cell := collCell 0 1
    let s := cellIn (some (inData .data [0])) cell
    (List.range cell.extCount).find? (fun i => bitsOf (cell.extWord i) 2 0 = 1) = some 0 ∧ fldOf (cell.ext 0) 0 15 8 = s.dev.mountFmt ∧
    s.dev.coll? (fldOf (cell.ext 0) 4 15 0) = some (inData .data [0]) ∧ fldOf (cell.ext 0) 8 31 0 ∉ [0] ∧ fldOf (cell.ext 0) 8 31 0 < 2 ∧
    (∃ x, (inData .data [0]).streams.find? (fun x => x.level = fldOf (cell.ext 0) 0 21 19 && x.src = fldOf (cell.ext 0) 4 27 16 &&
      x.shard = fldOf (cell.ext 0) 12 11 0) = some x ∧ x.cells = 2 ∧ x.head = []) ∧
    fldOf ((collCell 0 0).ext 0) 8 31 0 ∈ [0] ∧ fldOf ((collCell 0 2).ext 0) 8 31 0 = 2 ∧
    (fldOf ((collCell 1 0).ext 0) 0 15 8 ≠ (cellIn none (collCell 1 0)).dev.mountFmt ∧
      (cellIn none (collCell 1 0)).dev.coll? (fldOf ((collCell 1 0).ext 0) 4 15 0) = none) ∧
    (match ((s.dev.modColl 0x7FFF (fun c => { c with streams := c.streams.map (fun y => { y with got := [0, 1] }) })).bump
        Reg.collCntRxCells 1).landAll 0 (landing [(0x20000, 480)] (240 * 1) cell.data) with
      | (true, f) => decide (((f.collStep 0x7FFF).collSweep).mig.now = {} ∧ s.dev.mig.now = {})
      | _ => false) = true :=
  ⟨by decide, by decide, by decide, by decide, by decide, ⟨_, rfl, by decide, by decide⟩, by decide, by decide, by decide, by decide⟩

/-- A round message of a type with a key and SUB from device 1 has arrived beside a collective. -/
def roundMsg (typ key sub : Nat) (c : List Coll) : State :=
  on (fun d => { block2 d with colls := c, fil := { d.fil with rx := [⟨typ, 1, key, sub, 0, List.replicate 64 0, 0, 0⟩] } })

set_option maxRecDepth 8000 in
theorem wit_CollectivesOpenPlaceAndVote_5 :
    let s := cellIn (some (inData .data [])) (collCell 1 0)
    fldOf ((collCell 1 0).ext 0) 0 15 8 ≠ s.dev.mountFmt ∧ s.dev.colls = [inData .data []] ∧ (inData .data []).id = fldOf ((collCell 1 0).ext 0) 4 15 0 ∧
    (inData .data []).early = false ∧ (inData .data []).own = 0 ∧ s.dev.fil.held = [] ∧ 1 < s.dev.blockN ∧ s.dev.firstAxis = some 0 ∧
    s.dev.lineOf 0 = [1] := by decide

theorem wit_CollectivesOpenPlaceAndVote_3 :
    let opening := { coll (descOf 0 256) with phase := .opening }
    let small := { coll (descOf 0xAA3 2) with phase := .data, small := true }
    (∃ m d, (roundMsg 2 0x7FFF 0 []).dev.filTake 2 = (some m, d) ∧ bitsOf m.sub 9 2 = d.mountFmt ∧ d.coll? m.key = none) ∧
    (∃ m d, (roundMsg 2 0x7FFF 0 [opening]).dev.filTake 2 = (some m, d) ∧ d.coll? m.key = some opening ∧ bitOf m.sub 0 = false ∧
      (opening.bar false).axis = bitsOf m.sub 11 10) ∧
    (∃ m d, (roundMsg 2 0x7FFF 1 [inData .data []]).dev.filTake 2 = (some m, d) ∧ bitsOf m.sub 9 2 = d.mountFmt ∧
      d.coll? m.key = some (inData .data []) ∧ isFail m m.key = true ∧
      (((({ d with fil := { d.fil with held := d.fil.held ++ [m] } } : Dev).voteFail m.key).collSweep).mig.now = {})) ∧
    (∃ m d, (roundMsg 3 0x7FFF 0 [small]).dev.filTake 3 = (some m, d) ∧ d.coll? m.key = some small ∧ small.smallAxis = bitsOf m.sub 1 0) ∧
    (∃ m d, (roundMsg 3 1 0 [small]).dev.filTake 3 = (some m, d) ∧ d.coll? m.key = none) :=
  ⟨⟨_, _, rfl, by decide, by decide⟩, ⟨_, _, rfl, by decide, by decide, by decide⟩,
   ⟨_, _, rfl, by decide, by decide, by decide, by decide⟩, ⟨_, _, rfl, by decide, by decide⟩, ⟨_, _, rfl, by decide⟩⟩

theorem wit_CollectivesOpenPlaceAndVote_4 :
    let c := inData .data []
    let s := cellIn (some c) (collCell 0 0)
    (Safety.Operating s ∧ s.dev.coll? 0x7FFF = some c ∧ c.phase ≠ .waiting ∧ c.reported = false ∧ c.re = none ∧ s.dev.fil.held = [] ∧
      1 < s.dev.blockN ∧ c.bufs = [] ∧ s.dev.colls = [c] ∧ s.dev.job? c.ring c.seq = none) ∧
    (let d := (collState 1 (coll (descOf 0 256))).dev
     d.coll? 0x7FFF = some (coll (descOf 0 256)) ∧ d.fil.held = [] ∧ 1 < d.blockN ∧ ∀ x ∈ d.colls, x.phase ≠ .closing) := by decide

/-! Memory-semantic traffic. -/

/-- A memory request from the second device of the block: operation, SEQ, length, offset, data. -/
def reqCell (mop seq len off : Nat) (data : List Byte) : Cell :=
  mkCell (5 * 256) next 2 [toLe 4 (2 + mop * 2 ^ 8 + len * 2 ^ 16) ++ toLe 4 seq ++ toLe 8 off] data 0 0 false

/-- A home of 64 KiB in the direct part. -/
def home (l : List (Nat × Nat)) (c : Cell) : State :=
  on (fun d => let d := fabric (regs ([(Reg.memCtrl, 1), (Reg.memExportBase, 0x8000000), (Reg.memExportSize, 1)] ++ l) d)
               { d with router := { d.router with memIn := [c] } })

/-- What R232 to R235 ask of the request at the head: its operation, a length in range, whether it is a duplicate, its turn. -/
def requestIn (s : State) : Option (Nat × Bool × Bool × Bool) :=
  match s.dev.takeMem [0, 1, 2, 3] with
  | some (c, h, d) =>
    let r := d.requestOf c h
    some (r.mop, decide (0 < r.len) && decide (r.len ≤ 128), d.isDup r, (d.homeSrc r.srcPlace.toNat).next = r.seq)
  | none => none

set_option maxRecDepth 8000 in
theorem wit_HomesReplicasAndRequests_1 :
    requestIn (home [] (reqCell 1 65535 128 0 (List.replicate 128 9))) = some (1, true, true, false) ∧
    requestIn (home [] (reqCell 2 63 128 0 (List.replicate 128 9))) = some (2, true, false, false) ∧
    requestIn (on (fun d => { d with router := { d.router with memIn := [reqCell 1 0 1 0 [9]] } })) = some (1, true, false, true) ∧
    State.reset.dev.mountFmt = 0 ∧
    [(0, ([] : List Byte)), (1, List.replicate 128 9)].all (fun e =>
      let s := home [] (reqCell e.1 0 128 (65536 - 128) e.2)
      match s.dev.takeMem [0, 1, 2, 3] with
      | some (c, h, d) =>
        let r := d.requestOf c h
        let a := d.rd Reg.memExportBase + r.off
        decide (r.mop = e.1 ∧ r.len = 128 ∧ d.isDup r = false ∧ d.mountFmt ≠ 0 ∧ d.flag Reg.memCtrl 0 = true ∧ d.flag Reg.memCtrl 1 = false ∧
          r.off + r.len ≤ d.exportBytes ∧ Safety.Direct s a r.len ∧ d.remote.sharers = [] ∧ c.data.length = (if r.mop = 1 then r.len else 0) ∧
          r.off / 65536 = 0 ∧ d.replicable 0 = false)
      | none => false) = true := by decide

set_option maxRecDepth 8000 in
theorem wit_HomesReplicasAndRequests_2 :
    let s := home [] (reqCell 1 0 64 0 (List.replicate 64 9))
    let s := s.onDev { s.dev with remote := { s.dev.remote with sharers := [(0, [1])] } }
    (match s.dev.takeMem [0, 1, 2, 3] with
     | some (c, h, d) =>
       let r := d.requestOf c h
       decide (r.mop = 1 ∧ d.isDup r = false ∧ d.engineCheck (d.rd Reg.memExportBase + r.off) r.len = none ∧
         d.heldLine r r.len = some 0 ∧ d.waitsFor 0 = [1] ∧ d.askedOf 0 = [] ∧ d.mountFmt ≠ 0 ∧ d.flag Reg.memCtrl 0 = true)
     | none => false) = true := by decide

set_option maxRecDepth 8000 in
theorem wit_HomesReplicasAndRequests_7 :
    [(home [] (reqCell 1 0 64 65536 (List.replicate 64 9)), true), (home [(Reg.memExportBase, directSize)] (reqCell 1 0 64 0 (List.replicate 64 9)), false)].all (fun e =>
      match e.1.dev.takeMem [0, 1, 2, 3] with
      | some (c, h, d) =>
        let r := d.requestOf c h
        decide (d.exportBytes < r.off + r.len) = e.2 && (e.2 || (d.engineCheck (d.rd Reg.memExportBase + r.off) r.len).isSome) &&
          decide (d.isDup r = false ∧ r.mop < 2 ∧ d.mountFmt ≠ 0 ∧ d.flag Reg.memCtrl 0 = true ∧ e.1.dev.mig.now = {})
      | none => false) = true := by decide

/-- A request kept at a home. -/
def kept (mop seq : Nat) : HomeReq := ⟨1, seq, mop, 0, 0, 4, [1, 2, 3, 4], BitVec.ofNat 32 next, 0⟩

theorem wit_HomesReplicasAndRequests_3 :
    (let s := on (fun d => { d with remote := { d.remote with homes := [(16383, { next := 7, flagged := [kept 2 7] })] } })
     s.dev.dueFlagged 16383 = some (kept 2 7)) ∧
    (∀ r ∈ (State.reset.dev.homeSrc 16383).flagged, r.seq ≠ (State.reset.dev.homeSrc 16383).next) := by decide

/-- A load of core 575 at the second device, slot 63. -/
def loadReq : RemoteReq := ⟨575, 63, 0, 1, 9, 0, 0, 0, 8, 0x2000, 0, 0x40, [], true, true⟩

/-- Its answer. -/
def answer : Cell := mkCell 0 next 2 [toLe 4 (2 + 4 * 2 ^ 8 + 8 * 2 ^ 16) ++ toLe 4 9 ++ toLe 8 0] [1, 2, 3, 4, 5, 6, 7, 8] 0 (575 + 63 * 2 ^ 32) false

set_option maxRecDepth 8000 in
theorem wit_HomesReplicasAndRequests_4 :
    let s := on (fun d => { block2 d with router := { d.router with respIn := [answer] }, remote := { d.remote with reqs := [loadReq] } })
    let run := running 575 (prog 575) []
    (∃ h, answer.memExt = some h ∧ fldOf h 0 11 8 = 4 ∧ s.dev.answered answer h = some loadReq ∧ State.reset.dev.answered answer h = none ∧
      fldOf h 0 26 24 = 0 ∧ bitOf (fldOf h 0 31 0) 27 = false) ∧ s.dev.router.respIn = answer :: [] ∧ s.dev.inOctet 1 = false ∧
    State.reset.dev.remote.reqs.find? (fun r => r.sent && r.core = 575 && r.slot = 63) = none ∧
    (let t := run.onDev { run.dev with remote := { run.dev.remote with reqs := [loadReq] } }
     t.dev.remote.reqs.find? (fun r => r.sent && r.core = 575 && r.slot = 63) = some loadReq) ∧
    (let e := (((({ s.dev with router := { s.dev.router with respIn := [] } } : Dev).dropReq loadReq).locWrite 575 0x2000 (answer.data.take 8)).pumped).progress
     e.mig.now = {} ∧ e.mig.stalls = [] ∧ s.dev.mig.now = {} ∧ s.dev.mig.stalls = []) :=
  ⟨⟨_, rfl, by decide, by decide, by decide, by decide, by decide⟩, by decide, by decide, by decide, by decide, by decide⟩

/-- A write waits for a sharer of the last line of a 64 KiB window. -/
def lineWait : LineWait := { line := 1023, sharers := [1], req := none, local_ := [(0x800FFC0, 1), (0x800FFC1, 2)], owner := some (0, 575) }

set_option maxRecDepth 8000 in
theorem wit_HomesReplicasAndRequests_5 :
    (match (home [] (reqCell 5 0 64 0 [])).dev.takeMem [5] with
     | some _ => true
     | none => false) = true ∧
    (let s := on (fun d => { d with remote := { d.remote with waits := [lineWait], sharers := [(1023, [1])] } })
     let e := ((s.dev.log { code := 0x94, domain := 33, addr := s.dev.rd Reg.memExportBase + 1023 * 64, kind := 1 }).sharerDone 1023 1).progress
     e.mig.now = {} ∧ e.mig.stalls = [] ∧ s.dev.mig.now = {} ∧ s.dev.mig.stalls = [] ∧
     lineWait.owner = some (0, 575) ∧ s.dev.remote.sharers = [(1023, [1])] ∧ s.dev.remote.waits = [lineWait] ∧ lineWait.line = 1023 ∧ lineWait.sharers = [1] ∧ lineWait.req = none ∧
     lineWait.local_ = ([1, 2] : List Byte).zipIdx.map (fun b => (0x800FFC0 + b.2, b.1)) ∧ 0x800FFC0 + 2 ≤ directSize) := by decide

/-- A replica of page 2^19 - 1 of device 4095, and a message that invalidates it with an epoch. -/
def replicated (ttl : Nat) (complete : Bool) (epoch : Nat) : State :=
  on (fun d => { d.wr Reg.memReplTtl ttl with
                 remote := { d.remote with replicas := [⟨4095, 2 ^ 19 - 1, 5, 0, 0, complete, false⟩] },
                 fil := { d.fil with rx := [⟨4, 4095, epoch, 2 ^ 19 - 1, 0, [], 0, 0⟩] } })

theorem wit_HomesReplicasAndRequests_6 :
    (replicated 1 false 0).dev.replica? 4095 (2 ^ 19 - 1) = some ⟨4095, 2 ^ 19 - 1, 5, 0, 0, false, false⟩ ∧
    (replicated 1 false 0).dev.remote.reqs.any (fun q => q.core = 576 && q.home = 4095 && q.off / 65536 = 2 ^ 19 - 1) = false ∧
    (replicated 1 true 0).dev.stroke < 0 + (replicated 1 true 0).dev.rd Reg.memReplTtl ∧
    0 + (replicated 0 true 0).dev.rd Reg.memReplTtl ≤ (replicated 0 true 0).dev.stroke ∧
    [5, 6].all (fun e => ((replicated 1 true e).dev.fil.rx.find? (fun m => m.typ = 4)).any (fun m => m.src = 4095 && m.sub = 2 ^ 19 - 1 && m.key = e)) = true := by
  decide

/-! Timebase. -/

/-- A beat record with a valid CHECK. -/
def recordOf (stroke hops hold master : Nat) : BitVec 128 :=
  let body := stroke + hops * 2 ^ 78 + hold * 2 ^ 83 + master * 2 ^ 96
  BitVec.ofNat 128 (body + recordCheck body * 2 ^ 120)

/-- The beat runs with TB_CTRL as given; the timebase is changed by f. -/
def beat (ctrl : Nat) (f : Timebase → Timebase) : State := on (fun d => { d.wr Reg.tbCtrl ctrl with tb := f d.tb })

/-- A follower's port 5 is up and has completed a record. -/
def recorded (r : BitVec 128) (f : Timebase → Timebase) : State :=
  (beat 1 f).onDev ((beat 1 f).dev.modPort 5 (fun p => { p with st := .active, record := some r }))

theorem wit_BeatFollowsItsReference_1 :
    (Safety.Writable State.reset .host ∧ State.reset.dev.flag Reg.tbCtrl 0 = false ∧
      Safety.Fits Reg.tbCtrl (setBits (State.reset.dev.rd Reg.tbCtrl) 0 0 1) ∧ State.reset.dev.flag Reg.tbCtrl 2 = false) ∧
    [(14, 2, 0xF1F0), (15, 3, 0xF1F0), (0, 3, 0xF1F1)].all (fun e =>
      let s := (beat 3 (fun t => { t with goodEdges := e.1, badEdges := e.2.1 })).onDev
        ((beat 3 (fun t => { t with goodEdges := e.1, badEdges := e.2.1 })).dev.wr Reg.tbStatus e.2.2)
      decide (Safety.Operating s ∧ s.dev.beatOn = true ∧ s.dev.isMaster = true ∧ s.dev.tb.goodEdges = e.1 ∧ s.dev.tb.badEdges = e.2.1 ∧
        s.dev.flag Reg.tbStatus 0 = decide (e.2.2 = 0xF1F1))) = true := by decide

theorem wit_BeatFollowsItsReference_2 :
    let bad := recorded 1 id
    let good := recorded (recordOf 7 30 1 0xFFFFF) id
    let two := recorded (recordOf 7 30 1 0xFFFFF) (fun t => { t with heard := [(4, recordOf 7 1 0 5)] })
    let master := good.onDev (good.dev.wr Reg.tbCtrl 3)
    (Safety.Operating bad ∧ bad.dev.beatOn = true ∧ (bad.dev.optPort 5).st = .active ∧ (bad.dev.optPort 5).record = some 1 ∧ recValid 1 = false) ∧
    (recValid (recordOf 7 30 1 0xFFFFF) = true ∧ good.dev.isMaster = false ∧ good.dev.parent = 15 ∧ good.dev.tb.heard = [] ∧
      good.dev.tb.heardLast = []) ∧
    ((4, recordOf 7 1 0 5) ∈ two.dev.tb.heard ∧ recMaster (recordOf 7 1 0 5) ≠ recMaster (recordOf 7 30 1 0xFFFFF) ∧
      two.dev.flag Reg.tbStatus 2 = false) ∧
    (master.dev.isMaster = true ∧ master.dev.beatOn = true ∧ (master.dev.optPort 5).record = some (recordOf 7 30 1 0xFFFFF)) := by decide

/-- A follower of port 5, which has the given state; the records of the last stroke. -/
def follower (st : PortState) (l : List (Nat × BitVec 128)) : State :=
  let d := ((beat 1 (fun t => { t with heardLast := l })).dev.wr Reg.tbStatus 0x51F0).modPort 5 (fun p => { p with st := st })
  State.reset.onDev (d.modPort 0 (fun p => { p with st := .active }))

/-- R248's worked example: a record that arrives 185,740 ps after the boundary, on a port of delay 184,480 ps and with OFFSET 1,230 ps, makes e 30 ps. -/
theorem test_beat_error :
    let r := recordOf 0 0 0 5 ||| BitVec.ofNat 128 (1230 * 2 ^ 64)
    let s := recorded r id
    ((185740 : Int) - ((s.onDev (s.dev.wr (Reg.fabPortDelay 5) 184480)).dev.fld (Reg.fabPortDelay 5) 23 0 : Int) - (recOffset r : Int)) = 30 := by decide

theorem wit_BeatFollowsItsReference_3 :
    let r := recordOf 7 1 0 5
    [follower .active [(5, r)], follower .active [(0, r)], follower .retrain [(5, r)], follower .active []].all (fun s =>
      decide (Safety.Operating s ∧ s.dev.beatOn = true ∧ s.dev.isMaster = false ∧ s.dev.parent = 5)) = true ∧
    (follower .active [(5, r)]).dev.tb.heardLast = [(5, r)] ∧ (follower .active [(0, r)]).dev.chooseParent [(0, r)] = some (0, r) ∧
    (follower .retrain [(5, r)]).dev.chooseParent [(5, r)] = none ∧ (follower .active []).dev.chooseParent [] = none := by decide

theorem wit_StrokeFiresItsEvents_1 :
    State.reset.dev.beatOn = false ∧
    (let s := (beat 3 (fun t => { t with stepTo := some 9 })).onDev ((beat 3 (fun t => { t with stepTo := some 9 })).dev.wr Reg.tbStatus 0xF3)
     s.dev.tb.stepTo = some 9 ∧ s.dev.flag Reg.tbStatus 0 = true) ∧
    [beat 3 id, beat 3 (fun t => { t with stepTo := some (2 ^ 64 - 1) })].all (fun s =>
      decide (Safety.Operating s ∧ s.dev.beatOn = true ∧ s.dev.obs.pending = none ∧ s.dev.tb.clasps = [] ∧ s.dev.tb.claspQueue = [] ∧
        s.dev.stroke + 1 < 2 ^ 64 ∧ s.dev.flag Reg.tbBezelCtrl 0 = false ∧ s.dev.flag Reg.tbBezelCtrl 2 = false ∧ s.dev.isMaster = true ∧
        s.dev.tb.hmDue = [])) = true ∧
    [1, 2].all (fun k =>
      let s := (beat 3 id).onDev (regs [(Reg.tbBezelCtrl, 4), (Reg.tbBezelPeriod0, k)] (beat 3 id).dev)
      decide (s.dev.tb.stepTo = none ∧ s.dev.flag Reg.tbBezelCtrl 0 = false ∧ s.dev.flag Reg.tbBezelCtrl 2 = true ∧
        s.dev.cycleStart (s.dev.stroke + 1) = decide (k = 1))) = true := by decide

/-- A schedule of period 4 that started at stroke 0, with entries. -/
def bezel (l : List Nat) : State :=
  on (fun d => live 63 (regs ([(Reg.tbCtrl, 3), (Reg.tbBezelCtrl, 1), (Reg.tbBezelPeriod0, 4), (Reg.tbBezelCount, l.length)] ++
    (List.range l.length).map (fun k => (Reg.tbBezelEntry 0 k, l.getD k 0))) d))

/-- An entry at offset 1: a context and an action. -/
def entry (c act : Nat) : Nat := 1 + c * 2 ^ 24 + act * 2 ^ 30

theorem wit_StrokeFiresItsEvents_2 :
    [(63, 0), (63, 1), (63, 2), (1, 0)].all (fun e =>
      let s := bezel [entry e.1 e.2]
      decide (Safety.Operating s ∧ s.dev.beatOn = true ∧ s.dev.obs.pending = none ∧ s.dev.tb.clasps = [] ∧ s.dev.tb.claspQueue = [] ∧
        s.dev.tb.stepTo = none ∧ s.dev.flag Reg.tbBezelCtrl 0 = true ∧ s.dev.flag Reg.tbBezelCtrl 2 = false ∧
        s.dev.tb.fired ≤ s.dev.stroke ∧ s.dev.entriesAt (s.dev.stroke + 1) = [0] ∧
        s.dev.fld (Reg.tbBezelEntry s.dev.activeBank 0) 29 24 = e.1 ∧ s.dev.fld (Reg.tbBezelEntry s.dev.activeBank 0) 31 30 = e.2 ∧
        ((s.dev.ctx e.1).mode = .live ↔ e.1 = 63))) = true ∧
    [false, true].all (fun run =>
      let s := (bezel [entry 63 0]).onDev ((bezel [entry 63 0]).dev.modCtx 63 (fun x => { x with rt := true, runnable := run, saved := [0] }))
      decide ((s.dev.ctx 63).mode = .live ∧ (s.dev.ctx 63).rt = true ∧ (s.dev.ctx 63).runnable = run ∧ s.dev.entriesAt (s.dev.stroke + 1) = [0])) = true := by
  decide

theorem wit_StrokeFiresItsEvents_3 :
    (let s := (beat 3 id).onDev { (beat 3 id).dev with obs := { (beat 3 id).dev.obs with armed := true, pending := some (1, 2, 3) } }
     Safety.Operating s ∧ s.dev.beatOn = true ∧ s.dev.tb.stepTo = none ∧ s.dev.flag Reg.tbBezelCtrl 2 = false ∧
     s.dev.obs.pending = some (s.dev.stroke + 1, 2, 3) ∧ s.dev.obs.armed = true ∧ s.dev.flag Reg.tbBezelCtrl 0 = false) ∧
    [(0, 1), (1, 0)].all (fun e =>
      let s := bezel [entry 63 e.1, entry 63 e.2]
      decide (s.dev.obs.pending = none ∧ s.dev.flag Reg.tbBezelCtrl 0 = true ∧ s.dev.tb.fired ≤ s.dev.stroke ∧ s.dev.tb.clasps = [] ∧
        s.dev.entriesAt (s.dev.stroke + 1) = [0, 1] ∧ (s.dev.ctx 63).mode = .live ∧
        [0, 1].map (fun k => s.dev.fld (Reg.tbBezelEntry s.dev.activeBank k) 31 30) = [e.1, e.2] ∧
        [0, 1].map (fun k => s.dev.fld (Reg.tbBezelEntry s.dev.activeBank k) 29 24) = [63, 63])) = true ∧
    (let c := { openClasp 0 with release := some 1 }
     let f := { openClasp 65535 with release := some 1 }
     let s := beat 3 (fun t => { t with clasps := [f, c] })
     s.dev.obs.pending = none ∧ s.dev.flag Reg.tbBezelCtrl 0 = false ∧ s.dev.tb.clasps = [f, c] ∧ c.n < f.n ∧
     c.release = some (s.dev.stroke + 1) ∧ f.release = some (s.dev.stroke + 1) ∧ s.dev.busyCores = [] ∧ s.dev.jobs = []) ∧
    (let s := State.reset
     Safety.Writable s .i3c ∧ s.dev.flag Reg.tbBezelCtrl 2 = false ∧
     Safety.Fits Reg.tbBezelCtrl (setBits (s.dev.rd Reg.tbBezelCtrl) 2 2 1)) := by decide

/-- With no job the Clasps are plain. -/
theorem plainClasp_of_nil {s : State} (h : s.dev.jobs = []) (c : Clasp) : Safety.PlainClasp s c := by
  intro j e
  simp [Blocks.job?, h] at e

/-- Device 0 of a block of three along Z, with a Clasp in its Z round, device 2's vote and a message of device 1. -/
def clasping (sub : Nat) (data : List Byte) (f : Clasp → Clasp) : State :=
  on (fun d => { regs [(Reg.fabRtBlock, 0x2000000), (Reg.tbStroke, 4)] d with
    tb := { d.tb with clasps := [f { openClasp 65535 with axis := 2, got := [(2, 2, true, 8)] }] },
    fil := { d.fil with rx := [⟨5, 1, 65535, sub, 0, data, 0, 0⟩] } })

theorem wit_ClaspsReleaseOrFail_1 :
    let claim (s : State) (out : Bool) (all ok late : Bool) : Bool :=
      match s.dev.filTake 5 with
      | (some m, d) => (match d.clasp? m.key with
        | some c =>
          let votes := (c.take m).got.filter (fun g => g.1 = 2)
          let top := votes.foldl (fun m v => max m v.2.2.2) c.proposal
          decide (Safety.Operating s) && (if out then !isClaspRound m c.n c.axis else
            isClaspRound m c.n 2 && c.axis = 2 && c.release = none && d.tb.claspQueue = [] && d.lineOf 2 ≠ [] && d.busyCores = [] &&
            s.dev.jobs = [] && (d.lineOf 2).all (fun i => votes.any (fun v => v.2.1 = i)) = all &&
            (c.ok && votes.all (fun v => v.2.2.1)) = ok && decide (top ≤ d.stroke) = late)
        | none => false)
      | _ => false
    claim (clasping 5 (toLe 8 9) id) true true true false = true ∧ claim (clasping 6 (toLe 8 9) id) false true true false = true ∧
    claim (clasping 6 (toLe 8 9) (fun c => { c with got := [] })) false false true false = true ∧
    claim (clasping 2 (toLe 8 9) id) false true false false = true ∧
    claim (clasping 6 (toLe 8 4) (fun c => { c with proposal := 4, got := [(2, 2, true, 4)] })) false true true true = true := by decide

theorem wit_ClaspsReleaseOrFail_2 :
    [(openClasp 65535, 99), (openClasp 65535, 100), ({ openClasp 65535 with release := some 101 }, 100)].all (fun e =>
      let s := (beat 3 (fun t => { t with clasps := [e.1] })).onDev ((beat 3 (fun t => { t with clasps := [e.1] })).dev.wr Reg.tbStroke e.2)
      decide (Safety.Operating s ∧ s.dev.clasp? 65535 = some e.1 ∧ s.dev.tb.claspQueue = [] ∧ s.dev.busyCores = [] ∧ s.dev.jobs = [] ∧
        (e.1.release.isSome = true ∨ s.dev.stroke < e.1.arrived + e.1.timeout ↔ (e.1.release.isSome = true ∨ e.2 = 99)))) = true ∧
    [(none, 2), (none, 1), (some 2, 1)].all (fun e =>
      let c := { openClasp 65535 with release := some e.2 }
      let s := beat 3 (fun t => { t with clasps := [c], stepTo := e.1 })
      decide (Safety.Operating s ∧ s.dev.beatOn = true ∧ s.dev.tb.clasps = [c] ∧ c.release = some e.2 ∧ s.dev.stroke < e.2 ∧
        s.dev.tb.claspQueue = [] ∧ s.dev.tb.stepTo.getD (s.dev.stroke + 1) < 2 ^ 64 ∧ s.dev.stroke + 1 < 2 ^ 64 ∧
        s.dev.flag Reg.tbBezelCtrl 0 = false ∧ s.dev.flag Reg.tbBezelCtrl 2 = false ∧ s.dev.busyCores = [] ∧ s.dev.obs.pending = none ∧
        s.dev.jobs = [])) = true := by decide

theorem wit_ClaspsReleaseOrFail_3 :
    let i := issued (.clasp 65535 7) clwaitInsn []
    let g := { prog 575 with score := [i] }
    let s := running 575 g clwaitInsn
    let at_ (n : Nat) : State := s.onDev (regs [(Reg.tbStroke, n), (Reg.tbClaspCfg, 3 * 2 ^ 8)] s.dev)
    [9, 10].map (fun n => ((at_ n).dev.claspHere 65535, decide ((at_ n).dev.stroke < 7 + (at_ n).dev.fld Reg.tbClaspCfg 31 8))) =
      [(false, true), (false, false)] ∧ Safety.Operating (at_ 9) ∧ (at_ 9).dev.prog? 575 = some g ∧
    s.dev.busyCores = [575] ∧ s.dev.prog? 575 = some g ∧ g.score = [i] ∧ i.pend = .clasp 65535 7 ∧ (vecOf i.insn).dst + 4 ≤ 2 ^ 22 := by decide

/-- An occurrence of context 63 that is due, on a ring of two slots; the head at h. -/
def hmDueState (ctrl head tail : Nat) : State :=
  on (fun d => { (regs [(Reg.tbCtrl, ctrl), (Reg.tbHmBase, 0x8000000), (Reg.tbHmSlots, 2), (Reg.tbHmHead, head), (Reg.tbHmTail, tail)] d).modCtx 63
      (fun x => { x with mode := .live, occs := [{ id := 5, hlayer := 65535, occ := 3, enabled := true, closed := true }] }) with
    tb := { d.tb with hmDue := [(63, 5)] } })

theorem wit_HallmarkEntries :
    State.reset.dev.tb.hmDue = [] ∧
    [(4, 1, 1, false), (4, 1, 0, true), (12, 1, 0, true)].all (fun e =>
      let s := hmDueState e.1 e.2.1 e.2.2.1
      let a := s.dev.rd Reg.tbHmBase + s.dev.rd Reg.tbHmHead * 4160
      decide (Safety.Operating s ∧ s.dev.tb.hmDue = [(63, 5)] ∧ ((s.dev.ctx 63).occs.find? (fun o => o.id = 5)).isSome = true ∧
        s.dev.tb.flushes = [] ∧ s.dev.jobs = [] ∧ s.dev.hmFull = e.2.2.2 ∧ Safety.Direct s a 4160 ∧ Safety.Unshared s a 4160 ∧
        s.dev.flag Reg.tbCtrl 3 = decide (e.1 = 12) ∧ Safety.Writable s .host ∧ s.dev.flag Reg.tbCtrl 2 = true ∧
        Safety.Fits Reg.tbCtrl (setBits (s.dev.rd Reg.tbCtrl) 2 2 0))) = true ∧
    (let s := hmDueState 4 1 1
     ∀ e ∈ s.dev.tb.hmDue, e.1 < 64 ∧ ∃ o ∈ (s.dev.ctx e.1).occs, o.id = e.2 ∧ o.closed = true ∧ o.jobs = []) := by
  refine ⟨by decide, by decide, ?_⟩
  intro s e he
  rw [show s.dev.tb.hmDue = [(63, 5)] from rfl] at he
  obtain rfl : e = (63, 5) := by simpa using he
  exact ⟨by decide, _, .head _, by decide, by decide, by decide⟩

/-! Mount loads. -/

/-- A key and a signature by it of the image below. -/
def signature : List Byte := toLe 193
  0x20f8a81908b57f21052edb797d6b5d03a7615d5a4e441f29214fdef595f7168d49645d509af738a1399c160a841851bd20f8a81908b57f21052edb797d6b5d03a7615d5a4e441f29214fdef595f7168d49645d509af738a1399c160a841851bd74115676adfe747c003ad010ba4c9f2c338a89ba50a93f095b2958414b2bd4413bea22d3642cfebef5681175a2148d50b504615e04a6cc0f7491deb0a21570f14c975447432b4b362e1e1c2443abe0753475e38a5c389531b70e73453ff8bd1b04

/-- A Mount image of format 1: one core a cluster of 16 columns, no map, one core group, no register. -/
def image : List Byte :=
  toLe 4 0x4D46584E ++ toLe 4 (1 + 3 * 2 ^ 16) ++ toLe 8 1025 ++ toLe 4 0 ++ toLe 4 (32 + 2 ^ 16 + 16 * 2 ^ 24) ++ List.replicate 40 0 ++
  [(1, 192, 616), (2, 832, 0), (127, 832, 193)].flatMap (fun (e : Nat × Nat × Nat) => toLe 8 e.1 ++ toLe 8 e.2.1 ++ toLe 8 e.2.2 ++ toLe 8 0) ++
  List.replicate 32 0 ++ List.replicate 576 255 ++ List.replicate 16 0 ++ toLe 4 1 ++ toLe 2 0 ++ toLe 2 1 ++ List.replicate 12 0 ++
  toLe 4 0 ++ List.replicate 24 0 ++ signature

/-- MOUNT_LOAD of bytes at 0x8000000 runs on a device whose place and torus have been written. -/
def loading (img : List Byte) : State :=
  on (fun d => { d with
    hbm := img.zipIdx.map (fun e => (hbmKey false (0x8000000 + e.2), e.1)),
    glb := { d.glb with selfWritten := true, torusWritten := true },
    mgmt := { d.mgmt with run := some ⟨1, 0, .host, [0x8000000, BitVec.ofNat 64 img.length, 0], false⟩ } })

/-- Its SHAPE section. -/
def shape : List Byte := List.replicate 576 255 ++ List.replicate 16 0 ++ toLe 4 1 ++ toLe 2 0 ++ toLe 2 1 ++ List.replicate 16 0

theorem bytesOfType_image : bytesOfType image 1 = shape := by decide +kernel

theorem shape_map (i : Nat) (h : i < 576) : shape.getD i 0 = 255 := by
  have hl : i < (List.replicate 576 (255 : Byte)).length := by rw [List.length_replicate]; exact h
  rw [shape, List.getD_eq_getElem?_getD]
  simp only [List.append_assoc]
  rw [List.getElem?_append_left hl, List.getElem?_replicate, if_pos h]
  rfl

theorem shapeBad_image : shapeBad image = none := by
  have hmap (i : Nat) (h : i < 576) : imgMap image (i / 18) (i % 18) = 255 := by
    rw [imgMap, bytesOfType_image, Nat.div_add_mod i 18, shape_map i h]
    rfl
  have hg : ((imgGangs image).any fun q => decide (imgLc image / 4 ≤ q % 4)) = false := by
    rw [imgGangs, bytesOfType_image]
    decide +kernel
  have hl : ¬ (bytesOfType image 1).length < 596 := by rw [bytesOfType_image]; decide +kernel
  simp only [shapeBad, hl, hg, if_false, Bool.false_eq_true, Option.map_eq_none_iff, List.find?_eq_none, List.mem_range]
  intro i h
  simp [hmap i h]

/-- A memory made of bytes at distinct keys reads back. -/
theorem tabGet_zipIdx (key : Nat → Nat) (l : List Byte) (k i : Nat) (hi : i < l.length)
    (h : ∀ i j, i < k + l.length → j < k + l.length → key i = key j → i = j) :
    tabGet 0 ((l.zipIdx k).map (fun e => (key e.2, e.1))) (key (k + i)) = l[i] := by
  induction l generalizing k i with
  | nil => simp at hi
  | cons b l ih =>
    cases i with
    | zero => simp [tabGet]
    | succ i =>
      simp only [List.length_cons] at hi h
      have hne : key k ≠ key (k + (i + 1)) := fun e => by have := h _ _ (by omega) (by omega) e; omega
      have := ih (k + 1) i (by omega) (fun i j hi hj => h i j (by omega) (by omega))
      rw [show k + 1 + i = k + (i + 1) by omega] at this
      simpa [tabGet, hne] using this

theorem dirRead_loading (img : List Byte) (hl : img.length ≤ 4096) : (loading img).dev.dirRead 0x8000000 img.length = img := by
  apply List.ext_getElem
  · simp [Blocks.dirRead]
  intro i h1 h2
  have h : ∀ i j, i < 0 + img.length → j < 0 + img.length → hbmKey false (0x8000000 + i) = hbmKey false (0x8000000 + j) → i = j := by
    intro i j hi hj e
    have e : (0x8000000 + i) / 4096 % 8 * 2 ^ 36 + (0x8000000 + i) / 32768 * 4096 + (0x8000000 + i) % 4096 =
        (0x8000000 + j) / 4096 % 8 * 2 ^ 36 + (0x8000000 + j) / 32768 * 4096 + (0x8000000 + j) % 4096 := e
    omega
  have := tabGet_zipIdx (fun i => hbmKey false (0x8000000 + i)) img 0 i h2 h
  rw [Nat.zero_add] at this
  simp only [Blocks.dirRead, List.getElem_map, List.getElem_range]
  have hv : (loading img).dev.ilv = false := by
    show State.reset.dev.ilv = false
    decide
  rw [hv]
  exact this

/-- The device once the image has been read, which counts. -/
def reading : Dev := (loading image).dev.countHbm 0x8000000 1025 false none

theorem length_image : image.length = 1025 := by decide +kernel

theorem step7Bad_image : reading.step7Bad image 0 = none := by
  simp only [Dev.step7Bad, shapeBad_image]
  decide +kernel

/-- A step that passes. -/
theorem runSteps_none {k : Nat} {f : Unit → Option (Nat × Nat)} {rest : List (Nat × (Unit → Option (Nat × Nat)))} (h : f () = none)
    (hr : runSteps none rest = none) : runSteps none ((k, f) :: rest) = none := by
  simp [runSteps, h, hr]

theorem loadBad_image : reading.loadBad 0x8000000 1025 0 none = none := by
  have h3 : headerBad image 1025 = none := by decide +kernel
  have h4 : (if imgFmt image = 0 ∨ 32 < imgFmt image ∨ bitOf (reading.rd Reg.mgmtFmtSupported) (imgFmt image - 1) = false
    then some (5, 4) else (none : Option (Nat × Nat))) = none := by decide +kernel
  have h5 : reading.signatureBad image 1025 = none := by decide +kernel
  have h6 : reading.sectionsBad image 0x8000000 1025 = none := by decide +kernel
  have h8 : groupsBad image = none := by decide +kernel
  have h9 : reading.regsBad (reading.withImage image 0) (reading.planL2p image) (regEntries image) = none := by
    decide +kernel
  have h10 : reading.step10Bad image 0 = none := by decide +kernel
  have h11 : reading.step11Bad image 0 = none := by decide +kernel
  have h := dirRead_loading image (by rw [length_image]; decide)
  rw [length_image] at h
  have h : reading.dirRead 0x8000000 1025 = image := by
    have hi : reading.ilv = (loading image).dev.ilv := by decide +kernel
    have hm : reading.hbm = (loading image).dev.hbm := by decide +kernel
    rw [← h, Blocks.dirRead, Blocks.dirRead, hi, hm]
  unfold Dev.loadBad
  rw [h]
  exact runSteps_none h3 (runSteps_none h4 (runSteps_none h5 (runSteps_none h6 (runSteps_none step7Bad_image (runSteps_none h8
    (runSteps_none h9 (runSteps_none h10 (runSteps_none h11 rfl))))))))
/-! Management. -/

/-- A device with a management command of an opcode and TARGET running. -/
def managing (op target : Nat) (d : Dev) : State :=
  State.reset.onDev { d with mgmt := { d.mgmt with run := some ⟨op, target, .host, [], false⟩ } }

theorem wit_ManagementCommands_1 :
    (Safety.Writable State.reset .host ∧ (0xFFFF : W64).toNat < 2 ^ 16 ∧ badCommand 0xFF 0xFF = some 1 ∧ badCommand 4 8 = some 2 ∧
      badCommand 3 0xFF = none) ∧
    [0, 1, 2, 3, 4].all (fun op => decide (Safety.Operating (managing op 0 State.reset.dev) ∧
      (managing op 0 State.reset.dev).dev.mgmt.run = some ⟨op, 0, .host, [], false⟩)) = true ∧
    (managing 1 0 (live 63 State.reset.dev)).dev.contextExists = true ∧ State.reset.dev.contextExists = false ∧
    (managing 2 0 (live 63 State.reset.dev)).dev.contextExists = true ∧ (managing 2 0 State.reset.dev).dev.contextExists = false ∧
    (managing 3 0 State.reset.dev).dev.mgmt.mount = none := by decide

theorem wit_ManagementCommands_2 :
    let s := loading (List.replicate 64 0)
    s.dev.argsBad 0x8000000 64 0 = none ∧ s.dev.onFailedStack 0x8000000 64 = false ∧ fldOf (s.dev.dirRead 0x8000000 64) 0 31 0 ≠ 0x4D46584E ∧
    (s.dev.countHbm 0x8000000 64 false none).loadBad 0x8000000 64 0 none = some (4, 0) := by decide +kernel

theorem wit_ManagementCommands_3 :
    (loading image).dev.argsBad 0x8000000 1025 0 = none ∧ (loading image).dev.onFailedStack 0x8000000 1025 = false ∧
    ((loading image).dev.mgmt.run.any (fun r => r.op = 1 && r.begun = false && r.args.map (fun a => a.toNat) = [0x8000000, 1025, 0])) = true ∧
    ((loading image).dev.countHbm 0x8000000 1025 false none).loadBad 0x8000000 1025 0 none = none ∧ ∀ n, n < 6 → ((loading image).dev.optPort n).st ≠ .active :=
  ⟨by decide +kernel, by decide +kernel, by decide +kernel, loadBad_image, by decide +kernel⟩

theorem wit_ManagementCommands_4 :
    [(0, true), (31, false)].all (fun e =>
      let s := managing 3 e.1 (mounted State.reset.dev)
      match s.dev.mgmt.mount with
      | some m => decide ((swapTargets e.1).flatMap (s.dev.clusterMoves m) = [] ↔ e.2 = true)
      | none => false) = true ∧
    ((managing 4 5 State.reset.dev).dev.optPort 5).st = .disabled ∧
    [PortState.active, .dark, .wake].all (fun st =>
      let s := managing 4 5 (port 5 (fun p => { p with st := st }) State.reset.dev)
      decide ((s.dev.optPort 5).st = st ∧ (s.dev.optPort 5).asked = false ∧ s.dev.mgmt.run = some ⟨4, 5, .host, [], false⟩)) = true ∧
    (managing 4 7 State.reset.dev).dev.mgmt.run = some ⟨4, 6 + 1, .host, [], false⟩ ∧ 1 < (managing 4 7 State.reset.dev).dev.mig.ports.length ∧
    (managing 4 7 State.reset.dev).dev.cores = [] ∧ (managing 4 7 State.reset.dev).dev.mig.stalls = [] := by decide

/-- Slot 0 of cluster 31 is to move from core 558 to core 575; another slot waits too, or none; a core runs a program, or none does. -/
def moving (more : List (Nat × Nat × Nat)) (g : Option Prog) : State :=
  managing 3 31 (on (fun d =>
    { (d.modCore 558 (fun c => { c with slot := some 0 })).modCore 575 (fun c => { c with prog := g }) with
      mgmt := { d.mgmt with mount := some ⟨1, 64, 0, [], [⟨31, 1, 0, 0, 0⟩], []⟩, moves := (31, 0, 575) :: more } })).dev

theorem wit_ManagementCommands_5 :
    [([], none), ([(31, 1, 574)], none), ([], some (prog 575))].all (fun e =>
      let s := moving e.1 e.2
      decide (Safety.Operating s ∧ s.dev.mgmt.run = some ⟨3, 31, .host, [], false⟩ ∧
        s.dev.mgmt.moves.find? (fun m => m.1 = 31) = some (31, 0, 575) ∧
        (List.range 18).find? (fun i => (s.dev.core (18 * 31 + i)).slot = some 0) = some 0 ∧ 18 * 31 + 0 ≠ 575 ∧
        ((s.dev.moveCores 558) ++ [575]).any s.dev.runsOn = e.2.isSome ∧ Memory.wf s.dev.loc = true ∧
        s.dev.mgmt.moves.filter (fun m => !(m.1 = 31 && m.2.1 = 0)) = e.1)) = true := by decide

theorem wit_SelectionServesWidestCores :
    let b := (mounted State.reset.dev).toBlocks
    (0, 0) ∈ b.planCluster 0 1 (fun _ => none) ∧ (b.core (18 * 0 + 0)).slot = some 0 ∧
    (∀ s, s < 18 → s ≠ 0 → (b.core (18 * 0 + s)).slot ≠ some 0) ∧
    17 ∈ (List.range 18).filter (fun s => !b.mgmt.dead.contains (18 * 0 + s)) := by decide

/-! Contexts. -/

theorem wit_ContextStates_1 :
    let s := State.reset.onDev (mounted State.reset.dev)
    let base := (directSize - s.dev.saveBytes) / 2 ^ 21 * 2 ^ 21
    (Safety.Writable s .host ∧ 63 < 64 ∧ base % 2 ^ 21 = 0 ∧ base < 2 ^ 48 ∧ (s.dev.ctx 63).mode = .free ∧ s.dev.mgmt.mount.isSome = true ∧
      base + s.dev.saveBytes ≤ directSize ∧ s.dev.isProtected base s.dev.saveBytes = false) ∧
    State.reset.dev.mgmt.mount = none ∧ Safety.Writable State.reset .i3c ∧
    ((live 63 s.dev).ctx 63).mode ≠ .free ∧ ((directSize / 2 ^ 21) * 2 ^ 21 ≠ 0 ∧
      ¬ (directSize / 2 ^ 21 * 2 ^ 21 + s.dev.saveBytes ≤ directSize)) := by decide

theorem wit_ContextStates_2 :
    [CtxMode.free, .live, .tearing, .dead].all (fun m =>
      let s := State.reset.onDev ((mounted State.reset.dev).modCtx 63 (fun x => { x with mode := m }))
      decide (Safety.Writable s .host ∧ s.dev.mgmt.mount.isSome = true ∧ (s.dev.ctx 63).mode = m)) = true := by decide

theorem wit_ContextStates_3 :
    let s := pools.onDev (pools.dev.modCtx 0 (fun x => { x with mode := .tearing, cause := 9 }))
    Safety.Operating s ∧ (s.dev.ctx 0).mode = .tearing ∧ Safety.PoolPlaced s ∧ 0 < 64 * s.dev.classWords 7 ∧
    (let t := (oneBuf 1).onDev ((oneBuf 1).dev.modCtx 0 (fun x => { x with mode := .tearing }))
     (List.range 256).any (fun n => Safety.reclaimed t (.context 0) 7 n) = true) := by decide

theorem wit_TeardownTakesEverything :
    (let d := (inLayer (layer {} {} 4 false)).dev
     0 < 64 ∧ (d.ctx 0).mode = .live ∧ d.routing.layer = some (layer {} {} 4 false) ∧ (layer {} {} 4 false).ctx < 64 ∧ (d.ctx 63).mode ≠ .live) ∧
    (let d := { (inLayer (layer {} {} 4 false)).dev.modCtx 0 (fun x => { x with mode := .tearing, cause := 9, tornAt := some 0 }) with colls := [inData .data [], { inData .opening [] with id := 3 }] }
     (d.colls.map (fun x => x.id)).Nodup ∧ (d.ctx 0).tornAt = some d.glb.hubNow ∧ 8 < (d.ctx 0).cause ∧ (∃ x ∈ d.colls, x.ctx = 0 ∧ x.phase = .data)) ∧
    (let d := (granted 4095 65535 (cmd 0 []) (ringOn 4095 State.reset.dev)).modCore 575 (fun c => { c with owner := some 1, prog := some { prog 575 with ctx := 1 } })
     (∃ j ∈ d.jobs, j.ctx = 0) ∧ d.ringCtx 4095 = 0 ∧ d.flag (Reg.ringCtrl 4095) 0 = true ∧
     ((d.core 575).prog = some { prog 575 with ctx := 1 }) ∧ (d.core 575).owner = some 1 ∧ (d.ctx 0).mode = .live) :=
  ⟨by decide, ⟨by decide, by decide, by decide, _, .head _, by decide, by decide⟩, ⟨⟨_, .head _, by decide⟩, by decide⟩⟩

/-- Core 0 belongs to context 0; context 63, a runnable real-time one, has saved state of logical core 0. -/
def switching (saveBase : Nat) (g : Option Prog) (waits : List Prog) (saved : List Nat) : State :=
  on (fun d => (((mounted d).modCtx 0 (fun x => { x with mode := .live, saveBase := saveBase })).modCtx 63
    (fun x => { x with mode := .live, rt := true, runnable := true, saveBase := 2 ^ 30, saved := saved, restoring := saved })).modCore 0
      (fun c => { c with owner := some 0, prog := g, suspended := waits }))

theorem wit_SwitchChangesNoBit_1 :
    let s := switching (2 ^ 31) none [] [0]
    Memory.wf s.dev.hbm = true ∧ s.dev.hbm = [] ∧ Memory.wf s.dev.loc = true ∧ s.dev.saveSlot 63 511 + 2 ^ 21 ≤ directSize := by decide

theorem wit_SwitchChangesNoBit_2 :
    [0, 2 ^ 31].all (fun base => [(none, true), (some (prog 0), true), (some { prog 0 with score := [issued .remote endInsn []] }, false)].all
      (fun e =>
        let s := switching base e.1 [] [0]
        decide (Safety.Operating s ∧ s.dev.unitOf 0 = [0] ∧ (s.dev.core 0).owner = some 0 ∧ s.dev.logOf 0 = some 0 ∧
          (s.dev.ctx 63).mode = .live ∧ s.dev.slotMoving 0 = false ∧ s.dev.claimed 0 = false ∧ s.dev.wantsCore 63 0 = true ∧
          (s.dev.core 0).suspended = [] ∧ s.dev.prog? 0 = e.1 ∧ (e.1 = none → s.dev.unitProgs [0] = []) ∧
          ((s.dev.prog? 0).all (fun g => s.dev.unitProgs [0] = [0] && decide (s.dev.mayPreempt 63 g = true ↔ base ≠ 0) &&
            decide (g.score = [] ↔ e.2 = true) && (e.2 || g.score.any (fun i => i.isClwait = false)))) = true))) = true := by decide

theorem wit_SwitchChangesNoBit_3 :
    [(none, [prog 0]), (some (prog 0), [prog 0, prog 0])].all (fun e =>
      let s := switching (2 ^ 31) e.1 e.2 [0]
      decide (Safety.Operating s ∧ s.dev.unitOf 0 = [0] ∧ (s.dev.core 0).suspended = e.2 ∧ s.dev.runsOn 0 = e.1.isSome ∧
        s.dev.slotMoving 0 = false ∧ s.dev.claimed 0 = false ∧ s.dev.rtNeeds 0 = false ∧ (s.dev.core 0).owner = some (prog 0).ctx ∧
        s.dev.isSaved 0 0 = false)) = true := by decide

/-! The invariant. -/

theorem wit_EveryStepKeepsMemoriesCanonical :
    Safety.MemoriesCanonical State.reset.dev ∧ ∃ t, step State.reset = .next t := ⟨by decide, _, rfl⟩

/-! Values worked out by hand from the spec. -/

/-- Table 3.3 and R84: sums, products, ties to even and specials of FP32. -/
theorem test_fp32_arithmetic :
    fadd 0x3F800000 0x40000000 = 0x40400000 ∧ fadd 0x3F800000 0x33800000 = 0x3F800000 ∧ fadd 0x3F800000 0x33800001 = 0x3F800001 ∧
    fadd 0x3F800001 0x33800000 = 0x3F800002 ∧ fmul 0x40000000 0x40400000 = 0x40C00000 ∧ fmul 0xBF800000 0x40400000 = 0xC0400000 ∧
    ffma 0x40000000 0x40400000 0x3F800000 = 0x40E00000 ∧ fmax 0xC0000000 0x3F800000 = 0x3F800000 ∧ fmin 0xC0000000 0x3F800000 = 0xC0000000 ∧
    frcp 0x40000000 = 0x3F000000 ∧ frsqrt 0x40800000 = 0x3F000000 ∧ fexp 0 = 0x3F800000 := by decide +kernel

/-- What VADD, VMUL, VSCALE and VAXPY leave of one element of 3 and 2 (Table 3.9). -/
def oneElement (op imm : Nat) : State :=
  let s := running 575 (prog 575) (vec op (if op = 0x8F then 0xA else 0) 0 0x1000 0x2000 0x3000 1 imm 0)
  s.onDev { s.dev with loc := memWrite (memWrite s.dev.loc (575 * 2 ^ 22 + 0x1000) (toLe 4 0x40400000)) (575 * 2 ^ 22 + 0x2000) (toLe 4 0x40000000) }

/-- The word at 0x3000 after a command. -/
def resultOf (c : Instr) (s : State) : Option Nat :=
  match exec c s with
  | .next t => some (memNat t.dev.loc (575 * 2 ^ 22 + 0x3000) 4)
  | _ => none

theorem test_vadd : resultOf (.vadd 575 {}) (oneElement 0x81 0) = some 0x40A00000 := by decide +kernel
theorem test_vmul : resultOf (.vmul 575 {}) (oneElement 0x82 0) = some 0x40C00000 := by decide +kernel
theorem test_vfma : resultOf (.vfma 575 {}) (oneElement 0x83 0) = some 0x40C00000 := by decide +kernel
theorem test_vaxpy : resultOf (.vaxpy 575 {}) (oneElement 0x84 0) = some 0x40C00000 := by decide +kernel
theorem test_vmax : resultOf (.vmax 575 {}) (oneElement 0x85 0) = some 0x40400000 := by decide +kernel
theorem test_vmin : resultOf (.vmin 575 {}) (oneElement 0x86 0) = some 0x40000000 := by decide +kernel
theorem test_vscale : resultOf (.vscale 575 {}) (oneElement 0x87 0x40000000) = some 0x40C00000 := by decide +kernel
theorem test_vcopy : resultOf (.vcopy 575 {}) (oneElement 0x80 0) = some 0x40400000 := by decide +kernel
theorem test_vrsum : resultOf (.vrsum 575 {}) (oneElement 0x8D 0) = some 0x40400000 := by decide +kernel
theorem test_vdot : resultOf (.vdot 575 {}) (oneElement 0x8F 0) = some 0x40C00000 := by decide +kernel

/-- VDOT accepts FP32 and FP32R sources only (R374): SFMT = 0 tears the context down with code 0x21. -/
theorem test_vdot_sfmt :
    let bs := vec 0x8F 0 0 0x1000 0x2000 0x3000 1 0 0
    (vecOf bs).illegal = true := by decide +kernel

/-- The worked example of Table 3.7: the anchor is 5, the window 96 × 2^61, the drained word that of 96.0, and a block at the very end of the span
keeps its term in the window. -/
theorem test_table_3_7 :
    let b0 : AccBlock := ⟨3 * 2 ^ 32, 32, 5, false⟩
    gridExp 3 + gridExp 3 = 32 ∧ anchorOf [b0, ⟨1, 32, -37, false⟩] (.fin false 0 0) false = some 5 ∧
    windowOf 5 [b0, ⟨1, 32, -37, false⟩] (.fin false 0 0) = 96 * 2 ^ 61 ∧ windowOf 5 [b0, ⟨1, 32, -29, false⟩] (.fin false 0 0) = 96 * 2 ^ 61 + 1 ∧
    longAccumulate false [b0, ⟨1, 32, -37, false⟩] {} (.fin false 0 0) = 0x42C00000 ∧
    longAccumulate false [⟨1, 32, -29, false⟩, b0] {} (.fin false 0 0) = 0x42C00000 := by decide +kernel

/-- The stream of the worked example of Table 4.9, as far as its header, and its instruction with n kept blocks: 9 of 24 blocks take the sparse
path, 10 do not. -/
def keptBlocks (n xover : Nat) : Bool :=
  let bs := arr 0x41 4 16 1
  let a := { arrOf bs with k := 768, gran := true, aAddr := 0x1020, aMeta := 1, bMeta := 0, path := 0 }
  let s := on (fun d => { d.wr (Reg.coreSparseXover 41) xover with loc := memWrite [] (41 * 2 ^ 22 + 0x1000) (toLe 2 n) })
  s.dev.sparsePath a 41

theorem test_table_4_9 :
    keptBlocks 9 38 = true ∧ keptBlocks 10 38 = false ∧ keptBlocks 22 95 = true ∧ keptBlocks 23 95 = false := by decide

/-- The device of Table 8.12 at a place: every port ACTIVE, torus of 16 on every axis, block (12, 4, 0) of 8 × 4 × 16. -/
def wrapped (place : Nat) : Dev :=
  (List.range 6).foldl (fun d n => d.modPort n (fun p => { p with st := .active, peerSeen := true }))
    (regs [(Reg.fabRtSelf, place), (Reg.fabRtTorus, 0xFFF), (Reg.fabRtBlock, 0xF37004C)] State.reset.dev)

/-- The worked example of Tables 8.11 and 8.12: block indices, the productive ports of the first three hops, and the deflection of the second
to port 3 when ports 0, 5 and 2 are full. -/
theorem test_table_8_12 :
    let c := cellFor 0x0327E100 1 0
    let full := (wrapped 0x03E52000).modBank 1 (fun k => { k with queues := [0, 5, 2].map (fun o => (4 * o, List.replicate 4 ⟨c, 1, false⟩)) })
    (wrapped 0x03D52000).me = 73 ∧ (wrapped 0x03D52000).indexOf (placeOf 0x0327E100) = 478 ∧
    (wrapped 0x03D52000).productive c = [0, 5, 2] ∧ (wrapped 0x03E52000).productive c = [0, 5, 2] ∧ (wrapped 0x03E42000).productive c = [0, 5, 2] ∧
    [1, 3, 4, 0].map (fun n => (wrapped 0x03C52000).inBlockPort n) = [false, true, true, true] ∧
    ((full.place 1 ⟨c, 1, false⟩).bankQ 1 3 0).length = 1 := by decide

/-- The entry of Table 14.9. -/
theorem test_table_14_9 :
    let e : LogEntry := { code := 0x29, ctx := some 5, domain := 2, unit := 41, addr := 0xA4012, kind := 3, stroke := 2000000 }
    logWord 0xC41 e 0 = 0x0A42452900000C41 ∧ logWord 0xC41 e 1 = 0x00030000000A4012 ∧ logWord 0xC41 e 2 = 0x1E8480 ∧ clusterOf 41 = 2 ∧
    Reg.errLogEntry 65 0 = 0x00401820 := by decide

/-- Registers of several blocks read their reset values (Tables 8.8, 10.8, 10.9). -/
theorem test_reset_values :
    State.reset.dev.rd Reg.fabVcWeight = 0x00020204 ∧ State.reset.dev.rd Reg.tbCtrl = 8 ∧ State.reset.dev.fld Reg.tbStatus 15 12 = 15 ∧
    State.reset.dev.fld Reg.tbStatus 8 4 = 31 ∧ State.reset.dev.fld Reg.fabRtStatus 21 20 = 2 := by decide

/-- The bytes of Table 5.9's expert are 149 tiles, the first of device address 0x0104_0000_0000. -/
theorem test_table_5_9 :
    tieredBase + 262144 * tileBytes = 0x010400000000 ∧ tilesOf 0x010400000000 9764864 = (List.range 149).map (262144 + ·) := by decide

/-- R263: the check value of the CRC. -/
theorem test_crc : crc64 ([0x31, 0x32, 0x33, 0x34, 0x35, 0x36, 0x37, 0x38, 0x39] : List Byte) = 0x62EC59E3F1A4F00A := by decide +kernel

/-- FIPS 180-4: the digest of "abc" begins with cb00753f. -/
theorem test_sha384 : (sha384 ([0x61, 0x62, 0x63] : List Byte)).take 4 = [0xCB, 0x00, 0x75, 0x3F] := by decide +kernel

end Sys2Proof.Tests
end

section
/-! Register accesses over a management port: what `Dev.answer`, `Dev.modBus` and `Dev.errResp` change and leave unchanged, what an offset
selects, and the meaning of a register read and write of a device in operation. -/

namespace Sys2Proof.Machine

/-! A port's own state. -/

@[simp] theorem Dev.bus_modBus_same (d : Dev) (p : MPort) (f : BusPort → BusPort) : (d.modBus p f).bus p = f (d.bus p) := by
  cases p <;> rfl

@[simp] theorem Dev.modBus_modBus (d : Dev) (p : MPort) (f g : BusPort → BusPort) :
    (d.modBus p f).modBus p g = d.modBus p (fun x => g (f x)) := by
  cases p <;> rfl

@[simp] theorem Dev.modBus_glb (d : Dev) (p : MPort) (f : BusPort → BusPort) : (d.modBus p f).glb = d.glb := by cases p <;> rfl

@[simp] theorem Dev.modBus_mgmt (d : Dev) (p : MPort) (f : BusPort → BusPort) : (d.modBus p f).mgmt = d.mgmt := by cases p <;> rfl

@[simp] theorem Dev.modBus_obs (d : Dev) (p : MPort) (f : BusPort → BusPort) : (d.modBus p f).obs = d.obs := by cases p <;> rfl

@[simp] theorem Dev.rd_modBus (d : Dev) (p : MPort) (f : BusPort → BusPort) (off : Nat) : (d.modBus p f).rd off = d.rd off := by
  cases p <;> rfl

@[simp] theorem Dev.reaches_modBus (d : Dev) (p q : MPort) (f : BusPort → BusPort) : (d.modBus p f).reaches q = d.reaches q := by
  cases p <;> rfl

/-- A running device's port takes the answer. -/
@[simp] theorem Dev.answer_running (d : Dev) (p : MPort) (a : Answer) (h : d.glb.phase = .running) :
    d.answer p a = d.modBus p (fun x => { x with answer := a }) := by
  simp [Dev.answer, h]

/-! The rows. -/

/-- A register write to a device in operation. -/
theorem exec_registerWrite (s : State) (p : MPort) (off bytes : Nat) (v : W64) (h : Safety.Operating s) :
    exec (.registerWrite p off bytes v) s = .next (s.onDev (s.dev.busWrite p off bytes v.toNat)) := by
  show execRegisterWrite p off bytes v s = _
  rw [execRegisterWrite, Dev.live_running _ _ h]

/-- A register read from a device in operation. -/
theorem exec_registerRead (s : State) (p : MPort) (off bytes : Nat) (h : Safety.Operating s) :
    exec (.registerRead p off bytes) s = .next (s.onDev (s.dev.busRead p off bytes)) := by
  show execRegisterRead p off bytes s = _
  rw [execRegisterRead, Dev.live_running _ _ h]

/-! What an access that reaches no block's own state can change. -/

/-- Device e is device d but for registers, the ports' own state, the I3C target's state and the log. -/
def Dev.AccessFrame (d e : Dev) : Prop :=
  ∃ regs hostPort i3cPort i3c obs,
    e = { d with regs := regs, hostPort := hostPort, i3cPort := i3cPort, i3c := i3c, obs := obs }

theorem Dev.AccessFrame.refl (d : Dev) : d.AccessFrame d := ⟨_, _, _, _, _, rfl⟩

theorem Dev.AccessFrame.trans {d e f : Dev} (h : d.AccessFrame e) (k : e.AccessFrame f) : d.AccessFrame f := by
  obtain ⟨_, _, _, _, _, rfl⟩ := h
  obtain ⟨_, _, _, _, _, rfl⟩ := k
  exact ⟨_, _, _, _, _, rfl⟩

theorem Dev.accessFrame_wr (d : Dev) (off v : Nat) : d.AccessFrame (d.wr off v) := ⟨_, _, _, _, _, rfl⟩

theorem Dev.accessFrame_log (d : Dev) (e : LogEntry) : d.AccessFrame (d.log e) := ⟨_, _, _, _, _, rfl⟩

theorem Dev.accessFrame_modBus (d : Dev) (p : MPort) (f : BusPort → BusPort) : d.AccessFrame (d.modBus p f) := by
  cases p <;> exact ⟨_, _, _, _, _, rfl⟩

theorem sameMemory_of_accessFrame {s : State} {d : Dev} (h : s.dev.AccessFrame d) : Safety.SameMemory s (s.onDev d) := by
  obtain ⟨_, _, _, _, _, rfl⟩ := h
  exact fun _ => ⟨rfl, rfl, rfl, rfl⟩

theorem sameEngines_of_accessFrame {s : State} {d : Dev} (h : s.dev.AccessFrame d) : Safety.SameEngines s (s.onDev d) := by
  obtain ⟨_, _, _, _, _, rfl⟩ := h
  exact ⟨rfl, rfl, rfl, rfl, rfl, rfl, rfl, rfl, rfl, rfl, rfl, rfl, rfl, rfl⟩

/-! Error responses (R346). -/

@[simp] theorem Dev.log_glb (d : Dev) (e : LogEntry) : (d.log e).glb = d.glb := rfl

@[simp] theorem Dev.rd_log (d : Dev) (e : LogEntry) (off : Nat) : (d.log e).rd off = d.rd off := rfl

/-- The GLB_ERR_RESP of a port. -/
abbrev errRespReg (p : MPort) : Nat := Reg.glbErrResp (if p = .host then 0 else 1)

/-- What GLB_ERR_RESP takes for a refused access. -/
abbrev errRespWord (resp addr : Nat) (bar2 : Bool) : Nat := 2 ^ 63 + resp * 2 ^ 52 + b2n bar2 * 2 ^ 48 + addr % 2 ^ 48

/-- The log entry of a refused access. -/
abbrev errRespEntry (p : MPort) (resp addr : Nat) (bar2 : Bool) : LogEntry :=
  { code := 0xC0 + resp, port := if p = .host then 0 else 1, domain := if p = .host then 55 else 36, addr := addr,
    kind := if bar2 then 1 else 2, resp := resp }

/-- The log and GLB_ERR_RESP after a refused access: a record that GLB_ERR_RESP holds stays. -/
def Dev.recordErr (d : Dev) (p : MPort) (resp addr : Nat) (bar2 : Bool) : Dev :=
  if d.flag (errRespReg p) 63 then d.log (errRespEntry p resp addr bar2)
  else (d.log (errRespEntry p resp addr bar2)).wr (errRespReg p) (errRespWord resp addr bar2)

/-- An error response is its record and the answer. -/
theorem Dev.errResp_eq (d : Dev) (p : MPort) (resp addr bytes : Nat) (bar2 : Bool) :
    d.errResp p resp addr bytes bar2 = (d.recordErr p resp addr bar2).answer p (.error resp bytes) := rfl

theorem Dev.accessFrame_recordErr (d : Dev) (p : MPort) (resp addr : Nat) (bar2 : Bool) : d.AccessFrame (d.recordErr p resp addr bar2) := by
  unfold Dev.recordErr
  split
  · exact d.accessFrame_log _
  · exact (d.accessFrame_log _).trans (Dev.accessFrame_wr _ _ _)

@[simp] theorem Dev.recordErr_glb (d : Dev) (p : MPort) (resp addr : Nat) (bar2 : Bool) : (d.recordErr p resp addr bar2).glb = d.glb := by
  unfold Dev.recordErr
  split
  · rw [Dev.log_glb]
  · rw [Dev.wr_glb, Dev.log_glb]

/-- The entry waits for the error log. -/
theorem Dev.recordErr_obs (d : Dev) (p : MPort) (resp addr : Nat) (bar2 : Bool) :
    (d.recordErr p resp addr bar2).obs = (d.log (errRespEntry p resp addr bar2)).obs := by
  unfold Dev.recordErr
  split
  · rfl
  · rw [Dev.wr_obs]

/-- An empty GLB_ERR_RESP takes the record. -/
theorem Dev.rd_recordErr_empty (d : Dev) (p : MPort) (resp addr : Nat) (bar2 : Bool) (h : d.flag (errRespReg p) 63 = false) :
    (d.recordErr p resp addr bar2).rd (errRespReg p) = errRespWord resp addr bar2 % 2 ^ 64 := by
  rw [Dev.recordErr, h, if_neg Bool.false_ne_true, Dev.rd_wr_same]

/-- A GLB_ERR_RESP that holds a record keeps it. -/
theorem Dev.rd_recordErr_held (d : Dev) (p : MPort) (resp addr : Nat) (bar2 : Bool) (off : Nat) (h : d.flag (errRespReg p) 63 = true) :
    (d.recordErr p resp addr bar2).rd off = d.rd off := by
  rw [Dev.recordErr, if_pos h, Dev.rd_log]

/-- No other register changes. -/
theorem Dev.rd_recordErr_other (d : Dev) (p : MPort) (resp addr : Nat) (bar2 : Bool) (off : Nat) (h : off ≠ errRespReg p) :
    (d.recordErr p resp addr bar2).rd off = d.rd off := by
  cases hf : d.flag (errRespReg p) 63
  · rw [Dev.recordErr, hf, if_neg Bool.false_ne_true, Dev.rd_wr_other _ _ _ _ h, Dev.rd_log]
  · exact d.rd_recordErr_held p resp addr bar2 off hf

section
variable (d : Dev) (p : MPort) (resp addr bytes : Nat) (bar2 : Bool) (hd : d.glb.phase = .running)
include hd

/-- An error response of a running device. -/
theorem Dev.errResp_running : d.errResp p resp addr bytes bar2 =
    (d.recordErr p resp addr bar2).modBus p (fun x => { x with answer := .error resp bytes }) := by
  rw [Dev.errResp_eq, Dev.answer_running _ _ _ (by simpa using hd)]

theorem Dev.accessFrame_errResp : d.AccessFrame (d.errResp p resp addr bytes bar2) := by
  rw [d.errResp_running p resp addr bytes bar2 hd]
  exact (d.accessFrame_recordErr p resp addr bar2).trans (Dev.accessFrame_modBus _ _ _)

@[simp] theorem Dev.rd_errResp (off : Nat) : (d.errResp p resp addr bytes bar2).rd off = (d.recordErr p resp addr bar2).rd off := by
  rw [d.errResp_running p resp addr bytes bar2 hd, Dev.rd_modBus]

@[simp] theorem Dev.bus_errResp_answer : ((d.errResp p resp addr bytes bar2).bus p).answer = .error resp bytes := by
  rw [d.errResp_running p resp addr bytes bar2 hd, Dev.bus_modBus_same]

@[simp] theorem Dev.errResp_obs : (d.errResp p resp addr bytes bar2).obs = (d.log (errRespEntry p resp addr bar2)).obs := by
  rw [d.errResp_running p resp addr bytes bar2 hd, Dev.modBus_obs, Dev.recordErr_obs]

/-- An error response to a write changes nothing else but the I3C target's protocol-error bit (Table 14.7). -/
theorem Dev.accessFrame_writeErr : d.AccessFrame (d.writeErr p resp addr bytes) := by
  have h := d.accessFrame_errResp p resp addr bytes false hd
  cases p with
  | host => exact h
  | i3c => exact h.trans ⟨_, _, _, _, _, rfl⟩

@[simp] theorem Dev.rd_writeErr (off : Nat) : (d.writeErr p resp addr bytes).rd off = (d.recordErr p resp addr false).rd off := by
  rw [← d.rd_errResp p resp addr bytes false hd]
  cases p <;> rfl

@[simp] theorem Dev.bus_writeErr_answer : ((d.writeErr p resp addr bytes).bus p).answer = .error resp bytes := by
  rw [← d.bus_errResp_answer p resp addr bytes false hd]
  cases p <;> rfl

@[simp] theorem Dev.writeErr_obs : (d.writeErr p resp addr bytes).obs = (d.log (errRespEntry p resp addr false)).obs := by
  rw [← d.errResp_obs p resp addr bytes false hd]
  cases p <;> rfl

end

/-- A refused access on a running device, as R16 and R346 tell it. -/
theorem errResp_onlyRecords (s : State) (p : MPort) (resp addr bytes : Nat) (bar2 : Bool) (h : Safety.Operating s) :
    let t := s.onDev (s.dev.errResp p resp addr bytes bar2)
    Safety.SameMemory s t ∧ Safety.SameEngines s t ∧ Safety.SameRegsBut [errRespReg p] s t ∧
    Safety.Logged s t (errRespEntry p resp addr bar2) ∧ (t.dev.bus p).answer = .error resp bytes ∧
    (s.dev.flag (errRespReg p) 63 = false → t.dev.rd (errRespReg p) = errRespWord resp addr bar2 % 2 ^ 64) ∧
    (s.dev.flag (errRespReg p) 63 = true → t.dev.rd (errRespReg p) = s.dev.rd (errRespReg p)) := by
  have hframe := s.dev.accessFrame_errResp p resp addr bytes bar2 h
  refine ⟨sameMemory_of_accessFrame hframe, sameEngines_of_accessFrame hframe, fun off hoff => ?_, ?_,
    s.dev.bus_errResp_answer p resp addr bytes bar2 h, fun hf => ?_, fun hf => ?_⟩
  · rw [State.onDev_dev, Dev.rd_errResp _ _ _ _ _ _ h, Dev.rd_recordErr_other _ _ _ _ _ _ (by simpa using hoff)]
  · rw [Safety.Logged, State.onDev_dev, Dev.errResp_obs _ _ _ _ _ _ h]
    rfl
  · rw [State.onDev_dev, Dev.rd_errResp _ _ _ _ _ _ h, Dev.rd_recordErr_empty _ _ _ _ _ hf]
  · rw [State.onDev_dev, Dev.rd_errResp _ _ _ _ _ _ h, Dev.rd_recordErr_held _ _ _ _ _ _ hf]

/-! What an offset selects (R12, R16, R17). -/

/-- An access of a misfit length, out of alignment or beyond BAR0 finds no register. -/
theorem busTarget_misfit {off bytes : Nat}
    (h : bytes < 4 ∨ (bytes = 4 ∧ off % 4 ≠ 0) ∨ (bytes = 8 ∧ off % 8 ≠ 0) ∨ 2 ^ 28 ≤ off) : busTarget off bytes = none := by
  unfold busTarget
  by_cases hlt : 2 ^ 28 ≤ off
  · rw [if_pos hlt]
  · rw [if_neg hlt, if_neg (by omega), if_neg (by omega)]

/-- An aligned 64-bit access within BAR0. -/
theorem busTarget_eight {off : Nat} (hlt : off < 2 ^ 28) (h8 : off % 8 = 0) :
    busTarget off 8 = (regAt off).bind (fun x => if x.1.wide then some ⟨x.1, x.2.1, x.2.2, off, .whole⟩ else none) := by
  unfold busTarget
  rw [if_neg (by omega), if_pos ⟨rfl, h8⟩]
  cases regAt off <;> rfl

/-- An aligned 32-bit access to the first byte of a register. -/
theorem busTarget_four {off i j : Nat} {r : RegSpec} (hlt : off < 2 ^ 28) (h4 : off % 4 = 0) (hreg : regAt off = some (r, i, j)) :
    busTarget off 4 = some ⟨r, i, j, off, if r.wide then .low else .whole⟩ := by
  unfold busTarget
  rw [if_neg (by omega), if_neg (by omega), if_pos ⟨rfl, h4⟩, hreg]

/-- An aligned 32-bit access where no register begins finds a high half or nothing. -/
theorem busTarget_four_high {off : Nat} {t : Target} (hreg : regAt off = none) (h : busTarget off 4 = some t) : t.half = .high := by
  unfold busTarget at h
  rw [hreg] at h
  cases hlow : (if 4 ≤ off then regAt (off - 4) else none) with
  | none => simp [hlow] at h
  | some x =>
    obtain ⟨r, i, j⟩ := x
    simp only [hlow] at h
    split_ifs at h
    rw [← Option.some.inj h]

/-- What a 64-bit access finds is a wide register as a whole. -/
theorem busTarget_eight_some {off : Nat} {t : Target} (h : busTarget off 8 = some t) :
    off < 2 ^ 28 ∧ off % 8 = 0 ∧ t.r.wide = true ∧ regAt off = some (t.r, t.i, t.j) ∧ t.off = off ∧ t.half = .whole := by
  have hlt : off < 2 ^ 28 := by
    by_contra hge
    simp [busTarget_misfit (off := off) (bytes := 8) (by omega)] at h
  have h8 : off % 8 = 0 := by
    by_contra hne
    simp [busTarget_misfit (off := off) (bytes := 8) (by omega)] at h
  rw [busTarget_eight hlt h8] at h
  obtain ⟨⟨r, i, j⟩, hreg, h⟩ := Option.bind_eq_some_iff.mp h
  split_ifs at h with hwide
  obtain rfl := Option.some.inj h
  exact ⟨hlt, h8, hwide, hreg, rfl, rfl⟩

/-- The low half of a register that a 64-bit access finds. -/
theorem busTarget_low {off : Nat} {t : Target} (h : busTarget off 8 = some t) : busTarget off 4 = some { t with half := .low } := by
  obtain ⟨hlt, h8, hwide, hreg, hoff, -⟩ := busTarget_eight_some h
  rw [busTarget_four hlt (by omega) hreg, hwide, ← hoff]
  rfl

/-- An access of a whole register: the register of the map at its offset, in its own width. -/
theorem busTarget_whole {off bytes : Nat} {t : Target} (h : busTarget off bytes = some t) (hw : t.half = .whole) :
    regAt off = some (t.r, t.i, t.j) ∧ t.off = off ∧ bytes = t.r.bytes := by
  have hfit : ¬ (bytes < 4 ∨ (bytes = 4 ∧ off % 4 ≠ 0) ∨ (bytes = 8 ∧ off % 8 ≠ 0) ∨ 2 ^ 28 ≤ off) := by
    intro hm
    simp [busTarget_misfit hm] at h
  by_cases h8 : bytes = 8
  · subst h8
    obtain ⟨-, -, hwide, hreg, hoff, -⟩ := busTarget_eight_some h
    exact ⟨hreg, hoff, by simp [RegSpec.bytes, hwide]⟩
  · by_cases h4 : bytes = 4
    · subst h4
      rcases hreg : regAt off with _ | ⟨r, i, j⟩
      · simp [busTarget_four_high hreg h] at hw
      · rw [busTarget_four (by omega) (by omega) hreg] at h
        obtain rfl := Option.some.inj h
        cases hwide : r.wide
        · exact ⟨rfl, rfl, by simp [RegSpec.bytes, hwide]⟩
        · simp [hwide] at hw
    · simp [busTarget, h8, h4] at h

/-! Writes and reads that find a register. -/

/-- No register is barred while no management command runs. -/
theorem Blocks.mgmtBars_idle (b : Blocks) (t : Target) (v : Nat) (h : b.mgmt.run = none) : b.mgmtBars t v = false := by
  unfold Blocks.mgmtBars
  rw [h]

section
variable {d : Dev} {p : MPort} {off bytes : Nat}

/-- A write that finds no register (R16). -/
theorem Dev.busWrite_nowhere (v : Nat) (hp : d.reaches p = true) (h : busTarget off bytes = none) :
    d.busWrite p off bytes v = d.writeErr p 1 off bytes := by
  simp [Dev.busWrite, hp, h]

/-- A read that finds no register (R16). -/
theorem Dev.busRead_nowhere (hp : d.reaches p = true) (h : busTarget off bytes = none) :
    d.busRead p off bytes = d.errResp p 1 off bytes false := by
  simp [Dev.busRead, hp, h]

/-- A write that finds a register. -/
theorem Dev.busWrite_target {t : Target} (v : Nat) (hp : d.reaches p = true) (h : busTarget off bytes = some t) :
    d.busWrite p off bytes v = d.writeTarget p t (v % 2 ^ (8 * bytes)) bytes := by
  simp [Dev.busWrite, hp, h]

/-- A read that finds a register. -/
theorem Dev.busRead_target {t : Target} (hp : d.reaches p = true) (h : busTarget off bytes = some t) :
    d.busRead p off bytes = d.readTarget p t bytes := by
  simp [Dev.busRead, hp, h]

/-- While a management command runs a mailbox register takes no write (R282). -/
theorem Dev.writeTarget_mailbox (t : Target) (v : Nat) (hrun : d.mgmt.run.isSome = true) (ht : t.isMailbox = true) :
    d.writeTarget p t v bytes = (d.wrFld Reg.mgmtStatus 2 2 1).answer p .done := by
  simp [Dev.writeTarget, hrun, ht]

/-- A whole register's value is judged at once. -/
theorem Dev.writeTarget_whole (t : Target) (v : Nat) (hm : d.mgmt.run.isSome = true → t.isMailbox = false)
    (hb : d.mgmtBars t v = false) (ht : t.half = .whole) : d.writeTarget p t v bytes = d.judge p t v bytes := by
  have hm' : (d.mgmt.run.isSome && t.isMailbox) = false := by
    cases hrun : d.mgmt.run.isSome <;> simp_all
  simp [Dev.writeTarget, hm', hb, ht]

/-- The value of a register that is shown as it is: every register but LOUPE_DATA, LOUPE_SEL and MGMT_ARG. -/
theorem Dev.readValue_shown (t : Target) (h : t.r.base ∉ [Reg.loupeData, Reg.loupeSel, Reg.mgmtArg 0]) :
    d.readValue p t = some (t.r.shown (d.current t.r t.i t.j t.off)) := by
  simp only [List.mem_cons, List.not_mem_nil, or_false, not_or] at h
  obtain ⟨hdata, hsel, harg⟩ := h
  rw [Dev.readValue, if_neg hdata, if_neg hsel, if_neg harg]

end

end Sys2Proof.Machine
end

section
open Sys2Proof Sys2Proof.Machine

/-- Settles O5: each access that is refused comes down to `Dev.errResp`, whose frame is proved once. -/
theorem refusedAccessesChangeNothing : Obligations.RefusedAccessesChangeNothing := by
  refine ⟨⟨fun s p off bytes v hop hp hnone => ⟨?_, ?_⟩, fun off bytes => busTarget_misfit,
    fun s p resp addr bytes bar2 hop => errResp_onlyRecords s p resp addr bytes bar2 hop, fun d resp off bytes => ⟨rfl, rfl⟩⟩,
    fun s p off bytes v t hop hp hrun htgt hbox => ?_⟩
  · rw [exec_registerWrite _ _ _ _ _ hop, Dev.busWrite_nowhere _ hp hnone]
  · rw [exec_registerRead _ _ _ _ hop, Dev.busRead_nowhere hp hnone]
  · rw [exec_registerWrite _ _ _ _ _ hop, Dev.busWrite_target _ hp htgt, Dev.writeTarget_mailbox _ _ hrun hbox,
      Dev.answer_running _ _ _ (by exact hop)]

end

section
/-! Plain writes: a whole register that has no effect of its own (R13, R14). -/

namespace Sys2Proof.Machine

/-- A register without an effect of its own takes the value by its fields' access types. -/
theorem Dev.regWrite_plain (d : Dev) (p : MPort) (r : RegSpec) (i off v : Nat) (hown : r.base ∉ Safety.ownEffect)
    (hbar : d.writeBarred r i off v = false) (hok : (d.wr off (r.merge (d.rd off) v)).valueOk r i v = true) :
    d.regWrite p r i off v = some (d.wr off (r.merge (d.rd off) v)) := by
  simp only [Safety.ownEffect, List.mem_cons, List.not_mem_nil, or_false, not_or] at hown
  simp [Dev.regWrite, Dev.plainWrite, hbar, hok, hown]

/-- The next state of a plain write. -/
theorem exec_registerWrite_plain (s : State) (p : MPort) (off bytes : Nat) (v : W64) (t : Target) (hop : Safety.Operating s)
    (hp : s.dev.reaches p = true) (hrun : s.dev.mgmt.run = none) (htgt : busTarget off bytes = some t) (hw : t.half = .whole)
    (hown : t.r.base ∉ Safety.ownEffect) (hv : v.toNat < 2 ^ (8 * bytes)) (hres : t.r.setsReserved v.toNat = false)
    (hbar : s.dev.writeBarred t.r t.i off v.toNat = false)
    (hok : (s.dev.wr off (t.r.merge (s.dev.rd off) v.toNat)).valueOk t.r t.i v.toNat = true) :
    exec (.registerWrite p off bytes v) s =
      .next (s.onDev (Safety.Done (s.dev.wr off (t.r.merge (s.dev.rd off) v.toNat)) p)) := by
  obtain ⟨-, hoff, -⟩ := busTarget_whole htgt hw
  have hmod : v.toNat % 2 ^ (8 * bytes) = v.toNat := Nat.mod_eq_of_lt hv
  rw [exec_registerWrite _ _ _ _ _ hop,
    busWrite_done s.dev (s.dev.wr off (t.r.merge (s.dev.rd off) v.toNat)) p off bytes v.toNat t hp htgt hw hrun (by rwa [hmod])
      (by rw [hmod, hoff]; exact s.dev.regWrite_plain p t.r t.i off v.toNat hown hbar hok),
    Dev.answer_running _ _ _ (by exact hop)]
  rfl

end Sys2Proof.Machine
end

section
open Sys2Proof Sys2Proof.Machine

/-- Settles O7: the next state is the old one with the register written and the port answered. -/
theorem plainWriteTakesValue : Obligations.PlainWriteTakesValue := by
  intro s p off bytes v t hop hp hrun htgt hw hown hv hres hbar hok
  have hframe : s.dev.AccessFrame (Safety.Done (s.dev.wr off (t.r.merge (s.dev.rd off) v.toNat)) p) :=
    (s.dev.accessFrame_wr _ _).trans (Dev.accessFrame_modBus _ _ _)
  refine ⟨_, exec_registerWrite_plain s p off bytes v t hop hp hrun htgt hw hown hv hres hbar hok, ?_, fun o ho => ?_,
    sameMemory_of_accessFrame hframe, sameEngines_of_accessFrame hframe, ?_⟩
  · rw [State.onDev_dev, Safety.Done, Dev.rd_modBus, Dev.rd_wr_same]
  · rw [State.onDev_dev, Safety.Done, Dev.rd_modBus, Dev.rd_wr_other _ _ _ _ (by simpa using ho)]
  · rw [State.onDev_dev, Safety.Done, Dev.bus_modBus_same]

end

section
/-! Reads of a whole register, and RING_STARVE. -/

namespace Sys2Proof.Machine

/-- The next state of a read of a whole register that is shown as it is (R14). -/
theorem exec_registerRead_shown (s : State) (p : MPort) (off bytes : Nat) (t : Target) (hop : Safety.Operating s)
    (hp : s.dev.reaches p = true) (htgt : busTarget off bytes = some t) (hw : t.half = .whole)
    (hbase : t.r.base ∉ [Reg.loupeData, Reg.loupeSel, Reg.mgmtArg 0]) :
    exec (.registerRead p off bytes) s = .next (s.onDev (s.dev.modBus p (fun x =>
      { x with answer := .data bytes (BitVec.ofNat 64 (t.r.shown (s.dev.current t.r t.i t.j t.off))) }))) := by
  rw [exec_registerRead _ _ _ _ hop, Dev.busRead_target hp htgt, Dev.readTarget]
  simp only [hw, Dev.readValue_shown t hbase, Dev.answer_running _ _ _ hop]

/-- RING_STARVE of the map (Table 12.10). -/
def ringStarveSpec : RegSpec := ⟨"RING_STARVE", 0x01000038, false, 0x10, .plain, 4096, 0x1000, 1, 0x0, [⟨.rw, 15, 0⟩]⟩

/-- What an access of a ring's RING_STARVE reaches. -/
def ringStarveTarget (ring : Nat) : Target := ⟨ringStarveSpec, ring, 0, Reg.ringStarve ring, .whole⟩

theorem busTarget_ringStarve (ring : Nat) (h : ring < 4096) : busTarget (Reg.ringStarve ring) 4 = some (ringStarveTarget ring) := by
  have hoff : Reg.ringStarve ring = 0x01000000 + ring * 0x1000 + 0x38 := Nat.add_right_comm 0x01000000 0x38 (ring * 0x1000)
  rw [ringStarveTarget, hoff]
  exact busTarget_ring ring 0x38 ringStarveSpec h (by decide) (by decide) rfl rfl

theorem ringStarveSpec_base_plain : ringStarveSpec.base ∉ Safety.ownEffect := by decide

theorem ringStarveSpec_base_shown : ringStarveSpec.base ∉ [Reg.loupeData, Reg.loupeSel, Reg.mgmtArg 0] := by decide

section
variable {v : Nat} (hv : v < 2 ^ 16)
include hv

/-- Its one field is the low 16 bits. -/
theorem pick_ringStarveSpec {accs : List Acc} (hacc : accs.contains .rw = true) : ringStarveSpec.pick accs v = v := by
  have hflds : ringStarveSpec.flds.filter (fun f => accs.contains f.acc) = [⟨.rw, 15, 0⟩] := by
    simp only [ringStarveSpec, List.filter, hacc]
  simp only [RegSpec.pick, hflds, sumBy, List.foldl, bitsOf]
  omega

theorem setsReserved_ringStarveSpec : ringStarveSpec.setsReserved v = false := by
  have hpick := pick_ringStarveSpec hv (accs := [.rw, .ro, .wo, .w1c, .w1s]) rfl
  rw [RegSpec.setsReserved, hpick, decide_eq_false (not_not_intro rfl)]
  rfl

theorem shown_ringStarveSpec : ringStarveSpec.shown v = v := pick_ringStarveSpec hv rfl

/-- A write replaces the whole value. -/
theorem merge_ringStarveSpec (old : Nat) : ringStarveSpec.merge old v = v := by
  rw [RegSpec.merge, pick_ringStarveSpec hv rfl]
  simp [RegSpec.pick, ringStarveSpec, sumBy, List.filter]

end

end Sys2Proof.Machine
end

section
open Sys2Proof Sys2Proof.Machine

/-- Settles O8: a read's next state is the old one with the value in the answer; the write of RING_STARVE is a plain write. -/
theorem readAnswersValue : Obligations.ReadAnswersValue := by
  refine ⟨exec_registerRead_shown, fun s p ring v hop hp hrun hring hv => ?_⟩
  have htgt := busTarget_ringStarve ring hring
  have hwrite := exec_registerWrite_plain s p (Reg.ringStarve ring) 4 v _ hop hp hrun htgt rfl ringStarveSpec_base_plain (by omega)
    (setsReserved_ringStarveSpec hv) rfl rfl
  rw [show (ringStarveTarget ring).r = ringStarveSpec from rfl, merge_ringStarveSpec hv] at hwrite
  let t := s.onDev (Safety.Done (s.dev.wr (Reg.ringStarve ring) v.toNat) p)
  have hrd : t.dev.rd (Reg.ringStarve ring) = v.toNat := by
    rw [State.onDev_dev, Safety.Done, Dev.rd_modBus, Dev.rd_wr_same, Nat.mod_eq_of_lt v.isLt]
  have hread := exec_registerRead_shown t p (Reg.ringStarve ring) 4 _ (by cases p <;> exact hop) (by cases p <;> exact hp) htgt rfl
    ringStarveSpec_base_shown
  have hcur : t.dev.current ringStarveSpec ring 0 (Reg.ringStarve ring) = t.dev.rd (Reg.ringStarve ring) := rfl
  refine ⟨t, hwrite, _, hread, ?_, ?_⟩
  · rw [State.onDev_dev, Dev.bus_modBus_same]
    simp only [ringStarveTarget, hcur, hrd, shown_ringStarveSpec hv, BitVec.ofNat_toNat, BitVec.setWidth_eq]
  · rw [State.onDev_dev, Dev.rd_modBus, hrd]

end

section
/-! The halves of a 64-bit register (R17). -/

namespace Sys2Proof.Machine

section
variable {d : Dev} {p : MPort} {t : Target}

/-- A low half is staged. -/
theorem Dev.writeTarget_low (v bytes : Nat) (hd : d.glb.phase = .running) (hrun : d.mgmt.run = none) :
    d.writeTarget p { t with half := .low } v bytes =
      d.modBus p (fun x => { x with stage := some ⟨t.off, BitVec.ofNat 32 v⟩, answer := .done }) := by
  simp [Dev.writeTarget, hrun, Blocks.mgmtBars_idle, hd]

/-- A high half that meets its low half is judged with it as one value. -/
theorem Dev.writeTarget_high_match (v bytes : Nat) (l : Latch) (hrun : d.mgmt.run = none) (hl : (d.bus p).stage = some l)
    (hoff : l.off = t.off) :
    d.writeTarget p { t with half := .high } v bytes =
      (d.modBus p (fun x => { x with stage := none })).judge p t (l.val.toNat + v % 2 ^ 32 * 2 ^ 32) bytes := by
  simp only [Dev.writeTarget, hrun, Blocks.mgmtBars_idle, hl, hoff, Option.isSome_none, Bool.false_and, Bool.false_eq_true, if_false, if_true]
  rfl

/-- A high half without its low half is refused. -/
theorem Dev.writeTarget_high_alone (v bytes : Nat) (hrun : d.mgmt.run = none) (hl : ∀ l, (d.bus p).stage = some l → l.off ≠ t.off) :
    d.writeTarget p { t with half := .high } v bytes = (d.modBus p (fun x => { x with stage := none })).writeErr p 3 t.off bytes := by
  cases hs : (d.bus p).stage with
  | none => simp [Dev.writeTarget, hrun, Blocks.mgmtBars_idle, hs]
  | some l => simp [Dev.writeTarget, hrun, Blocks.mgmtBars_idle, hs, hl l hs]

/-- A read of a low half returns it and captures the high half. -/
theorem Dev.readTarget_low (v bytes : Nat) (hd : d.glb.phase = .running) (hv : d.readValue p t = some v) :
    d.readTarget p { t with half := .low } bytes = d.modBus p (fun x => { x with
      latch := some ⟨t.off, BitVec.ofNat 32 (v / 2 ^ 32)⟩, answer := .data 4 (BitVec.ofNat 64 (v % 2 ^ 32)) }) := by
  have hv' : d.readValue p { t with half := .low } = some v := hv
  simp [Dev.readTarget, hv', hd]

/-- A read of a high half that was captured returns the captured half. -/
theorem Dev.readTarget_high_latched (bytes : Nat) (l : Latch) (hd : d.glb.phase = .running) (hl : (d.bus p).latch = some l)
    (hoff : l.off = t.off) :
    d.readTarget p { t with half := .high } bytes =
      d.modBus p (fun x => { x with latch := none, answer := .data 4 (l.val.setWidth 64) }) := by
  have hheld : ((d.bus p).latch).filter (fun x => x.off = t.off) = some l := by rw [hl, Option.filter_some, if_pos (by simp [hoff])]
  simp [Dev.readTarget, hheld, hd]

end

section
variable {d : Dev} {p : MPort} {off : Nat} {t : Target} (hd : d.glb.phase = .running) (hp : d.reaches p = true)
  (htgt : busTarget off 8 = some t)

include hd hp htgt in
/-- A 32-bit write of the low half of a 64-bit register. -/
theorem Dev.busWrite_low {lo : Nat} (hrun : d.mgmt.run = none) (hlo : lo < 2 ^ 32) :
    d.busWrite p off 4 lo = d.modBus p (fun x => { x with stage := some ⟨off, BitVec.ofNat 32 lo⟩, answer := .done }) := by
  obtain ⟨-, -, -, -, hoff, -⟩ := busTarget_eight_some htgt
  rw [Dev.busWrite_target _ hp (busTarget_low htgt), Dev.writeTarget_low _ _ hd hrun, hoff, Nat.mod_eq_of_lt hlo]

include hp htgt in
/-- A 32-bit write of the high half after that of the low half: one value is judged. -/
theorem Dev.busWrite_high_after_low {lo hi : Nat} (hhigh : busTarget (off + 4) 4 = some { t with half := .high }) (hrun : d.mgmt.run = none)
    (hlo : lo < 2 ^ 32) (hhi : hi < 2 ^ 32) :
    (d.modBus p (fun x => { x with stage := some ⟨off, BitVec.ofNat 32 lo⟩, answer := .done })).busWrite p (off + 4) 4 hi =
      (d.modBus p (fun x => { x with stage := none, answer := .done })).judge p t (lo + hi * 2 ^ 32) 4 := by
  obtain ⟨-, -, -, -, hoff, -⟩ := busTarget_eight_some htgt
  have hval : (BitVec.ofNat 32 lo).toNat = lo := by rw [BitVec.toNat_ofNat, Nat.mod_eq_of_lt hlo]
  rw [Dev.busWrite_target _ (by rwa [Dev.reaches_modBus]) hhigh,
    Dev.writeTarget_high_match _ _ ⟨off, BitVec.ofNat 32 lo⟩ (by rwa [Dev.modBus_mgmt]) (by rw [Dev.bus_modBus_same]) hoff.symm,
    Dev.modBus_modBus, hval, show hi % 2 ^ (8 * 4) % 2 ^ 32 = hi by omega]

include hd hp htgt in
/-- A 32-bit read of the low half of a 64-bit register. -/
theorem Dev.busRead_low {v : Nat} (hv : d.readValue p t = some v) :
    d.busRead p off 4 = d.modBus p (fun x => { x with
      latch := some ⟨t.off, BitVec.ofNat 32 (v / 2 ^ 32)⟩, answer := .data 4 (BitVec.ofNat 64 (v % 2 ^ 32)) }) := by
  rw [Dev.busRead_target hp (busTarget_low htgt), Dev.readTarget_low v _ hd hv]

include hd hp in
/-- A 32-bit read of the high half of a 64-bit register after the read of its low half. -/
theorem Dev.busRead_high_latched {v : Nat} (hhigh : busTarget (off + 4) 4 = some { t with half := .high })
    (hlatch : (d.bus p).latch = some ⟨t.off, BitVec.ofNat 32 (v / 2 ^ 32)⟩) :
    d.busRead p (off + 4) 4 = d.modBus p (fun x =>
      { x with latch := none, answer := .data 4 (BitVec.ofNat 64 (v / 2 ^ 32 % 2 ^ 32)) }) := by
  have hhalf : (BitVec.ofNat 32 (v / 2 ^ 32)).setWidth 64 = BitVec.ofNat 64 (v / 2 ^ 32 % 2 ^ 32) := BitVec.eq_of_toNat_eq (by simp)
  rw [Dev.busRead_target hp hhigh, Dev.readTarget_high_latched _ _ hd hlatch rfl, hhalf]

end

/-- The value that two halves make. -/
theorem toNat_halves {lo hi : W64} (hlo : lo.toNat < 2 ^ 32) (hhi : hi.toNat < 2 ^ 32) :
    (BitVec.ofNat 64 (lo.toNat + hi.toNat * 2 ^ 32)).toNat % 2 ^ (8 * 8) = lo.toNat + hi.toNat * 2 ^ 32 := by
  rw [BitVec.toNat_ofNat]
  omega

end Sys2Proof.Machine
end

section
open Sys2Proof Sys2Proof.Machine

/-- Settles O9: each of the accesses comes down to its case of `Dev.writeTarget` or `Dev.readTarget`. -/
theorem halvesMakeOneValue : Obligations.HalvesMakeOneValue := by
  constructor
  · intro s p off t lo hi hop hp hrun htgt hhigh hlo hhi
    obtain ⟨-, -, -, -, hoff, hwhole⟩ := busTarget_eight_some htgt
    have hlow := Dev.busWrite_low hop hp htgt hrun hlo
    refine ⟨⟨_, exec_registerWrite _ _ _ _ _ hop, hlow, ?_⟩, ?_, fun hstage => ?_⟩
    · rw [hlow, exec_registerWrite _ _ _ _ _ (by simpa [Safety.Operating] using hop), State.onDev_onDev, State.onDev_dev,
        Dev.busWrite_high_after_low hp htgt hhigh hrun hlo hhi]
    · rw [exec_registerWrite _ _ _ _ _ hop, Dev.busWrite_target _ hp htgt, toNat_halves hlo hhi,
        Dev.writeTarget_whole _ _ (by simp [hrun]) (Blocks.mgmtBars_idle _ _ _ hrun) hwhole]
    · rw [exec_registerWrite _ _ _ _ _ hop, Dev.busWrite_target _ hp hhigh, Dev.writeTarget_high_alone _ _ hrun (by rwa [hoff]), hoff]
  · intro s u p off t hop hp htgt hhigh hbase v
    have hlow := Dev.busRead_low hop hp htgt (Dev.readValue_shown t hbase)
    refine ⟨_, exec_registerRead _ _ _ _ hop, ?_, fun huop hup hlatch => ?_⟩
    · rw [hlow, State.onDev_dev, Dev.bus_modBus_same]
    · rw [hlow, State.onDev_dev, Dev.bus_modBus_same] at hlatch
      refine ⟨_, exec_registerRead _ _ _ _ huop, ?_⟩
      rw [Dev.busRead_high_latched huop hup hhigh hlatch]
      exact ⟨by rw [State.onDev_dev, Dev.bus_modBus_same], by rw [State.onDev_dev, Dev.bus_modBus_same]⟩

end

section
/-! Reserved bits of the registers of the map (R15): the fields of each are disjoint, so that no bit outside them is ever taken or shown. -/

namespace Sys2Proof.Machine

/-- The fields of a register are listed from its most significant bit down and do not meet. -/
def FieldsDescend (fs : List Fld) : Prop := fs.Pairwise (fun f g => g.hi < f.lo) ∧ ∀ f ∈ fs, f.lo ≤ f.hi

theorem FieldsDescend.filter {fs : List Fld} (h : FieldsDescend fs) (p : Fld → Bool) : FieldsDescend (fs.filter p) :=
  ⟨h.1.filter p, fun f hf => h.2 f (List.mem_filter.mp hf).1⟩

/-- It is so for every register of the map. -/
theorem fieldsDescend_of_mem_regBlocks : ∀ b ∈ regBlocks, ∀ r ∈ b.2.2, FieldsDescend r.flds := by
  unfold FieldsDescend
  decide

/-- A register of the map is listed in a block. -/
theorem mem_regBlocks_of_regAt {off i j : Nat} {r : RegSpec} (h : regAt off = some (r, i, j)) : ∃ b ∈ regBlocks, r ∈ b.2.2 := by
  unfold regAt at h
  split at h
  · cases h
  next lo hi rs hb =>
    obtain ⟨s, hmem, hloc⟩ := List.exists_of_findSome?_eq_some h
    obtain ⟨_, -, hs⟩ := Option.map_eq_some_iff.mp hloc
    obtain rfl : s = r := congrArg Prod.fst hs
    exact ⟨_, List.mem_of_find?_eq_some hb, hmem⟩

theorem bitOf_eq_testBit (v i : Nat) : bitOf v i = v.testBit i := by rw [bitOf, Nat.testBit_eq_decide_div_mod_eq]

theorem sumBy_eq_sum {α : Type} (f : α → Nat) (xs : List α) : sumBy f xs = (xs.map f).sum := by
  rw [sumBy, List.sum_eq_foldl, List.foldl_map]

/-- The bits of a word in fields, kept in place. -/
def fieldBits (fs : List Fld) (v : Nat) : Nat := sumBy (fun f => bitsOf v f.hi f.lo * 2 ^ f.lo) fs

theorem fieldBits_cons (f : Fld) (fs : List Fld) (v : Nat) :
    fieldBits (f :: fs) v = 2 ^ f.lo * bitsOf v f.hi f.lo + fieldBits fs v := by
  rw [fieldBits, fieldBits, sumBy_eq_sum, sumBy_eq_sum, List.map_cons, List.sum_cons, Nat.mul_comm]

theorem bitsOf_lt (v hi lo : Nat) : bitsOf v hi lo < 2 ^ (hi + 1 - lo) := Nat.mod_lt _ (Nat.two_pow_pos _)

/-- Fields below a bit hold less than its weight. -/
theorem fieldBits_lt {fs : List Fld} (h : FieldsDescend fs) (v n : Nat) (hn : ∀ f ∈ fs, f.hi < n) : fieldBits fs v < 2 ^ n := by
  induction fs generalizing n with
  | nil => exact Nat.two_pow_pos n
  | cons f fs ih =>
    obtain ⟨hpair, hle⟩ := h
    obtain ⟨hbelow, hpair⟩ := List.pairwise_cons.mp hpair
    have hrest := ih ⟨hpair, fun g hg => hle g (by simp [hg])⟩ f.lo hbelow
    have hlo : f.lo ≤ f.hi := hle f (by simp)
    rw [fieldBits_cons]
    calc 2 ^ f.lo * bitsOf v f.hi f.lo + fieldBits fs v
        < 2 ^ f.lo * (bitsOf v f.hi f.lo + 1) := by rw [Nat.mul_succ]; omega
      _ ≤ 2 ^ f.lo * 2 ^ (f.hi + 1 - f.lo) := Nat.mul_le_mul_left _ (bitsOf_lt _ _ _)
      _ = 2 ^ (f.hi + 1) := by rw [← Nat.pow_add]; congr 1; omega
      _ ≤ 2 ^ n := Nat.pow_le_pow_right (by decide) (hn f (by simp))

/-- A bit that lies in no field is not set. -/
theorem bitOf_fieldBits_of_reserved {fs : List Fld} (h : FieldsDescend fs) (v i : Nat) (hi : ∀ f ∈ fs, ¬ (f.lo ≤ i ∧ i ≤ f.hi)) :
    bitOf (fieldBits fs v) i = false := by
  rw [bitOf_eq_testBit]
  induction fs with
  | nil => exact Nat.zero_testBit i
  | cons f fs ih =>
    obtain ⟨hpair, hle⟩ := h
    obtain ⟨hbelow, hpair⟩ := List.pairwise_cons.mp hpair
    have hdesc : FieldsDescend fs := ⟨hpair, fun g hg => hle g (by simp [hg])⟩
    rw [fieldBits_cons, Nat.testBit_two_pow_mul_add _ (fieldBits_lt hdesc v f.lo hbelow)]
    split_ifs with hlt
    · exact ih hdesc (fun g hg => hi g (by simp [hg]))
    · have habove : f.hi < i := by
        have := hi f (by simp)
        omega
      exact Nat.testBit_lt_two_pow (Nat.lt_of_lt_of_le (bitsOf_lt _ _ _) (Nat.pow_le_pow_right (by decide) (by omega)))

theorem bitOf_pick_of_reserved {r : RegSpec} (h : FieldsDescend r.flds) (accs : List Acc) (v i : Nat)
    (hi : ∀ f ∈ r.flds, ¬ (f.lo ≤ i ∧ i ≤ f.hi)) : bitOf (r.pick accs v) i = false :=
  bitOf_fieldBits_of_reserved (h.filter _) v i (fun f hf => hi f (List.mem_filter.mp hf).1)

/-! What R15 says of the registers of the map. -/

/-- The registers that show a value of the port or of the Loupe: LOUPE_DATA and MGMT_ARG have no reserved bit, LOUPE_SEL none below 28. -/
theorem ownValue_flds : ∀ b ∈ regBlocks, ∀ r ∈ b.2.2,
    (r.base = Reg.loupeData ∨ r.base = Reg.mgmtArg 0 → ∃ f ∈ r.flds, f.lo = 0 ∧ f.hi = 63) ∧
    (r.base = Reg.loupeSel → ⟨.rw, 27, 0⟩ ∈ r.flds) := by
  decide

section
variable {off bytes i : Nat} {t : Target} (htgt : busTarget off bytes = some t) (hw : t.half = .whole)
  (hi : ∀ f ∈ t.r.flds, ¬ (f.lo ≤ i ∧ i ≤ f.hi))
include htgt hw hi

/-- A value with a reserved bit sets it, whatever else it sets. -/
theorem setsReserved_of_bit {v : Nat} (hv : bitOf v i = true) : t.r.setsReserved v = true := by
  obtain ⟨hreg, -, -⟩ := busTarget_whole htgt hw
  obtain ⟨b, hb, hr⟩ := mem_regBlocks_of_regAt hreg
  have hpick : t.r.pick [.rw, .ro, .wo, .w1c, .w1s] v ≠ v := by
    intro heq
    have := bitOf_pick_of_reserved (fieldsDescend_of_mem_regBlocks b hb t.r hr) [.rw, .ro, .wo, .w1c, .w1s] v i hi
    rw [heq, hv] at this
    cases this
  simp [RegSpec.setsReserved, hpick]

/-- A write with a reserved bit is refused with RESP 2, whole or assembled from its halves. -/
theorem Dev.judge_reservedBit (d : Dev) (p : MPort) (v n : Nat) (ecc : Ecc) (hv : bitOf v i = true) :
    d.judge p t v n ecc = d.writeErr p 2 t.off n := by
  rw [Dev.judge, if_pos (setsReserved_of_bit htgt hw hi hv)]

/-- A reserved bit of a register's shown value reads as zero. -/
theorem bitOf_shown_of_reserved (v : Nat) : bitOf (t.r.shown v) i = false := by
  obtain ⟨hreg, -, -⟩ := busTarget_whole htgt hw
  obtain ⟨b, hb, hr⟩ := mem_regBlocks_of_regAt hreg
  exact bitOf_pick_of_reserved (fieldsDescend_of_mem_regBlocks b hb t.r hr) _ v i hi

/-- So it does in the value that a read returns, LOUPE_DATA, LOUPE_SEL and MGMT_ARG among the registers. -/
theorem Dev.bitOf_readValue_of_reserved (d : Dev) (p : MPort) (hsel : (d.bus p).loupeSel < 2 ^ 28) (hin : i < 8 * bytes) {v : Nat}
    (hv : d.readValue p t = some v) : bitOf v i = false := by
  obtain ⟨hreg, -, hbytes⟩ := busTarget_whole htgt hw
  obtain ⟨b, hb, hr⟩ := mem_regBlocks_of_regAt hreg
  obtain ⟨hfull, hloupe⟩ := ownValue_flds b hb t.r hr
  have hi64 : i ≤ 63 := by
    have : t.r.bytes ≤ 8 := by
      unfold RegSpec.bytes
      split <;> decide
    omega
  by_cases hbase : t.r.base ∈ [Reg.loupeData, Reg.loupeSel, Reg.mgmtArg 0]
  · by_cases hs : t.r.base = Reg.loupeSel
    · have hlow : ¬ i ≤ 27 := fun h => hi _ (hloupe hs) ⟨Nat.zero_le i, h⟩
      rw [Dev.readValue, if_neg (by rw [hs]; decide), if_pos hs] at hv
      rw [← Option.some.inj hv, bitOf_eq_testBit]
      exact Nat.testBit_lt_two_pow (Nat.lt_of_lt_of_le hsel (Nat.pow_le_pow_right (by decide) (by omega)))
    · have hother : t.r.base = Reg.loupeData ∨ t.r.base = Reg.mgmtArg 0 := by simpa [hs] using hbase
      obtain ⟨f, hf, hlo, hhi⟩ := hfull hother
      exact absurd ⟨hlo ▸ Nat.zero_le i, hhi ▸ hi64⟩ (hi f hf)
  · rw [Dev.readValue_shown t hbase] at hv
    rw [← Option.some.inj hv]
    exact bitOf_shown_of_reserved htgt hw hi _

end

/-- R15 for a write over a port: a write of a whole register that sets a reserved bit is refused, recorded, and changes nothing else. -/
theorem registerWrite_reservedBit (s : State) (p : MPort) (off bytes : Nat) (v : W64) (t : Target) (i : Nat) (hop : Safety.Operating s)
    (hp : s.dev.reaches p = true) (htgt : busTarget off bytes = some t) (hw : t.half = .whole)
    (hbox : s.dev.mgmt.run.isSome = true → t.isMailbox = false) (hbar : s.dev.mgmtBars t (v.toNat % 2 ^ (8 * bytes)) = false)
    (hin : i < 8 * bytes) (hv : bitOf v.toNat i = true) (hi : ∀ f ∈ t.r.flds, ¬ (f.lo ≤ i ∧ i ≤ f.hi)) :
    Safety.Gives (.registerWrite p off bytes v) s (fun u =>
      (u.dev.bus p).answer = .error 2 bytes ∧ Safety.SameRegsBut [errRespReg p] s u ∧ Safety.SameMemory s u ∧ Safety.SameEngines s u ∧
      Safety.Logged s u (errRespEntry p 2 off false)) := by
  obtain ⟨-, hoff, -⟩ := busTarget_whole htgt hw
  have hv' : bitOf (v.toNat % 2 ^ (8 * bytes)) i = true := by
    rwa [bitOf_eq_testBit, Nat.testBit_mod_two_pow, decide_eq_true hin, Bool.true_and, ← bitOf_eq_testBit]
  have hframe := s.dev.accessFrame_writeErr p 2 off bytes hop
  refine ⟨s.onDev (s.dev.writeErr p 2 off bytes), ?_, s.dev.bus_writeErr_answer p 2 off bytes hop, fun o ho => ?_,
    sameMemory_of_accessFrame hframe, sameEngines_of_accessFrame hframe, ?_⟩
  · rw [exec_registerWrite _ _ _ _ _ hop, Dev.busWrite_target _ hp htgt, Dev.writeTarget_whole _ _ hbox hbar hw,
      Dev.judge_reservedBit htgt hw hi _ _ _ _ _ hv', hoff]
  · rw [State.onDev_dev, Dev.rd_writeErr _ _ _ _ _ hop, Dev.rd_recordErr_other _ _ _ _ _ _ (by simpa using ho)]
  · rw [Safety.Logged, State.onDev_dev, Dev.writeErr_obs _ _ _ _ _ hop]
    rfl

/-- R15 for a read over a port: reserved bits read as zero. -/
theorem registerRead_reservedBit (s : State) (p : MPort) (off bytes i : Nat) (t : Target) (hop : Safety.Operating s)
    (hp : s.dev.reaches p = true) (htgt : busTarget off bytes = some t) (hw : t.half = .whole) (hsel : (s.dev.bus p).loupeSel < 2 ^ 28)
    (hin : i < 8 * bytes) (hi : ∀ f ∈ t.r.flds, ¬ (f.lo ≤ i ∧ i ≤ f.hi)) :
    Safety.Gives (.registerRead p off bytes) s (fun u => ∀ n x, (u.dev.bus p).answer = .data n x → x.getLsbD i = false) := by
  refine ⟨_, exec_registerRead _ _ _ _ hop, fun n x hx => ?_⟩
  rw [Dev.busRead_target hp htgt, State.onDev_dev, Dev.readTarget] at hx
  cases hv : s.dev.readValue p t with
  | none =>
    simp only [hw, hv, Dev.bus_errResp_answer _ _ _ _ _ _ hop] at hx
    cases hx
  | some v =>
    simp only [hw, hv, Dev.answer_running _ _ _ hop, Dev.bus_modBus_same] at hx
    obtain ⟨-, rfl⟩ := Answer.data.inj hx
    rw [BitVec.getLsbD_ofNat, ← bitOf_eq_testBit, s.dev.bitOf_readValue_of_reserved htgt hw hi p hsel hin hv, Bool.and_false]

end Sys2Proof.Machine
end

section
namespace Sys2Proof.Machine

/-- A register that is not of the map: three fields share its bit 0. -/
def overlapTarget : Target :=
  ⟨⟨"OVERLAP", Reg.glbCtxPerf, true, 0, .plain, 1, 0, 1, 0, [⟨.rw, 0, 0⟩, ⟨.rw, 0, 0⟩, ⟨.rw, 0, 0⟩]⟩, 0, 0, Reg.glbCtxPerf, .whole⟩

/-- The three copies of bit 0 add up to the value 3, so its bit 1 is not found to be reserved, and the write is answered as done. -/
theorem judge_overlapTarget : ((State.reset.dev.judge .host overlapTarget 3 8).bus .host).answer = .done := by decide

end Sys2Proof.Machine
end

section
open Sys2Proof Sys2Proof.Machine

/-- Refutes O6: its second clause speaks of every `Target`, and a register whose fields overlap, `overlapTarget`, lets a value pass whose bit 1
lies in no field. Of the registers of the map, whose fields are disjoint, all that O6 says is proved above: `registerWrite_reservedBit`,
`Dev.judge_reservedBit` and `registerRead_reservedBit`. -/
theorem not_reservedBits : ¬ Obligations.ReservedBits := by
  rintro ⟨-, hjudge, -⟩
  have h := hjudge State.reset.dev .host overlapTarget 3 8 1 {} (by decide) (by decide) (by decide) (by decide)
  have hanswer := congrArg (fun d => (d.bus .host).answer) h
  simp only [judge_overlapTarget, Dev.bus_writeErr_answer State.reset.dev .host 2 _ 8 rfl] at hanswer
  exact Answer.noConfusion hanswer

end

section
/-! Orders that change no bit (R7): maxima and sums, votes by block index, and the landing of a stream that is cut into cells. -/

namespace Sys2Proof.Machine

/-! The long accumulator and the sum S (R44, R86, R87). -/

/-- The exponents that the anchor is taken over (R86). -/
def anchorSet (blocks : List AccBlock) (init : Num) (isInt : Bool) : List Int :=
  let cs := (blocks.filter (fun b => !b.nan)).map (fun b => b.c)
  if init.isFin && !init.isZero then (initExp isInt init - 40) :: cs else cs

/-- The anchor is their maximum. -/
theorem anchorOf_eq_max (blocks : List AccBlock) (init : Num) (isInt : Bool) :
    anchorOf blocks init isInt = (anchorSet blocks init isInt).max? := by
  show (match anchorSet blocks init isInt with | [] => none | c :: rest => some (rest.foldl max c)) = _
  cases anchorSet blocks init isInt <;> rfl

theorem anchorSet_perm {bs cs : List AccBlock} (h : bs.Perm cs) (init : Num) (isInt : Bool) :
    (anchorSet bs init isInt).Perm (anchorSet cs init isInt) := by
  have hcs := (h.filter (fun b => !b.nan)).map (fun b => b.c)
  unfold anchorSet
  split
  · exact hcs.cons _
  · exact hcs

/-- A maximum does not depend on the order. -/
theorem max?_perm {xs ys : List Int} (h : xs.Perm ys) : xs.max? = ys.max? := by
  ext a
  simp only [List.max?_eq_some_iff, h.mem_iff]

/-- One element from its blocks in another order. -/
theorem longAccumulate_perm {bs cs : List AccBlock} (h : bs.Perm cs) (toInt32 : Bool) (fl : CellFlags) (init : Num) :
    longAccumulate toInt32 bs fl init = longAccumulate toInt32 cs fl init := by
  have hanchor : anchorOf bs init toInt32 = anchorOf cs init toInt32 := by
    rw [anchorOf_eq_max, anchorOf_eq_max, max?_perm (anchorSet_perm h init toInt32)]
  have hwindow (a : Int) : windowOf a bs init = windowOf a cs init := (h.map (blockAddend a)).foldl_eq _
  rw [longAccumulate, longAccumulate, hanchor]
  simp only [hwindow]

/-- The sum S from its terms in another order. -/
theorem gridSum_perm {us vs : List Nat} (h : us.Perm vs) : gridSum us = gridSum vs := by
  rw [gridSum, gridSum, (h.map (fun u => numUnits (-81) (f32 u))).foldl_eq]

/-! Votes (R228). -/

/-- The stable sort by a key is Mathlib's insertion sort. -/
theorem sortBy_key {α : Type} (key : α → Nat) (xs : List α) :
    sortBy (fun a b => decide (key a < key b)) xs = xs.insertionSort (fun a b => key a ≤ key b) := by
  have hinsert (x : α) (ys : List α) :
      insertBy (fun a b => !decide (key b < key a)) x ys = ys.orderedInsert (fun a b => key a ≤ key b) x := by
    induction ys with
    | nil => rfl
    | cons y ys ih => simp [insertBy, ih]
  induction xs with
  | nil => rfl
  | cons x xs ih => rw [sortBy, List.insertionSort_cons, hinsert, ih]

/-- The votes of a round, the own among them. -/
def roundVotes (me : Nat) (own : Bool × Nat) (got : List (Nat × Bool × Nat)) : List (Nat × Bool × Nat) := (me, own.1, own.2) :: got

/-- The votes by block index. -/
def sortedVotes (votes : List (Nat × Bool × Nat)) : List (Nat × Bool × Nat) := sortBy (fun a b => decide (a.1 < b.1)) votes

theorem combineVotes_eq (me : Nat) (own : Bool × Nat) (got : List (Nat × Bool × Nat)) :
    combineVotes me own got =
      ((sortedVotes (roundVotes me own got)).all (fun v => v.2.1),
       (((sortedVotes (roundVotes me own got)).map (fun v => v.2.2)).find? (fun s => s ≠ 0)).getD 0) := rfl

theorem sortedVotes_eq_insertionSort (votes : List (Nat × Bool × Nat)) :
    sortedVotes votes = votes.insertionSort (fun a b => a.1 ≤ b.1) := sortBy_key (fun v : Nat × Bool × Nat => v.1) votes

theorem sortedVotes_perm_self (votes : List (Nat × Bool × Nat)) : (sortedVotes votes).Perm votes := by
  rw [sortedVotes_eq_insertionSort]
  exact List.perm_insertionSort _ _

theorem sortedVotes_pairwise (votes : List (Nat × Bool × Nat)) : (sortedVotes votes).Pairwise (fun a b => a.1 ≤ b.1) := by
  have htotal : Std.Total (fun a b : Nat × Bool × Nat => a.1 ≤ b.1) := ⟨fun a b => Nat.le_total a.1 b.1⟩
  have htrans : IsTrans (Nat × Bool × Nat) (fun a b => a.1 ≤ b.1) := ⟨fun _ _ _ => Nat.le_trans⟩
  rw [sortedVotes_eq_insertionSort]
  exact List.pairwise_insertionSort _ votes

/-- Votes of different blocks come out in one order. -/
theorem sortedVotes_perm {us vs : List (Nat × Bool × Nat)} (h : us.Perm vs) (hnodup : (us.map (·.1)).Nodup) :
    sortedVotes us = sortedVotes vs := by
  refine List.Perm.eq_of_pairwise (fun a b ha hb hab hba => ?_) (sortedVotes_pairwise us) (sortedVotes_pairwise vs)
    ((sortedVotes_perm_self us).trans (h.trans (sortedVotes_perm_self vs).symm))
  have ha' : a ∈ us := (sortedVotes_perm_self us).mem_iff.mp ha
  have hb' : b ∈ us := h.mem_iff.mpr ((sortedVotes_perm_self vs).mem_iff.mp hb)
  exact List.inj_on_of_nodup_map hnodup ha' hb' (Nat.le_antisymm hab hba)

theorem combineVotes_perm (me : Nat) (own : Bool × Nat) {xs ys : List (Nat × Bool × Nat)} (h : xs.Perm ys)
    (hnodup : (me :: xs.map (·.1)).Nodup) : combineVotes me own xs = combineVotes me own ys := by
  have hsorted : sortedVotes (roundVotes me own xs) = sortedVotes (roundVotes me own ys) :=
    sortedVotes_perm (h.cons (me, own.1, own.2)) hnodup
  rw [combineVotes_eq, combineVotes_eq, hsorted]

/-- A round is OK if every vote is. -/
theorem combineVotes_ok_iff (me : Nat) (own : Bool × Nat) (got : List (Nat × Bool × Nat)) :
    (combineVotes me own got).1 = true ↔ own.1 = true ∧ ∀ v ∈ got, v.2.1 = true := by
  rw [combineVotes_eq, List.all_eq_true]
  simp only [(sortedVotes_perm_self _).mem_iff, roundVotes, List.forall_mem_cons]

/-! Where the bytes of a stream land (R221). -/

/-- Bytes with their addresses from an address on. -/
def placedAt (a : Nat) (bs : List Byte) : List (Nat × Byte) := bs.zipIdx.map (fun b => (a + b.2, b.1))

/-- The bytes of a landing with their addresses. -/
def placed (parts : List (Nat × List Byte)) : List (Nat × Byte) := parts.flatMap (fun p => placedAt p.1 p.2)

theorem placedAt_append (a : Nat) (xs ys : List Byte) : placedAt a (xs ++ ys) = placedAt a xs ++ placedAt (a + xs.length) ys := by
  have hshift : ys.zipIdx xs.length = ys.zipIdx.map (fun b => (b.1, xs.length + b.2)) := by rw [List.zipIdx_eq_map_add]
  simp [placedAt, List.zipIdx_append, hshift, Nat.add_assoc]

/-- No bytes land nowhere. -/
@[simp] theorem landing_no_bytes (spans : List (Nat × Nat)) (o : Nat) : landing spans o [] = [] := by
  cases spans <;> rfl

/-- A span before the offset takes nothing. -/
theorem landing_past {a n o : Nat} (rest : List (Nat × Nat)) (bs : List Byte) (h : n ≤ o) :
    landing ((a, n) :: rest) o bs = landing rest (o - n) bs := by
  cases bs with
  | nil => simp
  | cons b bs => simp [landing, h]

/-- The span at the offset takes what it holds, the next spans the rest. -/
theorem placed_landing_here {a n o : Nat} (rest : List (Nat × Nat)) (bs : List Byte) (h : o < n) :
    placed (landing ((a, n) :: rest) o bs) = placedAt (a + o) (bs.take (n - o)) ++ placed (landing rest 0 (bs.drop (n - o))) := by
  cases bs with
  | nil => simp [placed, placedAt]
  | cons b bs => simp [landing, placed, Nat.not_le.mpr h]

/-- A stream's bytes land at the same addresses when it is cut in two. -/
theorem placed_landing_append (spans : List (Nat × Nat)) (o : Nat) (xs ys : List Byte) :
    placed (landing spans o (xs ++ ys)) = placed (landing spans o xs) ++ placed (landing spans (o + xs.length) ys) := by
  induction spans generalizing o xs with
  | nil => rfl
  | cons span rest ih =>
    obtain ⟨a, n⟩ := span
    by_cases hpast : n ≤ o
    · rw [landing_past rest _ hpast, landing_past rest _ hpast, landing_past rest _ (by omega), ih,
        show o + xs.length - n = o - n + xs.length by omega]
    · by_cases hfit : xs.length < n - o
      · have hdrop : xs.drop (n - o) = [] := List.drop_eq_nil_of_le hfit.le
        rw [placed_landing_here rest _ (by omega), placed_landing_here rest _ (by omega), placed_landing_here rest _ (by omega),
          List.take_append, List.drop_append, hdrop, List.take_of_length_le hfit.le, placedAt_append,
          show n - (o + xs.length) = n - o - xs.length by omega]
        simp [placed, Nat.add_assoc]
      · rw [placed_landing_here rest _ (by omega), placed_landing_here rest _ (by omega), landing_past rest _ (by omega),
          List.take_append_of_le_length (by omega), List.drop_append_of_le_length (by omega), ih, List.length_drop,
          show 0 + (xs.length - (n - o)) = o + xs.length - n by omega, List.append_assoc]

end Sys2Proof.Machine
end

section
open Sys2Proof Sys2Proof.Machine

/-- Settles O46: a maximum, two sums, a sort by distinct block indices, and the induction over the spans of a stream. -/
theorem orderNeverChangesBits : Obligations.OrderNeverChangesBits :=
  ⟨fun toInt32 _ _ fl init h => longAccumulate_perm h toInt32 fl init, fun _ _ => gridSum_perm,
    fun me own _ _ h hnodup => ⟨combineVotes_perm me own h hnodup, combineVotes_ok_iff me own _⟩, placed_landing_append⟩

end

section
/-! Fields of words and registers: what `setBits` changes and leaves, and a register's fields after a write of one of them. -/

namespace Sys2Proof.Machine

/-! Words. -/

theorem testBit_bitsOf (v hi lo i : Nat) : (bitsOf v hi lo).testBit i = (decide (i < hi + 1 - lo) && v.testBit (lo + i)) := by
  rw [bitsOf, Nat.testBit_mod_two_pow, Nat.testBit_div_two_pow, Nat.add_comm i lo]

/-- A word is what lies above a field, the field, and what lies below it. -/
theorem eq_above_field_below (v hi lo : Nat) :
    v = 2 ^ lo * (2 ^ (hi + 1 - lo) * (v / 2 ^ lo / 2 ^ (hi + 1 - lo)) + bitsOf v hi lo) + v % 2 ^ lo := by
  rw [bitsOf, Nat.div_add_mod, Nat.div_add_mod]

theorem setBits_eq_above_field_below (v hi lo x : Nat) :
    setBits v hi lo x = 2 ^ lo * (2 ^ (hi + 1 - lo) * (v / 2 ^ lo / 2 ^ (hi + 1 - lo)) + x % 2 ^ (hi + 1 - lo)) + v % 2 ^ lo := by
  have hv := eq_above_field_below v hi lo
  rw [Nat.mul_add] at hv ⊢
  rw [setBits, Nat.mul_comm (bitsOf v hi lo), Nat.mul_comm (x % _)]
  omega

/-- A set field reads as the low bits of the value, every other bit as before. -/
theorem testBit_setBits (v hi lo x i : Nat) :
    (setBits v hi lo x).testBit i = if lo ≤ i ∧ i ≤ hi then x.testBit (i - lo) else v.testBit i := by
  have hlow : v % 2 ^ lo < 2 ^ lo := Nat.mod_lt _ (Nat.two_pow_pos _)
  have hfield (y : Nat) : y % 2 ^ (hi + 1 - lo) < 2 ^ (hi + 1 - lo) := Nat.mod_lt _ (Nat.two_pow_pos _)
  rw [setBits_eq_above_field_below, Nat.testBit_two_pow_mul_add _ hlow, Nat.testBit_two_pow_mul_add _ (hfield x)]
  simp only [Nat.testBit_mod_two_pow, Nat.testBit_div_two_pow]
  by_cases hlo : i < lo
  · simp [hlo, Nat.not_le.mpr hlo]
  · by_cases hhi : i ≤ hi
    · simp [hlo, hhi, Nat.not_lt.mp hlo, show i - lo < hi + 1 - lo by omega]
    · simp [hlo, hhi, show ¬ i - lo < hi + 1 - lo by omega, show i - lo - (hi + 1 - lo) + (hi + 1 - lo) + lo = i by omega]

/-- The field that was set. -/
@[simp] theorem bitsOf_setBits_same (v hi lo x : Nat) : bitsOf (setBits v hi lo x) hi lo = x % 2 ^ (hi + 1 - lo) := by
  refine Nat.eq_of_testBit_eq fun i => ?_
  rw [testBit_bitsOf, testBit_setBits, Nat.testBit_mod_two_pow]
  by_cases hi' : i < hi + 1 - lo
  · simp [hi', show lo + i ≤ hi by omega]
  · simp [hi']

/-- A field apart from the one that was set. -/
theorem bitsOf_setBits_apart {v hi lo x hi' lo' : Nat} (h : hi' < lo ∨ hi < lo') :
    bitsOf (setBits v hi lo x) hi' lo' = bitsOf v hi' lo' := by
  refine Nat.eq_of_testBit_eq fun i => ?_
  rw [testBit_bitsOf, testBit_bitsOf, testBit_setBits]
  by_cases hin : i < hi' + 1 - lo'
  · rw [if_neg (by omega)]
  · simp [hin]

/-- The bit that was set. -/
theorem bitOf_setBits (v hi lo x i : Nat) : bitOf (setBits v hi lo x) i = if lo ≤ i ∧ i ≤ hi then bitOf x (i - lo) else bitOf v i := by
  simp only [bitOf_eq_testBit, testBit_setBits]

/-- A set field within n bits keeps a word of n bits. -/
theorem setBits_lt {v hi lo x n : Nat} (hv : v < 2 ^ n) (hhi : hi < n) : setBits v hi lo x < 2 ^ n := by
  refine Nat.lt_pow_two_of_testBit _ fun i hi' => ?_
  rw [testBit_setBits, if_neg (by omega)]
  exact Nat.testBit_lt_two_pow (Nat.lt_of_lt_of_le hv (Nat.pow_le_pow_right (by decide) hi'))

/-! Registers. -/

theorem Blocks.rd_lt (b : Blocks) (off : Nat) : b.rd off < 2 ^ 64 := BitVec.isLt _

/-- A register after a write of one of its fields. -/
theorem Dev.rd_wrFld_same (d : Dev) (off v : Nat) {hi lo : Nat} (h : hi < 64) :
    (d.wrFld off hi lo v).rd off = setBits (d.rd off) hi lo v := by
  rw [Dev.wrFld, Dev.rd_wr_same, Nat.mod_eq_of_lt (setBits_lt (d.rd_lt off) h)]

theorem Dev.rd_wrFld_other (d : Dev) {off off' : Nat} (hi lo v : Nat) (h : off' ≠ off) : (d.wrFld off hi lo v).rd off' = d.rd off' :=
  Dev.rd_wr_other _ _ _ _ h

theorem Dev.rd_bump_other (d : Dev) {off off' : Nat} (n : Nat) (h : off' ≠ off) : (d.bump off n).rd off' = d.rd off' :=
  Dev.rd_wr_other _ _ _ _ h

theorem Dev.fld_wrFld_apart (d : Dev) (off v : Nat) {hi lo hi' lo' : Nat} (h : hi < 64) (ha : hi' < lo ∨ hi < lo') :
    (d.wrFld off hi lo v).fld off hi' lo' = d.fld off hi' lo' := by
  rw [Blocks.fld, d.rd_wrFld_same off v h, bitsOf_setBits_apart ha, Blocks.fld]

theorem Dev.flag_wrFld_same (d : Dev) (off v i : Nat) (h : i < 64) : (d.wrFld off i i v).flag off i = bitOf v 0 := by
  rw [Blocks.flag, d.rd_wrFld_same off v h, bitOf_setBits, if_pos ⟨Nat.le_refl i, Nat.le_refl i⟩, Nat.sub_self]

end Sys2Proof.Machine
end

section
/-! What every command is: a next state of the device (R29). -/

namespace Sys2Proof.Machine

/-- Every command answers a next state, in which only the device may have changed. -/
theorem exec_eq_next_onDev (c : Instr) (s : State) : ∃ d, exec c s = .next (s.onDev d) := by
  cases c <;> exact ⟨_, rfl⟩

end Sys2Proof.Machine
end

section
open Sys2Proof Sys2Proof.Machine

/-- Settles O1, by the two cases of the queue in the definition of a step. -/
theorem stepRunsFrontCommand : Obligations.StepRunsFrontCommand := by
  refine ⟨fun c rest s h => ?_, fun s h => ?_⟩
  · rw [step, h]
  · rw [step, h]

/-- Settles O2: a command is a next state with another device, and the queue is no part of the device. -/
theorem everyCommandLeavesQueue : Obligations.EveryCommandLeavesQueue := by
  intro c s
  obtain ⟨d, h⟩ := exec_eq_next_onDev c s
  exact ⟨s.onDev d, h, s.onDev_pending d⟩

end

section
/-! The end of a management command (R282, R283). -/

namespace Sys2Proof.Machine

/-- Device e is device d but for registers, the management command, the I3C target's state and the log. -/
def Dev.MgmtFrame (d e : Dev) : Prop :=
  ∃ regs mgmt i3c obs, e = { d with regs := regs, mgmt := mgmt, i3c := i3c, obs := obs }

theorem Dev.MgmtFrame.refl (d : Dev) : d.MgmtFrame d := ⟨_, _, _, _, rfl⟩

theorem Dev.MgmtFrame.trans {d e f : Dev} (h : d.MgmtFrame e) (k : e.MgmtFrame f) : d.MgmtFrame f := by
  obtain ⟨_, _, _, _, rfl⟩ := h
  obtain ⟨_, _, _, _, rfl⟩ := k
  exact ⟨_, _, _, _, rfl⟩

theorem Dev.mgmtFrame_wr (d : Dev) (off v : Nat) : d.MgmtFrame (d.wr off v) := ⟨_, _, _, _, rfl⟩

theorem Dev.mgmtFrame_log (d : Dev) (e : LogEntry) : d.MgmtFrame (d.log e) := ⟨_, _, _, _, rfl⟩

/-- MGMT_STATUS when the command of an opcode has ended with a result. -/
def mgmtStatusEnded (old op result : Nat) : Nat :=
  setBits (setBits (setBits (setBits (setBits old 27 24 0) 15 8 result) 23 16 op) 1 1 1) 0 0 0

/-- The ended command shows in the registers and is gone. -/
def Dev.mgmtReport (d : Dev) (op result info : Nat) : Dev :=
  (({ d with mgmt := { d.mgmt with run := none } } : Dev).wr Reg.mgmtStatus (mgmtStatusEnded (d.rd Reg.mgmtStatus) op result)).wr
    Reg.mgmtResultInfo info

/-- Where enabled, the I3C target tells of it. -/
def Dev.mgmtInterrupt (d : Dev) : Dev :=
  if d.flag Reg.mgmtCtrl 0 && bitOf d.i3c.events.toNat 0 then { d with i3c := { d.i3c with ibi := d.i3c.ibi ++ [1] } } else d

/-- APPLY_FAIL is logged. -/
def Dev.mgmtLog (d : Dev) (result : Nat) : Dev :=
  if result = 0x0F then d.log { code := 0xC7, domain := 36, addr := Reg.mgmtStatus, kind := 2 } else d

theorem Dev.mgmtEnd_none (d : Dev) (result info : Nat) (h : d.mgmt.run = none) : d.mgmtEnd result info = d := by
  rw [Dev.mgmtEnd, h]

theorem Dev.mgmtEnd_some (d : Dev) (result info : Nat) {r : MgmtRun} (h : d.mgmt.run = some r) :
    d.mgmtEnd result info = ((d.mgmtReport r.op result info).mgmtLog result).mgmtInterrupt := by
  rw [Dev.mgmtEnd, h]
  rfl

theorem Dev.mgmtFrame_mgmtReport (d : Dev) (op result info : Nat) : d.MgmtFrame (d.mgmtReport op result info) :=
  Dev.MgmtFrame.trans (e := { d with mgmt := { d.mgmt with run := none } }) ⟨_, _, _, _, rfl⟩
    ((Dev.mgmtFrame_wr _ _ _).trans (Dev.mgmtFrame_wr _ _ _))

theorem Dev.mgmtFrame_mgmtLog (d : Dev) (result : Nat) : d.MgmtFrame (d.mgmtLog result) := by
  unfold Dev.mgmtLog
  split
  · exact d.mgmtFrame_log _
  · exact .refl d

theorem Dev.mgmtFrame_mgmtInterrupt (d : Dev) : d.MgmtFrame d.mgmtInterrupt := by
  unfold Dev.mgmtInterrupt
  split
  · exact ⟨_, _, _, _, rfl⟩
  · exact .refl d

theorem Dev.mgmtFrame_mgmtEnd (d : Dev) (result info : Nat) : d.MgmtFrame (d.mgmtEnd result info) := by
  cases h : d.mgmt.run with
  | none => rw [d.mgmtEnd_none _ _ h]; exact .refl d
  | some r =>
    rw [d.mgmtEnd_some _ _ h]
    exact (d.mgmtFrame_mgmtReport _ _ _).trans ((Dev.mgmtFrame_mgmtLog _ _).trans (Dev.mgmtFrame_mgmtInterrupt _))

theorem Dev.mgmtFrame_mgmtPortDone (d : Dev) (n : Nat) (ok : Bool) : d.MgmtFrame (d.mgmtPortDone n ok) := by
  rw [Dev.mgmtPortDone]
  split
  · exact .refl d
  · split
    · exact .refl d
    · split
      · exact d.mgmtFrame_mgmtEnd _ _
      · split
        · exact d.mgmtFrame_mgmtEnd _ _
        · exact .refl d

/-- Registers alone decide what a register reads. -/
theorem Blocks.rd_congr {b c : Blocks} (h : b.regs = c.regs) (off : Nat) : b.rd off = c.rd off := by rw [Blocks.rd, h, Blocks.rd]

@[simp] theorem Dev.mgmtInterrupt_regs (d : Dev) : d.mgmtInterrupt.regs = d.regs := by
  unfold Dev.mgmtInterrupt
  split <;> rfl

@[simp] theorem Dev.mgmtInterrupt_mgmt (d : Dev) : d.mgmtInterrupt.mgmt = d.mgmt := by
  unfold Dev.mgmtInterrupt
  split <;> rfl

@[simp] theorem Dev.mgmtLog_regs (d : Dev) (result : Nat) : (d.mgmtLog result).regs = d.regs := by
  unfold Dev.mgmtLog
  split <;> rfl

@[simp] theorem Dev.mgmtLog_mgmt (d : Dev) (result : Nat) : (d.mgmtLog result).mgmt = d.mgmt := by
  unfold Dev.mgmtLog
  split <;> rfl

/-- The end of a command sets MGMT_STATUS and MGMT_RESULT_INFO and no other register. -/
theorem Dev.rd_mgmtEnd (d : Dev) (result info : Nat) {r : MgmtRun} (h : d.mgmt.run = some r) (off : Nat) :
    (d.mgmtEnd result info).rd off = (d.mgmtReport r.op result info).rd off := by
  rw [d.mgmtEnd_some _ _ h]
  exact Blocks.rd_congr (by simp) off

theorem Dev.rd_mgmtEnd_other (d : Dev) (result info : Nat) {off : Nat} (hs : off ≠ Reg.mgmtStatus) (hi : off ≠ Reg.mgmtResultInfo) :
    (d.mgmtEnd result info).rd off = d.rd off := by
  cases h : d.mgmt.run with
  | none => rw [d.mgmtEnd_none _ _ h]
  | some r =>
    rw [d.rd_mgmtEnd _ _ h, Dev.mgmtReport, Dev.rd_wr_other _ _ _ _ hi, Dev.rd_wr_other _ _ _ _ hs]
    rfl

/-- BUSY falls, DONE rises and RESULT shows. -/
theorem Dev.mgmtEnd_ended (d : Dev) (result info : Nat) {r : MgmtRun} (h : d.mgmt.run = some r) (hr : result < 256) (pending : List Instr) :
    Safety.MgmtEnded ⟨d.mgmtEnd result info, pending⟩ result := by
  have hstatus : (d.mgmtEnd result info).rd Reg.mgmtStatus = mgmtStatusEnded (d.rd Reg.mgmtStatus) r.op result := by
    rw [d.rd_mgmtEnd _ _ h, Dev.mgmtReport, Dev.rd_wr_other _ _ _ _ (by decide), Dev.rd_wr_same, Nat.mod_eq_of_lt]
    exact setBits_lt (setBits_lt (setBits_lt (setBits_lt (setBits_lt (d.rd_lt _) (by decide)) (by decide)) (by decide)) (by decide)) (by decide)
  have hrun : (d.mgmtEnd result info).mgmt.run = none := by
    rw [d.mgmtEnd_some _ _ h, Dev.mgmtInterrupt_mgmt, Dev.mgmtLog_mgmt]
    rfl
  refine ⟨hrun, ?_, ?_, ?_⟩
  · show bitOf _ 0 = false
    rw [hstatus, mgmtStatusEnded, bitOf_setBits]
    rfl
  · show bitOf _ 1 = true
    rw [hstatus, mgmtStatusEnded, bitOf_setBits, if_neg (by decide), bitOf_setBits]
    rfl
  · show bitsOf _ 15 8 = result
    rw [hstatus, mgmtStatusEnded, bitsOf_setBits_apart (by decide), bitsOf_setBits_apart (by decide), bitsOf_setBits_apart (by decide),
      bitsOf_setBits_same]
    exact Nat.mod_eq_of_lt hr

end Sys2Proof.Machine
end

section
/-! Faults of the device's own clocks (R30, R31, R334): the lock bits, the optical ports that stop, and that none is lit again. -/

namespace Sys2Proof.Machine

/-! Lock bits. -/

theorem Dev.clockDown_eq (d : Dev) (dom : Nat) : d.clockDown dom =
    if d.glb.lockedOnce.contains dom then (d.wrFld Reg.glbClkLock dom dom 0).wrFld Reg.glbClkLoss dom dom 1
    else d.wrFld Reg.glbClkLock dom dom 0 := rfl

theorem Dev.mgmtFrame_clockDown (d : Dev) (dom : Nat) : d.MgmtFrame (d.clockDown dom) := by
  rw [Dev.clockDown_eq]
  split
  · exact (d.mgmtFrame_wr _ _).trans (Dev.mgmtFrame_wr _ _ _)
  · exact d.mgmtFrame_wr _ _

@[simp] theorem Dev.clockDown_glb (d : Dev) (dom : Nat) : (d.clockDown dom).glb = d.glb := by
  rw [Dev.clockDown_eq]
  split <;> simp

theorem Dev.rd_clockDown_other (d : Dev) (dom : Nat) {off : Nat} (hlock : off ≠ Reg.glbClkLock) (hloss : off ≠ Reg.glbClkLoss) :
    (d.clockDown dom).rd off = d.rd off := by
  rw [Dev.clockDown_eq]
  split
  · rw [Dev.rd_wrFld_other _ _ _ _ hloss, Dev.rd_wrFld_other _ _ _ _ hlock]
  · rw [Dev.rd_wrFld_other _ _ _ _ hlock]

theorem Dev.rd_clockDown_lock (d : Dev) {dom : Nat} (h : dom < 64) :
    (d.clockDown dom).rd Reg.glbClkLock = setBits (d.rd Reg.glbClkLock) dom dom 0 := by
  rw [Dev.clockDown_eq]
  split
  · rw [Dev.rd_wrFld_other _ _ _ _ (by decide), Dev.rd_wrFld_same _ _ _ h]
  · rw [Dev.rd_wrFld_same _ _ _ h]

/-- The domain shows as unlocked. -/
theorem Dev.flag_clockDown_lock_same (d : Dev) {dom : Nat} (h : dom < 64) : (d.clockDown dom).flag Reg.glbClkLock dom = false := by
  rw [Blocks.flag, d.rd_clockDown_lock h, bitOf_setBits, if_pos ⟨Nat.le_refl _, Nat.le_refl _⟩, Nat.sub_self]
  rfl

/-- The other lock bits stand. -/
theorem Dev.flag_clockDown_lock_other (d : Dev) {dom dom' : Nat} (h : dom < 64) (hne : dom' ≠ dom) :
    (d.clockDown dom).flag Reg.glbClkLock dom' = d.flag Reg.glbClkLock dom' := by
  rw [Blocks.flag, d.rd_clockDown_lock h, bitOf_setBits, if_neg (by omega), Blocks.flag]

/-- The loss of a domain that has locked is recorded. -/
theorem Dev.flag_clockDown_loss (d : Dev) {dom : Nat} (h : dom < 64) (hl : d.glb.lockedOnce.contains dom = true) :
    (d.clockDown dom).flag Reg.glbClkLoss dom = true := by
  rw [Dev.clockDown_eq, if_pos hl, Dev.flag_wrFld_same _ _ _ _ h]
  rfl

/-! A port that stops. -/

/-- Device e is device d but for registers, ports, router, contexts, carats, the management command, the I3C target's state and the log. -/
def Dev.PortFrame (d e : Dev) : Prop :=
  ∃ regs ports router ctxs pwr mgmt i3c obs,
    e = { d with regs := regs, ports := ports, router := router, ctxs := ctxs, pwr := pwr, mgmt := mgmt, i3c := i3c, obs := obs }

theorem Dev.PortFrame.refl (d : Dev) : d.PortFrame d := ⟨_, _, _, _, _, _, _, _, rfl⟩

theorem Dev.PortFrame.trans {d e f : Dev} (h : d.PortFrame e) (k : e.PortFrame f) : d.PortFrame f := by
  obtain ⟨_, _, _, _, _, _, _, _, rfl⟩ := h
  obtain ⟨_, _, _, _, _, _, _, _, rfl⟩ := k
  exact ⟨_, _, _, _, _, _, _, _, rfl⟩

theorem Dev.MgmtFrame.portFrame {d e : Dev} (h : d.MgmtFrame e) : d.PortFrame e := by
  obtain ⟨_, _, _, _, rfl⟩ := h
  exact ⟨_, _, _, _, _, _, _, _, rfl⟩

theorem Dev.MgmtFrame.ports {d e : Dev} (h : d.MgmtFrame e) : e.ports = d.ports := by
  obtain ⟨_, _, _, _, rfl⟩ := h
  rfl

theorem Dev.MgmtFrame.pwr {d e : Dev} (h : d.MgmtFrame e) : e.pwr = d.pwr := by
  obtain ⟨_, _, _, _, rfl⟩ := h
  rfl

theorem Dev.MgmtFrame.glb {d e : Dev} (h : d.MgmtFrame e) : e.glb = d.glb := by
  obtain ⟨_, _, _, _, rfl⟩ := h
  rfl

/-- What a requester returns goes to the reservations of contexts. -/
theorem Dev.returnCarats_eq (d : Dev) (req : Nat) :
    ∃ ctxs fromRes, d.returnCarats req = { d with ctxs := ctxs, pwr := { d.pwr with held := tabErase req d.pwr.held, fromRes := fromRes } } := by
  have hback (es : List (Nat × Nat × Nat)) (d : Dev) : ∃ ctxs, es.foldl (fun d e =>
      d.modCtx e.2.1 (fun c => if c.runnable then { c with resLeft := min c.resv (c.resLeft + e.2.2) } else c)) d = { d with ctxs := ctxs } := by
    induction es generalizing d with
    | nil => exact ⟨_, rfl⟩
    | cons e es ih =>
      obtain ⟨ctxs, h⟩ := ih (d.modCtx e.2.1 (fun c => if c.runnable then { c with resLeft := min c.resv (c.resLeft + e.2.2) } else c))
      exact ⟨ctxs, h⟩
  obtain ⟨ctxs, h⟩ := hback (d.pwr.fromRes.filter (fun e => e.1 = req)) d
  exact ⟨ctxs, d.pwr.fromRes.filter (fun e => e.1 ≠ req), by rw [Dev.returnCarats, h]⟩

theorem Dev.portFrame_lasersOff (d : Dev) (n : Nat) : d.PortFrame (d.lasersOff n) := by
  obtain ⟨_, _, h⟩ := (d.withdrawCarats (584 + n)).returnCarats_eq (584 + n)
  rw [Dev.lasersOff, h]
  exact ⟨_, _, _, _, _, _, _, _, rfl⟩

@[simp] theorem Dev.lasersOff_ports (d : Dev) (n : Nat) : (d.lasersOff n).ports = d.ports := by
  obtain ⟨_, _, h⟩ := (d.withdrawCarats (584 + n)).returnCarats_eq (584 + n)
  rw [Dev.lasersOff, h]
  rfl

/-- Its carats are back. -/
theorem Dev.lasersOff_held (d : Dev) (n : Nat) : (d.lasersOff n).pwr.held = tabErase (584 + n) d.pwr.held := by
  obtain ⟨_, _, h⟩ := (d.withdrawCarats (584 + n)).returnCarats_eq (584 + n)
  rw [Dev.lasersOff, h]
  rfl

theorem Dev.portFrame_modPort (d : Dev) (n : Nat) (f : OptPort → OptPort) : d.PortFrame (d.modPort n f) := ⟨_, _, _, _, _, _, _, _, rfl⟩

theorem Dev.portFrame_bump (d : Dev) (off n : Nat) : d.PortFrame (d.bump off n) := (d.mgmtFrame_wr _ _).portFrame

@[simp] theorem Dev.takeWaiting_pwr (d : Dev) (n : Nat) : (d.takeWaiting n).2.pwr = d.pwr := rfl

theorem Dev.portFrame_reinject (d : Dev) (n : Nat) : d.PortFrame (d.reinject n) :=
  Dev.PortFrame.trans (e := (d.takeWaiting n).2) ⟨_, _, _, _, _, _, _, _, rfl⟩
    ((Dev.portFrame_modPort _ _ _).trans (Dev.portFrame_bump _ _ _))

@[simp] theorem Dev.reinject_pwr (d : Dev) (n : Nat) : (d.reinject n).pwr = d.pwr := by
  rw [Dev.reinject, Dev.bump_pwr, Dev.modPort_pwr, Dev.takeWaiting_pwr]

/-- Ports decide what a port is. -/
theorem Blocks.optPort_congr {b c : Blocks} (h : b.ports = c.ports) (n : Nat) : b.optPort n = c.optPort n := by
  rw [Blocks.optPort, h, Blocks.optPort]

/-- The cells that port n hands back: its retry buffer as possible copies, and what waits in the router for its output (R182). -/
def Dev.backCells (d : Dev) (n : Nat) : List QCell :=
  ((d.optPort n).retry.map (fun (e : Nat × QCell) => { e.2 with cell := e.2.cell.withCopy }) ++ (d.takeWaiting n).1).map
    (fun (q : QCell) => { q with inPort := n })

theorem Dev.reinject_ports (d : Dev) (n : Nat) : (d.reinject n).ports =
    (d.modPort n (fun p => { p with rx := p.rx ++ d.backCells n, retry := [], replay := [] })).ports := by
  rw [Dev.reinject, Dev.bump_ports]
  rfl

theorem Dev.optPort_reinject_other (d : Dev) {n m : Nat} (h : m ≠ n) : (d.reinject n).optPort m = d.optPort m := by
  rw [Blocks.optPort_congr (d.reinject_ports n), Dev.optPort_modPort_other _ _ _ _ h]

/-- The port has gone dark for good: FAILED, to be restarted by nothing but a management retrain, and without carats (log entry 15). -/
def Dev.PutOut (d : Dev) (n : Nat) : Prop :=
  (d.optPort n).st = .failed ∧ (d.optPort n).sticky = true ∧ d.holds (584 + n) = 0

/-- A port that stands in one of the two states without light. -/
def Dev.Unlit (d : Dev) (n : Nat) : Prop := (d.optPort n).st = .disabled ∨ (d.optPort n).st = .failed

theorem Dev.portStop_of_unlit (d : Dev) {n : Nat} (h : d.Unlit n) : d.portStop n = d := by
  rw [Dev.portStop, if_pos (by simpa [Dev.Unlit] using h)]

/-- What the stop of a lit port comes to. -/
def Dev.portDown (d : Dev) (n : Nat) : Dev :=
  (((d.reinject n).lasersOff n).modPort n (fun p => { p.down .failed with sticky := true })).bump (Reg.fabPortCntDown n) 1

theorem Dev.portStop_of_lit (d : Dev) {n : Nat} (h : ¬ d.Unlit n) : d.portStop n = (d.portDown n).mgmtPortDone n false := by
  rw [Dev.portStop, if_neg (by simpa [Dev.Unlit] using h)]
  rfl

theorem Dev.portFrame_portDown (d : Dev) (n : Nat) : d.PortFrame (d.portDown n) :=
  ((d.portFrame_reinject n).trans (Dev.portFrame_lasersOff _ n)).trans
    ((Dev.portFrame_modPort _ _ _).trans (Dev.portFrame_bump _ _ _))

theorem Dev.portFrame_portStop (d : Dev) (n : Nat) : d.PortFrame (d.portStop n) := by
  by_cases h : d.Unlit n
  · rw [d.portStop_of_unlit h]
    exact .refl d
  · rw [d.portStop_of_lit h]
    exact (d.portFrame_portDown n).trans (Dev.mgmtFrame_mgmtPortDone _ _ _).portFrame

@[simp] theorem Dev.portDown_ports (d : Dev) (n : Nat) : (d.portDown n).ports =
    (((d.reinject n).lasersOff n).modPort n (fun p => { p.down .failed with sticky := true })).ports := Dev.bump_ports _ _ _

theorem Dev.optPort_portDown_same (d : Dev) (n : Nat) :
    (d.portDown n).optPort n = { (((d.reinject n).lasersOff n).optPort n).down .failed with sticky := true } := by
  rw [Blocks.optPort_congr (d.portDown_ports n), Dev.optPort_modPort_same]

theorem Dev.optPort_portDown_other (d : Dev) {n m : Nat} (h : m ≠ n) : (d.portDown n).optPort m = d.optPort m := by
  rw [Blocks.optPort_congr (d.portDown_ports n), Dev.optPort_modPort_other _ _ _ _ h, Blocks.optPort_congr (Dev.lasersOff_ports _ _),
    d.optPort_reinject_other h]

theorem Dev.portDown_held (d : Dev) (n : Nat) : (d.portDown n).pwr.held = tabErase (584 + n) d.pwr.held := by
  rw [Dev.portDown, Dev.bump_pwr, Dev.modPort_pwr, Dev.lasersOff_held, Dev.reinject_pwr]

theorem Dev.optPort_portStop_other (d : Dev) {n m : Nat} (h : m ≠ n) : (d.portStop n).optPort m = d.optPort m := by
  by_cases hn : d.Unlit n
  · rw [d.portStop_of_unlit hn]
  · rw [d.portStop_of_lit hn, Blocks.optPort_congr (Dev.mgmtFrame_mgmtPortDone _ _ _).ports, d.optPort_portDown_other h]

theorem Dev.holds_portStop_other (d : Dev) {n m : Nat} (h : m ≠ n) : (d.portStop n).holds (584 + m) = d.holds (584 + m) := by
  by_cases hn : d.Unlit n
  · rw [d.portStop_of_unlit hn]
  · rw [d.portStop_of_lit hn, Blocks.holds, (Dev.mgmtFrame_mgmtPortDone _ _ _).pwr, d.portDown_held,
      tabGet_tabErase_other _ _ _ _ (by omega), Blocks.holds]

/-- A lit port that stops is put out. -/
theorem Dev.putOut_portStop_same (d : Dev) {n : Nat} (h : ¬ d.Unlit n) : (d.portStop n).PutOut n := by
  have hport : (d.portStop n).optPort n = { (((d.reinject n).lasersOff n).optPort n).down .failed with sticky := true } := by
    rw [d.portStop_of_lit h, Blocks.optPort_congr (Dev.mgmtFrame_mgmtPortDone _ _ _).ports, d.optPort_portDown_same]
  refine ⟨by rw [hport]; rfl, by rw [hport], ?_⟩
  rw [d.portStop_of_lit h, Blocks.holds, (Dev.mgmtFrame_mgmtPortDone _ _ _).pwr, d.portDown_held, tabGet_tabErase_same]

/-- A port put out stays so when a port stops. -/
theorem Dev.PutOut.portStop {d : Dev} {n : Nat} (h : d.PutOut n) (m : Nat) : (d.portStop m).PutOut n := by
  by_cases hm : n = m
  · subst hm
    rwa [d.portStop_of_unlit (.inr h.1)]
  · obtain ⟨hst, hsticky, hheld⟩ := h
    exact ⟨by rw [d.optPort_portStop_other hm, hst], by rw [d.optPort_portStop_other hm, hsticky],
      by rw [d.holds_portStop_other hm, hheld]⟩

/-! The ports of a list stop. -/

theorem Dev.portFrame_portStops (ns : List Nat) (d : Dev) : d.PortFrame (ns.foldl Dev.portStop d) := by
  induction ns generalizing d with
  | nil => exact .refl d
  | cons n ns ih => exact (d.portFrame_portStop n).trans (ih _)

/-- A port without light stands. -/
theorem Dev.optPort_portStops_of_unlit (ns : List Nat) (d : Dev) {n : Nat} (h : d.Unlit n) :
    (ns.foldl Dev.portStop d).optPort n = d.optPort n := by
  induction ns generalizing d with
  | nil => rfl
  | cons m ns ih =>
    have hstep : (d.portStop m).optPort n = d.optPort n := by
      by_cases hm : n = m
      · rw [← hm, d.portStop_of_unlit h]
      · exact d.optPort_portStop_other hm
    rw [List.foldl_cons, ih _ (by rwa [Dev.Unlit, hstep]), hstep]

theorem Dev.PutOut.portStops {d : Dev} {n : Nat} (h : d.PutOut n) (ns : List Nat) : (ns.foldl Dev.portStop d).PutOut n := by
  induction ns generalizing d with
  | nil => exact h
  | cons m ns ih => exact ih (h.portStop m)

/-- A lit port of the list is put out. -/
theorem Dev.putOut_portStops (ns : List Nat) (d : Dev) {n : Nat} (hn : n ∈ ns) (h : ¬ d.Unlit n) : (ns.foldl Dev.portStop d).PutOut n := by
  induction ns generalizing d with
  | nil => simp at hn
  | cons m ns ih =>
    by_cases hm : n = m
    · subst hm
      exact (d.putOut_portStop_same h).portStops ns
    · refine ih _ ((List.mem_cons.mp hn).resolve_left hm) ?_
      rwa [Dev.Unlit, d.optPort_portStop_other hm]

end Sys2Proof.Machine
end

section
/-! The meaning of PLL_LOCK_LOSS in a domain of the device itself, and what it stops for good (R30). -/

namespace Sys2Proof.Machine

/-- Injection is stopped. -/
def Dev.stopInjection (d : Dev) : Dev := { d with glb := { d.glb with stopped := true } }

/-- Every port stops. -/
def Dev.stopPorts (d : Dev) : Dev := (List.range 6).foldl Dev.portStop d

theorem Dev.portFrame_stopPorts (d : Dev) : d.PortFrame d.stopPorts := Dev.portFrame_portStops _ d

theorem Dev.optPort_stopPorts_of_unlit (d : Dev) {n : Nat} (h : d.Unlit n) : d.stopPorts.optPort n = d.optPort n :=
  Dev.optPort_portStops_of_unlit _ d h

theorem Dev.putOut_stopPorts (d : Dev) {n : Nat} (hn : n < 6) (h : ¬ d.Unlit n) : d.stopPorts.PutOut n :=
  Dev.putOut_portStops _ d (List.mem_range.mpr hn) h

theorem Dev.clockFault_eq (d : Dev) (dom : Nat) :
    d.clockFault dom = ((d.stopInjection.stopPorts.clusterStop dom).clockDown dom).log { code := 0xC6, domain := dom } := rfl

/-- A domain that is none of a port's, the host port's or a vault's, and is locked. -/
theorem exec_pllLockLoss_device (s : State) (dom : Nat) (hop : Safety.Operating s) (hdom : dom < 41 ∨ 47 ≤ dom ∧ dom < 55)
    (hlock : bitOf s.dev.clkLockView dom = true) : exec (.pllLockLoss dom) s = .next (s.onDev (s.dev.clockFault dom)) := by
  show execPllLockLoss dom s = _
  rw [execPllLockLoss, Dev.live_running _ _ hop, Dev.pllLockLoss, if_neg (by simp [hlock]; omega), if_neg (by omega),
    if_neg (by omega), if_neg (by omega), if_neg (by omega)]

@[simp] theorem Dev.log_ports (d : Dev) (e : LogEntry) : (d.log e).ports = d.ports := rfl
@[simp] theorem Dev.flag_log (d : Dev) (e : LogEntry) (off i : Nat) : (d.log e).flag off i = d.flag off i := rfl
@[simp] theorem Dev.log_pwr (d : Dev) (e : LogEntry) : (d.log e).pwr = d.pwr := rfl

/-- Device e is device d but for the clocks' state, registers, ports, router, contexts, carats, the management command, the I3C target's state
and the log. -/
def Dev.ClockFrame (d e : Dev) : Prop :=
  ∃ glb regs ports router ctxs pwr mgmt i3c obs,
    e = { d with glb := glb, regs := regs, ports := ports, router := router, ctxs := ctxs, pwr := pwr, mgmt := mgmt, i3c := i3c, obs := obs }

theorem Dev.ClockFrame.trans {d e f : Dev} (h : d.ClockFrame e) (k : e.ClockFrame f) : d.ClockFrame f := by
  obtain ⟨_, _, _, _, _, _, _, _, _, rfl⟩ := h
  obtain ⟨_, _, _, _, _, _, _, _, _, rfl⟩ := k
  exact ⟨_, _, _, _, _, _, _, _, _, rfl⟩

theorem Dev.PortFrame.clockFrame {d e : Dev} (h : d.PortFrame e) : d.ClockFrame e := by
  obtain ⟨_, _, _, _, _, _, _, _, rfl⟩ := h
  exact ⟨_, _, _, _, _, _, _, _, _, rfl⟩

theorem Dev.PortFrame.glb {d e : Dev} (h : d.PortFrame e) : e.glb = d.glb := by
  obtain ⟨_, _, _, _, _, _, _, _, rfl⟩ := h
  rfl

theorem Dev.clockFrame_stopInjection (d : Dev) : d.ClockFrame d.stopInjection := ⟨_, _, _, _, _, _, _, _, _, rfl⟩

theorem Dev.clockFrame_clusterStop (d : Dev) (dom : Nat) : d.ClockFrame (d.clusterStop dom) := by
  unfold Dev.clusterStop
  split <;> exact ⟨_, _, _, _, _, _, _, _, _, rfl⟩

theorem Dev.clusterStop_ports (d : Dev) (dom : Nat) : (d.clusterStop dom).ports = d.ports := by
  unfold Dev.clusterStop
  split <;> rfl

theorem Dev.clusterStop_pwr (d : Dev) (dom : Nat) : (d.clusterStop dom).pwr = d.pwr := by
  unfold Dev.clusterStop
  split <;> rfl

theorem Dev.clusterStop_stopped (d : Dev) (dom : Nat) : (d.clusterStop dom).glb.stopped = d.glb.stopped := by
  unfold Dev.clusterStop
  split <;> rfl

theorem Dev.clusterStop_lockedOnce (d : Dev) (dom : Nat) : (d.clusterStop dom).glb.lockedOnce = d.glb.lockedOnce := by
  unfold Dev.clusterStop
  split <;> rfl

/-- The cluster's clock stopped in this hub cycle. -/
theorem Dev.clusterStop_lostAt (d : Dev) {dom : Nat} (h : dom < 32) :
    tabGet 0 (d.clusterStop dom).glb.lostAt dom = d.glb.hubNow + 1 := by
  rw [Dev.clusterStop, if_neg (by omega), tabGet_tabSet_same]

section
variable (d : Dev) (dom : Nat)

/-- Ports and carats are those that the stop of the ports leaves. -/
theorem Dev.clockFault_ports : (d.clockFault dom).ports = d.stopInjection.stopPorts.ports := by
  rw [d.clockFault_eq, Dev.log_ports, (Dev.mgmtFrame_clockDown _ _).ports, Dev.clusterStop_ports]

theorem Dev.clockFault_pwr : (d.clockFault dom).pwr = d.stopInjection.stopPorts.pwr := by
  rw [d.clockFault_eq, Dev.log_pwr, (Dev.mgmtFrame_clockDown _ _).pwr, Dev.clusterStop_pwr]

theorem Dev.clockFault_glb : (d.clockFault dom).glb = (d.stopInjection.stopPorts.clusterStop dom).glb := by
  rw [d.clockFault_eq, Dev.log_glb, Dev.clockDown_glb]

theorem Dev.stopPorts_glb : d.stopInjection.stopPorts.glb = d.stopInjection.glb := (Dev.portFrame_stopPorts _).glb

theorem Dev.clockFrame_clockFault : d.ClockFrame (d.clockFault dom) := by
  have hstop : d.ClockFrame d.stopInjection.stopPorts := d.clockFrame_stopInjection.trans (Dev.portFrame_stopPorts _).clockFrame
  have hdown : (d.stopInjection.stopPorts.clusterStop dom).MgmtFrame (d.clockFault dom) :=
    (Dev.mgmtFrame_clockDown _ _).trans (Dev.mgmtFrame_log _ _)
  exact (hstop.trans (Dev.clockFrame_clusterStop _ _)).trans hdown.portFrame.clockFrame

/-- Injection is stopped, and the domain shows as unlocked. -/
theorem Dev.clockFault_stopped (h : dom < 64) :
    (d.clockFault dom).glb.stopped = true ∧ (d.clockFault dom).flag Reg.glbClkLock dom = false := by
  constructor
  · rw [d.clockFault_glb, Dev.clusterStop_stopped, d.stopPorts_glb, Dev.stopInjection]
  · rw [d.clockFault_eq, Dev.flag_log, Dev.flag_clockDown_lock_same _ h]

/-- The loss is recorded if the domain has locked since reset. -/
theorem Dev.clockFault_loss (h : dom < 64) (hl : d.glb.lockedOnce.contains dom = true) :
    (d.clockFault dom).flag Reg.glbClkLoss dom = true := by
  have hlocked : (d.stopInjection.stopPorts.clusterStop dom).glb.lockedOnce = d.glb.lockedOnce := by
    rw [Dev.clusterStop_lockedOnce, d.stopPorts_glb, Dev.stopInjection]
  rw [d.clockFault_eq, Dev.flag_log, Dev.flag_clockDown_loss _ h (hlocked ▸ hl)]

/-- A port without light stands. -/
theorem Dev.optPort_clockFault_of_unlit {n : Nat} (h : d.Unlit n) : (d.clockFault dom).optPort n = d.optPort n := by
  rw [Blocks.optPort_congr (d.clockFault_ports dom), d.stopInjection.optPort_stopPorts_of_unlit h]
  rfl

/-- A lit port is put out. -/
theorem Dev.putOut_clockFault {n : Nat} (hn : n < 6) (h : ¬ d.Unlit n) : (d.clockFault dom).PutOut n := by
  have hout : d.stopInjection.stopPorts.PutOut n := d.stopInjection.putOut_stopPorts hn h
  rwa [Dev.PutOut, Blocks.holds, Blocks.optPort_congr (d.clockFault_ports dom), d.clockFault_pwr dom]

/-- A cluster that lost its clock runs no more, and its cycle counter stands (R334, R353). -/
theorem Dev.clockFault_cluster {p : Nat} (hdom : dom < 32) (hp : clusterOf p = dom) :
    (d.clockFault dom).clocked p = false ∧ (d.clockFault dom).coreCycles p = d.glb.hubNow * 3 / 2 := by
  have hlost : tabGet 0 (d.clockFault dom).glb.lostAt (clusterOf p) = d.glb.hubNow + 1 := by
    rw [d.clockFault_glb dom, hp, Dev.clusterStop_lostAt _ hdom, d.stopPorts_glb]
    rfl
  rw [Blocks.clocked, Blocks.coreCycles, hlost]
  exact ⟨rfl, by simp⟩

end

/-- Nothing more is lit: a port's retrain interval does nothing once injection has stopped. -/
theorem exec_retrainInterval_stopped (s : State) (n : Nat) (hop : Safety.Operating s) (h : s.dev.glb.stopped = true) :
    exec (.retrainInterval n) s = .next s := by
  have hdark : s.dev.retrainInterval n = s.dev := by
    rw [Dev.retrainInterval, Dev.portDark, if_pos h, ite_self]
  show execRetrainInterval n s = _
  rw [execRetrainInterval, onPort, Dev.live_running _ _ hop, hdark, ite_self, State.onDev_self]

/-- A grant leaves the clocks' state alone, and lights no port once injection has stopped. -/
theorem Dev.grantCarats_stopped (d : Dev) (r : CaratReq) (res : Bool) (h : d.glb.stopped = true) :
    (d.grantCarats r res).ports = d.ports ∧ (d.grantCarats r res).glb = d.glb := by
  unfold Dev.grantCarats
  cases r.ctx <;> cases res <;> simp [h]

/-- So does a scan of the arbiter. -/
theorem Dev.permitScan_stopped (rs : List CaratReq) (d : Dev) (blocked : List Nat) (left : Nat) (h : d.glb.stopped = true) :
    (d.permitScan blocked left rs).ports = d.ports := by
  induction rs generalizing d blocked left with
  | nil => rw [Dev.permitScan]
  | cons r rs ih =>
    obtain ⟨hports, hglb⟩ := d.grantCarats_stopped r (d.fromRes r) h
    rw [Dev.permitScan]
    dsimp only
    split_ifs
    · exact ih d _ _ h
    · rfl
    · rfl
    · rfl
    · exact ih d _ _ h
    · rw [ih _ _ _ (hglb ▸ h), hports]

theorem exec_permitGrant_stopped (s : State) (hop : Safety.Operating s) (h : s.dev.glb.stopped = true) :
    Safety.Gives .permitGrant s (fun t => t.dev.ports = s.dev.ports) := by
  refine ⟨s.onDev s.dev.permitGrant, ?_, Dev.permitScan_stopped _ _ _ _ h⟩
  show execPermitGrant s = _
  rw [execPermitGrant, Dev.live_running _ _ hop]

/-- PLL_LOCK_LOSS in a domain of the device itself (R30, R334, R353). -/
theorem pllLockLoss_device (s : State) (dom : Nat) (hop : Safety.Operating s) (hdom : dom < 41 ∨ 47 ≤ dom ∧ dom < 55)
    (hlock : bitOf s.dev.clkLockView dom = true) :
    Safety.Gives (.pllLockLoss dom) s (fun t =>
      t.dev.glb.stopped = true ∧ t.dev.flag Reg.glbClkLock dom = false ∧
      (s.dev.glb.lockedOnce.contains dom = true → t.dev.flag Reg.glbClkLoss dom = true) ∧
      (∀ n, n < 6 → (s.dev.optPort n).st = .disabled ∨ (s.dev.optPort n).st = .failed → t.dev.optPort n = s.dev.optPort n) ∧
      (∀ n, n < 6 → (s.dev.optPort n).st ≠ .disabled → (s.dev.optPort n).st ≠ .failed →
        (t.dev.optPort n).st = .failed ∧ (t.dev.optPort n).sticky = true ∧ t.dev.holds (584 + n) = 0) ∧
      (∀ p, dom < 32 → clusterOf p = dom → t.dev.toBlocks.clocked p = false ∧ t.dev.coreCycles p = s.dev.glb.hubNow * 3 / 2) ∧
      Safety.SameMemory s t ∧ t.dev.jobs = s.dev.jobs ∧ t.dev.cores = s.dev.cores) := by
  have hlt : dom < 64 := by omega
  obtain ⟨hstopped, hunlocked⟩ := s.dev.clockFault_stopped dom hlt
  refine ⟨s.onDev (s.dev.clockFault dom), exec_pllLockLoss_device s dom hop hdom hlock, hstopped, hunlocked,
    s.dev.clockFault_loss dom hlt, fun n _ h => s.dev.optPort_clockFault_of_unlit dom h,
    fun n hn hd hf => s.dev.putOut_clockFault dom hn (by simp [Dev.Unlit, hd, hf]), fun p h32 hp => s.dev.clockFault_cluster dom h32 hp, ?_⟩
  rw [State.onDev_dev]
  obtain ⟨_, _, _, _, _, _, _, _, _, hframe⟩ := s.dev.clockFrame_clockFault dom
  rw [Safety.SameMemory, State.onDev_dev, hframe]
  exact ⟨fun _ => ⟨rfl, rfl, rfl, rfl⟩, rfl, rfl⟩

end Sys2Proof.Machine
end

section
/-! The device in reset (R357, R359): no register but GLB_RESET_STATUS differs from its reset value, and the capability of a device without
failed cores is that of its grade (R292, Table 11.9). -/

namespace Sys2Proof.Machine

/-! CORE_WIDTH. -/

/-- The register block of the cores. -/
theorem find_regBlocks_core {off : Nat} (hlo : 0x08000000 ≤ off) (hhi : off ≤ 0x0FFFFFFF) :
    regBlocks.find? (fun b => b.1 ≤ off ∧ off ≤ b.2.1) = some (0x08000000, 0x0FFFFFFF, coreRegs) := by
  have hpast (lo hi : Nat) (h : hi < 0x08000000) : decide (lo ≤ off ∧ off ≤ hi) = false := by simp; omega
  simp only [regBlocks, List.find?, hpast _ _ (by decide : 0x000FFFFF < 0x08000000), hpast _ _ (by decide : 0x001FFFFF < 0x08000000),
    hpast _ _ (by decide : 0x002FFFFF < 0x08000000), hpast _ _ (by decide : 0x003FFFFF < 0x08000000),
    hpast _ _ (by decide : 0x00FFFFFF < 0x08000000), hpast _ _ (by decide : 0x01FFFFFF < 0x08000000),
    hpast _ _ (by decide : 0x02FFFFFF < 0x08000000), hpast _ _ (by decide : 0x033FFFFF < 0x08000000),
    hpast _ _ (by decide : 0x037FFFFF < 0x08000000), hpast _ _ (by decide : 0x03BFFFFF < 0x08000000),
    hpast _ _ (by decide : 0x03FFFFFF < 0x08000000), hpast _ _ (by decide : 0x07FFFFFF < 0x08000000),
    decide_eq_true (And.intro hlo hhi)]

/-- CORE_WIDTH, the fifth register of a core. -/
def coreWidthSpec : RegSpec := ⟨"CORE_WIDTH", 0x08000028, false, 0x40404040, .plain, 576, 0x10000, 1, 0x0, [⟨.ro, 31, 0⟩]⟩

theorem regAt_coreWidth {p : Nat} (h : p < 576) : regAt (Reg.coreWidth p) = some (coreWidthSpec, p, 0) := by
  have hfirst := findSome_stride (coreRegs.take 5) 0x08000000 0x10000 576 p 0x28 (by decide) h (by decide)
  have hspec : (coreRegs.take 5).find? (fun s => s.base = 0x08000000 + 0x28) = some coreWidthSpec := by decide
  rw [hspec, Option.map_some] at hfirst
  have hoff : 0x08000000 + p * 0x10000 + 0x28 = Reg.coreWidth p := by
    show _ = 0x08000028 + p * 0x10000
    omega
  rw [hoff] at hfirst
  have hsplit : coreRegs = coreRegs.take 5 ++ coreRegs.drop 5 := (List.take_append_drop 5 _).symm
  rw [regAt, find_regBlocks_core (by omega) (by omega)]
  dsimp only
  rw [hsplit, List.findSome?_append, hfirst, Option.some_or]

theorem regReset_coreWidth {p : Nat} (h : p < 576) : regReset (Reg.coreWidth p) = 0x40404040 := by
  rw [regReset, regAt_coreWidth h]
  rfl

/-! The capability of a device whose cores are all whole and out of service. -/

/-- The rank of position s of cluster g in the selection (R287): width, then service, then position. -/
def Blocks.selectKey (b : Blocks) (g s : Nat) : Nat :=
  (64 - b.coreWidth (18 * g + s)) * 64 + b2n (b.core (18 * g + s)).slot.isNone * 32 + s

theorem Blocks.selected_eq (b : Blocks) (g lc : Nat) : b.selected g lc =
    sortBy (fun x y => decide (x < y)) ((sortBy (fun x y => decide (b.selectKey g x < b.selectKey g y))
      ((List.range 18).filter (fun s => !b.mgmt.dead.contains (18 * g + s)))).take lc) := rfl

/-- A list in order stays. -/
theorem sortBy_of_sorted {α : Type} (key : α → Nat) {xs : List α} (h : xs.Pairwise (fun a b => key a ≤ key b)) :
    sortBy (fun a b => decide (key a < key b)) xs = xs := by
  rw [sortBy_key, h.insertionSort_eq]

/-- Every core with its full width, none failed, none in service. -/
structure Blocks.Virgin (b : Blocks) : Prop where
  widths : ∀ p, p < 576 → b.rd (Reg.coreWidth p) = 0x40404040
  dead : b.mgmt.dead = []
  cores : b.cores = []

/-- The cores of a cluster. -/
theorem lt_of_mem_cluster {g p : Nat} {ss : List Nat} (hg : g < 32) (hss : ss ⊆ List.range 18) (hp : p ∈ ss.map (18 * g + ·)) : p < 576 := by
  obtain ⟨s, hs, rfl⟩ := List.mem_map.mp hp
  have := List.mem_range.mp (hss hs)
  omega

section
variable {b : Blocks} (h : b.Virgin)
include h

theorem Blocks.Virgin.core (p : Nat) : b.core p = {} := by
  rw [Blocks.core, h.cores, tabGet]

/-- Every core has its full width. -/
theorem Blocks.Virgin.coreWidth {p : Nat} (hp : p < 576) : b.coreWidth p = 64 := by
  have harray : ∀ a < 4, b.arrayWidth p a = 64 := by
    rw [show b.arrayWidth p = fun a => bitsOf 0x40404040 (8 * a + 7) (8 * a) from
      funext fun a => by rw [Blocks.arrayWidth, Blocks.fld, h.widths p hp]]
    decide
  simp [Blocks.coreWidth, List.range_succ, harray]

theorem Blocks.Virgin.usableCores (g : Nat) : b.usableCores g = (List.range 18).map (18 * g + ·) := by
  rw [Blocks.usableCores, h.dead]
  exact List.filter_eq_self.mpr fun _ _ => rfl

/-- Of cores of one width the first ones are selected. -/
theorem Blocks.Virgin.selected {g : Nat} (hg : g < 32) (lc : Nat) : b.selected g lc = (List.range 18).take lc := by
  have husable : (List.range 18).filter (fun s => !b.mgmt.dead.contains (18 * g + s)) = List.range 18 := by
    rw [h.dead]
    exact List.filter_eq_self.mpr fun _ _ => rfl
  have hkey : (List.range 18).Pairwise (fun x y => b.selectKey g x ≤ b.selectKey g y) :=
    List.pairwise_lt_range.imp_of_mem fun hx hy hlt => by
      rw [List.mem_range] at hx hy
      rw [Blocks.selectKey, Blocks.selectKey, h.coreWidth (by omega), h.coreWidth (by omega), h.core, h.core]
      omega
  have hrange : ((List.range 18).take lc).Pairwise (fun x y => x ≤ y) := (List.pairwise_lt_range.imp Nat.le_of_lt).sublist (List.take_sublist _ _)
  rw [b.selected_eq, husable, sortBy_of_sorted _ hkey]
  exact sortBy_of_sorted (fun x : Nat => x) hrange

theorem Blocks.Virgin.capLc : b.capLc = gradeLc b.grade := by
  have hgrade : gradeLc b.grade ≤ 18 := by cases b.grade <;> decide
  have hfold (gs : List Nat) : gs.foldl (fun n g => min n (b.usableCores g).length) (gradeLc b.grade) = gradeLc b.grade := by
    induction gs with
    | nil => rfl
    | cons g gs ih => rw [List.foldl_cons, h.usableCores, List.length_map, List.length_range, Nat.min_eq_left hgrade, ih]
  exact hfold _

theorem Blocks.Virgin.serving {g : Nat} (hg : g < 32) (lc : Nat) : b.serving g lc = ((List.range 18).take lc).map (18 * g + ·) := by
  rw [Blocks.serving, h.selected hg]

theorem Blocks.Virgin.narrowest {ps : List Nat} (hps : ∀ p ∈ ps, p < 576) : b.narrowest ps = 64 := by
  rw [Blocks.narrowest]
  induction ps with
  | nil => rfl
  | cons p ps ih =>
    rw [List.foldl_cons, h.coreWidth (hps p (by simp)), Nat.min_self]
    exact ih fun q hq => hps q (by simp [hq])

/-- The cores that would not serve. -/
theorem Blocks.Virgin.spare_iff {g : Nat} (hg : g < 32) (lc s : Nat) :
    (!(b.serving g lc).contains (18 * g + s)) = !((List.range 18).take lc).contains s := by
  rw [h.serving hg, Bool.not_inj_iff, Bool.eq_iff_iff, List.contains_iff_mem, List.contains_iff_mem]
  exact List.mem_map_of_injective (fun x y hxy => Nat.add_left_cancel hxy)

/-- Every usable core has its full width, so each cluster has none of a lesser one. -/
theorem Blocks.Virgin.capCluster {g : Nat} (hg : g < 32) : b.capCluster g = 0x00400252 := by
  have hwidth : ∀ p ∈ (List.range 18).map (18 * g + ·), b.coreWidth p = 64 := fun p hp =>
    h.coreWidth (lt_of_mem_cluster hg (List.Subset.refl _) hp)
  have hassay : ((List.range 18).map (18 * g + ·)).filter (fun p => !(b.serving g b.capLc).contains p && decide (b.coreWidth p < 64)) = [] :=
    List.filter_eq_nil_iff.mpr fun p hp => by simp [hwidth p hp]
  have hfull : ((List.range 18).map (18 * g + ·)).filter (fun p => b.coreWidth p = 64) = (List.range 18).map (18 * g + ·) :=
    List.filter_eq_self.mpr fun p hp => by simp [hwidth p hp]
  have hserving : b.narrowest (b.serving g b.capLc) = 64 := by
    rw [h.serving hg]
    exact h.narrowest fun p hp => lt_of_mem_cluster hg (List.take_subset _ _) hp
  rw [Blocks.capCluster, h.usableCores, hassay, hfull, hserving, List.length_map, List.length_range]
  rfl

theorem Blocks.Virgin.capWidth : b.capWidth = 64 := by
  have hserving : ∀ w, ∀ g ∈ List.range 32, min w (b.narrowest (b.serving g b.capLc)) = min w 64 := fun w g hg => by
    have hg' := List.mem_range.mp hg
    rw [h.serving hg', h.narrowest fun p hp => lt_of_mem_cluster hg' (List.take_subset _ _) hp]
  rw [Blocks.capWidth, List.foldl_ext _ _ _ hserving]
  decide

/-- The capability shape of the grade (Table 11.9). -/
theorem Blocks.Virgin.capView : b.capView = (match b.grade with | .t512 => 0x240100200 | .t448 => 0x4400E01C0) := by
  have hspares : ∀ n, ∀ g ∈ List.range 32,
      min n (((b.usableCores g).filter (fun p => !(b.serving g b.capLc).contains p && b.coreWidth p = 64)).length) =
        min n ((List.range 18).filter (fun s => !((List.range 18).take b.capLc).contains s)).length := fun n g hg => by
    have hg' := List.mem_range.mp hg
    rw [h.usableCores, List.filter_map, List.length_map]
    refine congrArg (fun l => min n (List.length l)) (List.filter_congr fun s hs => ?_)
    have hs' := List.mem_range.mp hs
    simp only [Function.comp_apply, h.spare_iff hg', h.coreWidth (show 18 * g + s < 576 by omega), decide_true, Bool.and_true]
  rw [Blocks.capView]
  dsimp only
  rw [List.foldl_ext _ _ _ hspares, h.capWidth, h.capLc]
  cases b.grade <;> decide

end

/-! Into reset. -/

/-- The device that a reset leaves, before GLB_RESET_STATUS tells the cause. -/
def Dev.blank (d : Dev) (phase : Phase) : Dev :=
  { grade := d.grade, hostMem := d.hostMem, freeUsed := d.freeUsed,
    glb := { phase := phase, hostLink := false, perstHigh := d.glb.perstHigh, msix := d.glb.msix, tapInsn := d.glb.tapInsn,
             thermtripLow := decide (phase = .tripped) } }

theorem Dev.intoReset_eq (d : Dev) (cause : Nat) (phase : Phase) :
    d.intoReset cause phase = ((d.blank phase).wrFld Reg.glbResetStatus 23 16 cause).tapSettle := rfl

theorem Dev.rd_tapSettle (d : Dev) (off : Nat) : d.tapSettle.rd off = d.rd off := rfl

theorem Dev.rd_blank (d : Dev) (phase : Phase) (off : Nat) : (d.blank phase).rd off = (regReset off).toNat := rfl

section
variable (d : Dev) (cause : Nat) (phase : Phase)

theorem Dev.rd_intoReset_other {off : Nat} (h : off ≠ Reg.glbResetStatus) : (d.intoReset cause phase).rd off = (regReset off).toNat := by
  rw [Dev.intoReset_eq, Dev.rd_tapSettle, Dev.rd_wrFld_other _ _ _ _ h, Dev.rd_blank]

/-- GLB_RESET_STATUS shows the cause alone. -/
theorem Dev.rd_intoReset_status (h : cause < 256) : (d.intoReset cause phase).rd Reg.glbResetStatus = cause * 2 ^ 16 := by
  have hreset : (regReset Reg.glbResetStatus).toNat = 0x10000 := by decide
  rw [Dev.intoReset_eq, Dev.rd_tapSettle, Dev.rd_wrFld_same _ _ _ (by decide), Dev.rd_blank, hreset, setBits]
  have hfield : bitsOf 0x10000 23 16 = 1 := by decide
  rw [hfield, Nat.mod_eq_of_lt (show cause < 2 ^ (23 + 1 - 16) from h)]
  omega

theorem Dev.virgin_intoReset : (d.intoReset cause phase).Virgin where
  widths p hp := by
    rw [d.rd_intoReset_other cause phase (by show 0x08000028 + p * 0x10000 ≠ 8; omega), regReset_coreWidth hp]
    rfl
  dead := rfl
  cores := rfl

end

/-- The state of R357 and R359. -/
theorem resetState_intoReset (s : State) (cause : Nat) (phase : Phase) (hcause : cause < 256) (hphase : phase = .inReset ∨ phase = .tripped) :
    Safety.ResetState (s.dev.intoReset cause phase) s cause phase := by
  have hcap := s.dev.virgin_intoReset cause phase
  have hpins : (s.dev.intoReset cause phase).readyPin = false ∧ (s.dev.intoReset cause phase).beatOutRuns = false ∧
      (s.dev.intoReset cause phase).vltPerstPin = false := by
    rcases hphase with rfl | rfl <;> exact ⟨rfl, rfl, rfl⟩
  obtain ⟨hready, hbeat, hperst⟩ := hpins
  exact ⟨rfl, fun off h => s.dev.rd_intoReset_other cause phase h, s.dev.rd_intoReset_status cause phase hcause, fun _ => rfl, fun _ => rfl,
    fun _ => rfl, fun _ => rfl, rfl, rfl, rfl, rfl, rfl, rfl, rfl, rfl, hcap.capView, fun _ hg => hcap.capCluster hg, rfl, rfl, hready, hbeat,
    hperst, rfl, rfl⟩

end Sys2Proof.Machine
end

section
/-! Heat (R365, R366). -/

namespace Sys2Proof.Machine

/-- Device e is device d but for registers. -/
def Dev.RegFrame (d e : Dev) : Prop := ∃ regs, e = { d with regs := regs }

theorem Dev.RegFrame.trans {d e f : Dev} (h : d.RegFrame e) (k : e.RegFrame f) : d.RegFrame f := by
  obtain ⟨_, rfl⟩ := h
  obtain ⟨_, rfl⟩ := k
  exact ⟨_, rfl⟩

theorem Dev.regFrame_wr (d : Dev) (off v : Nat) : d.RegFrame (d.wr off v) := ⟨_, rfl⟩

theorem Dev.regFrame_wrFld (d : Dev) (off hi lo v : Nat) : d.RegFrame (d.wrFld off hi lo v) := ⟨_, rfl⟩

theorem sameMemory_of_regFrame {s : State} {d : Dev} (h : s.dev.RegFrame d) : Safety.SameMemory s (s.onDev d) := by
  obtain ⟨_, rfl⟩ := h
  exact fun _ => ⟨rfl, rfl, rfl, rfl⟩

theorem sameEngines_of_regFrame {s : State} {d : Dev} (h : s.dev.RegFrame d) : Safety.SameEngines s (s.onDev d) := by
  obtain ⟨_, rfl⟩ := h
  exact ⟨rfl, rfl, rfl, rfl, rfl, rfl, rfl, rfl, rfl, rfl, rfl, rfl, rfl, rfl⟩

/-! The sensors. -/

section
variable (d : Dev) (t : Temps)

theorem Dev.regFrame_senseHeat : d.RegFrame (d.senseHeat t) := (d.regFrame_wrFld _ _ _ _).trans (Dev.regFrame_wr _ _ _)

theorem Dev.rd_senseHeat_therm : (d.senseHeat t).rd Reg.glbTherm = setBits (d.rd Reg.glbTherm) 7 0 (min (hottest t) 255) := by
  rw [Dev.senseHeat, Dev.rd_wr_other _ _ _ _ (by decide), Dev.rd_wrFld_same _ _ _ (by decide)]

theorem Dev.rd_senseHeat_other {off : Nat} (h : off ∉ [Reg.glbTherm, Reg.glbThermDie]) : (d.senseHeat t).rd off = d.rd off := by
  obtain ⟨htherm, hdie⟩ : off ≠ Reg.glbTherm ∧ off ≠ Reg.glbThermDie := by simpa using h
  rw [Dev.senseHeat, Dev.rd_wr_other _ _ _ _ hdie, Dev.rd_wrFld_other _ _ _ _ htherm]

/-- TJ shows the hottest die sensor. -/
theorem Dev.senseHeat_tj : (d.senseHeat t).fld Reg.glbTherm 7 0 = min (hottest t) 255 := by
  rw [Blocks.fld, d.rd_senseHeat_therm t, bitsOf_setBits_same, Nat.mod_eq_of_lt (by omega)]

/-- HOT_C stands. -/
theorem Dev.senseHeat_hotC : (d.senseHeat t).fld Reg.glbTherm 23 16 = d.fld Reg.glbTherm 23 16 := by
  rw [Blocks.fld, d.rd_senseHeat_therm t, bitsOf_setBits_apart (by decide), Blocks.fld]

/-- HOT stands. -/
theorem Dev.senseHeat_hot : (d.senseHeat t).flag Reg.glbTherm 48 = d.flag Reg.glbTherm 48 := by
  rw [Blocks.flag, d.rd_senseHeat_therm t, bitOf_setBits, if_neg (by decide), Blocks.flag]

end

/-- HOT as an event leaves it. -/
def Dev.setHot (d : Dev) (v : Nat) : Dev := d.wrFld Reg.glbTherm 48 48 v

/-- A change of HOT alone, after the sensors have been read. -/
theorem senseHeat_setHot_frame (s : State) (t : Temps) {e : Dev} (h : e = s.dev.senseHeat t ∨ ∃ v, e = (s.dev.senseHeat t).setHot v) :
    e.fld Reg.glbTherm 7 0 = min (hottest t) 255 ∧ e.fld Reg.glbTherm 23 16 = s.dev.fld Reg.glbTherm 23 16 ∧ e.glb = s.dev.glb ∧
    Safety.SameRegsBut [Reg.glbTherm, Reg.glbThermDie] s (s.onDev e) ∧ Safety.SameMemory s (s.onDev e) ∧ Safety.SameEngines s (s.onDev e) := by
  have hframe : s.dev.RegFrame e := by
    rcases h with rfl | ⟨v, rfl⟩
    · exact s.dev.regFrame_senseHeat t
    · exact (s.dev.regFrame_senseHeat t).trans (Dev.regFrame_wrFld _ _ _ _ _)
  have hglb : e.glb = s.dev.glb := by
    obtain ⟨_, rfl⟩ := hframe
    rfl
  refine ⟨?_, ?_, hglb, fun off hoff => ?_, sameMemory_of_regFrame hframe, sameEngines_of_regFrame hframe⟩
  · rcases h with rfl | ⟨v, rfl⟩
    · exact s.dev.senseHeat_tj t
    · rw [Dev.setHot, Dev.fld_wrFld_apart _ _ _ (by decide) (by decide), s.dev.senseHeat_tj t]
  · rcases h with rfl | ⟨v, rfl⟩
    · exact s.dev.senseHeat_hotC t
    · rw [Dev.setHot, Dev.fld_wrFld_apart _ _ _ (by decide) (by decide), s.dev.senseHeat_hotC t]
  · have hother := s.dev.rd_senseHeat_other t hoff
    rcases h with rfl | ⟨v, rfl⟩
    · exact hother
    · rw [State.onDev_dev, Dev.setHot, Dev.rd_wrFld_other _ _ _ _ (by rintro rfl; simp at hoff), hother]

/-! The rows. -/

theorem Dev.heatSet_eq (d : Dev) (t : Temps) :
    d.heatSet t = if d.fld Reg.glbTherm 23 16 ≤ hottest t ∨ 95 ≤ t.hbm then d.setHot 1 else d := rfl

theorem Dev.heatClear_eq (d : Dev) (t : Temps) :
    d.heatClear t = if hottest t + 5 ≤ d.fld Reg.glbTherm 23 16 ∧ t.hbm ≤ 90 then d.setHot 0 else d := rfl

theorem Dev.setHot_hot (d : Dev) (v : Nat) : (d.setHot v).flag Reg.glbTherm 48 = bitOf v 0 := Dev.flag_wrFld_same _ _ _ _ (by decide)

/-- THERM_HOT: HOT sets at HOT_C or at a stack of 95 °C. -/
theorem thermHot_sets (s : State) (t : Temps) (h : s.dev.glb.phase ≠ .tripped) :
    Safety.Gives (.thermHot t) s (fun u =>
      u.dev.fld Reg.glbTherm 7 0 = min (hottest t) 255 ∧ u.dev.fld Reg.glbTherm 23 16 = s.dev.fld Reg.glbTherm 23 16 ∧
      u.dev.flag Reg.glbTherm 48 = (decide (s.dev.fld Reg.glbTherm 23 16 ≤ hottest t) || decide (95 ≤ t.hbm) || s.dev.flag Reg.glbTherm 48) ∧
      u.dev.thermHotPin = !u.dev.flag Reg.glbTherm 48 ∧ u.dev.glb = s.dev.glb ∧
      Safety.SameRegsBut [Reg.glbTherm, Reg.glbThermDie] s u ∧ Safety.SameMemory s u ∧ Safety.SameEngines s u) := by
  have hcases : (s.dev.senseHeat t).heatSet t = s.dev.senseHeat t ∨ ∃ v, (s.dev.senseHeat t).heatSet t = (s.dev.senseHeat t).setHot v := by
    rw [Dev.heatSet_eq]
    split
    · exact .inr ⟨1, rfl⟩
    · exact .inl rfl
  have hhot : ((s.dev.senseHeat t).heatSet t).flag Reg.glbTherm 48 =
      (decide (s.dev.fld Reg.glbTherm 23 16 ≤ hottest t) || decide (95 ≤ t.hbm) || s.dev.flag Reg.glbTherm 48) := by
    rw [Dev.heatSet_eq, s.dev.senseHeat_hotC t, ← Bool.decide_or]
    split
    · next hset => rw [Dev.setHot_hot, decide_eq_true hset]; rfl
    · next hset => rw [s.dev.senseHeat_hot t, decide_eq_false hset, Bool.false_or]
  obtain ⟨htj, hhotC, hglb, hregs, hmem, heng⟩ := senseHeat_setHot_frame s t hcases
  refine ⟨s.onDev ((s.dev.senseHeat t).heatSet t), ?_, htj, hhotC, hhot, rfl, hglb, hregs, hmem, heng⟩
  show execThermHot t s = _
  rw [execThermHot, Dev.sensing, if_neg h]

/-- THERM_HOT_CLEAR: HOT clears at HOT_C − 5 °C with every stack at 90 °C or below. -/
theorem thermHotClear_clears (s : State) (t : Temps) (h : s.dev.glb.phase ≠ .tripped) :
    Safety.Gives (.thermHotClear t) s (fun u =>
      u.dev.fld Reg.glbTherm 7 0 = min (hottest t) 255 ∧
      u.dev.flag Reg.glbTherm 48 =
        (s.dev.flag Reg.glbTherm 48 && !(decide (hottest t + 5 ≤ s.dev.fld Reg.glbTherm 23 16) && decide (t.hbm ≤ 90))) ∧
      u.dev.glb = s.dev.glb ∧
      Safety.SameRegsBut [Reg.glbTherm, Reg.glbThermDie] s u ∧ Safety.SameMemory s u ∧ Safety.SameEngines s u) := by
  have hcases : (s.dev.senseHeat t).heatClear t = s.dev.senseHeat t ∨ ∃ v, (s.dev.senseHeat t).heatClear t = (s.dev.senseHeat t).setHot v := by
    rw [Dev.heatClear_eq]
    split
    · exact .inr ⟨0, rfl⟩
    · exact .inl rfl
  have hhot : ((s.dev.senseHeat t).heatClear t).flag Reg.glbTherm 48 =
      (s.dev.flag Reg.glbTherm 48 && !(decide (hottest t + 5 ≤ s.dev.fld Reg.glbTherm 23 16) && decide (t.hbm ≤ 90))) := by
    rw [Dev.heatClear_eq, s.dev.senseHeat_hotC t, ← Bool.decide_and]
    split
    · next hclear => rw [Dev.setHot_hot, decide_eq_true hclear, Bool.not_true, Bool.and_false]; rfl
    · next hclear => rw [s.dev.senseHeat_hot t, decide_eq_false hclear, Bool.not_false, Bool.and_true]
  obtain ⟨htj, -, hglb, hregs, hmem, heng⟩ := senseHeat_setHot_frame s t hcases
  refine ⟨s.onDev ((s.dev.senseHeat t).heatClear t), ?_, htj, hhot, hglb, hregs, hmem, heng⟩
  show execThermHotClear t s = _
  rw [execThermHotClear, Dev.sensing, if_neg h]

/-- THERMTRIP at 125 °C. -/
theorem thermtrip_resets (s : State) (t : Temps) (hop : Safety.Operating s) (h : 125 ≤ hottest t) :
    Safety.Gives (.thermtrip t) s (fun u => Safety.ResetState u.dev s 1 .tripped ∧ u.dev.thermtripPin = false) := by
  refine ⟨s.onDev (s.dev.intoReset 1 .tripped), ?_, resetState_intoReset s 1 .tripped (by decide) (.inr rfl), rfl⟩
  show execThermtrip t s = _
  rw [execThermtrip, Dev.trip, if_pos ⟨h, .inl hop⟩]

/-- Below that nothing trips. -/
theorem exec_thermtrip_cool (s : State) (t : Temps) (h : hottest t < 125) : exec (.thermtrip t) s = .next s := by
  show execThermtrip t s = _
  rw [execThermtrip, Dev.trip, if_neg (by omega), State.onDev_self]

end Sys2Proof.Machine
end

section
open Sys2Proof Sys2Proof.Machine

/-- Settles O10: the fold of `Dev.portStop` over the ports puts out each that was lit, and an event of heat writes the two sensor registers. -/
theorem clockLossAndHeat : Obligations.ClockLossAndHeat :=
  ⟨⟨pllLockLoss_device, fun s hop h => ⟨fun n => exec_retrainInterval_stopped s n hop h, exec_permitGrant_stopped s hop h⟩⟩,
    thermHot_sets, thermHotClear_clears, thermtrip_resets, exec_thermtrip_cool⟩

end

section
/-! The direct part of HBM (R123, Table 5.3): no two direct addresses share a place on the stacks, and what a store of bytes leaves. -/

namespace Sys2Proof.Machine

/-! Little-endian words (R13). -/

@[simp] theorem length_toLe (n v : Nat) : (toLe n v).length = n := by
  induction n generalizing v with
  | zero => rfl
  | succ n ih => rw [toLe, List.length_cons, ih]

theorem leNat_toLe (n v : Nat) : leNat (toLe n v) = v % 256 ^ n := by
  induction n generalizing v with
  | zero => rw [toLe, leNat, Nat.pow_zero, Nat.mod_one]
  | succ n ih =>
    have hbyte : (BitVec.ofNat 8 v).toNat = v % 256 := rfl
    rw [toLe, leNat, ih, hbyte, Nat.pow_succ', Nat.mod_mul]

theorem leNat_lt (bs : List Byte) : leNat bs < 256 ^ bs.length := by
  induction bs with
  | nil => exact Nat.zero_lt_one
  | cons b bs ih =>
    have hb : b.toNat < 256 := b.isLt
    rw [leNat, List.length_cons, Nat.pow_succ']
    omega

/-! Places on the stacks. -/

/-- The stack and the offset on it of an address in a quadrant's quarter. -/
theorem hbmKey_interleaved (a : Nat) : hbmKey true a =
    (2 * (a / 0x1800000000) + a / 2 ^ 12 % 2) * 2 ^ 36 + (a - a / 0x1800000000 * 0x1800000000) / 8192 * 4096 + a % 4096 := rfl

/-- The stack and the offset on it of an address that all stacks share. -/
theorem hbmKey_plain (a : Nat) : hbmKey false a = a / 2 ^ 12 % 8 * 2 ^ 36 + a / 32768 * 4096 + a % 4096 := rfl

theorem hbmAddr_interleaved (k : Nat) : hbmAddr true k =
    k / 2 ^ 36 / 2 * 0x1800000000 + k % 2 ^ 36 / 4096 * 8192 + k / 2 ^ 36 % 2 * 4096 + k % 2 ^ 36 % 4096 := rfl

theorem hbmAddr_plain (k : Nat) : hbmAddr false k = k % 2 ^ 36 / 4096 * 32768 + k / 2 ^ 36 * 4096 + k % 2 ^ 36 % 4096 := rfl

/-- Stack, page and byte of a place. -/
theorem place_parts {s o r : Nat} (ho : o < 2 ^ 24) (hr : r < 4096) :
    (s * 2 ^ 36 + o * 4096 + r) / 2 ^ 36 = s ∧ (s * 2 ^ 36 + o * 4096 + r) % 2 ^ 36 / 4096 = o ∧
    (s * 2 ^ 36 + o * 4096 + r) % 2 ^ 36 % 4096 = r := by omega

/-- The address of a place is the address placed there. -/
theorem hbmAddr_hbmKey (ilv : Bool) {a : Nat} (h : a < directSize) : hbmAddr ilv (hbmKey ilv a) = a := by
  unfold directSize at h
  cases ilv
  · obtain ⟨hstack, hpage, hbyte⟩ :=
      place_parts (s := a / 2 ^ 12 % 8) (o := a / 32768) (r := a % 4096) (by omega) (Nat.mod_lt _ (by decide))
    rw [hbmAddr_plain, hbmKey_plain, hstack, hpage, hbyte]
    omega
  · obtain ⟨hstack, hpage, hbyte⟩ :=
      place_parts (s := 2 * (a / 0x1800000000) + a / 2 ^ 12 % 2) (o := (a - a / 0x1800000000 * 0x1800000000) / 8192) (r := a % 4096)
        (by omega) (Nat.mod_lt _ (by decide))
    rw [hbmAddr_interleaved, hbmKey_interleaved, hstack, hpage, hbyte]
    omega

theorem hbmKey_inj {ilv : Bool} {a c : Nat} (ha : a < directSize) (hc : c < directSize) (h : hbmKey ilv a = hbmKey ilv c) : a = c := by
  rw [← hbmAddr_hbmKey ilv ha, h, hbmAddr_hbmKey ilv hc]

/-- A direct address lies on one of the eight stacks. -/
theorem Blocks.stackOf_lt (b : Blocks) {a : Nat} (h : a < directSize) : b.stackOf a < 8 := by
  unfold directSize at h
  rw [Blocks.stackOf]
  cases b.ilv
  · rw [hbmKey_plain]
    omega
  · rw [hbmKey_interleaved]
    omega

/-! Stores. -/

/-- A store changes HBM alone. -/
theorem Dev.dirWrite_eq (d : Dev) (a : Nat) (bs : List Byte) : ∃ hbm, d.dirWrite a bs = { d with hbm := hbm } := by
  induction bs generalizing d a with
  | nil => exact ⟨_, rfl⟩
  | cons b bs ih =>
    obtain ⟨hbm, h⟩ := ih { d with hbm := memSet d.hbm (hbmKey d.ilv a) b } (a + 1)
    exact ⟨hbm, h⟩

@[simp] theorem Dev.rd_dirWrite (d : Dev) (a : Nat) (bs : List Byte) (off : Nat) : (d.dirWrite a bs).rd off = d.rd off := by
  obtain ⟨_, h⟩ := d.dirWrite_eq a bs
  rw [h]
  rfl

@[simp] theorem Dev.ilv_dirWrite (d : Dev) (a : Nat) (bs : List Byte) : (d.dirWrite a bs).ilv = d.ilv := by
  obtain ⟨_, h⟩ := d.dirWrite_eq a bs
  rw [h]
  rfl

/-- A place where no stored byte lies holds what it held. -/
theorem Dev.memByte_dirWrite_apart (d : Dev) (a k : Nat) (bs : List Byte) (h : ∀ i, i < bs.length → k ≠ hbmKey d.ilv (a + i)) :
    memByte (d.dirWrite a bs).hbm k = memByte d.hbm k := by
  induction bs generalizing d a with
  | nil => rfl
  | cons b bs ih =>
    rw [Dev.dirWrite, ih _ _ fun i hi => by
      rw [Nat.add_assoc, Nat.add_comm 1]
      exact h (i + 1) (by simpa using hi)]
    exact memByte_memSet_other _ _ _ _ (h 0 (by simp))

/-- A stored byte stands at its address. -/
theorem Dev.memByte_dirWrite (d : Dev) (a i : Nat) (bs : List Byte) (hi : i < bs.length) (hfit : a + bs.length ≤ directSize) :
    memByte (d.dirWrite a bs).hbm (hbmKey d.ilv (a + i)) = bs[i] := by
  induction bs generalizing d a i with
  | nil => simp at hi
  | cons b bs ih =>
    rw [List.length_cons] at hfit hi
    cases i with
    | zero =>
      rw [Dev.dirWrite, Dev.memByte_dirWrite_apart _ _ _ _ fun j hj hkey => by
        have := hbmKey_inj (by omega) (by omega) hkey
        omega]
      exact memByte_memSet_same _ _ _
    | succ i =>
      have := ih { d with hbm := memSet d.hbm (hbmKey d.ilv a) b } (a + 1) i (by omega) (by omega)
      rwa [Nat.add_assoc, Nat.add_comm 1] at this

/-- The bytes stored read back. -/
theorem Dev.dirRead_dirWrite_same (d : Dev) (a : Nat) (bs : List Byte) (h : a + bs.length ≤ directSize) :
    (d.dirWrite a bs).dirRead a bs.length = bs := by
  refine List.ext_getElem (by simp [Blocks.dirRead]) fun i _ hi => ?_
  simp only [Blocks.dirRead, List.getElem_map, List.getElem_range, Dev.ilv_dirWrite, d.memByte_dirWrite a i bs hi h]

/-- A direct range apart from the one stored reads as before. -/
theorem Dev.dirRead_dirWrite_apart (d : Dev) (a : Nat) (bs : List Byte) {c n : Nat} (ha : a + bs.length ≤ directSize) (hc : c + n ≤ directSize)
    (h : a + bs.length ≤ c ∨ c + n ≤ a) : (d.dirWrite a bs).dirRead c n = d.dirRead c n := by
  rw [Blocks.dirRead, Blocks.dirRead, Dev.ilv_dirWrite]
  refine List.map_congr_left fun i hi => d.memByte_dirWrite_apart a _ bs fun j hj hkey => ?_
  have hi' := List.mem_range.mp hi
  have := hbmKey_inj (by omega) (by omega) hkey
  omega

end Sys2Proof.Machine
end

section
/-! The tile directory (R128, Table 5.5): an entry after a write of it, and what a write leaves alone. -/

namespace Sys2Proof.Machine

/-- Device e is device d but for HBM, registers and the requests for carats. -/
def Dev.HbmFrame (d e : Dev) : Prop := ∃ hbm regs pwr, e = { d with hbm := hbm, regs := regs, pwr := pwr }

theorem Dev.HbmFrame.refl (d : Dev) : d.HbmFrame d := ⟨_, _, _, rfl⟩

theorem Dev.HbmFrame.trans {d e f : Dev} (h : d.HbmFrame e) (k : e.HbmFrame f) : d.HbmFrame f := by
  obtain ⟨_, _, _, rfl⟩ := h
  obtain ⟨_, _, _, rfl⟩ := k
  exact ⟨_, _, _, rfl⟩

/-- A request for carats changes the requests alone. -/
theorem Dev.askCarats_eq (d : Dev) (req need : Nat) (ctx : Option Nat) : ∃ pwr, d.askCarats req need ctx = { d with pwr := pwr } := by
  unfold Dev.askCarats
  dsimp only
  split_ifs <;> exact ⟨_, rfl⟩

theorem Dev.rd_askCarats (d : Dev) (req need : Nat) (ctx : Option Nat) (off : Nat) : (d.askCarats req need ctx).rd off = d.rd off := by
  obtain ⟨_, h⟩ := d.askCarats_eq req need ctx
  rw [h]
  rfl

@[simp] theorem Dev.askCarats_hbm (d : Dev) (req need : Nat) (ctx : Option Nat) : (d.askCarats req need ctx).hbm = d.hbm := by
  obtain ⟨_, h⟩ := d.askCarats_eq req need ctx
  rw [h]

/-- The write of an entry changes HBM, two counters of its stack and the stack's request. -/
theorem Dev.hbmFrame_putEntry (d : Dev) (a : Nat) (bs : List Byte) : d.HbmFrame (d.putEntry a bs) := by
  obtain ⟨hbm, h⟩ := d.dirWrite_eq a bs
  obtain ⟨pwr, h'⟩ := (d.dirWrite a bs).askCarats_eq (576 + d.stackOf a) 8 none
  have hframe : d.HbmFrame ((d.dirWrite a bs).askCarats (576 + d.stackOf a) 8 none) := by
    rw [h', h]
    exact ⟨_, _, _, rfl⟩
  rw [Dev.putEntry]
  exact (hframe.trans ⟨_, _, _, rfl⟩).trans ⟨_, _, _, rfl⟩

theorem Dev.putEntry_hbm (d : Dev) (a : Nat) (bs : List Byte) : (d.putEntry a bs).hbm = (d.dirWrite a bs).hbm := by
  rw [Dev.putEntry, Dev.bump_hbm, Dev.bump_hbm, Dev.askCarats_hbm]

theorem hbmCntWrite_mem {s : Nat} (h : s < 8) : Reg.hbmCntWrite s ∈ Safety.hbmCounters :=
  List.mem_flatMap.mpr ⟨s, List.mem_range.mpr h, by simp⟩

theorem hbmCntCross_mem {s : Nat} (h : s < 8) : Reg.hbmCntCross s ∈ Safety.hbmCounters :=
  List.mem_flatMap.mpr ⟨s, List.mem_range.mpr h, by simp⟩

/-- No register but the controllers' counters changes. -/
theorem Dev.rd_putEntry (d : Dev) {a off : Nat} (bs : List Byte) (ha : a < directSize) (h : off ∉ Safety.hbmCounters) :
    (d.putEntry a bs).rd off = d.rd off := by
  have hs := d.stackOf_lt ha
  have hwrite : off ≠ Reg.hbmCntWrite (d.stackOf a) := fun e => h (e ▸ hbmCntWrite_mem hs)
  have hcross : off ≠ Reg.hbmCntCross (d.stackOf a) := fun e => h (e ▸ hbmCntCross_mem hs)
  rw [Dev.putEntry, Dev.rd_bump_other _ _ hcross, Dev.rd_bump_other _ _ hwrite, Dev.rd_askCarats, Dev.rd_dirWrite]

/-- The entry of tile i lies in the direct part (Table 5.2). -/
abbrev Blocks.EntryIn (b : Blocks) (i : Nat) : Prop := b.rd Reg.migTdirBase + 8 * i + 8 ≤ directSize

/-- Registers and HBM decide what an entry is. -/
theorem Blocks.tdir_congr {b c : Blocks} (hbase : b.rd Reg.migTdirBase = c.rd Reg.migTdirBase) (hctrl : b.rd Reg.migCtrl = c.rd Reg.migCtrl)
    (hhbm : b.hbm = c.hbm) (i : Nat) : b.tdir i = c.tdir i := by
  have hilv : b.ilv = c.ilv := by rw [Blocks.ilv, Blocks.flag, hctrl, Blocks.ilv, Blocks.flag]
  rw [Blocks.tdir, Blocks.dirNat, Blocks.dirRead, hbase, hilv, hhbm, Blocks.tdir, Blocks.dirNat, Blocks.dirRead]

theorem Blocks.tdir_lt (b : Blocks) (i : Nat) : b.tdir i < 2 ^ 64 := by
  have h := leNat_lt (b.dirRead (b.rd Reg.migTdirBase + 8 * i) 8)
  rw [Blocks.dirRead, List.length_map, List.length_range] at h
  exact h

section
variable (d : Dev) (i v : Nat)

theorem Dev.hbmFrame_setTdir : d.HbmFrame (d.setTdir i v) := d.hbmFrame_putEntry _ _

variable {i} (hi : d.EntryIn i)
include hi

theorem Dev.rd_setTdir {off : Nat} (h : off ∉ Safety.hbmCounters) : (d.setTdir i v).rd off = d.rd off :=
  d.rd_putEntry _ (by omega) h

/-- A directory entry after a write is the word of HBM alone. -/
theorem Dev.tdir_setTdir_eq (j : Nat) :
    (d.setTdir i v).tdir j = (d.dirWrite (d.rd Reg.migTdirBase + 8 * i) (toLe 8 v)).dirNat (d.rd Reg.migTdirBase + 8 * j) 8 := by
  have hregs : ∀ off, off ∉ Safety.hbmCounters → (d.setTdir i v).rd off = (d.dirWrite (d.rd Reg.migTdirBase + 8 * i) (toLe 8 v)).rd off :=
    fun off h => by rw [d.rd_setTdir v hi h, Dev.rd_dirWrite]
  rw [Blocks.tdir_congr (hregs _ (by decide)) (hregs _ (by decide)) (d.putEntry_hbm _ _), Blocks.tdir, Dev.rd_dirWrite]

/-- The entry written. -/
theorem Dev.tdir_setTdir_same (hv : v < 2 ^ 64) : (d.setTdir i v).tdir i = v := by
  have hread := d.dirRead_dirWrite_same (d.rd Reg.migTdirBase + 8 * i) (toLe 8 v) (by rwa [length_toLe])
  rw [length_toLe] at hread
  rw [d.tdir_setTdir_eq v hi, Blocks.dirNat, hread, leNat_toLe]
  exact Nat.mod_eq_of_lt hv

/-- Every other entry. -/
theorem Dev.tdir_setTdir_other {j : Nat} (hj : d.EntryIn j) (h : j ≠ i) : (d.setTdir i v).tdir j = d.tdir j := by
  rw [d.tdir_setTdir_eq v hi, Blocks.dirNat, d.dirRead_dirWrite_apart _ _ (by rwa [length_toLe]) hj (by rw [length_toLe]; omega)]
  rfl

end

end Sys2Proof.Machine
end

section
/-! Queues of the vault ports and pins of tiles (R131, R133). -/

namespace Sys2Proof.Machine

/-! Fetches queued. -/

theorem Dev.vport_modVport_same (d : Dev) {n : Nat} (f : VaultPort → VaultPort) (h : n < d.mig.ports.length) :
    (d.modVport n f).vport n = f (d.vport n) := by
  show (d.mig.ports.set n (f (d.vport n))).getD n {} = _
  rw [List.getD_eq_getElem?_getD, List.getElem?_set_self h, Option.getD_some]

theorem Dev.vport_modVport_other (d : Dev) {n m : Nat} (f : VaultPort → VaultPort) (h : m ≠ n) :
    (d.modVport n f).vport m = d.vport m := by
  show (d.mig.ports.set n (f (d.vport n))).getD m {} = d.mig.ports.getD m {}
  rw [List.getD_eq_getElem?_getD, List.getElem?_set_ne h.symm, List.getD_eq_getElem?_getD]

/-- A port that does not exist is not changed. -/
theorem Dev.modVport_absent (d : Dev) {n : Nat} (f : VaultPort → VaultPort) (h : d.mig.ports.length ≤ n) : d.modVport n f = d := by
  show { d with mig := { d.mig with ports := d.mig.ports.set n (f (d.vport n)) } } = d
  rw [List.set_eq_of_length_le h]

@[simp] theorem Dev.length_ports_modVport (d : Dev) (n : Nat) (f : VaultPort → VaultPort) :
    (d.modVport n f).mig.ports.length = d.mig.ports.length := List.length_set

@[simp] theorem Dev.modVport_hbm (d : Dev) (n : Nat) (f : VaultPort → VaultPort) : (d.modVport n f).hbm = d.hbm := rfl

/-- Whether a port counts (R125) does not change unless the change says so. -/
theorem Dev.counted_modVport (d : Dev) (n m : Nat) {f : VaultPort → VaultPort} (hf : ∀ v, (f v).counted = v.counted) :
    ((d.modVport n f).vport m).counted = (d.vport m).counted := by
  by_cases hlen : d.mig.ports.length ≤ n
  · rw [d.modVport_absent f hlen]
  · by_cases hm : m = n
    · rw [hm, d.vport_modVport_same f (by omega), hf]
    · rw [d.vport_modVport_other f hm]

/-- Device e is device d but for the queues of the vault ports and the requests for carats. -/
structure Dev.QueueFrame (d e : Dev) : Prop where
  eq : ∃ ports pwr, e = { d with mig := { d.mig with ports := ports }, pwr := pwr }
  length : e.mig.ports.length = d.mig.ports.length
  counted : ∀ n, (e.vport n).counted = (d.vport n).counted

theorem Dev.QueueFrame.refl (d : Dev) : d.QueueFrame d := ⟨⟨_, _, rfl⟩, rfl, fun _ => rfl⟩

theorem Dev.QueueFrame.trans {d e f : Dev} (h : d.QueueFrame e) (k : e.QueueFrame f) : d.QueueFrame f := by
  refine ⟨?_, k.length.trans h.length, fun n => (k.counted n).trans (h.counted n)⟩
  obtain ⟨_, _, rfl⟩ := h.eq
  obtain ⟨_, _, rfl⟩ := k.eq
  exact ⟨_, _, rfl⟩

theorem Dev.queueFrame_askCarats (d : Dev) (req need : Nat) (ctx : Option Nat) : d.QueueFrame (d.askCarats req need ctx) := by
  obtain ⟨_, h⟩ := d.askCarats_eq req need ctx
  rw [h]
  exact ⟨⟨_, _, rfl⟩, rfl, fun _ => rfl⟩

theorem Dev.queueFrame_modVport (d : Dev) (n : Nat) {f : VaultPort → VaultPort} (hf : ∀ v, (f v).counted = v.counted) :
    d.QueueFrame (d.modVport n f) := ⟨⟨_, _, rfl⟩, d.length_ports_modVport n f, fun m => d.counted_modVport n m hf⟩

section
variable {d e : Dev} (h : d.QueueFrame e)
include h

theorem Dev.QueueFrame.rd (off : Nat) : e.rd off = d.rd off := by
  obtain ⟨_, _, rfl⟩ := h.eq
  rfl

theorem Dev.QueueFrame.tdir (i : Nat) : e.tdir i = d.tdir i := by
  obtain ⟨_, _, rfl⟩ := h.eq
  rfl

theorem Dev.QueueFrame.vaultOf (i : Nat) : e.vaultOf i = d.vaultOf i := by
  have h0 : (e.mig.ports.getD 0 {}).counted = (d.mig.ports.getD 0 {}).counted := h.counted 0
  have h1 : (e.mig.ports.getD 1 {}).counted = (d.mig.ports.getD 1 {}).counted := h.counted 1
  rw [Blocks.vaultOf, h0, h1, Blocks.vaultOf]

theorem Dev.QueueFrame.away (i : Nat) : (e.resident i || e.fetching i) = (d.resident i || d.fetching i) := by
  rw [Blocks.resident, Blocks.fetching, h.tdir, Blocks.resident, Blocks.fetching]

end

/-- A fetch that waits, joined by another of its tile. -/
def Xfer.join (cls : Nat) (predicted ahead : Bool) (x : Xfer) : Xfer :=
  { x with cls := min x.cls cls, predicted := x.predicted && predicted, ahead := x.ahead && ahead }

/-- The port's queue with a fetch of a tile joined or added (R131). -/
def VaultPort.join (p : VaultPort) (i cls : Nat) (stream predicted ahead : Bool) : VaultPort :=
  if p.queue.any (fun x => x.tile = i && !x.writeback) then
    { p with queue := updWhere (fun x => x.tile = i && !x.writeback) (Xfer.join cls predicted ahead) p.queue }
  else { p with queue := p.queue ++ [⟨i, cls, false, stream, predicted, ahead⟩] }

/-- A fetch of the tile waits in the queue. -/
def VaultPort.fetches (p : VaultPort) (i : Nat) : Bool := p.queue.any (fun x => x.tile = i && !x.writeback)

theorem VaultPort.join_counted (p : VaultPort) (i cls : Nat) (stream predicted ahead : Bool) :
    (p.join i cls stream predicted ahead).counted = p.counted := by
  unfold VaultPort.join
  split <;> rfl

/-- What a change of class does not show. -/
theorem any_updWhere {α : Type} (p q : α → Bool) (f : α → α) (xs : List α) (h : ∀ x, q (f x) = q x) :
    (updWhere p f xs).any q = xs.any q := by
  rw [updWhere, List.any_map]
  refine congrArg (xs.any ·) (funext fun x => ?_)
  rw [Function.comp_apply]
  split
  · exact h x
  · rfl

theorem VaultPort.fetches_join (p : VaultPort) (i j cls : Nat) (stream predicted ahead : Bool) :
    (p.join i cls stream predicted ahead).fetches j = (p.fetches j || decide (i = j)) := by
  unfold VaultPort.join
  split
  · next hwaits =>
    rw [VaultPort.fetches, any_updWhere _ _ (Xfer.join cls predicted ahead) _ fun x => rfl]
    by_cases hij : i = j
    · rw [← hij, decide_eq_true rfl, Bool.or_true]
      exact hwaits
    · rw [decide_eq_false hij, Bool.or_false, VaultPort.fetches]
  · rw [VaultPort.fetches, List.any_append, VaultPort.fetches]
    simp

section
variable (d : Dev) (i cls : Nat) (stream predicted ahead : Bool)

theorem Dev.queueFetch_eq : d.queueFetch i cls stream predicted ahead =
    if d.resident i || d.fetching i then d
    else (d.askCarats (590 + (d.vaultOf i).1) 4 none).modVport (d.vaultOf i).1 (fun p => p.join i cls stream predicted ahead) := by
  obtain ⟨_, h⟩ := d.askCarats_eq (590 + (d.vaultOf i).1) 4 none
  rw [Dev.queueFetch, h]
  rfl

theorem Dev.queueFrame_queueFetch : d.QueueFrame (d.queueFetch i cls stream predicted ahead) := by
  rw [d.queueFetch_eq]
  split
  · exact .refl d
  · exact (d.queueFrame_askCarats _ _ _).trans (Dev.queueFrame_modVport _ _ fun v => v.join_counted _ _ _ _ _)

theorem Blocks.queued_eq (b : Blocks) (j : Nat) : b.queued j = (b.vport (b.vaultOf j).1).fetches j := rfl

/-- The fetch waits in its port's queue. -/
theorem Dev.queued_queueFetch_same (haway : (d.resident i || d.fetching i) = false) (hport : (d.vaultOf i).1 < d.mig.ports.length) :
    (d.queueFetch i cls stream predicted ahead).queued i = true := by
  rw [Blocks.queued_eq, (d.queueFrame_queueFetch i cls stream predicted ahead).vaultOf, d.queueFetch_eq, haway, if_neg Bool.false_ne_true,
    Dev.vport_modVport_same _ _ (by rwa [(d.queueFrame_askCarats _ _ _).length]), VaultPort.fetches_join, decide_eq_true rfl, Bool.or_true]

/-- What waits in a queue goes on waiting. -/
theorem Dev.queued_queueFetch_of_queued {j : Nat} (h : d.queued j = true) : (d.queueFetch i cls stream predicted ahead).queued j = true := by
  have hvport (m : Nat) : (d.askCarats (590 + (d.vaultOf i).1) 4 none).vport m = d.vport m := by
    obtain ⟨_, h⟩ := d.askCarats_eq (590 + (d.vaultOf i).1) 4 none
    rw [h]
    rfl
  rw [Blocks.queued_eq, (d.queueFrame_queueFetch i cls stream predicted ahead).vaultOf, d.queueFetch_eq]
  rw [Blocks.queued_eq] at h
  split
  · exact h
  · by_cases hlen : (d.askCarats (590 + (d.vaultOf i).1) 4 none).mig.ports.length ≤ (d.vaultOf i).1
    · rw [Dev.modVport_absent _ _ hlen, hvport, h]
    · by_cases hport : (d.vaultOf j).1 = (d.vaultOf i).1
      · rw [hport] at h ⊢
        rw [Dev.vport_modVport_same _ _ (by omega), VaultPort.fetches_join, hvport, h, Bool.true_or]
      · rw [Dev.vport_modVport_other _ _ hport, hvport, h]

end

/-- Fetches of a list of tiles are queued. -/
def Dev.queueFetches (d : Dev) (ts : List Nat) (cls : Nat) (stream predicted ahead : Bool) : Dev :=
  ts.foldl (fun d i => d.queueFetch i cls stream predicted ahead) d

section
variable (ts : List Nat) (d : Dev) (cls : Nat) (stream predicted ahead : Bool)

theorem Dev.queueFrame_queueFetches : d.QueueFrame (d.queueFetches ts cls stream predicted ahead) := by
  induction ts generalizing d with
  | nil => exact .refl d
  | cons i ts ih => exact (d.queueFrame_queueFetch i _ _ _ _).trans (ih _)

theorem Dev.queued_queueFetches_of_queued {j : Nat} (h : d.queued j = true) : (d.queueFetches ts cls stream predicted ahead).queued j = true := by
  induction ts generalizing d with
  | nil => exact h
  | cons i ts ih => exact ih _ (d.queued_queueFetch_of_queued i _ _ _ _ h)

/-- Every tile of the list that is away and has a port waits for its fetch. -/
theorem Dev.queued_queueFetches {j : Nat} (hj : j ∈ ts) (haway : (d.resident j || d.fetching j) = false)
    (hport : (d.vaultOf j).1 < d.mig.ports.length) : (d.queueFetches ts cls stream predicted ahead).queued j = true := by
  induction ts generalizing d with
  | nil => simp at hj
  | cons i ts ih =>
    by_cases hij : j = i
    · subst hij
      exact Dev.queued_queueFetches_of_queued ts _ _ _ _ _ (d.queued_queueFetch_same j _ _ _ _ haway hport)
    · have hframe := d.queueFrame_queueFetch i cls stream predicted ahead
      exact ih _ ((List.mem_cons.mp hj).resolve_left hij) (by rw [hframe.away, haway]) (by rwa [hframe.vaultOf, hframe.length])

end

/-! Pins. -/

section
variable (d : Dev) {i : Nat} (hi : d.EntryIn i)
include hi

theorem Dev.tdir_pin_same : (d.pin i).tdir i = setBits (d.tdir i) 47 32 (d.pins i + 1) :=
  d.tdir_setTdir_same _ hi (setBits_lt (d.tdir_lt i) (by decide))

theorem Dev.tdir_pin_other {j : Nat} (hj : d.EntryIn j) (h : j ≠ i) : (d.pin i).tdir j = d.tdir j := d.tdir_setTdir_other _ hi hj h

theorem Dev.rd_pin {off : Nat} (h : off ∉ Safety.hbmCounters) : (d.pin i).rd off = d.rd off := d.rd_setTdir _ hi h

theorem Dev.entryIn_pin {j : Nat} (hj : d.EntryIn j) : (d.pin i).EntryIn j := by
  show (d.pin i).rd Reg.migTdirBase + 8 * j + 8 ≤ directSize
  rwa [d.rd_pin hi (by decide)]

end

theorem Dev.hbmFrame_pins (ts : List Nat) (d : Dev) : d.HbmFrame (ts.foldl Dev.pin d) := by
  induction ts generalizing d with
  | nil => exact .refl d
  | cons i ts ih => exact (d.hbmFrame_setTdir i _).trans (ih _)

/-- Pins change no register but the controllers' counters. -/
theorem Dev.rd_pins (ts : List Nat) (d : Dev) (hts : ∀ i ∈ ts, d.EntryIn i) {off : Nat} (h : off ∉ Safety.hbmCounters) :
    (ts.foldl Dev.pin d).rd off = d.rd off := by
  induction ts generalizing d with
  | nil => rfl
  | cons i ts ih =>
    have hi := hts i (by simp)
    rw [List.foldl_cons, ih _ fun j hj => d.entryIn_pin hi (hts j (by simp [hj])), d.rd_pin hi h]

/-- Pins of other tiles. -/
theorem Dev.tdir_pins_other (ts : List Nat) (d : Dev) (hts : ∀ i ∈ ts, d.EntryIn i) {j : Nat} (hj : d.EntryIn j) (h : j ∉ ts) :
    (ts.foldl Dev.pin d).tdir j = d.tdir j := by
  induction ts generalizing d with
  | nil => rfl
  | cons i ts ih =>
    rw [List.mem_cons, not_or] at h
    obtain ⟨hne, hrest⟩ := h
    have hi := hts i (by simp)
    rw [List.foldl_cons, ih _ (fun k hk => d.entryIn_pin hi (hts k (by simp [hk]))) (d.entryIn_pin hi hj) hrest, d.tdir_pin_other hi hj hne]

/-- Each tile of a list without repeats takes one pin. -/
theorem Dev.tdir_pins_same (ts : List Nat) (d : Dev) (hts : ∀ i ∈ ts, d.EntryIn i) (hnodup : ts.Nodup) {j : Nat} (hj : j ∈ ts) :
    (ts.foldl Dev.pin d).tdir j = setBits (d.tdir j) 47 32 (d.pins j + 1) := by
  induction ts generalizing d with
  | nil => simp at hj
  | cons i ts ih =>
    obtain ⟨hnot, hrest⟩ := List.nodup_cons.mp hnodup
    have hi := hts i (by simp)
    have hin : ∀ k ∈ ts, (d.pin i).EntryIn k := fun k hk => d.entryIn_pin hi (hts k (by simp [hk]))
    rw [List.foldl_cons]
    by_cases hij : j = i
    · subst hij
      rw [Dev.tdir_pins_other ts _ hin (d.entryIn_pin hi hi) hnot, d.tdir_pin_same hi]
    · have hother := d.tdir_pin_other hi (hts j hj) hij
      rw [ih _ hin hrest ((List.mem_cons.mp hj).resolve_left hij), Blocks.pins, hother, Blocks.pins]

end Sys2Proof.Machine
end

section
/-! The admission of a stage (R133). -/

namespace Sys2Proof.Machine

theorem nodup_eraseDups {α : Type} [BEq α] [LawfulBEq α] (xs : List α) : xs.eraseDups.Nodup := by
  induction hn : xs.length using Nat.strong_induction_on generalizing xs with
  | _ n ih =>
    cases xs with
    | nil => simp
    | cons x xs =>
      rw [List.eraseDups_cons, List.nodup_cons, List.mem_eraseDups]
      have hlen := List.length_filter_le (fun y => !y == x) xs
      rw [List.length_cons] at hn
      exact ⟨by simp, ih _ (by omega) _ rfl⟩

/-- The tiles of a stage are distinct. -/
theorem Blocks.nodup_stageTiles (b : Blocks) (s : Nat) : (b.stageTiles s).Nodup := nodup_eraseDups _

/-- Without AHEAD nothing is fetched ahead. -/
theorem Dev.fetchAhead_none (d : Dev) (s : Nat) (h : d.fld Reg.migCtrl 5 4 = 0) : d.fetchAhead s = d := by
  rw [Dev.fetchAhead, h]
  rfl

/-- The request leaves the queue, and its tiles are no lookahead any more. -/
def Dev.takeStage (d : Dev) (rest : List (Nat × Nat)) (ts : List Nat) : Dev :=
  { d with mig := { d.mig with stageReqs := rest, ahead := d.mig.ahead.filter (fun e => !ts.contains e.2) } }

/-- The tiles are pinned and fetched. -/
def Dev.pinAndFetch (d : Dev) (ts : List Nat) : Dev := (ts.foldl Dev.pin d).queueFetches ts 1 true false false

/-- The context holds the stage. -/
def Dev.holdStage (d : Dev) (c s : Nat) (ts : List Nat) : Dev :=
  d.modCtx c (fun x => { x with stagePins := x.stagePins ++ [(s, ts)], admitted := x.admitted ++ [s] })

theorem Dev.stageAdmission_eq (d : Dev) {c s : Nat} {rest : List (Nat × Nat)} (h : d.mig.stageReqs = (c, s) :: rest) :
    d.stageAdmission = if d.stageFits s then
      (((d.takeStage rest (d.stageTiles s)).pinAndFetch (d.stageTiles s)).holdStage c s (d.stageTiles s)).fetchAhead s else d := by
  rw [Dev.stageAdmission, h]
  dsimp only
  cases d.stageFits s <;> rfl

section
variable (d : Dev) (ts : List Nat) (hts : ∀ i ∈ ts, d.EntryIn i)

/-- Beside HBM, its counters, carats and the queues nothing changes. -/
theorem Dev.pinAndFetch_eq : ∃ hbm regs pwr ports, d.pinAndFetch ts =
    { d with hbm := hbm, regs := regs, pwr := pwr, mig := { d.mig with ports := ports } } := by
  obtain ⟨hbm, regs, _, hpin⟩ := Dev.hbmFrame_pins ts d
  obtain ⟨ports, pwr, hqueue⟩ := (Dev.queueFrame_queueFetches ts (ts.foldl Dev.pin d) 1 true false false).eq
  rw [Dev.pinAndFetch, hqueue, hpin]
  exact ⟨hbm, regs, pwr, ports, rfl⟩

include hts

theorem Dev.rd_pinAndFetch {off : Nat} (h : off ∉ Safety.hbmCounters) : (d.pinAndFetch ts).rd off = d.rd off := by
  rw [Dev.pinAndFetch, (Dev.queueFrame_queueFetches _ _ _ _ _ _).rd, Dev.rd_pins ts d hts h]

theorem Dev.tdir_pinAndFetch (hnodup : ts.Nodup) {i : Nat} (hi : i ∈ ts) :
    (d.pinAndFetch ts).tdir i = setBits (d.tdir i) 47 32 (d.pins i + 1) := by
  rw [Dev.pinAndFetch, (Dev.queueFrame_queueFetches _ _ _ _ _ _).tdir, Dev.tdir_pins_same ts d hts hnodup hi]

/-- Each tile has one pin more and is where it was. -/
theorem Dev.pinAndFetch_tile (hnodup : ts.Nodup) {i : Nat} (hi : i ∈ ts) (hpins : d.pins i + 1 < 2 ^ 16) :
    (d.pinAndFetch ts).pins i = d.pins i + 1 ∧ (d.pinAndFetch ts).resident i = d.resident i := by
  have htdir := d.tdir_pinAndFetch ts hts hnodup hi
  constructor
  · rw [Blocks.pins, htdir, bitsOf_setBits_same]
    exact Nat.mod_eq_of_lt hpins
  · rw [Blocks.resident, htdir, bitOf_setBits, if_neg (by decide), Blocks.resident]

/-- A tile that is away waits for its fetch. -/
theorem Dev.queued_pinAndFetch (hnodup : ts.Nodup) {i : Nat} (hi : i ∈ ts) (hres : d.resident i = false) (hfetch : d.fetching i = false)
    (hport : (d.vaultOf i).1 < d.mig.ports.length) : (d.pinAndFetch ts).queued i = true := by
  have htdir := Dev.tdir_pins_same ts d hts hnodup hi
  obtain ⟨_, _, _, hpin⟩ := Dev.hbmFrame_pins ts d
  refine Dev.queued_queueFetches ts _ _ _ _ _ hi ?_ (by rw [hpin]; exact hport)
  rw [Blocks.resident, Blocks.fetching, htdir, bitOf_setBits, if_neg (by decide), bitOf_setBits, if_neg (by decide)]
  rw [Blocks.resident] at hres
  rw [Blocks.fetching] at hfetch
  rw [hres, hfetch, Bool.or_false]

end

/-- STAGE_ADMISSION of a stage that does not fit waits. -/
theorem exec_stageAdmission_unfit (s : State) {c st : Nat} {rest : List (Nat × Nat)} (hop : Safety.Operating s)
    (h : s.dev.mig.stageReqs = (c, st) :: rest) (hfit : s.dev.stageFits st = false) : exec .stageAdmission s = .next s := by
  show execStageAdmission s = _
  rw [execStageAdmission, Dev.live_running _ _ hop, s.dev.stageAdmission_eq h, hfit, if_neg Bool.false_ne_true, State.onDev_self]

/-- The device after the stage is admitted, before fetches ahead. -/
def Dev.enterStage (d : Dev) (c s : Nat) (rest : List (Nat × Nat)) (ts : List Nat) : Dev := ((d.takeStage rest ts).pinAndFetch ts).holdStage c s ts

section
variable (d : Dev) (c s : Nat) (rest : List (Nat × Nat)) (ts : List Nat)

/-- What the admission leaves unchanged, and the queue of the requests. -/
theorem Dev.enterStage_frame : (d.enterStage c s rest ts).mig.stageReqs = rest ∧ (d.enterStage c s rest ts).vault = d.vault ∧
    (d.enterStage c s rest ts).loc = d.loc ∧ (d.enterStage c s rest ts).jobs = d.jobs := by
  obtain ⟨_, _, _, _, h⟩ := (d.takeStage rest ts).pinAndFetch_eq ts
  rw [Dev.enterStage, h]
  exact ⟨rfl, rfl, rfl, rfl⟩

theorem Dev.stagePins_enterStage : ((d.enterStage c s rest ts).ctx c).stagePins = (d.ctx c).stagePins ++ [(s, ts)] := by
  obtain ⟨_, _, _, _, h⟩ := (d.takeStage rest ts).pinAndFetch_eq ts
  rw [Dev.enterStage, h, Dev.holdStage, Dev.ctx_modCtx_same]
  rfl

theorem Dev.rd_holdStage (off : Nat) : (d.holdStage c s ts).rd off = d.rd off := rfl
theorem Dev.tdir_holdStage (i : Nat) : (d.holdStage c s ts).tdir i = d.tdir i := rfl
theorem Dev.queued_holdStage (i : Nat) : (d.holdStage c s ts).queued i = d.queued i := rfl
theorem Dev.rd_takeStage (off : Nat) : (d.takeStage rest ts).rd off = d.rd off := rfl
theorem Dev.tdir_takeStage (i : Nat) : (d.takeStage rest ts).tdir i = d.tdir i := rfl
theorem Dev.vaultOf_takeStage (i : Nat) : (d.takeStage rest ts).vaultOf i = d.vaultOf i := rfl
theorem Dev.ports_takeStage : (d.takeStage rest ts).mig.ports = d.mig.ports := rfl

theorem Dev.entryIn_takeStage {i : Nat} (h : d.EntryIn i) : (d.takeStage rest ts).EntryIn i := h

section
variable (hts : ∀ i ∈ ts, d.EntryIn i)
include hts

theorem Dev.rd_enterStage {off : Nat} (h : off ∉ Safety.hbmCounters) : (d.enterStage c s rest ts).rd off = d.rd off := by
  rw [Dev.enterStage, Dev.rd_holdStage, Dev.rd_pinAndFetch _ ts (fun i hi => d.entryIn_takeStage rest ts (hts i hi)) h, Dev.rd_takeStage]

theorem Dev.enterStage_tile (hnodup : ts.Nodup) {i : Nat} (hi : i ∈ ts) (hpins : d.pins i + 1 < 2 ^ 16) :
    (d.enterStage c s rest ts).pins i = d.pins i + 1 ∧ (d.enterStage c s rest ts).resident i = d.resident i := by
  have htile := Dev.pinAndFetch_tile (d.takeStage rest ts) ts (fun i hi => d.entryIn_takeStage rest ts (hts i hi)) hnodup hi
  simp only [Blocks.pins, Blocks.resident, Dev.tdir_takeStage] at htile hpins ⊢
  simpa only [Dev.enterStage, Dev.tdir_holdStage] using htile hpins

theorem Dev.queued_enterStage (hnodup : ts.Nodup) {i : Nat} (hi : i ∈ ts) (hres : d.resident i = false) (hfetch : d.fetching i = false)
    (hport : (d.vaultOf i).1 < d.mig.ports.length) : (d.enterStage c s rest ts).queued i = true := by
  rw [Dev.enterStage, Dev.queued_holdStage]
  refine Dev.queued_pinAndFetch _ ts (fun i hi => d.entryIn_takeStage rest ts (hts i hi)) hnodup hi ?_ ?_ ?_
  · rw [Blocks.resident, Dev.tdir_takeStage, ← Blocks.resident, hres]
  · rw [Blocks.fetching, Dev.tdir_takeStage, ← Blocks.fetching, hfetch]
  · rwa [Dev.vaultOf_takeStage, Dev.ports_takeStage]

end

end

theorem exec_stageAdmission_fits (s : State) {c st : Nat} {rest : List (Nat × Nat)} (hop : Safety.Operating s)
    (h : s.dev.mig.stageReqs = (c, st) :: rest) (hfit : s.dev.stageFits st = true) (hahead : s.dev.fld Reg.migCtrl 5 4 = 0)
    (hts : ∀ i ∈ s.dev.stageTiles st, s.dev.EntryIn i) :
    exec .stageAdmission s = .next (s.onDev (s.dev.enterStage c st rest (s.dev.stageTiles st))) := by
  have hctrl : (s.dev.enterStage c st rest (s.dev.stageTiles st)).fld Reg.migCtrl 5 4 = 0 := by
    rw [Blocks.fld, Dev.rd_enterStage _ _ _ _ _ hts (by decide), ← Blocks.fld, hahead]
  have hrun : s.dev.stageAdmission = s.dev.enterStage c st rest (s.dev.stageTiles st) := by
    rw [s.dev.stageAdmission_eq h, if_pos hfit, ← Dev.enterStage, Dev.fetchAhead_none _ _ hctrl]
  show execStageAdmission s = _
  rw [execStageAdmission, Dev.live_running _ _ hop, hrun]

/-- STAGE_ADMISSION of a stage that fits. -/
theorem stageAdmission_admits (s : State) (c st : Nat) (rest : List (Nat × Nat)) (hop : Safety.Operating s)
    (h : s.dev.mig.stageReqs = (c, st) :: rest) (hfit : s.dev.stageFits st = true) (hahead : s.dev.fld Reg.migCtrl 5 4 = 0)
    (hts : ∀ i ∈ s.dev.stageTiles st, Safety.EntryPlaced s i ∧ s.dev.pins i + 1 < 2 ^ 16) :
    Safety.Gives .stageAdmission s (fun t =>
      t.dev.mig.stageReqs = rest ∧ (t.dev.ctx c).stagePins = (s.dev.ctx c).stagePins ++ [(st, s.dev.stageTiles st)] ∧
      (∀ i ∈ s.dev.stageTiles st, t.dev.pins i = s.dev.pins i + 1 ∧ t.dev.resident i = s.dev.resident i ∧
        (s.dev.resident i = false → s.dev.fetching i = false → (s.dev.vaultOf i).1 < s.dev.mig.ports.length → t.dev.queued i = true)) ∧
      Safety.SameRegsBut Safety.hbmCounters s t ∧ t.dev.vault = s.dev.vault ∧ t.dev.loc = s.dev.loc ∧ t.dev.jobs = s.dev.jobs) := by
  have hin : ∀ i ∈ s.dev.stageTiles st, s.dev.EntryIn i := fun i hi => (hts i hi).1
  have hnodup := s.dev.nodup_stageTiles st
  obtain ⟨hreqs, hvault, hloc, hjobs⟩ := s.dev.enterStage_frame c st rest (s.dev.stageTiles st)
  refine ⟨_, exec_stageAdmission_fits s hop h hfit hahead hin, hreqs, Dev.stagePins_enterStage _ _ _ _ _, fun i hi => ?_,
    fun off hoff => Dev.rd_enterStage _ _ _ _ _ hin hoff, hvault, hloc, hjobs⟩
  obtain ⟨hpins, hres⟩ := Dev.enterStage_tile _ c st rest _ hin hnodup hi (hts i hi).2
  exact ⟨hpins, hres, Dev.queued_enterStage _ c st rest _ hin hnodup hi⟩

end Sys2Proof.Machine
end

section
/-! Hints (R116 to R118, R137). -/

namespace Sys2Proof.Machine

/-- HINT_QUEUE_TAKE by the entry of the expert tile table. -/
theorem Dev.hintQueueTake_eq (d : Dev) {l e : Nat} {rest : List (Nat × Nat)} (h : d.mig.hints = (l, e) :: rest) :
    d.hintQueueTake = match d.xtab l e with
      | none => ({ d with mig := { d.mig with hints := rest } } : Dev).bump Reg.migCntHintInvalid 1
      | some x => ((List.range x.2).map (x.1 + ·)).foldl (fun d i => d.queueFetch i 2 false true false)
          { d with mig := { d.mig with hints := rest } } := by
  have hxtab : ({ d with mig := { d.mig with hints := rest } } : Dev).xtab l e = d.xtab l e := rfl
  rw [Dev.hintQueueTake, h]
  dsimp only
  rw [Blocks.expertTiles, hxtab]
  cases d.xtab l e <;> rfl

theorem exec_hintQueueTake (s : State) (hop : Safety.Operating s) : exec .hintQueueTake s = .next (s.onDev s.dev.hintQueueTake) := by
  show execHintQueueTake s = _
  rw [execHintQueueTake, Dev.live_running _ _ hop]

theorem exec_hintMessage (s : State) (hop : Safety.Operating s) : exec .hintMessage s = .next (s.onDev s.dev.hintMessage) := by
  show execHintMessage s = _
  rw [execHintMessage, Dev.live_running _ _ hop]

section
variable (d : Dev) {m : FilMsg} (h : d.fil.rx.find? (fun m => m.typ = 1) = some m)
include h

theorem Dev.hintMessage_malformed (hok : hintOk m = false) :
    d.hintMessage = ({ d with fil := { d.fil with rx := d.fil.rx.erase m } } : Dev).bump Reg.migCntHintInvalid 1 := by
  rw [Dev.hintMessage, h]
  dsimp only
  rw [hok]
  rfl

/-- A message with one expert. -/
theorem Dev.hintMessage_single (hok : hintOk m = true) (hcount : fldOf m.data 0 12 8 = 1) (hexpert : fldOf m.data 8 15 0 < 16384) :
    d.hintMessage =
      ({ d with fil := { d.fil with rx := d.fil.rx.erase m } } : Dev).localHint (fldOf m.data 0 7 0) (fldOf m.data 8 15 0) := by
  have hlist : (List.range 1).map (fun i => fldOf m.data (8 + 2 * i) 15 0) = [fldOf m.data 8 15 0] := rfl
  rw [Dev.hintMessage, h]
  dsimp only
  rw [hok, hcount, hlist, Bool.not_true, if_neg Bool.false_ne_true, List.foldl_cons, List.foldl_nil, if_neg (Nat.not_le.mpr hexpert)]

end

/-! The causes that discard a hint at its home, in their order (log entry 59). -/

/-- A hint at its home, by the entry of its expert. -/
def Dev.hintFor (d : Dev) (l e : Nat) : Option (List Byte) → Dev
  | none => d.bump Reg.migCntHintInvalid 1
  | some ent =>
    if !dirEnable ent then d.bump Reg.migCntHintInvalid 1
    else if !dirTier ent || d.mig.hints.contains (l, e) || d.expertPresent l e then d.bump Reg.migCntHintPresent 1
    else if !d.ctxs.any (fun c => c.2.mode = .live) then d.bump Reg.migCntHintIdle 1
    else if 512 ≤ d.mig.hints.length then d.bump Reg.migCntHintFull 1
    else ({ d with mig := { d.mig with hints := d.mig.hints ++ [(l, e)] } }).bump Reg.migCntHintQueued 1

/-- The definition is unfolded as a function: the kernel would evaluate the entry to compare the unfolded call with the call. -/
theorem Dev.localHint_eq (d : Dev) (l e : Nat) : d.localHint l e = d.hintFor l e (d.dirEntry l e) := by
  generalize hf : @Dev.localHint = f
  delta Dev.localHint at hf
  subst hf
  beta_reduce
  generalize d.dirEntry l e = o
  cases o <;> rfl

theorem Dev.localHint_noEntry (d : Dev) {l e : Nat} (h : d.dirEntry l e = none) : d.localHint l e = d.bump Reg.migCntHintInvalid 1 := by
  rw [Dev.localHint_eq, h, Dev.hintFor]

section
variable (d : Dev) {l e : Nat} {ent : List Byte} (h : d.dirEntry l e = some ent)
include h

theorem Dev.localHint_disabled (hen : dirEnable ent = false) : d.localHint l e = d.bump Reg.migCntHintInvalid 1 := by
  rw [Dev.localHint_eq, h]
  dsimp only [Dev.hintFor]
  rw [hen]
  rfl

theorem Dev.localHint_present (hen : dirEnable ent = true)
    (hpresent : dirTier ent = false ∨ d.expertPresent l e = true ∨ (l, e) ∈ d.mig.hints) :
    d.localHint l e = d.bump Reg.migCntHintPresent 1 := by
  have hcause : (!dirTier ent || d.mig.hints.contains (l, e) || d.expertPresent l e) = true := by
    rw [Bool.or_eq_true, Bool.or_eq_true, Bool.not_eq_true', List.contains_iff_mem]
    tauto
  rw [Dev.localHint_eq, h]
  dsimp only [Dev.hintFor]
  rw [hen, if_pos hcause]
  rfl

theorem Dev.localHint_absent (hen : dirEnable ent = true) (htier : dirTier ent = true) (haway : d.expertPresent l e = false)
    (hnew : (l, e) ∉ d.mig.hints) : d.localHint l e =
      if d.ctxs.any (fun c => c.2.mode = .live) = false then d.bump Reg.migCntHintIdle 1
      else if d.mig.hints.length < 512 then
        ({ d with mig := { d.mig with hints := d.mig.hints ++ [(l, e)] } } : Dev).bump Reg.migCntHintQueued 1
      else d.bump Reg.migCntHintFull 1 := by
  have hcause : (!dirTier ent || d.mig.hints.contains (l, e) || d.expertPresent l e) = false := by
    rw [htier, haway, Bool.or_false, Bool.not_true, Bool.false_or]
    simpa using hnew
  rw [Dev.localHint_eq, h]
  dsimp only [Dev.hintFor]
  rw [hen, hcause]
  simp only [Bool.not_true, Bool.false_eq_true, if_false, Bool.not_eq_true']
  refine ite_congr rfl (fun _ => rfl) fun _ => ?_
  by_cases hroom : d.mig.hints.length < 512
  · rw [if_pos hroom, if_neg (by omega)]
  · rw [if_neg hroom, if_pos (by omega)]

end

end Sys2Proof.Machine
end

section
/-! A device where no access waits for a tile (`Safety.NoTileWaiters`): what serves, faults or wakes waiting accesses does nothing. -/

namespace Sys2Proof.Machine

/-- No instruction in a scoreboard, no engine and no host access waits for a tile. -/
def Dev.Unwaited (d : Dev) : Prop := d.mig.stalls = [] ∧ ∀ p g i ts, d.prog? p = some g → i ∈ g.score → i.pend ≠ .tiles ts

theorem Dev.unwaited_of_noTileWaiters {s : State} (h : Safety.NoTileWaiters s) : s.dev.Unwaited := h

/-- Cores and waiting commands decide. -/
theorem Dev.Unwaited.congr {d e : Dev} (h : d.Unwaited) (hstalls : e.mig.stalls = d.mig.stalls) (hcores : e.cores = d.cores) : e.Unwaited := by
  have hprog (p : Nat) : e.prog? p = d.prog? p := by rw [Blocks.prog?, Blocks.core, hcores, Blocks.prog?, Blocks.core]
  exact ⟨hstalls.trans h.1, fun p g i ts hg => h.2 p g i ts (hprog p ▸ hg)⟩

/-- A fold whose steps all leave the start alone. -/
theorem foldl_fixed_mem {α β : Type} {f : β → α → β} {b : β} {xs : List α} (h : ∀ x ∈ xs, f b x = b) : xs.foldl f b = b := by
  induction xs with
  | nil => rfl
  | cons x xs ih => rw [List.foldl_cons, h x (by simp), ih fun y hy => h y (by simp [hy])]

theorem Dev.overScore_fixed (d : Dev) (f : Dev → Nat → Issued → Dev)
    (h : ∀ p g i, d.prog? p = some g → i ∈ g.score → f d p i = d) : d.overScore f = d := by
  refine foldl_fixed_mem fun p _ => ?_
  cases hg : d.prog? p with
  | none => rfl
  | some g => exact foldl_fixed_mem fun i hi => h p g i hg hi

section
variable (d : Dev)

theorem Dev.clearStalls_self (h : d.mig.stalls = []) : ({ d with mig := { d.mig with stalls := [] } } : Dev) = d := by rw [← h]

theorem Dev.serveStalls_nil (h : d.mig.stalls = []) : d.serveStalls = d := by
  rw [Dev.serveStalls, h]
  exact d.clearStalls_self h

theorem Dev.partFaults_nil (code : Nat) (bad : Nat → Bool) (h : d.mig.stalls = []) : d.partFaults code bad = d := by
  simp only [Dev.partFaults, h, List.filter_nil, List.flatMap_nil, List.foldl_nil, List.map_nil]
  rw [d.clearStalls_self h, d.serveStalls_nil h]

theorem Dev.wake_nil (h : d.mig.stalls = []) : d.wake = d := by
  rw [Dev.wake, h]
  rfl

theorem Dev.portFaults_unwaited (n : Nat) (h : d.Unwaited) : d.portFaults n = d := by
  obtain ⟨hstalls, hscore⟩ := h
  rw [Dev.portFaults]
  dsimp only
  rw [d.overScore_fixed _ ?_, d.partFaults_nil _ _ hstalls]
  intro p g i hg hi
  cases hpend : i.pend with
  | tiles ts => exact absurd hpend (hscore p g i ts hg hi)
  | _ => rfl

end

end Sys2Proof.Machine
end

section
/-! A vault link that falls (R30, R143). -/

namespace Sys2Proof.Machine

/-- The status registers of the vault ports lie above those of other blocks that a link touches. -/
theorem vltPortStatus_ne (n : Nat) {off : Nat} (h : off < 0x04800000) : Reg.vltPortStatus n ≠ off := by
  unfold Reg.vltPortStatus
  omega

theorem Dev.MgmtFrame.mig {d e : Dev} (h : d.MgmtFrame e) : e.mig = d.mig := by
  obtain ⟨_, _, _, _, rfl⟩ := h
  rfl

theorem Dev.MgmtFrame.cores {d e : Dev} (h : d.MgmtFrame e) : e.cores = d.cores := by
  obtain ⟨_, _, _, _, rfl⟩ := h
  rfl

theorem Dev.MgmtFrame.jobs {d e : Dev} (h : d.MgmtFrame e) : e.jobs = d.jobs := by
  obtain ⟨_, _, _, _, rfl⟩ := h
  rfl

theorem sameMemory_of_mgmtFrame {s : State} {d : Dev} (h : s.dev.MgmtFrame d) : Safety.SameMemory s (s.onDev d) := by
  obtain ⟨_, _, _, _, rfl⟩ := h
  exact fun _ => ⟨rfl, rfl, rfl, rfl⟩

theorem Dev.Unwaited.of_mgmtFrame {d e : Dev} (h : d.Unwaited) (hframe : d.MgmtFrame e) : e.Unwaited :=
  h.congr (congrArg Mig.stalls hframe.mig) hframe.cores

/-- LINK_UP, rate and width fall, and the lock bits of the port's two domains. -/
def Dev.linkDark (d : Dev) (n : Nat) : Dev := ((d.wrFld (Reg.vltPortStatus n) 8 0 0).clockDown (56 + n)).clockDown (58 + n)

section
variable (d : Dev) (n : Nat)

theorem Dev.mgmtFrame_linkDark : d.MgmtFrame (d.linkDark n) :=
  ((d.mgmtFrame_wr _ _).trans (Dev.mgmtFrame_clockDown _ _)).trans (Dev.mgmtFrame_clockDown _ _)

theorem Dev.rd_linkDark_status : (d.linkDark n).rd (Reg.vltPortStatus n) = setBits (d.rd (Reg.vltPortStatus n)) 8 0 0 := by
  have hlock := vltPortStatus_ne n (off := Reg.glbClkLock) (by decide)
  have hloss := vltPortStatus_ne n (off := Reg.glbClkLoss) (by decide)
  rw [Dev.linkDark, Dev.rd_clockDown_other _ _ hlock hloss, Dev.rd_clockDown_other _ _ hlock hloss, Dev.rd_wrFld_same _ _ _ (by decide)]

theorem Dev.rd_linkDark_other {off : Nat} (hstatus : off ≠ Reg.vltPortStatus n) (hlock : off ≠ Reg.glbClkLock) (hloss : off ≠ Reg.glbClkLoss) :
    (d.linkDark n).rd off = d.rd off := by
  rw [Dev.linkDark, Dev.rd_clockDown_other _ _ hlock hloss, Dev.rd_clockDown_other _ _ hlock hloss, Dev.rd_wrFld_other _ _ _ _ hstatus]

theorem Dev.linkDark_unlocked (hn : n < 2) :
    (d.linkDark n).flag Reg.glbClkLock (56 + n) = false ∧ (d.linkDark n).flag Reg.glbClkLock (58 + n) = false := by
  constructor
  · rw [Dev.linkDark, Dev.flag_clockDown_lock_other _ (by omega) (by omega), Dev.flag_clockDown_lock_same _ (by omega)]
  · rw [Dev.linkDark, Dev.flag_clockDown_lock_same _ (by omega)]

theorem Dev.vaultLinkDown_up (hn : n < 2) (hup : d.vaultUp n = true) : d.vaultLinkDown n = (d.linkDark n).portFaults n := by
  rw [Dev.vaultLinkDown, hup, decide_eq_false (by omega), Bool.not_true, Bool.or_false, if_neg Bool.false_ne_true,
    Dev.linkDark]

end

/-- VAULT_LINK_DOWN of a link that is up. -/
theorem vaultLinkDown_falls (s : State) (n : Nat) (hop : Safety.Operating s) (hn : n < 2) (hup : s.dev.vaultUp n = true)
    (hwait : Safety.NoTileWaiters s) : Safety.Gives (.vaultLinkDown n) s (fun t =>
      t.dev.fld (Reg.vltPortStatus n) 8 0 = 0 ∧ t.dev.vaultLost n = s.dev.vaultLost n ∧ t.dev.flag Reg.glbClkLock (56 + n) = false ∧
      t.dev.flag Reg.glbClkLock (58 + n) = false ∧ t.dev.mig = s.dev.mig ∧
      Safety.SameRegsBut [Reg.vltPortStatus n, Reg.glbClkLock, Reg.glbClkLoss] s t ∧ Safety.SameMemory s t ∧ t.dev.jobs = s.dev.jobs) := by
  have hframe := s.dev.mgmtFrame_linkDark n
  have hunwaited := (Dev.unwaited_of_noTileWaiters hwait).of_mgmtFrame hframe
  obtain ⟨hlockA, hlockB⟩ := s.dev.linkDark_unlocked n hn
  refine ⟨s.onDev (s.dev.linkDark n), ?_, ?_, ?_, hlockA, hlockB, hframe.mig, fun off hoff => ?_, sameMemory_of_mgmtFrame hframe, hframe.jobs⟩
  · show execVaultLinkDown n s = _
    rw [execVaultLinkDown, Dev.live_running _ _ hop, s.dev.vaultLinkDown_up n hn hup, Dev.portFaults_unwaited _ n hunwaited,
      Dev.wake_nil _ hunwaited.1]
  · rw [State.onDev_dev, Blocks.fld, Dev.rd_linkDark_status, bitsOf_setBits_same]
    rfl
  · rw [State.onDev_dev, Blocks.vaultLost, Blocks.flag, Dev.rd_linkDark_status, bitOf_setBits, if_neg (by decide), Blocks.vaultLost, Blocks.flag]
  · simp only [List.mem_cons, List.not_mem_nil, or_false, not_or] at hoff
    obtain ⟨hstatus, hlock, hloss⟩ := hoff
    exact s.dev.rd_linkDark_other n hstatus hlock hloss

end Sys2Proof.Machine
end

section
/-! What a change of a vault link leaves unchanged, and the transfer that a reset expander ends (R143). -/

namespace Sys2Proof.Machine

/-- Device e is device d but for registers, clocks, HBM, the Vault, carats and the migration engine, whose waiting accesses stand. -/
def Dev.VaultFrame (d e : Dev) : Prop :=
  ∃ regs glb hbm vault pwr mig,
    e = { d with regs := regs, glb := glb, hbm := hbm, vault := vault, pwr := pwr, mig := mig } ∧ mig.stalls = d.mig.stalls

theorem Dev.VaultFrame.refl (d : Dev) : d.VaultFrame d := ⟨_, _, _, _, _, _, rfl, rfl⟩

theorem Dev.VaultFrame.trans {d e f : Dev} (h : d.VaultFrame e) (k : e.VaultFrame f) : d.VaultFrame f := by
  obtain ⟨_, _, _, _, _, _, rfl, hs⟩ := h
  obtain ⟨_, _, _, _, _, _, rfl, ks⟩ := k
  exact ⟨_, _, _, _, _, _, rfl, ks.trans hs⟩

section
variable {d e : Dev} (h : d.VaultFrame e)
include h

theorem Dev.VaultFrame.mgmt : e.mgmt = d.mgmt := by
  obtain ⟨_, _, _, _, _, _, rfl, -⟩ := h
  rfl

theorem Dev.VaultFrame.loc : e.loc = d.loc := by
  obtain ⟨_, _, _, _, _, _, rfl, -⟩ := h
  rfl

theorem Dev.VaultFrame.hostMem : e.hostMem = d.hostMem := by
  obtain ⟨_, _, _, _, _, _, rfl, -⟩ := h
  rfl

theorem Dev.VaultFrame.unwaited (hd : d.Unwaited) : e.Unwaited := by
  obtain ⟨_, _, _, _, _, _, rfl, hs⟩ := h
  exact hd.congr hs rfl

end

theorem Dev.vaultFrame_wr (d : Dev) (off v : Nat) : d.VaultFrame (d.wr off v) := ⟨_, _, _, _, _, _, rfl, rfl⟩

theorem Dev.vaultFrame_modVport (d : Dev) (n : Nat) (f : VaultPort → VaultPort) : d.VaultFrame (d.modVport n f) :=
  ⟨_, _, _, _, _, _, rfl, rfl⟩

theorem Dev.HbmFrame.vaultFrame {d e : Dev} (h : d.HbmFrame e) : d.VaultFrame e := by
  obtain ⟨_, _, _, rfl⟩ := h
  exact ⟨_, _, _, _, _, _, rfl, rfl⟩

theorem Dev.HbmFrame.mig {d e : Dev} (h : d.HbmFrame e) : e.mig = d.mig := by
  obtain ⟨_, _, _, rfl⟩ := h
  rfl

/-! A domain that locks. -/

theorem Dev.clockUp_eq (d : Dev) (dom : Nat) : ∃ glb, d.clockUp dom = { d.wrFld Reg.glbClkLock dom dom 1 with glb := glb } := by
  unfold Dev.clockUp
  dsimp only
  split <;> exact ⟨_, rfl⟩

theorem Dev.vaultFrame_clockUp (d : Dev) (dom : Nat) : d.VaultFrame (d.clockUp dom) := by
  obtain ⟨_, h⟩ := d.clockUp_eq dom
  rw [h]
  exact (d.vaultFrame_wr _ _).trans ⟨_, _, _, _, _, _, rfl, rfl⟩

theorem Dev.clockUp_mig (d : Dev) (dom : Nat) : (d.clockUp dom).mig = d.mig := by
  obtain ⟨_, h⟩ := d.clockUp_eq dom
  rw [h]
  rfl

theorem Dev.clockUp_hbm (d : Dev) (dom : Nat) : (d.clockUp dom).hbm = d.hbm := by
  obtain ⟨_, h⟩ := d.clockUp_eq dom
  rw [h]
  rfl

theorem Dev.clockUp_vault (d : Dev) (dom : Nat) : (d.clockUp dom).vault = d.vault := by
  obtain ⟨_, h⟩ := d.clockUp_eq dom
  rw [h]
  rfl

theorem Dev.rd_clockUp_other (d : Dev) (dom : Nat) {off : Nat} (h : off ≠ Reg.glbClkLock) : (d.clockUp dom).rd off = d.rd off := by
  obtain ⟨_, heq⟩ := d.clockUp_eq dom
  rw [heq]
  exact d.rd_wrFld_other _ _ _ h

/-! A transfer that is given up. -/

/-- The device after the transfer is given up: a write-back leaves its tile dirty, a fetch frees its frame. -/
def Dev.giveUp (d : Dev) (x : Xfer) : Dev :=
  if x.writeback then ((d.tdirBit x.tile 3 0).tdirBit x.tile 4 0).tdirBit x.tile 1 1 else d.freeFrame (d.frameOf x.tile)

theorem Dev.vaultFrame_tdirBit (d : Dev) (i bit v : Nat) : d.VaultFrame (d.tdirBit i bit v) := (d.hbmFrame_setTdir i _).vaultFrame

theorem Dev.tdirBit_mig (d : Dev) (i bit v : Nat) : (d.tdirBit i bit v).mig = d.mig := (d.hbmFrame_setTdir i _).mig

theorem Dev.vaultFrame_freeFrame (d : Dev) (f : Nat) : d.VaultFrame (d.freeFrame f) := by
  obtain ⟨_, _, _, h⟩ := d.hbmFrame_setTdir (d.tileIn f) (setBits (d.tdir (d.tileIn f)) 29 0 0)
  rw [Dev.freeFrame, h]
  exact ⟨_, _, _, _, _, _, rfl, rfl⟩

theorem Dev.freeFrame_ports (d : Dev) (f : Nat) : (d.freeFrame f).mig.ports = d.mig.ports := by
  obtain ⟨_, _, _, h⟩ := d.hbmFrame_setTdir (d.tileIn f) (setBits (d.tdir (d.tileIn f)) 29 0 0)
  rw [Dev.freeFrame, h]

theorem Dev.vaultFrame_giveUp (d : Dev) (x : Xfer) : d.VaultFrame (d.giveUp x) := by
  unfold Dev.giveUp
  split
  · exact ((d.vaultFrame_tdirBit _ _ _).trans (Dev.vaultFrame_tdirBit _ _ _ _)).trans (Dev.vaultFrame_tdirBit _ _ _ _)
  · exact d.vaultFrame_freeFrame _

theorem Dev.giveUp_ports (d : Dev) (x : Xfer) : (d.giveUp x).mig.ports = d.mig.ports := by
  unfold Dev.giveUp
  split
  · rw [Dev.tdirBit_mig, Dev.tdirBit_mig, Dev.tdirBit_mig]
  · exact d.freeFrame_ports _

/-- An entry anywhere, even beyond the direct part, is no register of a vault port: the counters it bumps lie at other places of a block. -/
theorem Dev.rd_setTdir_status (d : Dev) (i v n : Nat) : (d.setTdir i v).rd (Reg.vltPortStatus n) = d.rd (Reg.vltPortStatus n) := by
  have hwrite (k : Nat) : Reg.vltPortStatus n ≠ Reg.hbmCntWrite k := by unfold Reg.vltPortStatus Reg.hbmCntWrite; omega
  have hcross (k : Nat) : Reg.vltPortStatus n ≠ Reg.hbmCntCross k := by unfold Reg.vltPortStatus Reg.hbmCntCross; omega
  rw [Dev.setTdir, Dev.putEntry, Dev.rd_bump_other _ _ (hcross _), Dev.rd_bump_other _ _ (hwrite _), Dev.rd_askCarats, Dev.rd_dirWrite]

theorem Dev.freeFrame_regs_hbm (d : Dev) (f : Nat) :
    (d.freeFrame f).regs = (d.setTdir (d.tileIn f) (setBits (d.tdir (d.tileIn f)) 29 0 0)).regs ∧
      (d.freeFrame f).hbm = (d.setTdir (d.tileIn f) (setBits (d.tdir (d.tileIn f)) 29 0 0)).hbm := by
  simp only [Dev.freeFrame, and_self]

theorem Dev.rd_freeFrame (d : Dev) (f off : Nat) :
    (d.freeFrame f).rd off = (d.setTdir (d.tileIn f) (setBits (d.tdir (d.tileIn f)) 29 0 0)).rd off :=
  Blocks.rd_congr (d.freeFrame_regs_hbm f).1 off

theorem Dev.tdir_freeFrame (d : Dev) (f i : Nat) :
    (d.freeFrame f).tdir i = (d.setTdir (d.tileIn f) (setBits (d.tdir (d.tileIn f)) 29 0 0)).tdir i :=
  Blocks.tdir_congr (d.rd_freeFrame f _) (d.rd_freeFrame f _) (d.freeFrame_regs_hbm f).2 i

theorem Dev.rd_giveUp_status (d : Dev) (x : Xfer) (n : Nat) : (d.giveUp x).rd (Reg.vltPortStatus n) = d.rd (Reg.vltPortStatus n) := by
  unfold Dev.giveUp
  split
  · rw [Dev.tdirBit, Dev.rd_setTdir_status, Dev.tdirBit, Dev.rd_setTdir_status, Dev.tdirBit, Dev.rd_setTdir_status]
  · rw [Dev.rd_freeFrame, Dev.rd_setTdir_status]

section
variable (d : Dev) {i : Nat} (hi : d.EntryIn i)
include hi

theorem Dev.tdir_tdirBit (bit v : Nat) (hbit : bit < 64) : (d.tdirBit i bit v).tdir i = setBits (d.tdir i) bit bit v :=
  d.tdir_setTdir_same _ hi (setBits_lt (d.tdir_lt i) hbit)

theorem Dev.entryIn_tdirBit (bit v : Nat) : (d.tdirBit i bit v).EntryIn i := by
  show (d.setTdir i _).rd Reg.migTdirBase + 8 * i + 8 ≤ directSize
  rwa [d.rd_setTdir _ hi (by decide)]

end

section
variable (d : Dev) (x : Xfer) (hi : d.EntryIn x.tile)
include hi

/-- A fetch that is given up leaves its tile away. -/
theorem Dev.tdir_giveUp_fetch (hwb : x.writeback = false) (hframe : d.tileIn (d.frameOf x.tile) = x.tile) :
    (d.giveUp x).tdir x.tile = setBits (d.tdir x.tile) 29 0 0 := by
  rw [Dev.giveUp, hwb, if_neg Bool.false_ne_true, Dev.tdir_freeFrame, hframe, d.tdir_setTdir_same _ hi (setBits_lt (d.tdir_lt _) (by decide))]

/-- A write-back that is given up leaves its tile dirty. -/
theorem Dev.tdir_giveUp_writeback (hwb : x.writeback = true) :
    (d.giveUp x).tdir x.tile = setBits (setBits (setBits (d.tdir x.tile) 3 3 0) 4 4 0) 1 1 1 := by
  have h3 := d.entryIn_tdirBit hi 3 0
  have h4 := Dev.entryIn_tdirBit _ h3 4 0
  rw [Dev.giveUp, if_pos hwb, Dev.tdir_tdirBit _ h4 _ _ (by decide), Dev.tdir_tdirBit _ h3 _ _ (by decide),
    Dev.tdir_tdirBit _ hi _ _ (by decide)]

end

end Sys2Proof.Machine
end

section
/-! A vault link that comes up again, and the LINK_RETRAIN that waits for it (R143, R290). -/

namespace Sys2Proof.Machine

/-! The status of the port. -/

/-- The link field of VLT_PORTx_STATUS: LINK_UP, flit size, rate and width. -/
def linkWord (v : VaultLink) : Nat := word [(4, v.width), (2, if v.rate64 then 2 else 1), (1, b2n v.flit256), (0, 1)]

/-- VLT_PORTx_STATUS once the link is up. -/
def statusUp (old : Nat) (v : VaultLink) (lost : Bool) : Nat := setBits (setBits old 8 0 (linkWord v)) 9 9 (b2n lost)

theorem linkWord_eq (v : VaultLink) : ∃ r, r < 8 ∧ linkWord v = v.width * 16 + 2 * r + 1 := by
  have hb : b2n v.flit256 < 2 := by cases v.flit256 <;> decide
  refine ⟨(if v.rate64 then 2 else 1) * 2 + b2n v.flit256, by split <;> omega, ?_⟩
  simp only [linkWord, word, sumBy, List.foldl_cons, List.foldl_nil]
  omega

theorem bitOf_b2n (b : Bool) : bitOf (b2n b) 0 = b := by cases b <;> rfl

/-- The lower part of a field. -/
theorem bitsOf_setBits_within {v hi lo x hi' lo' : Nat} (hlo : lo ≤ lo') (hle : lo' ≤ hi') (hhi : hi' ≤ hi) :
    bitsOf (setBits v hi lo x) hi' lo' = bitsOf x (hi' - lo) (lo' - lo) := by
  refine Nat.eq_of_testBit_eq fun i => ?_
  rw [testBit_bitsOf, testBit_bitsOf, testBit_setBits]
  by_cases hin : i < hi' + 1 - lo'
  · rw [if_pos (by omega), decide_eq_true hin, decide_eq_true (by omega), show lo' + i - lo = lo' - lo + i by omega]
  · rw [decide_eq_false hin, decide_eq_false (by omega)]
    rfl

section
variable (old : Nat) (v : VaultLink) (lost : Bool)

theorem statusUp_up : bitOf (statusUp old v lost) 0 = true := by
  obtain ⟨r, -, hword⟩ := linkWord_eq v
  rw [statusUp, bitOf_setBits, if_neg (by decide), bitOf_setBits, if_pos (by decide), hword, bitOf, decide_eq_true_eq]
  omega

theorem statusUp_width (hw : v.width < 32) : bitsOf (statusUp old v lost) 8 4 = v.width := by
  obtain ⟨r, hr, hword⟩ := linkWord_eq v
  rw [statusUp, bitsOf_setBits_apart (by decide), bitsOf_setBits_within (by decide) (by decide) (by decide), hword, bitsOf]
  omega

theorem statusUp_lost : bitOf (statusUp old v lost) 9 = lost := by
  rw [statusUp, bitOf_setBits, if_pos (by decide), bitOf_b2n]

theorem statusUp_lt (hold : old < 2 ^ 64) : statusUp old v lost < 2 ^ 64 := setBits_lt (setBits_lt hold (by decide)) (by decide)

end

/-! The link up, before the LINK_RETRAIN ends. -/

/-- The port shows what it trained to, its clocks are locked, and it retrains no longer. -/
def Dev.linkTrained (d : Dev) (n : Nat) (v : VaultLink) (lost : Bool) : Dev :=
  (((d.wr (Reg.vltPortStatus n) (statusUp (d.rd (Reg.vltPortStatus n)) v lost)).clockUp (56 + n)).clockUp (58 + n)).modVport n
    (fun p => { p with retraining := false })

/-- The expander has lost its contents, and the port its transfers. -/
def Dev.expanderReset (d : Dev) (n : Nat) : Dev := { d.abortTransfers n with vault := memClear d.vault (n * 2 ^ 42) (2 ^ 42) }

/-- The link is up again. -/
def Dev.linkRestored (d : Dev) (n : Nat) (v : VaultLink) (wasReset : Bool) : Dev :=
  if wasReset then (d.linkTrained n v (d.vaultLost n || wasReset)).expanderReset n else d.linkTrained n v (d.vaultLost n || wasReset)

theorem Dev.vport_lt_of_retraining {d : Dev} {n : Nat} (h : (d.vport n).retraining = true) : n < d.mig.ports.length := by
  by_contra hlen
  rw [Blocks.vport, List.getD_eq_getElem?_getD, List.getElem?_eq_none (by omega)] at h
  exact absurd h (by decide)

section
variable (d : Dev) (n : Nat) (v : VaultLink) (lost : Bool)

theorem Dev.vaultFrame_linkTrained : d.VaultFrame (d.linkTrained n v lost) :=
  (((d.vaultFrame_wr _ _).trans (Dev.vaultFrame_clockUp _ _)).trans (Dev.vaultFrame_clockUp _ _)).trans (Dev.vaultFrame_modVport _ _ _)

theorem Dev.rd_linkTrained_status : (d.linkTrained n v lost).rd (Reg.vltPortStatus n) = statusUp (d.rd (Reg.vltPortStatus n)) v lost := by
  have hlock := vltPortStatus_ne n (off := Reg.glbClkLock) (by decide)
  show (Dev.clockUp _ _).rd _ = _
  rw [Dev.rd_clockUp_other _ _ hlock, Dev.rd_clockUp_other _ _ hlock, Dev.rd_wr_same, Nat.mod_eq_of_lt (statusUp_lt _ v lost (d.rd_lt _))]

theorem Dev.rd_linkTrained_other {off : Nat} (hlock : off ≠ Reg.glbClkLock) (hstatus : off ≠ Reg.vltPortStatus n) :
    (d.linkTrained n v lost).rd off = d.rd off := by
  show (Dev.clockUp _ _).rd _ = _
  rw [Dev.rd_clockUp_other _ _ hlock, Dev.rd_clockUp_other _ _ hlock, Dev.rd_wr_other _ _ _ _ hstatus]

theorem Dev.linkTrained_hbm : (d.linkTrained n v lost).hbm = d.hbm := by
  show (Dev.clockUp _ _).hbm = _
  rw [Dev.clockUp_hbm, Dev.clockUp_hbm, Dev.wr_hbm]

theorem Dev.linkTrained_vault : (d.linkTrained n v lost).vault = d.vault := by
  show (Dev.clockUp _ _).vault = _
  rw [Dev.clockUp_vault, Dev.clockUp_vault, Dev.wr_vault]

/-- The port's transfers stand. -/
theorem Dev.vport_linkTrained (hport : n < d.mig.ports.length) :
    (d.linkTrained n v lost).vport n = { d.vport n with retraining := false } := by
  have hmig : (((d.wr (Reg.vltPortStatus n) (statusUp (d.rd (Reg.vltPortStatus n)) v lost)).clockUp (56 + n)).clockUp (58 + n)).mig = d.mig := by
    rw [Dev.clockUp_mig, Dev.clockUp_mig, Dev.wr_mig]
  rw [Dev.linkTrained, Dev.vport_modVport_same _ _ (by rwa [hmig]), Blocks.vport, hmig, Blocks.vport]

theorem Dev.tdir_linkTrained (i : Nat) : (d.linkTrained n v lost).tdir i = d.tdir i :=
  Blocks.tdir_congr (d.rd_linkTrained_other n v lost (by decide) (vltPortStatus_ne n (by decide)).symm)
    (d.rd_linkTrained_other n v lost (by decide) (vltPortStatus_ne n (by decide)).symm) (d.linkTrained_hbm n v lost) i

end

/-! The reset expander. -/

section
variable (d : Dev) (n : Nat)

theorem Dev.abortTransfers_none (h : (d.vport n).running = none) :
    d.abortTransfers n = d.modVport n (fun v => { v with running := none, queue := [] }) := by
  rw [Dev.abortTransfers, h]

theorem Dev.abortTransfers_some {x : Xfer} (h : (d.vport n).running = some x) :
    d.abortTransfers n = (d.giveUp x).modVport n (fun v => { v with running := none, queue := [] }) := by
  rw [Dev.abortTransfers, h]
  rfl

theorem Dev.vaultFrame_abortTransfers : d.VaultFrame (d.abortTransfers n) := by
  cases h : (d.vport n).running with
  | none => rw [d.abortTransfers_none n h]; exact d.vaultFrame_modVport _ _
  | some x => rw [d.abortTransfers_some n h]; exact (d.vaultFrame_giveUp x).trans (Dev.vaultFrame_modVport _ _ _)

theorem Dev.vaultFrame_expanderReset : d.VaultFrame (d.expanderReset n) :=
  (d.vaultFrame_abortTransfers n).trans ⟨_, _, _, _, _, _, rfl, rfl⟩

theorem Dev.rd_abortTransfers_status (m : Nat) : (d.abortTransfers n).rd (Reg.vltPortStatus m) = d.rd (Reg.vltPortStatus m) := by
  cases h : (d.vport n).running with
  | none => rw [d.abortTransfers_none n h]; rfl
  | some x =>
    rw [d.abortTransfers_some n h]
    exact d.rd_giveUp_status x m

/-- The queue is empty, and nothing runs. -/
theorem Dev.vport_abortTransfers (hport : n < d.mig.ports.length) :
    (d.abortTransfers n).vport n = { d.vport n with running := none, queue := [] } := by
  cases h : (d.vport n).running with
  | none => rw [d.abortTransfers_none n h, Dev.vport_modVport_same _ _ hport]
  | some x =>
    rw [d.abortTransfers_some n h, Dev.vport_modVport_same _ _ (by rwa [Dev.giveUp_ports]), Blocks.vport, Dev.giveUp_ports, Blocks.vport]

theorem Dev.tdir_abortTransfers {x : Xfer} (h : (d.vport n).running = some x) (i : Nat) :
    (d.abortTransfers n).tdir i = (d.giveUp x).tdir i := by
  rw [d.abortTransfers_some n h]
  rfl

theorem Dev.rd_expanderReset (off : Nat) : (d.expanderReset n).rd off = (d.abortTransfers n).rd off := rfl
theorem Dev.expanderReset_hbm : (d.expanderReset n).hbm = (d.abortTransfers n).hbm := rfl
theorem Dev.vport_expanderReset (m : Nat) : (d.expanderReset n).vport m = (d.abortTransfers n).vport m := rfl
theorem Dev.tdir_expanderReset (i : Nat) : (d.expanderReset n).tdir i = (d.abortTransfers n).tdir i := rfl

end

/-! Either way. -/

section
variable (d : Dev) (n : Nat) (v : VaultLink) (wasReset : Bool)

theorem Dev.vaultFrame_linkRestored : d.VaultFrame (d.linkRestored n v wasReset) := by
  unfold Dev.linkRestored
  split
  · exact (d.vaultFrame_linkTrained _ _ _).trans (Dev.vaultFrame_expanderReset _ _)
  · exact d.vaultFrame_linkTrained _ _ _

theorem Dev.rd_linkRestored_status : (d.linkRestored n v wasReset).rd (Reg.vltPortStatus n) =
    statusUp (d.rd (Reg.vltPortStatus n)) v (d.vaultLost n || wasReset) := by
  unfold Dev.linkRestored
  split
  · rw [Dev.rd_expanderReset, Dev.rd_abortTransfers_status, Dev.rd_linkTrained_status]
  · rw [Dev.rd_linkTrained_status]

theorem Dev.vport_linkRestored (hport : n < d.mig.ports.length) : (d.linkRestored n v wasReset).vport n =
    if wasReset then { d.vport n with retraining := false, running := none, queue := [] } else { d.vport n with retraining := false } := by
  unfold Dev.linkRestored
  split
  · have hlen : n < (d.linkTrained n v (d.vaultLost n || wasReset)).mig.ports.length := by
      rw [Dev.linkTrained, Dev.length_ports_modVport, Dev.clockUp_mig, Dev.clockUp_mig, Dev.wr_mig]
      exact hport
    rw [Dev.vport_expanderReset, Dev.vport_abortTransfers _ _ hlen, d.vport_linkTrained n v _ hport]
  · rw [d.vport_linkTrained n v _ hport]

theorem Dev.vaultLinkUp_eq (hn : n < 2) (hre : (d.vport n).retraining = true) (hw : 0 < v.width) (h : d.Unwaited) :
    d.vaultLinkUp n v wasReset = (d.linkRestored n v wasReset).vaultDone n 0 := by
  have hguard : (decide (2 ≤ n) || !(d.vport n).retraining || decide (v.width = 0)) = false := by
    rw [hre, decide_eq_false (by omega), decide_eq_false (by omega)]
    rfl
  have hfaults := Dev.portFaults_unwaited _ n ((d.vaultFrame_linkRestored n v wasReset).unwaited h)
  rw [Dev.vaultLinkUp, hguard, if_neg Bool.false_ne_true]
  show Dev.vaultDone (if (d.vaultLost n || wasReset) = true then (d.linkRestored n v wasReset).portFaults n else d.linkRestored n v wasReset)
    n 0 = _
  rw [hfaults, ite_self]

end

end Sys2Proof.Machine
end

section
/-! LINK_RETRAIN of a vault port ends when the link is up, or by its timeout (R143, R290). -/

namespace Sys2Proof.Machine

/-- The LINK_RETRAIN of vault port n waits. -/
def Dev.RetrainRuns (d : Dev) (n : Nat) (r : MgmtRun) : Prop := d.mgmt.run = some r ∧ r.op = 4 ∧ r.target = 6 + n ∧ r.begun = true

theorem Dev.vaultDone_eq {d : Dev} {n : Nat} {r : MgmtRun} (h : d.RetrainRuns n r) (result : Nat) :
    d.vaultDone n result = d.mgmtEnd result 0 := by
  obtain ⟨hrun, hop, htarget, hbegun⟩ := h
  rw [Dev.vaultDone, hrun]
  exact if_pos ⟨hop, htarget, hbegun⟩

theorem Dev.vport_mgmtEnd (d : Dev) (result info n : Nat) : (d.mgmtEnd result info).vport n = d.vport n := by
  rw [Blocks.vport, (d.mgmtFrame_mgmtEnd result info).mig, Blocks.vport]

theorem Dev.MgmtFrame.memory {d e : Dev} (h : d.MgmtFrame e) : e.hbm = d.hbm ∧ e.vault = d.vault ∧ e.loc = d.loc ∧ e.hostMem = d.hostMem := by
  obtain ⟨_, _, _, _, rfl⟩ := h
  exact ⟨rfl, rfl, rfl, rfl⟩

theorem Dev.tdir_mgmtEnd (d : Dev) (result info i : Nat) : (d.mgmtEnd result info).tdir i = d.tdir i := by
  obtain ⟨hhbm, -⟩ := (d.mgmtFrame_mgmtEnd result info).memory
  exact Blocks.tdir_congr (d.rd_mgmtEnd_other _ _ (by decide) (by decide)) (d.rd_mgmtEnd_other _ _ (by decide) (by decide)) hhbm i

/-- VLT_PORTx_STATUS when the LINK_RETRAIN has ended. -/
theorem Dev.rd_status_ended (d : Dev) (n result : Nat) (v : VaultLink) (wasReset : Bool) :
    ((d.linkRestored n v wasReset).mgmtEnd result 0).rd (Reg.vltPortStatus n) =
      statusUp (d.rd (Reg.vltPortStatus n)) v (d.vaultLost n || wasReset) := by
  rw [Dev.rd_mgmtEnd_other _ _ _ (vltPortStatus_ne n (by decide)) (vltPortStatus_ne n (by decide)), Dev.rd_linkRestored_status]

theorem exec_vaultLinkUp (s : State) {n : Nat} {r : MgmtRun} (v : VaultLink) (wasReset : Bool) (hop : Safety.Operating s) (hn : n < 2)
    (hre : (s.dev.vport n).retraining = true) (hrun : s.dev.RetrainRuns n r) (hwait : Safety.NoTileWaiters s) (hw : 0 < v.width) :
    exec (.vaultLinkUp n v wasReset) s = .next (s.onDev ((s.dev.linkRestored n v wasReset).mgmtEnd 0 0)) := by
  have hframe := s.dev.vaultFrame_linkRestored n v wasReset
  have hunwaited := (hframe.unwaited (Dev.unwaited_of_noTileWaiters hwait)).of_mgmtFrame (Dev.mgmtFrame_mgmtEnd _ 0 0)
  have hruns : (s.dev.linkRestored n v wasReset).RetrainRuns n r := ⟨hframe.mgmt ▸ hrun.1, hrun.2⟩
  show execVaultLinkUp n v wasReset s = _
  rw [execVaultLinkUp, Dev.live_running _ _ hop, s.dev.vaultLinkUp_eq n v wasReset hn hre hw hwait, Dev.vaultDone_eq hruns,
    Dev.wake_nil _ hunwaited.1]

/-- The expander kept its contents: queue, transfer and memories stand. -/
theorem linkRestored_kept (s : State) (n : Nat) (v : VaultLink) (hport : n < s.dev.mig.ports.length) :
    (((s.dev.linkRestored n v false).mgmtEnd 0 0).vport n).queue = (s.dev.vport n).queue ∧
    (((s.dev.linkRestored n v false).mgmtEnd 0 0).vport n).running = (s.dev.vport n).running ∧
    Safety.SameMemory s (s.onDev ((s.dev.linkRestored n v false).mgmtEnd 0 0)) := by
  have hvport := s.dev.vport_linkRestored n v false hport
  rw [if_neg Bool.false_ne_true] at hvport
  have hframe := s.dev.vaultFrame_linkRestored n v false
  obtain ⟨hhbm, hvault, hloc, hhost⟩ := ((s.dev.linkRestored n v false).mgmtFrame_mgmtEnd 0 0).memory
  have hlink : s.dev.linkRestored n v false = s.dev.linkTrained n v (s.dev.vaultLost n || false) := if_neg Bool.false_ne_true
  refine ⟨by rw [Dev.vport_mgmtEnd, hvport], by rw [Dev.vport_mgmtEnd, hvport], fun a => ?_⟩
  rw [State.onDev_dev, hhbm, hvault, hloc, hhost, hframe.loc, hframe.hostMem, hlink, Dev.linkTrained_hbm, Dev.linkTrained_vault]
  exact ⟨rfl, rfl, rfl, rfl⟩

/-- The directory entry of a tile once the transfer is given up. -/
theorem Dev.tdir_reset (d : Dev) (n : Nat) (v : VaultLink) {x : Xfer} (hport : n < d.mig.ports.length) (h : (d.vport n).running = some x) (i : Nat) :
    ((d.linkRestored n v true).mgmtEnd 0 0).tdir i = ((d.linkTrained n v (d.vaultLost n || true)).giveUp x).tdir i := by
  have hrunning : ((d.linkTrained n v (d.vaultLost n || true)).vport n).running = some x := by rw [d.vport_linkTrained n v _ hport, h]
  rw [Dev.tdir_mgmtEnd, Dev.linkRestored, if_pos rfl, Dev.tdir_expanderReset, Dev.tdir_abortTransfers _ n hrunning]

theorem Dev.tileIn_linkTrained (d : Dev) (n f : Nat) (v : VaultLink) (lost : Bool) : (d.linkTrained n v lost).tileIn f = d.tileIn f := by
  show tabGet 0 (Dev.clockUp _ _).mig.frames f - 1 = _
  rw [Dev.clockUp_mig, Dev.clockUp_mig, Dev.wr_mig, Blocks.tileIn]

theorem Dev.frameOf_linkTrained (d : Dev) (n i : Nat) (v : VaultLink) (lost : Bool) : (d.linkTrained n v lost).frameOf i = d.frameOf i := by
  rw [Blocks.frameOf, Dev.tdir_linkTrained, Blocks.frameOf]

theorem Dev.entryIn_linkTrained (d : Dev) (n : Nat) {i : Nat} (v : VaultLink) (lost : Bool) (hi : d.EntryIn i) :
    (d.linkTrained n v lost).EntryIn i := by
  show (d.linkTrained n v lost).rd Reg.migTdirBase + 8 * i + 8 ≤ directSize
  rwa [d.rd_linkTrained_other n v lost (by decide) (vltPortStatus_ne n (by decide)).symm]

/-- A fetch whose expander was reset leaves its tile away. -/
theorem reset_ends_fetch (d : Dev) (n : Nat) (v : VaultLink) {x : Xfer} (hport : n < d.mig.ports.length) (h : (d.vport n).running = some x)
    (hi : d.EntryIn x.tile) (hwb : x.writeback = false) (hframe : d.tileIn (d.frameOf x.tile) = x.tile) :
    ((d.linkRestored n v true).mgmtEnd 0 0).resident x.tile = false ∧ ((d.linkRestored n v true).mgmtEnd 0 0).fetching x.tile = false := by
  have htdir := Dev.tdir_giveUp_fetch _ x (d.entryIn_linkTrained n v (d.vaultLost n || true) hi) hwb
    (by rw [Dev.frameOf_linkTrained, Dev.tileIn_linkTrained, hframe])
  rw [Blocks.resident, Blocks.fetching, d.tdir_reset n v hport h, htdir, bitOf_setBits, bitOf_setBits, if_pos (by decide), if_pos (by decide)]
  exact ⟨rfl, rfl⟩

/-- A write-back whose expander was reset leaves its tile where it was, and dirty. -/
theorem reset_ends_writeback (d : Dev) (n : Nat) (v : VaultLink) {x : Xfer} (hport : n < d.mig.ports.length) (h : (d.vport n).running = some x)
    (hi : d.EntryIn x.tile) (hwb : x.writeback = true) :
    ((d.linkRestored n v true).mgmtEnd 0 0).resident x.tile = d.resident x.tile ∧ ((d.linkRestored n v true).mgmtEnd 0 0).dirty x.tile = true := by
  have htdir := Dev.tdir_giveUp_writeback _ x (d.entryIn_linkTrained n v (d.vaultLost n || true) hi) hwb
  rw [Blocks.resident, Blocks.dirty, d.tdir_reset n v hport h, htdir, Dev.tdir_linkTrained]
  constructor
  · rw [bitOf_setBits, if_neg (by decide), bitOf_setBits, if_neg (by decide), bitOf_setBits, if_neg (by decide), Blocks.resident]
  · rw [bitOf_setBits, if_pos (by decide)]
    rfl

/-- Without a transfer HBM stands. -/
theorem reset_keeps_hbm (d : Dev) (n : Nat) (v : VaultLink) (hport : n < d.mig.ports.length) (h : (d.vport n).running = none) :
    ((d.linkRestored n v true).mgmtEnd 0 0).hbm = d.hbm := by
  obtain ⟨hhbm, -⟩ := ((d.linkRestored n v true).mgmtFrame_mgmtEnd 0 0).memory
  have hrunning : ((d.linkTrained n v (d.vaultLost n || true)).vport n).running = none := by rw [d.vport_linkTrained n v _ hport, h]
  rw [hhbm, Dev.linkRestored, if_pos rfl, Dev.expanderReset_hbm, Dev.abortTransfers_none _ n hrunning, Dev.modVport_hbm, Dev.linkTrained_hbm]

/-- VAULT_LINK_UP that ends a LINK_RETRAIN. -/
theorem vaultLinkUp_ends (s : State) (n : Nat) (r : MgmtRun) (hop : Safety.Operating s) (hn : n < 2)
    (hre : (s.dev.vport n).retraining = true) (hrun : s.dev.RetrainRuns n r) (hwait : Safety.NoTileWaiters s) (v : VaultLink) (wasReset : Bool)
    (hw : 0 < v.width) (hw' : v.width < 32) : Safety.Gives (.vaultLinkUp n v wasReset) s (fun t =>
      t.dev.vaultUp n = true ∧ t.dev.fld (Reg.vltPortStatus n) 8 4 = v.width ∧ t.dev.vaultLost n = (s.dev.vaultLost n || wasReset) ∧
      (t.dev.vport n).retraining = false ∧ Safety.MgmtEnded t 0 ∧ t.dev.loc = s.dev.loc ∧
      (wasReset = false → (t.dev.vport n).queue = (s.dev.vport n).queue ∧ (t.dev.vport n).running = (s.dev.vport n).running ∧
        Safety.SameMemory s t) ∧
      (wasReset = true → (t.dev.vport n).queue = [] ∧ (t.dev.vport n).running = none ∧
        ((s.dev.vport n).running = none → t.dev.hbm = s.dev.hbm) ∧
        ∀ x, (s.dev.vport n).running = some x → Safety.EntryPlaced s x.tile →
          (x.writeback = false → s.dev.tileIn (s.dev.frameOf x.tile) = x.tile → t.dev.resident x.tile = false ∧ t.dev.fetching x.tile = false) ∧
          (x.writeback = true → t.dev.resident x.tile = s.dev.resident x.tile ∧ t.dev.dirty x.tile = true))) := by
  have hport := Dev.vport_lt_of_retraining hre
  have hstatus := s.dev.rd_status_ended n 0 v wasReset
  have hframe := s.dev.vaultFrame_linkRestored n v wasReset
  have hvport : ((s.dev.linkRestored n v wasReset).mgmtEnd 0 0).vport n = _ :=
    (Dev.vport_mgmtEnd _ 0 0 n).trans (s.dev.vport_linkRestored n v wasReset hport)
  obtain ⟨-, -, hloc, -⟩ := ((s.dev.linkRestored n v wasReset).mgmtFrame_mgmtEnd 0 0).memory
  refine ⟨_, exec_vaultLinkUp s v wasReset hop hn hre hrun hwait hw, ?_, ?_, ?_, ?_,
    Dev.mgmtEnd_ended _ 0 0 (by rw [hframe.mgmt]; exact hrun.1) (by decide) s.pending, hloc.trans hframe.loc, ?_, ?_⟩
  · rw [State.onDev_dev, Blocks.vaultUp, Blocks.flag, hstatus, statusUp_up]
  · rw [State.onDev_dev, Blocks.fld, hstatus, statusUp_width _ _ _ hw']
  · rw [State.onDev_dev, Blocks.vaultLost, Blocks.flag, hstatus, statusUp_lost]
  · rw [State.onDev_dev, hvport]
    cases wasReset <;> rfl
  · intro hkept
    subst hkept
    exact linkRestored_kept s n v hport
  · intro hreset
    subst hreset
    rw [if_pos rfl] at hvport
    refine ⟨by rw [State.onDev_dev, hvport], by rw [State.onDev_dev, hvport], reset_keeps_hbm s.dev n v hport, fun x hx hi =>
      ⟨reset_ends_fetch s.dev n v hport hx hi, reset_ends_writeback s.dev n v hport hx hi⟩⟩

/-- VAULT_RETRAIN_TIMEOUT. -/
theorem vaultRetrainTimeout_ends (s : State) (n : Nat) (r : MgmtRun) (hop : Safety.Operating s) (hn : n < 2)
    (hre : (s.dev.vport n).retraining = true) (hrun : s.dev.RetrainRuns n r) : Safety.Gives (.vaultRetrainTimeout n) s (fun t =>
      (t.dev.vport n).retraining = false ∧ (t.dev.vport n).queue = (s.dev.vport n).queue ∧ Safety.MgmtEnded t 0x12 ∧
      Safety.SameRegsBut [Reg.mgmtStatus, Reg.mgmtResultInfo] s t ∧ Safety.SameMemory s t) := by
  have hguard : (decide (2 ≤ n) || !(s.dev.vport n).retraining) = false := by
    rw [hre, decide_eq_false (by omega)]
    rfl
  have hvport : ((s.dev.modVport n (fun p => { p with retraining := false })).mgmtEnd 0x12 0).vport n =
      { s.dev.vport n with retraining := false } := by
    rw [Dev.vport_mgmtEnd, Dev.vport_modVport_same _ _ (Dev.vport_lt_of_retraining hre)]
  obtain ⟨hhbm, hvault, hloc, hhost⟩ := ((s.dev.modVport n (fun p => { p with retraining := false })).mgmtFrame_mgmtEnd 0x12 0).memory
  have hruns : (s.dev.modVport n (fun p => { p with retraining := false })).RetrainRuns n r := hrun
  refine ⟨s.onDev ((s.dev.modVport n (fun p => { p with retraining := false })).mgmtEnd 0x12 0), ?_, by rw [State.onDev_dev, hvport],
    by rw [State.onDev_dev, hvport], Dev.mgmtEnd_ended _ 0x12 0 hruns.1 (by decide) s.pending, fun off hoff => ?_, fun a => ?_⟩
  · show execVaultRetrainTimeout n s = _
    rw [execVaultRetrainTimeout, Dev.live_running _ _ hop, Dev.vaultTimeout, hguard, if_neg Bool.false_ne_true, Dev.vaultDone_eq hruns]
  · simp only [List.mem_cons, List.not_mem_nil, or_false, not_or] at hoff
    obtain ⟨hs, hi⟩ := hoff
    rw [State.onDev_dev, Dev.rd_mgmtEnd_other _ _ _ hs hi]
    rfl
  · rw [State.onDev_dev, hhbm, hvault, hloc, hhost]
    exact ⟨rfl, rfl, rfl, rfl⟩

end Sys2Proof.Machine
end

section
open Sys2Proof Sys2Proof.Machine

/-- Settles O43: each clause is what its event does, and with no access that waits for a tile a change of a link wakes and faults nothing. -/
theorem stagesHintsAndVaultLinks : Obligations.StagesHintsAndVaultLinks := by
  refine ⟨fun s c st rest hop h => ⟨exec_stageAdmission_unfit s hop h, stageAdmission_admits s c st rest hop h⟩,
    fun s l e rest hop h => ⟨fun hx => ?_, fun first n hx => ?_⟩,
    fun s m hop h => ⟨fun hok => ?_, fun hok hcount hexpert => ?_⟩,
    fun d l e => d.localHint_noEntry,
    fun d l e ent h => ⟨d.localHint_disabled h, d.localHint_present h, d.localHint_absent h⟩,
    vaultLinkDown_falls,
    fun s n r hop hn hre hrun hcmd htarget hbegun hwait =>
      ⟨vaultLinkUp_ends s n r hop hn hre ⟨hrun, hcmd, htarget, hbegun⟩ hwait,
        vaultRetrainTimeout_ends s n r hop hn hre ⟨hrun, hcmd, htarget, hbegun⟩⟩⟩
  · rw [exec_hintQueueTake s hop, s.dev.hintQueueTake_eq h, hx]
  · rw [exec_hintQueueTake s hop, s.dev.hintQueueTake_eq h, hx]
  · rw [exec_hintMessage s hop, s.dev.hintMessage_malformed h hok]
  · rw [exec_hintMessage s hop, s.dev.hintMessage_single h hok hcount hexpert]

end

section
/-! The reservation counter of a context that does not exist (R139, Table 5.10): the map has 64 of them, and the offset of one further on is
another register's. -/

namespace Sys2Proof.Machine

/-- A STEP granted for a context far beyond 63: what `Reg.migKvReserved` gives for it is the offset of HBM_CNT_READ of stack 0. -/
def strayStep : Job := { ring := 0, seq := 0, ctx := 0x7FDE0, cmd := [2] }

theorem migKvReserved_strayStep : Reg.migKvReserved strayStep.ctx = Reg.hbmCntRead 0 := rfl

/-- The STEP on a block of two devices whose engines are enabled. Its layer's descriptor lies at address 0 (quota 1, 32 bytes a row), and so does
the directory, whose only entry, the descriptor's first 32 bytes, has its home at the other device; the slot records lie elsewhere. -/
def strayState : State :=
  { dev := { regs := [(Reg.reCtrl 0, 1), (Reg.reCtrl 1, 1), (Reg.reCtrl 2, 1), (Reg.reCtrl 3, 1), (Reg.fabRtBlock, 0x10000),
                      (Reg.migKvSeqBase, 0x100000)],
             hbm := [(4, 1), (12, 32), (14, 32)], jobs := [strayStep] },
    pending := [] }

theorem granted_strayStep : Safety.Granted strayState 0 0 2 strayStep := by decide

theorem instanceReads_strayState : ∀ i, i < 4 → Safety.InstanceReads strayState 0 i := by decide

/-- The counter of the reads from stack 0 after a command. -/
def stackReads : Host.Outcome State Fault Refusal → Nat
  | .next t => t.dev.rd (Reg.hbmCntRead 0)
  | _ => 0

/-- The engines' reads of their descriptors and directories are counted. -/
theorem stackReads_strayState : strayState.dev.rd (Reg.hbmCntRead 0) = 0 ∧ stackReads (exec (.step 0 0 {}) strayState) = 8 := by decide

end Sys2Proof.Machine
end

section
open Sys2Proof Sys2Proof.Machine

/-- Refutes O36: nothing in it keeps the context of a STEP without a batch change list below 64, and for the one of `strayStep` the register that it
says keeps the value of MIG_KV_RESERVED is a counter of the HBM reads that the layer's start makes. -/
theorem not_programsAndLayersStart : ¬ Obligations.ProgramsAndLayersStart := by
  rintro ⟨-, hstep⟩
  obtain ⟨hstarts, -, -⟩ := hstep strayState 0 0 {} strayStep granted_strayStep (by decide) (by decide) (by decide) rfl
  obtain ⟨t, hexec, -, -, -, -, -, -, hreserved, -⟩ := hstarts [] (.inl ⟨by decide, rfl⟩) instanceReads_strayState
  obtain ⟨hbefore, hafter⟩ := stackReads_strayState
  rw [hexec, stackReads] at hafter
  rw [migKvReserved_strayStep, hbefore, hafter] at hreserved
  exact absurd hreserved (by decide)

end

section
/-! The capacity pass (R47): what every choice keeps, and that no expert takes more pairs than CAP_QUOTA. -/

namespace Sys2Proof.Machine

/-- The pairs granted to an expert. -/
def Capacity.pairsOf (c : Capacity) (e : Nat) : Nat := (c.choices.filter (fun x => x.expert = e)).length

/-- Every expert has been charged for its pairs, and none is over the quota. -/
def Capacity.Within (c : Capacity) (quota : Nat) : Prop := ∀ e, c.pairsOf e = tabGet 0 c.used e ∧ c.pairsOf e ≤ quota

theorem Capacity.within_empty (quota : Nat) : ({} : Capacity).Within quota := fun _ => ⟨rfl, Nat.zero_le _⟩

section
variable {c : Capacity} {quota : Nat} (h : c.Within quota)
include h

/-- Only choices and charges count. -/
theorem Capacity.Within.drop (n : Nat) : ({ c with dropped := n } : Capacity).Within quota := h

theorem Capacity.Within.divert (n : Nat) : ({ c with diverted := n } : Capacity).Within quota := h

/-- A pair goes to an expert that has room. -/
theorem Capacity.Within.grant (token rank : Nat) (e : Nat × Nat) (hroom : tabGet 0 c.used e.1 < quota) : (c.grant token rank e).Within quota := by
  intro x
  obtain ⟨hcharged, hquota⟩ := h x
  have hpairs : (c.grant token rank e).pairsOf x = c.pairsOf x + if e.1 = x then 1 else 0 := by
    rw [Capacity.pairsOf, Capacity.grant, List.filter_append, List.length_append, Capacity.pairsOf]
    by_cases hx : e.1 = x <;> simp [hx]
  by_cases hx : e.1 = x
  · subst hx
    rw [hpairs, if_pos rfl, hcharged]
    exact ⟨(tabGet_tabSet_same _ _ _ _).symm, hroom⟩
  · rw [hpairs, if_neg hx, Nat.add_zero]
    refine ⟨hcharged.trans ?_, hquota⟩
    rw [Capacity.grant, tabGet_tabSet_other _ _ _ _ _ (Ne.symm hx)]

end

/-- A choice is granted, diverted or dropped. -/
theorem Capacity.Within.choose {c : Capacity} {l : Layer} (h : c.Within l.quota) (r : Nat) (t : Nat × List (Nat × Nat)) :
    (l.choose r c t).Within l.quota := by
  unfold Layer.choose
  split
  · exact h
  · next e _ =>
    split
    · next hroom => exact h.grant _ _ _ hroom
    · split
      · exact h.drop _
      · dsimp only
        split
        · next x hx =>
          have hroom := List.find?_some hx
          rw [Bool.and_eq_true, decide_eq_true_eq] at hroom
          exact (h.divert _).grant _ _ _ hroom.1
        · exact h.drop _

/-- What a step keeps for every element of a list, the fold keeps. -/
theorem foldl_keeps_mem {α β : Type} (P : β → Prop) {f : β → α → β} (xs : List α) (hf : ∀ b, ∀ a ∈ xs, P b → P (f b a)) {b : β} (h : P b) :
    P (xs.foldl f b) := by
  induction xs generalizing b with
  | nil => exact h
  | cons x xs ih => exact ih (fun b a ha => hf b a (List.mem_cons_of_mem x ha)) (hf b x List.mem_cons_self h)

/-- What a step keeps, a fold of it keeps. -/
theorem foldl_keeps {α β : Type} (P : β → Prop) {f : β → α → β} (hf : ∀ b a, P b → P (f b a)) (xs : List α) {b : β} (h : P b) :
    P (xs.foldl f b) := foldl_keeps_mem P xs (fun b a _ => hf b a) h

theorem Layer.within_capacity (l : Layer) (ranked : List (Nat × List (Nat × Nat))) : (l.capacity ranked).Within l.quota :=
  foldl_keeps (fun c : Capacity => c.Within l.quota)
    (fun _ r h => foldl_keeps (fun c : Capacity => c.Within l.quota) (fun _ t h => h.choose r t) ranked h) _ (Capacity.within_empty l.quota)

end Sys2Proof.Machine
end

section
/-! Segments (R49 to R51): a stable sort by destination, one segment for each destination. -/

namespace Sys2Proof.Machine

theorem insertBy_perm {α : Type} (before : α → α → Bool) (x : α) (ys : List α) : (insertBy before x ys).Perm (x :: ys) := by
  induction ys with
  | nil => exact .refl _
  | cons y ys ih =>
    rw [insertBy]
    split
    · exact .refl _
    · exact (ih.cons y).trans (.swap x y ys)

theorem sortBy_perm {α : Type} (before : α → α → Bool) (xs : List α) : (sortBy before xs).Perm xs := by
  induction xs with
  | nil => exact .refl _
  | cons x xs ih => exact (insertBy_perm _ x _).trans (ih.cons x)

/-- A sort by an order in which a key comes first leaves the keys rising. -/
theorem sortBy_pairwise {α : Type} {before : α → α → Bool} (key : α → Nat) (hlt : ∀ a b, before a b = true → key a ≤ key b)
    (hge : ∀ a b, before a b = false → key b ≤ key a) (xs : List α) : (sortBy before xs).Pairwise (fun a b => key a ≤ key b) := by
  have hinsert (x : α) (ys : List α) (h : ys.Pairwise (fun a b => key a ≤ key b)) :
      (insertBy (fun a b => !before b a) x ys).Pairwise (fun a b => key a ≤ key b) := by
    induction ys with
    | nil => exact List.pairwise_singleton _ _
    | cons y ys ih =>
      obtain ⟨hy, hys⟩ := List.pairwise_cons.mp h
      rw [insertBy]
      split
      · next hxy =>
        have hle : key x ≤ key y := hge _ _ (by simpa using hxy)
        exact List.pairwise_cons.mpr ⟨List.forall_mem_cons.mpr ⟨hle, fun z hz => Nat.le_trans hle (hy z hz)⟩, h⟩
      · next hyx =>
        have hle : key y ≤ key x := hlt _ _ (by simpa using hyx)
        refine List.pairwise_cons.mpr ⟨fun z hz => ?_, ih hys⟩
        rcases List.mem_cons.mp ((insertBy_perm _ x ys).mem_iff.mp hz) with rfl | hz
        · exact hle
        · exact hy z hz
  induction xs with
  | nil => exact List.Pairwise.nil
  | cons x xs ih => exact hinsert x _ ih

/-- The distinct values of a rising list rise strictly. -/
theorem eraseDups_pairwise (xs : List Nat) (h : xs.Pairwise (· ≤ ·)) : xs.eraseDups.Pairwise (· < ·) := by
  induction hn : xs.length using Nat.strong_induction_on generalizing xs with
  | _ n ih =>
    cases xs with
    | nil => exact List.Pairwise.nil
    | cons x xs =>
      obtain ⟨hx, hxs⟩ := List.pairwise_cons.mp h
      have hlen := List.length_filter_le (fun y => !y == x) xs
      rw [List.length_cons] at hn
      rw [List.eraseDups_cons]
      refine List.pairwise_cons.mpr ⟨fun y hy => ?_, ih _ (by omega) _ (hxs.filter _) rfl⟩
      obtain ⟨hmem, hne⟩ := List.mem_filter.mp (List.mem_eraseDups.mp hy)
      have := hx y hmem
      have : y ≠ x := by simpa using hne
      omega

/-- A list cut by the values of a key holds what it held. -/
theorem flatMap_filter_perm {α : Type} (key : α → Nat) (ps : List Nat) (hps : ps.Nodup) (xs : List α) (hxs : ∀ x ∈ xs, key x ∈ ps) :
    (ps.flatMap (fun p => xs.filter (fun x => key x = p))).Perm xs := by
  induction ps generalizing xs with
  | nil =>
    cases xs with
    | nil => exact .refl _
    | cons x xs => simpa using hxs x (by simp)
  | cons p ps ih =>
    obtain ⟨hp, hnodup⟩ := List.nodup_cons.mp hps
    have hothers : ps.flatMap (fun q => xs.filter (fun x => key x = q)) =
        ps.flatMap (fun q => (xs.filter (fun x => !decide (key x = p))).filter (fun x => key x = q)) := by
      refine List.flatMap_congr fun q hq => ?_
      rw [List.filter_filter]
      refine List.filter_congr fun x _ => ?_
      by_cases hx : key x = q
      · have hne : q ≠ p := fun e => hp (e ▸ hq)
        simp [hx, hne]
      · simp [hx]
    rw [List.flatMap_cons, hothers]
    refine (List.Perm.append_left _ (ih hnodup _ fun x hx => ?_)).trans (List.filter_append_perm _ xs)
    obtain ⟨hmem, hne⟩ := List.mem_filter.mp hx
    exact (List.mem_cons.mp (hxs x hmem)).resolve_left (by simpa using hne)

section
variable (l : Layer) (me : Nat) (cs : List Choice)

/-- The destination of a pair. -/
def Layer.destOf (c : Choice) : Nat := l.homeOf me c.expert

theorem Layer.sortPairs_pairwise : (l.sortPairs me cs).Pairwise (fun a b => l.destOf me a ≤ l.destOf me b) := by
  refine sortBy_pairwise (l.destOf me) (fun a b h => ?_) (fun a b h => ?_) cs
  · rw [Bool.or_eq_true, Bool.and_eq_true, decide_eq_true_eq, decide_eq_true_eq] at h
    rcases h with h | ⟨h, -⟩
    · exact Nat.le_of_lt h
    · exact Nat.le_of_eq h
  · rw [Bool.or_eq_false_iff, decide_eq_false_iff_not] at h
    exact Nat.le_of_not_lt h.1

/-- The destinations that some pair has. -/
def Layer.dests : List Nat := ((l.sortPairs me cs).map (l.destOf me)).eraseDups

/-- The segment for a destination. -/
def Layer.segmentTo (p : Nat) : Segment :=
  ⟨p, ((l.sortPairs me cs).filter (fun c => l.destOf me c = p)).map (fun c => ⟨c.token, c⟩)⟩

theorem Layer.segments_eq : l.segments me cs = (l.dests me cs).map (l.segmentTo me cs) := rfl

theorem Layer.segments_peers : (l.segments me cs).map (fun s => s.peer) = l.dests me cs := by
  rw [l.segments_eq, List.map_map]
  exact List.map_id _

theorem Layer.dests_pairwise : (l.dests me cs).Pairwise (· < ·) :=
  eraseDups_pairwise _ (List.pairwise_map.mpr (l.sortPairs_pairwise me cs))

theorem Layer.segments_pairs : ((l.segments me cs).flatMap (fun s => s.rows.map (fun r => r.pair))).Perm cs := by
  have hpairs : (l.segments me cs).flatMap (fun s => s.rows.map (fun r => r.pair)) =
      (l.dests me cs).flatMap (fun p => (l.sortPairs me cs).filter (fun c => l.destOf me c = p)) := by
    rw [l.segments_eq, List.flatMap_map]
    refine List.flatMap_congr fun p _ => ?_
    rw [Layer.segmentTo, List.map_map]
    exact List.map_id _
  rw [hpairs]
  refine (flatMap_filter_perm _ _ (nodup_eraseDups _) _ fun c hc => ?_).trans (sortBy_perm _ cs)
  exact List.mem_eraseDups.mpr (List.mem_map_of_mem hc)

theorem Layer.segmentTo_rows {p : Nat} (hp : p ∈ l.dests me cs) : (l.segmentTo me cs p).rows ≠ [] ∧
    ∀ r ∈ (l.segmentTo me cs p).rows, l.homeOf me r.pair.expert = p ∧ r.gather = r.pair.token := by
  constructor
  · obtain ⟨c, hc, rfl⟩ := List.mem_map.mp (List.mem_eraseDups.mp hp)
    exact List.ne_nil_of_mem (List.mem_map_of_mem (List.mem_filter.mpr ⟨hc, decide_eq_true rfl⟩))
  · intro r hr
    obtain ⟨c, hc, rfl⟩ := List.mem_map.mp hr
    exact ⟨of_decide_eq_true (List.mem_filter.mp hc).2, rfl⟩

end

end Sys2Proof.Machine
end

section
/-! An engine that acts (log entry 21): a command whose engine misses no part of an access does its work at once. -/

namespace Sys2Proof.Machine

/-- The device as the engine of a command finds it: nothing has been served for it, nothing is missing. -/
def Dev.acting (d : Dev) (ecc : Ecc) : Dev := { d with mig := { d.mig with now := { bad := ecc.badHbm } } }

/-- The device when the engine has done: what it knew of its accesses is forgotten. -/
def Dev.acted (d : Dev) (now : EngineNow) : Dev := { d with mig := { d.mig with now := now } }

theorem Dev.act_of_need (d : Dev) (c : Instr) (ecc : Ecc) (f : Dev → Dev) (h : (f (d.acting ecc)).mig.now.need = []) :
    d.act c ecc f = (f (d.acting ecc)).acted d.mig.now := by
  show (if (f (d.acting ecc)).mig.now.need.isEmpty then _ else _) = _
  rw [h]
  rfl

/-- Between commands there is nothing to forget. -/
theorem Dev.acting_idle (d : Dev) (ecc : Ecc) (hnow : d.mig.now = {}) (hecc : ecc.badHbm = none) : d.acting ecc = d := by
  rw [Dev.acting, hecc, ← hnow]

theorem Dev.acted_idle (d : Dev) (h : d.mig.now = {}) : d.acted {} = d := by rw [Dev.acted, ← h]

/-- An engine that leaves nothing behind acts on the device as it is. -/
theorem Dev.act_idle {d e : Dev} (c : Instr) {ecc : Ecc} {f : Dev → Dev} (hnow : d.mig.now = {}) (hecc : ecc.badHbm = none) (hf : f d = e)
    (he : e.mig.now = {}) : d.act c ecc f = e := by
  have hacting : f (d.acting ecc) = e := by rw [d.acting_idle ecc hnow hecc, hf]
  rw [d.act_of_need c ecc f (by rw [hacting, he]), hacting, hnow, e.acted_idle he]

end Sys2Proof.Machine
end

section
/-! What an engine's access leaves alone: every block but HBM, registers, carats, the migration engine, the pools, Filigree and the sharers of
lines. -/

namespace Sys2Proof.Machine

/-- Device e is device d but for what an access can change. -/
def Dev.EngineFrame (d e : Dev) : Prop :=
  ∃ hbm regs pwr mig pool fil remote, e = { d with hbm := hbm, regs := regs, pwr := pwr, mig := mig, pool := pool, fil := fil, remote := remote }

theorem Dev.EngineFrame.refl (d : Dev) : d.EngineFrame d := ⟨_, _, _, _, _, _, _, rfl⟩

theorem Dev.EngineFrame.trans {d e f : Dev} (h : d.EngineFrame e) (k : e.EngineFrame f) : d.EngineFrame f := by
  obtain ⟨_, _, _, _, _, _, _, rfl⟩ := h
  obtain ⟨_, _, _, _, _, _, _, rfl⟩ := k
  exact ⟨_, _, _, _, _, _, _, rfl⟩

theorem Dev.EngineFrame.routing {d e : Dev} (h : d.EngineFrame e) : e.routing = d.routing := by
  obtain ⟨_, _, _, _, _, _, _, rfl⟩ := h
  rfl

/-- A fold of steps that stay in the frame. -/
theorem Dev.engineFrame_foldl {α : Type} (f : Dev → α → Dev) (hf : ∀ (d : Dev) a, d.EngineFrame (f d a)) (xs : List α) (d : Dev) :
    d.EngineFrame (xs.foldl f d) := foldl_keeps d.EngineFrame (fun e a h => h.trans (hf e a)) xs (.refl d)

theorem Dev.HbmFrame.engineFrame {d e : Dev} (h : d.HbmFrame e) : d.EngineFrame e := by
  obtain ⟨_, _, _, rfl⟩ := h
  exact ⟨_, _, _, _, _, _, _, rfl⟩

theorem Dev.hbmFrame_bump (d : Dev) (off n : Nat) : d.HbmFrame (d.bump off n) := ⟨_, _, _, rfl⟩

theorem Dev.hbmFrame_askCarats (d : Dev) (req need : Nat) (ctx : Option Nat) : d.HbmFrame (d.askCarats req need ctx) := by
  obtain ⟨_, h⟩ := d.askCarats_eq req need ctx
  rw [h]
  exact ⟨_, _, _, rfl⟩

theorem Dev.hbmFrame_foldl {α : Type} (f : Dev → α → Dev) (hf : ∀ (d : Dev) a, d.HbmFrame (f d a)) (xs : List α) (d : Dev) :
    d.HbmFrame (xs.foldl f d) := foldl_keeps d.HbmFrame (fun e a h => h.trans (hf e a)) xs (.refl d)

theorem Dev.hbmFrame_touch (d : Dev) (a n : Nat) (store : Bool) : d.HbmFrame (d.touch a n store) := by
  unfold Dev.touch
  split
  · refine Dev.hbmFrame_foldl _ (fun e i => ?_) _ d
    dsimp only
    split
    · exact (e.hbmFrame_setTdir i _).trans (Dev.hbmFrame_setTdir _ i _)
    · exact e.hbmFrame_setTdir i _
  · exact .refl d

/-- The accesses of one stack are counted. -/
def Dev.countStack (d : Dev) (e : Dev) (a n : Nat) (store : Bool) (quad : Option Nat) (s : Nat) : Dev :=
  if d.lines a n s = 0 then e else
  let e := (e.askCarats (576 + s) 8 none).bump (if store then Reg.hbmCntWrite s else Reg.hbmCntRead s) (d.lines a n s)
  if quad = some (s / 2) && partOf a = .direct then e else e.bump (Reg.hbmCntCross s) (d.lines a n s)

theorem Dev.countHbm_eq (d : Dev) (a n : Nat) (store : Bool) (quad : Option Nat) :
    d.countHbm a n store quad = if n = 0 then d else (List.range 8).foldl (fun e s => d.countStack e a n store quad s) d := rfl

theorem Dev.hbmFrame_countStack (d e : Dev) (a n : Nat) (store : Bool) (quad : Option Nat) (s : Nat) :
    e.HbmFrame (d.countStack e a n store quad s) := by
  have hcount := (e.hbmFrame_askCarats (576 + s) 8 none).trans
    (Dev.hbmFrame_bump _ (if store then Reg.hbmCntWrite s else Reg.hbmCntRead s) (d.lines a n s))
  unfold Dev.countStack
  split
  · exact .refl e
  · dsimp only
    split
    · exact hcount
    · exact hcount.trans (Dev.hbmFrame_bump _ _ _)

theorem Dev.hbmFrame_countHbm (d : Dev) (a n : Nat) (store : Bool) (quad : Option Nat) : d.HbmFrame (d.countHbm a n store quad) := by
  rw [d.countHbm_eq]
  split
  · exact .refl d
  · exact Dev.hbmFrame_foldl _ (fun e s => d.hbmFrame_countStack e a n store quad s) _ d

theorem Dev.devPut_eq (d : Dev) (a : Nat) (bs : List Byte) : ∃ hbm, d.devPut a bs = { d with hbm := hbm } := by
  induction bs generalizing d a with
  | nil => exact ⟨_, rfl⟩
  | cons b bs ih =>
    obtain ⟨hbm, h⟩ := ih { d with hbm := memSet d.hbm (hbmKey d.ilv (d.resolve a)) b } (a + 1)
    exact ⟨hbm, h⟩

theorem Dev.hbmFrame_devWrite (d : Dev) (a : Nat) (bs : List Byte) : d.HbmFrame (d.devWrite a bs) := by
  obtain ⟨_, h⟩ := d.devPut_eq a bs
  have hput : d.HbmFrame (d.devPut a bs) := by
    rw [h]
    exact ⟨_, _, _, rfl⟩
  exact hput.trans (Dev.hbmFrame_touch _ _ _ _)

theorem Dev.filSend_eq (d : Dev) (typ key sub : Nat) (data : List Byte) (dest : Nat) :
    ∃ fil, d.filSend typ key sub data dest = { d with fil := fil } := by
  unfold Dev.filSend
  dsimp only
  split <;> exact ⟨_, rfl⟩

theorem Dev.engineFrame_filBroadcast (d : Dev) (typ key sub : Nat) (data : List Byte) : d.EngineFrame (d.filBroadcast typ key sub data) := by
  refine Dev.engineFrame_foldl _ (fun e i => ?_) _ d
  split
  · exact .refl e
  · obtain ⟨_, h⟩ := e.filSend_eq typ key sub data i
    rw [h]
    exact ⟨_, _, _, _, _, _, _, rfl⟩

theorem Dev.engineFrame_touchPage (d : Dev) (page : Nat) : d.EngineFrame (d.touchPage page) := by
  unfold Dev.touchPage
  split
  · exact .refl d
  · exact Dev.EngineFrame.trans ⟨_, _, _, _, _, _, _, rfl⟩ (Dev.engineFrame_filBroadcast _ _ _ _ _)

theorem Dev.engineFrame_devStore (d : Dev) (a : Nat) (bs : List Byte) (quad : Option Nat) : d.EngineFrame (d.devStore a bs quad) :=
  (Dev.engineFrame_foldl _ Dev.engineFrame_touchPage _ d).trans
    ((Dev.hbmFrame_devWrite _ a bs).trans (Dev.hbmFrame_countHbm _ _ _ _ _)).engineFrame

theorem Dev.engineFrame_needParts (d : Dev) (ctx : Option Nat) (store : Option (List Byte)) (ps : List (Nat × Nat)) :
    d.EngineFrame (d.needParts ctx store ps) := ⟨_, _, _, _, _, _, _, rfl⟩

theorem Dev.engineFrame_engineRead (d : Dev) (ctx : Option Nat) (a n : Nat) : d.EngineFrame (d.engineRead ctx a n).2 := by
  unfold Dev.engineRead
  dsimp only
  split
  · exact ((d.hbmFrame_touch a n false).trans (Dev.hbmFrame_countHbm _ _ _ _ _)).engineFrame
  · exact d.engineFrame_needParts _ _ _

theorem Dev.engineFrame_enginePiece (d : Dev) (ctx : Option Nat) (a : Nat) (bs : List Byte) : d.EngineFrame (d.enginePiece ctx a bs) := by
  unfold Dev.enginePiece
  split
  · exact .refl d
  · split
    · exact d.engineFrame_devStore _ _ _
    · exact d.engineFrame_needParts _ _ _

theorem Dev.engineFrame_engineWrite (d : Dev) (ctx : Option Nat) (a : Nat) (bs : List Byte) : d.EngineFrame (d.engineWrite ctx a bs) := by
  unfold Dev.engineWrite
  split
  · exact .refl d
  · exact Dev.engineFrame_foldl _ (fun e p => e.engineFrame_enginePiece _ _ _) _ d

/-- A read that does not fault. -/
theorem Dev.engineFrame_readFor {d e : Dev} {ctx a n : Nat} {bs : List Byte} (h : d.readFor ctx a n = (some bs, e)) : d.EngineFrame e := by
  unfold Dev.readFor at h
  split at h
  · rw [← (Prod.mk.inj h).2]
    exact .refl d
  · split at h
    · exact absurd (Prod.mk.inj h).1 (by simp)
    · rw [← (Prod.mk.inj h).2]
      exact d.engineFrame_engineRead _ _ _

/-- A store that does not fault. -/
theorem Dev.engineFrame_writeFor {d e : Dev} {ctx a : Nat} {bs : List Byte} (h : d.writeFor ctx a bs = (true, e)) : d.EngineFrame e := by
  unfold Dev.writeFor at h
  split at h
  · rw [← (Prod.mk.inj h).2]
    exact .refl d
  · split at h
    · exact absurd (Prod.mk.inj h).1 (by simp)
    · rw [← (Prod.mk.inj h).2]
      exact d.engineFrame_engineWrite _ _ _

theorem Dev.engineFrame_allocIn (d : Dev) (k p ctx sub : Nat) : d.EngineFrame (d.allocIn k p ctx sub).2 := by
  have hrefused : d.EngineFrame (d.bump Reg.poolCntEmpty 1) := (d.hbmFrame_bump _ _).engineFrame
  unfold Dev.allocIn
  dsimp only
  split
  · exact hrefused
  · split
    · exact hrefused
    · next n _ =>
      have hmap : d.EngineFrame (d.setMapBit k n 1) := ⟨_, _, _, _, _, _, _, rfl⟩
      exact ((hmap.trans (Dev.hbmFrame_putEntry _ _ _).engineFrame).trans (Dev.hbmFrame_bump _ _ _).engineFrame).trans
        ⟨_, _, _, _, _, _, _, rfl⟩

theorem Dev.engineFrame_alloc (d : Dev) (size p ctx sub : Nat) : d.EngineFrame (d.alloc size p ctx sub).2 := by
  unfold Dev.alloc
  split
  · exact (d.hbmFrame_bump _ _).engineFrame
  · exact d.engineFrame_allocIn _ _ _ _

end Sys2Proof.Machine
end

section
/-! RE_PLAN_READY (R44 to R52, R61): what an engine leaves of the layer while it scores and plans, and its three ends. -/

namespace Sys2Proof.Machine

/-- The layer in progress keeps its engines in Keoth-step mode. -/
def Dev.KeepsKeoth (d e : Dev) : Prop := e.routing.layer.map Layer.keoth = d.routing.layer.map Layer.keoth

theorem Dev.KeepsKeoth.of_routing {d e : Dev} (h : e.routing = d.routing) : d.KeepsKeoth e := by rw [Dev.KeepsKeoth, h]

theorem Dev.KeepsKeoth.trans {d e f : Dev} (h : d.KeepsKeoth e) (k : e.KeepsKeoth f) : d.KeepsKeoth f := Eq.trans k h

theorem Dev.keepsKeoth_modLayer (d : Dev) (f : Layer → Layer) (hf : ∀ l, (f l).keoth = l.keoth) : d.KeepsKeoth (d.modLayer f) := by
  rw [Dev.KeepsKeoth, Dev.modLayer, Option.map_map]
  exact congrArg (fun g => d.routing.layer.map g) (funext hf)

theorem Layer.setHalf_keoth (l : Layer) (h : Nat) (x : Half) : (l.setHalf h x).keoth = l.keoth := by
  unfold Layer.setHalf
  split <;> rfl

theorem Dev.keepsKeoth_modRe (d : Dev) (h i : Nat) (f : ReHalf → ReHalf) : d.KeepsKeoth (d.modRe h i f) :=
  d.keepsKeoth_modLayer _ fun l => l.setHalf_keoth h _

theorem Dev.KeepsKeoth.keothRe {d e : Dev} (h : d.KeepsKeoth e) {l m : Layer} (hl : d.routing.layer = some l) (hm : e.routing.layer = some m)
    (i : Nat) : m.keothRe i = l.keothRe i := by
  rw [Dev.KeepsKeoth, hl, hm] at h
  exact congrArg (fun ks => ks.getD i false) (Option.some.inj h)

/-- A token that is scored leaves the layer as it is. -/
theorem Dev.scoreAt_routing {d e : Dev} {l : Layer} {h i t : Nat} {ranks : List (Nat × Nat)} (hs : d.scoreAt l h i t = (some ranks, e)) :
    e.routing = d.routing := by
  unfold Dev.scoreAt at hs
  dsimp only at hs
  split at hs
  · exact absurd (Prod.mk.inj hs).1 (by simp)
  · next hread =>
    have hframe := (Dev.engineFrame_readFor hread).routing
    split at hs
    · rw [← (Prod.mk.inj hs).2, hframe]
    · split at hs
      · rw [← (Prod.mk.inj hs).2, Dev.bump_routing, hframe]
      · exact absurd (Prod.mk.inj hs).1 (by simp)

/-- One more token of a half is scored. -/
def Dev.scoreNext (l : Layer) (h i : Nat) (acc : Option (List (Nat × List (Nat × Nat))) × Dev) (t : Nat) :
    Option (List (Nat × List (Nat × Nat))) × Dev :=
  match acc with
  | (none, d) => (none, d)
  | (some xs, d) =>
    match d.scoreAt l h i t with
    | (some r, d) => (some (xs ++ [(t, r)]), d.bump (Reg.reCntTokens i) 1)
    | (none, d) => (none, d)

theorem Dev.scoreHalf_eq (d : Dev) (l : Layer) (h i : Nat) :
    d.scoreHalf l h i =
      ((List.range ((l.range h i).2 - (l.range h i).1)).map ((l.range h i).1 + ·)).foldl (Dev.scoreNext l h i) (some [], d) := rfl

/-- While no token faulted, the layer is as it was. -/
theorem Dev.scoreNext_routing {d : Dev} {acc : Option (List (Nat × List (Nat × Nat))) × Dev} (l : Layer) (h i t : Nat)
    (hacc : acc.1 ≠ none → acc.2.routing = d.routing) :
    (Dev.scoreNext l h i acc t).1 ≠ none → (Dev.scoreNext l h i acc t).2.routing = d.routing := by
  unfold Dev.scoreNext
  split
  · exact fun hne => absurd rfl hne
  · split
    · next hscore =>
      intro _
      rw [Dev.bump_routing]
      exact (Dev.scoreAt_routing hscore).trans (hacc (by simp))
    · exact fun hne => absurd rfl hne

theorem Dev.scoreHalf_routing {d e : Dev} {l : Layer} {h i : Nat} {ranked : List (Nat × List (Nat × Nat))}
    (hs : d.scoreHalf l h i = (some ranked, e)) : e.routing = d.routing := by
  have hkept := foldl_keeps (fun acc : Option (List (Nat × List (Nat × Nat))) × Dev => acc.1 ≠ none → acc.2.routing = d.routing)
    (fun _ t hacc => Dev.scoreNext_routing l h i t hacc) ((List.range ((l.range h i).2 - (l.range h i).1)).map ((l.range h i).1 + ·))
    (b := (some [], d)) (fun _ => rfl)
  rw [← d.scoreHalf_eq, hs] at hkept
  exact hkept (by simp)

theorem Dev.keepsKeoth_planBuf (d : Dev) (l : Layer) (h i size : Nat) : d.KeepsKeoth (d.planBuf l h i size).2 := by
  have halloc : d.KeepsKeoth (d.alloc size 0 l.ctx (i + 4 * h + 8 * l.number)).2 := .of_routing (d.engineFrame_alloc _ _ _ _).routing
  unfold Dev.planBuf
  dsimp only
  split
  · exact halloc
  · exact halloc.trans (Dev.keepsKeoth_modRe _ _ _ _)

theorem Dev.keepsKeoth_planPut {d e : Dev} {l : Layer} {h i p : Nat} {bs : List Byte} (hp : d.planPut l h i bs = (some p, e)) :
    d.KeepsKeoth e := by
  have hbuf := d.keepsKeoth_planBuf l h i bs.length
  unfold Dev.planPut at hp
  split at hp
  · exact absurd (Prod.mk.inj hp).1 (by simp)
  · next heq =>
    rw [heq] at hbuf
    split at hp
    · next hwrite =>
      rw [← (Prod.mk.inj hp).2]
      exact hbuf.trans (.of_routing (Dev.engineFrame_writeFor hwrite).routing)
    · exact absurd (Prod.mk.inj hp).1 (by simp)

theorem Dev.keepsKeoth_putKeoth {d e : Dev} {l : Layer} {h i : Nat} {sorted : List Choice} (hp : d.putKeoth l h i sorted = (true, e)) :
    d.KeepsKeoth e := by
  unfold Dev.putKeoth at hp
  dsimp only at hp
  split at hp
  · exact absurd (Prod.mk.inj hp).1 (by simp)
  · next f hput =>
    have hbuf := f.keepsKeoth_planBuf l h i (262144 + 2 * f.blockN * (l.slotsOf f.me).length)
    split at hp
    · exact absurd (Prod.mk.inj hp).1 (by simp)
    · next heq =>
      rw [heq] at hbuf
      rw [← (Prod.mk.inj hp).2]
      exact (Dev.keepsKeoth_planPut hput).trans (hbuf.trans (Dev.keepsKeoth_modRe _ _ _ _))

/-- What an engine that has planned its half does next: the last of its device to plan sends the counts (R52). -/
def Dev.afterPlan (d : Dev) (h i : Nat) : Dev :=
  match d.routing.layer with
  | none => d
  | some l => if l.keothRe i || !l.ownPlanned h then d else (d.sendCounts l h).tryMap h

/-- The device's place in its block is two registers' (R39). -/
theorem Dev.me_congr {d e : Dev} (hself : e.rd Reg.fabRtSelf = d.rd Reg.fabRtSelf) (hblock : e.rd Reg.fabRtBlock = d.rd Reg.fabRtBlock) :
    e.me = d.me := by
  simp only [Blocks.me, Blocks.indexOf, Blocks.offs, Blocks.self, Blocks.bx, Blocks.by_, Blocks.fld, hself, hblock]

section
variable {d e : Dev} {l : Layer} {i h : Nat} {ranked : List (Nat × List (Nat × Nat))}

/-- The half of an engine after its scoring, with the counters of its choices. -/
def Dev.countChoices (d : Dev) (i : Nat) (c : Capacity) : Dev := (d.bump (Reg.reCntDropped i) c.dropped).bump (Reg.reCntDiverted i) c.diverted

theorem Dev.me_countChoices (d : Dev) {i : Nat} (hi : i < 4) (c : Capacity) : (d.countChoices i c).me = d.me := by
  have hapart : ∀ off, 0x03000000 ≤ off → (d.countChoices i c).rd off = d.rd off := fun off hoff => by
    rw [Dev.countChoices, Dev.rd_bump_other _ _ (show off ≠ Reg.reCntDiverted i by simp only [Reg.reCntDiverted]; omega),
      Dev.rd_bump_other _ _ (show off ≠ Reg.reCntDropped i by simp only [Reg.reCntDropped]; omega)]
  exact Dev.me_congr (hapart _ (by decide)) (hapart _ (by decide))

/-- RE_PLAN_READY of an engine that scores its half and writes what its mode asks for. -/
theorem Dev.planReady_eq {f : Dev} (hl : d.routing.layer = some l) (hi : i < 4) (hnext : d.nextHalf l i = some h)
    (hscore : (d.modLayer (fun l => { l with half := h })).scoreHalf (l.asRe i) h i = (some ranked, e))
    (hput : (if l.keothRe i then
        (e.countChoices i ((l.asRe i).capacity ranked)).putKeoth (l.asRe i) h i ((l.asRe i).sortPairs e.me ((l.asRe i).capacity ranked).choices)
      else (e.countChoices i ((l.asRe i).capacity ranked)).putPlan (l.asRe i) h i
        ((l.asRe i).segments e.me ((l.asRe i).capacity ranked).choices)) = (true, f)) :
    d.planReady i = (f.modRe h i (fun r => { r with
      planned := true
      choices := (l.asRe i).sortPairs e.me ((l.asRe i).capacity ranked).choices
      ranked := ranked })).afterPlan h i := by
  have hme := e.me_countChoices hi ((l.asRe i).capacity ranked)
  rw [← hme] at hput ⊢
  unfold Dev.planReady
  simp only [hl, if_pos hi, hnext, hscore]
  unfold Dev.countChoices at hput ⊢
  rw [hput]
  rfl

end

end Sys2Proof.Machine
end

section
open Sys2Proof Sys2Proof.Machine

/-- Settles O38: the quota by counting a charge with every grant, the segments as the stable sort by destination cut at its destinations, and
RE_PLAN_READY by its equation; an engine in Keoth-step mode still is when it has planned, so it sends no counts. -/
theorem planHoldsGrantedPairs : Obligations.PlanHoldsGrantedPairs := by
  unfold Obligations.PlanHoldsGrantedPairs
  refine ⟨fun l ranked e => (l.within_capacity ranked e).2,
    fun l me cs => ⟨l.segments_peers me cs ▸ l.dests_pairwise me cs, l.segments_pairs me cs, fun s hs => ?_⟩, ?_⟩
  · rw [l.segments_eq] at hs
    obtain ⟨p, hp, rfl⟩ := List.mem_map.mp hs
    exact l.segmentTo_rows me cs hp
  intro s re h ecc l ranked d e hop hre hnow hecc hl hnext own cap pairs counted done hscore
  have hexec : ∀ f : Dev, s.dev.planReady re = f → f.mig.now = {} → exec (.rePlanReady re ecc) s = .next (s.onDev f) := by
    intro f hf hfnow
    show execRePlanReady re ecc s = _
    rw [execRePlanReady, Dev.live_running _ _ hop, Dev.act_idle _ hnow hecc hf hfnow]
  refine ⟨fun hk hput he => ?_, fun hk hput m hm hmk => ?_⟩
  · have hready : s.dev.planReady re = (done e).afterPlan h re := Dev.planReady_eq hl hre hnext hscore ((if_pos hk).trans hput)
    have hcounted : d.KeepsKeoth counted := .of_routing (by rw [Dev.bump_routing, Dev.bump_routing])
    have hkept : s.dev.KeepsKeoth (done e) :=
      (s.dev.keepsKeoth_modLayer (fun l => { l with half := h }) (fun _ => rfl)).trans
        ((Dev.KeepsKeoth.of_routing (Dev.scoreHalf_routing hscore)).trans
          (hcounted.trans ((Dev.keepsKeoth_putKeoth hput).trans (Dev.keepsKeoth_modRe _ _ _ _))))
    refine hexec _ (hready.trans ?_) he
    unfold Dev.afterPlan
    split
    · rfl
    · next m hm => rw [hkept.keothRe hl hm re, hk, Bool.true_or, if_pos rfl]
  · have hready : s.dev.planReady re = (done e).afterPlan h re :=
      Dev.planReady_eq hl hre hnext hscore ((if_neg (by rw [hk]; simp)).trans hput)
    have hafter : (done e).afterPlan h re = if m.ownPlanned h then ((done e).sendCounts m h).tryMap h else done e := by
      rw [Dev.afterPlan, hm]
      cases hp : m.ownPlanned h <;> simp [hmk, hp]
    refine ⟨fun hp he => hexec _ (hready.trans (hafter.trans ?_)) he, fun hp he => hexec _ (hready.trans (hafter.trans ?_)) he⟩ <;> simp [hp]
end

section
/-! Accesses of engines to the direct part (R123, R127, R129): a checked range is read and stored at once, and only the controllers' counters
and the requests for carats change beside the bytes. -/

namespace Sys2Proof.Machine

/-- Device e is device d but for HBM, the controllers' counters and the requests for carats. -/
def Dev.DirectFrame (d e : Dev) : Prop := d.HbmFrame e ∧ ∀ off, off ∉ Safety.hbmCounters → e.rd off = d.rd off

theorem Dev.DirectFrame.refl (d : Dev) : d.DirectFrame d := ⟨.refl d, fun _ _ => rfl⟩

theorem Dev.DirectFrame.trans {d e f : Dev} (h : d.DirectFrame e) (k : e.DirectFrame f) : d.DirectFrame f :=
  ⟨h.1.trans k.1, fun off hoff => (k.2 off hoff).trans (h.2 off hoff)⟩

/-- Every block but HBM, registers and carats stands. -/
theorem Dev.HbmFrame.blocks {d e : Dev} (h : d.HbmFrame e) : e.routing = d.routing ∧ e.cores = d.cores ∧ e.ctxs = d.ctxs ∧ e.rings = d.rings ∧
    e.jobs = d.jobs ∧ e.loc = d.loc ∧ e.vault = d.vault ∧ e.hostMem = d.hostMem := by
  obtain ⟨_, _, _, rfl⟩ := h
  exact ⟨rfl, rfl, rfl, rfl, rfl, rfl, rfl, rfl⟩

theorem Dev.DirectFrame.ilv {d e : Dev} (h : d.DirectFrame e) : e.ilv = d.ilv := by
  rw [Blocks.ilv, Blocks.ilv, Blocks.flag, Blocks.flag, h.2 _ (by decide)]

/-- The range check goes by registers other than the counters, by the Mount and by the contexts. -/
theorem Dev.DirectFrame.checkRange {d e : Dev} (h : d.DirectFrame e) (a n : Nat) : e.checkRange a n = d.checkRange a n := by
  obtain ⟨hframe, hrd⟩ := h
  have hilv : e.ilv = d.ilv := Dev.DirectFrame.ilv ⟨hframe, hrd⟩
  have hmount : e.mgmt = d.mgmt ∧ e.ctxs = d.ctxs ∧ e.grade = d.grade := by
    obtain ⟨_, _, _, rfl⟩ := hframe
    exact ⟨rfl, rfl, rfl⟩
  obtain ⟨hmgmt, hctxs, hgrade⟩ := hmount
  have hareas : e.protectedAreas = d.protectedAreas := by
    simp only [Blocks.protectedAreas, Blocks.poolFrames, Blocks.fld, Blocks.tiles, Blocks.saveBytes, Blocks.lc, hmgmt, hctxs, hgrade,
      hrd _ (show Reg.migStreamPool ∉ _ by decide), hrd _ (show Reg.migCachePool ∉ _ by decide), hrd _ (show Reg.migTdirBase ∉ _ by decide),
      hrd _ (show Reg.migVaultSize ∉ _ by decide), hrd _ (show Reg.poolTagBase ∉ _ by decide), hrd _ (show Reg.memReplPool ∉ _ by decide)]
  have hstatus : e.stackFailed = d.stackFailed :=
    funext fun s => by rw [Blocks.stackFailed, Blocks.flag, hrd _ (show Reg.glbResetStatus ∉ _ by decide)]; rfl
  have hstack : e.stackOf = d.stackOf := funext fun x => by rw [Blocks.stackOf, hilv]; rfl
  have hfailed : e.failedAt a n = d.failedAt a n := by rw [Blocks.failedAt, Blocks.failedAt, hstatus, hstack, hilv]
  have hon : e.flag Reg.migCtrl 0 = d.flag Reg.migCtrl 0 := by rw [Blocks.flag, hrd _ (show Reg.migCtrl ∉ _ by decide)]; rfl
  rw [Blocks.checkRange, Blocks.checkRange, Blocks.isProtected, Blocks.isProtected, hareas, hfailed, hon,
    hrd _ (show Reg.migVaultSize ∉ _ by decide)]

/-- Addresses of the direct part are those below its size. -/
theorem partOf_direct {a : Nat} : partOf a = .direct ↔ a < directSize := by
  refine ⟨fun h => ?_, fun h => if_pos h⟩
  by_contra hlt
  rw [partOf, if_neg hlt] at h
  split_ifs at h

/-- A checked range of the direct part ends in it. -/
theorem Blocks.direct_fits {b : Blocks} {a n : Nat} (hn : 0 < n) (hpart : partOf a = .direct) (hcheck : b.checkRange a n = none) :
    a + n ≤ directSize := by
  have hlast : partOf (a + n - 1) = .direct := by
    by_contra hne
    rw [Blocks.checkRange, if_pos (Or.inl (by rw [hpart]; exact fun h => hne h.symm))] at hcheck
    exact absurd hcheck (by simp)
  have := partOf_direct.mp hlast
  omega

theorem Blocks.resolve_direct (b : Blocks) {a : Nat} (h : a < directSize) : b.resolve a = a :=
  if_neg (by rw [partOf_direct.mpr h]; decide)

theorem Blocks.allResident_direct (b : Blocks) {a : Nat} (n : Nat) (h : a < directSize) : b.allResident a n = true := by
  rw [Blocks.allResident, partOf_direct.mpr h]
  rfl

theorem tilePieces_direct {a n : Nat} (hn : 0 < n) (h : a < directSize) : tilePieces a n = [(a, n)] := by
  rw [tilePieces, if_neg (by omega), if_pos (by rw [partOf_direct.mpr h]; decide)]

theorem Dev.touch_direct (d : Dev) {a : Nat} (n : Nat) (store : Bool) (h : a < directSize) : d.touch a n store = d :=
  if_neg (by rw [partOf_direct.mpr h]; decide)

/-- Bytes of the direct part are read where they lie. -/
theorem Blocks.devRead_direct (b : Blocks) {a n : Nat} (h : a + n ≤ directSize) : b.devRead a n = b.dirRead a n :=
  List.map_congr_left fun i hi => by rw [b.resolve_direct (by have := List.mem_range.mp hi; omega)]

theorem Blocks.currentBytes_direct (b : Blocks) {a n : Nat} (h : a + n ≤ directSize) : b.currentBytes a n = b.dirRead a n :=
  List.map_congr_left fun i hi => by
    have hlt : a + i < directSize := by
      have := List.mem_range.mp hi
      omega
    rw [Blocks.currentByte, if_pos (b.allResident_direct 1 hlt), b.resolve_direct hlt]

theorem Dev.devPut_direct (d : Dev) (a : Nat) (bs : List Byte) (h : a + bs.length ≤ directSize) : d.devPut a bs = d.dirWrite a bs := by
  induction bs generalizing d a with
  | nil => rfl
  | cons b bs ih =>
    rw [List.length_cons] at h
    rw [Dev.devPut, Dev.dirWrite, d.resolve_direct (by omega)]
    exact ih _ (a + 1) (by omega)

/-- A range that does not meet the MEM_EXPORT window touches no unit of it. -/
theorem Blocks.windowUnits_apart (b : Blocks) (size : Nat) {a n : Nat} (h : overlaps a n (b.rd Reg.memExportBase) b.exportBytes = false) :
    b.windowUnits size a n = [] := by
  have hempty : (b.windowPart a n).2 = 0 := by
    simp only [overlaps, Bool.and_eq_false_iff, decide_eq_false_iff_not] at h
    simp only [Blocks.windowPart]
    omega
  rw [Blocks.windowUnits]
  exact if_pos hempty

theorem Blocks.sharedLines_apart (b : Blocks) {a n : Nat} (h : overlaps a n (b.rd Reg.memExportBase) b.exportBytes = false) :
    b.sharedLines a n = [] := by
  rw [Blocks.sharedLines, b.windowUnits_apart 64 h, List.filter_nil, ite_self]

theorem hbmCntRead_mem {s : Nat} (h : s < 8) : Reg.hbmCntRead s ∈ Safety.hbmCounters :=
  List.mem_flatMap.mpr ⟨s, List.mem_range.mpr h, by simp⟩

theorem Dev.countStack_hbm (d e : Dev) (a n : Nat) (store : Bool) (quad : Option Nat) (s : Nat) :
    (d.countStack e a n store quad s).hbm = e.hbm := by
  unfold Dev.countStack
  dsimp only
  split_ifs <;> simp only [Dev.bump_hbm, Dev.askCarats_hbm]

theorem Dev.rd_countStack (d e : Dev) (a n : Nat) (store : Bool) (quad : Option Nat) {s off : Nat} (hs : s < 8)
    (h : off ∉ Safety.hbmCounters) : (d.countStack e a n store quad s).rd off = e.rd off := by
  have hcross : off ≠ Reg.hbmCntCross s := fun heq => h (heq ▸ hbmCntCross_mem hs)
  have hcount : off ≠ (if store then Reg.hbmCntWrite s else Reg.hbmCntRead s) := by
    intro heq
    cases store with
    | true => exact h (heq ▸ hbmCntWrite_mem hs)
    | false => exact h (heq ▸ hbmCntRead_mem hs)
  unfold Dev.countStack
  dsimp only
  split
  · rfl
  · split
    · rw [Dev.rd_bump_other _ _ hcount, Dev.rd_askCarats]
    · rw [Dev.rd_bump_other _ _ hcross, Dev.rd_bump_other _ _ hcount, Dev.rd_askCarats]

/-- The counting of a range's accesses stores nothing. -/
theorem Dev.countHbm_hbm (d : Dev) (a n : Nat) (store : Bool) (quad : Option Nat) : (d.countHbm a n store quad).hbm = d.hbm := by
  rw [d.countHbm_eq]
  split
  · rfl
  · exact foldl_keeps (fun e : Dev => e.hbm = d.hbm) (fun e s he => (d.countStack_hbm e a n store quad s).trans he) _ rfl

theorem Dev.rd_countHbm (d : Dev) (a n : Nat) (store : Bool) (quad : Option Nat) {off : Nat} (h : off ∉ Safety.hbmCounters) :
    (d.countHbm a n store quad).rd off = d.rd off := by
  rw [d.countHbm_eq]
  split
  · rfl
  · exact foldl_keeps_mem (fun e : Dev => e.rd off = d.rd off) _
      (fun e s hs he => (d.rd_countStack e a n store quad (List.mem_range.mp hs) h).trans he) rfl

theorem Dev.directFrame_countHbm (d : Dev) (a n : Nat) (store : Bool) (quad : Option Nat) : d.DirectFrame (d.countHbm a n store quad) :=
  ⟨d.hbmFrame_countHbm a n store quad, fun _ h => d.rd_countHbm a n store quad h⟩

theorem Dev.hbmFrame_dirWrite (d : Dev) (a : Nat) (bs : List Byte) : d.HbmFrame (d.dirWrite a bs) := by
  obtain ⟨_, h⟩ := d.dirWrite_eq a bs
  rw [h]
  exact ⟨_, _, _, rfl⟩

/-- Bytes are stored in the direct part and counted. -/
def Dev.directStore (d : Dev) (a : Nat) (bs : List Byte) : Dev := (d.dirWrite a bs).countHbm a bs.length true none

theorem Dev.directStore_hbm (d : Dev) (a : Nat) (bs : List Byte) : (d.directStore a bs).hbm = (d.dirWrite a bs).hbm := Dev.countHbm_hbm _ _ _ _ _

theorem Dev.directFrame_directStore (d : Dev) (a : Nat) (bs : List Byte) : d.DirectFrame (d.directStore a bs) :=
  Dev.DirectFrame.trans ⟨d.hbmFrame_dirWrite a bs, fun off _ => d.rd_dirWrite a bs off⟩ (Dev.directFrame_countHbm _ _ _ _ _)

theorem Blocks.dirRead_congr {b c : Blocks} (hilv : b.ilv = c.ilv) (hhbm : b.hbm = c.hbm) (a n : Nat) : b.dirRead a n = c.dirRead a n := by
  rw [Blocks.dirRead, Blocks.dirRead, hilv, hhbm]

theorem Dev.dirRead_directStore (d : Dev) (a : Nat) (bs : List Byte) (c n : Nat) : (d.directStore a bs).dirRead c n = (d.dirWrite a bs).dirRead c n :=
  Blocks.dirRead_congr (by rw [(d.directFrame_directStore a bs).ilv, d.ilv_dirWrite]) (d.directStore_hbm a bs) c n

/-- The range of an access in the direct part that passes its check (R123). -/
structure Dev.Reaches (d : Dev) (a n : Nat) : Prop where
  pos : 0 < n
  part : partOf a = .direct
  check : d.checkRange a n = none

section
variable {d : Dev} {a n : Nat} (h : d.Reaches a n)
include h

theorem Dev.Reaches.fits : a + n ≤ directSize := Blocks.direct_fits h.pos h.part h.check

theorem Dev.Reaches.lt : a < directSize := partOf_direct.mp h.part

theorem Dev.Reaches.frame {e : Dev} (hframe : d.DirectFrame e) : e.Reaches a n := ⟨h.pos, h.part, (hframe.checkRange a n).trans h.check⟩

/-- Such an access faults at no word that the engine finds bad. -/
theorem Dev.Reaches.engineCheck (hbad : d.mig.now.bad = none) : d.engineCheck a n = none := by
  have hpiece : d.pieceFault a n = none := by
    unfold Blocks.pieceFault
    rw [h.part, hbad]
    rfl
  rw [Blocks.engineCheck, h.check, tilePieces_direct h.pos h.lt, Option.none_or, List.findSome?_cons, hpiece, List.findSome?_nil]

/-- A read of the direct part. -/
theorem Dev.Reaches.readFor (hbad : d.mig.now.bad = none) (ctx : Nat) :
    d.readFor ctx a n = (some (d.dirRead a n), d.countHbm a n false none) := by
  have hhere : d.engineRead (some ctx) a n = (d.dirRead a n, d.countHbm a n false none) := by
    rw [Dev.engineRead, tilePieces_direct h.pos h.lt, List.filter_cons, d.allResident_direct n h.lt, d.currentBytes_direct h.fits, Dev.devTake,
      d.touch_direct n false h.lt]
    rfl
  rw [Dev.readFor, if_neg h.pos.ne', h.engineCheck hbad, hhere]

end

/-- A store into the direct part outside the MEM_EXPORT window, by an engine that misses nothing. -/
theorem Dev.Reaches.writeFor {d : Dev} {a : Nat} {bs : List Byte} (h : d.Reaches a bs.length) (hnow : d.mig.now = {})
    (hshared : overlaps a bs.length (d.rd Reg.memExportBase) d.exportBytes = false) (ctx : Nat) :
    d.writeFor ctx a bs = (true, d.directStore a bs) := by
  have hne : bs.isEmpty = false := by
    rw [List.isEmpty_eq_false_iff]
    exact List.ne_nil_of_length_pos h.pos
  have hstore : d.devStore a bs none = d.directStore a bs := by
    rw [Dev.devStore, d.windowUnits_apart 65536 hshared, List.foldl_nil, Dev.devWrite, d.devPut_direct a bs h.fits,
      Dev.touch_direct _ _ _ h.lt, Dev.directStore]
  have hpiece : d.enginePiece (some ctx) a bs = d.directStore a bs := by
    rw [Dev.enginePiece, Blocks.wasServed, hnow, List.any_nil, if_neg Bool.false_ne_true, d.allResident_direct _ h.lt, d.sharedLines_apart hshared,
      hstore]
    rfl
  rw [Dev.writeFor, hne, if_neg Bool.false_ne_true, h.engineCheck (by rw [hnow]), Dev.engineWrite, hnow, List.any_nil, if_neg Bool.false_ne_true,
    tilePieces_direct h.pos h.lt, List.foldl_cons, List.foldl_nil]
  dsimp only
  rw [Nat.sub_self, List.drop_zero, List.take_length, hpiece]

end Sys2Proof.Machine
end

section
/-! Count messages (R52, R55): what becomes of a row that the controller hands on, by its age, its sender and the layer in progress. -/

namespace Sys2Proof.Machine

/-- A message is taken by the controller alone. -/
theorem Dev.filTake_mig (d : Dev) (typ : Nat) : (d.filTake typ).2.mig = d.mig := by
  unfold Dev.filTake
  split
  · rfl
  · dsimp only
    split_ifs <;> rfl

theorem Dev.settleMaps_mig (d : Dev) (h : Nat) : (d.settleMaps h).mig = d.mig := by
  unfold Dev.settleMaps
  split
  · rfl
  · split <;> rfl

/-- A row enters the count table. -/
def Dev.enterRow (d : Dev) (r : CountRow) : Dev := { d with routing := { d.routing with counts := d.routing.counts ++ [r] } }

/-- A row does not fit the layer in progress. -/
def Dev.misfitsNow (d : Dev) (r : CountRow) : Bool :=
  match d.routing.layer with
  | some l => d.rowMisfits l r
  | none => false

/-- What the engines do with a row. -/
def Dev.countRow (d : Dev) (r : CountRow) : Dev :=
  if d.countAge r.seq = 0 then d.bump Reg.filCntDup 1
  else if d.countAge r.seq = 2 || decide (d.blockN ≤ r.src) then d.countFault r.layer r.half r.first
  else if d.misfitsNow r then d.countFault r.layer r.half r.first
  else (d.enterRow r).tryMap r.half

theorem Dev.countReceive_eq {d e : Dev} {m : FilMsg} (h : d.filTake 0 = (some m, e)) : d.countReceive = e.countRow (countRowOf m) := by
  unfold Dev.countReceive Dev.countRow
  rw [h]
  rfl

section
variable {d : Dev} {r : CountRow}

theorem Dev.countRow_done (hage : d.countAge r.seq = 0) : d.countRow r = d.bump Reg.filCntDup 1 := if_pos hage

theorem Dev.countRow_refused (h : d.countAge r.seq = 2 ∨ (d.countAge r.seq = 1 ∧ d.blockN ≤ r.src)) :
    d.countRow r = d.countFault r.layer r.half r.first := by
  have hage : d.countAge r.seq ≠ 0 := by omega
  have hrefused : (d.countAge r.seq = 2 || decide (d.blockN ≤ r.src)) = true := by
    rw [Bool.or_eq_true, decide_eq_true_eq, decide_eq_true_eq]
    exact h.imp_right And.right
  rw [Dev.countRow, if_neg hage, if_pos hrefused]

section
variable (hage : d.countAge r.seq = 1) (hsrc : r.src < d.blockN)
include hage hsrc

/-- A row of the current or next step from a device of the block. -/
theorem Dev.countRow_expected : d.countRow r =
    if d.misfitsNow r then d.countFault r.layer r.half r.first else (d.enterRow r).tryMap r.half := by
  have hserved : ¬(d.countAge r.seq = 2 || decide (d.blockN ≤ r.src)) = true := by
    rw [Bool.or_eq_true, decide_eq_true_eq, decide_eq_true_eq]
    omega
  rw [Dev.countRow, if_neg (by omega), if_neg hserved]

theorem Dev.countRow_misfit {l : Layer} (hl : d.routing.layer = some l) (hfit : d.rowMisfits l r = true) :
    d.countRow r = d.countFault r.layer r.half r.first := by
  rw [Dev.countRow_expected hage hsrc, Dev.misfitsNow, hl]
  exact if_pos hfit

theorem Dev.countRow_noLayer (hl : d.routing.layer = none) : d.countRow r = d.enterRow r := by
  have hmap : (d.enterRow r).tryMap r.half = d.enterRow r := by
    unfold Dev.tryMap
    rw [show (d.enterRow r).routing.layer = none from hl]
  rw [Dev.countRow_expected hage hsrc, Dev.misfitsNow, hl]
  exact hmap

theorem Dev.countRow_fits {l : Layer} (hl : d.routing.layer = some l) (hfit : d.rowMisfits l r = false) :
    d.countRow r = (d.enterRow r).tryMap r.half := by
  rw [Dev.countRow_expected hage hsrc, Dev.misfitsNow, hl]
  exact if_neg (ne_true_of_eq_false hfit)

end
end

section
variable {d : Dev} {l : Layer} {h : Nat} (hl : d.routing.layer = some l)
include hl

/-- The receive maps of a half are not built before the last count message of it, before the engines have planned it, or twice. -/
theorem Dev.tryMap_waits (hw : (l.halfOf h).exchanged = true ∨ l.ownPlanned h = false ∨ d.countTable l h = none) : d.tryMap h = d := by
  unfold Dev.tryMap
  rw [hl]
  dsimp only
  rcases hw with hw | hw | hw
  · rw [hw, Bool.true_or, if_pos rfl]
  · rw [hw, Bool.not_false, Bool.or_true, if_pos rfl]
  · rw [hw, ite_self]

/-- They are built when the table is complete (R53). -/
theorem Dev.tryMap_complete {table : List (List Nat)} {f : Dev} (hex : (l.halfOf h).exchanged = false) (hown : l.ownPlanned h = true)
    (htable : d.countTable l h = some table) (hmaps : d.mapSlots l h table (fun q => !l.keothRe q) = (true, f)) :
    d.tryMap h = (f.modHalf h (fun x =>
      { x with exchanged := true, counts := f.joinCounts l (fun q => !l.keothRe q) x.counts table })).settleMaps h := by
  unfold Dev.tryMap
  rw [hl]
  dsimp only
  rw [hex, hown, htable]
  dsimp only
  rw [hmaps]
  rfl

end

end Sys2Proof.Machine
end

section
/-! Shape words (R48, R53, Table 2.6). -/

namespace Sys2Proof.Machine

/-- The fields of a shape word, each in its bits. -/
theorem bitsOf_shapeWord {m stepSeq layer half : Nat} (hm : m < 2 ^ 24) (hseq : stepSeq < 2 ^ 16) (hlayer : layer < 2 ^ 8) (hhalf : half < 2) :
    let w := shapeWord m stepSeq layer half
    w < 2 ^ 64 ∧ bitsOf w 23 0 = m ∧ bitsOf w 47 32 = stepSeq ∧ bitsOf w 55 48 = layer ∧ bitsOf w 56 56 = half ∧ bitOf w 63 = true := by
  simp only [shapeWord, bitsOf, bitOf, Nat.reduceAdd, Nat.reduceSub, Nat.reducePow]
  refine ⟨by omega, by omega, by omega, by omega, by omega, ?_⟩
  exact decide_eq_true (by omega)

/-- The bytes that an engine stores in a direct range stand there, and nothing else in HBM has changed. -/
theorem Dev.Reaches.directHolds {s : State} {a : Nat} {bs : List Byte} (h : s.dev.Reaches a bs.length) :
    Safety.DirectHolds s (s.onDev (s.dev.directStore a bs)) a bs := by
  refine ⟨?_, fun x hx => ?_⟩
  · show (s.dev.directStore a bs).devRead a bs.length = bs
    rw [Blocks.devRead_direct _ h.fits, Dev.dirRead_directStore, Dev.dirRead_dirWrite_same _ _ _ h.fits]
  · show memByte (s.dev.directStore a bs).hbm x = _
    rw [Dev.directStore_hbm, Dev.memByte_dirWrite_apart _ _ _ _ hx]

/-- The shape word of a slot is written where its rows fit the reservation (R48). -/
theorem Dev.mapSlot_eq (d : Dev) (l : Layer) (h : Nat) (table : List (List Nat)) (slot e : Nat)
    (hfit : rowsFor table slot ≤ d.reserveOf (l.asRe (d.servingRe l e))) : d.mapSlot l h table slot e =
      d.writeFor l.ctx (d.slotShape l h slot) (toLe 8 (shapeWord (rowsFor table slot) l.stepSeq (l.asRe (d.servingRe l e)).number h)) := by
  unfold Dev.mapSlot
  dsimp only
  rw [if_neg (Nat.not_lt.mpr hfit)]

end Sys2Proof.Machine
end

section
open Sys2Proof Sys2Proof.Machine

/-- Settles O39: the row of a count message by its age, its sender and its fit; the shape word by a store of eight bytes into the direct
part. -/
theorem countsBuildReceiveMaps : Obligations.CountsBuildReceiveMaps := by
  unfold Obligations.CountsBuildReceiveMaps
  constructor
  · intro s m d hop hnow htake r e serves fault
    have hidle : d.mig.now = {} := by
      have hmig := s.dev.filTake_mig 0
      rw [htake] at hmig
      rw [hmig, hnow]
    have hexec : ∀ {f : Dev}, d.countRow r = f → f.mig.now = {} → exec .countMessageReceive s = .next (s.onDev f) := by
      intro f hf hfnow
      show execCountMessageReceive s = _
      rw [execCountMessageReceive, Dev.live_running _ _ hop, Dev.act_idle _ hnow rfl ((Dev.countReceive_eq htake).trans hf) hfnow]
    refine ⟨fun hage => hexec (Dev.countRow_done hage) (by rw [Dev.bump_mig, hidle]), fun h hf => hexec (Dev.countRow_refused h) hf,
      fun l hage hsrc hl hfit hf => hexec (Dev.countRow_misfit hage hsrc hl hfit) hf,
      fun hage hsrc hl => hexec (Dev.countRow_noLayer hage hsrc hl) hidle, fun l hage hsrc hl hfit => ?_⟩
    have hrow := Dev.countRow_fits hage hsrc hl hfit
    refine ⟨fun hw => hexec (hrow.trans (Dev.tryMap_waits (d := e) hl hw)) hidle, fun table f hex hown htable hmaps hf => ?_⟩
    exact hexec (hrow.trans (Dev.tryMap_complete (d := e) hl hex hown htable hmaps)) (by rw [Dev.settleMaps_mig]; exact hf)
  · intro s l h slot e table a m own hnow hfit hm hseq hnum hh hdirect hshared
    obtain ⟨hpos, hpart, hcheck⟩ := hdirect
    have hlen : (toLe 8 (shapeWord m l.stepSeq own.number h)).length = 8 := length_toLe _ _
    have hreach : s.dev.Reaches a (toLe 8 (shapeWord m l.stepSeq own.number h)).length := by
      rw [hlen]
      exact ⟨hpos, hpart, hcheck⟩
    have hholds := hreach.directHolds
    obtain ⟨-, -, -, -, -, hloc, hvault, -⟩ := (s.dev.directFrame_directStore a (toLe 8 (shapeWord m l.stepSeq own.number h))).1.blocks
    obtain ⟨hword, hbits⟩ := bitsOf_shapeWord hm hseq hnum hh
    have hnat : (s.dev.directStore a (toLe 8 (shapeWord m l.stepSeq own.number h))).devNat a 8 = shapeWord m l.stepSeq own.number h := by
      have hread : (s.dev.directStore a (toLe 8 (shapeWord m l.stepSeq own.number h))).devRead a 8 = _ := hlen ▸ hholds.1
      rw [Blocks.devNat, hread, leNat_toLe]
      exact Nat.mod_eq_of_lt hword
    refine ⟨_, (s.dev.mapSlot_eq l h table slot e hfit).trans (hreach.writeFor hnow (by rw [hlen]; exact hshared) l.ctx), hholds, ?_⟩
    obtain ⟨hrows, hstep, hlayer, hhalf, hvalid⟩ := hbits
    exact ⟨by rw [hnat]; exact hrows, by rw [hnat]; exact hstep, by rw [hnat]; exact hlayer, by rw [hnat]; exact hhalf,
      by rw [hnat]; exact hvalid, hloc, hvault⟩
end

section
/-! RE_HALT and KEOTH_RESUME as register writes (R61, R62, R64). -/

namespace Sys2Proof.Machine

/-- A 32-bit write of a whole register while no management command runs is judged. -/
theorem Dev.write32_judge {d : Dev} {p : MPort} {off v : Nat} {t : Target} (ecc : Ecc) (hp : d.reaches p = true) (hrun : d.mgmt.run = none)
    (ht : busTarget off 4 = some t) (hw : t.half = .whole) (hv : v < 2 ^ 32) : d.write32 p off v ecc = d.judge p t v 4 ecc := by
  rw [Dev.write32, Dev.busWrite, hp, ht]
  dsimp only
  rw [show v % 2 ^ (8 * 4) = v from Nat.mod_eq_of_lt hv, Dev.writeTarget, hrun, d.mgmtBars_idle t v hrun, hw]
  rfl

section
variable {d : Dev} {p : MPort} {t : Target} {v bytes : Nat} {ecc : Ecc} (hres : t.r.setsReserved v = false)
include hres

theorem Dev.judge_taken {e : Dev} (hw : d.regWrite p t.r t.i t.off v ecc = some e) : d.judge p t v bytes ecc = e.answer p .done := by
  simp [Dev.judge, hres, hw]

theorem Dev.judge_refused (hw : d.regWrite p t.r t.i t.off v ecc = none) : d.judge p t v bytes ecc = d.writeErr p 4 t.off bytes := by
  simp [Dev.judge, hres, hw]

end

/-- RE_CTRL of the map (Table 2.14). -/
def reCtrlSpec : RegSpec := ⟨"RE_CTRL", 0x02000000, false, 0x0, .plain, 4, 0x100000, 1, 0x0, [⟨.rw, 2, 2⟩, ⟨.rw, 1, 1⟩, ⟨.rw, 0, 0⟩]⟩

theorem regAt_reCtrl {re : Nat} (h : re < 4) : regAt (Reg.reCtrl re) = some (reCtrlSpec, re, 0) := by
  interval_cases re <;> rfl

theorem busTarget_reCtrl {re : Nat} (h : re < 4) : busTarget (Reg.reCtrl re) 4 = some ⟨reCtrlSpec, re, 0, Reg.reCtrl re, .whole⟩ :=
  busTarget_four (by simp only [Reg.reCtrl]; omega) (by simp only [Reg.reCtrl]; omega) (regAt_reCtrl h)

/-- RE_CTRL has three bits. -/
theorem lt_of_fits_reCtrl {re v : Nat} (h : re < 4) (hv : Safety.Fits (Reg.reCtrl re) v) : v < 8 := by
  rw [Safety.Fits, regAt_reCtrl h, Option.all_some, Bool.not_eq_true', RegSpec.setsReserved, Bool.or_eq_false_iff, Bool.or_eq_false_iff,
    Bool.or_eq_false_iff] at hv
  have hpick : reCtrlSpec.pick [.rw, .ro, .wo, .w1c, .w1s] v = v := of_not_not (of_decide_eq_false hv.1.1.1)
  have hbits : reCtrlSpec.pick [.rw, .ro, .wo, .w1c, .w1s] v = bitsOf v 2 2 * 4 + bitsOf v 1 1 * 2 + bitsOf v 0 0 := by
    simp [RegSpec.pick, reCtrlSpec, sumBy, List.filter]
  rw [← hpick, hbits]
  simp only [bitsOf]
  omega

/-- Every value of three bits is taken as it is. -/
theorem reCtrlSpec_takes : ∀ v, v < 8 → ∀ on : Bool,
    reCtrlSpec.setsReserved (setBits v 2 2 (b2n on)) = false ∧ reCtrlSpec.merge v (setBits v 2 2 (b2n on)) = setBits v 2 2 (b2n on) ∧
      setBits v 2 2 (b2n on) < 8 := by decide

theorem Dev.regWrite_reCtrl (d : Dev) (p : MPort) (re v : Nat) (hmerge : reCtrlSpec.merge (d.rd (Reg.reCtrl re)) v = v) :
    d.regWrite p reCtrlSpec re (Reg.reCtrl re) v = some (d.wr (Reg.reCtrl re) v) := by
  have hok : ∀ e : Dev, e.valueOk reCtrlSpec re v = true := fun _ => rfl
  rw [d.regWrite_plain p reCtrlSpec re _ v (by decide) rfl (hok _), hmerge]

/-- RE_HALT writes HALT. -/
theorem exec_reHalt {s : State} {p : MPort} {re : Nat} {on : Bool} (hs : Safety.Writable s p) (hre : re < 4)
    (hfits : Safety.Fits (Reg.reCtrl re) (s.dev.rd (Reg.reCtrl re))) : exec (.reHalt p re on) s =
      .next (s.onDev (Safety.Done (s.dev.wr (Reg.reCtrl re) (setBits (s.dev.rd (Reg.reCtrl re)) 2 2 (b2n on))) p)) := by
  obtain ⟨hop, hp, hrun⟩ := hs
  obtain ⟨hres, hmerge, hlt⟩ := reCtrlSpec_takes _ (lt_of_fits_reCtrl hre hfits) on
  have hwrite : s.dev.regWrite p reCtrlSpec re (Reg.reCtrl re) (setBits (s.dev.rd (Reg.reCtrl re)) 2 2 (b2n on)) {} =
      some (s.dev.wr (Reg.reCtrl re) (setBits (s.dev.rd (Reg.reCtrl re)) 2 2 (b2n on))) := s.dev.regWrite_reCtrl p re _ hmerge
  show execReHalt p re on s = _
  rw [execReHalt, Dev.live_running _ _ hop, if_pos hre, Dev.write32_judge {} hp hrun (busTarget_reCtrl hre) rfl (by omega),
    Dev.judge_taken hres hwrite, Dev.answer_running _ _ _ (by rw [Dev.wr_glb]; exact hop), Safety.Done]

/-- RE_KEOTH_RESUME of the map (Table 2.14). -/
def reKeothResumeSpec : RegSpec := ⟨"RE_KEOTH_RESUME", 0x0200003C, false, 0x0, .plain, 4, 0x100000, 1, 0x0, [⟨.wo, 16, 16⟩, ⟨.wo, 15, 0⟩]⟩

theorem busTarget_reKeothResume {re : Nat} (h : re < 4) :
    busTarget (Reg.reKeothResume re) 4 = some ⟨reKeothResumeSpec, re, 0, Reg.reKeothResume re, .whole⟩ := by
  refine busTarget_four (by simp only [Reg.reKeothResume]; omega) (by simp only [Reg.reKeothResume]; omega) ?_
  interval_cases re <;> rfl

theorem setsReserved_reKeothResume {v : Nat} (h : v < 2 ^ 17) : reKeothResumeSpec.setsReserved v = false := by
  have hpick : reKeothResumeSpec.pick [.rw, .ro, .wo, .w1c, .w1s] v = v := by
    have hbits : reKeothResumeSpec.pick [.rw, .ro, .wo, .w1c, .w1s] v = bitsOf v 16 16 * 65536 + bitsOf v 15 0 := by
      simp [RegSpec.pick, reKeothResumeSpec, sumBy, List.filter]
    simp only [hbits, bitsOf]
    omega
  rw [RegSpec.setsReserved, hpick, decide_eq_false (not_not_intro rfl)]
  rfl

section
variable {s : State} {p : MPort} {re : Nat} {v : W32} {ecc : Ecc} (hs : Safety.Writable s p) (hre : re < 4) (hv : v.toNat < 2 ^ 17)
include hs hre hv

/-- KEOTH_RESUME is a write of RE_KEOTH_RESUME. -/
theorem exec_keothResume : exec (.keothResume p re v ecc) s =
    .next (s.onDev (s.dev.judge p ⟨reKeothResumeSpec, re, 0, Reg.reKeothResume re, .whole⟩ v.toNat 4 ecc)) := by
  obtain ⟨hop, hp, hrun⟩ := hs
  show execKeothResume p re v ecc s = _
  rw [execKeothResume, Dev.live_running _ _ hop, if_pos hre, Dev.write32_judge ecc hp hrun (busTarget_reKeothResume hre) rfl (by omega)]

theorem exec_keothResume_taken {e : Dev} (h : s.dev.keothResume p re v.toNat ecc = some e) :
    exec (.keothResume p re v ecc) s = .next (s.onDev (e.answer p .done)) := by
  rw [exec_keothResume hs hre hv,
    Dev.judge_taken (t := ⟨reKeothResumeSpec, re, 0, Reg.reKeothResume re, .whole⟩) (setsReserved_reKeothResume hv) h]

theorem exec_keothResume_refused (h : s.dev.keothResume p re v.toNat ecc = none) :
    exec (.keothResume p re v ecc) s = .next (s.onDev (s.dev.writeErr p 4 (Reg.reKeothResume re) 4)) := by
  rw [exec_keothResume hs hre hv,
    Dev.judge_refused (t := ⟨reKeothResumeSpec, re, 0, Reg.reKeothResume re, .whole⟩) (setsReserved_reKeothResume hv) h]

end

end Sys2Proof.Machine
end

section
/-! What the pool manager, the migration engine and the error log do beside a command that ends (R133, R135, R157). -/

namespace Sys2Proof.Machine

/-- Device e is device d but for HBM, carats, the migration engine, the pools and the log; of the contexts the modes and the stage pins stand,
of the registers those below the engines'. -/
structure Dev.SideFrame (d e : Dev) : Prop where
  eq : ∃ hbm regs pwr mig pool ctxs obs,
    e = { d with hbm := hbm, regs := regs, pwr := pwr, mig := mig, pool := pool, ctxs := ctxs, obs := obs }
  mode : ∀ c, (e.ctx c).mode = (d.ctx c).mode
  stagePins : ∀ c, (e.ctx c).stagePins = (d.ctx c).stagePins
  rd : ∀ off, off < 0x02000000 → e.rd off = d.rd off

theorem Dev.SideFrame.refl (d : Dev) : d.SideFrame d := ⟨⟨_, _, _, _, _, _, _, rfl⟩, fun _ => rfl, fun _ => rfl, fun _ _ => rfl⟩

theorem Dev.SideFrame.trans {d e f : Dev} (h : d.SideFrame e) (k : e.SideFrame f) : d.SideFrame f := by
  refine ⟨?_, fun c => (k.mode c).trans (h.mode c), fun c => (k.stagePins c).trans (h.stagePins c),
    fun off hoff => (k.rd off hoff).trans (h.rd off hoff)⟩
  obtain ⟨_, _, _, _, _, _, _, rfl⟩ := h.eq
  obtain ⟨_, _, _, _, _, _, _, rfl⟩ := k.eq
  exact ⟨_, _, _, _, _, _, _, rfl⟩

theorem Dev.sideFrame_foldl {α : Type} (f : Dev → α → Dev) (hf : ∀ (d : Dev) a, d.SideFrame (f d a)) (xs : List α) (d : Dev) :
    d.SideFrame (xs.foldl f d) := foldl_keeps d.SideFrame (fun e a h => h.trans (hf e a)) xs (.refl d)

/-- The blocks of which a command's record speaks. -/
theorem Dev.SideFrame.blocks {d e : Dev} (h : d.SideFrame e) : e.routing = d.routing ∧ e.cores = d.cores ∧ e.rings = d.rings ∧
    e.jobs = d.jobs ∧ e.colls = d.colls ∧ e.loc = d.loc ∧ e.vault = d.vault ∧ e.hostMem = d.hostMem := by
  obtain ⟨_, _, _, _, _, _, _, rfl⟩ := h.eq
  exact ⟨rfl, rfl, rfl, rfl, rfl, rfl, rfl, rfl⟩

theorem Dev.sideFrame_wr (d : Dev) {off : Nat} (v : Nat) (h : 0x02000000 ≤ off) : d.SideFrame (d.wr off v) :=
  ⟨⟨_, _, _, _, _, _, _, rfl⟩, fun _ => rfl, fun _ => rfl, fun off' hoff => d.rd_wr_other off off' v (by omega)⟩

theorem Dev.sideFrame_bump (d : Dev) {off : Nat} (n : Nat) (h : 0x02000000 ≤ off) : d.SideFrame (d.bump off n) := d.sideFrame_wr _ h

/-- An entry anywhere, even beyond the direct part, is counted in no register below the engines'. -/
theorem Dev.sideFrame_putEntry (d : Dev) (a : Nat) (bs : List Byte) : d.SideFrame (d.putEntry a bs) := by
  have hmem : d.SideFrame ((d.dirWrite a bs).askCarats (576 + d.stackOf a) 8 none) := by
    obtain ⟨_, hput⟩ := d.dirWrite_eq a bs
    obtain ⟨_, hask⟩ := (d.dirWrite a bs).askCarats_eq (576 + d.stackOf a) 8 none
    rw [hask, hput]
    exact ⟨⟨_, _, _, _, _, _, _, rfl⟩, fun _ => rfl, fun _ => rfl, fun _ _ => rfl⟩
  exact (hmem.trans (Dev.sideFrame_bump _ _ (by simp only [Reg.hbmCntWrite]; omega))).trans
    (Dev.sideFrame_bump _ _ (by simp only [Reg.hbmCntCross]; omega))

theorem Dev.sideFrame_pool (d : Dev) (pool : Pool) : d.SideFrame { d with pool := pool } :=
  ⟨⟨_, _, _, _, _, _, _, rfl⟩, fun _ => rfl, fun _ => rfl, fun _ _ => rfl⟩

theorem Dev.sideFrame_mig (d : Dev) (mig : Mig) : d.SideFrame { d with mig := mig } :=
  ⟨⟨_, _, _, _, _, _, _, rfl⟩, fun _ => rfl, fun _ => rfl, fun _ _ => rfl⟩

theorem Dev.sideFrame_log (d : Dev) (e : LogEntry) : d.SideFrame (d.log e) :=
  ⟨⟨_, _, _, _, _, _, _, rfl⟩, fun _ => rfl, fun _ => rfl, fun _ _ => rfl⟩

theorem Dev.sideFrame_askCarats (d : Dev) (req need : Nat) (ctx : Option Nat) : d.SideFrame (d.askCarats req need ctx) := by
  obtain ⟨_, h⟩ := d.askCarats_eq req need ctx
  rw [h]
  exact ⟨⟨_, _, _, _, _, _, _, rfl⟩, fun _ => rfl, fun _ => rfl, fun _ _ => rfl⟩

/-- What every context keeps, one that is changed keeps too. -/
theorem Dev.ctx_modCtx_keeps {α : Type} (g : Ctx → α) (d : Dev) (c : Nat) {f : Ctx → Ctx} (hf : ∀ x, g (f x) = g x) (i : Nat) :
    g ((d.modCtx c f).ctx i) = g (d.ctx i) := by
  by_cases hi : i = c
  · rw [hi, Dev.ctx_modCtx_same, hf]
  · rw [Dev.ctx_modCtx_other _ _ _ _ hi]

theorem Dev.sideFrame_modCtx (d : Dev) (c : Nat) {f : Ctx → Ctx} (hmode : ∀ x, (f x).mode = x.mode)
    (hpins : ∀ x, (f x).stagePins = x.stagePins) : d.SideFrame (d.modCtx c f) :=
  ⟨⟨_, _, _, _, _, _, _, rfl⟩, d.ctx_modCtx_keeps Ctx.mode c hmode, d.ctx_modCtx_keeps Ctx.stagePins c hpins, fun _ _ => rfl⟩

theorem Dev.sideFrame_freeBuf (d : Dev) (k n : Nat) : d.SideFrame (d.freeBuf k n) := by
  have hmap : d.SideFrame (d.setMapBit k n 0) := d.sideFrame_pool _
  have hfree := (hmap.trans (Dev.sideFrame_putEntry _ ((d.setMapBit k n 0).tagAddr k n) (toLe 4 (setBits (d.tag k n) 31 31 0)))).trans
    (Dev.sideFrame_bump _ 1 (off := Reg.poolCntFree) (by decide))
  unfold Dev.freeBuf
  dsimp only
  split
  · exact hfree.trans (Dev.sideFrame_modCtx _ _ (fun _ => rfl) (fun _ => rfl))
  · exact hfree

theorem Dev.sideFrame_reclaim (d : Dev) (pat : Nat → Bool) : d.SideFrame (d.reclaim pat) := by
  refine Dev.sideFrame_foldl _ (fun e k => Dev.sideFrame_foldl _ (fun e n => ?_) _ e) _ d
  dsimp only
  split
  · split
    · exact (e.sideFrame_freeBuf k n).trans (Dev.sideFrame_pool _ _)
    · exact e.sideFrame_freeBuf k n
  · exact .refl e

theorem Dev.sideFrame_setTdir (d : Dev) (i v : Nat) : d.SideFrame (d.setTdir i v) := d.sideFrame_putEntry _ _

theorem Dev.sideFrame_queueWriteback (d : Dev) (i cls : Nat) : d.SideFrame (d.queueWriteback i cls) :=
  (d.sideFrame_askCarats (590 + (d.vaultOf i).1) 4 none).trans (Dev.sideFrame_mig _ _)

theorem Dev.sideFrame_freeFrame (d : Dev) (f : Nat) : d.SideFrame (d.freeFrame f) :=
  (d.sideFrame_setTdir (d.tileIn f) _).trans (Dev.sideFrame_mig _ _)

theorem Dev.sideFrame_unpin (d : Dev) (i : Nat) : d.SideFrame (d.unpin i) := by
  have hpins := d.sideFrame_setTdir i (setBits (d.tdir i) 47 32 (d.pins i - 1))
  unfold Dev.unpin
  dsimp only
  split
  · split
    · exact (hpins.trans (Dev.sideFrame_setTdir _ _ _)).trans (Dev.sideFrame_queueWriteback _ _ _)
    · split
      · exact hpins.trans (Dev.sideFrame_setTdir _ _ _)
      · exact hpins.trans (Dev.sideFrame_freeFrame _ _)
  · exact hpins

theorem Dev.sideFrame_dropDemandPins (d : Dev) (c : Nat) : d.SideFrame (d.dropDemandPins c) :=
  (Dev.sideFrame_foldl _ Dev.sideFrame_unpin _ d).trans (Dev.sideFrame_modCtx _ _ (fun _ => rfl) (fun _ => rfl))

theorem Dev.sideFrame_setReFault (d : Dev) (i ctx half layer code addr : Nat) : d.SideFrame (d.setReFault i ctx half layer code addr) := by
  unfold Dev.setReFault
  split
  · exact .refl d
  · exact (d.sideFrame_wr _ (by simp only [Reg.reFault]; omega)).trans (Dev.sideFrame_wr _ _ (by simp only [Reg.reFaultAddr]; omega))

end Sys2Proof.Machine
end

section
/-! A granted command ends (R308, R310). -/

namespace Sys2Proof.Machine

/-- A context that holds no stage ends none. -/
theorem Dev.endStages_none {d : Dev} {c : Nat} (h : (d.ctx c).stagePins = []) : d.endStages c = d := by
  unfold Dev.endStages
  rw [h]
  rfl

/-- The command leaves its ring's window and its context's fence. -/
def Dev.leaveWindow (d : Dev) (j : Job) (r : Record) : Dev :=
  (({ d with jobs := d.jobs.filter (fun x => !(x.ring = j.ring && x.seq = j.seq)) } : Dev).noteEnd j.ring j.seq (r.status = 0)).modCtx j.ctx
    (fun c => { c with fence := c.fence.filter (· ≠ (j.ring, j.seq)) })

theorem Dev.endJob_eq {d : Dev} {j : Job} (r : Record) (h : (d.ctx j.ctx).stagePins = []) : d.endJob j r =
    if bitOf (fldOf j.cmd 0 31 0) 9 && decide (r.status = 0) then d.leaveWindow j r else (d.leaveWindow j r).post j.ring r := by
  have hpins : ((d.leaveWindow j r).ctx j.ctx).stagePins = [] := by
    rw [Dev.leaveWindow, Dev.ctx_modCtx_same]
    exact h
  have hend : d.endJob j r = if bitOf (fldOf j.cmd 0 31 0) 9 && decide (r.status = 0) then (d.leaveWindow j r).endStages j.ctx
      else ((d.leaveWindow j r).endStages j.ctx).post j.ring r := rfl
  rw [hend, Dev.endStages_none hpins]

/-- The end of a command changes commands, rings and contexts; no context's mode. -/
theorem Dev.endJob_frame {d : Dev} {j : Job} (r : Record) (h : (d.ctx j.ctx).stagePins = []) :
    (∃ jobs rings ctxs, d.endJob j r = { d with jobs := jobs, rings := rings, ctxs := ctxs }) ∧
      ∀ c, ((d.endJob j r).ctx c).mode = (d.ctx c).mode := by
  have hmode : ∀ c, ((d.leaveWindow j r).ctx c).mode = (d.ctx c).mode := Dev.ctx_modCtx_keeps Ctx.mode _ j.ctx (fun _ => rfl)
  rw [Dev.endJob_eq r h]
  split <;> exact ⟨⟨_, _, _, rfl⟩, hmode⟩

/-- The ring's window takes the result. -/
theorem Dev.ring_noteEnd_same (d : Dev) (ring seq : Nat) (ok : Bool) : ∃ es,
    (d.noteEnd ring seq ok).ring ring = { d.ring ring with ended := (seq, ok) :: es } := by
  unfold Dev.noteEnd
  exact ⟨_, Dev.ring_modRing_same _ _ _⟩

theorem Dev.ring_noteEnd_other (d : Dev) (ring seq : Nat) (ok : Bool) {q : Nat} (h : q ≠ ring) : (d.noteEnd ring seq ok).ring q = d.ring q := by
  unfold Dev.noteEnd
  exact Dev.ring_modRing_other _ _ _ _ h

theorem Dev.ring_leaveWindow_same (d : Dev) (j : Job) (r : Record) : ∃ es,
    (d.leaveWindow j r).ring j.ring = { d.ring j.ring with ended := (j.seq, decide (r.status = 0)) :: es } :=
  Dev.ring_noteEnd_same { d with jobs := d.jobs.filter (fun x => !(x.ring = j.ring && x.seq = j.seq)) } _ _ _

theorem Dev.ring_leaveWindow_other (d : Dev) (j : Job) (r : Record) {q : Nat} (h : q ≠ j.ring) : (d.leaveWindow j r).ring q = d.ring q :=
  Dev.ring_noteEnd_other { d with jobs := d.jobs.filter (fun x => !(x.ring = j.ring && x.seq = j.seq)) } _ _ _ h

/-- A command that ends is gone, its result stands in the ring's window, its record waits, and no other ring changes. -/
theorem Dev.endJob_ended {s : State} {d : Dev} {j : Job} (r : Record) (hrings : d.rings = s.dev.rings) (h : (d.ctx j.ctx).stagePins = []) :
    Safety.Ended s (s.onDev (d.endJob j r)) j r := by
  have hring : ∀ q, d.ring q = s.dev.ring q := fun q => by rw [Blocks.ring, Blocks.ring, hrings]
  obtain ⟨es, hsame⟩ := d.ring_leaveWindow_same j r
  have hended : (j.seq, decide (r.status = 0)) ∈ ((d.leaveWindow j r).ring j.ring).ended := by
    rw [hsame]
    exact List.mem_cons_self
  have hhold : ((d.leaveWindow j r).ring j.ring).hold = (s.dev.ring j.ring).hold := by rw [hsame, hring]
  have hother : ∀ q, q ≠ j.ring → (d.leaveWindow j r).ring q = s.dev.ring q := fun q hq =>
    (d.ring_leaveWindow_other j r hq).trans (hring q)
  have hgone : (d.leaveWindow j r).job? j.ring j.seq = none := by
    refine List.find?_eq_none.mpr fun x hx hmine => ?_
    have hmem : x ∈ d.jobs.filter (fun x => !(x.ring = j.ring && x.seq = j.seq)) := hx
    have hnot := (List.mem_filter.mp hmem).2
    rw [hmine] at hnot
    exact absurd hnot Bool.false_ne_true
  unfold Safety.Ended
  rw [State.onDev_dev, Dev.endJob_eq r h]
  by_cases hsilent : bitOf (fldOf j.cmd 0 31 0) 9 = true ∧ r.status = 0
  · rw [if_pos (by simpa using hsilent), if_pos hsilent]
    exact ⟨hgone, hended, hhold, hother⟩
  · rw [if_neg (by simpa using hsilent), if_neg hsilent, Dev.post, Dev.ring_modRing_same, ← hhold]
    exact ⟨hgone, hended, rfl, fun q hq => (Dev.ring_modRing_other _ _ _ _ hq).trans (hother q hq)⟩

/-- A command of no Hallmark occurrence that completes. -/
theorem Dev.finish_eq {d : Dev} {j : Job} {ring seq : Nat} (status : Nat) (empty : Bool) (r0 r1 : Nat) (hj : d.job? ring seq = some j)
    (hocc : j.occ = none) : d.finish ring seq status empty r0 r1 = d.endJob j (d.recordOf j status empty r0 r1) := by
  unfold Dev.finish
  rw [hj]
  dsimp only
  unfold Dev.occWork
  rw [hocc]

end Sys2Proof.Machine
end

section
/-! COUNT_TIMEOUT (R59, R64). -/

namespace Sys2Proof.Machine

/-- Collectives sweep nothing where none is open. -/
theorem Dev.collSweep_none {d : Dev} (h : d.colls = []) : d.collSweep = d := by
  unfold Dev.collSweep
  simp only [h, List.filter_nil, List.map_nil, List.foldl_nil]
  rw [← h]

/-- The layer in progress is taken from the engines, with its counts. -/
def Dev.dropLayer (d : Dev) (l : Layer) : Dev :=
  { d with routing := { layer := none, counts := d.routing.counts.filter (fun r => r.seq ≠ l.stepSeq), lastSeq := some l.stepSeq } }

/-- What is undone of a layer execution that no sequence joined: plan buffers, demand pins; the fault is recorded and logged. -/
def Dev.undoLayer (d : Dev) (l : Layer) : Dev :=
  (((((d.dropLayer l).reclaim (reclaimPat (.step l.number 0))).reclaim (reclaimPat (.step l.number 1))).dropDemandPins l.ctx).setReFault
    0 l.ctx l.half l.number 0x0C 0).log { code := 0x0C, ctx := some l.ctx, domain := 34 }

theorem Dev.sideFrame_undoLayer (d : Dev) (l : Layer) : (d.dropLayer l).SideFrame (d.undoLayer l) :=
  ((((Dev.sideFrame_reclaim _ _).trans (Dev.sideFrame_reclaim _ _)).trans (Dev.sideFrame_dropDemandPins _ _)).trans
    (Dev.sideFrame_setReFault _ _ _ _ _ _ _)).trans (Dev.sideFrame_log _ _)

/-- A layer execution outside every occurrence that no sequence joined is abandoned. -/
theorem Dev.abandonStep_eq {d : Dev} {l : Layer} (hl : d.routing.layer = some l) (hjoined : l.joined = []) (hocc : l.occ = none) :
    d.abandonStep = (d.undoLayer l).finish l.ring l.seq 0x0C false l.result0 l.stepSeq := by
  unfold Dev.abandonStep
  rw [hl]
  dsimp only
  rw [hjoined, hocc, List.foldl_nil]
  dsimp only
  rw [Dev.undoLayer, Dev.dropLayer]

theorem Dev.abandonLayer_eq {d : Dev} {l : Layer} (hl : d.routing.layer = some l) (hcolls : d.colls = []) : d.abandonLayer = d.abandonStep := by
  unfold Dev.abandonLayer
  rw [hl, hcolls]
  rfl

/-- COUNT_TIMEOUT of an engine that waits, while no collective is open: the layer's STEP ends with status 0x0C. -/
theorem Dev.countTimeout_eq {d : Dev} {re : Nat} {l : Layer} {j : Job} (hre : re < 4) (hl : d.routing.layer = some l)
    (hwaits : d.waitsCounts re = true) (hlimit : d.rd (Reg.reCountTimeout re) ≠ 0) (hcolls : d.colls = []) (hjoined : l.joined = [])
    (hocc : l.occ = none) (hj : d.job? l.ring l.seq = some j) (hjocc : j.occ = none) (hpins : (d.ctx j.ctx).stagePins = []) :
    d.countTimeout re = (d.undoLayer l).endJob j (d.recordOf j 0x0C false l.result0 l.stepSeq) := by
  have hside := d.sideFrame_undoLayer l
  obtain ⟨-, -, -, hjobs, hcolls', -, -, -⟩ := hside.blocks
  have hrecord : (d.undoLayer l).recordOf j 0x0C false l.result0 l.stepSeq = d.recordOf j 0x0C false l.result0 l.stepSeq := by
    rw [Blocks.recordOf, Blocks.recordOf, Blocks.stroke, Blocks.stroke, hside.rd _ (by decide)]
    rfl
  have hfinish : (d.undoLayer l).finish l.ring l.seq 0x0C false l.result0 l.stepSeq =
      (d.undoLayer l).endJob j (d.recordOf j 0x0C false l.result0 l.stepSeq) := by
    rw [← hrecord]
    exact Dev.finish_eq _ _ _ _ (by rw [Blocks.job?, hjobs]; exact hj) hjocc
  have hnone : ((d.undoLayer l).endJob j (d.recordOf j 0x0C false l.result0 l.stepSeq)).colls = [] := by
    obtain ⟨⟨_, _, _, heq⟩, -⟩ := Dev.endJob_frame (d.recordOf j 0x0C false l.result0 l.stepSeq) ((hside.stagePins j.ctx).trans hpins)
    rw [heq]
    exact hcolls'.trans hcolls
  have htimeout : (re < 4 && d.waitsCounts re && decide (d.rd (Reg.reCountTimeout re) ≠ 0)) = true := by
    simp [hre, hwaits, hlimit]
  rw [Dev.countTimeout, if_pos htimeout, Dev.abandonLayer_eq hl hcolls, Dev.abandonStep_eq hl hjoined hocc, hfinish, Dev.collSweep_none hnone]

end Sys2Proof.Machine
end

section
/-! The Keoth record and the resume of a half (R61, R62, R308). -/

namespace Sys2Proof.Machine

/-- A ring without an interrupt vector sends none. -/
theorem Dev.irq_off {d : Dev} {r : Nat} (h : d.flag (Reg.ringCtrl r) 27 = false) : d.irq r = d := by
  unfold Dev.irq
  rw [h]
  rfl

/-- An entry is written to a completion queue in host memory. -/
def Dev.cqHost (d : Dev) (r size : Nat) (entry : List Byte) : Dev :=
  ({ d with hostMem := memWrite d.hostMem (d.rd (Reg.ringCqBase r) / 4096 * 4096 +
      d.rd (Reg.ringCqHead r) % 2 ^ d.fld (Reg.ringSize r) 11 8 * size) (padTo size entry) } : Dev).wr
    (Reg.ringCqHead r) ((d.rd (Reg.ringCqHead r) + 1) % 65536)

theorem Dev.cqPut_host {d : Dev} {r : Nat} (size : Nat) (entry : List Byte) (hloc : d.flag (Reg.ringCqBase r) 0 = false)
    (hirq : d.flag (Reg.ringCtrl r) 27 = false) : d.cqPut r size entry = d.cqHost r size entry := by
  have hquiet : (d.cqHost r size entry).flag (Reg.ringCtrl r) 27 = false := by
    rw [Blocks.flag, Dev.cqHost, Dev.rd_wr_other _ _ _ _ (by simp only [Reg.ringCtrl, Reg.ringCqHead]; omega)]
    exact hirq
  have hput : d.cqPut r size entry = (d.cqHost r size entry).irq r := by
    unfold Dev.cqPut
    dsimp only
    rw [hloc]
    rfl
  rw [hput, Dev.irq_off hquiet]

theorem Layer.length_keothRecord (l : Layer) (h i : Nat) : (l.keothRecord h i).length = 32 := by
  simp [Layer.keothRecord]

theorem padTo_full {n : Nat} {bs : List Byte} (h : bs.length = n) : padTo n bs = bs := by
  rw [padTo, h, Nat.sub_self, List.replicate_zero, List.append_nil, ← h, List.take_length]

section
variable {d : Dev} {i h : Nat} {l : Layer} (hw : d.waitsHost i = some (l, h))
include hw

/-- A half waits for the host under its own number. -/
theorem Dev.waitsHost_lt : h < 2 := by
  unfold Blocks.waitsHost at hw
  split at hw
  · exact absurd hw (by simp)
  · split_ifs at hw
    · rw [← (Prod.mk.inj (Option.some.inj hw)).2]
      decide
    · rw [← (Prod.mk.inj (Option.some.inj hw)).2]
      decide

theorem Dev.keothPost_again (hp : ((l.halfOf h).re i).posted = true) : d.keothPost i = d := by
  unfold Dev.keothPost
  rw [hw]
  dsimp only
  rw [hp]
  rfl

/-- A half's record goes to an event ring that takes it. -/
theorem Dev.keothPost_first {r : Nat} (hr : d.fld (Reg.reKeothRing i) 11 0 = r) (hp : ((l.halfOf h).re i).posted = false)
    (hon : d.flag (Reg.ringCtrl r) 0 = true) (htype : d.fld (Reg.ringCtrl r) 2 1 = 1) (hroom : d.cqFull r = false)
    (hloc : d.flag (Reg.ringCqBase r) 0 = false) (hirq : d.flag (Reg.ringCtrl r) 27 = false) :
    d.keothPost i = (d.cqHost r 32 (l.keothRecord h i)).modRe h i (fun x => { x with posted := true }) := by
  unfold Dev.keothPost
  rw [hw]
  dsimp only
  rw [hr, hp, hon, htype, hroom, Dev.cqPut_host 32 _ hloc hirq]
  rfl

theorem Dev.keothTimeout_eq (hlimit : d.rd (Reg.reKeothTimeout i) ≠ 0) :
    d.keothTimeout i = d.reFault i l.ctx h l.number 0x07 (some ((l.halfOf h).re i).planAddr) := by
  unfold Dev.keothTimeout
  rw [hw]
  exact if_neg hlimit

/-- A resume that matches the half that waits takes the host's plan. -/
theorem Dev.keothResume_match {p : MPort} {v : Nat} {ecc : Ecc} {segs : List Segment} {e : Dev} (hseq : bitsOf v 15 0 = l.stepSeq)
    (hhalf : bitsOf v 16 16 = h) (hnow : d.mig.now = {}) (hecc : ecc.badHbm = none) (hplan : d.hostPlan l h i = (some segs, e))
    (hdone : (e.acceptPlan l h i segs).mig.now = {}) : d.keothResume p i v ecc = some (e.acceptPlan l h i segs) := by
  have htake : d.keothPlan i = e.acceptPlan l h i segs := by
    unfold Dev.keothPlan
    rw [hw]
    dsimp only
    rw [hplan]
  unfold Dev.keothResume
  rw [hw]
  dsimp only
  rw [if_neg (by rw [hseq, hhalf]; simp), Dev.act_idle _ hnow hecc htake hdone]

end

/-- A resume that matches no half that waits is refused. -/
theorem Dev.keothResume_mismatch {d : Dev} {p : MPort} {i v : Nat} {ecc : Ecc}
    (h : ∀ l h, d.waitsHost i = some (l, h) → bitsOf v 15 0 ≠ l.stepSeq ∨ bitsOf v 16 16 ≠ h) : d.keothResume p i v ecc = none := by
  unfold Dev.keothResume
  split
  · rfl
  · next l half hw => exact if_pos (h l half hw)

/-- An engine whose work misses nothing acts on a device whose accesses it does not look at. -/
theorem exec_keothRecordPost {s : State} {re : Nat} (hop : Safety.Operating s) (hre : re < 4)
    (hneed : ((s.dev.acting {}).keothPost re).mig.now.need = []) :
    exec (.keothRecordPost re) s = .next (s.onDev (((s.dev.acting {}).keothPost re).acted s.dev.mig.now)) := by
  show execKeothRecordPost re s = _
  rw [execKeothRecordPost, Dev.live_running _ _ hop, Dev.act_of_need, if_pos hre]
  rw [if_pos hre]
  exact hneed

end Sys2Proof.Machine
end

section
open Sys2Proof Sys2Proof.Machine

/-- Settles O40: HALT is a plain write; a layer that is abandoned leaves by its STEP's end, whose frame is that of the pools, the pins and the
log; the Keoth record is one entry of a queue in host memory, and the resume a write that the half's own rule judges. -/
theorem haltTimeoutAndKeoth : Obligations.HaltTimeoutAndKeoth := by
  unfold Obligations.HaltTimeoutAndKeoth
  refine ⟨fun s p re on hs hre hfits => ?_, fun s re l j hop hre hl hwaits hlimit hcolls hjoined hocc hj hjocc hpins => ?_,
    fun s re h l hop hre hw => ?_, fun s p re v ecc hs hre hv hno => ?_⟩
  · have hframe : s.dev.AccessFrame
        (Safety.Done (s.dev.wr (Reg.reCtrl re) (setBits (s.dev.rd (Reg.reCtrl re)) 2 2 (b2n on))) p) :=
      (s.dev.accessFrame_wr _ _).trans (Dev.accessFrame_modBus _ _ _)
    have hlt : setBits (s.dev.rd (Reg.reCtrl re)) 2 2 (b2n on) < 2 ^ 64 := setBits_lt (Blocks.rd_lt _ _) (by omega)
    have hrd : ∀ t, t = s.onDev (Safety.Done (s.dev.wr (Reg.reCtrl re) (setBits (s.dev.rd (Reg.reCtrl re)) 2 2 (b2n on))) p) →
        t.dev.rd (Reg.reCtrl re) = setBits (s.dev.rd (Reg.reCtrl re)) 2 2 (b2n on) := by
      rintro t rfl
      rw [State.onDev_dev, Safety.Done, Dev.rd_modBus, Dev.rd_wr_same, Nat.mod_eq_of_lt hlt]
    refine ⟨_, exec_reHalt hs hre hfits, hrd _ rfl, ?_, fun off hoff => ?_, sameMemory_of_accessFrame hframe, sameEngines_of_accessFrame hframe⟩
    · rw [Blocks.flag, hrd _ rfl, bitOf_setBits, if_pos ⟨le_rfl, le_rfl⟩, Nat.sub_self, bitOf_b2n]
    · rw [State.onDev_dev, Safety.Done, Dev.rd_modBus, Dev.rd_wr_other _ _ _ _ (by simpa using hoff)]
  · have hside := s.dev.sideFrame_undoLayer l
    obtain ⟨hrouting, hcores, hrings, -, -, hloc, hvault, hhost⟩ := hside.blocks
    have hpins' := (hside.stagePins j.ctx).trans hpins
    have hended := Dev.endJob_ended (s := s) (s.dev.recordOf j 0x0C false l.result0 l.stepSeq) hrings hpins'
    obtain ⟨⟨_, _, _, heq⟩, hmode⟩ := Dev.endJob_frame (s.dev.recordOf j 0x0C false l.result0 l.stepSeq) hpins'
    refine ⟨s.onDev ((s.dev.undoLayer l).endJob j (s.dev.recordOf j 0x0C false l.result0 l.stepSeq)), ?_, ?_, ?_, hended,
      fun c => (hmode c).trans (hside.mode c), ?_, ?_, ?_, ?_⟩
    · show execCountTimeout re s = _
      rw [execCountTimeout, Dev.live_running _ _ hop, Dev.countTimeout_eq hre hl hwaits hlimit hcolls hjoined hocc hj hjocc hpins]
    all_goals rw [State.onDev_dev, heq]
    · exact congrArg Routing.layer hrouting
    · exact congrArg Routing.lastSeq hrouting
    · exact hcores
    · exact hloc
    · exact hvault
    · exact hhost
  · intro r at_
    have hwa : (s.dev.acting {}).waitsHost re = some (l, h) := hw
    refine ⟨fun hp => ?_, fun hp hon htype hroom hloc hirq => ?_, fun hlimit => ?_, fun p v ecc segs d hs hv hseq hnow hecc hplan hphase hdone => ?_⟩
    · have hpost := Dev.keothPost_again hwa hp
      rw [exec_keothRecordPost hop hre (by rw [hpost]; rfl), hpost]
      rfl
    · have hpost := Dev.keothPost_first hwa (r := r) rfl hp hon htype hroom hloc hirq
      have hlen := l.length_keothRecord h re
      refine ⟨_, exec_keothRecordPost hop hre (by rw [hpost]; rfl), ?_, hlen, ?_, fun off hoff => ?_, ?_, ?_, ?_⟩
      all_goals rw [State.onDev_dev, hpost]
      · rw [← padTo_full hlen]
        rfl
      · exact (Dev.rd_wr_same _ _ _).trans (Nat.mod_eq_of_lt (by omega))
      · exact Dev.rd_wr_other _ _ _ _ (by simpa using hoff)
      · rfl
      · rfl
      · rfl
    · show execKeothTimeout re s = _
      rw [execKeothTimeout, Dev.live_running _ _ hop, if_pos hre, Dev.keothTimeout_eq hw hlimit]
    · have hhalf := Dev.waitsHost_lt hw
      rw [exec_keothResume_taken hs hre (by omega)
        (Dev.keothResume_match hw (by rw [bitsOf]; omega) (by rw [bitsOf]; omega) hnow hecc hplan hdone),
        Dev.answer_running _ _ _ hphase, Safety.Done]
  · exact exec_keothResume_refused hs hre hv (Dev.keothResume_mismatch hno)
end


section
/-! The open barrier of an all-to-all on a block of several devices (R224, R228): it enters its first round with another device and waits. -/

namespace Sys2Proof.Machine

/-- Distinct numbers of a line are not all one device's. -/
theorem exists_range_ne {n : Nat} (hn : 1 < n) {f : Nat → Nat} (hf : ∀ i j, f i = f j → i = j) (m : Nat) : ∃ i ∈ List.range n, f i ≠ m := by
  by_cases h : f 0 = m
  · exact ⟨1, List.mem_range.mpr hn, fun h1 => absurd (hf 0 1 (h.trans h1.symm)) (by decide)⟩
  · exact ⟨0, List.mem_range.mpr (by omega), h⟩

theorem filter_range_ne_nil {n : Nat} (hn : 1 < n) {f : Nat → Nat} (hf : ∀ i j, f i = f j → i = j) (m : Nat) :
    ((List.range n).map f).filter (fun i => i ≠ m) ≠ [] := by
  obtain ⟨i, hi, hne⟩ := exists_range_ne hn hf m
  exact List.ne_nil_of_mem (List.mem_filter.mpr ⟨List.mem_map_of_mem hi, decide_eq_true hne⟩)

/-- A device of a block of several has another one on some line through it. -/
theorem Blocks.exists_line (b : Blocks) (h : 1 < b.blockN) : ∃ k, k < 3 ∧ b.lineOf k ≠ [] := by
  have hx : 0 < b.bx := Nat.succ_pos _
  have hy : 0 < b.by_ := Nat.succ_pos _
  have hinj : ∀ u v w i j : Nat, 0 < v → u + v * (i + w) = u + v * (j + w) → i = j := by
    intro u v w i j hv hij
    have := Nat.eq_of_mul_eq_mul_left hv (Nat.add_left_cancel hij)
    omega
  by_cases hbx : 1 < b.bx
  · exact ⟨0, by decide, filter_range_ne_nil hbx (fun i j hij => Nat.add_right_cancel hij) _⟩
  · by_cases hby : 1 < b.by_
    · exact ⟨1, by decide, filter_range_ne_nil hby (fun i j hij => hinj _ _ _ i j hx hij) _⟩
    · have hbz : 1 < b.bz := by
        have hx1 : b.bx = 1 := by omega
        have hy1 : b.by_ = 1 := by omega
        rwa [Blocks.blockN, hx1, hy1, Nat.one_mul] at h
      refine ⟨2, by decide, filter_range_ne_nil hbz (fun i j hij => ?_) _⟩
      have hplane := Nat.eq_of_mul_eq_mul_left hx (Nat.add_left_cancel hij)
      exact Nat.eq_of_mul_eq_mul_left hy (Nat.add_left_cancel hplane)

/-- The messages of a round are handed to the controller, which holds back none of them. -/
theorem Dev.filSend_held (d : Dev) (typ key sub : Nat) (data : List Byte) (dest : Nat) :
    ∃ fil, d.filSend typ key sub data dest = { d with fil := fil } ∧ fil.held = d.fil.held := by
  unfold Dev.filSend
  dsimp only
  split <;> exact ⟨_, rfl, rfl⟩

theorem Dev.sendRound_held (d : Dev) (id : Nat) (close : Bool) (axis : Nat) (ok : Bool) (status : Nat) :
    ∃ fil, d.sendRound id close axis ok status = { d with fil := fil } ∧ fil.held = d.fil.held := by
  unfold Dev.sendRound
  refine foldl_keeps (fun e : Dev => ∃ fil, e = { d with fil := fil } ∧ fil.held = d.fil.held) (fun e i he => ?_) _ ⟨_, rfl, rfl⟩
  obtain ⟨fil, rfl, hheld⟩ := he
  obtain ⟨fil', hsend, hheld'⟩ := Dev.filSend_held { d with fil := fil } 2 id (barrierSub close ok d.mountFmt axis status) [] i
  exact ⟨fil', hsend, hheld'.trans hheld⟩

section
variable {rest : List Coll} {c : Coll} (hrest : ∀ x ∈ rest, x.id ≠ c.id)
include hrest

/-- The youngest collective, alone with its number, is found and changed. -/
theorem find_youngest : (rest ++ [c]).find? (fun x => x.id = c.id) = some c := by
  rw [List.find?_append, List.find?_eq_none.mpr (fun x hx => by simpa using hrest x hx)]
  simp

theorem updWhere_youngest (f : Coll → Coll) : updWhere (fun x => decide (x.id = c.id)) f (rest ++ [c]) = rest ++ [f c] := by
  rw [updWhere, List.map_append]
  congr 1
  · exact (List.map_congr_left fun x hx => if_neg (by simpa using hrest x hx)).trans (List.map_id _)
  · simp

end

theorem modColl_youngest {d : Dev} {rest : List Coll} {c : Coll} (hrest : ∀ x ∈ rest, x.id ≠ c.id) (hcolls : d.colls = rest ++ [c])
    (f : Coll → Coll) : d.modColl c.id f = { d with colls := rest ++ [f c] } := by
  rw [Dev.modColl, hcolls, updWhere_youngest hrest]

/-- The messages of a round that came early are taken (R228). -/
def Dev.takeEarly (d : Dev) (id : Nat) (close : Bool) (axis : Nat) : Dev :=
  let (mine, rest) := d.fil.held.partition (fun m => isRound m id close axis)
  let d : Dev := { d with fil := { d.fil with held := rest } }
  d.modColl id (fun c => mine.foldl (fun c m => c.takeVote close d.mountFmt m) c)

/-- Nothing came early where nothing is held back. -/
theorem Dev.takeEarly_none {d : Dev} (id : Nat) (close : Bool) (axis : Nat) (h : d.fil.held = []) : d.takeEarly id close axis = d := by
  have hcolls : updWhere (fun c : Coll => decide (c.id = id)) (fun c => c) d.colls = d.colls := by
    rw [updWhere]
    exact (List.map_congr_left fun x _ => ite_self _).trans (List.map_id _)
  have hearly : d.takeEarly id close axis = { d with
      fil := { d.fil with held := [] }
      colls := updWhere (fun c : Coll => decide (c.id = id)) (fun c => c) d.colls } := by
    unfold Dev.takeEarly
    rw [h]
    rfl
  rw [hearly, hcolls, ← h]

/-- The votes of a round are counted: with those of the whole line it is over. -/
def Dev.countVotes (d : Dev) (id : Nat) (close : Bool) (line : List Nat) (fuel : Nat) : Dev :=
  match d.coll? id with
  | none => d
  | some c =>
    let x := c.bar close
    let votes := (x.got.filter (fun g => g.1 = x.axis)).map (fun g => (g.2.1, g.2.2.1, g.2.2.2))
    if line.all (fun i => votes.any (fun v => v.1 = i)) then
      let (ok, st) := combineVotes d.me (x.ok, x.status) votes
      (d.modColl id (fun c => c.setBar close { x with axis := x.axis + 1, ok := ok, status := st })).barrierRun id close true fuel
    else d

/-- Without a vote a round with other devices goes on. -/
theorem Dev.countVotes_none {d : Dev} {id : Nat} {c : Coll} {line : List Nat} (fuel : Nat) (hfind : d.coll? id = some c)
    (hgot : c.open_.got = []) (hline : line ≠ []) : d.countVotes id false line fuel = d := by
  obtain ⟨i, line, rfl⟩ := List.exists_cons_of_ne_nil hline
  unfold Dev.countVotes
  rw [hfind]
  dsimp only [Coll.bar]
  rw [if_neg Bool.false_ne_true, hgot]
  rfl

/-- A round of the open barrier that is reached: without other devices the next one is, else its messages go out. -/
theorem Dev.barrierRun_open {d : Dev} {id : Nat} {c : Coll} (fuel : Nat) (hfind : d.coll? id = some c) (haxis : c.open_.axis < 3) :
    d.barrierRun id false true (fuel + 1) =
      if (d.lineOf c.open_.axis).isEmpty then
        (d.modColl id (fun x => { x with open_ := { c.open_ with axis := c.open_.axis + 1 } })).barrierRun id false true fuel
      else ((d.sendRound id false c.open_.axis c.open_.ok c.open_.status).takeEarly id false c.open_.axis).countVotes id false
        (d.lineOf c.open_.axis) fuel := by
  rw [Dev.barrierRun, hfind]
  exact if_neg (Nat.not_le.mpr haxis)

/-- One round of the open barrier of the youngest collective. -/
theorem Dev.barrierRun_round {d : Dev} {rest : List Coll} {c : Coll} (hrest : ∀ x ∈ rest, x.id ≠ c.id) (hcolls : d.colls = rest ++ [c])
    (haxis : c.open_.axis < 3) (fuel : Nat) :
    (d.lineOf c.open_.axis = [] → d.barrierRun c.id false true (fuel + 1) =
      ({ d with colls := rest ++ [{ c with open_ := { c.open_ with axis := c.open_.axis + 1 } }] } : Dev).barrierRun c.id false true fuel) ∧
    (d.lineOf c.open_.axis ≠ [] → c.open_.got = [] → d.fil.held = [] →
      ∃ fil, d.barrierRun c.id false true (fuel + 1) = { d with fil := fil }) := by
  have hfind : d.coll? c.id = some c := by rw [Blocks.coll?, hcolls, find_youngest hrest]
  refine ⟨fun hline => ?_, fun hline hgot hheld => ?_⟩
  · rw [Dev.barrierRun_open fuel hfind haxis, hline, modColl_youngest hrest hcolls]
    rfl
  · obtain ⟨fil, hsend, hheld'⟩ := d.sendRound_held c.id false c.open_.axis c.open_.ok c.open_.status
    refine ⟨fil, ?_⟩
    rw [Dev.barrierRun_open fuel hfind haxis, if_neg (by simpa using hline), hsend, Dev.takeEarly_none _ _ _ (hheld'.trans hheld)]
    exact Dev.countVotes_none fuel hfind hgot hline

/-- The open barrier of the youngest collective enters the first round that has other devices, and waits for their votes. -/
theorem Dev.barrierRun_enters (fuel : Nat) {d : Dev} {rest : List Coll} {c : Coll} (hrest : ∀ x ∈ rest, x.id ≠ c.id)
    (hcolls : d.colls = rest ++ [c]) (hgot : c.open_.got = []) (hheld : d.fil.held = [])
    (hline : ∃ k, c.open_.axis ≤ k ∧ k < 3 ∧ d.lineOf k ≠ []) (hfuel : 3 ≤ fuel + c.open_.axis) :
    ∃ fil a, a < 3 ∧ d.barrierRun c.id false true fuel =
      { d with fil := fil, colls := rest ++ [{ c with open_ := { c.open_ with axis := a } }] } := by
  induction fuel generalizing d c with
  | zero =>
    obtain ⟨k, hle, hlt, -⟩ := hline
    omega
  | succ fuel ih =>
    obtain ⟨k, hle, hlt, hne⟩ := hline
    obtain ⟨hempty, hother⟩ := Dev.barrierRun_round hrest hcolls (by omega) fuel
    by_cases hnone : d.lineOf c.open_.axis = []
    · have hk : c.open_.axis ≠ k := fun heq => hne (heq ▸ hnone)
      obtain ⟨fil, a, ha, hrun⟩ := ih (d := { d with colls := rest ++ [{ c with open_ := { c.open_ with axis := c.open_.axis + 1 } }] })
        (c := { c with open_ := { c.open_ with axis := c.open_.axis + 1 } }) hrest rfl hgot hheld
        ⟨k, show c.open_.axis + 1 ≤ k by omega, hlt, hne⟩ (show 3 ≤ fuel + (c.open_.axis + 1) by omega)
      exact ⟨fil, a, ha, (hempty hnone).trans hrun⟩
    · obtain ⟨fil, hrun⟩ := hother hnone hgot hheld
      exact ⟨fil, c.open_.axis, by omega, hrun.trans (by rw [← hcolls])⟩

end Sys2Proof.Machine
end

section
/-! DISPATCH_OPEN and RETURN_OPEN (R57, R222 to R224). -/

namespace Sys2Proof.Machine

/-- Nothing is swept while no collective is in its close vote. -/
theorem Dev.collSweep_open {d : Dev} (h : ∀ x ∈ d.colls, x.phase ≠ .closing) : d.collSweep = d := by
  have hover : ∀ x ∈ d.colls, (decide (x.phase = .closing) && decide (3 ≤ x.close.axis)) = false := fun x hx => by
    rw [decide_eq_false (h x hx), Bool.false_and]
  have hids : d.colls.filter (fun c => c.phase = .closing && decide (3 ≤ c.close.axis)) = [] :=
    List.filter_eq_nil_iff.mpr fun x hx => ne_true_of_eq_false (hover x hx)
  have hkept : d.colls.filter (fun c => !(c.phase = .closing && decide (3 ≤ c.close.axis))) = d.colls :=
    List.filter_eq_self.mpr fun x hx => by rw [hover x hx]; rfl
  unfold Dev.collSweep
  simp only [hids, List.map_nil, List.foldl_nil, hkept]

/-- The COLL_ID of an all-to-all of a layer execution (R222). -/
def Layer.collId (l : Layer) (half dir : Nat) : Nat := 0x8000 + l.stepSeq % 4096 * 4 + half * 2 + dir

/-- An all-to-all of a layer execution in the round of an axis of its open barrier. -/
def Layer.openedColl (l : Layer) (half dir : Nat) (streams : List Stream) (axis : Nat) : Coll :=
  { id := l.collId half dir, ctx := l.ctx, ring := l.ring, seq := l.seq, re := some (half, dir), streams := streams, phase := .opening,
    open_ := { axis := axis } }

/-- An open barrier that has a round to go takes no further step. -/
theorem Dev.collStep_opening {d : Dev} {id : Nat} {c : Coll} (hfind : d.coll? id = some c) (hphase : c.phase = .opening)
    (haxis : c.open_.axis < 3) : d.collStep id = d := by
  unfold Dev.collStep
  rw [hfind]
  dsimp only
  rw [hphase]
  exact if_pos haxis

/-- A collective more, and counted. -/
def Dev.withOpened (d : Dev) (c : Coll) : Dev := { d.bump Reg.collCntOpened 1 with colls := d.colls ++ [c] }

theorem Dev.blockN_withOpened (d : Dev) (c : Coll) : (d.withOpened c).blockN = d.blockN := by
  have hrd : (d.withOpened c).rd Reg.fabRtBlock = d.rd Reg.fabRtBlock := d.rd_bump_other 1 (by decide)
  simp only [Blocks.blockN, Blocks.bx, Blocks.by_, Blocks.bz, Blocks.fld, hrd]

section
variable {d : Dev} {l : Layer} {half dir : Nat} (hnew : ∀ x ∈ d.colls, x.id ≠ l.collId half dir)
include hnew

/-- An all-to-all with a new number runs its open barrier. -/
theorem Dev.openSegments_runs (streams : List Stream) : d.openSegments l half dir streams =
    (((d.withOpened (l.openedColl half dir streams 0)).barrierRun (l.collId half dir) false true 4).collStep (l.collId half dir)).collSweep := by
  let c : Coll := { id := l.collId half dir, ctx := l.ctx, ring := l.ring, seq := l.seq, re := some (half, dir), streams := streams }
  have hothers : d.colls.filter (fun x => x.id ≠ l.collId half dir) = d.colls :=
    List.filter_eq_self.mpr fun x hx => decide_eq_true (hnew x hx)
  have henter : ({ d with colls := d.colls ++ [c] } : Dev).modColl (l.collId half dir)
      (fun c => { c with phase := .opening, open_ := { ok := true, status := 0 }, own := 0 }) =
        { d with colls := d.colls ++ [l.openedColl half dir streams 0] } :=
    modColl_youngest (d := { d with colls := d.colls ++ [c] }) (c := c) hnew rfl _
  have hsegs : d.openSegments l half dir streams =
      ({ d with colls := d.colls.filter (fun x => x.id ≠ l.collId half dir) ++ [c] } : Dev).enterOpen (l.collId half dir) 0 := rfl
  rw [hsegs, hothers, Dev.enterOpen, show decide ((0 : Nat) = 0) = true from rfl, henter]
  rfl

/-- An all-to-all opens: it enters its open barrier, whose messages go out, and is counted. -/
theorem Dev.openSegments_eq (streams : List Stream) (hheld : d.fil.held = []) (hblock : 1 < d.blockN)
    (hclosing : ∀ x ∈ d.colls, x.phase ≠ .closing) :
    ∃ fil axis, d.openSegments l half dir streams = { d.withOpened (l.openedColl half dir streams axis) with fil := fil } := by
  obtain ⟨k, hk, hline⟩ := (d.withOpened (l.openedColl half dir streams 0)).exists_line (by rw [Dev.blockN_withOpened]; exact hblock)
  obtain ⟨fil, axis, haxis, hrun⟩ := Dev.barrierRun_enters 4 (d := d.withOpened (l.openedColl half dir streams 0))
    (c := l.openedColl half dir streams 0) hnew rfl rfl hheld ⟨k, Nat.zero_le k, hk, hline⟩ (Nat.le_add_right_of_le (by decide))
  have hwaits : (d.withOpened (l.openedColl half dir streams 0)).barrierRun (l.collId half dir) false true 4 =
      { d.withOpened (l.openedColl half dir streams axis) with fil := fil } := hrun
  have hfind : ({ d.withOpened (l.openedColl half dir streams axis) with fil := fil } : Dev).coll? (l.collId half dir) =
      some (l.openedColl half dir streams axis) := find_youngest (c := l.openedColl half dir streams axis) hnew
  refine ⟨fil, axis, ?_⟩
  rw [Dev.openSegments_runs hnew, hwaits, Dev.collStep_opening hfind rfl haxis, Dev.collSweep_open fun x hx => ?_]
  rcases List.mem_append.mp hx with hx | hx
  · exact hclosing x hx
  · rw [List.mem_singleton.mp hx]
    exact fun hphase => CollPhase.noConfusion hphase

end

/-- The streams that an all-to-all expects: one from each device with rows. -/
def Blocks.expectedFrom (b : Blocks) (l : Layer) (half dir row : Nat) (spans : Nat → List (Nat × Nat)) : List Stream :=
  ((List.range b.blockN).filter (fun q => !(spans q).isEmpty)).map (fun q =>
    ⟨0, q, b.me, segHeader l.number half dir l.stepSeq q b.me (spans q).length row, spans q, []⟩)

theorem filterMap_unless {α β : Type} (p : α → Bool) (f : α → β) (xs : List α) :
    xs.filterMap (fun x => if p x then none else some (f x)) = (xs.filter (fun x => !p x)).map f := by
  induction xs with
  | nil => rfl
  | cons x xs ih =>
    cases hp : p x
    · rw [List.filterMap_cons_some (by rw [hp]; rfl), List.filter_cons_of_pos (by rw [hp]; rfl), List.map_cons, ih]
    · rw [List.filterMap_cons_none (by rw [hp]; rfl), List.filter_cons_of_neg (by rw [hp]; exact Bool.false_ne_true), ih]

section
variable {d : Dev} {l : Layer} {h : Nat} (hl : d.routing.layer = some l) (hh : h < 2) (hmay : d.mayOpen = true)
include hl hh hmay

/-- DISPATCH_OPEN of a half that is mapped and not yet dispatched. -/
theorem Dev.dispatchOpen_eq (hmapped : (l.halfOf h).mapped = true) (hnot : (l.halfOf h).dispatched = false) :
    d.dispatchOpen h = (d.modHalf h (fun x => { x with dispatched := true })).openSegments l h 0
      (d.expectedFrom l h 0 l.dispBytes (d.dispatchSpans l h)) := by
  have hgo : (decide (2 ≤ h) || !(l.halfOf h).mapped || (l.halfOf h).dispatched || !d.mayOpen) = false := by
    rw [hmapped, hnot, hmay, decide_eq_false (by omega)]
    rfl
  unfold Dev.dispatchOpen
  rw [hl]
  dsimp only
  rw [hgo, if_neg Bool.false_ne_true, filterMap_unless, Blocks.expectedFrom]

/-- RETURN_OPEN of a half whose dispatch and experts are done. -/
theorem Dev.returnOpen_eq (hdispatched : (l.halfOf h).dispatchOk = true) (hnot : (l.halfOf h).returned = false)
    (hdone : d.expertsDone l h = true) :
    d.returnOpen h = (d.modHalf h (fun x => { x with returned := true })).openSegments l h 1 (d.expectedFrom l h 1 l.retBytes
      (fun q => ((l.halfOf h).merged q).map (fun r => (l.combineAddr r.pair.token r.pair.rank, l.retBytes)))) := by
  have hgo : (decide (2 ≤ h) || !(l.halfOf h).dispatchOk || (l.halfOf h).returned || !d.expertsDone l h || !d.mayOpen) = false := by
    rw [hdispatched, hnot, hdone, hmay, decide_eq_false (by omega)]
    rfl
  unfold Dev.returnOpen
  rw [hl]
  dsimp only
  rw [hgo, if_neg Bool.false_ne_true, filterMap_unless, Blocks.expectedFrom]

end

/-- The half of a layer that is changed. -/
theorem Layer.halfOf_setHalf_same (l : Layer) (h : Nat) (x : Half) : (l.setHalf h x).halfOf h = x := by
  by_cases hh : h = 0 <;> simp [Layer.setHalf, Layer.halfOf, hh]

end Sys2Proof.Machine
end

section
/-! What stands after an all-to-all has opened. -/

namespace Sys2Proof.Machine

/-- A half is changed, and its all-to-all opens. -/
def Dev.opensFor (d : Dev) (h : Nat) (f : Half → Half) (c : Coll) (fil : Fil) : Dev := { (d.modHalf h f).withOpened c with fil := fil }

/-- The engine that opens an all-to-all makes no access: the row is the opening itself. -/
theorem Dev.act_opens {d : Dev} (c : Instr) {ecc : Ecc} {g : Dev → Dev} {l : Layer} {h dir : Nat} {f : Half → Half} {streams : List Stream}
    (hg : g (d.acting ecc) = ((d.acting ecc).modHalf h f).openSegments l h dir streams) (hheld : d.fil.held = []) (hblock : 1 < d.blockN)
    (hclosing : ∀ x ∈ d.colls, x.phase ≠ .closing) (hnew : ∀ x ∈ d.colls, x.id ≠ l.collId h dir) :
    ∃ fil axis, d.act c ecc g = d.opensFor h f (l.openedColl h dir streams axis) fil := by
  obtain ⟨fil, axis, hopen⟩ :=
    Dev.openSegments_eq (d := (d.acting ecc).modHalf h f) (l := l) (half := h) (dir := dir) hnew streams hheld hblock hclosing
  have hrow : g (d.acting ecc) = (d.acting ecc).opensFor h f (l.openedColl h dir streams axis) fil := hg.trans hopen
  refine ⟨fil, axis, ?_⟩
  rw [d.act_of_need c ecc g (by rw [hrow]; rfl), hrow]
  rfl

section
variable (d : Dev) (h : Nat) (f : Half → Half) (c : Coll) (fil : Fil)

theorem Dev.opensFor_colls : (d.opensFor h f c fil).colls = d.colls ++ [c] := rfl

theorem Dev.coll_opensFor_same (hnew : ∀ x ∈ d.colls, x.id ≠ c.id) : (d.opensFor h f c fil).coll? c.id = some c := by
  rw [Blocks.coll?, Dev.opensFor_colls, find_youngest hnew]

theorem Dev.coll_opensFor_other {k : Nat} (hk : k ≠ c.id) : (d.opensFor h f c fil).coll? k = d.coll? k := by
  have hnone : [c].find? (fun x => x.id = k) = none := List.find?_eq_none.mpr fun x hx => by
    rw [List.mem_singleton.mp hx]
    simpa using fun heq : c.id = k => hk heq.symm
  rw [Blocks.coll?, Dev.opensFor_colls, List.find?_append, hnone, Option.or_none, Blocks.coll?]

theorem Dev.layer_opensFor {l : Layer} (hl : d.routing.layer = some l) :
    (d.opensFor h f c fil).routing.layer = some (l.setHalf h (f (l.halfOf h))) := by
  show d.routing.layer.map _ = _
  rw [hl]
  rfl

theorem Dev.rd_opensFor {off : Nat} (hoff : off ≠ Reg.collCntOpened) : (d.opensFor h f c fil).rd off = d.rd off := d.rd_bump_other 1 hoff

end

end Sys2Proof.Machine
end

section
/-! The ordered combine of a half (R57 to R59): every token's row is summed over its filled ranks and stored, and no store reaches a returned row. -/

namespace Sys2Proof.Machine

/-- Equal numbers of codes pack into equal numbers of bytes (R85). -/
theorem length_packCodes (fmt : Nat) (codes : List Nat) : (packCodes fmt codes).length = packedBytes fmt codes.length := length_toLe _ _

theorem length_combineTerm (fmt w : Nat) (acc : List Nat) (row : List Byte) : (combineTerm fmt w acc row).length = acc.length := by
  rw [combineTerm, List.length_map, List.length_zipIdx]

/-- The sum of a token over some of its ranks, ascending (R58). -/
def Blocks.combinedSum (b : Blocks) (l : Layer) (t : Nat) (ranks : List (Nat × Nat)) (sum : List Nat) : List Nat :=
  ranks.foldl (fun a x => combineTerm l.outFmt x.2 a (b.devRead (l.combineAddr t x.1) l.retBytes)) sum

theorem Blocks.length_combinedSum (b : Blocks) (l : Layer) (t : Nat) (ranks : List (Nat × Nat)) (sum : List Nat) :
    (b.combinedSum l t ranks sum).length = sum.length :=
  foldl_keeps (fun a : List Nat => a.length = sum.length) (fun _ _ ha => (length_combineTerm _ _ _ _).trans ha) _ rfl

/-- Values packed as an output row. -/
def Layer.outRow (l : Layer) (sum : List Nat) : List Byte := packCodes l.outFmt (sum.map (fun v => convWord l.outFmt (f32 v)))

/-- Bytes of an output row. -/
def Layer.outBytes (l : Layer) : Nat := (l.outRow (List.replicate l.outElems 0)).length

/-- The combined row of a token. -/
def Blocks.combinedRow (b : Blocks) (l : Layer) (h t : Nat) : List Byte :=
  l.outRow (b.combinedSum l t ((l.halfOf h).filled t) (List.replicate l.outElems 0))

theorem Blocks.length_combinedRow (b : Blocks) (l : Layer) (h t : Nat) : (b.combinedRow l h t).length = l.outBytes := by
  rw [Blocks.combinedRow, Layer.outBytes, Layer.outRow, Layer.outRow, length_packCodes, length_packCodes, List.length_map, List.length_map,
    b.length_combinedSum]

/-- Where a token's output row lies. -/
def Layer.outAddr (l : Layer) (t : Nat) : Nat := l.addr 48 + t * l.outBytes

/-- A rank's row is read and added. -/
def Dev.combineRank (l : Layer) (t : Nat) (acc : Option (List Nat) × Dev) (x : Nat × Nat) : Option (List Nat) × Dev :=
  match acc with
  | (none, d) => (none, d)
  | (some sum, d) =>
    match d.readFor l.ctx (l.combineAddr t x.1) l.retBytes with
    | (none, d) => (none, d)
    | (some row, d) => (some (combineTerm l.outFmt x.2 sum row), d)

theorem Dev.combineToken_eq {d e : Dev} {l : Layer} {h t : Nat} {sum : List Nat}
    (hsum : ((l.halfOf h).filled t).foldl (Dev.combineRank l t) (some (List.replicate l.outElems 0), d) = (some sum, e)) :
    d.combineToken l h t = (some (l.outRow sum), e) := by
  have hfold : d.combineToken l h t =
      match ((l.halfOf h).filled t).foldl (Dev.combineRank l t) (some (List.replicate l.outElems 0), d) with
      | (none, d) => (none, d)
      | (some sum, d) => (some (l.outRow sum), d) := rfl
  rw [hfold, hsum]

/-- A device that differs from another one by counted reads. -/
def Dev.Counted (d e : Dev) : Prop := d.DirectFrame e ∧ e.hbm = d.hbm

theorem Dev.Counted.trans {d e f : Dev} (h : d.Counted e) (k : e.Counted f) : d.Counted f := ⟨h.1.trans k.1, k.2.trans h.2⟩

theorem Dev.Counted.dirRead {d e : Dev} (h : d.Counted e) (a n : Nat) : e.dirRead a n = d.dirRead a n :=
  Blocks.dirRead_congr h.1.ilv h.2 a n

theorem Dev.HbmFrame.now {d e : Dev} (h : d.HbmFrame e) (hnow : d.mig.now = {}) : e.mig.now = {} := by rw [h.mig, hnow]

/-- The ranks of a token whose returned rows lie in the direct part are read and summed. -/
theorem Dev.combineRanks_direct {s : Dev} {l : Layer} {t : Nat} (ranks : List (Nat × Nat)) {d : Dev} (sum : List Nat) (hnow : d.mig.now = {})
    (hreach : ∀ x ∈ ranks, d.Reaches (l.combineAddr t x.1) l.retBytes)
    (hsame : ∀ x ∈ ranks, d.dirRead (l.combineAddr t x.1) l.retBytes = s.devRead (l.combineAddr t x.1) l.retBytes) :
    ∃ e, ranks.foldl (Dev.combineRank l t) (some sum, d) = (some (s.combinedSum l t ranks sum), e) ∧ d.Counted e := by
  induction ranks generalizing d sum with
  | nil => exact ⟨d, rfl, .refl d, rfl⟩
  | cons x ranks ih =>
    have hx := hreach x List.mem_cons_self
    have hread : d.Counted (d.countHbm (l.combineAddr t x.1) l.retBytes false none) := ⟨d.directFrame_countHbm _ _ _ _, d.countHbm_hbm _ _ _ _⟩
    have hrank : Dev.combineRank l t (some sum, d) x =
        (some (combineTerm l.outFmt x.2 sum (s.devRead (l.combineAddr t x.1) l.retBytes)),
          d.countHbm (l.combineAddr t x.1) l.retBytes false none) := by
      rw [← hsame x List.mem_cons_self]
      unfold Dev.combineRank
      dsimp only
      rw [hx.readFor (by rw [hnow]) l.ctx]
    obtain ⟨e, hfold, hcounted⟩ := ih (d := d.countHbm (l.combineAddr t x.1) l.retBytes false none)
      (combineTerm l.outFmt x.2 sum (s.devRead (l.combineAddr t x.1) l.retBytes)) (hread.1.1.now hnow)
      (fun y hy => (hreach y (List.mem_cons_of_mem x hy)).frame hread.1)
      (fun y hy => (hread.dirRead _ _).trans (hsame y (List.mem_cons_of_mem x hy)))
    refine ⟨e, ?_, hread.trans hcounted⟩
    rw [List.foldl_cons, hrank]
    exact hfold

/-- Two ranges that do not overlap lie one before the other. -/
theorem apart_of_overlaps {a n c m : Nat} (hn : 0 < n) (hm : 0 < m) (h : overlaps a n c m = false) : a + n ≤ c ∨ c + m ≤ a := by
  simp only [overlaps, Bool.and_eq_false_iff, decide_eq_false_iff_not] at h
  omega

/-- Output rows of different tokens lie apart. -/
theorem Layer.outAddr_apart (l : Layer) {t u : Nat} (h : u ≠ t) :
    l.outAddr t + l.outBytes ≤ l.outAddr u ∨ l.outAddr u + l.outBytes ≤ l.outAddr t := by
  rcases Nat.lt_or_gt_of_ne h with hlt | hgt
  · have := Nat.mul_le_mul_right l.outBytes (Nat.succ_le_of_lt hlt)
    rw [Nat.succ_mul] at this
    simp only [Layer.outAddr]
    omega
  · have := Nat.mul_le_mul_right l.outBytes (Nat.succ_le_of_lt hgt)
    rw [Nat.succ_mul] at this
    simp only [Layer.outAddr]
    omega

/-- What the combine of a half asks of its ranges in a device: output rows and returned rows in the direct part, the output rows outside the
MEM_EXPORT window and clear of the returned rows. -/
structure Dev.CombinePlaced (s : Dev) (l : Layer) (h : Nat) (tokens : List Nat) : Prop where
  out : ∀ t ∈ tokens, s.Reaches (l.outAddr t) l.outBytes
  unshared : ∀ t ∈ tokens, overlaps (l.outAddr t) l.outBytes (s.rd Reg.memExportBase) s.exportBytes = false
  row : ∀ t ∈ tokens, ∀ x ∈ (l.halfOf h).filled t, s.Reaches (l.combineAddr t x.1) l.retBytes
  apart : ∀ t ∈ tokens, ∀ x ∈ (l.halfOf h).filled t, ∀ u ∈ tokens, overlaps (l.outAddr u) l.outBytes (l.combineAddr t x.1) l.retBytes = false

/-- Device d is device s with the rows of some tokens combined: they stand, and nothing else in HBM has changed but other tokens' rows. -/
structure Dev.Combined (s : Dev) (l : Layer) (h : Nat) (tokens done : List Nat) (d : Dev) : Prop where
  frame : s.DirectFrame d
  within : ∀ t ∈ done, t ∈ tokens
  rows : ∀ t ∈ done, d.dirRead (l.outAddr t) l.outBytes = s.combinedRow l h t
  others : ∀ y, (∀ t ∈ tokens, ∀ i, i < l.outBytes → y ≠ hbmKey s.ilv (l.outAddr t + i)) → memByte d.hbm y = memByte s.hbm y

/-- Before the first token. -/
theorem Dev.Combined.start (s : Dev) (l : Layer) (h : Nat) (tokens : List Nat) : s.Combined l h tokens [] s :=
  ⟨.refl s, fun _ ht => absurd ht List.not_mem_nil, fun _ ht => absurd ht List.not_mem_nil, fun _ _ => rfl⟩

section
variable {s d : Dev} {l : Layer} {h : Nat} {tokens done : List Nat} (hplaced : s.CombinePlaced l h tokens) (hd : s.Combined l h tokens done d)
include hplaced hd

/-- A returned row is what it was: no output row reaches it. -/
theorem Dev.Combined.returned {t : Nat} (ht : t ∈ tokens) {x : Nat × Nat} (hx : x ∈ (l.halfOf h).filled t) :
    d.dirRead (l.combineAddr t x.1) l.retBytes = s.devRead (l.combineAddr t x.1) l.retBytes := by
  have hrow := hplaced.row t ht x hx
  have hfits := hrow.fits
  rw [Blocks.devRead_direct _ hfits, Blocks.dirRead, hd.frame.ilv]
  refine List.map_congr_left fun i hi => hd.others _ fun u hu j hj hkey => ?_
  have hi' := List.mem_range.mp hi
  have hout := hplaced.out u hu
  have hfits' := hout.fits
  have heq := hbmKey_inj (by omega) (by omega) hkey
  have := apart_of_overlaps hout.pos hrow.pos (hplaced.apart t ht x hx u hu)
  omega

/-- One token more. -/
theorem Dev.Combined.step (hnow : s.mig.now = {}) (hocc : l.occ = none) {t : Nat} (ht : t ∈ tokens) (q j : Nat) :
    ∃ e, d.combineOne l h q j t = (true, e) ∧ s.Combined l h tokens (t :: done) e := by
  obtain ⟨c, hsum, hcounted⟩ := Dev.combineRanks_direct (s := s) (t := t) ((l.halfOf h).filled t) (List.replicate l.outElems 0)
    (hd.frame.1.now hnow) (fun x hx => (hplaced.row t ht x hx).frame hd.frame) (fun x hx => hd.returned hplaced ht hx)
  have hframe := hd.frame.trans hcounted.1
  have hlen := s.length_combinedRow l h t
  have hout : c.Reaches (l.outAddr t) (s.combinedRow l h t).length := by
    rw [hlen]
    exact (hplaced.out t ht).frame hframe
  have hshared : overlaps (l.outAddr t) (s.combinedRow l h t).length (c.rd Reg.memExportBase) c.exportBytes = false := by
    rw [hlen, Blocks.exportBytes, hframe.2 _ (by decide), hframe.2 _ (by decide)]
    exact hplaced.unshared t ht
  have hone : d.combineOne l h q j t = (true, c.directStore (l.outAddr t) (s.combinedRow l h t)) := by
    unfold Dev.combineOne
    rw [Dev.combineToken_eq hsum]
    dsimp only
    rw [show l.outRow _ = s.combinedRow l h t from rfl, hlen, show l.addr 48 + t * l.outBytes = l.outAddr t from rfl,
      hout.writeFor (hframe.1.now hnow) hshared l.ctx]
    dsimp only
    rw [hocc]
  have hstore := hframe.trans (c.directFrame_directStore (l.outAddr t) (s.combinedRow l h t))
  refine ⟨_, hone, hstore, fun u hu => ?_, fun u hu => ?_, fun y hy => ?_⟩
  · rcases List.mem_cons.mp hu with rfl | hu
    · exact ht
    · exact hd.within u hu
  · rw [Dev.dirRead_directStore]
    by_cases hut : u = t
    · rw [hut, ← hlen]
      exact c.dirRead_dirWrite_same _ _ hout.fits
    · have hdone : u ∈ done := (List.mem_cons.mp hu).resolve_left hut
      have hother := (hplaced.out u (hd.within u hdone)).fits
      rw [c.dirRead_dirWrite_apart _ _ hout.fits hother (by rw [hlen]; exact l.outAddr_apart hut), hcounted.dirRead, hd.rows u hdone]
  · rw [Dev.directStore_hbm, Dev.memByte_dirWrite_apart _ _ _ _ fun i hi => ?_, hcounted.2]
    · exact hd.others y hy
    · rw [hframe.ilv]
      exact hy t ht i (hlen ▸ hi)

/-- All tokens of a list. -/
theorem Dev.Combined.all (hnow : s.mig.now = {}) (hocc : l.occ = none) (xs : List (Nat × Nat × Nat)) (hxs : ∀ x ∈ xs, x.2.2 ∈ tokens) :
    ∃ e seen, xs.foldl (fun (acc : Bool × Dev) x => if acc.1 then acc.2.combineOne l h x.1 x.2.1 x.2.2 else acc) (true, d) = (true, e) ∧
      s.Combined l h tokens seen e ∧ (∀ t ∈ done, t ∈ seen) ∧ ∀ x ∈ xs, x.2.2 ∈ seen := by
  induction xs generalizing d done with
  | nil => exact ⟨d, done, rfl, hd, fun _ ht => ht, fun _ hx => absurd hx List.not_mem_nil⟩
  | cons x xs ih =>
    obtain ⟨e, hone, hstep⟩ := hd.step hplaced hnow hocc (hxs x List.mem_cons_self) x.1 x.2.1
    obtain ⟨f, seen, hfold, hall, hbefore, hafter⟩ := ih hstep fun y hy => hxs y (List.mem_cons_of_mem x hy)
    refine ⟨f, seen, ?_, hall, fun t ht => hbefore t (List.mem_cons_of_mem _ ht), fun y hy => ?_⟩
    · rw [List.foldl_cons, if_pos rfl, hone]
      exact hfold
    · rcases List.mem_cons.mp hy with rfl | hy
      · exact hbefore _ List.mem_cons_self
      · exact hafter y hy

end

end Sys2Proof.Machine
end

section
/-! The end of an ordered combine: the half is complete, and with the last half the layer (R34, R59, R60). -/

namespace Sys2Proof.Machine

/-- A half that is complete holds no plan buffer. -/
def Half.closed (x : Half) : Half := { x with done := true, res := x.res.map (fun r => { r with bufs := [] }) }

/-- The cores that combined a half are the context's, and the half is complete. -/
def Dev.closeHalf (d : Dev) (l : Layer) (h : Nat) : Dev :=
  ((d.combineCores l h).foldl (fun d p => d.ownCore l.ctx p) d).modHalf h Half.closed

/-- The layer ends with its last half. -/
def Dev.settleLayer (d : Dev) : Dev :=
  match d.routing.layer with
  | some l => if l.complete then d.endLayer l else d
  | none => d

/-- ORDERED_COMBINE of a half whose tokens are combined and that holds no plan buffer. -/
theorem Dev.orderedCombine_eq {d e : Dev} {l : Layer} {h : Nat} (hl : d.routing.layer = some l) (hh : h < 2)
    (hreturned : (l.halfOf h).returnOk = true) (hnot : (l.halfOf h).done = false) (hready : d.combineReady l h = true)
    (hbufs : (l.halfOf h).res.all (fun r => r.bufs.isEmpty) = true)
    (hfold : (l.halfTokens h).foldl (fun (acc : Bool × Dev) x => if acc.1 then acc.2.combineOne l h x.1 x.2.1 x.2.2 else acc) (true, d) =
      (true, e)) : d.orderedCombine h = (e.closeHalf l h).settleLayer := by
  have hgo : (decide (2 ≤ h) || !(l.halfOf h).returnOk || (l.halfOf h).done || !d.combineReady l h) = false := by
    rw [hreturned, hnot, hready, decide_eq_false (by omega)]
    rfl
  have hnone : (l.halfOf h).res.flatMap (fun r => r.bufs) = [] :=
    List.flatMap_eq_nil_iff.mpr fun r hr => List.isEmpty_iff.mp (List.all_eq_true.mp hbufs r hr)
  unfold Dev.orderedCombine
  rw [hl]
  dsimp only
  rw [hgo, if_neg Bool.false_ne_true, hfold]
  dsimp only
  rw [hnone]
  rfl

/-- The cores of a combine change owner, nothing else changes. -/
theorem Dev.closeHalf_eq (d : Dev) (l : Layer) (h : Nat) : ∃ cores, d.closeHalf l h = ({ d with cores := cores } : Dev).modHalf h Half.closed := by
  obtain ⟨cores, hcores⟩ := foldl_keeps (fun e : Dev => ∃ cores, e = { d with cores := cores }) (f := fun d p => d.ownCore l.ctx p)
    (fun e p he => by
      obtain ⟨_, rfl⟩ := he
      unfold Dev.ownCore
      split <;> exact ⟨_, rfl⟩) (d.combineCores l h) ⟨_, rfl⟩
  exact ⟨cores, by rw [Dev.closeHalf, hcores]⟩

theorem Dev.layer_closeHalf {d : Dev} {l : Layer} (h : Nat) (hl : d.routing.layer = some l) :
    (d.closeHalf l h).routing.layer = some (l.setHalf h (l.halfOf h).closed) := by
  obtain ⟨cores, hclose⟩ := d.closeHalf_eq l h
  rw [hclose]
  show d.routing.layer.map _ = _
  rw [hl]
  rfl

/-- What a layer keeps when one of its halves changes. -/
theorem Layer.setHalf_fields (l : Layer) (h : Nat) (x : Half) : (l.setHalf h x).ctx = l.ctx ∧ (l.setHalf h x).ring = l.ring ∧
    (l.setHalf h x).seq = l.seq ∧ (l.setHalf h x).result0 = l.result0 ∧ (l.setHalf h x).stepSeq = l.stepSeq ∧
    (l.setHalf h x).leaving = l.leaving := by
  unfold Layer.setHalf
  split <;> exact ⟨rfl, rfl, rfl, rfl, rfl, rfl⟩

theorem Layer.halfOf_setHalf_other (l : Layer) {h : Nat} (x : Half) (hh : h < 2) : (l.setHalf h x).halfOf (1 - h) = l.halfOf (1 - h) := by
  interval_cases h <;> rfl

/-- The layer is complete with a half when the other one is, or when there is no other. -/
theorem Layer.complete_closed (l : Layer) {h : Nat} (hh : h < 2) :
    (l.setHalf h (l.halfOf h).closed).complete = true ↔ (l.halfOf (1 - h)).done = true ∨ (l.split = false ∧ h = 0) := by
  interval_cases h
  · show (true && (!l.split || l.b.done)) = true ↔ l.b.done = true ∨ (l.split = false ∧ 0 = 0)
    simp [or_comm]
  · show (l.a.done && (!l.split || true)) = true ↔ l.a.done = true ∨ (l.split = false ∧ 1 = 0)
    simp

/-- A layer execution outside every occurrence, with no pin and no leaving sequence, ends with its STEP. -/
theorem Dev.endLayer_eq {d : Dev} {l : Layer} {j : Job} (hpins : (d.ctx l.ctx).demandPins = []) (hleaving : l.leaving = [])
    (hj : d.job? l.ring l.seq = some j) (hocc : j.occ = none) :
    d.endLayer l = ((d.dropLayer l).modCtx l.ctx (fun x => { x with demandPins := [] })).endJob j (d.recordOf j 0 false l.result0 l.stepSeq) := by
  have hdrop : (d.dropLayer l).dropDemandPins l.ctx = (d.dropLayer l).modCtx l.ctx (fun x => { x with demandPins := [] }) := by
    unfold Dev.dropDemandPins
    rw [show ((d.dropLayer l).ctx l.ctx).demandPins = [] from hpins, List.foldl_nil]
  have hsteps : d.endLayer l = ((d.dropLayer l).dropDemandPins l.ctx).finishStep l.ring l.seq l.result0 l.stepSeq := by
    unfold Dev.endLayer
    rw [hleaving]
    rfl
  have hjob : ((d.dropLayer l).modCtx l.ctx (fun x => { x with demandPins := [] })).job? l.ring l.seq = some j := hj
  rw [hsteps, hdrop]
  unfold Dev.finishStep
  rw [hjob]
  dsimp only
  rw [hocc, if_neg Bool.false_ne_true, Dev.finish_eq 0 false l.result0 l.stepSeq hjob hocc]
  rfl

section
variable {d : Dev} {l : Layer} {h : Nat} (hl : d.routing.layer = some l) (hh : h < 2)
include hl hh

/-- The layer waits for its other half. -/
theorem Dev.settleLayer_waits (hother : (l.halfOf (1 - h)).done = false) (htwo : l.split = true ∨ h = 1) :
    (d.closeHalf l h).settleLayer = d.closeHalf l h := by
  have hnot : (l.setHalf h (l.halfOf h).closed).complete = false := by
    refine eq_false_of_ne_true fun hc => ?_
    rcases (l.complete_closed hh).mp hc with hdone | ⟨hsplit, hzero⟩
    · rw [hother] at hdone
      exact Bool.false_ne_true hdone
    · rcases htwo with htwo | htwo
      · rw [hsplit] at htwo
        exact Bool.false_ne_true htwo
      · omega
  unfold Dev.settleLayer
  rw [Dev.layer_closeHalf h hl]
  dsimp only
  rw [hnot, if_neg Bool.false_ne_true]

/-- The layer ends with this half. -/
theorem Dev.settleLayer_ends (hlast : (l.halfOf (1 - h)).done = true ∨ (l.split = false ∧ h = 0)) :
    (d.closeHalf l h).settleLayer = (d.closeHalf l h).endLayer (l.setHalf h (l.halfOf h).closed) := by
  unfold Dev.settleLayer
  rw [Dev.layer_closeHalf h hl]
  dsimp only
  rw [(l.complete_closed hh).mpr hlast, if_pos rfl]

end

/-- A device that ends a layer: its STEP's record, and what does not change. -/
theorem Dev.endLayer_ended {s : State} {d : Dev} {l : Layer} {j : Job} (hpins : (d.ctx l.ctx).demandPins = []) (hleaving : l.leaving = [])
    (hj : d.job? l.ring l.seq = some j) (hocc : j.occ = none) (hstage : (d.ctx j.ctx).stagePins = []) (hrings : d.rings = s.dev.rings) :
    (∃ jobs rings ctxs routing, d.endLayer l = { d with jobs := jobs, rings := rings, ctxs := ctxs, routing := routing } ∧
      routing.layer = none ∧ routing.lastSeq = some l.stepSeq) ∧
      Safety.Ended s (s.onDev (d.endLayer l)) j (d.recordOf j 0 false l.result0 l.stepSeq) := by
  have hstage' : (((d.dropLayer l).modCtx l.ctx (fun x => { x with demandPins := [] })).ctx j.ctx).stagePins = [] :=
    ((d.dropLayer l).ctx_modCtx_keeps Ctx.stagePins l.ctx (f := fun x => { x with demandPins := [] }) (fun _ => rfl) j.ctx).trans hstage
  have hended := Dev.endJob_ended (s := s) (d := (d.dropLayer l).modCtx l.ctx (fun x => { x with demandPins := [] }))
    (d.recordOf j 0 false l.result0 l.stepSeq) hrings hstage'
  obtain ⟨⟨jobs, rings, ctxs, heq⟩, -⟩ := Dev.endJob_frame (d.recordOf j 0 false l.result0 l.stepSeq) hstage'
  rw [Dev.endLayer_eq hpins hleaving hj hocc]
  exact ⟨⟨jobs, rings, ctxs, _, heq, rfl, rfl⟩, hended⟩

/-- Device e is device d but for what the end of a half can change beside the output rows. -/
def Dev.CloseFrame (d e : Dev) : Prop :=
  ∃ cores routing jobs rings ctxs, e = { d with cores := cores, routing := routing, jobs := jobs, rings := rings, ctxs := ctxs }

section
variable {d : Dev} {l : Layer} {h : Nat} (hl : d.routing.layer = some l) (hh : h < 2)
include hl hh

/-- A half that is complete before the other one leaves the layer in progress. -/
theorem Dev.closeHalf_waits (hother : (l.halfOf (1 - h)).done = false) (htwo : l.split = true ∨ h = 1) :
    d.CloseFrame (d.closeHalf l h).settleLayer ∧ (d.closeHalf l h).settleLayer.jobs = d.jobs ∧
      ∃ m, (d.closeHalf l h).settleLayer.routing.layer = some m ∧ (m.halfOf h).done = true ∧ (m.halfOf (1 - h)).done = false := by
  obtain ⟨cores, hclose⟩ := d.closeHalf_eq l h
  rw [Dev.settleLayer_waits hl hh hother htwo]
  refine ⟨by rw [hclose]; exact ⟨_, _, _, _, _, rfl⟩, by rw [hclose]; rfl, _, Dev.layer_closeHalf h hl, ?_, ?_⟩
  · rw [l.halfOf_setHalf_same]
    rfl
  · rw [l.halfOf_setHalf_other _ hh, hother]

/-- The last half ends the layer with its STEP. -/
theorem Dev.closeHalf_ends {s : State} {j : Job} (hlast : (l.halfOf (1 - h)).done = true ∨ (l.split = false ∧ h = 0))
    (hpins : (d.ctx l.ctx).demandPins = []) (hleaving : l.leaving = []) (hj : d.job? l.ring l.seq = some j) (hocc : j.occ = none)
    (hstage : (d.ctx j.ctx).stagePins = []) (hrings : d.rings = s.dev.rings) :
    d.CloseFrame (d.closeHalf l h).settleLayer ∧ (d.closeHalf l h).settleLayer.routing.layer = none ∧
      (d.closeHalf l h).settleLayer.routing.lastSeq = some l.stepSeq ∧
      Safety.Ended s (s.onDev (d.closeHalf l h).settleLayer) j (d.recordOf j 0 false l.result0 l.stepSeq) := by
  obtain ⟨cores, hclose⟩ := d.closeHalf_eq l h
  obtain ⟨hctx, hring, hseq, hresult, hstep, hleave⟩ := l.setHalf_fields h (l.halfOf h).closed
  obtain ⟨⟨jobs, rings, ctxs, routing, heq, hnone, hlastSeq⟩, hended⟩ := Dev.endLayer_ended (s := s) (d := d.closeHalf l h)
    (l := l.setHalf h (l.halfOf h).closed) (j := j) (by rw [hctx, hclose]; exact hpins) (hleave.trans hleaving)
    (by rw [hring, hseq, hclose]; exact hj) hocc (by rw [hclose]; exact hstage) (by rw [hclose]; exact hrings)
  have hrecord : (d.closeHalf l h).recordOf j 0 false (l.setHalf h (l.halfOf h).closed).result0 (l.setHalf h (l.halfOf h).closed).stepSeq =
      d.recordOf j 0 false l.result0 l.stepSeq := by
    rw [hresult, hstep, hclose]
    rfl
  rw [hrecord] at hended
  rw [Dev.settleLayer_ends hl hh hlast]
  refine ⟨?_, by rw [heq]; exact hnone, by rw [heq]; exact hlastSeq.trans (congrArg some hstep), hended⟩
  rw [heq, hclose]
  exact ⟨_, _, _, _, _, rfl⟩

end

section
variable {s : Dev} {l : Layer} {h : Nat} {tokens done : List Nat} {e f : Dev} (hall : s.Combined l h tokens done e) (hclose : e.CloseFrame f)
include hall hclose

/-- The combined rows stand when the half has ended. -/
theorem Dev.Combined.devRead_close (hplaced : s.CombinePlaced l h tokens) {t : Nat} (ht : t ∈ done) :
    f.devRead (l.outAddr t) l.outBytes = s.combinedRow l h t := by
  have hsame : f.dirRead (l.outAddr t) l.outBytes = e.dirRead (l.outAddr t) l.outBytes := by
    obtain ⟨_, _, _, _, _, rfl⟩ := hclose
    rfl
  rw [Blocks.devRead_direct _ (hplaced.out t (hall.within t ht)).fits, hsame, hall.rows t ht]

theorem Dev.Combined.blocks_close : f.hbm = e.hbm ∧ f.mig = s.mig ∧ f.loc = s.loc ∧ f.vault = s.vault ∧ f.hostMem = s.hostMem ∧
    f.colls = s.colls := by
  obtain ⟨_, _, _, _, _, rfl⟩ := hclose
  obtain ⟨_, _, _, rfl⟩ := hall.frame.1
  exact ⟨rfl, rfl, rfl, rfl, rfl, rfl⟩

end

/-- What an engine knew of its accesses is no part of a command's end. -/
theorem ended_acted {s : State} {d : Dev} {j : Job} {r : Record} (now : EngineNow) (h : Safety.Ended s (s.onDev d) j r) :
    Safety.Ended s (s.onDev (d.acted now)) j r := by
  unfold Safety.Ended at h ⊢
  exact h

/-- ORDERED_COMBINE of an engine that misses nothing. -/
theorem exec_orderedCombine {s : State} {h : Nat} {ecc : Ecc} {f : Dev} (hop : Safety.Operating s)
    (hf : (s.dev.acting ecc).orderedCombine h = f) (hneed : f.mig.now.need = []) :
    exec (.orderedCombine h ecc) s = .next (s.onDev (f.acted s.dev.mig.now)) := by
  show execOrderedCombine h ecc s = _
  rw [execOrderedCombine, Dev.live_running _ _ hop, Dev.act_of_need _ _ _ _ (by rw [hf]; exact hneed), hf]

end Sys2Proof.Machine
end

section
open Sys2Proof Sys2Proof.Machine

/-- Settles O41: an all-to-all opens into the first round of its barrier that has other devices, where it waits without a vote; the combine keeps,
token by token, that the rows combined so far stand and nothing else in HBM has changed, and the layer's end is its STEP's. -/
theorem allToAllAndCombine : Obligations.AllToAllAndCombine := by
  unfold Obligations.AllToAllAndCombine
  constructor
  · intro s h dir ecc l c hop hh hl hmay hheld hblock hclosing id row spans hrow hnew
    have hopens : ∃ (f : Half → Half) (fil : Fil) (axis : Nat),
        exec c s = .next (s.onDev (s.dev.opensFor h f (l.openedColl h dir (s.dev.expectedFrom l h dir row spans) axis) fil)) ∧
        (if dir = 0 then (f (l.halfOf h)).dispatched else (f (l.halfOf h)).returned) = true := by
      rcases hrow with ⟨rfl, rfl, hmapped, hnot⟩ | ⟨rfl, rfl, hdispatched, hnot, hdone⟩
      · obtain ⟨fil, axis, hact⟩ := Dev.act_opens (d := s.dev) (.dispatchOpen h ecc) (ecc := ecc) (g := fun d => d.dispatchOpen h)
          (Dev.dispatchOpen_eq (d := s.dev.acting ecc) hl hh hmay hmapped hnot) hheld hblock hclosing hnew
        refine ⟨fun x => { x with dispatched := true }, fil, axis, ?_, rfl⟩
        show execDispatchOpen h ecc s = _
        rw [execDispatchOpen, Dev.live_running _ _ hop, hact]
        rfl
      · obtain ⟨fil, axis, hact⟩ := Dev.act_opens (d := s.dev) (.returnOpen h) (ecc := {}) (g := fun d => d.returnOpen h)
          (Dev.returnOpen_eq (d := s.dev.acting {}) hl hh hmay hdispatched hnot hdone) hheld hblock hclosing hnew
        refine ⟨fun x => { x with returned := true }, fil, axis, ?_, rfl⟩
        show execReturnOpen h s = _
        rw [execReturnOpen, Dev.live_running _ _ hop, hact]
        rfl
    obtain ⟨f, fil, axis, hexec, hmark⟩ := hopens
    exact ⟨_, hexec, ⟨_, s.dev.coll_opensFor_same h f _ fil hnew, rfl, rfl, rfl, rfl, rfl⟩,
      fun k hk => s.dev.coll_opensFor_other h f _ fil hk, ⟨_, s.dev.layer_opensFor h f _ fil hl, by rw [l.halfOf_setHalf_same h]; exact hmark⟩,
      fun off hoff => s.dev.rd_opensFor h f _ fil (by simpa using hoff), fun _ => ⟨rfl, rfl, rfl, rfl⟩, rfl, rfl⟩
  · intro s h ecc l j hop hh hl hecc hreturned hnot hocc hready hbufs hleaving hpins hj hjocc hstage tokens n out hranges
    have hnow : (s.dev.acting ecc).mig.now = {} := by rw [Dev.acting, hecc]
    have hreach : ∀ {a m : Nat}, Safety.Direct s a m → (s.dev.acting ecc).Reaches a m := fun ⟨hpos, hpart, hcheck⟩ => ⟨hpos, hpart, hcheck⟩
    have hplaced : (s.dev.acting ecc).CombinePlaced l h tokens := by
      constructor <;> intro t ht <;> obtain ⟨hout, hshared, hrows⟩ := hranges t ht
      · exact hreach hout
      · exact hshared
      · exact fun x hx => hreach (hrows x hx).1
      · exact fun x hx => (hrows x hx).2
    obtain ⟨e, seen, hfold, hall, -, hseen⟩ := Dev.Combined.all hplaced (Dev.Combined.start _ l h tokens) hnow hocc (l.halfTokens h)
      fun x hx => List.mem_map_of_mem hx
    have hrow := Dev.orderedCombine_eq (d := s.dev.acting ecc) hl hh hreturned hnot hready hbufs hfold
    obtain ⟨hrouting, -, hctxs, hrings, hjobs, -⟩ := hall.frame.1.blocks
    have hctx : ∀ c, e.ctx c = s.dev.ctx c := fun c => by rw [Blocks.ctx, hctxs]; rfl
    have hrecord : e.recordOf j 0 false l.result0 l.stepSeq = s.dev.recordOf j 0 false l.result0 l.stepSeq := by
      rw [Blocks.recordOf, Blocks.recordOf, Blocks.stroke, Blocks.stroke, hall.frame.2 _ (by decide)]
      rfl
    have hresult : e.CloseFrame (e.closeHalf l h).settleLayer ∧
        ((l.halfOf (1 - h)).done = false → (l.split = true ∨ h = 1) → (e.closeHalf l h).settleLayer.jobs = s.dev.jobs ∧
          ∃ m, (e.closeHalf l h).settleLayer.routing.layer = some m ∧ (m.halfOf h).done = true ∧ (m.halfOf (1 - h)).done = false) ∧
        ((l.halfOf (1 - h)).done = true ∨ (l.split = false ∧ h = 0) → (e.closeHalf l h).settleLayer.routing.layer = none ∧
          (e.closeHalf l h).settleLayer.routing.lastSeq = some l.stepSeq ∧
          Safety.Ended s (s.onDev (e.closeHalf l h).settleLayer) j (s.dev.recordOf j 0 false l.result0 l.stepSeq)) := by
      have hle : e.routing.layer = some l := (congrArg Routing.layer hrouting).trans hl
      by_cases hlast : (l.halfOf (1 - h)).done = true ∨ (l.split = false ∧ h = 0)
      · obtain ⟨hclose, hends⟩ := Dev.closeHalf_ends (s := s) hle hh hlast (by rw [hctx]; exact hpins) hleaving
          (by rw [Blocks.job?, hjobs]; exact hj) hjocc (by rw [hctx]; exact hstage) hrings
        rw [hrecord] at hends
        refine ⟨hclose, fun hother htwo => ?_, fun _ => hends⟩
        rcases hlast with hdone | ⟨hsplit, hzero⟩
        · exact absurd (hdone.symm.trans hother) (by decide)
        · rcases htwo with htwo | htwo
          · exact absurd (htwo.symm.trans hsplit) (by decide)
          · omega
      · obtain ⟨hclose, hwaits⟩ := Dev.closeHalf_waits hle hh (eq_false_of_ne_true fun hdone => hlast (Or.inl hdone))
          (by_contra fun htwo => hlast (Or.inr ⟨eq_false_of_ne_true fun hs => htwo (Or.inl hs), by omega⟩))
        rw [hjobs] at hwaits
        exact ⟨hclose, fun _ _ => hwaits, fun h => absurd h hlast⟩
    generalize (e.closeHalf l h).settleLayer = f at hrow hresult
    obtain ⟨hclose, hwaits, hends⟩ := hresult
    obtain ⟨hhbm, hmig, hloc, hvault, hhost, hcolls⟩ := hall.blocks_close hclose
    refine ⟨_, exec_orderedCombine hop hrow (by rw [hmig, hnow]), fun tok htok => ?_, fun y hy => ?_, hloc, hvault, hhost, hcolls, hwaits,
      fun hlast => ?_⟩
    · obtain ⟨x, hx, rfl⟩ := List.mem_map.mp htok
      exact hall.devRead_close hclose hplaced (hseen x hx)
    · exact (congrArg (fun m => memByte m y) hhbm).trans (hall.others y hy)
    · obtain ⟨hnone, hlastSeq, hended⟩ := hends hlast
      exact ⟨hnone, hlastSeq, ended_acted _ hended⟩
end

section
/-! Issue (R70 to R72, R103): whose turn an instruction is, row by row, and what stops it before its row's own work begins. -/

namespace Sys2Proof.Machine

/-! An opcode is the first byte of its instruction. -/

theorem insnOp_cons (b : Byte) (bs : List Byte) : insnOp (b :: bs) = b.toNat := by
  have hb : b.toNat < 256 := b.isLt
  show (b.toNat + 256 * leNat (bs.take 7)) / 2 ^ 0 % 2 ^ 8 = b.toNat
  omega

theorem Blocks.insnOp_locRead (b : Blocks) (p x : Nat) : insnOp (b.locRead p x 32) = b.locNat p x 1 := insnOp_cons _ _

/-! The common path of issue. -/

/-- A core without a program, without its clock or that may not issue does nothing. -/
theorem Dev.onInsn_idle {d : Dev} {p : Nat} (op : Nat) (ecc : Ecc) (run : Dev → Prog → List Byte → Dev)
    (h : d.prog? p = none ∨ d.clocked p = false ∨ ∃ g, d.prog? p = some g ∧ (16 ≤ g.score.length ∨ g.quiesce = true)) :
    d.onInsn p op ecc run = d := by
  unfold Dev.onInsn
  cases hp : d.prog? p with
  | none => rfl
  | some g =>
    dsimp only
    refine if_pos ?_
    rcases h with h | h | ⟨g', hg, h | h⟩
    · exact absurd (hp.symm.trans h) (by simp)
    · simp [h]
    · obtain rfl : g = g' := Option.some.inj (hp.symm.trans hg)
      simp [Prog.mayIssue, h]
    · obtain rfl : g = g' := Option.some.inj (hp.symm.trans hg)
      simp [Prog.mayIssue, h]

section
variable {d : Dev} {p op x : Nat} {ecc : Ecc} {g : Prog} {bs : List Byte} (run : Dev → Prog → List Byte → Dev)
  (hprog : d.prog? p = some g) (hissue : g.mayIssue = true) (hclock : d.clocked p = true)
include hprog hissue hclock

/-- The next instruction of the slot is another's. -/
theorem Dev.onInsn_stray (hnot : ∀ x, d.nextIn p g (opSlot op) = some x → insnOp (d.locRead p x 32) ≠ op) :
    d.onInsn p op ecc run = d.strayInsn p g := by
  have hnone : (d.nextIn p g (opSlot op)).filter (fun x => d.locNat p x 1 = op) = none := by
    refine Option.filter_eq_none_iff.mpr fun x hx => ?_
    have hop := hnot x hx
    rw [Blocks.insnOp_locRead] at hop
    simpa using hop
  unfold Dev.onInsn
  simp only [hprog, hissue, hclock, hnone, Bool.not_true, Bool.or_self, Bool.false_eq_true, if_false]

section
variable (hnext : d.nextIn p g (opSlot op) = some x) (hbs : d.locRead p x 32 = bs) (hop : insnOp bs = op)
include hnext hbs hop

/-- The instruction whose turn it is: held back, or it meets an uncorrectable word where it was fetched, or its row's work begins. -/
theorem Dev.onInsn_next : d.onInsn p op ecc run =
    if d.heldBack p g (opSlot op) x bs then d
    else match (if ecc.place = 0 then ecc.badLocal.filter (fun w => x ≤ w && w < x + 32) else none) with
      | some w => (d.countCorr p 0 { ecc with corrHbm := 0 }).localFault p (g.at_ x) x 0x28 (opSlot op) w
      | none => run d (g.at_ x) bs := by
  have hsome : (d.nextIn p g (opSlot op)).filter (fun x => d.locNat p x 1 = op) = some x := by
    rw [hnext]
    have hbyte : d.locNat p x 1 = op := by rw [← Blocks.insnOp_locRead, hbs, hop]
    simp [hbyte]
  unfold Dev.onInsn
  simp only [hprog, hissue, hclock, hsome, hbs, Bool.not_true, Bool.or_self, Bool.false_eq_true, if_false] <;> rfl

theorem Dev.onInsn_held (h : d.heldBack p g (opSlot op) x bs = true) : d.onInsn p op ecc run = d := by
  rw [Dev.onInsn_next run hprog hissue hclock hnext hbs hop, if_pos h]

/-- A fetch that meets an uncorrectable word. -/
theorem Dev.onInsn_badFetch {w : Nat} (h : d.heldBack p g (opSlot op) x bs = false) (hplace : ecc.place = 0) (hbad : ecc.badLocal = some w)
    (hlo : x ≤ w) (hhi : w < x + 32) (hcorr : ecc.corrLocal = 0) :
    d.onInsn p op ecc run = d.localFault p (g.at_ x) x 0x28 (opSlot op) w := by
  have hfilter : ecc.badLocal.filter (fun w => x ≤ w && w < x + 32) = some w := by simp [hbad, hlo, hhi]
  rw [Dev.onInsn_next run hprog hissue hclock hnext hbs hop, h, if_neg Bool.false_ne_true, if_pos hplace, hfilter]
  simp [Dev.countCorr, Dev.countEcc, hcorr]

/-- A fetch that meets none. -/
theorem Dev.onInsn_run (h : d.heldBack p g (opSlot op) x bs = false)
    (hfetch : ∀ w, ecc.badLocal = some w → ecc.place ≠ 0 ∨ w < x ∨ x + 32 ≤ w) :
    d.onInsn p op ecc run = run d (g.at_ x) bs := by
  have hnone : (if ecc.place = 0 then ecc.badLocal.filter (fun w => x ≤ w && w < x + 32) else none) = none := by
    split
    · next hplace =>
      refine Option.filter_eq_none_iff.mpr fun w hw => ?_
      have hout := hfetch w hw
      simp only [Bool.and_eq_true, decide_eq_true_eq, not_and]
      omega
    · rfl
  rw [Dev.onInsn_next run hprog hissue hclock hnext hbs hop, h, if_neg Bool.false_ne_true, hnone]

end

end

/-! The rows. -/

/-- The row is the common path with a work of its own. -/
def IssuesBy (c : Instr) (p op : Nat) (ecc : Ecc) : Prop :=
  ∃ run, ∀ s : State, exec c s = .next (s.onDev (s.dev.live (fun d => d.onInsn p op ecc run)))

theorem IssuesBy.of_vecRow {c : Instr} {p op : Nat} {ecc : Ecc} (run : Dev → Nat → Prog → VecInsn → Dev)
    (h : ∀ s : State, exec c s = .next (s.onDev (s.dev.live (fun d => d.vecRow p op ecc run)))) : IssuesBy c p op ecc := ⟨_, h⟩

theorem IssuesBy.of_memRow {c : Instr} {p op : Nat} {ecc : Ecc}
    (h : ∀ s : State, exec c s = .next (s.onDev (s.dev.live (fun d => d.memRow p op ecc)))) : IssuesBy c p op ecc := ⟨_, h⟩

/-- Every row that executes an instruction goes the common path. -/
theorem issuesBy_insnRow {c : Instr} {p op : Nat} {ecc : Ecc} (h : Safety.insnRow c = some (p, op, ecc)) : IssuesBy c p op ecc := by
  cases c
  case end_ | clwait | denseInstruction | sparseArrayInstruction =>
    obtain ⟨rfl, rfl, rfl⟩ : _ ∧ _ ∧ _ := by simpa [Safety.insnRow] using h
    exact ⟨_, fun _ => rfl⟩
  case vload | vstore | vstoref | vatom =>
    obtain ⟨rfl, rfl, rfl⟩ : _ ∧ _ ∧ _ := by simpa [Safety.insnRow] using h
    exact .of_memRow fun _ => rfl
  case vcopy | vadd | vmul | vfma | vaxpy | vmax | vmin | vscale | vexp | vrcp | vrsqrt | vsilu | vgelu | vrsum | vrmax | vdot | vcvt | vsel |
      vkeep | vhint | valloc | vfree | vcount =>
    obtain ⟨rfl, rfl, rfl⟩ : _ ∧ _ ∧ _ := by simpa [Safety.insnRow] using h
    exact .of_vecRow _ fun _ => rfl
  all_goals exact absurd h nofun

/-- The row of a device in operation. -/
theorem exec_insnRow {c : Instr} {p op : Nat} {ecc : Ecc} (h : Safety.insnRow c = some (p, op, ecc)) :
    ∃ run, ∀ s : State, Safety.Operating s → exec c s = .next (s.onDev (s.dev.onInsn p op ecc run)) := by
  obtain ⟨run, hrun⟩ := issuesBy_insnRow h
  exact ⟨run, fun s hop => by rw [hrun, Dev.live_running _ _ hop]⟩

end Sys2Proof.Machine
end

section
/-! What an instruction does beside its own work (R72, R264, R334, R337): issue slots, counters and corrected words of its cores, and the bytes that
join a Hallmark. -/

namespace Sys2Proof.Machine

/-! Registers alone. -/

theorem Dev.RegFrame.refl (d : Dev) : d.RegFrame d := ⟨_, rfl⟩

theorem Dev.regFrame_foldl {α : Type} (f : Dev → α → Dev) (hf : ∀ (d : Dev) a, d.RegFrame (f d a)) (xs : List α) (d : Dev) :
    d.RegFrame (xs.foldl f d) := foldl_keeps d.RegFrame (fun e a h => h.trans (hf e a)) xs (.refl d)

theorem Dev.regFrame_countEvent (d : Dev) (p event ctx n : Nat) : d.RegFrame (d.countEvent p event ctx n) := by
  unfold Dev.countEvent
  split
  · exact .refl d
  · refine Dev.regFrame_foldl _ (fun e i => ?_) _ d
    dsimp only
    split
    · exact e.regFrame_wr _ _
    · exact .refl e

theorem Dev.regFrame_retire (d : Dev) (cores : List Nat) : d.RegFrame (d.retire cores) :=
  Dev.regFrame_foldl _ (fun e _ => e.regFrame_wr _ _) cores d

theorem Dev.regFrame_countCorr (d : Dev) (p a : Nat) (ecc : Ecc) : d.RegFrame (d.countCorr p a ecc) := by
  unfold Dev.countCorr
  split <;> unfold Dev.countEcc <;> split
  · exact .refl d
  · exact d.regFrame_wr _ _
  · exact d.regFrame_wr _ _
  · exact (d.regFrame_wr _ _).trans (Dev.regFrame_wr _ _ _)

/-- What a fold of steps that leave a register alone leaves of it. -/
theorem Dev.rd_foldl {α : Type} {off : Nat} (f : Dev → α → Dev) (xs : List α) (hf : ∀ e : Dev, ∀ a ∈ xs, (f e a).rd off = e.rd off) (d : Dev) :
    (xs.foldl f d).rd off = d.rd off :=
  foldl_keeps_mem (fun e : Dev => e.rd off = d.rd off) xs (fun e a ha h => (hf e a ha).trans h) rfl

/-- An event counts in the core's own event counters. -/
theorem Dev.rd_countEvent (d : Dev) (p event ctx n : Nat) {off : Nat} (h : ∀ i, i < 8 → off ≠ Reg.corePmc p i) :
    (d.countEvent p event ctx n).rd off = d.rd off := by
  unfold Dev.countEvent
  split
  · rfl
  · refine Dev.rd_foldl _ _ (fun e i hi => ?_) d
    dsimp only
    split
    · exact e.rd_bump_other n (h i (List.mem_range.mp hi))
    · rfl

theorem Dev.rd_bump_same (d : Dev) (off n : Nat) : (d.bump off n).rd off = (d.rd off + n) % 2 ^ 64 := by
  rw [Dev.bump, Dev.rd_wr_same, Nat.mod_mod]

theorem Dev.rd_retire_other (d : Dev) (cores : List Nat) {off : Nat} (h : ∀ c ∈ cores, off ≠ Reg.coreCntTdRetired c) :
    (d.retire cores).rd off = d.rd off :=
  Dev.rd_foldl _ cores (fun e c hc => e.rd_bump_other 1 (h c hc)) d

theorem coreCntTdRetired_inj {c q : Nat} (h : Reg.coreCntTdRetired c = Reg.coreCntTdRetired q) : c = q := by
  simp only [Reg.coreCntTdRetired] at h
  omega

/-- Every core of the list retires one slot. -/
theorem Dev.rd_retire_same (d : Dev) {cores : List Nat} (hnodup : cores.Nodup) {c : Nat} (hc : c ∈ cores) :
    (d.retire cores).rd (Reg.coreCntTdRetired c) = (d.rd (Reg.coreCntTdRetired c) + 1) % 2 ^ 64 := by
  induction cores generalizing d with
  | nil => exact absurd hc List.not_mem_nil
  | cons q rest ih =>
    obtain ⟨hq, hrest⟩ := List.nodup_cons.mp hnodup
    show ((d.bump (Reg.coreCntTdRetired q) 1).retire rest).rd _ = _
    rcases List.mem_cons.mp hc with rfl | hmem
    · have hother : ∀ x ∈ rest, Reg.coreCntTdRetired c ≠ Reg.coreCntTdRetired x := fun x hx heq => hq (coreCntTdRetired_inj heq ▸ hx)
      rw [Dev.rd_retire_other _ _ hother, Dev.rd_bump_same]
    · have hne : c ≠ q := fun heq => hq (heq ▸ hmem)
      rw [ih _ hrest hmem, Dev.rd_bump_other _ _ fun heq => hne (coreCntTdRetired_inj heq)]

/-- Corrected words of a core's own memory, with none of HBM's. -/
theorem Dev.rd_countCorr (d : Dev) (p a : Nat) (ecc : Ecc) (hhbm : ecc.corrHbm = 0) {off : Nat} (h : off ≠ Reg.coreCntEccCorr p) :
    (d.countCorr p a ecc).rd off = d.rd off := by
  unfold Dev.countCorr
  simp only [Dev.countEcc, hhbm, if_true]
  split
  · rfl
  · exact d.rd_bump_other _ h

theorem Dev.countCorr_none (d : Dev) (p a : Nat) (ecc : Ecc) (hlocal : ecc.corrLocal = 0) (hhbm : ecc.corrHbm = 0) : d.countCorr p a ecc = d := by
  simp [Dev.countCorr, Dev.countEcc, hlocal, hhbm]

/-! The blocks that an instruction on local memory can change. -/

/-- Device e is device d but for registers, local memory, cores and contexts. -/
def Dev.InsnFrame (d e : Dev) : Prop := ∃ regs loc cores ctxs, e = { d with regs := regs, loc := loc, cores := cores, ctxs := ctxs }

theorem Dev.InsnFrame.refl (d : Dev) : d.InsnFrame d := ⟨_, _, _, _, rfl⟩

theorem Dev.InsnFrame.trans {d e f : Dev} (h : d.InsnFrame e) (k : e.InsnFrame f) : d.InsnFrame f := by
  obtain ⟨_, _, _, _, rfl⟩ := h
  obtain ⟨_, _, _, _, rfl⟩ := k
  exact ⟨_, _, _, _, rfl⟩

theorem Dev.RegFrame.insnFrame {d e : Dev} (h : d.RegFrame e) : d.InsnFrame e := by
  obtain ⟨_, rfl⟩ := h
  exact ⟨_, _, _, _, rfl⟩

theorem Dev.insnFrame_modCore (d : Dev) (p : Nat) (f : Core → Core) : d.InsnFrame (d.modCore p f) := ⟨_, _, _, _, rfl⟩

theorem Dev.InsnFrame.others {s : State} {e : Dev} (h : s.dev.InsnFrame e) : Safety.SameOthers s (s.onDev e) := by
  obtain ⟨_, _, _, _, rfl⟩ := h
  exact ⟨rfl, rfl, rfl, rfl, rfl, rfl, rfl, rfl, rfl, rfl, rfl, rfl⟩

theorem Dev.InsnFrame.outer {s : State} {e : Dev} (h : s.dev.InsnFrame e) : Safety.SameOuter s (s.onDev e) := by
  obtain ⟨_, _, _, _, rfl⟩ := h
  exact fun _ => ⟨rfl, rfl, rfl⟩

theorem Dev.InsnFrame.engines {d e : Dev} (h : d.InsnFrame e) : e.mig = d.mig ∧ e.pwr = d.pwr ∧ e.routing = d.routing := by
  obtain ⟨_, _, _, _, rfl⟩ := h
  exact ⟨rfl, rfl, rfl⟩

/-! Issue slots. -/

/-- Each core of a list uses an issue slot, in which an event occurs (R337). -/
def Dev.useSlots (d : Dev) (cores : List Nat) (event ctx : Nat) : Dev :=
  cores.foldl (fun d c => (d.modCore c (fun x => { x with owed := x.owed + 1 })).countEvent c event ctx 1) d

/-- Device e is device d but for registers and the slots that the cores owe. -/
structure Dev.OwedFrame (d e : Dev) : Prop where
  eq : ∃ regs cores, e = { d with regs := regs, cores := cores }
  core : ∀ c, ∃ n, e.core c = { d.core c with owed := n }

theorem Dev.OwedFrame.trans {d e f : Dev} (h : d.OwedFrame e) (k : e.OwedFrame f) : d.OwedFrame f := by
  refine ⟨?_, fun c => ?_⟩
  · obtain ⟨_, _, rfl⟩ := h.eq
    obtain ⟨_, _, rfl⟩ := k.eq
    exact ⟨_, _, rfl⟩
  · obtain ⟨_, hc⟩ := h.core c
    obtain ⟨n, kc⟩ := k.core c
    exact ⟨n, by rw [kc, hc]⟩

theorem Dev.RegFrame.owedFrame {d e : Dev} (h : d.RegFrame e) : d.OwedFrame e := by
  obtain ⟨_, rfl⟩ := h
  exact ⟨⟨_, _, rfl⟩, fun _ => ⟨_, rfl⟩⟩

theorem Dev.owedFrame_owe (d : Dev) (c n : Nat) : d.OwedFrame (d.modCore c (fun x => { x with owed := x.owed + n })) := by
  refine ⟨⟨_, _, rfl⟩, fun q => ?_⟩
  by_cases hq : q = c
  · exact ⟨_, by rw [hq, Dev.core_modCore_same]⟩
  · exact ⟨_, Dev.core_modCore_other _ _ _ _ hq⟩

theorem Dev.owedFrame_useSlots (d : Dev) (cores : List Nat) (event ctx : Nat) : d.OwedFrame (d.useSlots cores event ctx) :=
  foldl_keeps d.OwedFrame (fun e c h => h.trans ((e.owedFrame_owe c 1).trans (Dev.regFrame_countEvent _ _ _ _ _).owedFrame)) cores
    (Dev.RegFrame.refl d).owedFrame

theorem Dev.rd_useSlots (d : Dev) (cores : List Nat) (event ctx : Nat) {off : Nat} (h : ∀ c ∈ cores, ∀ i, i < 8 → off ≠ Reg.corePmc c i) :
    (d.useSlots cores event ctx).rd off = d.rd off :=
  Dev.rd_foldl _ cores (fun e c hc => Dev.rd_countEvent (e.modCore c _) _ _ _ _ (h c hc)) d

theorem Dev.OwedFrame.insnFrame {d e : Dev} (h : d.OwedFrame e) : d.InsnFrame e := by
  obtain ⟨_, _, rfl⟩ := h.eq
  exact ⟨_, _, _, _, rfl⟩

section
variable {d e : Dev} (h : d.OwedFrame e)
include h

theorem Dev.OwedFrame.prog (c : Nat) : e.prog? c = d.prog? c := by
  obtain ⟨_, hc⟩ := h.core c
  rw [Blocks.prog?, hc, Blocks.prog?]

theorem Dev.OwedFrame.shape (c : Nat) : (e.core c).m = (d.core c).m ∧ (e.core c).owner = (d.core c).owner ∧ (e.core c).keep = (d.core c).keep := by
  obtain ⟨_, hc⟩ := h.core c
  rw [hc]
  exact ⟨rfl, rfl, rfl⟩

theorem Dev.OwedFrame.blocks : e.loc = d.loc ∧ e.ctxs = d.ctxs ∧ e.pwr = d.pwr := by
  obtain ⟨_, _, rfl⟩ := h.eq
  exact ⟨rfl, rfl, rfl⟩

end

/-! The program of a core. -/

theorem Dev.prog_modProg_same (d : Dev) (p : Nat) (f : Prog → Prog) : (d.modProg p f).prog? p = (d.prog? p).map f := by
  rw [Dev.modProg, Blocks.prog?, Dev.core_modCore_same]
  rfl

theorem Dev.prog_modProg_other (d : Dev) (p : Nat) (f : Prog → Prog) {c : Nat} (h : c ≠ p) : (d.modProg p f).prog? c = d.prog? c := by
  rw [Dev.modProg, Blocks.prog?, Dev.core_modCore_other _ _ _ _ h]
  rfl

theorem Dev.shape_modProg (d : Dev) (p : Nat) (f : Prog → Prog) (c : Nat) : ((d.modProg p f).core c).m = (d.core c).m ∧
    ((d.modProg p f).core c).owner = (d.core c).owner ∧ ((d.modProg p f).core c).keep = (d.core c).keep := by
  by_cases hc : c = p
  · rw [hc, Dev.modProg, Dev.core_modCore_same]
    exact ⟨rfl, rfl, rfl⟩
  · rw [Dev.modProg, Dev.core_modCore_other _ _ _ _ hc]
    exact ⟨rfl, rfl, rfl⟩

/-! Hallmark parts. -/

theorem Dev.hmPart_eq (d : Dev) (g : Prog) (p order : Nat) (bs : List Byte) : ∃ ctxs, d.hmPart g p order bs = { d with ctxs := ctxs } := by
  unfold Dev.hmPart
  split
  · split
    · exact ⟨_, rfl⟩
    · exact ⟨_, rfl⟩
  · exact ⟨_, rfl⟩

end Sys2Proof.Machine
end

section
/-! An instruction of slot V that does its work on the cores of its stream, issues and completes at once. -/

namespace Sys2Proof.Machine

/-! The work. -/

/-- What the work of an instruction on a list of cores leaves alone, its own results apart: programs, valid rows and owners, and every register but
the cores' counters, the one of retired slots included. -/
structure Dev.WorkFrame (cores : List Nat) (d e : Dev) : Prop where
  eq : d.InsnFrame e
  prog : ∀ c, e.prog? c = d.prog? c
  shape : ∀ c, (e.core c).m = (d.core c).m ∧ (e.core c).owner = (d.core c).owner
  rd : ∀ off, ¬ Safety.isCoreCounter cores off → e.rd off = d.rd off
  retired : ∀ c, e.rd (Reg.coreCntTdRetired c) = d.rd (Reg.coreCntTdRetired c)

section
variable {cores : List Nat}

theorem Dev.WorkFrame.refl (d : Dev) : Dev.WorkFrame cores d d := ⟨.refl d, fun _ => rfl, fun _ => ⟨rfl, rfl⟩, fun _ _ => rfl, fun _ => rfl⟩

theorem Dev.WorkFrame.trans {d e f : Dev} (h : Dev.WorkFrame cores d e) (k : Dev.WorkFrame cores e f) : Dev.WorkFrame cores d f :=
  ⟨h.eq.trans k.eq, fun c => (k.prog c).trans (h.prog c),
    fun c => ⟨(k.shape c).1.trans (h.shape c).1, (k.shape c).2.trans (h.shape c).2⟩,
    fun off hoff => (k.rd off hoff).trans (h.rd off hoff), fun c => (k.retired c).trans (h.retired c)⟩

/-- Local memory and contexts alone. -/
theorem Dev.workFrame_data (d : Dev) (loc : Mem) (ctxs : Tab Ctx) : Dev.WorkFrame cores d { d with loc := loc, ctxs := ctxs } :=
  ⟨⟨_, _, _, _, rfl⟩, fun _ => rfl, fun _ => ⟨rfl, rfl⟩, fun _ _ => rfl, fun _ => rfl⟩

theorem Dev.workFrame_countCorr (d : Dev) {c : Nat} (a : Nat) {ecc : Ecc} (hc : c ∈ cores) (hhbm : ecc.corrHbm = 0) :
    Dev.WorkFrame cores d (d.countCorr c a ecc) := by
  have hreg := d.regFrame_countCorr c a ecc
  refine ⟨hreg.insnFrame, fun q => hreg.owedFrame.prog q, fun q => ?_, fun off hoff => ?_, fun q => ?_⟩
  · obtain ⟨hm, howner, -⟩ := hreg.owedFrame.shape q
    exact ⟨hm, howner⟩
  · exact d.rd_countCorr c a ecc hhbm fun heq => hoff ⟨c, hc, Or.inr (Or.inr (Or.inl heq))⟩
  · exact d.rd_countCorr c a ecc hhbm (by simp only [Reg.coreCntTdRetired, Reg.coreCntEccCorr]; omega)

/-- A core takes another mask (R113). -/
theorem Dev.workFrame_keep (d : Dev) (c : Nat) (m : BitVec 256) : Dev.WorkFrame cores d (d.modCore c (fun x => { x with keep := m })) := by
  have hcore : ∀ q, (d.modCore c (fun x => { x with keep := m })).core q = { d.core q with keep := if q = c then m else (d.core q).keep } := by
    intro q
    by_cases hq : q = c
    · rw [hq, Dev.core_modCore_same, if_pos rfl]
    · rw [Dev.core_modCore_other _ _ _ _ hq, if_neg hq]
  exact ⟨d.insnFrame_modCore c _, fun q => by rw [Blocks.prog?, hcore, Blocks.prog?], fun q => by rw [hcore]; exact ⟨rfl, rfl⟩,
    fun _ _ => rfl, fun _ => rfl⟩

end

/-! Issue and completion. -/

/-- The instruction at x of core p's program g issues on the cores of its stream and completes. -/
theorem Dev.passed_eq (d : Dev) (p : Nat) (g : Prog) (x : Nat) : d.passed p (g.at_ x) g.gang =
    ((d.modProg p (fun h => { h with pc := x + 32 })).useSlots g.gang 3 g.ctx).retire g.gang := rfl

theorem not_isCoreCounter {cores : List Nat} {off : Nat} (h : ¬ Safety.isCoreCounter cores off) {c : Nat} (hc : c ∈ cores) :
    off ≠ Reg.coreCntTdRetired c ∧ off ≠ Reg.coreCntTdWasted c ∧ off ≠ Reg.coreCntEccCorr c ∧ ∀ i, i < 8 → off ≠ Reg.corePmc c i :=
  ⟨fun heq => h ⟨c, hc, Or.inl heq⟩, fun heq => h ⟨c, hc, Or.inr (Or.inl heq)⟩, fun heq => h ⟨c, hc, Or.inr (Or.inr (Or.inl heq))⟩,
    fun i hi heq => h ⟨c, hc, Or.inr (Or.inr (Or.inr ⟨i, hi, heq⟩))⟩⟩

theorem coreCntTdRetired_ne_corePmc (c q : Nat) {i : Nat} (hi : i < 8) : Reg.coreCntTdRetired c ≠ Reg.corePmc q i := by
  simp only [Reg.coreCntTdRetired, Reg.corePmc]
  omega

section
variable (d : Dev) (p : Nat) (g : Prog) (x : Nat)

theorem Dev.owedFrame_passed : (d.modProg p (fun h => { h with pc := x + 32 })).OwedFrame (d.passed p (g.at_ x) g.gang) := by
  rw [Dev.passed_eq]
  exact (Dev.owedFrame_useSlots _ _ _ _).trans (Dev.regFrame_retire _ _).owedFrame

theorem Dev.passed_blocks : (d.passed p (g.at_ x) g.gang).loc = d.loc ∧ (d.passed p (g.at_ x) g.gang).ctxs = d.ctxs ∧
    ∀ c, ((d.passed p (g.at_ x) g.gang).core c).keep = (d.core c).keep := by
  have h := d.owedFrame_passed p g x
  obtain ⟨hloc, hctxs, -⟩ := h.blocks
  exact ⟨hloc, hctxs, fun c => (h.shape c).2.2.trans (d.shape_modProg p _ c).2.2⟩

/-- The frame of `Safety.Passed`, once the work is done. -/
theorem passed_of_workFrame {s : State} (hprog : s.dev.prog? p = some g) (h : Dev.WorkFrame (p :: g.gang) s.dev d) :
    Safety.Passed s (s.onDev (d.passed p (g.at_ x) g.gang)) p g x := by
  have howed := d.owedFrame_passed p g x
  have hframe : s.dev.InsnFrame (d.passed p (g.at_ x) g.gang) := (h.eq.trans (d.insnFrame_modCore p _)).trans howed.insnFrame
  have hslots : ∀ off, (∀ c ∈ g.gang, ∀ i, i < 8 → off ≠ Reg.corePmc c i) →
      ((d.modProg p (fun h => { h with pc := x + 32 })).useSlots g.gang 3 g.ctx).rd off = d.rd off :=
    fun off hoff => Dev.rd_useSlots _ _ _ _ hoff
  obtain ⟨hmig, hpwr, -⟩ := hframe.engines
  refine ⟨?_, fun c => ?_, fun c hc => ?_, fun hnodup c hc => ?_, fun off hoff => ?_, hframe.outer, hframe.others, hmig, hpwr⟩
  · rw [State.onDev_dev, howed.prog, Dev.prog_modProg_same, h.prog, hprog]
    rfl
  · obtain ⟨hm, howner, -⟩ := howed.shape c
    obtain ⟨hm', howner', -⟩ := d.shape_modProg p (fun h => { h with pc := x + 32 }) c
    obtain ⟨hm'', howner''⟩ := h.shape c
    exact ⟨(hm.trans hm').trans hm'', (howner.trans howner').trans howner''⟩
  · exact ((howed.prog c).trans (d.prog_modProg_other p _ hc)).trans (h.prog c)
  · rw [State.onDev_dev, Dev.passed_eq, Dev.rd_retire_same _ hnodup hc, hslots _ fun q _ i hi => coreCntTdRetired_ne_corePmc c q hi, h.retired]
  · have hne := fun c (hc : c ∈ g.gang) => not_isCoreCounter hoff (List.mem_cons_of_mem p hc)
    rw [State.onDev_dev, Dev.passed_eq, Dev.rd_retire_other _ _ fun c hc => (hne c hc).1, hslots _ fun c hc => (hne c hc).2.2.2, h.rd off hoff]

end

end Sys2Proof.Machine
end

section
/-! What winds up a command, a layer or a collective (R59, R224, R225, R308): commands leave, records wait, and no core, no local memory and no
register below the engines' changes. -/

namespace Sys2Proof.Machine

/-- What a context keeps while its commands end: its state and its saved cores stand, and what is empty stays empty. -/
structure Ctx.Wanes (x y : Ctx) : Prop where
  mode : y.mode = x.mode
  cause : y.cause = x.cause
  runnable : y.runnable = x.runnable
  resv : y.resv = x.resv
  saved : y.saved = x.saved
  restoring : y.restoring = x.restoring
  occs : x.occs = [] → y.occs = []
  stagePins : x.stagePins = [] → y.stagePins = []
  demandPins : x.demandPins = [] → y.demandPins = []

theorem Ctx.Wanes.refl (x : Ctx) : x.Wanes x := ⟨rfl, rfl, rfl, rfl, rfl, rfl, id, id, id⟩

theorem Ctx.Wanes.trans {x y z : Ctx} (h : x.Wanes y) (k : y.Wanes z) : x.Wanes z :=
  ⟨k.mode.trans h.mode, k.cause.trans h.cause, k.runnable.trans h.runnable, k.resv.trans h.resv, k.saved.trans h.saved,
    k.restoring.trans h.restoring, fun e => k.occs (h.occs e), fun e => k.stagePins (h.stagePins e), fun e => k.demandPins (h.demandPins e)⟩

/-- Of the requesters up to the cores', none holds more or less carats and none begins to wait. -/
structure Power.Quiet (x y : Power) : Prop where
  held : ∀ p, p < 576 → tabGet 0 y.held p = tabGet 0 x.held p
  waiting : ∀ p, p < 576 → (∀ r ∈ x.waiting, r.req ≠ p) → ∀ r ∈ y.waiting, r.req ≠ p

theorem Power.Quiet.refl (x : Power) : x.Quiet x := ⟨fun _ _ => rfl, fun _ _ h => h⟩

theorem Power.Quiet.trans {x y z : Power} (h : x.Quiet y) (k : y.Quiet z) : x.Quiet z :=
  ⟨fun p hp => (k.held p hp).trans (h.held p hp), fun p hp hx => k.waiting p hp (h.waiting p hp hx)⟩

/-- Device e is what device d becomes as things wind up. -/
structure Dev.Winds (d e : Dev) : Prop where
  mem : e.loc = d.loc ∧ e.hostMem = d.hostMem
  cores : e.cores = d.cores ∧ e.records = d.records
  tb : e.tb.clasps = d.tb.clasps
  reqs : e.remote.reqs = d.remote.reqs ∧ e.mig.stageReqs = d.mig.stageReqs
  layer : ∀ l, e.routing.layer = some l → ∃ m, d.routing.layer = some m ∧ m.ctx = l.ctx
  rd : ∀ off, off < 0x02000000 → e.rd off = d.rd off
  ctx : ∀ c, (d.ctx c).Wanes (e.ctx c)
  jobs : ∀ j ∈ e.jobs, j ∈ d.jobs
  fetched : ∀ q, (e.ring q).fetched = (d.ring q).fetched
  hold : ∀ q, ∀ r ∈ (d.ring q).hold, r ∈ (e.ring q).hold
  pwr : d.pwr.Quiet e.pwr

theorem Dev.Winds.refl (d : Dev) : d.Winds d where
  mem := ⟨rfl, rfl⟩
  cores := ⟨rfl, rfl⟩
  tb := rfl
  reqs := ⟨rfl, rfl⟩
  layer := fun l h => ⟨l, h, rfl⟩
  rd := fun _ _ => rfl
  ctx := fun _ => .refl _
  jobs := fun _ h => h
  fetched := fun _ => rfl
  hold := fun _ _ h => h
  pwr := .refl _

theorem Dev.Winds.trans {d e f : Dev} (h : d.Winds e) (k : e.Winds f) : d.Winds f where
  mem := ⟨k.mem.1.trans h.mem.1, k.mem.2.trans h.mem.2⟩
  cores := ⟨k.cores.1.trans h.cores.1, k.cores.2.trans h.cores.2⟩
  tb := k.tb.trans h.tb
  reqs := ⟨k.reqs.1.trans h.reqs.1, k.reqs.2.trans h.reqs.2⟩
  layer := fun l hl => by
    obtain ⟨m, hm, hctx⟩ := k.layer l hl
    obtain ⟨n, hn, hctx'⟩ := h.layer m hm
    exact ⟨n, hn, hctx'.trans hctx⟩
  rd := fun off hoff => (k.rd off hoff).trans (h.rd off hoff)
  ctx := fun c => (h.ctx c).trans (k.ctx c)
  jobs := fun j hj => h.jobs j (k.jobs j hj)
  fetched := fun q => (k.fetched q).trans (h.fetched q)
  hold := fun q r hr => k.hold q r (h.hold q r hr)
  pwr := h.pwr.trans k.pwr

/-- An end: the layer in progress and the collectives stand too. -/
structure Dev.Ends (d e : Dev) : Prop extends Dev.Winds d e where
  routing : e.routing = d.routing
  colls : e.colls = d.colls

theorem Dev.Ends.refl (d : Dev) : d.Ends d := ⟨.refl d, rfl, rfl⟩

theorem Dev.Ends.trans {d e f : Dev} (h : d.Ends e) (k : e.Ends f) : d.Ends f :=
  ⟨h.toWinds.trans k.toWinds, k.routing.trans h.routing, k.colls.trans h.colls⟩

theorem Dev.ends_foldl {α : Type} (f : Dev → α → Dev) (hf : ∀ (d : Dev) a, d.Ends (f d a)) (xs : List α) (d : Dev) :
    d.Ends (xs.foldl f d) := foldl_keeps d.Ends (fun e a h => h.trans (hf e a)) xs (.refl d)

/-! The engines' own blocks. -/

/-- A change of the engines' blocks alone: memories beside the cores', registers from the engines' on, carats of other requesters. -/
theorem Dev.ends_engines {d e : Dev} (heq : ∃ hbm vault regs pwr mig pool router fil remote obs freeUsed,
      e = { d with hbm := hbm, vault := vault, regs := regs, pwr := pwr, mig := mig, pool := pool, router := router, fil := fil,
                   remote := remote, obs := obs, freeUsed := freeUsed })
    (hreqs : e.remote.reqs = d.remote.reqs ∧ e.mig.stageReqs = d.mig.stageReqs) (hrd : ∀ off, off < 0x02000000 → e.rd off = d.rd off)
    (hpwr : d.pwr.Quiet e.pwr) : d.Ends e := by
  obtain ⟨_, _, _, _, _, _, _, _, _, _, _, rfl⟩ := heq
  exact { mem := ⟨rfl, rfl⟩, cores := ⟨rfl, rfl⟩, tb := rfl, reqs := hreqs, layer := fun l h => ⟨l, h, rfl⟩, rd := hrd, ctx := fun _ => .refl _,
          jobs := fun _ h => h, fetched := fun _ => rfl, hold := fun _ _ h => h, pwr := hpwr, routing := rfl, colls := rfl }

theorem Dev.ends_wr (d : Dev) {off : Nat} (v : Nat) (h : 0x02000000 ≤ off) : d.Ends (d.wr off v) :=
  Dev.ends_engines ⟨_, _, _, _, _, _, _, _, _, _, _, rfl⟩ ⟨rfl, rfl⟩ (d.sideFrame_wr v h).rd (.refl _)

theorem Dev.ends_bump (d : Dev) {off : Nat} (n : Nat) (h : 0x02000000 ≤ off) : d.Ends (d.bump off n) := d.ends_wr _ h

theorem Dev.ends_log (d : Dev) (e : LogEntry) : d.Ends (d.log e) :=
  Dev.ends_engines ⟨_, _, _, _, _, _, _, _, _, _, _, rfl⟩ ⟨rfl, rfl⟩ (fun _ _ => rfl) (.refl _)

theorem Dev.ends_pool (d : Dev) (pool : Pool) : d.Ends { d with pool := pool } :=
  Dev.ends_engines ⟨_, _, _, _, _, _, _, _, _, _, _, rfl⟩ ⟨rfl, rfl⟩ (fun _ _ => rfl) (.refl _)

theorem Dev.ends_hbm (d : Dev) (hbm : Mem) : d.Ends { d with hbm := hbm } :=
  Dev.ends_engines ⟨_, _, _, _, _, _, _, _, _, _, _, rfl⟩ ⟨rfl, rfl⟩ (fun _ _ => rfl) (.refl _)

theorem Dev.ends_mig (d : Dev) (mig : Mig) (h : mig.stageReqs = d.mig.stageReqs) : d.Ends { d with mig := mig } :=
  Dev.ends_engines ⟨_, _, _, _, _, _, _, _, _, _, _, rfl⟩ ⟨rfl, h⟩ (fun _ _ => rfl) (.refl _)

theorem Dev.ends_fil (d : Dev) (fil : Fil) : d.Ends { d with fil := fil } :=
  Dev.ends_engines ⟨_, _, _, _, _, _, _, _, _, _, _, rfl⟩ ⟨rfl, rfl⟩ (fun _ _ => rfl) (.refl _)

/-- A requester beyond the cores asks. -/
theorem Dev.quiet_askCarats (d : Dev) {req : Nat} (need : Nat) (ctx : Option Nat) (h : 576 ≤ req) : d.pwr.Quiet (d.askCarats req need ctx).pwr := by
  unfold Dev.askCarats
  dsimp only
  split
  · exact .refl _
  · split
    · refine ⟨fun _ _ => rfl, fun p _ hx r hr => ?_⟩
      obtain ⟨r', hr', rfl⟩ := List.mem_map.mp hr
      split
      · exact hx r' hr'
      · exact hx r' hr'
    · refine ⟨fun _ _ => rfl, fun p hp hx r hr => ?_⟩
      rcases List.mem_append.mp hr with hr | hr
      · exact hx r hr
      · obtain rfl := List.mem_singleton.mp hr
        dsimp only
        omega

theorem Dev.ends_askCarats (d : Dev) {req : Nat} (need : Nat) (ctx : Option Nat) (h : 576 ≤ req) : d.Ends (d.askCarats req need ctx) := by
  have hquiet := d.quiet_askCarats need ctx h
  obtain ⟨_, heq⟩ := d.askCarats_eq req need ctx
  rw [heq] at hquiet ⊢
  exact Dev.ends_engines ⟨_, _, _, _, _, _, _, _, _, _, _, rfl⟩ ⟨rfl, rfl⟩ (fun _ _ => rfl) hquiet

theorem Dev.ends_putEntry (d : Dev) (a : Nat) (bs : List Byte) : d.Ends (d.putEntry a bs) := by
  have hput : d.Ends (d.dirWrite a bs) := by
    obtain ⟨hbm, h⟩ := d.dirWrite_eq a bs
    rw [h]
    exact d.ends_hbm hbm
  exact ((hput.trans (Dev.ends_askCarats _ 8 none (Nat.le_add_right _ _))).trans
    (Dev.ends_bump _ 1 (by simp only [Reg.hbmCntWrite]; omega))).trans (Dev.ends_bump _ 1 (by simp only [Reg.hbmCntCross]; omega))

/-! Pins and stages (R133, R135). -/

theorem Dev.ends_setTdir (d : Dev) (i v : Nat) : d.Ends (d.setTdir i v) := d.ends_putEntry _ _

theorem Dev.ends_modVport (d : Dev) (n : Nat) (f : VaultPort → VaultPort) : d.Ends (d.modVport n f) := d.ends_mig _ rfl

theorem Dev.ends_queueWriteback (d : Dev) (i cls : Nat) : d.Ends (d.queueWriteback i cls) :=
  (d.ends_askCarats (req := 590 + (d.vaultOf i).1) 4 none (by omega)).trans (Dev.ends_mig _ _ rfl)

theorem Dev.ends_freeFrame (d : Dev) (f : Nat) : d.Ends (d.freeFrame f) :=
  (d.ends_setTdir (d.tileIn f) (setBits (d.tdir (d.tileIn f)) 29 0 0)).trans (Dev.ends_mig _ _ rfl)

theorem Dev.ends_unpin (d : Dev) (i : Nat) : d.Ends (d.unpin i) := by
  have hpins := d.ends_setTdir i (setBits (d.tdir i) 47 32 (d.pins i - 1))
  unfold Dev.unpin
  dsimp only
  split
  · split
    · exact (hpins.trans (Dev.ends_setTdir _ _ _)).trans (Dev.ends_queueWriteback _ _ _)
    · split
      · exact hpins.trans (Dev.ends_setTdir _ _ _)
      · exact hpins.trans (Dev.ends_freeFrame _ _)
  · exact hpins

/-- What a changed context keeps, all contexts keep. -/
theorem Dev.ends_modCtx (d : Dev) (c : Nat) {f : Ctx → Ctx} (hf : (d.ctx c).Wanes (f (d.ctx c))) : d.Ends (d.modCtx c f) where
  mem := ⟨rfl, rfl⟩
  cores := ⟨rfl, rfl⟩
  tb := rfl
  reqs := ⟨rfl, rfl⟩
  layer := fun l h => ⟨l, h, rfl⟩
  rd := fun _ _ => rfl
  ctx := fun i => by
    by_cases hi : i = c
    · rw [hi, Dev.ctx_modCtx_same]
      exact hf
    · rw [Dev.ctx_modCtx_other _ _ _ _ hi]
      exact .refl _
  jobs := fun _ h => h
  fetched := fun _ => rfl
  hold := fun _ _ h => h
  pwr := .refl _
  routing := rfl
  colls := rfl

theorem Dev.ends_dropDemandPins (d : Dev) (c : Nat) : d.Ends (d.dropDemandPins c) :=
  (Dev.ends_foldl _ Dev.ends_unpin _ d).trans (Dev.ends_modCtx _ _ ⟨rfl, rfl, rfl, rfl, rfl, rfl, id, id, fun _ => rfl⟩)

theorem Dev.ends_dropStage (d : Dev) (c : Nat) : d.Ends (d.dropStage c) :=
  (Dev.ends_foldl _ Dev.ends_unpin _ d).trans (Dev.ends_modCtx _ _ ⟨rfl, rfl, rfl, rfl, rfl, rfl, id, fun _ => rfl, id⟩)

theorem Dev.ends_endStages (d : Dev) (c : Nat) : d.Ends (d.endStages c) := by
  by_cases hpins : (d.ctx c).stagePins = []
  · rw [Dev.endStages_none hpins]
    exact .refl d
  · unfold Dev.endStages
    dsimp only
    split
    · exact .refl d
    · refine (Dev.ends_foldl _ Dev.ends_unpin _ d).trans (Dev.ends_modCtx _ _ ⟨rfl, rfl, rfl, rfl, rfl, rfl, id, fun h => ?_, id⟩)
      exact absurd (((Dev.sideFrame_foldl _ Dev.sideFrame_unpin _ d).stagePins c).symm.trans h) hpins

/-! The end of a command (R308, R310). -/

theorem Dev.ends_modRing (d : Dev) (q : Nat) {f : Ring → Ring} (hfetched : (f (d.ring q)).fetched = (d.ring q).fetched)
    (hhold : ∀ r ∈ (d.ring q).hold, r ∈ (f (d.ring q)).hold) : d.Ends (d.modRing q f) where
  mem := ⟨rfl, rfl⟩
  cores := ⟨rfl, rfl⟩
  tb := rfl
  reqs := ⟨rfl, rfl⟩
  layer := fun l h => ⟨l, h, rfl⟩
  rd := fun _ _ => rfl
  ctx := fun _ => .refl _
  jobs := fun _ h => h
  fetched := fun i => by
    by_cases hi : i = q
    · rw [hi, Dev.ring_modRing_same, hfetched]
    · rw [Dev.ring_modRing_other _ _ _ _ hi]
  hold := fun i => by
    by_cases hi : i = q
    · rw [hi, Dev.ring_modRing_same]
      exact hhold
    · rw [Dev.ring_modRing_other _ _ _ _ hi]
      exact fun _ h => h
  pwr := .refl _
  routing := rfl
  colls := rfl

theorem Dev.ends_post (d : Dev) (q : Nat) (r : Record) : d.Ends (d.post q r) := d.ends_modRing q rfl fun _ h => List.mem_append_left _ h

theorem Dev.ends_noteEnd (d : Dev) (q seq : Nat) (ok : Bool) : d.Ends (d.noteEnd q seq ok) := by
  unfold Dev.noteEnd
  exact d.ends_modRing q rfl fun _ h => h

/-- Commands leave. -/
theorem Dev.ends_jobs (d : Dev) (jobs : List Job) (h : ∀ j ∈ jobs, j ∈ d.jobs) : d.Ends { d with jobs := jobs } :=
  { Dev.Ends.refl d with jobs := h }

/-- The Hallmark unit forgets or turns over entries and flushes. -/
theorem Dev.ends_tb (d : Dev) (tb : Timebase) (h : tb.clasps = d.tb.clasps) : d.Ends { d with tb := tb } := { Dev.Ends.refl d with tb := h }

theorem Dev.ends_leaveWindow (d : Dev) (j : Job) (r : Record) : d.Ends (d.leaveWindow j r) :=
  ((d.ends_jobs _ fun _ h => (List.mem_filter.mp h).1).trans (Dev.ends_noteEnd _ _ _ _)).trans
    (Dev.ends_modCtx _ _ ⟨rfl, rfl, rfl, rfl, rfl, rfl, id, id, id⟩)

theorem Dev.endJob_leaves (d : Dev) (j : Job) (r : Record) : d.endJob j r =
    if bitOf (fldOf j.cmd 0 31 0) 9 && decide (r.status = 0) then (d.leaveWindow j r).endStages j.ctx
    else ((d.leaveWindow j r).endStages j.ctx).post j.ring r := rfl

theorem Dev.ends_endJob (d : Dev) (j : Job) (r : Record) : d.Ends (d.endJob j r) := by
  have h := (d.ends_leaveWindow j r).trans (Dev.ends_endStages _ j.ctx)
  rw [Dev.endJob_leaves]
  split
  · exact h
  · exact h.trans (Dev.ends_post _ _ _)

theorem Dev.ends_endFlushes (d : Dev) : d.Ends d.endFlushes := by
  unfold Dev.endFlushes
  dsimp only
  refine Dev.Ends.trans (Dev.ends_tb _ _ (by rfl)) (Dev.ends_foldl _ (fun e f => ?_) _ _)
  split
  · exact e.ends_endJob _ _
  · exact .refl e

theorem Dev.ends_settleOcc (d : Dev) (c id : Nat) (entry : Option Nat) : d.Ends (d.settleOcc c id entry) := by
  unfold Dev.settleOcc
  dsimp only
  refine Dev.Ends.trans (Dev.Ends.trans (Dev.Ends.trans (Dev.ends_modCtx _ _ ?_) (Dev.ends_tb _ _ (by rfl)))
    (Dev.ends_foldl _ (fun e j => ?_) _ _)) (Dev.ends_endFlushes _)
  · exact ⟨rfl, rfl, rfl, rfl, rfl, rfl, fun h => by rw [h]; rfl, fun h => h, fun h => h⟩
  · split
    · exact e.ends_endJob _ _
    · exact .refl e

theorem Dev.ends_occCheck (d : Dev) (c id : Nat) : d.Ends (d.occCheck c id) := by
  unfold Dev.occCheck
  split
  · exact .refl d
  · split
    · exact .refl d
    · split
      · exact d.ends_tb _ rfl
      · exact d.ends_settleOcc c id none

theorem Dev.ends_occWork (d : Dev) (j : Job) : d.Ends (d.occWork j) := by
  unfold Dev.occWork
  split
  · exact .refl d
  · exact (d.ends_modCtx _ ⟨rfl, rfl, rfl, rfl, rfl, rfl, fun h => by rw [h]; rfl, id, id⟩).trans (Dev.ends_occCheck _ _ _)

/-- A granted command completes. -/
theorem Dev.ends_finish (d : Dev) (ring seq status : Nat) (empty : Bool) (r0 r1 : Nat) : d.Ends (d.finish ring seq status empty r0 r1) := by
  unfold Dev.finish
  split
  · exact .refl d
  · exact (d.ends_endJob _ _).trans (Dev.ends_occWork _ _)

end Sys2Proof.Machine
end

section
/-! END (R73): the program leaves its core, and nothing of another program's changes. -/

namespace Sys2Proof.Machine

/-- Cores may change hands; their programs and valid rows stand. -/
structure Dev.HandsFrame (d e : Dev) : Prop where
  eq : ∃ cores, e = { d with cores := cores }
  core : ∀ q, (e.core q).prog = (d.core q).prog ∧ (e.core q).m = (d.core q).m

theorem Dev.handsFrame_releaseCore (d : Dev) (ctx c : Nat) : d.HandsFrame (d.releaseCore ctx c) := by
  unfold Dev.releaseCore
  split
  · refine ⟨⟨_, rfl⟩, fun q => ?_⟩
    by_cases hq : q = c
    · rw [hq, Dev.core_modCore_same]
      split <;> exact ⟨rfl, rfl⟩
    · rw [Dev.core_modCore_other _ _ _ _ hq]
      exact ⟨rfl, rfl⟩
  · exact ⟨⟨_, rfl⟩, fun _ => ⟨rfl, rfl⟩⟩

theorem Dev.HandsFrame.trans {d e f : Dev} (h : d.HandsFrame e) (k : e.HandsFrame f) : d.HandsFrame f := by
  refine ⟨?_, fun q => ⟨(k.core q).1.trans (h.core q).1, (k.core q).2.trans (h.core q).2⟩⟩
  obtain ⟨_, rfl⟩ := h.eq
  obtain ⟨_, rfl⟩ := k.eq
  exact ⟨_, rfl⟩

theorem Dev.handsFrame_releases (cores : List Nat) (ctx : Nat) (d : Dev) : d.HandsFrame (cores.foldl (fun d c => d.releaseCore ctx c) d) :=
  foldl_keeps d.HandsFrame (fun e c h => h.trans (e.handsFrame_releaseCore ctx c)) cores ⟨⟨_, rfl⟩, fun _ => ⟨rfl, rfl⟩⟩

/-- The program that has ended leaves its core; the cores of its gang may change hands. -/
def Dev.clearProgram (d : Dev) (p : Nat) (g : Prog) : Dev :=
  g.gang.foldl (fun d c => d.releaseCore g.ctx c) ((d.modCore p (fun c => { c with prog := none })).withdrawCarats p)

theorem Dev.endProgram_eq (d : Dev) (p : Nat) (g : Prog) : d.endProgram p g =
    if (d.clearProgram p g).jobRuns g.ring g.seq then d.clearProgram p g else (d.clearProgram p g).finish g.ring g.seq 0 false 0 0 := rfl

/-- The end of a program changes the program of no other core, no core's rows, no local memory and no layer. -/
theorem Dev.endProgram_leaves (d : Dev) (p : Nat) (g : Prog) : (d.endProgram p g).prog? p = none ∧ (d.endProgram p g).loc = d.loc ∧
    (d.endProgram p g).routing = d.routing ∧ (∀ q, q ≠ p → (d.endProgram p g).prog? q = d.prog? q) ∧
    ∀ q, ((d.endProgram p g).core q).m = (d.core q).m := by
  have hends : (d.clearProgram p g).Ends (d.endProgram p g) := by
    rw [Dev.endProgram_eq]
    split
    · exact .refl _
    · exact Dev.ends_finish _ _ _ _ _ _ _
  have hhands : ((d.modCore p (fun c => { c with prog := none })).withdrawCarats p).HandsFrame (d.clearProgram p g) :=
    Dev.handsFrame_releases g.gang g.ctx _
  have hcore : ∀ q, (d.endProgram p g).core q = (d.clearProgram p g).core q := fun q => by rw [Blocks.core, hends.cores.1, Blocks.core]
  have hprog : ∀ q, (d.endProgram p g).prog? q = ((d.modCore p (fun c => { c with prog := none })).core q).prog := fun q => by
    rw [Blocks.prog?, hcore, (hhands.core q).1]
    rfl
  have hm : ∀ q, ((d.endProgram p g).core q).m = ((d.modCore p (fun c => { c with prog := none })).core q).m := fun q => by
    rw [hcore, (hhands.core q).2]
    rfl
  obtain ⟨_, hcleared⟩ := hhands.eq
  refine ⟨?_, ?_, ?_, fun q hq => ?_, fun q => ?_⟩
  · rw [hprog, Dev.core_modCore_same]
  · rw [hends.mem.1, hcleared]
    rfl
  · rw [hends.routing, hcleared]
    rfl
  · rw [hprog, Dev.core_modCore_other _ _ _ _ hq, Blocks.prog?]
  · rw [hm]
    by_cases hq : q = p
    · rw [hq, Dev.core_modCore_same]
    · rw [Dev.core_modCore_other _ _ _ _ hq]

/-! The rules of issue. -/

/-- A fetch beyond the scratchpad. -/
theorem Dev.strayInsn_beyond {d : Dev} {p : Nat} {g : Prog} (h : d.nextIn p g .v = none) : d.strayInsn p g =
    d.insnFault p (g.at_ (g.pc + (0x1C0000 - g.pc) / 32 * 32)) (g.pc + (0x1C0000 - g.pc) / 32 * 32) 0x24 .v
      (g.pc + (0x1C0000 - g.pc) / 32 * 32) := by
  unfold Dev.strayInsn
  rw [h]

/-- A fetch within the scratchpad: an undefined opcode whose turn has come, slot V's first, or nothing. -/
theorem Dev.strayInsn_within {d : Dev} {p : Nat} {g : Prog} (h : d.nextIn p g .v ≠ none) : d.strayInsn p g =
    match d.undefinedAt p g .v, d.undefinedAt p g .m with
    | some x, _ => d.insnFault p (g.at_ x) x 0x21 .v 0
    | none, some x => d.insnFault p (g.at_ x) x 0x21 .m 0
    | none, none => d := by
  obtain ⟨y, hy⟩ := Option.ne_none_iff_exists'.mp h
  unfold Dev.strayInsn
  rw [hy]
  cases d.undefinedAt p g .v <;> cases d.undefinedAt p g .m <;> rfl

section
variable {s : State} {p x : Nat} {ecc : Ecc} {g : Prog} {bs : List Byte}

/-- END at its turn. -/
theorem exec_end (h : Safety.Turn s p 1 g x bs) (hecc : ecc.badLocal = none) : exec (.end_ p ecc) s =
    .next (s.onDev (if (bs.drop 1).any (· ≠ 0) then s.dev.insnFault p (g.at_ x) x 0x21 .v 0
      else if !g.score.isEmpty || !(s.dev.unissued p .v x).isEmpty then s.dev
      else (s.dev.passed p (g.at_ x) g.gang).endProgram p (g.at_ x))) := by
  obtain ⟨⟨hop, hprog, hissue, hclock⟩, hnext, hbs, hopc, hheld⟩ := h
  show execEnd p ecc s = _
  rw [execEnd, Dev.live_running _ _ hop, Dev.endInsn, Dev.onInsn_run _ hprog hissue hclock hnext hbs hopc hheld (by simp [hecc])]
  rfl

theorem not_any_set {bs : List Byte} (h : ∀ b ∈ bs, b = 0) : ¬ bs.any (· ≠ 0) = true := by simpa using h

/-- END once every earlier instruction is complete. -/
theorem end_completes (h : Safety.Turn s p 1 g x bs) (hecc : ecc.badLocal = none) (hzero : ∀ b ∈ bs.drop 1, b = 0) (hscore : g.score = [])
    (hall : s.dev.unissued p .v x = []) :
    exec (.end_ p ecc) s = .next (s.onDev ((s.dev.passed p (g.at_ x) g.gang).endProgram p (g.at_ x))) := by
  rw [exec_end h hecc, if_neg (not_any_set hzero), hscore, hall, if_neg (by simp)]

end

end Sys2Proof.Machine
end

section
open Sys2Proof Sys2Proof.Machine

/-- Settles O28: every row goes the common path of `Dev.onInsn`, and END's own work is the end of its program. -/
theorem issueOrder : Obligations.IssueOrder := by
  unfold Obligations.IssueOrder
  refine ⟨fun s c p op ecc g hrow hready hnot => ?_, fun s c p op ecc hrow hidle => ?_, fun s c p op x ecc g bs hrow hready hnext hbs hop => ?_,
    fun s p x ecc g bs hturn hecc => ⟨fun hset => ?_, fun hzero hwait => ?_, fun hzero hscore hall => ?_⟩⟩
  · obtain ⟨run, hrun⟩ := exec_insnRow hrow
    obtain ⟨hoper, hprog, hissue, hclock⟩ := hready
    have hexec : exec c s = .next (s.onDev (s.dev.strayInsn p g)) := by
      rw [hrun s hoper, Dev.onInsn_stray run hprog hissue hclock hnot]
    rw [hexec]
    refine ⟨fun hv => by rw [Dev.strayInsn_beyond hv], fun hv x hx => ?_, fun hv hx x hm => ?_, fun hv hx hm => ?_⟩
    · rw [Dev.strayInsn_within hv, hx]
    · rw [Dev.strayInsn_within hv, hx, hm]
    · rw [Dev.strayInsn_within hv, hx, hm, State.onDev_self]
  · obtain ⟨run, hrun⟩ := issuesBy_insnRow hrow
    rw [hrun s]
    by_cases hoper : s.dev.glb.phase = .running
    · rw [Dev.live_running _ _ hoper, Dev.onInsn_idle op ecc run hidle, State.onDev_self]
    · rw [Dev.live_other _ _ hoper, State.onDev_self]
  · obtain ⟨run, hrun⟩ := exec_insnRow hrow
    obtain ⟨hoper, hprog, hissue, hclock⟩ := hready
    rw [hrun s hoper]
    refine ⟨fun hheld => ?_, fun w hheld hplace hbad hlo hhi hcorr => ?_⟩
    · rw [Dev.onInsn_held run hprog hissue hclock hnext hbs hop hheld, State.onDev_self]
    · rw [Dev.onInsn_badFetch run hprog hissue hclock hnext hbs hop hheld hplace hbad hlo hhi hcorr]
  · rw [exec_end hturn hecc, if_pos (by simpa using hset)]
  · have hopen : (!g.score.isEmpty || !(s.dev.unissued p .v x).isEmpty) = true := by
      rcases hwait with h | h <;> simp [h]
    rw [exec_end hturn hecc, if_neg (not_any_set hzero), if_pos hopen, State.onDev_self]
  · have hexec := end_completes hturn hecc hzero hscore hall
    obtain ⟨⟨hoper, hprog, hissue, hclock⟩, -⟩ := hturn
    obtain ⟨hnone, hloc, hrouting, hothers, hm⟩ := (s.dev.passed p (g.at_ x) g.gang).endProgram_leaves p (g.at_ x)
    obtain ⟨-, hshape, hprogs, -, -, -, ⟨-, hrouting', -⟩, -⟩ := passed_of_workFrame s.dev p g x hprog (.refl _)
    exact ⟨hexec, _, hexec, hnone, hloc.trans (s.dev.passed_blocks p g x).1, hrouting.trans hrouting',
      fun q hq => (hothers q hq).trans (hprogs q hq), fun q => (hm q).trans (hshape q).1⟩

end

section
/-! The cores' local memories (R69, R70, Table 3.2): each core has 4 MiB of addresses of its own, so that what one core writes no other reads. -/

namespace Sys2Proof.Machine

/-- Core c's local memory reads the same in both below an address. -/
def Blocks.SameBelow (top c : Nat) (b b' : Blocks) : Prop := ∀ a, a < top → memByte b'.loc (c * 2 ^ 22 + a) = memByte b.loc (c * 2 ^ 22 + a)

/-- Core c's local memory reads the same in both. -/
abbrev Blocks.SameLocal (c : Nat) (b b' : Blocks) : Prop := Blocks.SameBelow (2 ^ 22) c b b'

section
variable {top c : Nat} {b b' : Blocks} (h : Blocks.SameBelow top c b b')
include h

theorem Blocks.SameBelow.locRead {a n : Nat} (hn : n = 0 ∨ a + n ≤ top) : b'.locRead c a n = b.locRead c a n := by
  refine List.map_congr_left fun i hi => ?_
  have hlt := List.mem_range.mp hi
  have hbyte := h (a + i) (by omega)
  rwa [← Nat.add_assoc] at hbyte

theorem Blocks.SameBelow.locNat {a n : Nat} (hn : n = 0 ∨ a + n ≤ top) : b'.locNat c a n = b.locNat c a n := by
  rw [Blocks.locNat, h.locRead hn, Blocks.locNat]

end

theorem Blocks.length_locRead (b : Blocks) (c a n : Nat) : (b.locRead c a n).length = n := by
  rw [Blocks.locRead, memRead, List.length_map, List.length_range]

/-- A byte that lies in none of a core's n bytes from a. -/
def Outside (c a n y : Nat) : Prop := ¬ (c * 2 ^ 22 + a ≤ y ∧ y < c * 2 ^ 22 + a + n)

theorem outside_of_ne {c q a n i : Nat} (h : c ≠ q) (ha : a + n ≤ 2 ^ 22) (hi : i < 2 ^ 22) : Outside c a n (q * 2 ^ 22 + i) := by
  unfold Outside
  rcases Nat.lt_or_gt_of_ne h with h | h <;> omega

theorem memByte_memWrite_apart (m : Mem) (c a y : Nat) {bs : List Byte} (h : Outside c a bs.length y) :
    memByte (memWrite m (c * 2 ^ 22 + a) bs) y = memByte m y := by
  unfold Outside at h
  exact memByte_memWrite_outside _ _ _ _ (by omega)

/-- A write on one core as another core sees it. -/
theorem sameLocal_of_write {b b' : Blocks} {c q a : Nat} {bs : List Byte} (hloc : b'.loc = memWrite b.loc (c * 2 ^ 22 + a) bs) (h : c ≠ q)
    (ha : a + bs.length ≤ 2 ^ 22) : Blocks.SameLocal q b b' := fun _ hi => by
  rw [hloc, memByte_memWrite_apart _ _ _ _ (outside_of_ne h ha hi)]

/-! Writes on several cores, one after the other. -/

/-- Steps that each write at one local address a of a core, bytes that the other steps do not change: afterwards every core holds its bytes, and
nothing else has changed. -/
structure CoreWrites {α : Type} (core : α → Nat) (a : Nat) (step : Dev → α → Dev) (bytes : Dev → α → List Byte) (xs : List α) : Prop where
  loc : ∀ d x, x ∈ xs → (step d x).loc = memWrite d.loc (core x * 2 ^ 22 + a) (bytes d x)
  fit : ∀ d x, x ∈ xs → a + (bytes d x).length ≤ 2 ^ 22
  apart : ∀ d x y, x ∈ xs → y ∈ xs → core x ≠ core y → bytes (step d x) y = bytes d y

section
variable {α : Type} {core : α → Nat} {a : Nat} {step : Dev → α → Dev} {bytes : Dev → α → List Byte}

theorem CoreWrites.tail {x : α} {xs : List α} (h : CoreWrites core a step bytes (x :: xs)) : CoreWrites core a step bytes xs :=
  ⟨fun d y hy => h.loc d y (List.mem_cons_of_mem x hy), fun d y hy => h.fit d y (List.mem_cons_of_mem x hy),
    fun d y z hy hz => h.apart d y z (List.mem_cons_of_mem x hy) (List.mem_cons_of_mem x hz)⟩

theorem CoreWrites.step_other {x : α} {xs : List α} (h : CoreWrites core a step bytes (x :: xs)) (hx : ∀ y ∈ xs, core x ≠ core y) (d : Dev) :
    ∀ y ∈ xs, bytes (step d x) y = bytes d y :=
  fun y hy => h.apart d x y List.mem_cons_self (List.mem_cons_of_mem x hy) (hx y hy)

theorem CoreWrites.outside {xs : List α} (h : CoreWrites core a step bytes xs) (hnodup : (xs.map core).Nodup) (d : Dev) {y : Nat}
    (hy : ∀ x ∈ xs, Outside (core x) a (bytes d x).length y) : memByte (xs.foldl step d).loc y = memByte d.loc y := by
  induction xs generalizing d with
  | nil => rfl
  | cons x xs ih =>
    obtain ⟨hx, hxs⟩ := List.nodup_cons.mp hnodup
    have hother := h.step_other (fun z hz heq => hx (heq ▸ List.mem_map_of_mem hz)) d
    have hrest : ∀ z ∈ xs, Outside (core z) a (bytes (step d x) z).length y := fun z hz => by
      rw [hother z hz]
      exact hy z (List.mem_cons_of_mem x hz)
    rw [List.foldl_cons, ih h.tail hxs (step d x) hrest, h.loc d x List.mem_cons_self, memByte_memWrite_apart _ _ _ _ (hy x List.mem_cons_self)]

theorem CoreWrites.inside {xs : List α} (h : CoreWrites core a step bytes xs) (hnodup : (xs.map core).Nodup) (d : Dev) {x : α} (hx : x ∈ xs) :
    (xs.foldl step d).locRead (core x) a (bytes d x).length = bytes d x := by
  induction xs generalizing d with
  | nil => exact absurd hx List.not_mem_nil
  | cons z xs ih =>
    obtain ⟨hz, hxs⟩ := List.nodup_cons.mp hnodup
    have hne : ∀ y ∈ xs, core z ≠ core y := fun y hy heq => hz (heq ▸ List.mem_map_of_mem hy)
    have hother := h.step_other hne d
    rcases List.mem_cons.mp hx with rfl | hmem
    · refine List.ext_getElem (Blocks.length_locRead _ _ _ _) fun i hi hi' => ?_
      have hfit := h.fit d x List.mem_cons_self
      have hrest : ∀ y ∈ xs, Outside (core y) a (bytes (step d x) y).length (core x * 2 ^ 22 + a + i) := fun y hy => by
        rw [Nat.add_assoc]
        exact outside_of_ne (hne y hy).symm (h.fit _ y (List.mem_cons_of_mem x hy)) (by omega)
      simp only [Blocks.locRead, memRead, List.getElem_map, List.getElem_range, List.foldl_cons]
      rw [h.tail.outside hxs (step d x) hrest, h.loc d x List.mem_cons_self, memByte_memWrite_inside _ _ _ _ hi']
    · have hbytes := hother x hmem
      have hread := ih h.tail hxs (step d z) hmem
      rwa [hbytes] at hread

end

/-! Ranges that pass their check lie within the 4 MiB. -/

theorem inLocal_fits {a n : Nat} (h : inLocal (a, n) = true) : n = 0 ∨ a + n ≤ 0x240000 := by
  simp only [inLocal, inPad, inAcc, Bool.or_eq_true, Bool.and_eq_true, decide_eq_true_eq] at h
  omega

/-- A vector instruction that breaks no rule names local ranges that exist. -/
theorem VecInsn.span_fits {v : VecInsn} {r : VecRule} (h : v.fault r = none) {x : Span} (hx : x ∈ r.spans) :
    x.len = 0 ∨ x.addr + x.len ≤ 0x240000 := by
  unfold VecInsn.fault at h
  split at h
  · exact absurd h nofun
  · split at h
    · exact absurd h nofun
    · next hnone =>
      have hok := List.find?_eq_none.mp hnone x hx
      simp only [localOk, Bool.not_eq_true', Bool.and_eq_true, Bool.not_eq_false] at hok
      exact inLocal_fits hok.2

end Sys2Proof.Machine
end

section
/-! The common path of the vector operations (R78, R93, R103). -/

namespace Sys2Proof.Machine

/-- What a vector row does with the instruction whose turn it is. -/
def Dev.vecWork (d : Dev) (p : Nat) (ecc : Ecc) (run : Dev → Nat → Prog → VecInsn → Dev) (g : Prog) (bs : List Byte) : Dev :=
  let v := vecOf bs
  let r := d.vecRule p v
  match v.fault r with
  | some (code, loc) => d.insnFault p g g.pc code .v loc
  | none =>
    if d.hazard p .v g.pc (d.rangesOf p bs) then d
    else
      let c := g.errCore p ecc
      let d := d.countCorr c 0 { ecc with corrHbm := 0 }
      match ecc.badLocal.filter (fun x => meets (spansOf false r.spans) [(x, 1)]) with
      | some x => d.localFault c g g.pc 0x28 .v x
      | none =>
        let d := Safety.eachCore g p (fun d c => run d c g v) d
        if (d.prog? p).isNone then d else d.passed p g g.gang

theorem Dev.vecRow_eq (d : Dev) (p op : Nat) (ecc : Ecc) (run : Dev → Nat → Prog → VecInsn → Dev) :
    d.vecRow p op ecc run = d.onInsn p op ecc (fun d g bs => d.vecWork p ecc run g bs) := rfl

section
variable {s : State} {p op x : Nat} {ecc : Ecc} {g : Prog} {bs : List Byte} (run : Dev → Nat → Prog → VecInsn → Dev)

/-- The row at its turn, where the fetch meets no error. -/
theorem live_vecRow (h : Safety.Turn s p op g x bs) (hfetch : ∀ w, ecc.badLocal = some w → ecc.place ≠ 0 ∨ w < x ∨ x + 32 ≤ w) :
    s.dev.live (fun d => d.vecRow p op ecc run) = s.dev.vecWork p ecc run (g.at_ x) bs := by
  obtain ⟨⟨hop, hprog, hissue, hclock⟩, hnext, hbs, hopc, hheld⟩ := h
  rw [Dev.live_running _ _ hop, Dev.vecRow_eq, Dev.onInsn_run _ hprog hissue hclock hnext hbs hopc hheld hfetch]

variable {d : Dev} {r : VecRule} (hrule : d.vecRule p (vecOf bs) = r)
include hrule

/-- A broken rule. -/
theorem Dev.vecWork_fault {code loc : Nat} (h : (vecOf bs).fault r = some (code, loc)) :
    d.vecWork p ecc run (g.at_ x) bs = d.insnFault p (g.at_ x) x code .v loc := by
  unfold Dev.vecWork
  simp only [hrule, h]
  rfl

variable (hnone : (vecOf bs).fault r = none)
include hnone

/-- An overlap with an earlier instruction. -/
theorem Dev.vecWork_hazard (h : d.hazard p .v x (d.rangesOf p bs) = true) : d.vecWork p ecc run (g.at_ x) bs = d := by
  have hpc : (g.at_ x).pc = x := rfl
  unfold Dev.vecWork
  simp only [hrule, hnone, hpc, h, if_true]

variable (hfree : d.hazard p .v x (d.rangesOf p bs) = false)
include hfree

/-- An uncorrectable word in a source. -/
theorem Dev.vecWork_badSource {w : Nat} (hbad : ecc.badLocal = some w) (hcorr : ecc.corrLocal = 0)
    (hmeets : meets (spansOf false r.spans) [(w, 1)] = true) :
    d.vecWork p ecc run (g.at_ x) bs = d.localFault (g.errCore p ecc) (g.at_ x) x 0x28 .v w := by
  have hpc : (g.at_ x).pc = x := rfl
  have hfilter : ecc.badLocal.filter (fun x => meets (spansOf false r.spans) [(x, 1)]) = some w := by simp [hbad, hmeets]
  unfold Dev.vecWork
  simp only [hrule, hnone, hpc, hfree, Bool.false_eq_true, if_false, hfilter]
  rw [Dev.countCorr_none _ _ _ _ (by exact hcorr) rfl]
  rfl

/-- The work of every core of the stream, as long as no fault stops it; then the instruction has passed. -/
theorem Dev.vecWork_clear (hbad : ecc.badLocal = none) : d.vecWork p ecc run (g.at_ x) bs =
    let e := Safety.eachCore g p (fun d c => run d c (g.at_ x) (vecOf bs)) (d.countCorr (g.errCore p ecc) 0 { ecc with corrHbm := 0 })
    if (e.prog? p).isNone then e else e.passed p (g.at_ x) g.gang := by
  have hpc : (g.at_ x).pc = x := rfl
  unfold Dev.vecWork
  simp only [hrule, hnone, hpc, hfree, Bool.false_eq_true, if_false, hbad, Option.filter_none]
  rfl

end

/-- Work that keeps the program on its core reaches every core of the stream. -/
theorem eachCore_eq {g : Prog} {p : Nat} {f : Dev → Nat → Dev} (hf : ∀ d c, (f d c).prog? p = d.prog? p) {d : Dev} (hd : (d.prog? p).isSome = true) :
    Safety.eachCore g p f d = g.gang.foldl f d := by
  unfold Safety.eachCore
  induction g.gang generalizing d with
  | nil => rfl
  | cons c cs ih =>
    have hstep : (if (d.prog? p).isNone then d else f d c) = f d c := if_neg (by simp [Option.isNone_eq_false_iff.mpr hd])
    rw [List.foldl_cons, List.foldl_cons, hstep, ih (by rw [hf]; exact hd)]

theorem Prog.errCore_mem (g : Prog) (p : Nat) (ecc : Ecc) : g.errCore p ecc ∈ p :: g.gang := by
  unfold Prog.errCore
  rw [List.getD_eq_getElem?_getD]
  cases h : g.gang[ecc.place]? with
  | none => exact List.mem_cons_self
  | some c => exact List.mem_cons_of_mem p (List.mem_of_getElem? h)

section
variable {s : State} {p op x : Nat} {ecc : Ecc} {g : Prog} {bs : List Byte} {r : VecRule} {f : Dev → Nat → Dev}

/-- The device on which the cores of the stream do their work: corrected words are counted. -/
def Dev.counted (d : Dev) (p : Nat) (g : Prog) (ecc : Ecc) : Dev := d.countCorr (g.errCore p ecc) 0 { ecc with corrHbm := 0 }

theorem Dev.workFrame_counted (d : Dev) (p : Nat) (g : Prog) (ecc : Ecc) : Dev.WorkFrame (p :: g.gang) d (d.counted p g ecc) :=
  d.workFrame_countCorr 0 (g.errCore_mem p ecc) rfl

theorem Dev.counted_blocks (d : Dev) (p : Nat) (g : Prog) (ecc : Ecc) : (d.counted p g ecc).loc = d.loc ∧ (d.counted p g ecc).ctxs = d.ctxs ∧
    (d.counted p g ecc).cores = d.cores := by
  obtain ⟨_, h⟩ := d.regFrame_countCorr (g.errCore p ecc) 0 { ecc with corrHbm := 0 }
  rw [Dev.counted, h]
  exact ⟨rfl, rfl, rfl⟩

/-- A clear instruction whose work stays in the frame of `Dev.WorkFrame`. -/
theorem vecRow_clear (hturn : Safety.Turn s p op g x bs) (hrule : s.dev.vecRule p (vecOf bs) = r) (hclear : Safety.Clear s p x bs r ecc)
    (run : Dev → Nat → Prog → VecInsn → Dev) (hwork : ∀ d c, Dev.WorkFrame (p :: g.gang) d (run d c (g.at_ x) (vecOf bs))) :
    let e := g.gang.foldl (fun d c => run d c (g.at_ x) (vecOf bs)) (s.dev.counted p g ecc)
    s.dev.live (fun d => d.vecRow p op ecc run) = e.passed p (g.at_ x) g.gang ∧ Safety.Passed s (s.onDev (e.passed p (g.at_ x) g.gang)) p g x := by
  obtain ⟨hnone, hfree, hbad⟩ := hclear
  have hprog : s.dev.prog? p = some g := hturn.1.2.1
  have hcounted := s.dev.workFrame_counted p g ecc
  have hframe : Dev.WorkFrame (p :: g.gang) s.dev (g.gang.foldl (fun d c => run d c (g.at_ x) (vecOf bs)) (s.dev.counted p g ecc)) :=
    foldl_keeps (Dev.WorkFrame (p :: g.gang) s.dev) (fun d c h => h.trans (hwork d c)) _ hcounted
  have heach := eachCore_eq (g := g) (p := p) (f := fun d c => run d c (g.at_ x) (vecOf bs)) (fun d c => (hwork d c).prog p)
    (d := s.dev.counted p g ecc) (by rw [hcounted.prog, hprog]; rfl)
  refine ⟨?_, passed_of_workFrame _ p g x hprog hframe⟩
  rw [live_vecRow run hturn (by simp [hbad]), Dev.vecWork_clear run hrule hnone hfree hbad]
  dsimp only
  rw [← Dev.counted, heach, hframe.prog, hprog, Option.isNone_some, if_neg Bool.false_ne_true]

end

end Sys2Proof.Machine
end

section
/-! The vector operations that write a result at DST (R93 to R96): what their row leaves, once for every operation. -/

namespace Sys2Proof.Machine

/-! A result that is put. -/

section
variable (d : Dev) (c : Nat) (g : Prog) (v : VecInsn) (bs : List Byte)

theorem Dev.vecPut_eq : ∃ ctxs, d.vecPut c g v bs = { d.locWrite c v.dst bs with ctxs := ctxs } ∧ (v.hm = false → ctxs = d.ctxs) := by
  unfold Dev.vecPut
  dsimp only
  split
  · next hm =>
    obtain ⟨ctxs, h⟩ := (d.locWrite c v.dst bs).hmPart_eq g c g.order bs
    exact ⟨ctxs, h, fun hfalse => absurd (hfalse.symm.trans hm) Bool.false_ne_true⟩
  · exact ⟨_, rfl, fun _ => rfl⟩

theorem Dev.vecPut_loc : (d.vecPut c g v bs).loc = memWrite d.loc (c * 2 ^ 22 + v.dst) bs := by
  obtain ⟨_, h, -⟩ := d.vecPut_eq c g v bs
  rw [h]
  rfl

theorem Dev.vecPut_cores : (d.vecPut c g v bs).cores = d.cores := by
  obtain ⟨_, h, -⟩ := d.vecPut_eq c g v bs
  rw [h]
  rfl

theorem Dev.vecPut_ctxs (hm : v.hm = false) : (d.vecPut c g v bs).ctxs = d.ctxs := by
  obtain ⟨_, h, hctxs⟩ := d.vecPut_eq c g v bs
  rw [h]
  exact hctxs hm

theorem Dev.workFrame_vecPut (cores : List Nat) : Dev.WorkFrame cores d (d.vecPut c g v bs) := by
  obtain ⟨_, h, -⟩ := d.vecPut_eq c g v bs
  rw [h]
  exact d.workFrame_data _ _

end

/-! A row of results. -/

theorem dst_vecOf_lt (bs : List Byte) : (vecOf bs).dst < 2 ^ 22 := Nat.mod_lt _ (by decide)


/-- Command c is the row of an operation with its rule that writes bytes f at DST on each core of its stream. Where no rule is broken these bytes fit
there and come from the core's own local memory. -/
structure ResultRow (c : Instr) (p op : Nat) (ecc : Ecc) (rule : VecInsn → VecRule) (f : Blocks → Nat → VecInsn → List Byte) : Prop where
  exec : ∀ s : State, exec c s = .next (s.onDev (s.dev.live (fun d => d.vecRow p op ecc (fun d c g v => d.vecPut c g v (f d.toBlocks c v)))))
  ruleOf : ∀ (b : Blocks) (q : Nat) (v : VecInsn), v.op = op → b.vecRule q v = rule v
  fit : ∀ (b : Blocks) (q : Nat) (v : VecInsn), v.fault (rule v) = none → (f b q v).length = 0 ∨ v.dst + (f b q v).length ≤ 2 ^ 22
  same : ∀ (b b' : Blocks) (q : Nat) (v : VecInsn), v.fault (rule v) = none → Blocks.SameLocal q b b' → f b' q v = f b q v

section
variable {c : Instr} {p op : Nat} {ecc : Ecc} {rule : VecInsn → VecRule} {f : Blocks → Nat → VecInsn → List Byte}
  (hrow : ResultRow c p op ecc rule f) {s : State} {x : Nat} {g : Prog} {bs : List Byte} (hturn : Safety.Turn s p op g x bs)
include hrow hturn

theorem ResultRow.ruleAt : s.dev.vecRule p (vecOf bs) = rule (vecOf bs) := hrow.ruleOf _ _ _ hturn.2.2.2.1

/-- The first broken rule. -/
theorem ResultRow.fault {code loc : Nat} (hbad : ecc.badLocal = none) (hcode : (vecOf bs).fault (rule (vecOf bs)) = some (code, loc)) :
    Machine.exec c s = .next (s.onDev (s.dev.insnFault p (g.at_ x) x code .v loc)) := by
  rw [hrow.exec, live_vecRow _ hturn (by simp [hbad]), Dev.vecWork_fault _ (hrow.ruleAt hturn) hcode]

theorem ResultRow.hazard (hbad : ecc.badLocal = none) (hnone : (vecOf bs).fault (rule (vecOf bs)) = none)
    (hwait : s.dev.hazard p .v x (s.dev.rangesOf p bs) = true) : Machine.exec c s = .next s := by
  rw [hrow.exec, live_vecRow _ hturn (by simp [hbad]), Dev.vecWork_hazard _ (hrow.ruleAt hturn) hnone hwait, State.onDev_self]

/-- An uncorrectable word in a source. -/
theorem ResultRow.badSource {w : Nat} (hnone : (vecOf bs).fault (rule (vecOf bs)) = none)
    (hfree : s.dev.hazard p .v x (s.dev.rangesOf p bs) = false) (hbad : ecc.badLocal = some w) (hcorr : ecc.corrLocal = 0)
    (hout : ecc.place ≠ 0 ∨ w < x ∨ x + 32 ≤ w) (hmeets : meets (spansOf false (rule (vecOf bs)).spans) [(w, 1)] = true) :
    Machine.exec c s = .next (s.onDev (s.dev.localFault (g.errCore p ecc) (g.at_ x) x 0x28 .v w)) := by
  have hfetch : ∀ w', ecc.badLocal = some w' → ecc.place ≠ 0 ∨ w' < x ∨ x + 32 ≤ w' := fun w' hw' => by
    obtain rfl : w = w' := Option.some.inj (hbad.symm.trans hw')
    exact hout
  rw [hrow.exec, live_vecRow _ hturn hfetch, Dev.vecWork_badSource _ (hrow.ruleAt hturn) hnone hfree hbad hcorr hmeets]

omit hturn in
/-- The bytes of an instruction of the program lie in a core's local memory. -/
theorem ResultRow.fits (hnone : (vecOf bs).fault (rule (vecOf bs)) = none) (b : Blocks) (q : Nat) :
    (vecOf bs).dst + (f b q (vecOf bs)).length ≤ 2 ^ 22 := by
  have hfit := hrow.fit b q _ hnone
  have hdst := dst_vecOf_lt bs
  omega

omit hturn in
/-- The writes of a clear instruction, core by core. -/
theorem ResultRow.writes (hnone : (vecOf bs).fault (rule (vecOf bs)) = none) :
    CoreWrites (fun q : Nat => q) (vecOf bs).dst (fun d q => d.vecPut q (g.at_ x) (vecOf bs) (f d.toBlocks q (vecOf bs)))
      (fun d q => f d.toBlocks q (vecOf bs)) g.gang where
  loc := fun d q _ => Dev.vecPut_loc d q _ _ _
  fit := fun d q _ => hrow.fits hnone d.toBlocks q
  apart := fun d q _ _ _ hne => hrow.same _ _ _ _ hnone (sameLocal_of_write (Dev.vecPut_loc d q _ _ _) hne (hrow.fits hnone _ _))

/-- A clear instruction leaves its bytes at DST on every core of the stream. -/
theorem ResultRow.clear (hclear : Safety.Clear s p x bs (rule (vecOf bs)) ecc) (hnodup : g.gang.Nodup) : Safety.Gives c s (fun t =>
    (∀ q ∈ g.gang, t.dev.locRead q (vecOf bs).dst (f s.dev.toBlocks q (vecOf bs)).length = f s.dev.toBlocks q (vecOf bs)) ∧
    Safety.LocalBut s t g.gang (vecOf bs).dst (fun q => (f s.dev.toBlocks q (vecOf bs)).length) ∧ Safety.Passed s t p g x ∧
    (∀ q, (t.dev.core q).keep = (s.dev.core q).keep) ∧ ((vecOf bs).hm = false → t.dev.ctxs = s.dev.ctxs)) := by
  obtain ⟨hlive, hpassed⟩ := vecRow_clear hturn (hrow.ruleAt hturn) hclear (fun d c g v => d.vecPut c g v (f d.toBlocks c v))
    (fun d c => d.workFrame_vecPut c _ _ _ _)
  obtain ⟨hloc, hctxs, hcores⟩ := s.dev.counted_blocks p g ecc
  obtain ⟨hloc', hctxs', hkeep'⟩ := (g.gang.foldl (fun d c => d.vecPut c (g.at_ x) (vecOf bs) (f d.toBlocks c (vecOf bs)))
    (s.dev.counted p g ecc)).passed_blocks p g x
  have hwrites := hrow.writes (x := x) (g := g) hclear.1
  have hids : (g.gang.map fun q : Nat => q).Nodup := by rwa [List.map_id']
  have hbytes : ∀ q, f (s.dev.counted p g ecc).toBlocks q (vecOf bs) = f s.dev.toBlocks q (vecOf bs) := fun q =>
    hrow.same _ _ _ _ hclear.1 fun a _ => by rw [hloc]
  refine ⟨_, (hrow.exec s).trans (congrArg (fun d => Host.Outcome.next (s.onDev d)) hlive), fun q hq => ?_, fun y hy => ?_, hpassed, fun q => ?_, fun hm => ?_⟩
  · have hread := hwrites.inside hids (s.dev.counted p g ecc) hq
    rw [hbytes] at hread
    rw [State.onDev_dev, Blocks.locRead, hloc']
    exact hread
  · have hkept := hwrites.outside hids (s.dev.counted p g ecc) (y := y) fun q hq => by
      rw [hbytes]
      exact hy q hq
    rw [State.onDev_dev, hloc', hkept, hloc]
  · have hcores' : (g.gang.foldl (fun d c => d.vecPut c (g.at_ x) (vecOf bs) (f d.toBlocks c (vecOf bs))) (s.dev.counted p g ecc)).cores = s.dev.cores :=
      foldl_keeps (fun e : Dev => e.cores = s.dev.cores) (fun e c h => (e.vecPut_cores c _ _ _).trans h) _ hcores
    rw [State.onDev_dev, hkeep', Blocks.core, hcores', Blocks.core]
  · rw [State.onDev_dev, hctxs']
    exact foldl_keeps (fun e : Dev => e.ctxs = s.dev.ctxs) (fun e c h => (e.vecPut_ctxs c _ _ _ hm).trans h) _ hctxs

end

end Sys2Proof.Machine
end

section
/-! The operations that map words to words (R93, R94, Table 3.9). -/

namespace Sys2Proof.Machine

/-! Words in local memory. -/

theorem Blocks.locRead_append (b : Blocks) (q a m n : Nat) : b.locRead q a (m + n) = b.locRead q a m ++ b.locRead q (a + m) n := by
  simp only [Blocks.locRead, memRead, List.range_add, List.map_append, List.map_map, Function.comp_def, Nat.add_assoc]

theorem wordBytes_range_succ (w : Nat → Nat) (n : Nat) :
    wordBytes ((List.range (n + 1)).map w) = wordBytes ((List.range n).map w) ++ toLe 4 (w n) := by
  simp [wordBytes, List.range_succ]

theorem length_flatMap_of_forall {α β : Type} {f : α → List β} {n : Nat} {xs : List α} (h : ∀ x ∈ xs, (f x).length = n) :
    (xs.flatMap f).length = n * xs.length := by
  rw [List.length_flatMap, List.map_congr_left h, List.map_const', List.sum_replicate_nat, Nat.mul_comm]

theorem length_wordBytes (ws : List Nat) : (wordBytes ws).length = 4 * ws.length := length_flatMap_of_forall fun _ _ => length_toLe 4 _

/-- The words of a range that holds their bytes. -/
theorem Blocks.locNat_of_wordBytes {b : Blocks} {q a : Nat} {w : Nat → Nat} {n : Nat}
    (h : b.locRead q a (4 * n) = wordBytes ((List.range n).map w)) {i : Nat} (hi : i < n) : b.locNat q (a + 4 * i) 4 = w i % 2 ^ 32 := by
  induction n with
  | zero => exact absurd hi (Nat.not_lt_zero i)
  | succ n ih =>
    rw [Nat.mul_succ, Blocks.locRead_append, wordBytes_range_succ] at h
    have hlen : (b.locRead q a (4 * n)).length = (wordBytes ((List.range n).map w)).length := by
      rw [Blocks.length_locRead, length_wordBytes, List.length_map, List.length_range]
    obtain ⟨hinit, hlast⟩ := List.append_inj h hlen
    rcases Nat.lt_succ_iff_lt_or_eq.mp hi with hlt | rfl
    · exact ih hinit hlt
    · rw [Blocks.locNat, hlast, leNat_toLe]
      rfl

/-! The elements of a result. -/

section
variable (at2 : Nat → Nat) (f : VecInsn → Nat → Nat → Nat → Nat)

/-- Element i of an operation's result on core q. -/
def Blocks.element (b : Blocks) (q : Nat) (v : VecInsn) (i : Nat) : Nat :=
  f v (b.locNat q (v.src1 + 4 * i) 4) (b.locNat q (v.src2 + at2 i) 4) (b.locNat q (v.dst + 4 * i) 4)

/-- The bytes of an operation's result on core q. -/
def Blocks.mapBytes (b : Blocks) (q : Nat) (v : VecInsn) : List Byte := wordBytes ((List.range v.count).map (b.element at2 f q v))

theorem Blocks.length_mapBytes (b : Blocks) (q : Nat) (v : VecInsn) : (b.mapBytes at2 f q v).length = 4 * v.count := by
  rw [Blocks.mapBytes, length_wordBytes, List.length_map, List.length_range]

end

theorem zipWith_words (f : Nat → Nat → Nat) (b : Blocks) (q x y n : Nat) :
    List.zipWith f (b.words q x n) (b.words q y n) = (List.range n).map (fun i => f (b.locNat q (x + 4 * i) 4) (b.locNat q (y + 4 * i) 4)) := by
  rw [Blocks.words, Blocks.words, List.zipWith_map, List.zipWith_self]

theorem zip_words (b : Blocks) (q x y z n : Nat) : (b.words q x n).zip ((b.words q y n).zip (b.words q z n)) =
    (List.range n).map (fun i => (b.locNat q (x + 4 * i) 4, b.locNat q (y + 4 * i) 4, b.locNat q (z + 4 * i) 4)) := by
  simp only [Blocks.words, List.zip, List.zipWith_map, List.zipWith_self]

/-! The rows. -/

/-- A row that maps words. -/
abbrev MapRow (c : Instr) (p op : Nat) (ecc : Ecc) (rule : VecInsn → VecRule) (at2 : Nat → Nat) (f : VecInsn → Nat → Nat → Nat → Nat) : Prop :=
  ResultRow c p op ecc rule (fun b q v => b.mapBytes at2 f q v)

section
variable {c : Instr} {p op : Nat} {ecc : Ecc}

/-- A row whose elements come from the core's own memory and whose words at DST lie there. -/
theorem MapRow.of_element {rule : VecInsn → VecRule} {at2 : Nat → Nat} {f : VecInsn → Nat → Nat → Nat → Nat}
    (hexec : ∀ s : State, exec c s = .next (s.onDev (s.dev.live (fun d => d.vecRow p op ecc (fun d c g v => d.vecPut c g v (d.mapBytes at2 f c v))))))
    (hrule : ∀ (b : Blocks) (q : Nat) (v : VecInsn), v.op = op → b.vecRule q v = rule v)
    (hdst : ∀ v : VecInsn, Span.w v.dst (4 * v.count) 4 ∈ (rule v).spans)
    (hsame : ∀ (b b' : Blocks) (q : Nat) (v : VecInsn), v.fault (rule v) = none → Blocks.SameLocal q b b' → ∀ i, i < v.count →
      b'.element at2 f q v i = b.element at2 f q v i) : MapRow c p op ecc rule at2 f where
  exec := hexec
  ruleOf := hrule
  fit b q v hnone := by
    have hfits := v.span_fits hnone (hdst v)
    simp only [Span.w] at hfits
    rw [Blocks.length_mapBytes]
    omega
  same b b' q v hnone h := congrArg wordBytes (List.map_congr_left fun i hi => hsame b b' q v hnone h i (List.mem_range.mp hi))

variable {f : VecInsn → Nat → Nat → Nat → Nat}

/-- The words that a rule reads are read alike, as long as the core's own memory is the same. -/
theorem locNat_of_span {v : VecInsn} {r : VecRule} (hnone : v.fault r = none) {b b' : Blocks} {q : Nat} (h : Blocks.SameLocal q b b') {x : Span}
    (hx : x ∈ r.spans) {i : Nat} (hi : 4 * i + 4 ≤ x.len) : b'.locNat q (x.addr + 4 * i) 4 = b.locNat q (x.addr + 4 * i) 4 := by
  have hfits := v.span_fits hnone hx
  exact h.locNat (by omega)

/-- One source. -/
theorem MapRow.unary {g : VecInsn → Nat → Nat} (hexec : ∀ s : State, exec c s = .next (s.onDev (s.dev.live (fun d => d.vecUnary p op ecc g))))
    (hrule : ∀ (b : Blocks) (q : Nat) (v : VecInsn), v.op = op → b.vecRule q v = mapRule false false v) :
    MapRow c p op ecc (mapRule false false) (4 * ·) (fun v x _ _ => g v x) :=
  .of_element (fun s => by
      rw [hexec]
      simp only [Dev.vecUnary, Blocks.words, List.map_map]
      rfl)
    hrule (fun v => by simp [mapRule, slotRule]) fun b b' q v hnone h i hi =>
      congrArg (g v) (locNat_of_span hnone h (x := Span.r v.src1 (4 * v.count) 4) (by simp [mapRule, slotRule]) (by simp only [Span.r]; omega))

/-- Two sources. -/
theorem MapRow.binary {g : Nat → Nat → Nat} (hexec : ∀ s : State, exec c s = .next (s.onDev (s.dev.live (fun d => d.vecBinary p op ecc g))))
    (hrule : ∀ (b : Blocks) (q : Nat) (v : VecInsn), v.op = op → b.vecRule q v = mapRule true false v) :
    MapRow c p op ecc (mapRule true false) (4 * ·) (fun _ x y _ => g x y) :=
  .of_element (fun s => by
      rw [hexec]
      simp only [Dev.vecBinary, zipWith_words]
      rfl)
    hrule (fun v => by simp [mapRule, slotRule]) fun b b' q v hnone h i hi =>
      congrArg₂ g (locNat_of_span hnone h (x := Span.r v.src1 (4 * v.count) 4) (by simp [mapRule, slotRule]) (by simp only [Span.r]; omega))
        (locNat_of_span hnone h (x := Span.r v.src2 (4 * v.count) 4) (by simp [mapRule, slotRule]) (by simp only [Span.r]; omega))

/-- Two sources and the words at DST. -/
theorem mapRow_vfma (p : Nat) (ecc : Ecc) : MapRow (.vfma p ecc) p 0x83 ecc (mapRule true true) (4 * ·) (fun _ x y z => ffma x y z) :=
  .of_element (fun s => by
      show Host.Outcome.next (s.onDev (s.dev.live (fun d => d.vfma p ecc))) = _
      simp only [Dev.vfma, zip_words, List.map_map]
      rfl)
    (fun b q v hop => by simp only [Blocks.vecRule, hop]) (fun v => by simp [mapRule, slotRule]) fun b b' q v hnone h i hi => by
      have hsrc1 := locNat_of_span hnone h (x := Span.r v.src1 (4 * v.count) 4) (i := i) (by simp [mapRule, slotRule]) (by simp only [Span.r]; omega)
      have hsrc2 := locNat_of_span hnone h (x := Span.r v.src2 (4 * v.count) 4) (i := i) (by simp [mapRule, slotRule]) (by simp only [Span.r]; omega)
      have hdst := locNat_of_span hnone h (x := Span.r v.dst (4 * v.count) 4) (i := i) (by simp [mapRule, slotRule]) (by simp only [Span.r]; omega)
      simp only [Span.r] at hsrc1 hsrc2 hdst
      simp only [Blocks.element, hsrc1, hsrc2, hdst]

/-- One source, one word at SRC2 and the words at DST. -/
theorem mapRow_vaxpy (p : Nat) (ecc : Ecc) : MapRow (.vaxpy p ecc) p 0x84 ecc axpyRule (fun _ => 0) (fun _ x y z => fadd z (fmul y x)) :=
  .of_element (fun s => by
      show Host.Outcome.next (s.onDev (s.dev.live (fun d => d.vaxpy p ecc))) = _
      simp only [Dev.vaxpy, zipWith_words]
      rfl)
    (fun b q v hop => by simp only [Blocks.vecRule, hop]) (fun v => by simp [axpyRule, slotRule]) fun b b' q v hnone h i hi => by
      have hcount : v.count ≠ 0 := by omega
      have hsrc1 := locNat_of_span hnone h (x := Span.r v.src1 (4 * v.count) 4) (i := i) (by simp [axpyRule, slotRule]) (by simp only [Span.r]; omega)
      have hsrc2 := locNat_of_span hnone h (x := Span.r v.src2 4 4) (i := 0) (by simp [axpyRule, slotRule, hcount]) (by simp only [Span.r]; omega)
      have hdst := locNat_of_span hnone h (x := Span.r v.dst (4 * v.count) 4) (i := i) (by simp [axpyRule, slotRule]) (by simp only [Span.r]; omega)
      simp only [Span.r] at hsrc1 hsrc2 hdst
      simp only [Blocks.element, hsrc1, hsrc2, hdst]

end

/-- Every row of `Safety.mapRow`. -/
theorem mapRow_of_some {c : Instr} {p op : Nat} {ecc : Ecc} {rule : VecInsn → VecRule} {at2 : Nat → Nat} {f : VecInsn → Nat → Nat → Nat → Nat}
    (h : Safety.mapRow c = some (p, op, ecc, rule, at2, f)) : MapRow c p op ecc rule at2 f := by
  cases c
  case vfma =>
    obtain ⟨rfl, rfl, rfl, rfl, rfl, rfl⟩ : _ ∧ _ ∧ _ ∧ _ ∧ _ ∧ _ := by simpa [Safety.mapRow] using h
    exact mapRow_vfma _ _
  case vaxpy =>
    obtain ⟨rfl, rfl, rfl, rfl, rfl, rfl⟩ : _ ∧ _ ∧ _ ∧ _ ∧ _ ∧ _ := by simpa [Safety.mapRow] using h
    exact mapRow_vaxpy _ _
  case vcopy | vscale | vexp | vrcp | vrsqrt | vsilu | vgelu =>
    obtain ⟨rfl, rfl, rfl, rfl, rfl, rfl⟩ : _ ∧ _ ∧ _ ∧ _ ∧ _ ∧ _ := by simpa [Safety.mapRow] using h
    exact .unary (fun _ => rfl) fun b q v hop => by simp only [Blocks.vecRule, hop]
  case vadd | vmul | vmax | vmin =>
    obtain ⟨rfl, rfl, rfl, rfl, rfl, rfl⟩ : _ ∧ _ ∧ _ ∧ _ ∧ _ ∧ _ := by simpa [Safety.mapRow] using h
    exact .binary (fun _ => rfl) fun b q v hop => by simp only [Blocks.vecRule, hop]
  all_goals exact absurd h nofun

end Sys2Proof.Machine
end

section
open Sys2Proof Sys2Proof.Machine

/-- Settles O29: every row goes the common path of `ResultRow` with its elements (R93, R94); the elements are those that stood before because a core
reads its own local memory alone, which only its own write changes (log entry 32), and a ganged stream's issue fault is its leader's (log entry 88). -/
theorem vectorElementwise : Obligations.VectorElementwise := by
  intro s c p op x ecc rule at2 f g bs hsome hturn
  have hrow := mapRow_of_some hsome
  refine ⟨fun hclear hnodup => ?_, fun code loc hbad hcode => hrow.fault hturn hbad hcode, fun hbad hnone hwait => hrow.hazard hturn hbad hnone hwait,
    fun w hnone hfree hbad hcorr hout hmeets => hrow.badSource hturn hnone hfree hbad hcorr hout hmeets⟩
  obtain ⟨t, hexec, hbytes, hbut, hpassed, -, hctxs⟩ := hrow.clear hturn hclear hnodup
  simp only [Blocks.length_mapBytes] at hbytes hbut
  exact ⟨t, hexec, fun q hq i hi => Blocks.locNat_of_wordBytes (hbytes q hq) hi, hbut, hpassed, hctxs⟩

end

section
/-! Reductions, conversion and selection (R95, R96, R113). -/

namespace Sys2Proof.Machine

/-! Reductions. -/

/-- A reduction takes the elements below COUNT. -/
theorem laneReduce_congr {count start : Nat} {f f' g : Nat → Nat → Nat} (h : ∀ i, i < count → ∀ a, f' a i = f a i) :
    laneReduce count start f' g = laneReduce count start f g := by
  have hlane : ∀ l, l < 64 → ((List.range ((count + 63 - l) / 64)).map (fun k => l + 64 * k)).foldl f' start =
      ((List.range ((count + 63 - l) / 64)).map (fun k => l + 64 * k)).foldl f start := fun l hl =>
    List.foldl_ext _ _ _ fun a i hi => by
      obtain ⟨k, hk, rfl⟩ := List.mem_map.mp hi
      have hk' := List.mem_range.mp hk
      exact h _ (by omega) a
  unfold laneReduce
  exact congrArg (treeOf g start) (List.map_congr_left fun l hl => hlane l (List.mem_range.mp hl))

section
variable {v : VecInsn} {two : Bool} {b b' : Blocks} {q : Nat}

/-- The word of a reduction lies in local memory. -/
theorem reduce_fits (hnone : v.fault (reduceRule two v) = none) (w : Nat) : (toLe 4 w).length = 0 ∨ v.dst + (toLe 4 w).length ≤ 2 ^ 22 := by
  have hfits := v.span_fits hnone (x := Span.w v.dst 4 4) (by simp [reduceRule, slotRule])
  simp only [Span.w] at hfits
  rw [length_toLe]
  omega

variable (hnone : v.fault (reduceRule two v) = none) (h : Blocks.SameLocal q b b') {i : Nat} (hi : i < v.count)
include hnone h hi

theorem reduce_src1 : b'.locNat q (v.src1 + 4 * i) 4 = b.locNat q (v.src1 + 4 * i) 4 :=
  locNat_of_span hnone h (x := Span.r v.src1 (4 * v.count) 4) (by simp [reduceRule, slotRule]) (by simp only [Span.r]; omega)

theorem reduce_src2 (htwo : two = true) : b'.locNat q (v.src2 + 4 * i) 4 = b.locNat q (v.src2 + 4 * i) 4 :=
  locNat_of_span hnone h (x := Span.r v.src2 (4 * v.count) 4) (by simp [reduceRule, slotRule, htwo]) (by simp only [Span.r]; omega)

end

/-- VRSUM and VRMAX. -/
theorem resultRow_reduce {c : Instr} {p op : Nat} {ecc : Ecc} {start : Nat} {f : Nat → Nat → Nat}
    (hexec : ∀ s : State, exec c s = .next (s.onDev (s.dev.live (fun d => d.vecReduce p op ecc start f))))
    (hrule : ∀ (b : Blocks) (q : Nat) (v : VecInsn), v.op = op → b.vecRule q v = reduceRule false v) :
    ResultRow c p op ecc (reduceRule false) (fun b c v => toLe 4 (laneReduce v.count start (fun a i => f a (b.locNat c (v.src1 + 4 * i) 4)) f)) where
  exec := hexec
  ruleOf := hrule
  fit _ _ _ hnone := reduce_fits hnone _
  same _ _ _ _ hnone h := congrArg (toLe 4) (laneReduce_congr fun _ hi a => congrArg (f a) (reduce_src1 hnone h hi))

/-- VDOT. -/
theorem resultRow_vdot (p : Nat) (ecc : Ecc) : ResultRow (.vdot p ecc) p 0x8F ecc (reduceRule true) (fun b c v =>
    let x (a : Nat) : Nat := if v.sfmt = 0xB then fp32r (b.locNat c a 4) else b.locNat c a 4
    toLe 4 (laneReduce v.count 0 (fun a i => ffma (x (v.src1 + 4 * i)) (x (v.src2 + 4 * i)) a) fadd)) where
  exec _ := rfl
  ruleOf b q v hop := by simp only [Blocks.vecRule, hop]
  fit _ _ _ hnone := reduce_fits hnone _
  same _ _ _ v hnone h := congrArg (toLe 4) (laneReduce_congr fun i hi a => by
    simp only [reduce_src1 hnone h hi, reduce_src2 hnone h hi rfl])

/-! Conversion: the bytes of a packed row. -/

theorem flatten_chunks {α : Type} (n fuel : Nat) (xs : List α) (hfuel : xs.length ≤ n * fuel) : (chunks n fuel xs).flatten = xs := by
  induction fuel generalizing xs with
  | zero => exact (List.length_eq_zero_iff.mp (Nat.le_zero.mp hfuel)).symm
  | succ fuel ih =>
    unfold chunks
    split
    · next hempty => exact (List.isEmpty_iff.mp hempty).symm
    · have hrest : (xs.drop n).length ≤ n * fuel := by
        rw [List.length_drop]
        rw [Nat.mul_succ] at hfuel
        omega
      rw [List.flatten_cons, ih _ hrest, List.take_append_drop]

theorem length_chunks {α : Type} (n fuel : Nat) (xs : List α) (hn : 0 < n) (hfuel : xs.length ≤ n * fuel) :
    (chunks n fuel xs).length = (xs.length + n - 1) / n := by
  induction fuel generalizing xs with
  | zero =>
    rw [Nat.le_zero.mp hfuel, Nat.zero_add, Nat.div_eq_of_lt (Nat.sub_lt hn Nat.one_pos)]
    rfl
  | succ fuel ih =>
    unfold chunks
    split
    · next hempty =>
      rw [List.isEmpty_iff.mp hempty, List.length_nil, List.length_nil, Nat.zero_add, Nat.div_eq_of_lt (Nat.sub_lt hn Nat.one_pos)]
    · next hsome =>
      have hpos : 0 < xs.length := List.length_pos_iff.mpr fun hnil => hsome (by rw [hnil]; rfl)
      have hrest : (xs.drop n).length ≤ n * fuel := by
        rw [List.length_drop]
        rw [Nat.mul_succ] at hfuel
        omega
      rw [List.length_cons, ih _ hrest, List.length_drop]
      rcases Nat.lt_or_ge xs.length n with hlt | hge
      · rw [Nat.sub_eq_zero_of_le hlt.le, Nat.zero_add, Nat.div_eq_of_lt (Nat.sub_lt hn Nat.one_pos),
          show xs.length + n - 1 = xs.length - 1 + n by omega, Nat.add_div_right _ hn, Nat.div_eq_of_lt (by omega)]
      · rw [show xs.length + n - 1 = xs.length - n + n - 1 + n by omega, Nat.add_div_right _ hn]

theorem length_mxGroup (fmt : Nat) (vs : List Num) : (mxGroup fmt vs).1.length = vs.length := by
  unfold mxGroup
  split
  · exact List.length_map _
  · exact List.length_map _

/-- A row of numbers takes the bytes of its format's layout (R96). -/
theorem length_packRow (fmt : Nat) (vs : List Num) : (packRow fmt vs).length = rowBytes fmt vs.length := by
  unfold packRow rowBytes
  split
  · next hmx =>
    have hfuel : vs.length ≤ 32 * (vs.length / 32 + 1) := by omega
    have hgroup : (fun g : List Nat × Nat => g.1.length) ∘ mxGroup fmt = List.length := funext (length_mxGroup fmt)
    have hcodes : (((chunks 32 (vs.length / 32 + 1) vs).map (mxGroup fmt)).flatMap (·.1)).length = vs.length := by
      rw [List.length_flatMap, List.map_map, hgroup, ← List.length_flatten, flatten_chunks _ _ _ hfuel]
    simp only [List.length_append, length_packCodes, hcodes, List.length_map, length_chunks 32 _ vs (by decide) hfuel]
    rfl
  · rw [length_packCodes, List.length_map]
    rfl

/-- VCVT. -/
theorem resultRow_vcvt (p : Nat) (ecc : Ecc) : ResultRow (.vcvt p ecc) p 0x90 ecc cvtRule (fun b c v =>
    packRow v.dfmt (unpackRow v.sfmt v.count (b.locRead c v.src1 (vecBytes v.sfmt v.count)))) where
  exec _ := rfl
  ruleOf b q v hop := by simp only [Blocks.vecRule, hop]
  fit b q v hnone := by
    have hfits := v.span_fits hnone (x := Span.w v.dst (vecBytes v.dfmt v.count) (fmtAlign v.dfmt)) (by simp [cvtRule, slotRule])
    simp only [Span.w] at hfits
    rw [length_packRow, unpackRow, List.length_map, List.length_range, ← vecBytes]
    omega
  same b b' q v hnone h := by
    have hfits := v.span_fits hnone (x := Span.r v.src1 (vecBytes v.sfmt v.count) (fmtAlign v.sfmt)) (by simp [cvtRule, slotRule])
    simp only [Span.r] at hfits
    rw [h.locRead (by omega)]

/-! Selection. -/

theorem length_streamOf (klen : Nat) (gran : Bool) (vs : List Nat) : (streamOf klen gran vs).length = streamLen vs.length := by
  have hentries : (vs.flatMap (toLe 2)).length = 2 * vs.length := length_flatMap_of_forall fun _ _ => length_toLe 2 _
  simp only [streamOf, streamLen, List.length_append, length_toLe, hentries]
  omega

/-- VSEL. -/
theorem resultRow_vsel (p : Nat) (ecc : Ecc) : ResultRow (.vsel p ecc) p 0x91 ecc selRule (fun b c v =>
    streamOf v.count true ((List.range (v.count / 32)).filter (fun k =>
      (List.range 16).any (fun r => (b.words c (v.src1 + 4 * (r * v.count + 32 * k)) 32).any (selects v.imm))))) where
  exec _ := rfl
  ruleOf b q v hop := by simp only [Blocks.vecRule, hop]
  fit b q v hnone := by
    have hfits := v.span_fits hnone (x := Span.w v.dst (streamLen (v.count / 32)) 2) (by simp [selRule, slotRule])
    simp only [Span.w, streamLen] at hfits
    have hle := (List.length_filter_le (fun k => (List.range 16).any (fun r =>
      (b.words q (v.src1 + 4 * (r * v.count + 32 * k)) 32).any (selects v.imm))) (List.range (v.count / 32))).trans_eq List.length_range
    rw [length_streamOf, streamLen]
    omega
  same b b' q v hnone h := by
    have hfits := v.span_fits hnone (x := Span.r v.src1 (64 * v.count) 4) (by simp [selRule, slotRule])
    simp only [Span.r] at hfits
    have hwords : ∀ k ∈ List.range (v.count / 32), ∀ r ∈ List.range 16,
        b'.words q (v.src1 + 4 * (r * v.count + 32 * k)) 32 = b.words q (v.src1 + 4 * (r * v.count + 32 * k)) 32 := fun k hk r hr =>
      List.map_congr_left fun i hi => h.locNat (by
        have hk' := List.mem_range.mp hk
        have hr' := List.mem_range.mp hr
        have hi' := List.mem_range.mp hi
        have hrows : r * v.count ≤ 15 * v.count := Nat.mul_le_mul_right _ (by omega)
        omega)
    exact congrArg (streamOf v.count true) (List.filter_congr fun k hk => by
      rw [Bool.eq_iff_iff, List.any_eq_true, List.any_eq_true]
      exact exists_congr fun r => and_congr_right fun hr => by rw [hwords k hk r hr])

/-- Every row of `Safety.resultRow`. -/
theorem resultRow_of_some {c : Instr} {p op : Nat} {ecc : Ecc} {rule : VecInsn → VecRule} {f : Blocks → Nat → VecInsn → List Byte}
    (h : Safety.resultRow c = some (p, op, ecc, rule, f)) : ResultRow c p op ecc rule f := by
  cases c
  case vrsum | vrmax =>
    obtain ⟨rfl, rfl, rfl, rfl, rfl⟩ : _ ∧ _ ∧ _ ∧ _ ∧ _ := by simpa only [Safety.resultRow, Option.some.injEq, Prod.mk.injEq] using h
    exact resultRow_reduce (fun _ => rfl) fun b q v hop => by simp only [Blocks.vecRule, hop]
  case vdot =>
    obtain ⟨rfl, rfl, rfl, rfl, rfl⟩ : _ ∧ _ ∧ _ ∧ _ ∧ _ := by simpa only [Safety.resultRow, Option.some.injEq, Prod.mk.injEq] using h
    exact resultRow_vdot _ _
  case vcvt =>
    obtain ⟨rfl, rfl, rfl, rfl, rfl⟩ : _ ∧ _ ∧ _ ∧ _ ∧ _ := by simpa only [Safety.resultRow, Option.some.injEq, Prod.mk.injEq] using h
    exact resultRow_vcvt _ _
  case vsel =>
    obtain ⟨rfl, rfl, rfl, rfl, rfl⟩ : _ ∧ _ ∧ _ ∧ _ ∧ _ := by simpa only [Safety.resultRow, Option.some.injEq, Prod.mk.injEq] using h
    exact resultRow_vsel _ _
  all_goals exact absurd h nofun

end Sys2Proof.Machine
end

section
/-! VKEEP (R113): every core of the stream takes the mask that its own index stream names. -/

namespace Sys2Proof.Machine

/-! The mask. -/

/-- Each coordinate sets the bit of its tile. -/
theorem getLsbD_keepMask {count addr : Nat} {vs : List Nat} {i : Nat} {m m' : BitVec 256} (h : keepMask count addr vs i m = .inr m') {t : Nat}
    (ht : t < 256) : m'.getLsbD t = true ↔ m.getLsbD t = true ∨ ∃ v ∈ vs, 32 * v / count = t := by
  induction vs generalizing i m with
  | nil =>
    obtain rfl : m = m' := Sum.inr.inj h
    simp
  | cons v vs ih =>
    simp only [keepMask] at h
    split at h
    · exact absurd h nofun
    · next hlt =>
      have hbit : (m ||| 1 <<< (32 * v / count)).getLsbD t = true ↔ m.getLsbD t = true ∨ 32 * v / count = t := by
        simp only [BitVec.getLsbD_or, BitVec.natCast_eq_ofNat, BitVec.getLsbD_ofNat, Nat.one_shiftLeft, Nat.testBit_two_pow, ht, decide_true,
          Bool.true_and, Bool.or_eq_true, decide_eq_true_eq]
      rw [ih h, hbit, or_assoc, List.exists_mem_cons_iff]

/-! The cores. -/

/-- A stream is read from local memory. -/
theorem Blocks.stream_of_loc {b b' : Blocks} (h : b'.loc = b.loc) (q addr klen : Nat) (gran : Bool) (stop : Option Nat) :
    b'.stream q addr klen gran stop = b.stream q addr klen gran stop := by
  unfold Blocks.stream Blocks.locNat Blocks.locRead
  rw [h]

/-- Work on the cores of a stream, each core's known as long as local memory is what it was. -/
theorem eachCore_congr {g : Prog} {p : Nat} {f f' : Dev → Nat → Dev} {d : Dev}
    (h : ∀ e c, c ∈ g.gang → e.loc = d.loc → f e c = f' e c ∧ (f' e c).loc = d.loc) : Safety.eachCore g p f d = Safety.eachCore g p f' d := by
  have hfold : ∀ cs : List Nat, (∀ c ∈ cs, c ∈ g.gang) → ∀ e : Dev, e.loc = d.loc →
      cs.foldl (fun d c => if (d.prog? p).isNone then d else f d c) e = cs.foldl (fun d c => if (d.prog? p).isNone then d else f' d c) e := by
    intro cs
    induction cs with
    | nil => exact fun _ _ _ => rfl
    | cons c cs ih =>
      intro hcs e he
      obtain ⟨heq, hloc⟩ := h e c (hcs c List.mem_cons_self) he
      rw [List.foldl_cons, List.foldl_cons, heq]
      refine ih (fun c hc => hcs c (List.mem_cons_of_mem _ hc)) _ ?_
      split
      · exact he
      · exact hloc
  exact hfold g.gang (fun _ => id) d rfl

/-- A core takes a mask. -/
def Dev.setKeep (d : Dev) (c : Nat) (m : BitVec 256) : Dev := d.modCore c (fun x => { x with keep := m })

section
variable (m : Nat → BitVec 256) (cs : List Nat) (d : Dev)

theorem Dev.keep_setKeep (c q : Nat) (k : BitVec 256) : ((d.setKeep c k).core q).keep = if q = c then k else (d.core q).keep := by
  unfold Dev.setKeep
  by_cases hq : q = c
  · rw [hq, Dev.core_modCore_same, if_pos rfl]
  · rw [Dev.core_modCore_other _ _ _ _ hq, if_neg hq]

theorem Dev.setKeeps_blocks : (cs.foldl (fun d c => d.setKeep c (m c)) d).loc = d.loc ∧ (cs.foldl (fun d c => d.setKeep c (m c)) d).ctxs = d.ctxs :=
  foldl_keeps (fun e : Dev => e.loc = d.loc ∧ e.ctxs = d.ctxs) (f := fun d c => d.setKeep c (m c)) (fun _ _ h => h) cs
    ⟨rfl, rfl⟩

theorem Dev.keep_setKeeps (q : Nat) :
    ((cs.foldl (fun d c => d.setKeep c (m c)) d).core q).keep = if q ∈ cs then m q else (d.core q).keep := by
  induction cs generalizing d with
  | nil => rfl
  | cons c cs ih =>
    rw [List.foldl_cons, ih, Dev.keep_setKeep]
    by_cases hq : q = c
    · simp [hq]
    · simp [hq]

end

/-- VKEEP's work on a core. -/
def Dev.keepWork (d : Dev) (c : Nat) (g : Prog) (v : VecInsn) : Dev :=
  match d.stream c v.src1 (d.locNat c (v.src1 + 2) 2) true none with
  | .inl (code, loc) => d.localFault c g g.pc code .v loc
  | .inr vs =>
    match keepMask v.count v.src1 vs 0 0 with
    | .inl loc => d.localFault c g g.pc 0x2B .v loc
    | .inr m => d.setKeep c m

theorem exec_vkeep (s : State) (p : Nat) (ecc : Ecc) :
    exec (.vkeep p ecc) s = .next (s.onDev (s.dev.live (fun d => d.vecRow p 0x92 ecc (fun d c g v => d.keepWork c g v)))) := rfl

/-- A well-formed stream's work. -/
theorem Dev.keepWork_of_stream {d d' : Dev} {c : Nat} {g : Prog} {v : VecInsn} {vs : List Nat} {m : BitVec 256} (hloc : d'.loc = d.loc)
    (hstream : d.stream c v.src1 (d.locNat c (v.src1 + 2) 2) true none = .inr vs) (hmask : keepMask v.count v.src1 vs 0 0 = .inr m) :
    d'.keepWork c g v = d'.setKeep c m := by
  have hhere : d'.stream c v.src1 (d'.locNat c (v.src1 + 2) 2) true none = .inr vs := by
    rw [Blocks.stream_of_loc hloc, Blocks.locNat, Blocks.locRead, hloc]
    exact hstream
  simp only [Dev.keepWork, hhere, hmask]

theorem vkeep_clear {s : State} {p x : Nat} {ecc : Ecc} {g : Prog} {bs : List Byte} {m : Nat → BitVec 256} (hturn : Safety.Turn s p 0x92 g x bs)
    (hclear : Safety.Clear s p x bs (keepRule s.dev.toBlocks p (vecOf bs)) ecc)
    (hstreams : ∀ q ∈ g.gang, ∃ vs, s.dev.stream q (vecOf bs).src1 (s.dev.locNat q ((vecOf bs).src1 + 2) 2) true none = .inr vs ∧
      keepMask (vecOf bs).count (vecOf bs).src1 vs 0 0 = .inr (m q)) :
    let e := g.gang.foldl (fun d c => d.setKeep c (m c)) (s.dev.counted p g ecc)
    exec (.vkeep p ecc) s = .next (s.onDev (e.passed p (g.at_ x) g.gang)) ∧ Safety.Passed s (s.onDev (e.passed p (g.at_ x) g.gang)) p g x := by
  have hrule : s.dev.vecRule p (vecOf bs) = keepRule s.dev.toBlocks p (vecOf bs) := by
    have hop : (vecOf bs).op = 0x92 := hturn.2.2.2.1
    simp only [Blocks.vecRule, hop]
  obtain ⟨hlive, hpassed⟩ := vecRow_clear hturn hrule hclear (fun d c _ _ => d.setKeep c (m c)) (fun d c => d.workFrame_keep c (m c))
  have hnofetch : ∀ w, ecc.badLocal = some w → ecc.place ≠ 0 ∨ w < x ∨ x + 32 ≤ w := by simp [hclear.2.2]
  have heach : Safety.eachCore g p (fun d c => d.keepWork c (g.at_ x) (vecOf bs)) (s.dev.counted p g ecc) =
      Safety.eachCore g p (fun d c => d.setKeep c (m c)) (s.dev.counted p g ecc) := eachCore_congr fun e c hc he => by
    obtain ⟨vs, hstream, hmask⟩ := hstreams c hc
    exact ⟨Dev.keepWork_of_stream (he.trans (s.dev.counted_blocks p g ecc).1) hstream hmask, he⟩
  refine ⟨?_, hpassed⟩
  rw [← hlive, exec_vkeep, live_vecRow _ hturn hnofetch, live_vecRow _ hturn hnofetch, Dev.vecWork_clear _ hrule hclear.1 hclear.2.1 hclear.2.2,
    Dev.vecWork_clear _ hrule hclear.1 hclear.2.1 hclear.2.2]
  dsimp only
  rw [← Dev.counted, heach]

end Sys2Proof.Machine
end

section
open Sys2Proof Sys2Proof.Machine

/-- Settles O30: every row goes the common path of `ResultRow`, its result computed from the core's own memory before the write (R95, R96, log entry
32); VKEEP's masks come from the streams that the cores hold, and the mask's bits are those of the coordinates (R113). -/
theorem vectorResults : Obligations.VectorResults := by
  refine ⟨fun s c p op x ecc rule f g bs hsome hturn => ?_, fun s p x ecc g bs m hturn hclear hstreams => ?_, fun count addr vs m hcount hmask t ht => ?_⟩
  · have hrow := resultRow_of_some hsome
    exact ⟨fun hclear hnodup => hrow.clear hturn hclear hnodup, fun code loc hbad hcode => hrow.fault hturn hbad hcode⟩
  · obtain ⟨hexec, hpassed⟩ := vkeep_clear hturn hclear hstreams
    obtain ⟨hloc, hctxs, hcores⟩ := s.dev.counted_blocks p g ecc
    obtain ⟨hloc', hctxs'⟩ := Dev.setKeeps_blocks m g.gang (s.dev.counted p g ecc)
    obtain ⟨hloc'', hctxs'', hkeep⟩ := (g.gang.foldl (fun d c => d.setKeep c (m c)) (s.dev.counted p g ecc)).passed_blocks p g x
    have hmasks : ∀ q, (((g.gang.foldl (fun d c => d.setKeep c (m c)) (s.dev.counted p g ecc)).passed p (g.at_ x) g.gang).core q).keep =
        if q ∈ g.gang then m q else (s.dev.core q).keep := fun q => by
      rw [hkeep, Dev.keep_setKeeps, Blocks.core, hcores, Blocks.core]
    exact ⟨_, hexec, fun q hq => (hmasks q).trans (if_pos hq), fun q hq => (hmasks q).trans (if_neg hq), (hloc''.trans hloc').trans hloc,
      (hctxs''.trans hctxs').trans hctxs, hpassed⟩
  · rw [getLsbD_keepMask hmask ht]
    simp

end

section
/-! Array instructions at issue (R72, R81, R103, R107, R328). -/

namespace Sys2Proof.Machine

/-! Counters. -/

/-- Corrected words of HBM count at their stack. -/
theorem Dev.rd_countCorr_hbm (d : Dev) (p a : Nat) (ecc : Ecc) {off : Nat} (h : off ≠ Reg.coreCntEccCorr p) (hhbm : ∀ n, off ≠ Reg.hbmCntCorr n) :
    (d.countCorr p a ecc).rd off = d.rd off := by
  have hlocal : (if ecc.corrLocal = 0 then d else d.bump (Reg.coreCntEccCorr p) ecc.corrLocal).rd off = d.rd off := by
    split
    · rfl
    · exact d.rd_bump_other _ h
  refine Eq.trans ?_ hlocal
  unfold Dev.countCorr Dev.countEcc
  dsimp only
  split
  · rfl
  · exact Dev.rd_bump_other _ _ (hhbm _)

theorem Dev.countCorr_loc (d : Dev) (p a : Nat) (ecc : Ecc) : (d.countCorr p a ecc).loc = d.loc := by
  obtain ⟨_, h⟩ := d.regFrame_countCorr p a ecc
  rw [h]

/-! Device e is device d but for registers, cores and, in the end, the carats. -/

/-- An instruction that enters the scoreboard or retires empty. -/
def Dev.IssueFrame (d e : Dev) : Prop := ∃ regs cores pwr, e = { d with regs := regs, cores := cores, pwr := pwr }

theorem Dev.IssueFrame.trans {d e f : Dev} (h : d.IssueFrame e) (k : e.IssueFrame f) : d.IssueFrame f := by
  obtain ⟨_, _, _, rfl⟩ := h
  obtain ⟨_, _, _, rfl⟩ := k
  exact ⟨_, _, _, rfl⟩

theorem Dev.OwedFrame.issueFrame {d e : Dev} (h : d.OwedFrame e) : d.IssueFrame e := by
  obtain ⟨_, _, rfl⟩ := h.eq
  exact ⟨_, _, _, rfl⟩

theorem Dev.issueFrame_modProg (d : Dev) (p : Nat) (f : Prog → Prog) : d.IssueFrame (d.modProg p f) := ⟨_, _, _, rfl⟩

theorem Dev.IssueFrame.blocks {s : State} {e : Dev} (h : s.dev.IssueFrame e) :
    Safety.SameMemory s (s.onDev e) ∧ Safety.SameOthers s (s.onDev e) ∧ e.ctxs = s.dev.ctxs := by
  obtain ⟨_, _, _, rfl⟩ := h
  exact ⟨fun _ => ⟨rfl, rfl, rfl, rfl⟩, ⟨rfl, rfl, rfl, rfl, rfl, rfl, rfl, rfl, rfl, rfl, rfl, rfl⟩, rfl⟩

/-! Issue in slot M. -/

section
variable (d : Dev) (p x : Nat) (g : Prog)

/-- Slot M of core p's program moves past x. -/
def Dev.pastInM : Dev := d.modProg p (fun h => { h with pcM := x + 32 })

theorem Dev.prog_pastInM {d : Dev} {p : Nat} {g : Prog} (hprog : d.prog? p = some g) (x : Nat) :
    (d.pastInM p x).prog? p = some (Safety.pastM g x) := by
  rw [Dev.pastInM, Dev.prog_modProg_same, hprog]
  rfl

/-- An instruction that retires empty: its slot passes and is wasted (R82, R114, R337). -/
theorem Dev.emptyRetire_leaves {s : State} {p : Nat} {g : Prog} (hprog : s.dev.prog? p = some g) (x : Nat) :
    let t := s.onDev (s.dev.emptyRetire p (g.at_ x))
    t.dev.prog? p = some (Safety.pastM g x) ∧ Safety.SameMemory s t ∧ Safety.SameRegsButCounters [p] s t ∧ Safety.SameOthers s t ∧
    t.dev.ctxs = s.dev.ctxs ∧ t.dev.pwr = s.dev.pwr ∧ t.dev.rd (Reg.coreCntTdRetired p) = s.dev.rd (Reg.coreCntTdRetired p) ∧
    t.dev.rd (Reg.coreCntTdWasted p) = (s.dev.rd (Reg.coreCntTdWasted p) + 1) % 2 ^ 64 := by
  have hslots := (s.dev.pastInM p x).owedFrame_useSlots [p] 2 g.ctx
  have hcounts : (s.dev.pastInM p x).OwedFrame (s.dev.emptyRetire p (g.at_ x)) :=
    hslots.trans ((Dev.regFrame_wr _ _ _).trans (Dev.regFrame_countEvent _ _ _ _ _)).owedFrame
  obtain ⟨hmem, hothers, hctxs⟩ := ((s.dev.issueFrame_modProg p _).trans hcounts.issueFrame).blocks
  have hrd : ∀ off, (∀ i, i < 8 → off ≠ Reg.corePmc p i) → off ≠ Reg.coreCntTdWasted p →
      (s.dev.emptyRetire p (g.at_ x)).rd off = s.dev.rd off := fun off hpmc hwasted =>
    ((Dev.rd_countEvent _ _ _ _ _ hpmc).trans (Dev.rd_bump_other _ _ hwasted)).trans (Dev.rd_useSlots _ _ _ _ (by simpa using hpmc))
  refine ⟨(hcounts.prog p).trans (Dev.prog_pastInM hprog x), hmem, fun off hoff => ?_, hothers, hctxs, hcounts.blocks.2.2, ?_, ?_⟩
  · obtain ⟨-, hwasted, -, hpmc⟩ := not_isCoreCounter hoff List.mem_cons_self
    exact hrd off hpmc hwasted
  · exact hrd _ (fun i hi => coreCntTdRetired_ne_corePmc p p hi) (by simp only [Reg.coreCntTdRetired, Reg.coreCntTdWasted]; omega)
  · have hpmc : ∀ i, i < 8 → Reg.coreCntTdWasted p ≠ Reg.corePmc p i := by
      simp only [Reg.coreCntTdWasted, Reg.corePmc]
      omega
    have hbefore : ((s.dev.pastInM p x).useSlots [p] 2 g.ctx).rd (Reg.coreCntTdWasted p) = s.dev.rd (Reg.coreCntTdWasted p) :=
      Dev.rd_useSlots _ _ _ _ (by simpa using hpmc)
    show ((((s.dev.pastInM p x).useSlots [p] 2 g.ctx).bump _ 1).countEvent p 7 g.ctx 1).rd _ = _
    rw [Dev.rd_countEvent _ _ _ _ _ hpmc, Dev.rd_bump_same, hbefore]

end

/-- A requester holds what it needs afterwards, or a request for what it lacks waits (R328). -/
theorem Dev.askCarats_asks (d : Dev) (req need : Nat) (ctx : Option Nat) : (d.askCarats req need ctx).holds req = d.holds req ∧
    (need ≤ d.holds req ∨ ∃ r ∈ (d.askCarats req need ctx).pwr.waiting, r.req = req ∧ need ≤ d.holds req + r.carats) := by
  unfold Dev.askCarats
  dsimp only
  split
  · next hlack => exact ⟨rfl, Or.inl (Nat.sub_eq_zero_iff_le.mp hlack)⟩
  · split
    · next hwaits =>
      obtain ⟨r, hr, hreq⟩ := List.any_eq_true.mp hwaits
      refine ⟨rfl, Or.inr ⟨_, List.mem_map_of_mem hr, ?_⟩⟩
      simp only [hreq, if_true]
      exact ⟨of_decide_eq_true hreq, by omega⟩
    · exact ⟨rfl, Or.inr ⟨_, List.mem_append_right _ (List.mem_singleton_self _), rfl, by simp only; omega⟩⟩

/-! The work of the rows. -/

/-- What an array instruction's entry says. -/
def arrEntry (d : Dev) (p x : Nat) (g : Prog) (bs : List Byte) : Issued :=
  { slot := .m, pc := x, order := (g.at_ x).order, insn := bs, reads := (d.rangesOf p bs).reads, writes := (d.rangesOf p bs).writes,
    pend := .array ((arrOf bs).op = 0x41) }

/-- An array instruction enters the scoreboard, its path counted. -/
def Dev.arrEnter (d : Dev) (p x : Nat) (ecc : Ecc) (g : Prog) (bs : List Byte) : Dev :=
  let e := (d.countCorr (d.arrErrCore (arrOf bs) p ecc).1 0 ecc).enter p (g.at_ x) .m [p] (arrEntry d p x g bs)
  if (arrOf bs).op = 0x41 then e.countEvent p (if e.sparsePath (arrOf bs) p then 8 else 9) g.ctx 1 else e

section
variable {d : Dev} {p x : Nat} {ecc : Ecc} {g : Prog} {bs : List Byte}

theorem Dev.arrIssue_fault {code loc : Nat} (h : d.arrFault (arrOf bs) p g = some (code, loc)) :
    d.arrIssue p ecc (g.at_ x) bs = d.insnFault p (g.at_ x) x code .m loc := by
  have hfault : d.arrFault (arrOf bs) p (g.at_ x) = some (code, loc) := h
  unfold Dev.arrIssue
  simp only [hfault]
  rfl

variable (hfault : d.arrFault (arrOf bs) p g = none)
include hfault

theorem Dev.arrIssue_empty (h : d.rowCount (arrOf bs) p = 0 ∨ ((arrOf bs).keep = true ∧ (d.core p).keep.getLsbD (arrOf bs).keepBit = false)) :
    d.arrIssue p ecc (g.at_ x) bs = d.emptyRetire p (g.at_ x) := by
  have hfault' : d.arrFault (arrOf bs) p (g.at_ x) = none := hfault
  have hempty : (decide (d.rowCount (arrOf bs) p = 0) || ((arrOf bs).keep && !(d.core p).keep.getLsbD (arrOf bs).keepBit)) = true := by
    simpa using h
  unfold Dev.arrIssue
  simp only [hfault', hempty, if_true]

variable (hsome : ¬ (d.rowCount (arrOf bs) p = 0 ∨ ((arrOf bs).keep = true ∧ (d.core p).keep.getLsbD (arrOf bs).keepBit = false)))
include hsome

theorem Dev.arrIssue_hazard (h : d.hazard p .m x (d.rangesOf p bs) = true) : d.arrIssue p ecc (g.at_ x) bs = d := by
  have hfault' : d.arrFault (arrOf bs) p (g.at_ x) = none := hfault
  have hfull : (decide (d.rowCount (arrOf bs) p = 0) || ((arrOf bs).keep && !(d.core p).keep.getLsbD (arrOf bs).keepBit)) = false := by
    simpa using hsome
  have hpc : (g.at_ x).pc = x := rfl
  unfold Dev.arrIssue
  simp only [hfault', hfull, Bool.false_eq_true, if_false, hpc, h, if_true]

variable (hfree : d.hazard p .m x (d.rangesOf p bs) = false) (hbad : ecc.badLocal = none)
include hfree hbad

/-- An instruction with work whose streams are judged. -/
theorem Dev.arrIssue_fed : d.arrIssue p ecc (g.at_ x) bs =
    match d.fedSet (arrOf bs) p with
    | .inl (code, loc) => (d.countCorr (d.arrErrCore (arrOf bs) p ecc).1 0 ecc).localFault p (g.at_ x) x code .m loc
    | .inr _ => (d.arrEnter p x ecc g bs).askCarats p (arrOf bs).carats (some g.ctx) := by
  have hfault' : d.arrFault (arrOf bs) p (g.at_ x) = none := hfault
  have hfull : (decide (d.rowCount (arrOf bs) p = 0) || ((arrOf bs).keep && !(d.core p).keep.getLsbD (arrOf bs).keepBit)) = false := by
    simpa using hsome
  have hpc : (g.at_ x).pc = x := rfl
  unfold Dev.arrIssue
  simp only [hfault', hfull, Bool.false_eq_true, if_false, hpc, hfree, hbad, Option.filter_none]
  rfl

end

/-- An instruction that has entered the scoreboard. -/
theorem Dev.arrEnter_leaves {s : State} {p : Nat} {g : Prog} (hprog : s.dev.prog? p = some g) (x : Nat) (ecc : Ecc) (bs : List Byte) :
    s.dev.IssueFrame (s.dev.arrEnter p x ecc g bs) ∧ (s.dev.arrEnter p x ecc g bs).pwr = s.dev.pwr ∧
    (s.dev.arrEnter p x ecc g bs).prog? p = some { Safety.pastM g x with score := g.score ++ [arrEntry s.dev p x g bs] } := by
  have hcorr := (s.dev.regFrame_countCorr (s.dev.arrErrCore (arrOf bs) p ecc).1 0 ecc).owedFrame
  have hslots := ((s.dev.countCorr (s.dev.arrErrCore (arrOf bs) p ecc).1 0 ecc).pastInM p x).owedFrame_useSlots [p] 2 g.ctx
  have hpath : ((((s.dev.countCorr (s.dev.arrErrCore (arrOf bs) p ecc).1 0 ecc).pastInM p x).useSlots [p] 2 g.ctx).modProg p
      (fun h => { h with score := h.score ++ [arrEntry s.dev p x g bs] })).OwedFrame (s.dev.arrEnter p x ecc g bs) := by
    unfold Dev.arrEnter
    dsimp only
    split
    · exact (Dev.regFrame_countEvent _ _ _ _ _).owedFrame
    · exact (Dev.RegFrame.refl _).owedFrame
  refine ⟨((hcorr.issueFrame.trans (Dev.issueFrame_modProg _ _ _)).trans hslots.issueFrame).trans ((Dev.issueFrame_modProg _ _ _).trans hpath.issueFrame),
    hpath.blocks.2.2.trans (hslots.blocks.2.2.trans hcorr.blocks.2.2), ?_⟩
  rw [hpath.prog, Dev.prog_modProg_same, hslots.prog, Dev.prog_pastInM ((hcorr.prog p).trans hprog)]
  rfl

end Sys2Proof.Machine
end

section
/-! The drain of an array instruction (R74, R89, R97, R100). -/

namespace Sys2Proof.Machine

/-! The ranges of an instruction that passed its checks. -/

section
variable {a : ArrInsn}

/-- Operands in the scratchpad, tiles in accumulator memory (R81). -/
theorem ArrInsn.ranges_of_badLocal (h : a.badLocal = none) :
    inPad (a.aAddr, strided (a.checkRows 0) a.aStride (rowBytes a.afmt a.k)) = true ∧
    inPad (a.bAddr, strided a.cols a.bStride (rowBytes a.bfmt a.k)) = true ∧ (a.init = 1 → inPad (a.initAddr, 4 * a.cols) = true) ∧
    (a.init = 2 → inAcc (a.initAddr, 4 * a.cols * a.checkRows 0) = true) ∧ inAcc (a.outAddr, 4 * a.cols * a.checkRows 0) = true := by
  unfold ArrInsn.badLocal at h
  dsimp only at h
  split at h
  · exact absurd h nofun
  next hA =>
  split at h
  · exact absurd h nofun
  next hB =>
  split at h
  · exact absurd h nofun
  next hinit1 =>
  split at h
  · exact absurd h nofun
  next hinit2 =>
  split at h
  · exact absurd h nofun
  next hout =>
  simp only [Bool.or_eq_true, Bool.and_eq_true, decide_eq_true_eq, Bool.not_eq_true', not_or, not_and, Bool.not_eq_false] at hA hB hinit1 hinit2 hout
  exact ⟨hA.2, hB.2, fun hinit => (hinit1 hinit).2, fun hinit => (hinit2 hinit).2, hout.2⟩

theorem strided_row {n i stride row : Nat} (h : i < n) : i * stride + row ≤ strided n stride row := by
  rw [strided, if_neg (by omega)]
  exact Nat.add_le_add_right (Nat.mul_le_mul_right _ (by omega)) _

theorem inPad_iff {r : Nat × Nat} : inPad r = true ↔ r.2 = 0 ∨ r.1 + r.2 ≤ 0x1C0000 := by simp [inPad]

theorem inAcc_iff {r : Nat × Nat} : inAcc r = true ↔ r.2 = 0 ∨ 0x200000 ≤ r.1 ∧ r.1 + r.2 ≤ 0x240000 := by simp [inAcc]

/-- A row of a strided operand lies in the scratchpad. -/
theorem inPad_row {addr n i stride row : Nat} (h : inPad (addr, strided n stride row) = true) (hi : i < n) :
    row = 0 ∨ addr + i * stride + row ≤ 0x1C0000 := by
  have hrow := strided_row (stride := stride) (row := row) hi
  have hpad := inPad_iff.mp h
  simp only at hpad
  omega

/-- A core's valid rows are among those that the checks were made on. -/
theorem Blocks.coreRows_le_checkRows (b : Blocks) (a : ArrInsn) (p q : Nat) : a.coreRows (b.rowCount a p) q ≤ a.checkRows 0 := by
  unfold ArrInsn.coreRows ArrInsn.checkRows Blocks.rowCount
  dsimp only
  split_ifs <;> omega

theorem ArrInsn.coreRows_le_zero (a : ArrInsn) (total q : Nat) : a.coreRows total q ≤ a.coreRows total 0 := by
  unfold ArrInsn.coreRows
  split_ifs <;> omega

end

/-! The tile of a core. -/

section
variable {a : ArrInsn} {lead c rows : Nat}

theorem Blocks.length_arrTile (b : Blocks) (idx blocks : List Nat) : (b.arrTile a lead c rows idx blocks).length = 4 * a.cols * rows := by
  unfold Blocks.arrTile
  dsimp only
  refine (length_flatMap_of_forall (n := 4 * a.cols) fun i _ => ?_).trans (by rw [List.length_range])
  refine (length_flatMap_of_forall (n := 4) fun _ _ => length_toLe 4 _).trans ?_
  rw [List.length_zip, List.length_map, List.length_range, Nat.min_self]

/-- A tile comes from the leader's scratchpad and the core's own memory. -/
theorem Blocks.arrTile_same (hok : a.badLocal = none) (hrows : rows ≤ a.checkRows 0) {b b' : Blocks} (hlead : Blocks.SameBelow 0x1C0000 lead b b')
    (hown : Blocks.SameLocal c b b') (idx blocks : List Nat) : b'.arrTile a lead c rows idx blocks = b.arrTile a lead c rows idx blocks := by
  obtain ⟨hA, hB, hinit1, hinit2, -⟩ := ArrInsn.ranges_of_badLocal hok
  have hbrows : (List.range a.cols).map (fun j => b'.locRead lead (a.bAddr + j * a.bStride) (rowBytes a.bfmt a.k)) =
      (List.range a.cols).map (fun j => b.locRead lead (a.bAddr + j * a.bStride) (rowBytes a.bfmt a.k)) :=
    List.map_congr_left fun j hj => hlead.locRead (inPad_row hB (List.mem_range.mp hj))
  unfold Blocks.arrTile
  dsimp only
  rw [hbrows]
  refine List.flatMap_congr fun i hi => List.flatMap_congr fun jb hjb => ?_
  have hi' := List.mem_range.mp hi
  have hj : jb.1 < a.cols := List.mem_range.mp (List.of_mem_zip hjb).1
  have harow : b'.locRead c (a.aAddr + i * a.aStride) (rowBytes a.afmt a.k) = b.locRead c (a.aAddr + i * a.aStride) (rowBytes a.afmt a.k) := by
    have hpad := inPad_row hA (hi'.trans_le hrows)
    exact hown.locRead (by omega)
  have hcell : i * a.cols + jb.1 < a.cols * a.checkRows 0 :=
    calc i * a.cols + jb.1 < i * a.cols + a.cols := Nat.add_lt_add_left hj _
      _ = a.cols * (i + 1) := by ring
      _ ≤ a.cols * a.checkRows 0 := Nat.mul_le_mul_left _ (by omega)
  have hvector : a.init = 1 → b'.locNat lead (a.initAddr + 4 * jb.1) 4 = b.locNat lead (a.initAddr + 4 * jb.1) 4 := fun hinit => by
    have hpad := inPad_iff.mp (hinit1 hinit)
    simp only at hpad
    exact hlead.locNat (by omega)
  have htile : a.init = 2 → b'.locNat c (a.initAddr + 4 * (i * a.cols + jb.1)) 4 = b.locNat c (a.initAddr + 4 * (i * a.cols + jb.1)) 4 := fun hinit => by
    have hacc := inAcc_iff.mp (hinit2 hinit)
    simp only [Nat.mul_assoc] at hacc
    exact hown.locNat (by omega)
  have hinit : (if a.init = 1 then b'.locNat lead (a.initAddr + 4 * jb.1) 4
        else if a.init = 2 then b'.locNat c (a.initAddr + 4 * (i * a.cols + jb.1)) 4 else 0) =
      (if a.init = 1 then b.locNat lead (a.initAddr + 4 * jb.1) 4
        else if a.init = 2 then b.locNat c (a.initAddr + 4 * (i * a.cols + jb.1)) 4 else 0) := by
    split
    · next h => exact hvector h
    · split
      · next h => exact htile h
      · rfl
  rw [harow, hinit]

end

/-! The output of a core. -/

/-- Registers, local memory and contexts alone. -/
def Dev.DrainFrame (d e : Dev) : Prop := ∃ regs loc ctxs, e = { d with regs := regs, loc := loc, ctxs := ctxs }

theorem Dev.DrainFrame.trans {d e f : Dev} (h : d.DrainFrame e) (k : e.DrainFrame f) : d.DrainFrame f := by
  obtain ⟨_, _, _, rfl⟩ := h
  obtain ⟨_, _, _, rfl⟩ := k
  exact ⟨_, _, _, rfl⟩

theorem Dev.RegFrame.drainFrame {d e : Dev} (h : d.RegFrame e) : d.DrainFrame e := by
  obtain ⟨_, rfl⟩ := h
  exact ⟨_, _, _, rfl⟩

theorem Dev.DrainFrame.insnFrame {d e : Dev} (h : d.DrainFrame e) : d.InsnFrame e := by
  obtain ⟨_, _, _, rfl⟩ := h
  exact ⟨_, _, _, _, rfl⟩

theorem Dev.DrainFrame.cores {d e : Dev} (h : d.DrainFrame e) : e.cores = d.cores := by
  obtain ⟨_, _, _, rfl⟩ := h
  rfl

theorem coreCntOps_inj {c q : Nat} (h : Reg.coreCntOps c = Reg.coreCntOps q) : c = q := by
  simp only [Reg.coreCntOps] at h
  omega

section
variable (g : Prog) (i : Issued) (a : ArrInsn) (lead total : Nat) (fed : List Nat)

/-- The tile that a core of the mode writes. -/
def Dev.outTile (d : Dev) (cq : Nat × Nat) : List Byte :=
  d.arrTile a lead cq.1 (a.coreRows total cq.2) (a.fedElems fed) ((a.fedElems fed).map (· / 32)).eraseDups

/-- The operations of a core of the mode. -/
def ArrInsn.opsOf (cq : Nat × Nat) : Nat := 2 * a.coreRows total cq.2 * a.cols * (a.fedElems fed).length

theorem Dev.drainCore_eq (d : Dev) (cq : Nat × Nat) : ∃ ctxs, d.drainCore g i a lead total fed cq =
    { (if a.opsOf total fed cq = 0 then d.locWrite cq.1 a.outAddr (d.outTile a lead total fed cq)
       else (d.locWrite cq.1 a.outAddr (d.outTile a lead total fed cq)).bump (Reg.coreCntOps cq.1) (a.opsOf total fed cq)) with ctxs := ctxs } := by
  unfold Dev.drainCore
  dsimp only
  split
  · obtain ⟨ctxs, h⟩ := Dev.hmPart_eq (if a.opsOf total fed cq = 0 then d.locWrite cq.1 a.outAddr (d.outTile a lead total fed cq)
       else (d.locWrite cq.1 a.outAddr (d.outTile a lead total fed cq)).bump (Reg.coreCntOps cq.1) (a.opsOf total fed cq)) g cq.1 i.order
       (d.outTile a lead total fed cq)
    exact ⟨ctxs, h⟩
  · exact ⟨_, rfl⟩

theorem Dev.drainFrame_drainCore (d : Dev) (cq : Nat × Nat) : d.DrainFrame (d.drainCore g i a lead total fed cq) := by
  obtain ⟨ctxs, h⟩ := d.drainCore_eq g i a lead total fed cq
  rw [h]
  split
  · exact ⟨_, _, _, rfl⟩
  · exact ⟨_, _, _, rfl⟩

theorem Dev.loc_drainCore (d : Dev) (cq : Nat × Nat) :
    (d.drainCore g i a lead total fed cq).loc = memWrite d.loc (cq.1 * 2 ^ 22 + a.outAddr) (d.outTile a lead total fed cq) := by
  obtain ⟨ctxs, h⟩ := d.drainCore_eq g i a lead total fed cq
  rw [h]
  split
  · rfl
  · rfl

theorem Dev.rd_ctxs (d : Dev) (ctxs : Tab Ctx) (off : Nat) : ({ d with ctxs := ctxs } : Dev).rd off = d.rd off := rfl

theorem Dev.rd_locWrite (d : Dev) (c at_ : Nat) (bs : List Byte) (off : Nat) : (d.locWrite c at_ bs).rd off = d.rd off := rfl

theorem Dev.rd_drainCore_other (d : Dev) (cq : Nat × Nat) {off : Nat} (hoff : off ≠ Reg.coreCntOps cq.1) :
    (d.drainCore g i a lead total fed cq).rd off = d.rd off := by
  obtain ⟨ctxs, h⟩ := d.drainCore_eq g i a lead total fed cq
  rw [h, Dev.rd_ctxs]
  split
  · exact Dev.rd_locWrite _ _ _ _ _
  · rw [Dev.rd_bump_other _ _ hoff, Dev.rd_locWrite]

/-- The operations count on the core (R100). -/
theorem Dev.rd_drainCore_same (d : Dev) (cq : Nat × Nat) : (d.drainCore g i a lead total fed cq).rd (Reg.coreCntOps cq.1) =
    (d.rd (Reg.coreCntOps cq.1) + a.opsOf total fed cq) % 2 ^ 64 := by
  obtain ⟨ctxs, h⟩ := d.drainCore_eq g i a lead total fed cq
  rw [h, Dev.rd_ctxs]
  split
  · next hzero => rw [hzero, Nat.add_zero, Nat.mod_eq_of_lt (d.rd_lt _), Dev.rd_locWrite]
  · rw [Dev.rd_bump_same, Dev.rd_locWrite]

/-- The operations of every core of a list. -/
theorem Dev.rd_drainCores (d : Dev) {cqs : List (Nat × Nat)} (hnodup : (cqs.map Prod.fst).Nodup) {cq : Nat × Nat} (hcq : cq ∈ cqs) :
    (cqs.foldl (fun d cq => d.drainCore g i a lead total fed cq) d).rd (Reg.coreCntOps cq.1) = (d.rd (Reg.coreCntOps cq.1) + a.opsOf total fed cq) % 2 ^ 64 := by
  induction cqs generalizing d with
  | nil => exact absurd hcq List.not_mem_nil
  | cons x xs ih =>
    obtain ⟨hx, hxs⟩ := List.nodup_cons.mp hnodup
    have hne : ∀ y ∈ xs, x.1 ≠ y.1 := fun y hy heq => hx (heq ▸ List.mem_map_of_mem hy)
    rw [List.foldl_cons]
    rcases List.mem_cons.mp hcq with rfl | hmem
    · rw [Dev.rd_foldl _ xs fun e y hy => e.rd_drainCore_other g i a lead total fed y fun heq => hne y hy (coreCntOps_inj heq),
        Dev.rd_drainCore_same]
    · rw [ih _ hxs hmem, Dev.rd_drainCore_other _ _ _ _ _ _ _ _ fun heq => hne cq hmem (coreCntOps_inj heq).symm]

/-- The writes of the cores of a mode. -/
theorem drainCores_writes (hok : a.badLocal = none) (hlow : a.outAddr < 2 ^ 22) {b : Blocks} {p : Nat} {cqs : List (Nat × Nat)} :
    CoreWrites (Prod.fst : Nat × Nat → Nat) a.outAddr (fun d cq => d.drainCore g i a lead (b.rowCount a p) fed cq)
      (fun d cq => d.outTile a lead (b.rowCount a p) fed cq) cqs := by
  have hout := inAcc_iff.mp (ArrInsn.ranges_of_badLocal hok).2.2.2.2
  simp only at hout
  have hlen : ∀ (d : Dev) (cq : Nat × Nat), (d.outTile a lead (b.rowCount a p) fed cq).length ≤ 4 * a.cols * a.checkRows 0 := fun d cq => by
    rw [Dev.outTile, Blocks.length_arrTile]
    exact Nat.mul_le_mul_left _ (b.coreRows_le_checkRows a p cq.2)
  refine ⟨fun d cq _ => Dev.loc_drainCore _ _ _ _ _ _ _ _, fun d cq _ => ?_, fun d cq cq' _ _ hne => ?_⟩
  · have hle := hlen d cq
    omega
  · have hle := hlen d cq
    have hlead : Blocks.SameBelow 0x1C0000 lead d.toBlocks (d.drainCore g i a lead (b.rowCount a p) fed cq).toBlocks := fun y hy => by
      rw [Dev.loc_drainCore, memByte_memWrite_apart]
      unfold Outside
      rcases Nat.eq_or_lt_of_le (Nat.zero_le (d.outTile a lead (b.rowCount a p) fed cq).length) with hzero | hpos
      · omega
      · rcases Nat.lt_trichotomy cq.1 lead with h | h | h <;> omega
    have hown : Blocks.SameLocal cq'.1 d.toBlocks (d.drainCore g i a lead (b.rowCount a p) fed cq).toBlocks :=
      sameLocal_of_write (Dev.loc_drainCore _ _ _ _ _ _ _ _) hne (by omega)
    exact Blocks.arrTile_same hok (b.coreRows_le_checkRows a p cq'.2) hlead hown _ _

end

end Sys2Proof.Machine
end

section
/-! ARRAY_DRAIN (R74, R97, R100, R103): when it waits, what it faults with, and what it leaves. -/

namespace Sys2Proof.Machine

/-! What a drain reads of counters and local memory. -/

theorem Blocks.fedSet_of_loc {b b' : Blocks} (h : b'.loc = b.loc) (a : ArrInsn) (p : Nat) : b'.fedSet a p = b.fedSet a p := by
  have hcoords : ∀ operand sa, b'.coords a p operand sa = b.coords a p operand sa := fun operand sa => by
    cases sa with
    | none => rfl
    | some m => exact Blocks.stream_of_loc h p m a.k a.gran (some operand)
  simp only [Blocks.fedSet, hcoords]

theorem Dev.residueHits_countCorr (d : Dev) (c : Nat) (ecc : Ecc) (a : ArrInsn) (cores : List Nat) (residue : List (Nat × Nat)) :
    (d.countCorr c 0 ecc).residueHits a cores residue = d.residueHits a cores residue := by
  have hrd : ∀ q j, (d.countCorr c 0 ecc).rd (Reg.coreColbad q (j % 4)) = d.rd (Reg.coreColbad q (j % 4)) := fun q j =>
    d.rd_countCorr_hbm c 0 ecc (by simp only [Reg.coreColbad, Reg.coreCntEccCorr]; omega)
      (fun n => by simp only [Reg.coreColbad, Reg.hbmCntCorr]; omega)
  simp only [Blocks.residueHits, hrd]

/-! The row. -/

/-- The cores of a drain with their places in the quartet. -/
def Blocks.drainCores (b : Blocks) (i : Issued) (p : Nat) : List (Nat × Nat) := (b.arrCores (arrOf i.insn) p).zip (List.range 4)

/-- The tiles of a drain written and counted. -/
def Dev.drained (d : Dev) (p : Nat) (ecc : Ecc) (g : Prog) (i : Issued) (fed : List Nat) : Dev :=
  (d.drainCores i p).foldl (fun e cq => e.drainCore g i (arrOf i.insn) p (d.rowCount (arrOf i.insn) p) fed cq)
    (d.countCorr (d.arrErrCore (arrOf i.insn) p ecc).1 0 ecc)

/-- Operand beats and null beats counted on cores (R338). -/
def Dev.countBeats (d : Dev) (ctx : Nat) (beats : Nat × Nat) (cores : List Nat) : Dev :=
  cores.foldl (fun d c => (d.countEvent c 4 ctx beats.1).countEvent c 6 ctx beats.2) d

/-- A drain to its end: beats counted and the instruction complete. -/
def Dev.afterDrain (d : Dev) (p : Nat) (ecc : Ecc) (g : Prog) (i : Issued) (fed : List Nat) : Dev :=
  ((d.drained p ecc g i fed).countBeats g.ctx (d.beats (arrOf i.insn) p fed) (d.arrCores (arrOf i.insn) p)).complete p i.order [p]

section
variable {d : Dev} {p : Nat} {residue : List (Nat × Nat)} {ecc : Ecc} {g : Prog} {i : Issued} (hprog : d.prog? p = some g)
  (hold : g.oldestArray = some i)
include hprog hold

/-- No carats, or no clock. -/
theorem Dev.arrayDrain_waits (h : d.holds p < (arrOf i.insn).carats ∨ d.clocked p = false) : d.arrayDrain p residue ecc = d := by
  have hwait : (decide (d.holds p < (arrOf i.insn).carats) || !d.clocked p) = true := by simpa using h
  unfold Dev.arrayDrain
  simp only [hprog, hold, hwait, if_true]

variable (hcarats : (arrOf i.insn).carats ≤ d.holds p) (hclock : d.clocked p = true)
include hcarats hclock

/-- An uncorrectable word among the operands of a single core. -/
theorem Dev.arrayDrain_badOperand {w : Nat} (hpave : (arrOf i.insn).pave ≠ 2) (hecc : ecc = { badLocal := some w })
    (hmeets : meets (d.arrReads (arrOf i.insn) p (d.rowCount (arrOf i.insn) p) 0) [(w, 1)] = true) :
    d.arrayDrain p residue ecc = d.localFault p g i.pc 0x28 .m w := by
  subst hecc
  have hgo : (decide (d.holds p < (arrOf i.insn).carats) || !d.clocked p) = false := by simpa [hclock] using hcarats
  have hcore : d.arrErrCore (arrOf i.insn) p { badLocal := some w } = (p, 0) := by
    simp [Blocks.arrErrCore, Blocks.arrCores, hpave]
  have hfilter : (some w).filter (fun x => meets (d.arrReads (arrOf i.insn) p (d.rowCount (arrOf i.insn) p) 0) [(x, 1)]) = some w := by
    simp [hmeets]
  unfold Dev.arrayDrain
  simp only [hprog, hold, hgo, Bool.false_eq_true, if_false, hcore, hfilter]
  rw [Dev.countCorr_none _ _ _ _ rfl rfl]

variable (hbad : ecc.badLocal = none)
include hbad

/-- One failing column. -/
theorem Dev.arrayDrain_residue {h : Nat × Nat × Nat} (hcorr : ecc = {})
    (hhits : d.residueHits (arrOf i.insn) (d.arrCores (arrOf i.insn) p) residue = [h]) :
    d.arrayDrain p residue ecc = (d.bypass h.1 h.2.1 h.2.2).insnFault h.1 g i.pc 0x27 .m 0 := by
  have hgo : (decide (d.holds p < (arrOf i.insn).carats) || !d.clocked p) = false := by simpa [hclock] using hcarats
  have hnone : ∀ c, d.countCorr c 0 ecc = d := fun c => Dev.countCorr_none _ _ _ _ (by rw [hcorr]) (by rw [hcorr])
  unfold Dev.arrayDrain
  simp only [hprog, hold, hgo, Bool.false_eq_true, if_false, hbad, Option.filter_none, hnone, hhits]
  rfl

/-- The tiles written, the operations counted and the instruction complete. -/
theorem Dev.arrayDrain_drained {fed : List Nat} (hhits : d.residueHits (arrOf i.insn) (d.arrCores (arrOf i.insn) p) residue = [])
    (hfed : d.fedSet (arrOf i.insn) p = .inr fed) : d.arrayDrain p residue ecc = d.afterDrain p ecc g i fed := by
  have hgo : (decide (d.holds p < (arrOf i.insn).carats) || !d.clocked p) = false := by simpa [hclock] using hcarats
  have hfed' : ∀ c, (d.countCorr c 0 ecc).fedSet (arrOf i.insn) p = .inr fed := fun c =>
    (Blocks.fedSet_of_loc (d.countCorr_loc c 0 ecc) _ _).trans hfed
  unfold Dev.arrayDrain
  simp only [hprog, hold, hgo, Bool.false_eq_true, if_false, hbad, Option.filter_none, Dev.residueHits_countCorr, hhits, hfed']
  rfl

end

/-! What a drain leaves. -/

theorem Dev.regFrame_countBeats (d : Dev) (ctx : Nat) (beats : Nat × Nat) (cores : List Nat) : d.RegFrame (d.countBeats ctx beats cores) :=
  Dev.regFrame_foldl _ (fun _ _ => (Dev.regFrame_countEvent _ _ _ _ _).trans (Dev.regFrame_countEvent _ _ _ _ _)) cores d

theorem coreCntOps_ne_corePmc (c q : Nat) {i : Nat} (hi : i < 8) : Reg.coreCntOps c ≠ Reg.corePmc q i := by
  simp only [Reg.coreCntOps, Reg.corePmc]
  omega

theorem Dev.rd_countBeats (d : Dev) (ctx : Nat) (beats : Nat × Nat) (cores : List Nat) (c : Nat) :
    (d.countBeats ctx beats cores).rd (Reg.coreCntOps c) = d.rd (Reg.coreCntOps c) :=
  Dev.rd_foldl _ cores (fun _ q _ => (Dev.rd_countEvent _ _ _ _ _ fun _ hi => coreCntOps_ne_corePmc c q hi).trans
    (Dev.rd_countEvent _ _ _ _ _ fun _ hi => coreCntOps_ne_corePmc c q hi)) d

section
variable (d : Dev) (p order : Nat)

theorem Dev.owedFrame_complete :
    (d.modProg p (fun g => { g with score := g.score.filter (fun i => i.order ≠ order) })).OwedFrame (d.complete p order [p]) :=
  (Dev.regFrame_retire _ _).owedFrame

theorem Dev.rd_complete (c : Nat) : (d.complete p order [p]).rd (Reg.coreCntOps c) = d.rd (Reg.coreCntOps c) :=
  Dev.rd_retire_other _ _ fun q _ => by simp only [Reg.coreCntOps, Reg.coreCntTdRetired]; omega

end

section
variable (d : Dev) (p : Nat) (ecc : Ecc) (g : Prog) (i : Issued) (fed : List Nat)

theorem Dev.drainFrame_drained : d.DrainFrame (d.drained p ecc g i fed) :=
  foldl_keeps d.DrainFrame (fun e _ h => h.trans (e.drainFrame_drainCore _ _ _ _ _ _ _)) _ (d.regFrame_countCorr _ _ _).drainFrame

theorem Dev.afterDrain_loc : (d.afterDrain p ecc g i fed).loc = (d.drained p ecc g i fed).loc := by
  obtain ⟨hloc, -⟩ := (Dev.owedFrame_complete
    ((d.drained p ecc g i fed).countBeats g.ctx (d.beats (arrOf i.insn) p fed) (d.arrCores (arrOf i.insn) p)) p i.order).blocks
  obtain ⟨_, hbeats⟩ := (d.drained p ecc g i fed).regFrame_countBeats g.ctx (d.beats (arrOf i.insn) p fed) (d.arrCores (arrOf i.insn) p)
  refine hloc.trans ?_
  rw [hbeats]
  rfl

theorem Dev.insnFrame_afterDrain : d.InsnFrame (d.afterDrain p ecc g i fed) :=
  ((d.drainFrame_drained p ecc g i fed).insnFrame.trans (Dev.regFrame_countBeats _ _ _ _).insnFrame).trans
    ((Dev.insnFrame_modCore _ _ _).trans (Dev.owedFrame_complete _ _ _).insnFrame)

theorem Dev.prog_afterDrain (hprog : d.prog? p = some g) :
    (d.afterDrain p ecc g i fed).prog? p = some { g with score := g.score.filter (fun y => y.order ≠ i.order) } := by
  have hcores : (d.drained p ecc g i fed).prog? p = d.prog? p := by
    rw [Blocks.prog?, Blocks.core, (d.drainFrame_drained p ecc g i fed).cores, Blocks.prog?, Blocks.core]
  rw [Dev.afterDrain, (Dev.owedFrame_complete _ _ _).prog, Dev.prog_modProg_same, (Dev.regFrame_countBeats _ _ _ _).owedFrame.prog, hcores, hprog]
  rfl

theorem map_fst_drainCores (h : (d.arrCores (arrOf i.insn) p).length ≤ 4) : (d.drainCores i p).map Prod.fst = d.arrCores (arrOf i.insn) p :=
  List.map_fst_zip (by rwa [List.length_range])

variable (hnodup : (d.arrCores (arrOf i.insn) p).Nodup) (hfour : (d.arrCores (arrOf i.insn) p).length ≤ 4)
include hnodup hfour

theorem Dev.rd_afterDrain {cq : Nat × Nat} (hcq : cq ∈ d.drainCores i p) : (d.afterDrain p ecc g i fed).rd (Reg.coreCntOps cq.1) =
    (d.rd (Reg.coreCntOps cq.1) + (arrOf i.insn).opsOf (d.rowCount (arrOf i.insn) p) fed cq) % 2 ^ 64 := by
  rw [Dev.afterDrain, Dev.rd_complete, Dev.rd_countBeats, Dev.drained, Dev.rd_drainCores _ _ _ _ _ _ _ (by rwa [map_fst_drainCores d p i hfour]) hcq,
    Dev.rd_countCorr_hbm _ _ _ _ (by simp only [Reg.coreCntOps, Reg.coreCntEccCorr]; omega)
      (fun n => by simp only [Reg.coreCntOps, Reg.hbmCntCorr]; omega)]

/-- The tiles stand at OUT, and no other byte of local memory has changed. -/
theorem Dev.locals_afterDrain (hok : (arrOf i.insn).badLocal = none) :
    (∀ cq ∈ d.drainCores i p, (d.afterDrain p ecc g i fed).locRead cq.1 (arrOf i.insn).outAddr
        (4 * (arrOf i.insn).cols * (arrOf i.insn).coreRows (d.rowCount (arrOf i.insn) p) cq.2) =
      d.outTile (arrOf i.insn) p (d.rowCount (arrOf i.insn) p) fed cq) ∧
    (∀ y, (∀ c ∈ d.arrCores (arrOf i.insn) p, Outside c (arrOf i.insn).outAddr
        (4 * (arrOf i.insn).cols * (arrOf i.insn).coreRows (d.rowCount (arrOf i.insn) p) 0) y) →
      memByte (d.afterDrain p ecc g i fed).loc y = memByte d.loc y) := by
  have hcorr := d.countCorr_loc (d.arrErrCore (arrOf i.insn) p ecc).1 0 ecc
  have hwrites := drainCores_writes g i (arrOf i.insn) p fed hok (Nat.mod_lt _ (by decide)) (b := d.toBlocks) (p := p) (cqs := d.drainCores i p)
  have hids : ((d.drainCores i p).map Prod.fst).Nodup := by rwa [map_fst_drainCores d p i hfour]
  have hsame : ∀ c, Blocks.SameLocal c d.toBlocks (d.countCorr (d.arrErrCore (arrOf i.insn) p ecc).1 0 ecc).toBlocks := fun c y _ => by rw [hcorr]
  have htile : ∀ cq, (d.countCorr (d.arrErrCore (arrOf i.insn) p ecc).1 0 ecc).outTile (arrOf i.insn) p (d.rowCount (arrOf i.insn) p) fed cq =
      d.outTile (arrOf i.insn) p (d.rowCount (arrOf i.insn) p) fed cq := fun cq =>
    Blocks.arrTile_same hok (d.coreRows_le_checkRows _ p cq.2) (fun y _ => by rw [hcorr]) (hsame cq.1) _ _
  refine ⟨fun cq hcq => ?_, fun y hy => ?_⟩
  · have hread := hwrites.inside hids (d.countCorr (d.arrErrCore (arrOf i.insn) p ecc).1 0 ecc) hcq
    rw [htile, Dev.outTile, Blocks.length_arrTile, ← Dev.outTile] at hread
    rw [Blocks.locRead, Dev.afterDrain_loc]
    exact hread
  · have hkept := hwrites.outside hids (d.countCorr (d.arrErrCore (arrOf i.insn) p ecc).1 0 ecc) (y := y) fun cq hcq => by
      rw [htile, Dev.outTile, Blocks.length_arrTile]
      have hcore : cq.1 ∈ d.arrCores (arrOf i.insn) p := (List.of_mem_zip (a := cq.1) (b := cq.2) hcq).1
      have hrows := Nat.mul_le_mul_left (4 * (arrOf i.insn).cols) ((arrOf i.insn).coreRows_le_zero (d.rowCount (arrOf i.insn) p) cq.2)
      have hout := hy cq.1 hcore
      unfold Outside at hout ⊢
      omega
    rw [Dev.afterDrain_loc, Dev.drained, hkept, hcorr]

end

end Sys2Proof.Machine
end

section
/-! Array instructions settled: issue and drain. -/

namespace Sys2Proof.Machine

/-- Both rows of an array instruction do the same work. -/
theorem exec_array {s : State} {c : Instr} {p op x : Nat} {ecc : Ecc} {g : Prog} {bs : List Byte}
    (hc : c = .denseInstruction p ecc ∧ op = 0x40 ∨ c = .sparseArrayInstruction p ecc ∧ op = 0x41) (hturn : Safety.Turn s p op g x bs)
    (hbad : ecc.badLocal = none) : exec c s = .next (s.onDev (s.dev.arrIssue p ecc (g.at_ x) bs)) := by
  obtain ⟨⟨hop, hprog, hissue, hclock⟩, hnext, hbs, hopc, hheld⟩ := hturn
  have hrun := Dev.onInsn_run (ecc := ecc) (fun d g bs => d.arrIssue p ecc g bs) hprog hissue hclock hnext hbs hopc hheld (by simp [hbad])
  rw [← hrun]
  rcases hc with ⟨rfl, rfl⟩ | ⟨rfl, rfl⟩
  · rw [← Dev.live_running _ (fun d => d.onInsn p 0x40 ecc fun d g bs => d.arrIssue p ecc g bs) hop]
    rfl
  · rw [← Dev.live_running _ (fun d => d.onInsn p 0x41 ecc fun d g bs => d.arrIssue p ecc g bs) hop]
    rfl

theorem exec_arrayDrain {s : State} (hop : Safety.Operating s) (p : Nat) (residue : List (Nat × Nat)) (ecc : Ecc) :
    exec (.arrayDrain p residue ecc) s = .next (s.onDev (s.dev.arrayDrain p residue ecc)) := by
  rw [← Dev.live_running _ (fun d => d.arrayDrain p residue ecc) hop]
  rfl

/-- An array instruction that enters the scoreboard and asks for its carats. -/
theorem arrEnter_askCarats {s : State} {p : Nat} {g : Prog} (hprog : s.dev.prog? p = some g) (x : Nat) (ecc : Ecc) (bs : List Byte) :
    let t := s.onDev ((s.dev.arrEnter p x ecc g bs).askCarats p (arrOf bs).carats (some g.ctx))
    t.dev.prog? p = some { Safety.pastM g x with score := g.score ++ [arrEntry s.dev p x g bs] } ∧
    ((arrOf bs).carats ≤ t.dev.holds p ∨ ∃ r ∈ t.dev.pwr.waiting, r.req = p ∧ (arrOf bs).carats ≤ s.dev.holds p + r.carats) ∧
    Safety.SameMemory s t ∧ Safety.SameOthers s t ∧ t.dev.ctxs = s.dev.ctxs := by
  obtain ⟨hframe, hpwr, hentry⟩ := Dev.arrEnter_leaves hprog x ecc bs
  obtain ⟨hholds, hasks⟩ := (s.dev.arrEnter p x ecc g bs).askCarats_asks p (arrOf bs).carats (some g.ctx)
  have hheld : (s.dev.arrEnter p x ecc g bs).holds p = s.dev.holds p := by rw [Blocks.holds, hpwr, Blocks.holds]
  obtain ⟨_, hask⟩ := (s.dev.arrEnter p x ecc g bs).askCarats_eq p (arrOf bs).carats (some g.ctx)
  have hall : s.dev.IssueFrame ((s.dev.arrEnter p x ecc g bs).askCarats p (arrOf bs).carats (some g.ctx)) :=
    hframe.trans ⟨_, _, _, hask⟩
  refine ⟨?_, ?_, hall.blocks⟩
  · rw [State.onDev_dev, hask]
    exact hentry
  · rw [State.onDev_dev, hholds, hheld]
    rwa [hheld] at hasks

end Sys2Proof.Machine
end

section
open Sys2Proof Sys2Proof.Machine

/-- Settles O34: the issue part by the branches of the instruction's checks (R72, R81, R103, R107, R328), the drain by the writes of its cores one after
the other: each core's tile comes from the leader's scratchpad and the core's own memory, neither of which another core's tile reaches (R74, R89, R97,
R100). -/
theorem arrayIssueAndDrain : Obligations.ArrayIssueAndDrain := by
  refine ⟨fun s c p op x ecc g bs hc hturn hbad => ?_, fun s p residue ecc g i hop hprog hold => ?_⟩
  · have hexec := exec_array hc hturn hbad
    obtain ⟨⟨-, hprog, -⟩, -, -, hopc, -⟩ := hturn
    rw [hexec]
    refine ⟨fun code loc hfault => by rw [Dev.arrIssue_fault hfault], fun hfault hempty => ?_, fun hfault hsome hfree => ⟨fun fed hfed => ?_,
      fun code loc hlocal hhbm hfed => ?_⟩, fun hfault hsome hwait => by rw [Dev.arrIssue_hazard hfault hsome hwait, State.onDev_self]⟩
    · exact ⟨_, hexec.trans (by rw [Dev.arrIssue_empty hfault hempty]), Dev.emptyRetire_leaves hprog x⟩
    · have hissue := Dev.arrIssue_fed (x := x) hfault hsome hfree hbad
      rw [hfed] at hissue
      obtain ⟨hentry, hcarats, hrest⟩ := arrEnter_askCarats hprog x ecc bs
      exact ⟨_, hexec.trans (by rw [hissue]), ⟨_, hentry, rfl, congrArg (fun o => Pend.array (decide (o = 0x41))) hopc, rfl, rfl⟩, hcarats, hrest⟩
    · rw [Dev.arrIssue_fed hfault hsome hfree hbad, hfed]
      exact congrArg (fun d => Host.Outcome.next (s.onDev (Dev.localFault d p (g.at_ x) x code .m loc))) (Dev.countCorr_none _ _ _ _ hlocal hhbm)
  · rw [exec_arrayDrain hop]
    refine ⟨fun hwait => by rw [Dev.arrayDrain_waits hprog hold hwait, State.onDev_self], fun fed hcarats hclock hbad hhits hfed hok hnodup hfour => ?_,
      fun w hcarats hclock hpave hecc hmeets => by rw [Dev.arrayDrain_badOperand hprog hold hcarats hclock hpave hecc hmeets],
      fun h hcarats hclock hecc hhits => by rw [Dev.arrayDrain_residue hprog hold hcarats hclock (by rw [hecc]) hecc hhits]⟩
    obtain ⟨htiles, hbut⟩ := s.dev.locals_afterDrain p ecc g i fed hnodup hfour hok
    have hframe := s.dev.insnFrame_afterDrain p ecc g i fed
    exact ⟨s.onDev (s.dev.afterDrain p ecc g i fed), (exec_arrayDrain hop p residue ecc).trans (by rw [Dev.arrayDrain_drained hprog hold hcarats hclock hbad hhits hfed]),
      htiles, hbut, hframe.outer, fun cq hcq => s.dev.rd_afterDrain p ecc g i fed hnodup hfour hcq, s.dev.prog_afterDrain p ecc g i fed hprog, hframe.others, hframe.engines.2.1⟩

end

section
/-! Stores of engines, buffers that return and calls that are posted: none of them reaches a core, a command or a collective (R129, R157, R233). -/

namespace Sys2Proof.Machine

/-! Accesses to the device range. -/

theorem Dev.ends_touch (d : Dev) (a n : Nat) (store : Bool) : d.Ends (d.touch a n store) := by
  unfold Dev.touch
  split
  · refine Dev.ends_foldl _ (fun e i => ?_) _ d
    dsimp only
    split
    · exact (e.ends_setTdir i _).trans (Dev.ends_setTdir _ i _)
    · exact e.ends_setTdir i _
  · exact .refl d

theorem Dev.ends_devWrite (d : Dev) (a : Nat) (bs : List Byte) : d.Ends (d.devWrite a bs) := by
  obtain ⟨hbm, h⟩ := d.devPut_eq a bs
  have hput : d.Ends (d.devPut a bs) := by
    rw [h]
    exact d.ends_hbm hbm
  exact hput.trans (Dev.ends_touch _ _ _ _)

theorem Dev.ends_countStack (d e : Dev) (a n : Nat) (store : Bool) (quad : Option Nat) (s : Nat) : e.Ends (d.countStack e a n store quad s) := by
  have hoff : 0x02000000 ≤ (if store then Reg.hbmCntWrite s else Reg.hbmCntRead s) := by
    split
    · simp only [Reg.hbmCntWrite]
      omega
    · simp only [Reg.hbmCntRead]
      omega
  have hcount := (e.ends_askCarats (req := 576 + s) 8 none (Nat.le_add_right _ _)).trans (Dev.ends_bump _ (d.lines a n s) hoff)
  unfold Dev.countStack
  split
  · exact .refl e
  · dsimp only
    split
    · exact hcount
    · exact hcount.trans (Dev.ends_bump _ _ (by simp only [Reg.hbmCntCross]; omega))

theorem Dev.ends_countHbm (d : Dev) (a n : Nat) (store : Bool) (quad : Option Nat) : d.Ends (d.countHbm a n store quad) := by
  rw [d.countHbm_eq]
  split
  · exact .refl d
  · exact Dev.ends_foldl _ (fun e s => d.ends_countStack e a n store quad s) _ d

theorem Dev.ends_devTake (d : Dev) (a n : Nat) (quad : Option Nat) : d.Ends (d.devTake a n quad) :=
  (d.ends_touch a n false).trans (Dev.ends_countHbm _ _ _ _ _)

theorem Dev.ends_filSend (d : Dev) (typ key sub : Nat) (data : List Byte) (dest : Nat) : d.Ends (d.filSend typ key sub data dest) := by
  obtain ⟨fil, h⟩ := d.filSend_eq typ key sub data dest
  rw [h]
  exact d.ends_fil fil

theorem Dev.ends_filBroadcast (d : Dev) (typ key sub : Nat) (data : List Byte) : d.Ends (d.filBroadcast typ key sub data) := by
  refine Dev.ends_foldl _ (fun e i => ?_) _ d
  split
  · exact .refl e
  · exact e.ends_filSend _ _ _ _ _

theorem Dev.ends_remote (d : Dev) (remote : Remote) (h : remote.reqs = d.remote.reqs) : d.Ends { d with remote := remote } :=
  Dev.ends_engines ⟨_, _, _, _, _, _, _, _, _, _, _, rfl⟩ ⟨h, rfl⟩ (fun _ _ => rfl) (.refl _)

theorem Dev.ends_touchPage (d : Dev) (page : Nat) : d.Ends (d.touchPage page) := by
  unfold Dev.touchPage
  split
  · exact .refl d
  · dsimp only
    exact Dev.Ends.trans (Dev.ends_remote d _ (by rfl)) (Dev.ends_filBroadcast _ _ _ _ _)

theorem Dev.ends_devStore (d : Dev) (a : Nat) (bs : List Byte) (quad : Option Nat) : d.Ends (d.devStore a bs quad) :=
  (Dev.ends_foldl _ Dev.ends_touchPage _ d).trans ((Dev.ends_devWrite _ a bs).trans (Dev.ends_countHbm _ _ _ _ _))

/-! Lines whose sharers are asked (R233). -/

theorem Dev.ends_sendInvalidate (d : Dev) (line to_ : Nat) : d.Ends (d.sendInvalidate line to_) := by
  unfold Dev.sendInvalidate
  refine Dev.Ends.trans ?_ (Dev.ends_bump _ 1 (by decide))
  exact Dev.ends_engines ⟨_, _, _, _, _, _, _, _, _, _, _, rfl⟩ ⟨rfl, rfl⟩ (fun _ _ => rfl) (.refl _)

theorem Dev.ends_deferWrite (d : Dev) (w : LineWait) : d.Ends (d.deferWrite w) := by
  unfold Dev.deferWrite
  exact Dev.Ends.trans (Dev.ends_foldl _ (fun e i => e.ends_sendInvalidate w.line i) _ d) (Dev.ends_remote _ _ (by rfl))

/-! Stores that wait for a tile (R129). -/

theorem Dev.ends_queueFetch (d : Dev) (i cls : Nat) (stream predicted ahead : Bool) : d.Ends (d.queueFetch i cls stream predicted ahead) := by
  unfold Dev.queueFetch
  split
  · exact .refl d
  · exact (d.ends_askCarats (req := 590 + (d.vaultOf i).1) 4 none (by omega)).trans (Dev.ends_modVport _ _ _)

theorem Dev.ends_servePart (d : Dev) (p : WaitPart) : d.Ends (d.servePart p).2 := by
  unfold Dev.servePart
  split
  · exact .refl d
  · split
    · exact d.ends_devTake _ _ _
    · split
      · exact d.ends_devStore _ _ _
      · exact Dev.ends_foldl _ (fun e l => e.ends_deferWrite _) _ d

theorem Dev.ends_serveParts (parts : List WaitPart) (d : Dev) : ∀ acc : List WaitPart × Dev, d.Ends acc.2 →
    d.Ends (parts.foldl (fun a p => (a.1 ++ [(a.2.servePart p).1], (a.2.servePart p).2)) acc).2 := fun _ h =>
  foldl_keeps (fun a : List WaitPart × Dev => d.Ends a.2) (fun a p ha => ha.trans (a.2.ends_servePart p)) parts h

theorem Dev.ends_serveStalls (d : Dev) : d.Ends d.serveStalls := by
  unfold Dev.serveStalls
  dsimp only
  refine Dev.Ends.trans ?_ (Dev.ends_mig _ _ (by rfl))
  exact foldl_keeps (fun a : List Stall × Dev => d.Ends a.2) (fun a s ha => ha.trans (Dev.ends_serveParts s.parts a.2 _ (.refl _))) _ (Dev.Ends.refl d)

theorem Dev.ends_stall (d : Dev) (s : Stall) : d.Ends (d.stall s) := by
  unfold Dev.stall
  refine Dev.Ends.trans (Dev.Ends.trans (Dev.ends_foldl _ (fun e p => ?_) _ d) (Dev.ends_mig _ _ (by rfl))) (Dev.ends_serveStalls _)
  have hmiss : e.Ends (if p.first && !e.allResident p.addr p.len then e.bump Reg.migCntMiss 1 else e) := by
    split
    · exact e.ends_bump 1 (by decide)
    · exact .refl e
  split
  · exact .refl e
  · dsimp only
    split
    · exact hmiss
    · exact hmiss.trans (Dev.ends_foldl _ (fun e i => e.ends_queueFetch _ _ _ _ _) _ _)

/-- A store that an engine posts. -/
theorem Dev.ends_postStore (d : Dev) (a : Nat) (bs : List Byte) : d.Ends (d.postStore a bs) := by
  refine Dev.ends_foldl _ (fun e p => ?_) _ d
  dsimp only
  split
  · exact e.ends_devWrite _ _
  · exact e.ends_stall _

theorem Dev.ends_freeSlot (d : Dev) (c n : Nat) : d.Ends (d.freeSlot c n) :=
  ((d.ends_postStore _ _).trans (Dev.ends_modCtx _ _ ⟨rfl, rfl, rfl, rfl, rfl, rfl, id, id, id⟩)).trans
    (Dev.ends_wr _ _ (by simp only [Reg.migKvReserved]; omega))

/-! Buffers (R151, R157). -/

theorem Dev.ends_freeBuf (d : Dev) (k n : Nat) : d.Ends (d.freeBuf k n) := by
  have hmap : d.Ends (d.setMapBit k n 0) := d.ends_pool _
  have hfree := (hmap.trans (Dev.ends_putEntry _ ((d.setMapBit k n 0).tagAddr k n) (toLe 4 (setBits (d.tag k n) 31 31 0)))).trans
    (Dev.ends_bump _ 1 (off := Reg.poolCntFree) (by decide))
  unfold Dev.freeBuf
  dsimp only
  split
  · exact hfree.trans (Dev.ends_modCtx _ _ ⟨rfl, rfl, rfl, rfl, rfl, rfl, id, id, id⟩)
  · exact hfree

theorem Dev.ends_reclaim (d : Dev) (pat : Nat → Bool) : d.Ends (d.reclaim pat) := by
  refine Dev.ends_foldl _ (fun e k => Dev.ends_foldl _ (fun e n => ?_) _ e) _ d
  dsimp only
  split
  · split
    · exact (e.ends_freeBuf k n).trans (Dev.ends_pool _ _)
    · exact e.ends_freeBuf k n
  · exact .refl e

theorem Dev.ends_hwFree (d : Dev) (ptr : Nat) : d.Ends (d.hwFree ptr) := by
  unfold Dev.hwFree
  split
  · exact d.ends_freeBuf _ _
  · split
    · exact Dev.Ends.trans (d.ends_pool _) (Dev.ends_bump _ 1 (by decide))
    · exact d.ends_log _

end Sys2Proof.Machine
end

section
/-! Votes of FAIL (R225): collectives close or end, none opens again, and one that votes no keeps its vote. -/

namespace Sys2Proof.Machine

/-! What a collective becomes. -/

/-- The collective ends on this device with a vote of its own: it closes, or opens with a failure status. -/
def Coll.Voted (x : Coll) : Prop := x.phase = .closing ∨ (x.phase = .opening ∧ x.open_.ok = false)

/-- The collective closes with a vote of FAIL. -/
def Coll.ClosesFailed (x : Coll) : Prop := x.phase = .closing ∧ x.close.ok = false

/-- Collective y is what x becomes as votes are cast: what is closing closes on, and what moved data fails if it closes. -/
structure Coll.Sinks (x y : Coll) : Prop where
  id : y.id = x.id
  ctx : y.ctx = x.ctx
  voted : x.Voted → y.Voted
  failed : x.ClosesFailed → y.ClosesFailed
  data : x.phase = .data → y.phase = .data ∨ y.ClosesFailed

theorem Coll.Sinks.refl (x : Coll) : x.Sinks x := ⟨rfl, rfl, fun h => h, fun h => h, Or.inl⟩

theorem Coll.Sinks.trans {x y z : Coll} (h : x.Sinks y) (k : y.Sinks z) : x.Sinks z :=
  ⟨k.id.trans h.id, k.ctx.trans h.ctx, fun hx => k.voted (h.voted hx), fun hx => k.failed (h.failed hx),
    fun hx => (h.data hx).elim k.data fun hy => Or.inr (k.failed hy)⟩

/-- A close vote that goes on. -/
theorem Coll.Sinks.of_close {x y : Coll} (hid : y.id = x.id) (hctx : y.ctx = x.ctx) (hphase : y.phase = x.phase) (hopen : y.open_ = x.open_)
    (hok : x.close.ok = false → y.close.ok = false) : x.Sinks y :=
  ⟨hid, hctx, fun h => h.imp hphase.trans fun hx => ⟨hphase.trans hx.1, by rw [hopen]; exact hx.2⟩,
    fun h => ⟨hphase.trans h.1, hok h.2⟩, fun h => Or.inl (hphase.trans h)⟩

/-! What the device becomes. -/

/-- Things wind up and collectives sink; none appears. -/
structure Dev.Votes (d e : Dev) : Prop extends Dev.Winds d e where
  ids : (e.colls.map (fun x => x.id)).Sublist (d.colls.map (fun x => x.id))
  sinks : ∀ y ∈ e.colls, ∃ x ∈ d.colls, x.Sinks y

theorem Dev.Votes.of_colls {d e : Dev} (h : d.Winds e) (hcolls : e.colls = d.colls) : d.Votes e :=
  ⟨h, by rw [hcolls], fun y hy => ⟨y, hcolls ▸ hy, .refl y⟩⟩

theorem Dev.Ends.votes {d e : Dev} (h : d.Ends e) : d.Votes e := .of_colls h.toWinds h.colls

theorem Dev.Votes.refl (d : Dev) : d.Votes d := (Dev.Ends.refl d).votes

theorem Dev.Votes.trans {d e f : Dev} (h : d.Votes e) (k : e.Votes f) : d.Votes f :=
  ⟨h.toWinds.trans k.toWinds, k.ids.trans h.ids, fun z hz => by
    obtain ⟨y, hy, hyz⟩ := k.sinks z hz
    obtain ⟨x, hx, hxy⟩ := h.sinks y hy
    exact ⟨x, hx, hxy.trans hyz⟩⟩

/-- No number is given twice. -/
abbrev Dev.OwnIds (d : Dev) : Prop := (d.colls.map (fun x => x.id)).Nodup

theorem Dev.Votes.ownIds {d e : Dev} (h : d.Votes e) (hids : d.OwnIds) : e.OwnIds := h.ids.nodup hids

theorem Dev.votes_foldl {α : Type} (f : Dev → α → Dev) (hf : ∀ (d : Dev) a, d.OwnIds → d.Votes (f d a)) (xs : List α) {d : Dev} (hids : d.OwnIds) :
    d.Votes (xs.foldl f d) := foldl_keeps d.Votes (fun e a h => h.trans (hf e a (h.ownIds hids))) xs (.refl d)

/-- The collective that a number names. -/
theorem Dev.eq_of_coll? {d : Dev} (hids : d.OwnIds) {id : Nat} {c x : Coll} (hc : d.coll? id = some c) (hx : x ∈ d.colls) (hid : x.id = id) : x = c := by
  have hmem : c ∈ d.colls := List.mem_of_find?_eq_some hc
  have hcid : c.id = id := by simpa using List.find?_some hc
  exact List.inj_on_of_nodup_map hids hx hmem (hid.trans hcid.symm)

theorem Dev.winds_colls (d : Dev) (colls : List Coll) : d.Winds { d with colls := colls } := { Dev.Winds.refl d with }

theorem Dev.votes_modColl {d : Dev} {id : Nat} {f : Coll → Coll} (hf : ∀ x ∈ d.colls, x.id = id → x.Sinks (f x)) : d.Votes (d.modColl id f) := by
  have hsinks : ∀ x ∈ d.colls, x.Sinks (if decide (x.id = id) = true then f x else x) := fun x hx => by
    split
    · next h => exact hf x hx (of_decide_eq_true h)
    · exact .refl x
  have hids : (d.modColl id f).colls.map (fun x => x.id) = d.colls.map (fun x => x.id) :=
    (List.map_map).trans (List.map_congr_left fun x hx => (hsinks x hx).id)
  refine ⟨d.winds_colls _, by rw [hids], fun y hy => ?_⟩
  obtain ⟨x, hx, rfl⟩ := List.mem_map.mp hy
  exact ⟨x, hx, hsinks x hx⟩

theorem Dev.votes_filter (d : Dev) (p : Coll → Bool) : d.Votes { d with colls := d.colls.filter p } :=
  ⟨d.winds_colls _, (List.filter_sublist).map _, fun y hy => ⟨y, (List.mem_filter.mp hy).1, .refl y⟩⟩

/-! The rounds of a close vote (R225). -/

theorem Dev.ends_sendRound (d : Dev) (id : Nat) (close : Bool) (axis : Nat) (ok : Bool) (status : Nat) : d.Ends (d.sendRound id close axis ok status) :=
  Dev.ends_foldl _ (fun e _ => e.ends_filSend _ _ _ _ _) _ d

theorem Coll.sinks_takeVote (x : Coll) (fmt : Nat) (m : FilMsg) : x.Sinks (x.takeVote true fmt m) := by
  unfold Coll.takeVote
  dsimp only
  split
  · exact .of_close rfl rfl rfl rfl fun h => h
  · exact .of_close rfl rfl rfl rfl fun h => h

theorem Coll.sinks_takeVotes (x : Coll) (fmt : Nat) (ms : List FilMsg) : x.Sinks (ms.foldl (fun c m => c.takeVote true fmt m) x) :=
  foldl_keeps x.Sinks (fun y m h => h.trans (y.sinks_takeVote fmt m)) ms (.refl x)

/-- A round of the close vote of collective c begins: this device's vote is sent and those that came early are taken. -/
def Dev.enterRound (d : Dev) (id : Nat) (c : Coll) : Dev :=
  let x := c.bar true
  let d := if true && c.early && d.firstAxis = some x.axis then d else d.sendRound id true x.axis x.ok x.status
  let (mine, rest) := d.fil.held.partition (fun m => isRound m id true x.axis)
  let d : Dev := { d with fil := { d.fil with held := rest } }
  d.modColl id (fun c => mine.foldl (fun c m => c.takeVote true d.mountFmt m) c)

theorem Dev.votes_enterRound (d : Dev) (id : Nat) (c : Coll) : d.Votes (d.enterRound id c) := by
  have hsent : d.Ends (if true && c.early && d.firstAxis = some (c.bar true).axis then d
      else d.sendRound id true (c.bar true).axis (c.bar true).ok (c.bar true).status) := by
    split
    · exact .refl d
    · exact d.ends_sendRound _ _ _ _ _
  exact (hsent.trans (Dev.ends_fil _ _)).votes.trans (Dev.votes_modColl fun x _ _ => x.sinks_takeVotes _ _)

/-- A round of collective c's close vote whose votes are all in moves on. -/
def Dev.closeRound (d : Dev) (id : Nat) (c : Coll) (votes : List (Nat × Bool × Nat)) : Dev :=
  let x := c.bar true
  let r := combineVotes d.me (x.ok, x.status) votes
  d.modColl id (fun c => c.setBar true { x with axis := x.axis + 1, ok := r.1, status := r.2 })

theorem Dev.votes_closeRound {d : Dev} (hids : d.OwnIds) {id : Nat} {c : Coll} (hc : d.coll? id = some c) (votes : List (Nat × Bool × Nat)) :
    d.Votes (d.closeRound id c votes) := by
  refine Dev.votes_modColl fun x hx hid => ?_
  obtain rfl := Dev.eq_of_coll? hids hc hx hid
  refine .of_close rfl rfl rfl rfl fun hok => ?_
  refine Bool.eq_false_iff.mpr fun h => ?_
  have hown := ((combineVotes_ok_iff _ _ _).mp h).1
  exact Bool.false_ne_true (hok.symm.trans hown)

theorem Dev.barrierRun_succ (d : Dev) (id : Nat) (enter : Bool) (fuel : Nat) : d.barrierRun id true enter (fuel + 1) =
    match d.coll? id with
    | none => d
    | some c =>
      if 3 ≤ (c.bar true).axis then d else
      if (d.lineOf (c.bar true).axis).isEmpty then
        (d.modColl id (fun x => x.setBar true { c.bar true with axis := (c.bar true).axis + 1 })).barrierRun id true true fuel
      else
        let e := if enter then d.enterRound id c else d
        match e.coll? id with
        | none => e
        | some c' =>
          let votes := ((c'.bar true).got.filter (fun g => g.1 = (c'.bar true).axis)).map (fun g => (g.2.1, g.2.2.1, g.2.2.2))
          if (d.lineOf (c.bar true).axis).all (fun i => votes.any (fun v => v.1 = i)) then
            (e.closeRound id c' votes).barrierRun id true true fuel
          else e := rfl

theorem Dev.votes_barrierRun (id : Nat) (fuel : Nat) : ∀ (d : Dev) (enter : Bool), d.OwnIds → d.Votes (d.barrierRun id true enter fuel) := by
  induction fuel with
  | zero => exact fun d _ _ => .refl d
  | succ fuel ih =>
    intro d enter hids
    rw [Dev.barrierRun_succ]
    split
    · exact .refl d
    next c hc =>
    split
    · exact .refl d
    split
    · have hskip : d.Votes (d.modColl id (fun x => x.setBar true { c.bar true with axis := (c.bar true).axis + 1 })) :=
        Dev.votes_modColl fun x hx hid => by
          obtain rfl := Dev.eq_of_coll? hids hc hx hid
          exact .of_close rfl rfl rfl rfl fun h => h
      exact hskip.trans (ih _ true (hskip.ownIds hids))
    · have henter : d.Votes (if enter then d.enterRound id c else d) := by
        split
        · exact d.votes_enterRound id c
        · exact .refl d
      dsimp only
      split
      · exact henter
      next c' hc' =>
      split
      · have hround := fun votes => henter.trans (Dev.votes_closeRound (henter.ownIds hids) hc' votes)
        exact (hround _).trans (ih _ true ((hround _).ownIds hids))
      · exact henter

/-! A vote of FAIL (R225). -/

/-- The vote of a collective whose data phase ends. -/
def Coll.failData (c : Coll) : Coll := { c with aborted := true, phase := .closing, close := { ok := false, status := c.voteStatus } }

/-- The vote of a collective that opens. -/
def Coll.failOpen (c : Coll) : Coll :=
  { c with aborted := true, early := true, open_ := { c.open_ with ok := false, status := if c.open_.status = 0 then 0x86 else c.open_.status } }

theorem Coll.sinks_failData (x : Coll) : x.Sinks x.failData :=
  ⟨rfl, rfl, fun _ => Or.inl rfl, fun _ => ⟨rfl, rfl⟩, fun _ => Or.inr ⟨rfl, rfl⟩⟩

theorem Coll.sinks_failOpen (x : Coll) : x.Sinks x.failOpen :=
  ⟨rfl, rfl, fun h => h.imp (fun hx => hx) fun hx => ⟨hx.1, rfl⟩, fun h => h, fun h => Or.inl h⟩

/-- Every collective of a number has voted. -/
def Dev.HasVoted (d : Dev) (id : Nat) : Prop := ∀ x ∈ d.colls, x.id = id → x.Voted

theorem Dev.Votes.hasVoted {d e : Dev} (h : d.Votes e) {id : Nat} (hvoted : d.HasVoted id) : e.HasVoted id := fun y hy hid => by
  obtain ⟨x, hx, hxy⟩ := h.sinks y hy
  exact hxy.voted (hvoted x hx (hxy.id.symm.trans hid))

theorem Dev.hasVoted_modColl {d : Dev} {id : Nat} {f : Coll → Coll} (hf : ∀ x ∈ d.colls, x.id = id → (f x).Voted) :
    (d.modColl id f).HasVoted id := fun y hy hyid => by
  obtain ⟨x, hx, rfl⟩ := List.mem_map.mp hy
  by_cases h : x.id = id
  · rw [if_pos (by simpa using h)]
    exact hf x hx h
  · rw [if_neg (by simpa using h)] at hyid
    exact absurd hyid h

theorem Dev.voteFail_eq (d : Dev) (id : Nat) : d.voteFail id =
    match d.coll? id with
    | none => d
    | some c =>
      match c.phase with
      | .waiting => { d with colls := d.colls.filter (fun x => x.id ≠ id) }
      | .closing => d
      | .opening =>
        match (d.modColl id Coll.failOpen).firstAxis with
        | some axis =>
          if c.early then d.modColl id Coll.failOpen
          else (d.modColl id Coll.failOpen).sendRound id true axis false ({ c with aborted := true } : Coll).voteStatus
        | none => d.modColl id Coll.failOpen
      | .data => (d.modColl id Coll.failData).barrierRun id true true 4 := rfl

/-- The collective votes, and nothing opens. -/
theorem Dev.votes_voteFail {d : Dev} (hids : d.OwnIds) (id : Nat) : d.Votes (d.voteFail id) ∧ (d.voteFail id).HasVoted id := by
  rw [Dev.voteFail_eq]
  split
  · next hnone => exact ⟨.refl d, fun x hx hid => absurd hid (by simpa using List.find?_eq_none.mp hnone x hx)⟩
  next c hc =>
  have hphase : ∀ x ∈ d.colls, x.id = id → x.phase = c.phase := fun x hx hid => by rw [Dev.eq_of_coll? hids hc hx hid]
  split
  · exact ⟨d.votes_filter _, fun x hx hid => absurd hid (by simpa using (List.mem_filter.mp hx).2)⟩
  · next hclosing => exact ⟨.refl d, fun x hx hid => Or.inl ((hphase x hx hid).trans hclosing)⟩
  · next hopening =>
    have hvotes : d.Votes (d.modColl id Coll.failOpen) := Dev.votes_modColl fun x _ _ => x.sinks_failOpen
    have hvoted : (d.modColl id Coll.failOpen).HasVoted id :=
      Dev.hasVoted_modColl fun x hx hid => Or.inr ⟨(hphase x hx hid).trans hopening, rfl⟩
    split
    · split
      · exact ⟨hvotes, hvoted⟩
      · have hsent := fun axis status => (Dev.ends_sendRound (d.modColl id Coll.failOpen) id true axis false status).votes
        exact ⟨hvotes.trans (hsent _ _), (hsent _ _).hasVoted hvoted⟩
    · exact ⟨hvotes, hvoted⟩
  · have hvotes : d.Votes (d.modColl id Coll.failData) := Dev.votes_modColl fun x _ _ => x.sinks_failData
    have hvoted : (d.modColl id Coll.failData).HasVoted id := Dev.hasVoted_modColl fun _ _ _ => Or.inl rfl
    have hrun := Dev.votes_barrierRun id 4 _ true (hvotes.ownIds hids)
    exact ⟨hvotes.trans hrun, hrun.hasVoted hvoted⟩

/-- Votes of FAIL one after the other. -/
theorem Dev.votes_voteFails (ids : List Nat) {d : Dev} (hids : d.OwnIds) :
    d.Votes (ids.foldl Dev.voteFail d) ∧ ∀ id ∈ ids, (ids.foldl Dev.voteFail d).HasVoted id := by
  induction ids generalizing d with
  | nil => exact ⟨.refl d, fun _ h => absurd h List.not_mem_nil⟩
  | cons i ids ih =>
    obtain ⟨hvotes, hvoted⟩ := Dev.votes_voteFail hids i
    obtain ⟨hrest, hrests⟩ := ih (hvotes.ownIds hids)
    refine ⟨hvotes.trans hrest, fun id hid => ?_⟩
    rcases List.mem_cons.mp hid with rfl | hmem
    · exact hrest.hasVoted hvoted
    · exact hrests id hmem

/-! The end of a collective (R225), and of the layer that it fails (R59). -/

theorem Dev.winds_routing (d : Dev) (routing : Routing)
    (h : ∀ l, routing.layer = some l → ∃ m, d.routing.layer = some m ∧ m.ctx = l.ctx) : d.Winds { d with routing := routing } :=
  { Dev.Winds.refl d with layer := h }

theorem Dev.ends_setReFault (d : Dev) (i ctx half layer code addr : Nat) : d.Ends (d.setReFault i ctx half layer code addr) := by
  unfold Dev.setReFault
  split
  · exact .refl d
  · exact (d.ends_wr _ (by simp only [Reg.reFault]; omega)).trans (Dev.ends_wr _ _ (by simp only [Reg.reFaultAddr]; omega))

/-- What is undone of an abandoned layer: plan buffers, admissions of its batch change list, demand pins; the fault is recorded and logged. -/
def Dev.unwindLayer (d : Dev) (l : Layer) : Dev :=
  ((((l.joined.foldl (fun d j => d.freeSlot l.ctx j.1)
    (((d.dropLayer l).reclaim (reclaimPat (.step l.number 0))).reclaim (reclaimPat (.step l.number 1)))).dropDemandPins l.ctx).setReFault
    0 l.ctx l.half l.number 0x0C 0).log { code := 0x0C, ctx := some l.ctx, domain := 34 }).finish l.ring l.seq 0x0C false l.result0 l.stepSeq

theorem Dev.ends_unwindLayer (d : Dev) (l : Layer) : (d.dropLayer l).Ends (d.unwindLayer l) :=
  ((((((Dev.ends_reclaim _ _).trans (Dev.ends_reclaim _ _)).trans (Dev.ends_foldl _ (fun e _ => e.ends_freeSlot _ _) _ _)).trans
    (Dev.ends_dropDemandPins _ _)).trans (Dev.ends_setReFault _ _ _ _ _ _ _)).trans (Dev.ends_log _ _)).trans (Dev.ends_finish _ _ _ _ _ _ _)

theorem Dev.winds_dropLayer (d : Dev) (l : Layer) : d.Winds (d.dropLayer l) := d.winds_routing _ fun _ h => absurd h nofun

theorem Dev.votes_abandonStep (d : Dev) : d.Votes d.abandonStep := by
  cases hl : d.routing.layer with
  | none =>
    unfold Dev.abandonStep
    rw [hl]
    exact .refl d
  | some l =>
    have hunwind : d.Votes (d.unwindLayer l) := (Dev.Votes.of_colls (d.winds_dropLayer l) rfl).trans (d.ends_unwindLayer l).votes
    unfold Dev.abandonStep
    rw [hl]
    dsimp only
    split
    · exact hunwind.trans (Dev.ends_settleOcc (d.unwindLayer l) l.ctx _ none).votes
    · exact hunwind

/-- A collective reports once and keeps no buffers. -/
def Coll.report (c : Coll) : Coll := { c with reported := true, bufs := [] }

/-- A collective that has reported: its buffers have returned and a failure is counted. -/
def Dev.markReported (d : Dev) (id : Nat) (c : Coll) : Dev :=
  let e := c.bufs.foldl Dev.hwFree (d.modColl id Coll.report)
  if c.result = 0 then e else e.bump Reg.collCntFailed 1

theorem Dev.votes_markReported (d : Dev) (id : Nat) (c : Coll) : d.Votes (d.markReported id c) := by
  have hfreed : d.Votes (c.bufs.foldl Dev.hwFree (d.modColl id Coll.report)) :=
    (Dev.votes_modColl (f := Coll.report) fun x _ _ => .of_close rfl rfl rfl rfl fun h => h).trans (Dev.ends_foldl _ Dev.ends_hwFree _ _).votes
  unfold Dev.markReported
  dsimp only
  split
  · exact hfreed
  · exact hfreed.trans (Dev.ends_bump _ 1 (by decide)).votes

/-- A collective's command ends, its failure logged. -/
def Dev.endCollJob (d : Dev) (c : Coll) : Dev :=
  let d := match d.job? c.ring c.seq with
    | some j => if c.result = 0 then d else d.log { code := c.result, ctx := some c.ctx, domain := 33, addr := fldOf j.cmd 24 47 0, kind := 1 }
    | none => d
  d.finish c.ring c.seq c.result false c.id 0

theorem Dev.ends_endCollJob (d : Dev) (c : Coll) : d.Ends (d.endCollJob c) := by
  unfold Dev.endCollJob
  refine Dev.Ends.trans ?_ (Dev.ends_finish _ _ _ _ _ _ _)
  split
  · split
    · exact .refl d
    · exact d.ends_log _
  · exact .refl d

theorem Dev.collReport_eq (d : Dev) (id : Nat) : d.collReport id =
    match d.coll? id with
    | none => d
    | some c =>
      if c.reported then d else
      let e := d.markReported id c
      match c.re, e.routing.layer with
      | some (half, dir), some l =>
        if !l.owns c then e
        else if c.result = 0 then
          { e with routing := { e.routing with layer := some (if half = 0 then { l with a := l.a.collOk dir } else { l with b := l.b.collOk dir }) } }
        else ((e.colls.filter (fun x => l.owns x && !x.reported)).map (fun x => x.id)).foldl Dev.voteFail e.abandonStep
      | some _, none => e
      | none, _ => e.endCollJob c := rfl

theorem Dev.votes_collReport {d : Dev} (hids : d.OwnIds) (id : Nat) : d.Votes (d.collReport id) := by
  rw [Dev.collReport_eq]
  split
  · exact .refl d
  next c hc =>
  have hmark := d.votes_markReported id c
  split
  · exact .refl d
  dsimp only
  split
  · next hre hl =>
    split
    · exact hmark
    · split
      · refine hmark.trans (.of_colls (Dev.winds_routing _ _ fun l' hl' => ⟨_, hl, ?_⟩) rfl)
        obtain rfl := Option.some.inj hl'
        split <;> rfl
      · have hstep := hmark.trans (Dev.votes_abandonStep _)
        exact hstep.trans (Dev.votes_voteFails _ (hstep.ownIds hids)).1
  · exact hmark
  · exact hmark.trans (Dev.ends_endCollJob _ c).votes

/-- Collectives whose close vote has finished leave. -/
theorem Dev.votes_collSweep {d : Dev} (hids : d.OwnIds) : d.Votes d.collSweep := by
  have hreports : ∀ (ids : List Nat) {e : Dev}, e.OwnIds → e.Votes (ids.foldl Dev.collReport e) := fun ids _ he =>
    Dev.votes_foldl _ (fun _ i h => Dev.votes_collReport h i) ids he
  unfold Dev.collSweep
  dsimp only
  refine Dev.Votes.trans ?_ (Dev.votes_filter _ _)
  have hfirst := hreports ((d.colls.filter (fun c => decide (c.phase = .closing) && decide (3 ≤ c.close.axis))).map (fun c => c.id)) hids
  exact hfirst.trans (hreports _ (hfirst.ownIds hids))

end Sys2Proof.Machine
end

section
/-! The stages of a teardown (R103, R311, R327, Table 13.2), one after the other. -/

namespace Sys2Proof.Machine

/-! The stages. -/

section
variable (d : Dev) (c : Nat)

/-- The context is torn down with its cause, and the teardown counted. -/
def Dev.markTorn (cause : Nat) : Dev :=
  (d.modCtx c (fun x => { x with mode := .tearing, cause := cause, runnable := false, resv := 0, resLeft := 0, tornAt := some d.glb.hubNow })).bump
    Reg.glbCtxCntTeardown 1

/-- The completion record of a command that the teardown ends. -/
def Dev.tornRecord (d : Dev) (j : Job) : Record :=
  let (r0, r1) := d.tornResults j
  d.recordOf j 0xB4 false r0 r1

/-- The context's commands with their records. -/
def Dev.tornRecords : List (Job × Record) := (d.jobs.filter (fun j => j.ctx = c)).map (fun j => (j, d.tornRecord j))

/-- The context's occurrences and saved cores are forgotten. -/
def Dev.forgetCtx : Dev :=
  let gone := (d.ctx c).occs.map (fun o => (c, o.id))
  let e : Dev := { d with tb := { d.tb with hmDue := d.tb.hmDue.filter (fun e => !gone.contains e),
                                            flushes := d.tb.flushes.filter (fun f => f.ctx ≠ c) } }
  e.modCtx c (fun x => { x with occs := [], fence := [], saved := [], restoring := [] })

/-- A command ends with its record. -/
def Dev.endRecord (x : Job × Record) : Dev := d.endJob x.1 x.2

/-- Commands end with their records. -/
def Dev.endRecords (records : List (Job × Record)) : Dev := records.foldl Dev.endRecord d

/-- A ring is disabled with nothing fetched (R311). -/
def Dev.stopRing (r : Nat) : Dev := (d.wrFld (Reg.ringCtrl r) 0 0 0).modRing r (fun x => { x with fetched := [], starve := 0, promoted := false })

/-- The context's rings are disabled. -/
def Dev.stopRings : Dev := (d.enabledRings.filter (fun r => d.ringCtx r = c)).foldl (fun d r => d.stopRing r) d

/-- The records of the context go. -/
def Dev.dropRecords : Dev := { d with records := d.records.filter (fun r => r.ctx ≠ c) }

/-- The context's layer is taken from the engines. -/
def Dev.dropLayerOf : Dev :=
  match d.routing.layer with
  | some l => if l.ctx = c then d.dropLayer l else d
  | none => d

/-- The context's collectives vote FAIL. -/
def Dev.failColls : Dev := (((d.colls.filter (fun x => x.ctx = c)).map (fun x => x.id)).foldl Dev.voteFail d).collSweep

/-- The context's Clasps vote no, its memory-semantic requests go. -/
def Dev.muteRequests : Dev :=
  let muted (x : Clasp) : Clasp := { x with ok := false }
  let e : Dev := { d with tb := { d.tb with clasps := updWhere (fun x => x.ctx = c) muted d.tb.clasps } }
  { e with remote := { e.remote with reqs := e.remote.reqs.filter (fun r => r.ctx ≠ c || r.core = 576) } }

/-- Its accesses that wait, its pins and its admissions go. -/
def Dev.dropMigration : Dev :=
  let e := ((d.dropParts c).dropDemandPins c).dropStage c
  { e with mig := { e.mig with stageReqs := e.mig.stageReqs.filter (fun e => e.1 ≠ c) } }

/-- No draw on its reservation is left. -/
def Dev.dropDraws : Dev := { d with pwr := { d.pwr with fromRes := d.pwr.fromRes.filter (fun e => e.2.1 ≠ c) } }

theorem Dev.tearDown_live (cause : Nat) (h : (d.ctx c).mode = .live) : d.tearDown c cause =
    (((((((((((d.markTorn c cause).forgetCtx c).endRecords ((d.markTorn c cause).tornRecords c)).stopRings c).tearCores c).dropRecords c).dropLayerOf c).failColls
      c).muteRequests c).dropMigration c).freeSlots c).dropDraws c := by
  unfold Dev.tearDown
  rw [if_neg (not_not_intro h)]
  extract_lets d1 torn records gone tb d2 d3 d4 d5 d6 d7 d8 ids d9 muted tb' d10 remote d11 d12 mig d13 d14 pwr
  have h3 : d3 = d1.forgetCtx c := rfl
  have h4 : d4 = d3.endRecords (d1.tornRecords c) := rfl
  have h5 : d5 = d4.stopRings c := rfl
  have h6 : d6 = d5.tearCores c := rfl
  have h7 : d7 = d6.dropRecords c := rfl
  have h8 : d8 = d7.dropLayerOf c := rfl
  have h9 : d9 = d8.failColls c := rfl
  have h11 : d11 = d9.muteRequests c := rfl
  have h13 : d13 = d11.dropMigration c := rfl
  have h14 : d14 = d13.freeSlots c := rfl
  show d14.dropDraws c = _
  rw [h14, h13, h11, h9, h8, h7, h6, h5, h4, h3]
  rfl

end

/-! The context and its commands. -/

theorem Dev.ctx_bump (d : Dev) (off n c : Nat) : (d.bump off n).ctx c = d.ctx c := rfl

section
variable (d : Dev) (c cause : Nat)

/-- A context that is torn down, forgets. -/
theorem Dev.ctx_forgetCtx : ((d.markTorn c cause).forgetCtx c).ctx c =
    { d.ctx c with mode := .tearing, cause := cause, runnable := false, resv := 0, resLeft := 0, tornAt := some d.glb.hubNow, occs := [], fence := [],
                   saved := [], restoring := [] } := by
  rw [Dev.forgetCtx, Dev.ctx_modCtx_same]
  show { (d.markTorn c cause).ctx c with occs := [], fence := [], saved := [], restoring := [] } = _
  rw [Dev.markTorn, Dev.ctx_bump, Dev.ctx_modCtx_same]

theorem Dev.ctx_forgetCtx_other {x : Nat} (h : x ≠ c) : ((d.markTorn c cause).forgetCtx c).ctx x = d.ctx x := by
  rw [Dev.forgetCtx, Dev.ctx_modCtx_other _ _ _ _ h]
  show (d.markTorn c cause).ctx x = _
  rw [Dev.markTorn, Dev.ctx_bump, Dev.ctx_modCtx_other _ _ _ _ h]

theorem Dev.rd_forgetCtx (off : Nat) : ((d.markTorn c cause).forgetCtx c).rd off = (d.bump Reg.glbCtxCntTeardown 1).rd off := rfl

/-- A record shows the results of its command as they stood before the teardown. -/
theorem Dev.tornRecord_eq (j : Job) : (d.markTorn c cause).tornRecord j =
    (d.markTorn c cause).recordOf j 0xB4 false (d.tornResults j).1 (d.tornResults j).2 := by
  have hseq : ((d.markTorn c cause).ctx j.ctx).stepSeq = (d.ctx j.ctx).stepSeq := by
    rw [Dev.markTorn, Dev.ctx_bump]
    by_cases hj : j.ctx = c
    · rw [hj, Dev.ctx_modCtx_same]
    · rw [Dev.ctx_modCtx_other _ _ _ _ hj]
  have hresults : (d.markTorn c cause).tornResults j = d.tornResults j := by
    unfold Blocks.tornResults
    rw [hseq]
    rfl
  unfold Dev.tornRecord
  rw [hresults]

end

theorem Dev.jobs_endJob {d : Dev} {j x : Job} {r : Record} (h : x ∈ (d.endJob j r).jobs) : x ∈ d.jobs ∧ ¬ (x.ring = j.ring ∧ x.seq = j.seq) := by
  have hleft : x ∈ (d.leaveWindow j r).jobs := by
    rw [Dev.endJob_leaves] at h
    split at h
    · exact (Dev.ends_endStages _ _).jobs x h
    · exact (Dev.ends_endStages _ _).jobs x ((Dev.ends_post _ _ _).jobs x h)
  obtain ⟨hmem, hnot⟩ := List.mem_filter.mp hleft
  exact ⟨hmem, by simpa only [Bool.not_eq_true', Bool.and_eq_false_iff, decide_eq_false_iff_not, not_and_or] using hnot⟩

/-- A record whose status is not zero waits in its ring. -/
theorem Dev.hold_endJob (d : Dev) (j : Job) {r : Record} (h : r.status ≠ 0) : r ∈ ((d.endJob j r).ring j.ring).hold := by
  rw [Dev.endJob_leaves, if_neg (by simp [h]), Dev.post, Dev.ring_modRing_same]
  exact List.mem_append_right _ (List.mem_singleton_self r)

section
variable (records : List (Job × Record))

theorem Dev.ends_endRecords (d : Dev) : d.Ends (d.endRecords records) :=
  Dev.ends_foldl Dev.endRecord (fun e x => e.ends_endJob x.1 x.2) records d

theorem Dev.endRecords_cons (d : Dev) (x : Job × Record) : d.endRecords (x :: records) = (d.endJob x.1 x.2).endRecords records := rfl

/-- Commands that end leave, and their records wait. -/
theorem Dev.endRecords_leaves (d : Dev) {e : Job × Record} (he : e ∈ records) :
    (∀ x ∈ (d.endRecords records).jobs, ¬ (x.ring = e.1.ring ∧ x.seq = e.1.seq)) ∧
    (e.2.status ≠ 0 → e.2 ∈ ((d.endRecords records).ring e.1.ring).hold) := by
  induction records generalizing d with
  | nil => exact absurd he List.not_mem_nil
  | cons y ys ih =>
    have hrest := Dev.ends_endRecords ys (d.endJob y.1 y.2)
    rw [Dev.endRecords_cons]
    rcases List.mem_cons.mp he with rfl | hmem
    · exact ⟨fun x hx => (Dev.jobs_endJob (hrest.jobs x hx)).2, fun hstatus => hrest.hold _ _ (d.hold_endJob e.1 hstatus)⟩
    · exact ih (d.endJob y.1 y.2) hmem

end

/-! The context's rings (R311). -/

/-- A table that holds another value than its default somewhere has an entry there. -/
theorem mem_of_tabGet_ne {α : Type} {dflt : α} {t : Tab α} {k : Nat} (h : tabGet dflt t k ≠ dflt) : (k, tabGet dflt t k) ∈ t := by
  induction t with
  | nil => exact absurd rfl h
  | cons e t ih =>
    obtain ⟨k', v⟩ := e
    unfold tabGet at h ⊢
    split
    · next hk => rw [hk]; exact List.mem_cons_self
    · next hk =>
      rw [if_neg hk] at h
      exact List.mem_cons_of_mem _ (ih h)

theorem regReset_ringCtrl {r : Nat} (hr : r < 4096) : regReset (Reg.ringCtrl r) = 0x70 := by
  rw [regReset, ← Nat.add_zero (Reg.ringCtrl r), regAt_ring r 0 hr (by decide)]
  rfl

/-- A ring with ENABLE = 1 is found. -/
theorem Blocks.mem_enabledRings {b : Blocks} {r : Nat} (hr : r < 4096) (h : b.flag (Reg.ringCtrl r) 0 = true) : r ∈ b.enabledRings := by
  have hodd : b.rd (Reg.ringCtrl r) % 2 = 1 := by simpa [Blocks.flag, bitOf] using h
  have hne : tabGet (regReset (Reg.ringCtrl r)) b.regs (Reg.ringCtrl r) ≠ regReset (Reg.ringCtrl r) := fun heq => by
    rw [Blocks.rd, heq, regReset_ringCtrl hr] at hodd
    exact absurd hodd (by decide)
  refine List.mem_map.mpr ⟨_, List.mem_filter.mpr ⟨mem_of_tabGet_ne hne, ?_⟩, ?_⟩
  · simp only [Bool.and_eq_true, decide_eq_true_eq]
    exact ⟨⟨⟨by simp only [Reg.ringCtrl]; omega, by simp only [Reg.ringCtrl]; omega⟩, by simp only [Reg.ringCtrl]; omega⟩, hodd⟩
  · simp only [Reg.ringCtrl]
    omega

theorem ringCtrl_inj {r q : Nat} (h : Reg.ringCtrl r = Reg.ringCtrl q) : r = q := by
  simp only [Reg.ringCtrl] at h
  omega

/-- The ring is disabled and holds nothing fetched. -/
def Dev.Stopped (d : Dev) (r : Nat) : Prop := d.flag (Reg.ringCtrl r) 0 = false ∧ (d.ring r).fetched = []

theorem Dev.stopped_stopRing (d : Dev) (r : Nat) : (d.stopRing r).Stopped r := by
  refine ⟨?_, by rw [Dev.stopRing, Dev.ring_modRing_same]⟩
  show bitOf ((d.wrFld (Reg.ringCtrl r) 0 0 0).rd (Reg.ringCtrl r)) 0 = false
  rw [Dev.rd_wrFld_same _ _ _ (by decide), bitOf_setBits]
  rfl

theorem Dev.stopped_stopRing_of (d : Dev) (q : Nat) {r : Nat} (h : d.Stopped r) : (d.stopRing q).Stopped r := by
  by_cases hq : r = q
  · rw [hq]
    exact d.stopped_stopRing q
  · refine ⟨?_, by rw [Dev.stopRing, Dev.ring_modRing_other _ _ _ _ hq]; exact h.2⟩
    show bitOf ((d.wrFld (Reg.ringCtrl q) 0 0 0).rd (Reg.ringCtrl r)) 0 = false
    rw [Dev.rd_wrFld_other _ _ _ _ fun heq => hq (ringCtrl_inj heq)]
    exact h.1

/-- Registers and rings alone; records that wait go on waiting, and registers of no ring stand. -/
structure Dev.RingFrame (d e : Dev) : Prop where
  eq : ∃ regs rings, e = { d with regs := regs, rings := rings }
  hold : ∀ q, (e.ring q).hold = (d.ring q).hold
  rd : ∀ off, off < 0x01000000 → e.rd off = d.rd off

theorem Dev.ringFrame_stopRing (d : Dev) (r : Nat) : d.RingFrame (d.stopRing r) := by
  refine ⟨⟨_, _, rfl⟩, fun q => ?_, fun off hoff => ?_⟩
  · by_cases hq : q = r
    · rw [hq, Dev.stopRing, Dev.ring_modRing_same]
      rfl
    · rw [Dev.stopRing, Dev.ring_modRing_other _ _ _ _ hq]
      rfl
  · exact Dev.rd_wrFld_other d 0 0 0 (by simp only [Reg.ringCtrl]; omega)

theorem Dev.RingFrame.trans {d e f : Dev} (h : d.RingFrame e) (k : e.RingFrame f) : d.RingFrame f := by
  refine ⟨?_, fun q => (k.hold q).trans (h.hold q), fun off hoff => (k.rd off hoff).trans (h.rd off hoff)⟩
  obtain ⟨_, _, rfl⟩ := h.eq
  obtain ⟨_, _, rfl⟩ := k.eq
  exact ⟨_, _, rfl⟩

theorem Dev.ringFrame_stopRings (d : Dev) (c : Nat) : d.RingFrame (d.stopRings c) :=
  foldl_keeps d.RingFrame (fun e r h => h.trans (e.ringFrame_stopRing r)) _ ⟨⟨_, _, rfl⟩, fun _ => rfl, fun _ _ => rfl⟩

/-- Every ring of a list is stopped. -/
theorem Dev.stopped_of_mem {rs : List Nat} {r : Nat} (hr : r ∈ rs) (d : Dev) : (rs.foldl (fun d r => d.stopRing r) d).Stopped r := by
  induction rs generalizing d with
  | nil => exact absurd hr List.not_mem_nil
  | cons q rs ih =>
    rcases List.mem_cons.mp hr with rfl | hmem
    · exact foldl_keeps (fun e : Dev => e.Stopped r) (fun e q h => e.stopped_stopRing_of q h) rs (d.stopped_stopRing r)
    · exact ih hmem (d.stopRing q)

theorem Dev.stopped_stopRings {d : Dev} {c r : Nat} (hr : r < 4096) (hctx : d.ringCtx r = c) (henable : d.flag (Reg.ringCtrl r) 0 = true) :
    (d.stopRings c).Stopped r :=
  Dev.stopped_of_mem (List.mem_filter.mpr ⟨Blocks.mem_enabledRings hr henable, decide_eq_true hctx⟩) d

end Sys2Proof.Machine
end

section
/-! The cores of a teardown (R78, R331, Table 13.2). -/

namespace Sys2Proof.Machine

/-! A core that is given up. -/

/-- The core runs a program of the context. -/
def Core.runs (x : Core) (c : Nat) : Bool := x.prog.any (fun g => g.ctx = c)

/-- The core has something of the context. -/
def Core.has (x : Core) (c : Nat) : Bool := x.owner = some c || x.runs c || x.suspended.any (fun g => g.ctx = c)

/-- A core without what is the context's. -/
def Core.without (x : Core) (c : Nat) : Core :=
  { x with prog := if x.runs c then none else x.prog, owner := if x.owner = some c then none else x.owner,
           incoming := if x.runs c then none else x.incoming, suspended := x.suspended.filter (fun g => g.ctx ≠ c) }

section
variable (x : Core) (c : Nat)

theorem Core.runs_without : (x.without c).runs c = false := by
  by_cases h : x.runs c = true
  · have hprog : (x.without c).prog = none := if_pos h
    rw [Core.runs, hprog]
    rfl
  · have hprog : (x.without c).prog = x.prog := if_neg h
    rw [Core.runs, hprog]
    exact Bool.eq_false_iff.mpr h

theorem Core.owner_without : (x.without c).owner ≠ some c := by
  unfold Core.without
  dsimp only
  split
  · exact nofun
  · next h => exact h

theorem Core.suspended_without {g : Prog} (h : g ∈ (x.without c).suspended) : g.ctx ≠ c := by simpa using (List.mem_filter.mp h).2

theorem Core.without_without : (x.without c).without c = x.without c := by
  have hruns := x.runs_without c
  have howner := x.owner_without c
  have hsuspended : (x.without c).suspended.filter (fun g => g.ctx ≠ c) = (x.without c).suspended :=
    List.filter_eq_self.mpr fun g hg => by simpa using x.suspended_without c hg
  rw [Core.without, hruns, if_neg howner, hsuspended]
  rfl

/-- A core that has nothing of the context. -/
theorem Core.without_of_not_has (h : x.has c = false) : x.without c = x := by
  simp only [Core.has, Bool.or_eq_false_iff, decide_eq_false_iff_not] at h
  obtain ⟨⟨howner, hruns⟩, hsuspended⟩ := h
  have hall : x.suspended.filter (fun g => g.ctx ≠ c) = x.suspended :=
    List.filter_eq_self.mpr fun g hg => by simpa using List.any_eq_false.mp hsuspended g hg
  rw [Core.without, hruns, if_neg howner, hall]
  rfl

/-- What is left, and what stays. -/
theorem Core.without_spec : (x.without c).owner ≠ some c ∧ (∀ g, (x.without c).prog = some g → g.ctx ≠ c) ∧
    (∀ g ∈ (x.without c).suspended, g.ctx ≠ c) ∧ (∀ g, x.prog = some g → g.ctx ≠ c → (x.without c).prog = some g) ∧
    (∀ o, x.owner = some o → o ≠ c → (x.without c).owner = some o) := by
  refine ⟨x.owner_without c, fun g hg => ?_, fun g => x.suspended_without c, fun g hg hctx => ?_, fun o ho hne => ?_⟩
  · have hruns := x.runs_without c
    simpa [Core.runs, hg] using hruns
  · have hruns : x.runs c = false := by simpa [Core.runs, hg] using hctx
    rw [Core.without, hruns]
    exact hg
  · rw [Core.without, ho]
    exact if_neg fun heq => hne (Option.some.inj heq)

end

/-! Carats. -/

/-- A requester holds no carats and waits for none. -/
def Dev.Bare (d : Dev) (p : Nat) : Prop := d.holds p = 0 ∧ ∀ r ∈ d.pwr.waiting, r.req ≠ p

/-- What changes as a core is given up: registers of cores, cores, carats, contexts' reservations and the owners of stores that wait. -/
structure Dev.TearFrame (d e : Dev) : Prop where
  eq : ∃ regs cores pwr ctxs remote, e = { d with regs := regs, cores := cores, pwr := pwr, ctxs := ctxs, remote := remote }
  rd : ∀ off, off < 0x02000000 → e.rd off = d.rd off
  ctx : ∀ c, (d.ctx c).Wanes (e.ctx c)
  bare : ∀ p, d.Bare p → e.Bare p

theorem Dev.TearFrame.refl (d : Dev) : d.TearFrame d := ⟨⟨_, _, _, _, _, rfl⟩, fun _ _ => rfl, fun _ => .refl _, fun _ h => h⟩

theorem Dev.TearFrame.trans {d e f : Dev} (h : d.TearFrame e) (k : e.TearFrame f) : d.TearFrame f := by
  refine ⟨?_, fun off hoff => (k.rd off hoff).trans (h.rd off hoff), fun c => (h.ctx c).trans (k.ctx c), fun p hp => k.bare p (h.bare p hp)⟩
  obtain ⟨_, _, _, _, _, rfl⟩ := h.eq
  obtain ⟨_, _, _, _, _, rfl⟩ := k.eq
  exact ⟨_, _, _, _, _, rfl⟩

theorem Dev.tearFrame_foldl {α : Type} (f : Dev → α → Dev) (hf : ∀ (d : Dev) a, d.TearFrame (f d a)) (xs : List α) (d : Dev) :
    d.TearFrame (xs.foldl f d) := foldl_keeps d.TearFrame (fun e a h => h.trans (hf e a)) xs (.refl d)

theorem Dev.tearFrame_bump (d : Dev) {off : Nat} (n : Nat) (h : 0x02000000 ≤ off) : d.TearFrame (d.bump off n) :=
  ⟨⟨_, _, _, _, _, rfl⟩, fun _ hoff => d.rd_bump_other n (by omega), fun _ => .refl _, fun _ hp => hp⟩

theorem Dev.tearFrame_modCore (d : Dev) (p : Nat) (f : Core → Core) : d.TearFrame (d.modCore p f) :=
  ⟨⟨_, _, _, _, _, rfl⟩, fun _ _ => rfl, fun _ => .refl _, fun _ hp => hp⟩

theorem Dev.tearFrame_discard (d : Dev) (p : Nat) (g : Prog) (is : List Issued) : d.TearFrame (d.discard p g is) := by
  have hslotM : ∀ n, d.TearFrame (if n = 0 then d else d.bump (Reg.coreCntTdWasted p) n) := fun n => by
    split
    · exact .refl d
    · exact d.tearFrame_bump n (by simp only [Reg.coreCntTdWasted]; omega)
  unfold Dev.discard
  dsimp only
  split
  · exact hslotM _
  · exact (hslotM _).trans (Dev.tearFrame_foldl _ (fun e q => e.tearFrame_bump _ (by simp only [Reg.coreCntTdWasted]; omega)) _ _)

theorem Dev.tearFrame_dropLines (d : Dev) (p : Nat) : d.TearFrame (d.dropLines p) :=
  ⟨⟨_, _, _, _, _, rfl⟩, fun _ _ => rfl, fun _ => .refl _, fun _ hp => hp⟩

theorem Dev.tearFrame_modCtx (d : Dev) (c : Nat) {f : Ctx → Ctx} (hf : (d.ctx c).Wanes (f (d.ctx c))) : d.TearFrame (d.modCtx c f) :=
  ⟨⟨_, _, _, _, _, rfl⟩, fun _ _ => rfl, (d.ends_modCtx c hf).ctx, fun _ hp => hp⟩

/-- Reservations take back what a requester held from them. -/
def Dev.returnDraws (d : Dev) (req : Nat) : Dev :=
  (d.pwr.fromRes.filter (fun e => e.1 = req)).foldl (fun d e =>
    d.modCtx e.2.1 (fun c => if c.runnable then { c with resLeft := min c.resv (c.resLeft + e.2.2) } else c)) d

theorem Dev.returnCarats_draws (d : Dev) (req : Nat) : d.returnCarats req =
    { d.returnDraws req with pwr := { (d.returnDraws req).pwr with
        held := tabErase req (d.returnDraws req).pwr.held, fromRes := (d.returnDraws req).pwr.fromRes.filter (fun e => e.1 ≠ req) } } := rfl

theorem Dev.tearFrame_returnDraws (d : Dev) (req : Nat) : d.TearFrame (d.returnDraws req) := by
  refine Dev.tearFrame_foldl _ (fun e x => e.tearFrame_modCtx _ ?_) _ d
  split
  · exact ⟨rfl, rfl, rfl, rfl, rfl, rfl, id, id, id⟩
  · exact .refl _

/-- Carats of a core that is given up (R331). -/
theorem Dev.tearFrame_dropCarats (d : Dev) (p : Nat) : d.TearFrame (d.dropCarats p) ∧ (d.dropCarats p).Bare p := by
  have hdraws := (d.withdrawCarats p).tearFrame_returnDraws p
  have hpwr : ((d.withdrawCarats p).returnDraws p).pwr = (d.withdrawCarats p).pwr := by
    refine foldl_keeps (fun e : Dev => e.pwr = (d.withdrawCarats p).pwr) (fun e x h => ?_) _ rfl
    exact h
  rw [Dev.dropCarats, Dev.returnCarats_draws, hpwr]
  refine ⟨⟨?_, fun off hoff => hdraws.rd off hoff, fun c => hdraws.ctx c, fun q hq => ⟨?_, fun r hr => hq.2 r (List.mem_filter.mp hr).1⟩⟩,
    ⟨tabGet_tabErase_same _ _ _, fun r hr => by simpa using (List.mem_filter.mp hr).2⟩⟩
  · obtain ⟨_, _, _, _, _, h⟩ := hdraws.eq
    rw [h]
    exact ⟨_, _, _, _, _, rfl⟩
  · by_cases hqp : q = p
    · rw [hqp]
      exact tabGet_tabErase_same _ _ _
    · exact (tabGet_tabErase_other _ _ _ _ hqp).trans hq.1

/-! A core after the other. -/

/-- A core's program stops: its incomplete instructions are discarded. -/
def Dev.stopCore (d : Dev) (c p : Nat) : Dev :=
  match (d.core p).prog with
  | some g => if g.ctx = c then (d.discard p g g.score).dropLines p else d
  | none => d

/-- A core is given up. -/
def Dev.tearCore (d : Dev) (c p : Nat) : Dev :=
  let e := d.stopCore c p
  let f := if (d.core p).runs c || (d.core p).owner = some c then e.dropCarats p else e
  f.modCore p (fun x => { x with prog := if (d.core p).runs c then none else x.prog, owner := if x.owner = some c then none else x.owner,
                                 incoming := if (d.core p).runs c then none else x.incoming, suspended := x.suspended.filter (fun g => g.ctx ≠ c) })

theorem Dev.tearCores_eq (d : Dev) (c : Nat) : d.tearCores c = (d.coresWhere (fun x => x.has c)).foldl (fun d p => d.tearCore c p) d := rfl

section
variable (d : Dev) (c p : Nat)

theorem Dev.tearFrame_stopCore : d.TearFrame (d.stopCore c p) := by
  unfold Dev.stopCore
  split
  · split
    · exact (d.tearFrame_discard p _ _).trans (Dev.tearFrame_dropLines _ _)
    · exact .refl d
  · exact .refl d

theorem Dev.tearFrame_tearCore : d.TearFrame (d.tearCore c p) := by
  have hstop := d.tearFrame_stopCore c p
  unfold Dev.tearCore
  dsimp only
  refine Dev.TearFrame.trans ?_ (Dev.tearFrame_modCore _ _ _)
  split
  · exact hstop.trans (Dev.tearFrame_dropCarats _ p).1
  · exact hstop

theorem Dev.bare_tearCore (h : (d.core p).runs c = true ∨ (d.core p).owner = some c) : (d.tearCore c p).Bare p := by
  have hdrop : ((d.core p).runs c || decide ((d.core p).owner = some c)) = true := by simpa using h
  unfold Dev.tearCore
  dsimp only
  rw [if_pos hdrop]
  exact (Dev.tearFrame_modCore _ _ _).bare p (Dev.tearFrame_dropCarats _ p).2

end

theorem Dev.cores_discard (d : Dev) (p : Nat) (g : Prog) (is : List Issued) : (d.discard p g is).cores = d.cores := by
  unfold Dev.discard
  dsimp only
  split
  · split
    · rfl
    · rfl
  · refine foldl_keeps (fun e : Dev => e.cores = d.cores) (fun e q h => ?_) g.gang ?_
    · exact h
    · split
      · rfl
      · rfl

theorem Dev.cores_dropCarats (d : Dev) (p : Nat) : (d.dropCarats p).cores = d.cores := by
  obtain ⟨_, _, h⟩ := (d.withdrawCarats p).returnCarats_eq p
  rw [Dev.dropCarats, h]
  rfl

/-- A core that is given up, and no other, changes. -/
theorem Dev.core_tearCore (d : Dev) (c p q : Nat) : (d.tearCore c p).core q = if q = p then (d.core q).without c else d.core q := by
  have hstop : (d.stopCore c p).cores = d.cores := by
    unfold Dev.stopCore
    split
    · split
      · exact d.cores_discard p _ _
      · rfl
    · rfl
  have hdrop : (if ((d.core p).runs c || decide ((d.core p).owner = some c)) = true then (d.stopCore c p).dropCarats p else d.stopCore c p).cores =
      d.cores := by
    split
    · exact (Dev.cores_dropCarats _ _).trans hstop
    · exact hstop
  have hcore : ∀ i, (if ((d.core p).runs c || decide ((d.core p).owner = some c)) = true then (d.stopCore c p).dropCarats p
      else d.stopCore c p).core i = d.core i := fun i => by rw [Blocks.core, hdrop, Blocks.core]
  unfold Dev.tearCore
  dsimp only
  by_cases hq : q = p
  · rw [hq, Dev.core_modCore_same, hcore, if_pos rfl]
    rfl
  · rw [Dev.core_modCore_other _ _ _ _ hq, hcore, if_neg hq]

section
variable (c : Nat) (ps : List Nat)

theorem Dev.tearFrame_tearCores (d : Dev) : d.TearFrame (d.tearCores c) := by
  rw [Dev.tearCores_eq]
  exact Dev.tearFrame_foldl _ (fun e p => e.tearFrame_tearCore c p) _ d

theorem Dev.core_tearFold (d : Dev) (q : Nat) :
    (ps.foldl (fun d p => d.tearCore c p) d).core q = if q ∈ ps then (d.core q).without c else d.core q := by
  induction ps generalizing d with
  | nil => rfl
  | cons p ps ih =>
    rw [List.foldl_cons, ih, Dev.core_tearCore]
    by_cases hq : q = p
    · simp [hq, Core.without_without]
    · simp [hq]

theorem Dev.bare_tearFold {p : Nat} (hp : p ∈ ps) (d : Dev) (h : (d.core p).runs c = true ∨ (d.core p).owner = some c) :
    (ps.foldl (fun d p => d.tearCore c p) d).Bare p := by
  induction ps generalizing d with
  | nil => exact absurd hp List.not_mem_nil
  | cons q ps ih =>
    rw [List.foldl_cons]
    by_cases hq : p = q
    · subst hq
      exact (Dev.tearFrame_foldl _ (fun e r => e.tearFrame_tearCore c r) ps _).bare p (d.bare_tearCore c p h)
    · refine ih ((List.mem_cons.mp hp).resolve_left hq) _ ?_
      rw [Dev.core_tearCore, if_neg hq]
      exact h

end

/-- A core that has something of the context is found. -/
theorem Blocks.mem_coresWhere {b : Blocks} {c p : Nat} (h : (b.core p).has c = true) : p ∈ b.coresWhere (fun x => x.has c) := by
  have hne : b.core p ≠ {} := fun heq => by
    rw [heq] at h
    exact absurd h (by simp [Core.has, Core.runs])
  exact List.mem_map.mpr ⟨_, List.mem_filter.mpr ⟨mem_of_tabGet_ne hne, h⟩, rfl⟩

/-- Every core is without what was the context's. -/
theorem Dev.core_tearCores (d : Dev) (c q : Nat) : (d.tearCores c).core q = (d.core q).without c := by
  rw [Dev.tearCores_eq, Dev.core_tearFold]
  split
  · rfl
  · next hq => exact (Core.without_of_not_has _ _ (Bool.eq_false_iff.mpr fun h => hq (Blocks.mem_coresWhere h))).symm

theorem Dev.bare_tearCores (d : Dev) {c p : Nat} (h : (d.core p).runs c = true ∨ (d.core p).owner = some c) : (d.tearCores c).Bare p := by
  rw [Dev.tearCores_eq]
  exact Dev.bare_tearFold c _ (Blocks.mem_coresWhere (by rcases h with h | h <;> simp [Core.has, h])) d h

end Sys2Proof.Machine
end

section
/-! The end of a teardown: what is left once the cores are given up (R225, R331, Table 13.2). -/

namespace Sys2Proof.Machine

/-! What every late stage leaves. -/

/-- Device e is what device d becomes once a torn context's cores are given up: cores, rings' records and low registers stand. -/
structure Dev.Fades (d e : Dev) : Prop where
  mem : e.loc = d.loc ∧ e.hostMem = d.hostMem
  cores : e.cores = d.cores
  rd : ∀ off, off < 0x02000000 → e.rd off = d.rd off
  ctx : ∀ c, (d.ctx c).Wanes (e.ctx c)
  jobs : ∀ j ∈ e.jobs, j ∈ d.jobs
  fetched : ∀ q, (e.ring q).fetched = (d.ring q).fetched
  hold : ∀ q, ∀ r ∈ (d.ring q).hold, r ∈ (e.ring q).hold
  pwr : d.pwr.Quiet e.pwr

theorem Dev.Fades.trans {d e f : Dev} (h : d.Fades e) (k : e.Fades f) : d.Fades f where
  mem := ⟨k.mem.1.trans h.mem.1, k.mem.2.trans h.mem.2⟩
  cores := k.cores.trans h.cores
  rd := fun off hoff => (k.rd off hoff).trans (h.rd off hoff)
  ctx := fun c => (h.ctx c).trans (k.ctx c)
  jobs := fun j hj => h.jobs j (k.jobs j hj)
  fetched := fun q => (k.fetched q).trans (h.fetched q)
  hold := fun q r hr => k.hold q r (h.hold q r hr)
  pwr := h.pwr.trans k.pwr

theorem Dev.Winds.fades {d e : Dev} (h : d.Winds e) : d.Fades e where
  mem := h.mem
  cores := h.cores.1
  rd := h.rd
  ctx := h.ctx
  jobs := h.jobs
  fetched := h.fetched
  hold := h.hold
  pwr := h.pwr

theorem Dev.Fades.refl (d : Dev) : d.Fades d := (Dev.Winds.refl d).fades

theorem Dev.fades_records (d : Dev) (records : List CoreRecord) : d.Fades { d with records := records } := { Dev.Fades.refl d with }

/-! Migration, sequence slots and carats. -/

theorem Dev.ends_unset (d : Dev) {off : Nat} (h : 0x02000000 ≤ off) : d.Ends (d.unset off) :=
  Dev.ends_engines ⟨_, _, _, _, _, _, _, _, _, _, _, rfl⟩ ⟨rfl, rfl⟩ (fun o ho => by
    show (tabGet _ (tabErase off d.regs) o).toNat = _
    rw [tabGet_tabErase_other _ _ _ _ (by omega)]
    rfl) (.refl _)

theorem regReset_migKvReserved : ∀ c, c < 64 → regReset (Reg.migKvReserved c) = 0 := by decide +kernel

theorem Dev.rd_unset (d : Dev) (off : Nat) : (d.unset off).rd off = (regReset off).toNat := by
  rw [Blocks.rd, Dev.unset, tabGet_tabErase_same]

theorem Dev.rd_modCtx (d : Dev) (c : Nat) (f : Ctx → Ctx) (off : Nat) : (d.modCtx c f).rd off = d.rd off := rfl

/-- The slots of a context are given up with their reservation. -/
theorem Dev.freeSlots_leaves (d : Dev) {c : Nat} (hc : c < 64) :
    d.Ends (d.freeSlots c) ∧ ((d.freeSlots c).ctx c).kvHeld = [] ∧ (d.freeSlots c).rd (Reg.migKvReserved c) = 0 := by
  have hkv : ∀ e : Dev, e.Ends (e.modCtx c (fun x => { x with kvHeld := [] })) := fun e =>
    e.ends_modCtx c ⟨rfl, rfl, rfl, rfl, rfl, rfl, id, id, id⟩
  unfold Dev.freeSlots
  split
  · next hzero => exact ⟨hkv d, by rw [Dev.ctx_modCtx_same], hzero⟩
  · refine ⟨((Dev.ends_foldl _ (fun e n => e.ends_postStore _ _) _ d).trans (Dev.ends_unset _ (by simp only [Reg.migKvReserved]; omega))).trans (hkv _),
      by rw [Dev.ctx_modCtx_same], ?_⟩
    rw [Dev.rd_modCtx, Dev.rd_unset, regReset_migKvReserved c hc]
    rfl

/-- Waits, pins and admissions of a context go. -/
theorem Dev.dropMigration_leaves (d : Dev) (c : Nat) :
    ∃ e : Dev, d.Ends e ∧ d.dropMigration c = { e with mig := { e.mig with stageReqs := e.mig.stageReqs.filter (fun x => x.1 ≠ c) } } ∧
      (e.ctx c).stagePins = [] ∧ (e.ctx c).demandPins = [] := by
  have hparts : d.Ends (d.dropParts c) := d.ends_mig _ rfl
  have hdemand := Dev.ends_dropDemandPins (d.dropParts c) c
  have hstage := Dev.ends_dropStage ((d.dropParts c).dropDemandPins c) c
  refine ⟨_, (hparts.trans hdemand).trans hstage, rfl, ?_, (hstage.ctx c).demandPins ?_⟩
  · rw [Dev.dropStage, Dev.ctx_modCtx_same]
  · rw [Dev.dropDemandPins, Dev.ctx_modCtx_same]

/-- Requests to be sent for a stage, but for a context's. -/
def Dev.withoutStageReqs (d : Dev) (c : Nat) : Dev := { d with mig := { d.mig with stageReqs := d.mig.stageReqs.filter (fun x => x.1 ≠ c) } }

theorem Dev.fades_withoutStageReqs (d : Dev) (c : Nat) : d.Fades (d.withoutStageReqs c) := { Dev.Fades.refl d with }

theorem Dev.fades_muteRequests (d : Dev) (c : Nat) : d.Fades (d.muteRequests c) := { Dev.Fades.refl d with }

theorem Dev.fades_dropDraws (d : Dev) (c : Nat) : d.Fades (d.dropDraws c) := { Dev.Fades.refl d with pwr := ⟨fun _ _ => rfl, fun _ _ h => h⟩ }

/-- The last stages: requests, Clasps, migration, slots and draws. -/
def Dev.dropRest (d : Dev) (c : Nat) : Dev := (((d.muteRequests c).dropMigration c).freeSlots c).dropDraws c

/-- The last stages by what they end. -/
theorem Dev.dropRest_eq (d : Dev) {c : Nat} (hc : c < 64) : ∃ e f : Dev, (d.muteRequests c).Ends e ∧ (e.withoutStageReqs c).Ends f ∧
    d.dropRest c = f.dropDraws c ∧ f.rd (Reg.migKvReserved c) = 0 ∧ (f.ctx c).stagePins = [] ∧ (f.ctx c).demandPins = [] ∧ (f.ctx c).kvHeld = [] := by
  obtain ⟨e, hends, heq, hstage, hdemand⟩ := (d.muteRequests c).dropMigration_leaves c
  obtain ⟨hslots, hkv, hrd⟩ := (e.withoutStageReqs c).freeSlots_leaves hc
  exact ⟨e, _, hends, hslots, by rw [Dev.dropRest, heq, Dev.withoutStageReqs], hrd, (hslots.ctx c).stagePins hstage, (hslots.ctx c).demandPins hdemand, hkv⟩

theorem Dev.dropRest_leaves (d : Dev) {c : Nat} (hc : c < 64) : d.Fades (d.dropRest c) ∧
    ((d.dropRest c).records = d.records ∧ (d.dropRest c).routing = d.routing ∧ (d.dropRest c).colls = d.colls) ∧
    ((∀ r ∈ (d.dropRest c).remote.reqs, r.ctx = c → r.core = 576) ∧ (∀ e ∈ (d.dropRest c).mig.stageReqs, e.1 ≠ c) ∧
      (∀ e ∈ (d.dropRest c).pwr.fromRes, e.2.1 ≠ c) ∧ (∀ x ∈ (d.dropRest c).tb.clasps, x.ctx = c → x.ok = false)) ∧
    (d.dropRest c).rd (Reg.migKvReserved c) = 0 ∧
    (((d.dropRest c).ctx c).stagePins = [] ∧ ((d.dropRest c).ctx c).demandPins = [] ∧ ((d.dropRest c).ctx c).kvHeld = []) := by
  obtain ⟨e, f, hends, hslots, heq, hrd, hpins⟩ := d.dropRest_eq hc
  rw [heq]
  refine ⟨(((d.fades_muteRequests c).trans hends.toWinds.fades).trans (e.fades_withoutStageReqs c)).trans (hslots.toWinds.fades.trans (f.fades_dropDraws c)),
    ⟨hslots.cores.2.trans hends.cores.2, hslots.routing.trans hends.routing, hslots.colls.trans hends.colls⟩,
    ⟨fun r hr hctx => ?_, fun x hx => ?_, fun x hx => ?_, fun x hx hctx => ?_⟩, hrd, hpins⟩
  · have hreqs : f.remote.reqs = (d.muteRequests c).remote.reqs := hslots.reqs.1.trans hends.reqs.1
    have hmem : r ∈ (d.muteRequests c).remote.reqs := hreqs ▸ hr
    simpa [hctx] using (List.mem_filter.mp hmem).2
  · have hmem : x ∈ (e.withoutStageReqs c).mig.stageReqs := hslots.reqs.2 ▸ hx
    simpa using (List.mem_filter.mp hmem).2
  · simpa using (List.mem_filter.mp hx).2
  · have hclasps : f.tb.clasps = (d.muteRequests c).tb.clasps := hslots.tb.trans hends.tb
    have hmem : x ∈ (d.muteRequests c).tb.clasps := hclasps ▸ hx
    obtain ⟨y, -, rfl⟩ := List.mem_map.mp hmem
    by_cases hy : y.ctx = c
    · simp [hy]
    · simp [hy] at hctx

/-! Records, the layer and the collectives. -/

theorem Dev.dropLayerOf_leaves (d : Dev) (c : Nat) : d.Winds (d.dropLayerOf c) ∧ (d.dropLayerOf c).colls = d.colls ∧
    ∀ l, (d.dropLayerOf c).routing.layer = some l → l.ctx ≠ c := by
  unfold Dev.dropLayerOf
  split
  · next l hl =>
    split
    · exact ⟨d.winds_dropLayer l, rfl, fun _ h => absurd h nofun⟩
    · next hctx => exact ⟨.refl d, rfl, fun l' hl' => by rwa [← Option.some.inj (hl.symm.trans hl')]⟩
  · next hnone => exact ⟨.refl d, rfl, fun l hl => absurd (hnone.symm.trans hl) nofun⟩

/-- The context's collectives have voted. -/
theorem Dev.failColls_leaves {d : Dev} (hids : d.OwnIds) (c : Nat) : d.Votes (d.failColls c) ∧ ∀ y ∈ (d.failColls c).colls, y.ctx = c → y.Voted := by
  obtain ⟨hvotes, hvoted⟩ := Dev.votes_voteFails ((d.colls.filter (fun x => x.ctx = c)).map (fun x => x.id)) hids
  have hsweep := Dev.votes_collSweep (hvotes.ownIds hids)
  have hall : d.Votes (d.failColls c) := hvotes.trans hsweep
  refine ⟨hall, fun y hy hctx => ?_⟩
  obtain ⟨x, hx, hxy⟩ := hall.sinks y hy
  have hmem : x.id ∈ (d.colls.filter (fun x => x.ctx = c)).map (fun x => x.id) :=
    List.mem_map_of_mem (List.mem_filter.mpr ⟨hx, decide_eq_true (hxy.ctx.symm.trans hctx)⟩)
  exact hsweep.hasVoted (hvoted x.id hmem) y hy hxy.id

/-- The stages after the cores'. -/
def Dev.dropShared (d : Dev) (c : Nat) : Dev := (((d.dropRecords c).dropLayerOf c).failColls c).dropRest c

theorem Dev.dropShared_leaves {d : Dev} (hids : d.OwnIds) {c : Nat} (hc : c < 64) : d.Fades (d.dropShared c) ∧
    (∀ x ∈ (d.dropShared c).colls, x.ctx = c → x.phase = .closing ∨ (x.phase = .opening ∧ x.open_.ok = false)) ∧
    (∀ x ∈ d.colls, x.ctx = c → x.phase = .data → ∀ y ∈ (d.dropShared c).colls, y.id = x.id → y.close.ok = false) ∧
    (∀ r ∈ (d.dropShared c).records, r.ctx ≠ c) ∧ (∀ l, (d.dropShared c).routing.layer = some l → l.ctx ≠ c) := by
  obtain ⟨hlayer, hcolls, hctx⟩ := (d.dropRecords c).dropLayerOf_leaves c
  have hids' : ((d.dropRecords c).dropLayerOf c).OwnIds := by
    rw [Dev.OwnIds, hcolls]
    exact hids
  obtain ⟨hvotes, hvoted⟩ := Dev.failColls_leaves hids' c
  obtain ⟨hrest, ⟨hrecords, hrouting, hcolls'⟩, -⟩ := (((d.dropRecords c).dropLayerOf c).failColls c).dropRest_leaves hc
  refine ⟨((d.fades_records _).trans hlayer.fades).trans (hvotes.toWinds.fades.trans hrest), ?_, fun x hx hxc hdata y hy hid => ?_, fun r hr => ?_,
    fun l hl => ?_⟩
  · rw [Dev.dropShared, hcolls']
    exact hvoted
  · rw [Dev.dropShared, hcolls'] at hy
    obtain ⟨z, hz, hzy⟩ := hvotes.sinks y hy
    rw [hcolls] at hz
    obtain rfl : z = x := List.inj_on_of_nodup_map hids hz hx (hzy.id.symm.trans hid)
    rcases hzy.data hdata with hstill | hfailed
    · rcases hvoted y hy (hzy.ctx.trans hxc) with h | h
      · exact absurd (hstill.symm.trans h) nofun
      · exact absurd (hstill.symm.trans h.1) nofun
    · exact hfailed.2
  · rw [Dev.dropShared, hrecords, hvotes.cores.2, hlayer.cores.2] at hr
    simpa using (List.mem_filter.mp hr).2
  · rw [Dev.dropShared, hrouting] at hl
    obtain ⟨m, hm, hmctx⟩ := hvotes.layer l hl
    rw [← hmctx]
    exact hctx m hm

end Sys2Proof.Machine
end

section
/-! A teardown (R103, R225, R311, R327, R331, Table 13.2): the context's own stages, then those of what it shares. -/

namespace Sys2Proof.Machine

/-! Commands, rings and cores. -/

/-- The context is torn down, its commands end and its rings stop. -/
def Dev.endCommands (d : Dev) (c cause : Nat) : Dev :=
  (((d.markTorn c cause).forgetCtx c).endRecords ((d.markTorn c cause).tornRecords c)).stopRings c

theorem Dev.tearDown_eq {d : Dev} {c : Nat} (cause : Nat) (h : (d.ctx c).mode = .live) :
    d.tearDown c cause = ((d.endCommands c cause).tearCores c).dropShared c := d.tearDown_live c cause h

section
variable (d : Dev) (c cause : Nat)

theorem Dev.ends_endTorn : ((d.markTorn c cause).forgetCtx c).Ends
    (((d.markTorn c cause).forgetCtx c).endRecords ((d.markTorn c cause).tornRecords c)) := Dev.ends_endRecords _ _

theorem Dev.endCommands_blocks : ((d.endCommands c cause).loc = d.loc ∧ (d.endCommands c cause).hostMem = d.hostMem) ∧
    (d.endCommands c cause).colls = d.colls ∧ (d.endCommands c cause).cores = d.cores := by
  have hends := d.ends_endTorn c cause
  obtain ⟨_, _, hrings⟩ := (Dev.ringFrame_stopRings (((d.markTorn c cause).forgetCtx c).endRecords ((d.markTorn c cause).tornRecords c)) c).eq
  rw [Dev.endCommands, hrings]
  exact ⟨hends.mem, hends.colls, hends.cores.1⟩

theorem Dev.ctx_endCommands (x : Nat) : (((d.markTorn c cause).forgetCtx c).ctx x).Wanes ((d.endCommands c cause).ctx x) := by
  have hends := d.ends_endTorn c cause
  obtain ⟨_, _, hrings⟩ := (Dev.ringFrame_stopRings (((d.markTorn c cause).forgetCtx c).endRecords ((d.markTorn c cause).tornRecords c)) c).eq
  rw [Dev.endCommands, hrings]
  exact hends.ctx x

theorem Dev.rd_endCommands {off : Nat} (h : off < 0x01000000) : (d.endCommands c cause).rd off = (d.bump Reg.glbCtxCntTeardown 1).rd off :=
  ((Dev.ringFrame_stopRings _ c).rd off h).trans ((d.ends_endTorn c cause).rd off (by omega))

theorem Dev.mem_tornRecords {j : Job} (hj : j ∈ d.jobs) (hctx : j.ctx = c) :
    (j, (d.markTorn c cause).tornRecord j) ∈ (d.markTorn c cause).tornRecords c :=
  List.mem_map.mpr ⟨j, List.mem_filter.mpr ⟨hj, decide_eq_true hctx⟩, rfl⟩

theorem Dev.jobs_endCommands {j : Job} (hj : j ∈ (d.endCommands c cause).jobs) : j.ctx ≠ c := fun hctx => by
  obtain ⟨_, _, hrings⟩ := (Dev.ringFrame_stopRings (((d.markTorn c cause).forgetCtx c).endRecords ((d.markTorn c cause).tornRecords c)) c).eq
  rw [Dev.endCommands, hrings] at hj
  have hmem : j ∈ d.jobs := (d.ends_endTorn c cause).jobs j hj
  exact (Dev.endRecords_leaves _ _ (d.mem_tornRecords c cause hmem hctx)).1 j hj ⟨rfl, rfl⟩

theorem Dev.hold_endCommands {j : Job} (hj : j ∈ d.jobs) (hctx : j.ctx = c) :
    (d.markTorn c cause).tornRecord j ∈ ((d.endCommands c cause).ring j.ring).hold := by
  have hstatus : ((d.markTorn c cause).tornRecord j).status ≠ 0 := by
    rw [Dev.tornRecord_eq]
    exact Nat.succ_ne_zero _
  rw [Dev.endCommands, (Dev.ringFrame_stopRings _ c).hold]
  exact (Dev.endRecords_leaves _ ((d.markTorn c cause).forgetCtx c) (d.mem_tornRecords c cause hj hctx)).2 hstatus

theorem Dev.stopped_endCommands {r : Nat} (hr : r < 4096) (hctx : d.ringCtx r = c) (henable : d.flag (Reg.ringCtrl r) 0 = true) :
    (d.endCommands c cause).Stopped r := by
  have hrd : (((d.markTorn c cause).forgetCtx c).endRecords ((d.markTorn c cause).tornRecords c)).rd (Reg.ringCtrl r) = d.rd (Reg.ringCtrl r) :=
    ((d.ends_endTorn c cause).rd _ (by simp only [Reg.ringCtrl]; omega)).trans
      ((d.rd_forgetCtx c cause _).trans (d.rd_bump_other 1 (by simp only [Reg.ringCtrl, Reg.glbCtxCntTeardown]; omega)))
  refine Dev.stopped_stopRings hr ?_ ?_
  · rw [Blocks.ringCtx, Blocks.fld, hrd]
    exact hctx
  · rw [Blocks.flag, hrd]
    exact henable

end

/-! The cores given up. -/

section
variable (d : Dev) (c cause : Nat)

/-- The context's commands, rings and cores are given up. -/
def Dev.giveUpCores : Dev := (d.endCommands c cause).tearCores c

theorem Dev.giveUpCores_eq : ∃ regs cores pwr ctxs remote,
    d.giveUpCores c cause = { d.endCommands c cause with regs := regs, cores := cores, pwr := pwr, ctxs := ctxs, remote := remote } :=
  ((d.endCommands c cause).tearFrame_tearCores c).eq

theorem Dev.giveUpCores_blocks : ((d.giveUpCores c cause).loc = d.loc ∧ (d.giveUpCores c cause).hostMem = d.hostMem) ∧
    (d.giveUpCores c cause).colls = d.colls ∧ (d.giveUpCores c cause).jobs = (d.endCommands c cause).jobs ∧ ∀ r, (d.giveUpCores c cause).ring r = (d.endCommands c cause).ring r := by
  obtain ⟨hmem, hcolls, -⟩ := d.endCommands_blocks c cause
  obtain ⟨_, _, _, _, _, h⟩ := d.giveUpCores_eq c cause
  rw [h]
  exact ⟨hmem, hcolls, rfl, fun _ => rfl⟩

theorem Dev.core_giveUpCores (p : Nat) : (d.giveUpCores c cause).core p = (d.core p).without c := by
  rw [Dev.giveUpCores, Dev.core_tearCores, Blocks.core, (d.endCommands_blocks c cause).2.2, Blocks.core]

theorem Dev.ctx_giveUpCores (x : Nat) : (((d.markTorn c cause).forgetCtx c).ctx x).Wanes ((d.giveUpCores c cause).ctx x) :=
  (d.ctx_endCommands c cause x).trans (((d.endCommands c cause).tearFrame_tearCores c).ctx x)

theorem Dev.rd_giveUpCores {off : Nat} (h : off < 0x02000000) : (d.giveUpCores c cause).rd off = (d.endCommands c cause).rd off :=
  ((d.endCommands c cause).tearFrame_tearCores c).rd off h

theorem Dev.bare_giveUpCores {p : Nat} (h : (d.core p).owner = some c ∨ ∃ g, (d.core p).prog = some g ∧ g.ctx = c) : (d.giveUpCores c cause).Bare p := by
  have hcore : (d.endCommands c cause).core p = d.core p := by rw [Blocks.core, (d.endCommands_blocks c cause).2.2, Blocks.core]
  refine Dev.bare_tearCores _ ?_
  rw [hcore]
  rcases h with h | ⟨g, hg, hctx⟩
  · exact Or.inr h
  · exact Or.inl (by simp [Core.runs, hg, hctx])

end

theorem Dev.dropShared_rest (d : Dev) {c : Nat} (hc : c < 64) :
    ((∀ r ∈ (d.dropShared c).remote.reqs, r.ctx = c → r.core = 576) ∧ (∀ e ∈ (d.dropShared c).mig.stageReqs, e.1 ≠ c) ∧
      (∀ e ∈ (d.dropShared c).pwr.fromRes, e.2.1 ≠ c) ∧ (∀ x ∈ (d.dropShared c).tb.clasps, x.ctx = c → x.ok = false)) ∧
    (d.dropShared c).rd (Reg.migKvReserved c) = 0 ∧
    (((d.dropShared c).ctx c).stagePins = [] ∧ ((d.dropShared c).ctx c).demandPins = [] ∧ ((d.dropShared c).ctx c).kvHeld = []) :=
  ((((d.dropRecords c).dropLayerOf c).failColls c).dropRest_leaves hc).2.2

/-- The torn context itself. -/
theorem Dev.ctx_tornDown (d : Dev) (c cause : Nat) {t : Dev} (h : (((d.markTorn c cause).forgetCtx c).ctx c).Wanes (t.ctx c)) :
    (t.ctx c).mode = .tearing ∧ (t.ctx c).cause = cause ∧ (t.ctx c).runnable = false ∧ (t.ctx c).resv = 0 ∧ (t.ctx c).occs = [] ∧
    (t.ctx c).saved = [] ∧ (t.ctx c).restoring = [] := by
  rw [Dev.ctx_forgetCtx] at h
  exact ⟨h.mode, h.cause, h.runnable, h.resv, h.occs rfl, h.saved, h.restoring⟩

/-- A context that is not LIVE. -/
theorem Dev.tearDown_not_live {d : Dev} {c : Nat} (cause : Nat) (h : (d.ctx c).mode ≠ .live) : d.tearDown c cause = d.lowerCause c cause := by
  unfold Dev.tearDown
  exact if_pos h

end Sys2Proof.Machine
end

section
open Sys2Proof Sys2Proof.Machine

/-- Settles O56: the teardown's single step (log entry 73) is the chain of its stages, each of which leaves what the earlier ones took away; the records
of commands show `Blocks.tornResults` (log entry 84). -/
theorem teardownTakesEverything : Obligations.TeardownTakesEverything := by
  intro d c cause hc _ hids
  refine ⟨fun hmode => Dev.tearDown_not_live cause hmode, fun hlive => ?_⟩
  rw [Dev.tearDown_eq cause hlive, ← Dev.giveUpCores]
  obtain ⟨⟨hloc, hhost⟩, hcolls, hjobs, hrings⟩ := d.giveUpCores_blocks c cause
  have hids' : (d.giveUpCores c cause).OwnIds := by
    rw [Dev.OwnIds, hcolls]
    exact hids
  obtain ⟨hfades, hvoted, hdata, hrecords, hlayer⟩ := Dev.dropShared_leaves hids' hc
  obtain ⟨⟨hreqs, hstages, hdraws, hclasps⟩, hreserved, hstagePins, hdemandPins, hkv⟩ := (d.giveUpCores c cause).dropShared_rest hc
  have hctx := fun x => (d.ctx_giveUpCores c cause x).trans (hfades.ctx x)
  obtain ⟨hmode, hcause, hrunnable, hresv, hoccs, hsaved, hrestoring⟩ := d.ctx_tornDown c cause (hctx c)
  have hcore : ∀ p, ((d.giveUpCores c cause).dropShared c).core p = (d.core p).without c := fun p => by
    rw [Blocks.core, hfades.cores, ← d.core_giveUpCores c cause p, Blocks.core]
  refine ⟨hmode, hcause, hrunnable, hresv, hoccs, hsaved, hrestoring, hstagePins, hdemandPins, hkv, fun x hx => ?_, ?_, fun j hj => ?_, fun j hj hjc => ?_,
    fun r hr hrc henable => ?_, fun p => ?_, fun p hp hmine => ?_, hvoted, ?_, hrecords, hlayer, hreqs, hstages, hdraws, hclasps, hreserved,
    fun a => by rw [hfades.mem.1, hloc], hfades.mem.2.trans hhost⟩
  · rw [(hctx x).mode, d.ctx_forgetCtx_other c cause hx]
  · rw [hfades.rd _ (by decide), d.rd_giveUpCores c cause (by decide), d.rd_endCommands c cause (by decide), Dev.rd_bump_same]
  · exact d.jobs_endCommands c cause (hjobs ▸ hfades.jobs j hj)
  · have hheld := d.hold_endCommands c cause hj hjc
    rw [← hrings] at hheld
    refine ⟨_, hfades.hold _ _ hheld, ?_⟩
    rw [d.tornRecord_eq c cause j]
    exact ⟨rfl, rfl, rfl, rfl⟩
  · obtain ⟨hflag, hfetched⟩ := d.stopped_endCommands c cause hr hrc henable
    have hoff : Reg.ringCtrl r < 0x02000000 := by
      simp only [Reg.ringCtrl]
      omega
    refine ⟨?_, by rw [hfades.fetched, hrings, hfetched]⟩
    rw [Blocks.flag, hfades.rd _ hoff, d.rd_giveUpCores c cause hoff]
    exact hflag
  · rw [hcore]
    exact (d.core p).without_spec c
  · obtain ⟨hholds, hwaiting⟩ := d.bare_giveUpCores c cause hmine
    exact ⟨(hfades.pwr.held p hp).trans hholds, hfades.pwr.waiting p hp hwaiting⟩
  · rw [hcolls] at hdata
    exact hdata

end

section
/-! The canonical form of the device's memories (O58).

A step answers with a device that the model's functions build from the one before. For each function on that way there is one lemma here, under
the function's own name in `Dev.Canonical`: a device in canonical form goes to a device in canonical form. Its proof follows the function's body:
a chain `h.f.g` for a composition, `.ite` for a branch, `foldl` for a loop, `upd` for an update of fields other than the memories. The form
itself is argued for only where bytes are stored: `dirWrite`, `dirClear`, `devPut`, `locWrite`, `cqPut`, `hostStore`, and the copies and clears of
ranges. -/

namespace Sys2Proof.Machine

/-- A list of byte stores keeps a memory's form. -/
theorem memWf_foldl_memSet {α : Type} (addr : α → Nat) (byte : α → Byte) (xs : List α) {m : Mem} (h : Memory.wf m = true) :
    Memory.wf (xs.foldl (fun m x => memSet m (addr x) (byte x)) m) = true := by
  induction xs generalizing m with
  | nil => exact h
  | cons x xs ih => exact ih (memWf_memSet m _ _ h)

theorem memWf_dirCopyOut (b : Blocks) (a n da : Nat) {m : Mem} (h : Memory.wf m = true) :
    Memory.wf (b.dirCopyOut a n m da) = true :=
  memWf_foldl_memSet _ _ _ (memWf_memClear _ _ _ h)

/-- The device's memories are in their canonical form. -/
def Dev.Canonical (d : Dev) : Prop := Safety.MemoriesCanonical d

namespace Dev.Canonical

/-! How a body is built: branches, loops, and results that pair a device with a value. -/

theorem ite {c : Prop} [Decidable c] {a b : Dev} (ha : a.Canonical) (hb : b.Canonical) :
    (if c then a else b).Canonical := by
  split <;> assumption

theorem iteSnd {σ : Type} {c : Prop} [Decidable c] {x y : σ × Dev} (hx : x.2.Canonical) (hy : y.2.Canonical) :
    (if c then x else y).2.Canonical := by
  split <;> assumption

theorem foldlOn {α σ : Type} (dev : σ → Dev) {f : σ → α → σ} {xs : List α} {s : σ} (h : (dev s).Canonical)
    (hf : ∀ s x, (dev s).Canonical → (dev (f s x)).Canonical) : (dev (xs.foldl f s)).Canonical := by
  induction xs generalizing s with
  | nil => exact h
  | cons x xs ih => exact ih (hf s x h)

theorem foldl {α : Type} {f : Dev → α → Dev} {xs : List α} {d : Dev} (h : d.Canonical)
    (hf : ∀ e x, e.Canonical → (f e x).Canonical) : (xs.foldl f d).Canonical := foldlOn id h hf

theorem foldlSnd {α σ : Type} {f : σ × Dev → α → σ × Dev} {xs : List α} {s : σ × Dev} (h : s.2.Canonical)
    (hf : ∀ s x, s.2.Canonical → (f s x).2.Canonical) : (xs.foldl f s).2.Canonical := foldlOn Prod.snd h hf

theorem foldlFst {α σ : Type} {f : Dev × σ → α → Dev × σ} {xs : List α} {s : Dev × σ} (h : s.1.Canonical)
    (hf : ∀ s x, s.1.Canonical → (f s x).1.Canonical) : (xs.foldl f s).1.Canonical := foldlOn Prod.fst h hf

theorem snd {σ : Type} {x : σ × Dev} {a : σ} {e : Dev} (he : x = (a, e)) (h : x.2.Canonical) : e.Canonical := by
  rwa [he] at h

variable {d : Dev}

/-- An update of any fields other than the memories leaves the form. -/
theorem upd {grade regs hostPort i3cPort glb i3c rings jobs granted lastGrant ctxs cores records routing mig pool ports router fil colls
    remote tb mgmt pwr obs freeUsed snap} (h : d.Canonical) :
    (Dev.mk { grade := grade, regs := regs, hostPort := hostPort, i3cPort := i3cPort, glb := glb, i3c := i3c, hbm := d.hbm,
              vault := d.vault, loc := d.loc, hostMem := d.hostMem, rings := rings, jobs := jobs, granted := granted,
              lastGrant := lastGrant, ctxs := ctxs, cores := cores, records := records, routing := routing, mig := mig, pool := pool,
              ports := ports, router := router, fil := fil, colls := colls, remote := remote, tb := tb, mgmt := mgmt, pwr := pwr,
              obs := obs, freeUsed := freeUsed } snap).Canonical := h

/-! The four memories, and an update of each. -/

theorem hbm (h : d.Canonical) : Memory.wf d.hbm = true := h.1
theorem vault (h : d.Canonical) : Memory.wf d.vault = true := h.2.1
theorem loc (h : d.Canonical) : Memory.wf d.loc = true := h.2.2.1
theorem hostMem (h : d.Canonical) : Memory.wf d.hostMem = true := h.2.2.2

theorem setHbm {m} (h : d.Canonical) (hm : Memory.wf m = true) : ({ d with hbm := m } : Dev).Canonical := ⟨hm, h.vault, h.loc, h.hostMem⟩
theorem setVault {m} (h : d.Canonical) (hm : Memory.wf m = true) : ({ d with vault := m } : Dev).Canonical := ⟨h.hbm, hm, h.loc, h.hostMem⟩
theorem setLoc {m} (h : d.Canonical) (hm : Memory.wf m = true) : ({ d with loc := m } : Dev).Canonical := ⟨h.hbm, h.vault, hm, h.hostMem⟩
theorem setHostMem {m} (h : d.Canonical) (hm : Memory.wf m = true) : ({ d with hostMem := m } : Dev).Canonical :=
  ⟨h.hbm, h.vault, h.loc, hm⟩

/-! Registers, units and logs. -/

theorem wr {off v} (h : d.Canonical) : (d.wr off v).Canonical := h.upd
theorem wrFld {off hi lo v} (h : d.Canonical) : (d.wrFld off hi lo v).Canonical := h.wr
theorem bump {off n} (h : d.Canonical) : (d.bump off n).Canonical := h.wr
theorem unset {off} (h : d.Canonical) : (d.unset off).Canonical := h.upd
theorem unsetRange {lo hi} (h : d.Canonical) : (d.unsetRange lo hi).Canonical := h.upd
theorem fresh (h : d.Canonical) : d.fresh.2.Canonical := h.upd
theorem modRing {i f} (h : d.Canonical) : (d.modRing i f).Canonical := h.upd
theorem modCtx {c f} (h : d.Canonical) : (d.modCtx c f).Canonical := h.upd
theorem modCore {p f} (h : d.Canonical) : (d.modCore p f).Canonical := h.upd
theorem modPort {n f} (h : d.Canonical) : (d.modPort n f).Canonical := h.upd
theorem live {f : Dev → Dev} (h : d.Canonical) (hf : ∀ e, e.Canonical → (f e).Canonical) : (d.live f).Canonical := .ite (hf d h) h
theorem filSend {typ key sub data dest} (h : d.Canonical) : (d.filSend typ key sub data dest).Canonical := .ite h.upd h.upd

theorem filBroadcast {typ key sub data} (h : d.Canonical) : (d.filBroadcast typ key sub data).Canonical :=
  h.foldl fun _ _ h => .ite h h.filSend

theorem snapshot {source err id late} (h : d.Canonical) : (d.snapshot source err id late).Canonical :=
  .ite (wr h.upd) (.ite (.ite h.upd h) h.bump)

theorem errorTrigger {code} (h : d.Canonical) : (d.errorTrigger code).Canonical := .ite (snapshot (.ite h.filBroadcast h)) h
theorem log {e} (h : d.Canonical) : (d.log e).Canonical := h.upd
theorem stageEntry {e} (h : d.Canonical) : (d.stageEntry e).Canonical := .ite (errorTrigger h.upd) h.bump
theorem logIntake (h : d.Canonical) : d.logIntake.Canonical := foldl h.upd fun _ _ h => h.stageEntry

theorem modBus {p f} (h : d.Canonical) : (d.modBus p f).Canonical := by
  dsimp only [Dev.modBus]
  split
  · exact h.upd
  · exact h.upd

theorem answer {p a} (h : d.Canonical) : (d.answer p a).Canonical := .ite h.modBus h
theorem errResp {p resp addr bytes bar2} (h : d.Canonical) : (d.errResp p resp addr bytes bar2).Canonical := answer (.ite h.log h.log.wr)

/-! Cells. -/

theorem offer {port c ring coll} (h : d.Canonical) : (d.offer port c ring coll).Canonical := h.upd

/-! Carats. -/

theorem askCarats {req need ctx} (h : d.Canonical) : (d.askCarats req need ctx).Canonical := .ite h (.ite h.upd h.upd)
theorem withdrawCarats {req} (h : d.Canonical) : (d.withdrawCarats req).Canonical := h.upd
theorem returnCarats {req} (h : d.Canonical) : (d.returnCarats req).Canonical := upd (h.foldl fun _ _ h => h.modCtx)

/-! Memory access: the stores that build the memories. -/

theorem dirWrite {a bs} (h : d.Canonical) : (d.dirWrite a bs).Canonical := by
  induction bs generalizing d a with
  | nil => exact h
  | cons x xs ih => exact ih (h.setHbm (memWf_memSet _ _ _ h.hbm))

theorem dirClear {a n} (h : d.Canonical) : (d.dirClear a n).Canonical := h.setHbm (memWf_filter _ _ h.hbm)

theorem dirCopyIn {a src sa n} (h : d.Canonical) : (d.dirCopyIn a src sa n).Canonical :=
  h.dirClear.setHbm (memWf_foldl_memSet _ _ _ h.dirClear.hbm)

theorem putEntry {a bs} (h : d.Canonical) : (d.putEntry a bs).Canonical := h.dirWrite.askCarats.bump.bump
theorem setTdir {i v} (h : d.Canonical) : (d.setTdir i v).Canonical := h.putEntry
theorem tdirBit {i bit v} (h : d.Canonical) : (d.tdirBit i bit v).Canonical := h.setTdir

theorem touch {a n store} (h : d.Canonical) : (d.touch a n store).Canonical :=
  .ite (h.foldl fun _ _ h => .ite h.tdirBit.tdirBit h.tdirBit) h

theorem devPut {a bs} (h : d.Canonical) : (d.devPut a bs).Canonical := by
  induction bs generalizing d a with
  | nil => exact h
  | cons x xs ih => exact ih (h.setHbm (memWf_memSet _ _ _ h.hbm))

theorem devWrite {a bs} (h : d.Canonical) : (d.devWrite a bs).Canonical := h.devPut.touch

theorem countHbm {a n store quad} (h : d.Canonical) : (d.countHbm a n store quad).Canonical :=
  .ite h (h.foldl fun _ _ h => .ite h (.ite h.askCarats.bump h.askCarats.bump.bump))

theorem devTake {a n quad} (h : d.Canonical) : (d.devTake a n quad).Canonical := h.touch.countHbm
theorem touchPage {page} (h : d.Canonical) : (d.touchPage page).Canonical := .ite h (filBroadcast h.upd)
theorem sendInvalidate {line to_} (h : d.Canonical) : (d.sendInvalidate line to_).Canonical := h.fresh.offer.bump
theorem deferWrite {w} (h : d.Canonical) : (d.deferWrite w).Canonical := upd (h.foldl fun _ _ h => h.sendInvalidate)
theorem devStore {a bs quad} (h : d.Canonical) : (d.devStore a bs quad).Canonical := countHbm (devWrite (h.foldl fun _ _ h => h.touchPage))

theorem storeLine {owner a bs quad} (h : d.Canonical) : (d.storeLine owner a bs quad).Canonical := by
  dsimp only [Dev.storeLine]
  split
  · exact h.devStore
  · exact h.deferWrite

theorem coreStore {owner a bs quad} (h : d.Canonical) : (d.coreStore owner a bs quad).Canonical :=
  .ite h.devStore (foldlFst h.storeLine fun _ _ h => h.storeLine)

theorem countEcc {a corr} (h : d.Canonical) : (d.countEcc a corr).Canonical := .ite h h.bump
theorem locWrite {p a bs} (h : d.Canonical) : (d.locWrite p a bs).Canonical := h.setLoc (memWf_memWrite _ _ _ h.loc)

/-! The buffer pools. -/

theorem modClass {k f} (h : d.Canonical) : (d.modClass k f).Canonical := h.upd
theorem setMapBit {k n v} (h : d.Canonical) : (d.setMapBit k n v).Canonical := h.modClass
theorem setTag {k n v} (h : d.Canonical) : (d.setTag k n v).Canonical := h.putEntry

theorem allocIn {k p ctx sub} (h : d.Canonical) : (d.allocIn k p ctx sub).2.Canonical := by
  dsimp only [Dev.allocIn]
  split
  · exact h.bump
  · split
    · exact h.bump
    · exact h.setMapBit.setTag.bump.upd

theorem alloc {size p ctx sub} (h : d.Canonical) : (d.alloc size p ctx sub).2.Canonical := by
  dsimp only [Dev.alloc]
  split
  · exact h.bump
  · exact h.allocIn

theorem freeBuf {k n} (h : d.Canonical) : (d.freeBuf k n).Canonical := .ite h.setMapBit.setTag.bump.modCtx h.setMapBit.setTag.bump

theorem hwFree {ptr} (h : d.Canonical) : (d.hwFree ptr).Canonical := by
  dsimp only [Dev.hwFree]
  split
  · exact h.freeBuf
  · exact .ite (bump h.upd) h.log

theorem reclaim {pat} (h : d.Canonical) : (d.reclaim pat).Canonical :=
  h.foldl fun _ _ h => h.foldl fun _ _ h => .ite (.ite h.freeBuf.upd h.freeBuf) h

theorem setPoolFault {ctx code addr} (h : d.Canonical) : (d.setPoolFault ctx code addr).Canonical :=
  .ite (.ite h.bump h) (wr (wr (.ite h.bump h)))

theorem userAlloc {c size imm here} (h : d.Canonical) : ∀ x, d.userAlloc c size imm here = .inr x → x.2.Canonical := by
  intro x he
  dsimp only [Dev.userAlloc] at he
  split at he
  · cases he
  · split at he
    · split at he
      · cases he
      · split at he
        · cases he
        · split at he
          · cases he
            exact h.allocIn.modCtx
          · split at he
            · cases he
            · cases he
              exact h.allocIn
    · cases he
      exact h.alloc

theorem leak {ptr} (h : d.Canonical) : (d.leak ptr).Canonical := h.wr.bump.log

theorem auditPass (h : d.Canonical) : d.auditPass.Canonical := .ite h (h.foldl fun _ _ h => h.foldl fun _ _ h => by
    split
    · exact h
    · split
      · exact h
      · exact .ite h.leak.setMapBit h.leak
      · exact .ite h.leak.freeBuf h.leak
      · exact h.leak
      · exact h.setTag)

theorem bitmapRebuild {k w correctable} (h : d.Canonical) : (d.bitmapRebuild k w correctable).Canonical :=
  .ite h (.ite h.modClass (.ite h.modClass.bump (.ite h h.modClass)))

theorem poolAllocation {who size ctx sub} (h : d.Canonical) : (d.poolAllocation who size ctx sub).Canonical := h.alloc.upd

/-! The migration engine. -/

theorem modVport {n f} (h : d.Canonical) : (d.modVport n f).Canonical := h.upd

theorem queueFetch {i cls stream predicted ahead} (h : d.Canonical) : (d.queueFetch i cls stream predicted ahead).Canonical :=
  .ite h h.askCarats.modVport

theorem queueWriteback {i cls} (h : d.Canonical) : (d.queueWriteback i cls).Canonical := h.askCarats.modVport
theorem freeFrame {f} (h : d.Canonical) : (d.freeFrame f).Canonical := h.setTdir.upd
theorem setHand {stream h'} (h : d.Canonical) : (d.setHand stream h').Canonical := .ite h.upd h.upd

theorem sweep {stream first n cls fuel} (h : d.Canonical) : (d.sweep stream first n cls fuel).2.Canonical := by
  induction fuel generalizing d with
  | zero => exact h
  | succ fuel ih =>
    unfold Dev.sweep
    dsimp only
    split
    · exact ih h.setHand
    · split
      · exact ih h.setHand.tdirBit
      · split
        · exact ih h.setHand.tdirBit.queueWriteback
        · exact h.setHand.freeFrame

theorem takeFrame {stream ahead cls} (h : d.Canonical) : (d.takeFrame stream ahead cls).2.Canonical := by
  dsimp only [Dev.takeFrame]
  split
  · exact h
  · split
    · exact h
    · split
      · exact iteSnd h.tdirBit.queueWriteback h.freeFrame
      · exact iteSnd h h.sweep

theorem clean (h : d.Canonical) : d.clean.Canonical := .ite h (h.foldl fun _ _ h => h.foldl fun _ _ h => .ite h.queueWriteback h)

theorem startXfer {n x} (h : d.Canonical) : (d.startXfer n x).2.Canonical := by
  dsimp only [Dev.startXfer]
  split
  · exact iteSnd h.tdirBit.tdirBit.modVport h.modVport
  · split
    · exact h.modVport
    · split <;> rename_i he <;> have h := snd he h.takeFrame
      · exact h
      · exact modVport h.setTdir.upd

theorem startFirst {n xs} (h : d.Canonical) : (d.startFirst n xs).Canonical := by
  induction xs generalizing d with
  | nil => exact h
  | cons x xs ih =>
    unfold Dev.startFirst
    split
    · next he => exact snd he h.startXfer
    · next he => exact ih (snd he h.startXfer)

theorem setMigFault {ctx code addr} (h : d.Canonical) : (d.setMigFault ctx code addr).Canonical := .ite h h.wr.wr

theorem vaultTransfer {n ecc} (h : d.Canonical) : (d.vaultTransfer n ecc).Canonical := by
  dsimp only [Dev.vaultTransfer]
  split
  · exact h
  · split
    · exact .ite h.clean h.clean.askCarats
    · split
      · exact h.clean.startFirst
      · split
        · exact h.clean.startFirst
        · split
          · exact .ite h.clean.startFirst.setMigFault.bump.log.upd h.clean.startFirst.upd
          · exact h.clean.startFirst.upd

theorem writebackDone {n} (h : d.Canonical) : (d.writebackDone n).Canonical := by
  unfold Dev.writebackDone
  split
  · exact h
  · refine .ite h ?_
    extract_lets i f e₁
    split
    extract_lets e₂ e₃
    have h₃ : e₃.Canonical := tdirBit (countHbm (setVault h.modVport.bump (memWf_dirCopyOut _ _ _ _ h.vault)))
    exact .ite (.ite h₃.freeFrame h₃.tdirBit) h₃

theorem writebackComplete {n} (h : d.Canonical) : (d.writebackComplete n).Canonical := .ite h.writebackDone h

theorem fetchDone {n x} (h : d.Canonical) : (d.fetchDone n x).Canonical :=
  .ite h.modVport.dirCopyIn.countHbm.setTdir.bump.upd h.modVport.dirCopyIn.countHbm.setTdir.bump

theorem fetchPoisoned {n x} (h : d.Canonical) : (d.fetchPoisoned n x).Canonical := h.modVport.bump.freeFrame
theorem pin {i} (h : d.Canonical) : (d.pin i).Canonical := h.setTdir

theorem unpin {i} (h : d.Canonical) : (d.unpin i).Canonical :=
  .ite (.ite h.setTdir.tdirBit.queueWriteback (.ite h.setTdir.tdirBit h.setTdir.freeFrame)) h.setTdir

theorem dropDemandPins {c} (h : d.Canonical) : (d.dropDemandPins c).Canonical := modCtx (h.foldl fun _ _ h => h.unpin)
theorem dropStage {c} (h : d.Canonical) : (d.dropStage c).Canonical := modCtx (h.foldl fun _ _ h => h.unpin)
theorem endStages {c} (h : d.Canonical) : (d.endStages c).Canonical := .ite h (modCtx (h.foldl fun _ _ h => h.unpin))
theorem requestStage {c s} (h : d.Canonical) : (d.requestStage c s).Canonical := .ite h h.upd
theorem fetchAhead {s} (h : d.Canonical) : (d.fetchAhead s).Canonical := h.foldl fun _ _ h => h.foldl fun _ _ h => .ite h h.queueFetch.upd

theorem stageAdmission (h : d.Canonical) : d.stageAdmission.Canonical := by
  dsimp only [Dev.stageAdmission]
  split
  · exact h
  · exact .ite h (fetchAhead (modCtx (foldl (foldl h.upd fun _ _ h => h.pin) fun _ _ h => h.queueFetch)))

theorem hintQueueTake (h : d.Canonical) : d.hintQueueTake.Canonical := by
  dsimp only [Dev.hintQueueTake]
  split
  · exact h
  · split
    · exact bump h.upd
    · exact foldl h.upd fun _ _ h => h.queueFetch

theorem miss {a n} (h : d.Canonical) : (d.miss a n).Canonical := .ite h (foldl (.ite h h.bump) fun _ _ h => h.queueFetch)
theorem needParts {ctx store ps} (h : d.Canonical) : (d.needParts ctx store ps).Canonical := h.upd
theorem engineRead {ctx a n} (h : d.Canonical) : (d.engineRead ctx a n).2.Canonical := .ite h.devTake h.needParts
theorem enginePiece {ctx a bs} (h : d.Canonical) : (d.enginePiece ctx a bs).Canonical := .ite h (.ite h.devStore h.needParts)
theorem engineWrite {ctx a bs} (h : d.Canonical) : (d.engineWrite ctx a bs).Canonical := .ite h (h.foldl fun _ _ h => h.enginePiece)

theorem servePart {p} (h : d.Canonical) : (d.servePart p).2.Canonical := by
  dsimp only [Dev.servePart]
  split
  · exact h
  · split
    · exact h.devTake
    · split
      · exact h.devStore
      · exact h.foldl fun _ _ h => h.deferWrite

theorem serveStalls (h : d.Canonical) : d.serveStalls.Canonical := upd (foldlSnd h fun _ _ h => foldlSnd h fun _ _ h => h.servePart)

theorem stall {s} (h : d.Canonical) : (d.stall s).Canonical :=
  serveStalls (upd (h.foldl fun _ _ h => .ite h (.ite (.ite h.bump h) (foldl (.ite h.bump h) fun _ _ h => h.queueFetch))))

theorem postStore {a bs} (h : d.Canonical) : (d.postStore a bs).Canonical := h.foldl fun _ _ h => .ite h.devWrite h.stall

theorem actWith {c parts ecc} {f : Dev → Dev} (h : d.Canonical) (hf : ∀ e, e.Canonical → (f e).Canonical) :
    (d.actWith c parts ecc f).Canonical :=
  .ite (hf _ h.upd).upd (.ite h.upd h.stall)

theorem act {c ecc} {f : Dev → Dev} (h : d.Canonical) (hf : ∀ e, e.Canonical → (f e).Canonical) : (d.act c ecc f).Canonical := h.actWith hf

/-! Commands and their records. -/

theorem post {ring r} (h : d.Canonical) : (d.post ring r).Canonical := h.modRing
theorem modJob {ring seq f} (h : d.Canonical) : (d.modJob ring seq f).Canonical := h.upd
theorem noteEnd {ring seq ok} (h : d.Canonical) : (d.noteEnd ring seq ok).Canonical := h.modRing

theorem endJob {j r} (h : d.Canonical) : (d.endJob j r).Canonical :=
  .ite (endStages (modCtx (noteEnd h.upd))) (post (endStages (modCtx (noteEnd h.upd))))

theorem endFlushes (h : d.Canonical) : d.endFlushes.Canonical := foldl h.upd fun _ _ h => by
    split
    · exact h.endJob
    · exact h

theorem settleOcc {c id entry} (h : d.Canonical) : (d.settleOcc c id entry).Canonical := endFlushes (foldl h.modCtx.upd fun _ _ h => by
    split
    · exact h.endJob
    · exact h)

theorem occCheck {c id} (h : d.Canonical) : (d.occCheck c id).Canonical := by
  dsimp only [Dev.occCheck]
  split
  · exact h
  · exact .ite h (.ite h.upd h.settleOcc)

theorem modOcc {c id f} (h : d.Canonical) : (d.modOcc c id f).Canonical := h.modCtx

theorem occWork {j} (h : d.Canonical) : (d.occWork j).Canonical := by
  dsimp only [Dev.occWork]
  split
  · exact h
  · exact h.modOcc.occCheck

theorem finish {ring seq status empty r0 r1} (h : d.Canonical) : (d.finish ring seq status empty r0 r1).Canonical := by
  dsimp only [Dev.finish]
  split
  · exact h
  · exact h.endJob.occWork

theorem finishStep {ring seq r0 r1} (h : d.Canonical) : (d.finishStep ring seq r0 r1).Canonical := by
  dsimp only [Dev.finishStep]
  split
  · exact h
  · exact .ite h.modJob.occWork h.finish

theorem closeOcc {c} (h : d.Canonical) : (d.closeOcc c).Canonical := by
  dsimp only [Dev.closeOcc]
  split
  · exact h
  · exact h.modOcc.occCheck

theorem openOcc {c hlayer} (h : d.Canonical) : (d.openOcc c hlayer).Canonical := modCtx h.closeOcc.upd

theorem joinOcc {c hlayer ring seq isStep} (h : d.Canonical) : (d.joinOcc c hlayer ring seq isStep).2.Canonical := by
  dsimp only [Dev.joinOcc]
  split
  · exact .ite h h.openOcc
  · exact modOcc (.ite h h.openOcc)

/-! Barriers. -/

theorem modColl {id f} (h : d.Canonical) : (d.modColl id f).Canonical := h.upd

theorem sendRound {id close axis ok status} (h : d.Canonical) : (d.sendRound id close axis ok status).Canonical :=
  h.foldl fun _ _ h => h.filSend

theorem barrierRun {id close enter fuel} (h : d.Canonical) : (d.barrierRun id close enter fuel).Canonical := by
  induction fuel generalizing d enter with
  | zero => exact h
  | succ fuel ih =>
    unfold Dev.barrierRun
    split
    · exact h
    · extract_lets x line e₁ fil e₂
      have h₁ : e₁.Canonical := .ite h h.sendRound
      have h₂ : e₂.Canonical := .ite h₁.upd.modColl h
      refine .ite h (.ite (ih h.modColl) ?_)
      split
      · exact h₂
      · exact .ite (ih h₂.modColl) h₂

theorem setReFault {i ctx half layer code addr} (h : d.Canonical) : (d.setReFault i ctx half layer code addr).Canonical := .ite h h.wr.wr
theorem freeSlot {c n} (h : d.Canonical) : (d.freeSlot c n).Canonical := h.postStore.modCtx.wr

theorem abandonStep (h : d.Canonical) : d.abandonStep.Canonical := by
  dsimp only [Dev.abandonStep]
  split
  · exact h
  · split
    · exact settleOcc (finish (log (setReFault (dropDemandPins (foldl (reclaim (reclaim h.upd)) fun _ _ h => h.freeSlot)))))
    · exact finish (log (setReFault (dropDemandPins (foldl (reclaim (reclaim h.upd)) fun _ _ h => h.freeSlot))))

theorem voteFail {id} (h : d.Canonical) : (d.voteFail id).Canonical := by
  dsimp only [Dev.voteFail]
  split
  · exact h
  · split
    · exact h.upd
    · exact h
    · split
      · exact .ite h.modColl h.modColl.sendRound
      · exact h.modColl
    · exact h.modColl.barrierRun

theorem collReport {id} (h : d.Canonical) : (d.collReport id).Canonical := by
  unfold Dev.collReport
  split
  · exact h
  · extract_lets st e₁ e₂ e₃ re e₄
    have h₂ : e₂.Canonical := h.modColl.foldl fun _ _ h => h.hwFree
    have h₃ : e₃.Canonical := .ite h₂ h₂.bump
    have h₄ : e₄.Canonical := by
      unfold e₄
      split
      · exact .ite h₃ h₃.log
      · exact h₃
    refine .ite h ?_
    split
    · exact .ite h₃ (.ite h₃.upd (h₃.abandonStep.foldl fun _ _ h => h.voteFail))
    · exact h₃
    · exact h₄.finish

theorem abandonLayer (h : d.Canonical) : d.abandonLayer.Canonical := by
  dsimp only [Dev.abandonLayer]
  split
  · exact h
  · exact h.abandonStep.foldl fun _ _ h => h.voteFail

theorem collSweep (h : d.Canonical) : d.collSweep.Canonical := upd (foldl (h.foldl fun _ _ h => h.collReport) fun _ _ h => h.collReport)
theorem enterClose {id ok} (h : d.Canonical) : (d.enterClose id ok).Canonical := h.modColl.barrierRun.collSweep

/-! Faults and teardown. -/

theorem dropCarats {p} (h : d.Canonical) : (d.dropCarats p).Canonical := h.withdrawCarats.returnCarats

theorem discard {p g is} (h : d.Canonical) : (d.discard p g is).Canonical :=
  .ite (.ite h h.bump) (foldl (.ite h h.bump) fun _ _ h => h.bump)

theorem dropLines {p} (h : d.Canonical) : (d.dropLines p).Canonical := h.upd

theorem tearCores {c} (h : d.Canonical) : (d.tearCores c).Canonical := h.foldl fun _ _ h => by
    refine modCore ?_
    split
    · refine dropCarats ?_
      split
      · exact .ite h.discard.dropLines h
      · exact h
    · split
      · exact .ite h.discard.dropLines h
      · exact h

theorem freeSlots {c} (h : d.Canonical) : (d.freeSlots c).Canonical := .ite h.modCtx (modCtx (unset (h.foldl fun _ _ h => h.postStore)))
theorem dropParts {c} (h : d.Canonical) : (d.dropParts c).Canonical := h.upd
theorem lowerCause {c cause} (h : d.Canonical) : (d.lowerCause c cause).Canonical := .ite h.modCtx h

theorem markTorn {c cause} (h : d.Canonical) : (d.markTorn c cause).Canonical := h.modCtx.bump
theorem forgetCtx {c} (h : d.Canonical) : (d.forgetCtx c).Canonical := h.upd.modCtx
theorem endRecords {records} (h : d.Canonical) : (d.endRecords records).Canonical := h.foldl fun _ _ h => h.endJob
theorem stopRings {c} (h : d.Canonical) : (d.stopRings c).Canonical := h.foldl fun _ _ h => h.wrFld.modRing
theorem dropRecords {c} (h : d.Canonical) : (d.dropRecords c).Canonical := h.upd
theorem dropLayerOf {c} (h : d.Canonical) : (d.dropLayerOf c).Canonical := by
  unfold Dev.dropLayerOf
  split
  · exact .ite h.upd h
  · exact h
theorem failColls {c} (h : d.Canonical) : (d.failColls c).Canonical := collSweep (h.foldl fun _ _ h => h.voteFail)
theorem muteRequests {c} (h : d.Canonical) : (d.muteRequests c).Canonical := h.upd.upd
theorem dropMigration {c} (h : d.Canonical) : (d.dropMigration c).Canonical := h.dropParts.dropDemandPins.dropStage.upd
theorem dropDraws {c} (h : d.Canonical) : (d.dropDraws c).Canonical := h.upd

theorem tearDown {c cause} (h : d.Canonical) : (d.tearDown c cause).Canonical := by
  by_cases hlive : (d.ctx c).mode = .live
  · rw [Dev.tearDown_live _ _ _ hlive]
    exact h.markTorn.forgetCtx.endRecords.stopRings.tearCores.dropRecords.dropLayerOf.failColls.muteRequests.dropMigration.freeSlots.dropDraws
  · rw [Dev.tearDown_not_live _ hlive]
    exact h.lowerCause

theorem teardownComplete {c} (h : d.Canonical) : (d.teardownComplete c).Canonical := .ite h (.ite h.reclaim.modCtx h.reclaim.modCtx)
theorem countUncorr {code addr} (h : d.Canonical) : (d.countUncorr code addr).Canonical := .ite h.bump h

theorem engineFault {ctx code addr} (h : d.Canonical) : (d.engineFault ctx code addr).Canonical :=
  tearDown (log (countUncorr (.ite h.setMigFault h)))

theorem setCoreFault {p ctx code slot pc loc} (h : d.Canonical) : (d.setCoreFault p ctx code slot pc loc).Canonical := .ite h h.wr.wr.wr

theorem recordCoreFault {p ctx code slot pc loc logAddr} (h : d.Canonical) : (d.recordCoreFault p ctx code slot pc loc logAddr).Canonical :=
  setPoolFault (.ite h.setCoreFault.setMigFault h.setCoreFault)

theorem coreFault {p ctx code slot pc loc logAddr kind} (h : d.Canonical) : (d.coreFault p ctx code slot pc loc logAddr kind).Canonical :=
  tearDown (log (countUncorr (.ite h.recordCoreFault h)))

theorem reFault {i ctx half layer code addr} (h : d.Canonical) : (d.reFault i ctx half layer code addr).Canonical :=
  tearDown (log (.ite h.setReFault h))

theorem poolRingFault {ctx code addr} (h : d.Canonical) : (d.poolRingFault ctx code addr).Canonical :=
  tearDown (log (.ite h (.ite h.setMigFault h.setPoolFault)))

theorem readFor {ctx a n} (h : d.Canonical) : (d.readFor ctx a n).2.Canonical := by
  dsimp only [Dev.readFor]
  split
  · exact h
  · split
    · exact h.engineFault
    · exact h.engineRead

theorem writeFor {ctx a bs} (h : d.Canonical) : (d.writeFor ctx a bs).2.Canonical := by
  dsimp only [Dev.writeFor]
  split
  · exact h
  · split
    · exact h.engineFault
    · exact h.engineWrite

theorem irq {r} (h : d.Canonical) : (d.irq r).Canonical := .ite h (.ite h.wr h.upd)

theorem cqPut {r size entry} (h : d.Canonical) : (d.cqPut r size entry).Canonical := by
  dsimp only [Dev.cqPut]
  split
  · split
    · exact h.engineFault
    · exact h.engineWrite.wr.irq
  · exact (h.setHostMem (memWf_memWrite _ _ _ h.hostMem)).wr.irq

/-! Permits. -/

theorem grantCarats {r res} (h : d.Canonical) : (d.grantCarats r res).Canonical := by
  unfold Dev.grantCarats
  extract_lets p e₁ e₂ e₃
  have h₂ : e₂.Canonical := h.upd.bump
  have h₃ : e₃.Canonical := by
    unfold e₃
    split
    · exact .ite h₂.modCtx.upd h₂
    · exact h₂
  exact .ite h₃.modPort h₃

theorem permitScan {blocked left reqs} (h : d.Canonical) : (d.permitScan blocked left reqs).Canonical := by
  induction reqs generalizing d blocked left with
  | nil => exact h
  | cons r rest ih =>
    unfold Dev.permitScan
    dsimp only
    exact .ite (ih h) (.ite h (.ite h.upd (.ite h (.ite (ih h) (ih h.grantCarats)))))

theorem permitGrant (h : d.Canonical) : d.permitGrant.Canonical := h.permitScan
theorem permitReturn {req} (h : d.Canonical) : (d.permitReturn req).Canonical := .ite h.returnCarats h
theorem rampWindow (h : d.Canonical) : d.rampWindow.Canonical := upd (.ite h.bump h)

/-! Management commands. -/

theorem mgmtEnd {result info} (h : d.Canonical) : (d.mgmtEnd result info).Canonical := by
  dsimp only [Dev.mgmtEnd]
  split
  · exact h
  · exact .ite (upd (.ite (log (wr (wr h.upd))) (wr (wr h.upd)))) (.ite (log (wr (wr h.upd))) (wr (wr h.upd)))

theorem mgmtPortDone {n ok} (h : d.Canonical) : (d.mgmtPortDone n ok).Canonical := by
  dsimp only [Dev.mgmtPortDone]
  split
  · exact h
  · exact .ite h (.ite h.mgmtEnd (.ite h.mgmtEnd h))

/-! Optical ports. -/

theorem portEvent {n code} (h : d.Canonical) : (d.portEvent n code).Canonical := h.modPort.log
theorem takeWaiting {n} (h : d.Canonical) : (d.takeWaiting n).2.Canonical := h.upd
theorem reinject {n} (h : d.Canonical) : (d.reinject n).Canonical := h.takeWaiting.modPort.bump
theorem lasersOff {n} (h : d.Canonical) : (d.lasersOff n).Canonical := h.withdrawCarats.returnCarats
theorem portClockLoss {n} (h : d.Canonical) : (d.portClockLoss n).Canonical := .ite h.wr h

theorem portFail {n code} (h : d.Canonical) : (d.portFail n code).Canonical :=
  .ite h h.portEvent.portClockLoss.reinject.lasersOff.modPort.bump.mgmtPortDone

theorem portStop {n} (h : d.Canonical) : (d.portStop n).Canonical := .ite h h.reinject.lasersOff.modPort.bump.mgmtPortDone
theorem portDark {n} (h : d.Canonical) : (d.portDark n).Canonical := .ite h h.modPort.askCarats
theorem portEnable {n} (h : d.Canonical) : (d.portEnable n).Canonical := .ite h.portDark h
theorem portDisable {n} (h : d.Canonical) : (d.portDisable n).Canonical := .ite h h.reinject.lasersOff.modPort.mgmtPortDone
theorem portLoss {n code} (h : d.Canonical) : (d.portLoss n code).Canonical := .ite h.portFail h
theorem beginRetrain {n req} (h : d.Canonical) : (d.beginRetrain n req).Canonical := .ite h.modPort h
theorem enterRetrain {n} (h : d.Canonical) : (d.enterRetrain n).Canonical := h.modPort.bump
theorem notePlace {n blk} (h : d.Canonical) : (d.notePlace n blk).Canonical := h.modPort

theorem takeRequest {n blk} (h : d.Canonical) : (d.takeRequest n blk).Canonical :=
  enterRetrain (modPort (.ite h.notePlace.bump h.notePlace))

theorem makeRecord (h : d.Canonical) : d.makeRecord.2.Canonical := h.fresh

theorem nextBeat {n} (h : d.Canonical) : (d.nextBeat n).2.Canonical := by
  dsimp only [Dev.nextBeat]
  split
  · exact h
  · exact h.makeRecord.modPort
  · exact iteSnd h.modPort h.modPort

theorem putCell {n kind lseq c} (h : d.Canonical) : (d.putCell n kind lseq c).Canonical := by
  dsimp only [Dev.putCell]
  exact .ite h (modPort (iteSnd h.nextBeat.fresh h.nextBeat))

theorem chooseCell {n slot} (h : d.Canonical) : ∀ x ∈ d.chooseCell n slot, x.2.Canonical := by
  unfold Dev.chooseCell
  extract_lets v k router takeV takeK
  clear_value v k
  have hv : ∀ x ∈ takeV, x.2.Canonical := by
    cases v with
    | nil => exact fun _ hx => nomatch hx
    | cons c rest => exact fun _ hx => Option.mem_some.mp hx ▸ h.upd
  have hk : ∀ x ∈ takeK, x.2.Canonical := by
    cases k with
    | nil => exact fun _ hx => nomatch hx
    | cons c rest => exact fun _ hx => Option.mem_some.mp hx ▸ h.upd
  split
  · exact hv
  · split
    · exact hk
    · split
      · exact hv
      · exact hk

theorem linkCellSend {n} (h : d.Canonical) : (d.linkCellSend n).Canonical := by
  unfold Dev.linkCellSend
  refine .ite h (.ite h.putCell ?_)
  split
  · exact h.modPort.putCell.bump
  · extract_lets e
    have he : e.Canonical := h.modPort
    split
    · exact he.putCell
    · next q c hc =>
      have hc : c.Canonical := by
        split at hc
        · cases hc
        · exact he.chooseCell _ hc
      exact modPort (bump (putCell (.ite hc.bump hc)))

theorem startReplay {n} (h : d.Canonical) : (d.startReplay n).Canonical := by
  dsimp only [Dev.startReplay]
  split
  · exact h
  · split
    · exact h
    · exact .ite h.modPort.bump.portEvent.beginRetrain h.modPort.bump

theorem takeAck {n ack} (h : d.Canonical) : (d.takeAck n ack).Canonical := .ite h.modPort (.ite h h.bump)

theorem takeData {n lseq c damaged} (h : d.Canonical) : (d.takeData n lseq c damaged).Canonical :=
  .ite h.modPort.bump (.ite h h.modPort.bump)

theorem takeBeat {n beat} (h : d.Canonical) : (d.takeBeat n beat).Canonical := h.modPort

theorem countFec {n q} (h : d.Canonical) : (d.countFec n q).Canonical :=
  .ite (h.foldl fun _ _ h => h.bump.bump) (bump (h.foldl fun _ _ h => h.bump.bump))

theorem replayTimeout {n} (h : d.Canonical) : (d.replayTimeout n).Canonical := .ite h.startReplay h
theorem retrainRequest {n blk} (h : d.Canonical) : (d.retrainRequest n blk).Canonical := .ite h h.takeRequest.putCell
theorem lightDetected {n lanes} (h : d.Canonical) : (d.lightDetected n lanes).Canonical := .ite h.modPort h
theorem lockAchieved {n lanes} (h : d.Canonical) : (d.lockAchieved n lanes).Canonical := .ite h (.ite h.modPort h.modPort.upd)
theorem linkUp {n active} (h : d.Canonical) : (d.linkUp n active).Canonical := h.modPort.modPort.mgmtPortDone
theorem admitLink {n} (h : d.Canonical) : (d.admitLink n).Canonical := h.modPort
theorem settleLink {n blk w tx rx} (h : d.Canonical) : (d.settleLink n blk w tx rx).Canonical := h.modPort.wr.linkUp

theorem followLeader {n} (h : d.Canonical) : (d.followLeader n).Canonical := by
  dsimp only [Dev.followLeader]
  split
  · exact h.settleLink
  · exact h

theorem cellAt {n c} (h : d.Canonical) : (d.cellAt n c).Canonical := by
  unfold Dev.cellAt
  extract_lets w kind e₁ e₂ e₃ e₄
  have h₂ : e₂.Canonical := .ite h.takeBeat.takeAck h.takeBeat
  have h₃ : e₃.Canonical := .ite h₂.startReplay h₂
  exact .ite h₃.takeData (.ite h₃.modPort (.ite h₃.takeRequest.putCell h₃))

theorem linkCellReceive {n c q} (h : d.Canonical) : (d.linkCellReceive n c q).Canonical := by
  unfold Dev.linkCellReceive
  extract_lets e₁ e₂ e₃
  have h₂ : e₂.Canonical := .ite h.countFec h.countFec.followLeader
  exact .ite h (.ite h₂ (.ite (.ite h₂.modPort.takeData h₂.modPort) h₂.cellAt))

theorem exchangeBlock {n blk hubNow} (h : d.Canonical) : (d.exchangeBlock n blk hubNow).Canonical := by
  dsimp only [Dev.exchangeBlock]
  split
  · exact h.notePlace.modPort.followLeader
  · split
    · exact h.notePlace.modPort
    · split
      · exact .ite h.notePlace.modPort.wr.portFail h.notePlace.modPort.wr
      · exact .ite (.ite h.notePlace.modPort.wr.settleLink h.notePlace.modPort.wr.modPort)
          (.ite h.notePlace.modPort.wr.modPort h.notePlace.modPort.wr)

theorem trainingBlockIn {n blk hubNow} (h : d.Canonical) : (d.trainingBlockIn n blk hubNow).Canonical := by
  dsimp only [Dev.trainingBlockIn]
  split
  · exact h.exchangeBlock
  · exact .ite h.notePlace.takeRequest (.ite h.notePlace.admitLink h.notePlace)
  · exact h

theorem patternSeen {n} (h : d.Canonical) : (d.patternSeen n).Canonical := .ite h.modPort h
theorem trainTimeout {n} (h : d.Canonical) : (d.trainTimeout n).Canonical := .ite h.portFail h

theorem laneRetired {n dir lane} (h : d.Canonical) : (d.laneRetired n dir lane).Canonical :=
  .ite h (.ite h.modPort.portEvent.portFail h.modPort.portEvent.beginRetrain)

theorem retrainInterval {n} (h : d.Canonical) : (d.retrainInterval n).Canonical := .ite h.portDark h

/-! The router. -/

theorem modBank {m f} (h : d.Canonical) : (d.modBank m f).Canonical := h.upd
theorem setQ {m out vc q} (h : d.Canonical) : (d.setQ m out vc q).Canonical := h.modBank
theorem enqueue {m out q} (h : d.Canonical) : (d.enqueue m out q).Canonical := h.setQ
theorem routerEvent {code port c} (h : d.Canonical) : (d.routerEvent code port c).Canonical := h.log

theorem deflect {m q displaced} (h : d.Canonical) : (d.deflect m q displaced).Canonical := by
  dsimp only [Dev.deflect]
  split
  · exact .ite h.enqueue h.enqueue.bump
  · exact .ite h.modBank.bump h.bump.routerEvent

theorem displace {m q outs} (h : d.Canonical) : (d.displace m q outs).Canonical := by
  induction outs with
  | nil => exact h.deflect
  | cons o rest ih =>
    unfold Dev.displace
    dsimp only
    split
    · exact ih
    · split
      · exact h.setQ.bump.bump.deflect
      · exact h.setQ.bump.bump

theorem place {m q} (h : d.Canonical) : (d.place m q).Canonical := by
  dsimp only [Dev.place]
  split
  · exact h.enqueue
  · exact .ite h.displace h.deflect

theorem mirrorCell {c port egress} (h : d.Canonical) : (d.mirrorCell c port egress).2.Canonical := h.fresh

theorem mirror {m port egress q} {put : QCell → Dev → Dev} (h : d.Canonical) (hput : ∀ a e, e.Canonical → (put a e).Canonical) :
    (d.mirror m port egress q put).Canonical := by
  dsimp only [Dev.mirror]
  refine .ite (hput _ _ h) ?_
  split
  · exact (hput _ _ h).mirrorCell.enqueue.bump
  · exact (hput _ _ h).bump

theorem deliver {c} (h : d.Canonical) : (d.deliver c).Canonical := by
  dsimp only [Dev.deliver]
  split
  · exact h.upd
  · exact .ite h.bump h.upd
  · split
    · exact h.bump
    · split
      · exact h.bump
      · exact .ite h.bump h.upd
  · exact h.upd
  · exact h.upd
  · exact h

theorem routerCellArrive {n t} (h : d.Canonical) : (d.routerCellArrive n t).Canonical := by
  dsimp only [Dev.routerCellArrive]
  split
  · exact h
  · split
    · exact h.modPort.bump.routerEvent
    · exact .ite h.modPort.bump (.ite h.modPort.bump.routerEvent (.ite h.modPort.bump.routerEvent (h.modPort.mirror (fun _ _ h => h.place))))

theorem leaveBank {m out q} (h : d.Canonical) : (d.leaveBank m out q).Canonical := h.mirror (fun _ _ h => .ite h.deliver (.ite h.upd h.upd))
theorem takeQ {m old out vc i} (h : d.Canonical) : (d.takeQ m old out vc i).Canonical := h.modBank
theorem takeReserve {m old i} (h : d.Canonical) : (d.takeReserve m old i).Canonical := h.modBank

theorem transitDepart {m t corr} (h : d.Canonical) : (d.transitDepart m t corr).Canonical := by
  dsimp only [Dev.transitDepart]
  split
  · exact h
  · split
    · split
      · exact leaveBank (.ite h.takeReserve.bump h.takeReserve)
      · exact h
    · exact h

theorem pickBulk {m old out} (h : d.Canonical) : ∀ x ∈ d.pickBulk m old out, x.2.2.Canonical := by
  intro x hx
  dsimp only [Dev.pickBulk] at hx
  split at hx
  · cases hx
    exact h
  · split at hx
    · cases hx
    · cases hx
      exact h.upd

theorem moveQueued {m old out} (h : d.Canonical) : (d.moveQueued m old out).Canonical := by
  dsimp only [Dev.moveQueued]
  split
  · exact h.takeQ.leaveBank
  · split
    · exact h
    · rename_i he
      have h' := h.pickBulk _ he
      split
      · exact h'.takeQ.leaveBank
      · exact h

theorem stage2Fill {m t corr} (h : d.Canonical) : (d.stage2Fill m t corr).Canonical := by
  dsimp only [Dev.stage2Fill]
  split
  · exact h
  · split
    · exact moveQueued (.ite h.bump h)
    · exact h

theorem discardAt {m at_} (h : d.Canonical) : ∀ x ∈ d.discardAt m at_, x.2.Canonical := by
  intro x hx
  cases at_ with
  | queue out vc pos =>
    dsimp only [Dev.discardAt] at hx
    split at hx
    · cases hx
    · split at hx <;> cases hx <;> exact h.takeQ
  | reserve pos =>
    dsimp only [Dev.discardAt] at hx
    split at hx
    · cases hx
    · split at hx <;> cases hx <;> exact h.takeReserve

theorem takeSpare {m} (h : d.Canonical) : (d.takeSpare m).Canonical := .ite h h.wrFld.modBank

theorem bankUncorr {m at_} (h : d.Canonical) : (d.bankUncorr m at_).Canonical := by
  dsimp only [Dev.bankUncorr]
  split
  · exact h
  · split
    · exact h
    · rename_i he
      have h' := h.discardAt _ he
      exact .ite h'.log.takeSpare h'.log

theorem charge {r} (h : d.Canonical) : (d.charge r).Canonical := by
  dsimp only [Dev.charge]
  split
  · exact h
  · exact bump (.ite h.modRing h)

theorem dropOffer {port o} (h : d.Canonical) : (d.dropOffer port o).Canonical := h.upd
theorem filCell {m} (h : d.Canonical) : (d.filCell m).2.Canonical := h.fresh

theorem tryInject {n t c} (h : d.Canonical) : (d.tryInject n t c).2.Canonical := by
  dsimp only [Dev.tryInject]
  split
  · exact h.bump.routerEvent
  · refine iteSnd h.bump (iteSnd h.bump.routerEvent ?_)
    split
    · exact h.bump
    · dsimp only
      exact h.mirror fun _ _ h => h.enqueue

theorem collRefused {id} (h : d.Canonical) : (d.collRefused id).Canonical := by
  dsimp only [Dev.collRefused]
  split
  · exact .ite (collSweep (voteFail (modColl h.upd))) (modColl h.upd)
  · exact modColl h.upd

theorem markInjected {c} (h : d.Canonical) : (d.markInjected c).Canonical := .ite h h.upd

theorem cellInject {n t} (h : d.Canonical) : (d.cellInject n t).Canonical := by
  fun_cases Dev.cellInject d n t with
  | case1 | case5 | case6 => exact h
  | case2 _ m _ c e he e' he' => exact snd he' (snd he h.filCell).tryInject
  | case3 _ m _ c e he e' he' => exact upd (snd he' (snd he h.filCell).tryInject)
  | case4 _ m _ c e he e' he' => exact bump (upd (snd he' (snd he h.filCell).tryInject))
  | case7 _ _ _ o _ e he => exact snd he h.tryInject
  | case8 _ _ _ o _ e he => exact (snd he h.tryInject).dropOffer.collRefused
  | case9 _ _ _ o _ e he => exact (snd he h.tryInject).dropOffer
  | case10 _ _ _ o _ e he e₁ e₂ =>
    have h₁ : e₁.Canonical := (snd he h.tryInject).dropOffer.markInjected
    exact .ite h₁.bump h₁
  | case11 _ _ _ o _ e he e₁ e₂ r =>
    have h₁ : e₁.Canonical := (snd he h.tryInject).dropOffer.markInjected
    have h₂ : e₂.Canonical := .ite h₁.bump h₁
    exact charge h₂.upd

theorem mirrorCapture (h : d.Canonical) : d.mirrorCapture.Canonical := by
  dsimp only [Dev.mirrorCapture]
  split
  · exact h
  · split
    · exact bump h.upd
    · exact .ite (bump (bump (modRing h.upd))) (cqPut (modRing h.upd))

/-! The memory-semantic unit. -/

theorem setReqs {rs} (h : d.Canonical) : (d.setReqs rs).Canonical := h.upd
theorem requestCell {r} (h : d.Canonical) : (d.requestCell r).2.Canonical := h.fresh

theorem pumpReqs {fuel} (h : d.Canonical) : (d.pumpReqs fuel).Canonical := by
  induction fuel generalizing d with
  | zero => exact h
  | succ fuel ih =>
    unfold Dev.pumpReqs
    split
    · exact h
    · split
      · exact h
      · extract_lets k seq r' i e₁ remote e₂
        have h₂ : e₂.Canonical := h.setReqs.upd
        split
        next he =>
        exact ih (offer (snd he h₂.requestCell))

theorem addReqs {rs} (h : d.Canonical) : (d.addReqs rs).Canonical := h.setReqs.pumpReqs
theorem respond {r status repl epoch data port} (h : d.Canonical) : (d.respond r status repl epoch data port).Canonical := h.fresh.offer
theorem setHome {src h'} (h : d.Canonical) : (d.setHome src h').Canonical := h.upd
theorem noteApplied {src seq} (h : d.Canonical) : (d.noteApplied src seq).Canonical := h.setHome.bump
theorem addSharer {line i} (h : d.Canonical) : (d.addSharer line i).Canonical := .ite h.upd h.upd

theorem applyAtHome {r} (h : d.Canonical) : (d.applyAtHome r).Canonical := by
  dsimp only [Dev.applyAtHome]
  split
  · exact respond (.ite (h.noteApplied.engineRead.foldl fun _ _ h => h.addSharer) h.noteApplied.engineRead)
  · refine respond ?_
    split
    · exact h.noteApplied.engineRead.engineWrite
    · exact h.noteApplied.engineRead
  · exact h.noteApplied.engineWrite.respond

theorem homeFault {code a} (h : d.Canonical) : (d.homeFault code a).Canonical := h.countUncorr.log
theorem refuseAtHome {r status} (h : d.Canonical) : (d.refuseAtHome r status).Canonical := h.noteApplied.respond

theorem serveRequest {r} (h : d.Canonical) : (d.serveRequest r).Canonical := by
  unfold Dev.serveRequest
  extract_lets a n
  refine .ite h.refuseAtHome (.ite h.refuseAtHome ?_)
  split
  · exact h.homeFault.refuseAtHome
  · split
    · exact h.deferWrite
    · exact h.applyAtHome

theorem flaggedApply {src} (h : d.Canonical) : (d.flaggedApply src).Canonical := by
  dsimp only [Dev.flaggedApply]
  split
  · exact h
  · exact h.setHome.serveRequest

theorem takeMem {mops} (h : d.Canonical) : ∀ x ∈ d.takeMem mops, x.2.2.Canonical := by
  intro x hx
  dsimp only [Dev.takeMem] at hx
  split at hx
  · cases hx
  · obtain ⟨_, _, rfl⟩ := Option.map_eq_some_iff.mp hx
    exact h.upd

theorem memRequest (h : d.Canonical) : d.memRequest.Canonical := by
  dsimp only [Dev.memRequest]
  split
  · exact h
  · rename_i he
    have h' := h.takeMem _ he
    exact .ite h' (.ite h'.bump (.ite (.ite h'.serveRequest h'.setHome) h'.serveRequest))

theorem memInvalidate (h : d.Canonical) : d.memInvalidate.Canonical := by
  dsimp only [Dev.memInvalidate]
  split
  · exact h
  · rename_i he
    have h' := h.takeMem _ he
    exact respond (h'.upd)

theorem resumeWait {w} (h : d.Canonical) : (d.resumeWait w).Canonical := by
  dsimp only [Dev.resumeWait]
  split
  · exact h.serveRequest
  · exact h.storeLine
  · exact h

theorem sharerDone {line i} (h : d.Canonical) : (d.sharerDone line i).Canonical := serveStalls (foldl h.upd fun _ _ h => h.resumeWait)
theorem invalidateTimeout {line} (h : d.Canonical) : (d.invalidateTimeout line).Canonical := h.foldl fun _ _ h => h.log.sharerDone
theorem cacheLine {home l bs} (h : d.Canonical) : (d.cacheLine home l bs).Canonical := h.upd
theorem cacheLines {home off bs} (h : d.Canonical) : (d.cacheLines home off bs).Canonical := h.foldl fun _ _ h => .ite h h.cacheLine
theorem freeReplica {home page} (h : d.Canonical) : (d.freeReplica home page).Canonical := h.upd
theorem dropFetch {home page} (h : d.Canonical) : (d.dropFetch home page).Canonical := h.setReqs.freeReplica

theorem beginReplica {home page epoch ctx} (h : d.Canonical) : (d.beginReplica home page epoch ctx).Canonical := by
  unfold Dev.beginReplica
  refine .ite h ?_
  split
  extract_lets used free e
  have he : e.Canonical := by
    unfold e
    split
    · exact h.dropFetch
    · exact h
  refine .ite h ?_
  split
  · exact he
  · exact he.upd.addReqs

theorem replicaFetched {home page} (h : d.Canonical) : (d.replicaFetched home page).Canonical := by
  dsimp only [Dev.replicaFetched]
  split
  · exact h
  · exact .ite h (.ite h.freeReplica h.upd)

theorem dropReplica {home page} (h : d.Canonical) : (d.dropReplica home page).Canonical := by
  dsimp only [Dev.dropReplica]
  split
  · exact h
  · exact .ite h (.ite h.bump.freeReplica h.bump.upd)

theorem replicaExpire {home page} (h : d.Canonical) : (d.replicaExpire home page).Canonical := by
  dsimp only [Dev.replicaExpire]
  split
  · exact h
  · exact .ite h h.dropReplica

theorem replicaInvalidate (h : d.Canonical) : d.replicaInvalidate.Canonical := by
  dsimp only [Dev.replicaInvalidate]
  split
  · exact h
  · split
    · exact .ite (dropReplica h.upd) h.upd
    · exact h.upd

/-! Programs. -/

theorem countEvent {p event ctx n} (h : d.Canonical) : (d.countEvent p event ctx n).Canonical := .ite h (h.foldl fun _ _ h => .ite h.bump h)
theorem retire {cores} (h : d.Canonical) : (d.retire cores).Canonical := h.foldl fun _ _ h => h.bump
theorem countCorr {p a ecc} (h : d.Canonical) : (d.countCorr p a ecc).Canonical := countEcc (.ite h h.bump)

theorem hmPart {g p order bs} (h : d.Canonical) : (d.hmPart g p order bs).Canonical := by
  dsimp only [Dev.hmPart]
  split
  · exact .ite h h.modOcc
  · exact h

theorem insnFault {p g pc code slot loc} (h : d.Canonical) : (d.insnFault p g pc code slot loc).Canonical := h.coreFault
theorem localFault {p g pc code slot loc} (h : d.Canonical) : (d.localFault p g pc code slot loc).Canonical := h.coreFault
theorem deviceFault {p g pc code addr} (h : d.Canonical) : (d.deviceFault p g pc code addr).Canonical := h.coreFault
theorem modProg {p f} (h : d.Canonical) : (d.modProg p f).Canonical := h.modCore
theorem issue {p g slot cores} (h : d.Canonical) : (d.issue p g slot cores).Canonical := h.modProg.foldl fun _ _ h => h.modCore.countEvent
theorem enter {p g slot cores i} (h : d.Canonical) : (d.enter p g slot cores i).Canonical := h.issue.modProg
theorem passed {p g cores} (h : d.Canonical) : (d.passed p g cores).Canonical := h.issue.retire
theorem complete {p order cores} (h : d.Canonical) : (d.complete p order cores).Canonical := h.modProg.retire
theorem releaseCore {ctx p} (h : d.Canonical) : (d.releaseCore ctx p).Canonical := .ite h.modCore h

theorem endProgram {p g} (h : d.Canonical) : (d.endProgram p g).Canonical :=
  .ite (h.modCore.withdrawCarats.foldl fun _ _ h => h.releaseCore) (finish (h.modCore.withdrawCarats.foldl fun _ _ h => h.releaseCore))

/-! Issue. -/

theorem strayInsn {p g} (h : d.Canonical) : (d.strayInsn p g).Canonical := by
  dsimp only [Dev.strayInsn]
  split
  · exact h.insnFault
  · exact h.insnFault
  · exact h.insnFault
  · exact h

theorem onInsn {p op ecc} {run : Dev → Prog → List Byte → Dev} (h : d.Canonical)
    (hrun : ∀ e g bs, e.Canonical → (run e g bs).Canonical) : (d.onInsn p op ecc run).Canonical := by
  unfold Dev.onInsn
  split
  · exact h
  · refine .ite h ?_
    split
    · exact h.strayInsn
    · refine .ite h ?_
      split
      · exact h.countCorr.localFault
      · exact hrun _ _ _ h

theorem endInsn {p ecc} (h : d.Canonical) : (d.endInsn p ecc).Canonical :=
  h.onInsn (fun _ _ _ h => .ite h.insnFault (.ite h h.passed.endProgram))

/-! Array instructions. -/

theorem emptyRetire {p g} (h : d.Canonical) : (d.emptyRetire p g).Canonical := h.issue.bump.countEvent

theorem arrIssue {p ecc g bs} (h : d.Canonical) : (d.arrIssue p ecc g bs).Canonical := by
  dsimp only [Dev.arrIssue]
  split
  · exact h.insnFault
  · split
    · exact h.emptyRetire
    · split
      · exact h
      · split
        · exact h.countCorr.localFault
        · split
          · exact h.countCorr.localFault
          · exact askCarats (.ite h.countCorr.enter.countEvent h.countCorr.enter)

theorem bypass {p a col} (h : d.Canonical) : (d.bypass p a col).Canonical := .ite h h.wrFld.wrFld

theorem drainCore {g i a lead total fed cq} (h : d.Canonical) : (d.drainCore g i a lead total fed cq).Canonical :=
  .ite (hmPart (.ite h.locWrite h.locWrite.bump)) (.ite h.locWrite h.locWrite.bump)

theorem arrayDrain {p residue ecc} (h : d.Canonical) : (d.arrayDrain p residue ecc).Canonical := by
  dsimp only [Dev.arrayDrain]
  split
  · exact h
  · split
    · exact h
    · split
      · exact h
      · split
        · exact h.countCorr.localFault
        · split
          · exact insnFault (h.countCorr.foldl fun _ _ h => h.bypass)
          · split
            · exact h.countCorr.localFault
            · exact complete (foldl (h.countCorr.foldl fun _ _ h => h.drainCore) fun _ _ h => h.countEvent.countEvent)

/-! Hints. -/

theorem hintFor {l e o} (h : d.Canonical) : (d.hintFor l e o).Canonical := by
  cases o with
  | none => exact h.bump
  | some ent => exact .ite h.bump (.ite h.bump (.ite h.bump (.ite h.bump h.upd.bump)))

theorem localHint {l e} (h : d.Canonical) : (d.localHint l e).Canonical := by
  rw [Dev.localHint_eq]
  exact h.hintFor

theorem sendHints {l home es} (h : d.Canonical) : (d.sendHints l home es).Canonical := h.foldl fun _ _ h => h.filSend

theorem takeHints {l experts es} (h : d.Canonical) : (d.takeHints l experts es).Canonical := foldl (h.foldl fun _ _ h => by
    split
    · exact h.bump
    · exact .ite h.localHint h) fun _ _ h => .ite h h.sendHints

theorem hintMessage (h : d.Canonical) : d.hintMessage.Canonical := by
  dsimp only [Dev.hintMessage]
  split
  · exact h
  · exact .ite (bump h.upd) (foldl h.upd fun _ _ h => .ite h.bump h.localHint)

/-! Vector instructions. -/

theorem vecRow {p op ecc} {run : Dev → Nat → Prog → VecInsn → Dev} (h : d.Canonical)
    (hrun : ∀ e c g v, e.Canonical → (run e c g v).Canonical) : (d.vecRow p op ecc run).Canonical := by
  refine h.onInsn fun e g bs h => ?_
  extract_lets v r c e₁ e₂
  have h₁ : e₁.Canonical := h.countCorr
  have h₂ : e₂.Canonical := h₁.foldl fun _ _ h => .ite h (hrun _ _ _ _ h)
  split
  · exact h.insnFault
  · refine .ite h ?_
    split
    · exact h₁.localFault
    · exact .ite h₂ h₂.passed

theorem vecPut {p g v bs} (h : d.Canonical) : (d.vecPut p g v bs).Canonical := .ite h.locWrite.hmPart h.locWrite
theorem vecUnary {p op ecc f} (h : d.Canonical) : (d.vecUnary p op ecc f).Canonical := h.vecRow (fun _ _ _ _ h => h.vecPut)
theorem vecBinary {p op ecc f} (h : d.Canonical) : (d.vecBinary p op ecc f).Canonical := h.vecRow (fun _ _ _ _ h => h.vecPut)
theorem vfma {p ecc} (h : d.Canonical) : (d.vfma p ecc).Canonical := h.vecRow (fun _ _ _ _ h => h.vecPut)
theorem vaxpy {p ecc} (h : d.Canonical) : (d.vaxpy p ecc).Canonical := h.vecRow (fun _ _ _ _ h => h.vecPut)
theorem vecReduce {p op ecc start f} (h : d.Canonical) : (d.vecReduce p op ecc start f).Canonical := h.vecRow (fun _ _ _ _ h => h.vecPut)
theorem vdot {p ecc} (h : d.Canonical) : (d.vdot p ecc).Canonical := h.vecRow (fun _ _ _ _ h => h.vecPut)
theorem vcvt {p ecc} (h : d.Canonical) : (d.vcvt p ecc).Canonical := h.vecRow (fun _ _ _ _ h => h.vecPut)
theorem vsel {p ecc} (h : d.Canonical) : (d.vsel p ecc).Canonical := h.vecRow (fun _ _ _ _ h => h.vecPut)

/-! Transfers. -/

theorem loadPiece {c a n local_} (h : d.Canonical) : (d.loadPiece c a n local_).Canonical := h.devTake.locWrite
theorem storePieceOf {c order a n local_} (h : d.Canonical) : (d.storePieceOf c order a n local_).Canonical := h.coreStore

theorem atomPiece {c order v} (h : d.Canonical) : (d.atomPiece c order v).Canonical := by
  dsimp only [Dev.atomPiece]
  refine locWrite ?_
  split
  · exact h.devTake.coreStore
  · exact h.devTake

theorem servePieces {c order v here} (h : d.Canonical) : (d.servePieces c order v here).Canonical :=
  .ite (.ite h.atomPiece h) (h.foldl fun _ _ h => .ite h (.ite h.loadPiece h.storePieceOf))

theorem tierAccess {c order v n} (h : d.Canonical) : (d.tierAccess c order v n).Canonical := servePieces (.ite h h.miss)

theorem request {c g mop aop home off len local_ data} (h : d.Canonical) : (d.request c g mop aop home off len local_ data).Canonical :=
  h.addReqs.countEvent

theorem ownAccess {off n store} (h : d.Canonical) : (d.ownAccess off n store).2.Canonical := by
  dsimp only [Dev.ownAccess]
  split
  · exact h
  · split
    · exact h.homeFault
    · exact h

theorem remoteLoad {c g addr n local_} (h : d.Canonical) : (d.remoteLoad c g addr n local_).Canonical := by
  dsimp only [Dev.remoteLoad]
  split
  · split <;> rename_i he <;> have h := snd he h.ownAccess
    · exact h.devTake.locWrite
    · exact h.request
    · exact h.deviceFault
  · split
    · exact h.locWrite
    · split
      · exact h.countHbm.bump.locWrite
      · exact h.request

theorem remoteStore {c g mop addr n local_} (h : d.Canonical) : (d.remoteStore c g mop addr n local_).Canonical := by
  dsimp only [Dev.remoteStore]
  split
  · split <;> rename_i he <;> have h' := snd he h.ownAccess
    · exact h'.devStore
    · exact h'.request
    · exact h'.deviceFault
  · exact h.request

theorem remoteAccess {c g v} (h : d.Canonical) : (d.remoteAccess c g v).Canonical := by
  dsimp only [Dev.remoteAccess]
  split
  · exact h.deviceFault
  · exact h.foldl fun _ _ h => .ite h (.ite h.remoteLoad h.remoteStore)

theorem atomRequest {c g v home off} (h : d.Canonical) : (d.atomRequest c g v home off).Canonical := h.request

theorem remoteAtom {c g v} (h : d.Canonical) : (d.remoteAtom c g v).Canonical := by
  dsimp only [Dev.remoteAtom]
  split
  · exact h.deviceFault
  · split
    · exact h.atomRequest
    · split <;> rename_i he <;> have h := snd he h.ownAccess
      · exact h.atomPiece
      · exact h.atomRequest
      · exact h.deviceFault

theorem memAccess {c g v ecc} (h : d.Canonical) : (d.memAccess c g v ecc).Canonical := by
  dsimp only [Dev.memAccess]
  split
  · exact h
  · split
    · exact h.deviceFault
    · split
      · exact h.deviceFault
      · exact .ite (.ite h.countEvent.remoteAtom h.countEvent.remoteAccess) (.ite h.countEvent.atomRequest h.countEvent.tierAccess)

theorem hmLoaded {g order v} (h : d.Canonical) : (d.hmLoaded g order v).Canonical := .ite h (h.foldl fun _ _ h => h.hmPart)

theorem memRow {p op ecc} (h : d.Canonical) : (d.memRow p op ecc).Canonical := by
  refine h.onInsn fun e g bs h => ?_
  extract_lets v r c e₁ e₂ stored e₃ away
  have h₂ : e₂.Canonical := .ite h.countCorr h.countCorr.countEcc
  have hstored : stored.Canonical := .ite (h₂.foldl fun _ _ h => h.hmPart) h₂
  have h₃ : e₃.Canonical := hstored.foldl fun _ _ h => .ite h h.memAccess
  split
  · exact h.insnFault
  · refine .ite h ?_
    split
    · exact h₂.localFault
    · exact .ite h₃ (.ite h₃.hmLoaded.passed h₃.enter)

theorem tryComplete {p i} (h : d.Canonical) : (d.tryComplete p i).Canonical := by
  dsimp only [Dev.tryComplete]
  split
  · exact h
  · exact .ite h.hmLoaded.complete h

theorem progress (h : d.Canonical) : d.progress.Canonical := h.foldl fun _ _ h => by
    split
    · exact h
    · exact h.foldl fun _ _ h => h.tryComplete

/-! Rows of cores. -/

theorem valloc {p ecc} (h : d.Canonical) : (d.valloc p ecc).Canonical := h.vecRow (fun _ _ _ _ h => by
    split
    · exact h.deviceFault
    · rename_i he
      have h' := h.userAlloc _ he
      exact h'.locWrite)

theorem vfree {p ecc} (h : d.Canonical) : (d.vfree p ecc).Canonical := by
  refine h.vecRow fun e c g v h => ?_
  extract_lets ptr
  refine .ite h.deviceFault ?_
  split
  · exact h.deviceFault
  · exact h.freeBuf

theorem vcount {p ecc} (h : d.Canonical) : (d.vcount p ecc).Canonical := h.vecRow (fun _ _ _ _ h => by
    split
    · exact h.insnFault
    · split
      · exact h.insnFault
      · exact h.locWrite)

theorem clwait {p ecc} (h : d.Canonical) : (d.clwait p ecc).Canonical := by
  refine h.onInsn fun e g bs h => ?_
  extract_lets v
  split
  · exact h.insnFault
  · refine .ite h ?_
    split
    · exact passed (h.foldl fun _ _ h => h.locWrite)
    · exact h.enter

theorem endClwaits {p n st} (h : d.Canonical) : (d.endClwaits p n st).Canonical := by
  dsimp only [Dev.endClwaits]
  split
  · exact h
  · exact h.foldl fun _ _ h => complete (h.foldl fun _ _ h => h.locWrite)

theorem clwaitDone {n st} (h : d.Canonical) : (d.clwaitDone n st).Canonical := h.foldl fun _ _ h => h.endClwaits

theorem clwaitTimeout {p} (h : d.Canonical) : (d.clwaitTimeout p).Canonical := by
  dsimp only [Dev.clwaitTimeout]
  split
  · exact h
  · exact h.foldl fun _ _ h => by
      split
      · exact .ite h h.endClwaits
      · exact h

theorem vkeep {p ecc} (h : d.Canonical) : (d.vkeep p ecc).Canonical := h.vecRow (fun _ _ _ _ h => by
    split
    · exact h.localFault
    · split
      · exact h.localFault
      · exact h.modCore)

theorem vhint {p ecc} (h : d.Canonical) : (d.vhint p ecc).Canonical := h.vecRow (fun _ _ _ _ h => h.takeHints)

/-! Arrivals from the vault. -/

theorem reqFault {r code} (h : d.Canonical) : (d.reqFault r code).Canonical := h.coreFault
theorem dropReq {r} (h : d.Canonical) : (d.dropReq r).Canonical := h.setReqs

theorem takeAnswer {r h' bs} (h : d.Canonical) : (d.takeAnswer r h' bs).Canonical := by
  dsimp only [Dev.takeAnswer]
  split
  · exact .ite h.dropFetch h.dirWrite.countHbm
  · split
    · exact h.reqFault
    · split
      · exact .ite (beginReplica (.ite h.locWrite.cacheLines h.locWrite)) (.ite h.locWrite.cacheLines h.locWrite)
      · exact h.locWrite
      · exact h

theorem pumped (h : d.Canonical) : d.pumped.Canonical := h.pumpReqs

theorem response {c h'} (h : d.Canonical) : (d.response c h').Canonical := by
  dsimp only [Dev.response]
  split
  · exact h
  · exact h.dropReq.takeAnswer.pumped.progress

theorem memResponse (h : d.Canonical) : d.memResponse.Canonical := by
  dsimp only [Dev.memResponse]
  split
  · split
    · exact .ite (response h.upd) h.upd
    · exact h.upd
  · split
    · exact h
    · rename_i he
      have h' := h.takeMem _ he
      exact h'.sharerDone.progress

theorem reqTimeout {core slot} (h : d.Canonical) : (d.reqTimeout core slot).Canonical := by
  dsimp only [Dev.reqTimeout]
  split
  · exact h
  · exact progress (pumped (.ite h.dropReq.dropFetch h.dropReq.reqFault))

theorem serveTile {p i t ecc} (h : d.Canonical) : (d.serveTile p i t ecc).Canonical := by
  dsimp only [Dev.serveTile]
  split
  · exact h
  · split
    · split
      · exact h
      · split
        · exact h.deviceFault
        · exact tryComplete (modProg (h.foldl fun _ _ h => h.servePieces))
    · exact h

theorem overScore {f : Dev → Nat → Issued → Dev} (h : d.Canonical) (hf : ∀ e p i, e.Canonical → (f e p i).Canonical) :
    (d.overScore f).Canonical :=
  h.foldl fun _ _ h => by
    split
    · exact h
    · exact h.foldl fun _ _ h => hf _ _ _ h

theorem tileFault {code t p i} (h : d.Canonical) : (d.tileFault code t p i).Canonical := by
  dsimp only [Dev.tileFault]
  split
  · exact .ite h.deviceFault h
  · exact h

theorem partFaults {code bad} (h : d.Canonical) : (d.partFaults code bad).Canonical := serveStalls (upd (h.foldl fun _ _ h => h.log))

theorem vaultFetchComplete {n poison ecc} (h : d.Canonical) : (d.vaultFetchComplete n poison ecc).Canonical := by
  dsimp only [Dev.vaultFetchComplete]
  split
  · exact h
  · split
    · exact h
    · exact .ite h (.ite (partFaults (h.fetchPoisoned.overScore (fun _ _ _ h => h.tileFault)))
        (h.fetchDone.countEcc.serveStalls.overScore (fun _ _ _ h => h.serveTile)))

theorem portFaults {n} (h : d.Canonical) : (d.portFaults n).Canonical := by
  dsimp only [Dev.portFaults]
  refine partFaults (h.overScore fun _ _ _ h => ?_)
  split
  · split
    · exact h.tileFault
    · exact h
  · exact h

theorem abortTransfers {n} (h : d.Canonical) : (d.abortTransfers n).Canonical := by
  dsimp only [Dev.abortTransfers]
  refine modVport ?_
  split
  · exact h
  · exact .ite h.tdirBit.tdirBit.tdirBit h.freeFrame

theorem clockDown {dom} (h : d.Canonical) : (d.clockDown dom).Canonical := .ite h.wrFld.wrFld h.wrFld
theorem clockUp {dom} (h : d.Canonical) : (d.clockUp dom).Canonical := .ite h.wrFld h.wrFld.upd
theorem vaultLinkDown {n} (h : d.Canonical) : (d.vaultLinkDown n).Canonical := .ite h h.wrFld.clockDown.clockDown.portFaults

/-! The message filter. -/

theorem filTake {typ} (h : d.Canonical) : (d.filTake typ).2.Canonical := by
  dsimp only [Dev.filTake]
  split
  · exact h
  · exact iteSnd h.upd (iteSnd (bump h.upd) (iteSnd (bump h.upd) (upd h.upd)))

theorem heldExpire (h : d.Canonical) : d.heldExpire.Canonical := bump h.upd
theorem filterExpire (h : d.Canonical) : d.filterExpire.Canonical := h.upd

/-! Routing engines. -/

theorem modLayer {f} (h : d.Canonical) : (d.modLayer f).Canonical := h.upd
theorem modHalf {h' f} (h : d.Canonical) : (d.modHalf h' f).Canonical := h.modLayer
theorem modRe {h' i f} (h : d.Canonical) : (d.modRe h' i f).Canonical := h.modHalf
theorem planBuf {l h' i size} (h : d.Canonical) : (d.planBuf l h' i size).2.Canonical := iteSnd h.alloc h.alloc.modRe

theorem planPut {l h' i bs} (h : d.Canonical) : (d.planPut l h' i bs).2.Canonical := by
  dsimp only [Dev.planPut]
  split <;> rename_i he <;> have h := snd he h.planBuf
  · exact h.reFault
  · split <;> rename_i he <;> have h := snd he h.writeFor
    · exact h
    · exact h

theorem putSegment {l h' i s} (h : d.Canonical) : (d.putSegment l h' i s).2.Canonical := by
  dsimp only [Dev.putSegment]
  split <;> rename_i he <;> have h := snd he h.planPut
  · exact h
  · split <;> rename_i he <;> have h := snd he h.planPut
    · exact h
    · exact h

theorem putPlan {l h' i segs} (h : d.Canonical) : (d.putPlan l h' i segs).2.Canonical := by
  dsimp only [Dev.putPlan]
  split <;> rename_i he <;> have h := snd he (foldlSnd h fun _ _ h => by
    split
    · exact h
    · split <;> rename_i he <;> have h := snd he h.putSegment
      · exact h
      · exact h)
  · exact h
  · split <;> rename_i he <;> have h := snd he h.planPut
    · exact h
    · exact h.modRe

theorem sendCounts {l h'} (h : d.Canonical) : (d.sendCounts l h').Canonical := h.foldl fun _ _ h => h.foldl fun _ _ h => h.filSend

theorem demandTile {ctx layer e i} (h : d.Canonical) : (d.demandTile ctx layer e i).2.Canonical :=
  iteSnd h (iteSnd h.engineFault (.ite (modCtx (pin (upd (.ite h.bump h)))) (queueFetch (modCtx (pin (upd (.ite h.bump h)))))))

theorem demandExpert {l e} (h : d.Canonical) : (d.demandExpert l e).2.Canonical := by
  dsimp only [Dev.demandExpert]
  split
  · exact h.modLayer.bump
  · exact foldlSnd h.modLayer fun _ _ h => iteSnd h.demandTile h

theorem mapSlot {l h' table slot e} (h : d.Canonical) : (d.mapSlot l h' table slot e).2.Canonical := iteSnd h.reFault h.writeFor
theorem demands {l table slots} (h : d.Canonical) : (d.demands l table slots).2.Canonical := foldlSnd h fun _ _ h => iteSnd h.demandExpert h

theorem mapSlots {l h' table serves} (h : d.Canonical) : (d.mapSlots l h' table serves).2.Canonical := by
  dsimp only [Dev.mapSlots]
  split <;> rename_i he <;> have h' := snd he (foldlSnd h fun _ _ h => iteSnd h.mapSlot h)
  · exact h'
  · exact h'.demands

theorem settleMaps {h'} (h : d.Canonical) : (d.settleMaps h').Canonical := by
  dsimp only [Dev.settleMaps]
  split
  · exact h
  · exact .ite h.modHalf h

theorem tryMap {h'} (h : d.Canonical) : (d.tryMap h').Canonical := by
  dsimp only [Dev.tryMap]
  split
  · exact h
  · split
    · exact h
    · split
      · exact h
      · exact .ite h.mapSlots h.mapSlots.modHalf.settleMaps

theorem scoreAt {l h' i t} (h : d.Canonical) : (d.scoreAt l h' i t).2.Canonical := by
  dsimp only [Dev.scoreAt]
  split <;> rename_i he <;> have h := snd he h.readFor
  · exact h
  · split
    · exact h
    · exact iteSnd h.bump h.reFault

theorem scoreHalf {l h' i} (h : d.Canonical) : (d.scoreHalf l h' i).2.Canonical := foldlSnd h fun _ _ h => by
    split
    · exact h
    · split <;> rename_i he <;> have h := snd he h.scoreAt
      · exact h.bump
      · exact h

theorem putKeoth {l h' i sorted} (h : d.Canonical) : (d.putKeoth l h' i sorted).2.Canonical := by
  dsimp only [Dev.putKeoth]
  split <;> rename_i he <;> have h := snd he h.planPut
  · exact h
  · split <;> rename_i he <;> have h := snd he h.planBuf
    · exact h.reFault
    · exact h.modRe

theorem planReady {i} (h : d.Canonical) : (d.planReady i).Canonical := by
  unfold Dev.planReady
  split
  · exact h
  · split
    · exact h
    · extract_lets own e₁
      split <;> rename_i he <;> have h := snd he h.modLayer.scoreHalf
      · exact h
      · extract_lets c e₂ sorted
        have h₂ : e₂.Canonical := h.bump.bump
        split
        next he =>
        have h := snd he (iteSnd h₂.putKeoth h₂.putPlan)
        extract_lets e₃
        have h₃ : e₃.Canonical := h.modRe
        refine .ite h ?_
        split
        · exact h₃
        · exact .ite h₃ h₃.sendCounts.tryMap

theorem countFault {layer half slot} (h : d.Canonical) : (d.countFault layer half slot).Canonical := by
  dsimp only [Dev.countFault]
  split
  · exact h.setReFault.log
  · exact h.reFault

theorem countReceive (h : d.Canonical) : d.countReceive.Canonical := by
  dsimp only [Dev.countReceive]
  split <;> rename_i he <;> have h := snd he h.filTake
  · exact h
  · exact .ite h.bump (.ite h.countFault (.ite h.countFault (tryMap h.upd)))

theorem countTimeout {i} (h : d.Canonical) : (d.countTimeout i).Canonical := .ite h.abandonLayer.collSweep h

/-! Layers. -/

theorem joinReport {j e slot} (h : d.Canonical) : (d.joinReport j e slot).Canonical := .ite h.post h.bump

theorem kvJoin {j o e} (h : d.Canonical) : (d.kvJoin j o e).2.Canonical := by
  dsimp only [Dev.kvJoin]
  split
  · exact h.postStore.wr.joinReport
  · exact h.bump.joinReport

theorem kvJoins {j es} (h : d.Canonical) : (d.kvJoins j es).2.Canonical := foldlSnd h fun _ _ h => h.kvJoin

theorem kvRead {c addr t} (h : d.Canonical) : (d.kvRead c addr t).2.Canonical := by
  dsimp only [Dev.kvRead]
  split
  · exact h
  · split <;> rename_i he <;> have h := snd he h.readFor
    · exact h
    · split
      · exact h
      · split <;> rename_i he <;> have h := snd he h.readFor
        · exact h
        · split
          · exact h
          · exact iteSnd h h

theorem checkHeld {l} (h : d.Canonical) : (d.checkHeld l).Canonical := by
  dsimp only [Dev.checkHeld]
  split
  · exact countFault h.upd
  · exact h.upd

theorem readLayer {l n i} (h : d.Canonical) : (d.readLayer l n i).2.Canonical := by
  unfold Dev.readLayer
  extract_lets da
  split <;> rename_i he <;> have h' := snd he h.readFor
  · exact h'
  · extract_lets l ba
    split
    · exact h'.reFault
    · split <;> rename_i he <;> have h'' := snd he h'.readFor
      · exact h''
      · extract_lets l
        split
        · exact h''.reFault
        · exact h''

theorem readLayers {l n} (h : d.Canonical) : (d.readLayers l n).2.Canonical := foldlSnd h fun _ _ h => by
    split
    · exact h
    · split <;> rename_i he <;> have h := snd he h.readLayer
      · exact h
      · exact h

theorem startLayer {j t o leaving} (h : d.Canonical) : (d.startLayer j t o leaving).Canonical := by
  dsimp only [Dev.startLayer]
  split <;> rename_i he <;> have h' := snd he (readLayers (by split; exacts [h.modCtx.modOcc, h.modCtx]))
  · exact h'
  · exact checkHeld (h'.upd)

theorem stepCmd {ring seq} (h : d.Canonical) : (d.stepCmd ring seq).Canonical := by
  dsimp only [Dev.stepCmd]
  split
  · exact h
  · split
    · exact h
    · split <;> rename_i he <;> have h := snd he h.modJob.kvRead
      · exact h
      · exact h.fresh.finish
      · exact h.kvJoins.startLayer

theorem keothPost {i} (h : d.Canonical) : (d.keothPost i).Canonical := by
  dsimp only [Dev.keothPost]
  split
  · exact h
  · exact .ite h h.cqPut.modRe

theorem hostRow {x gather slot} (h : d.Canonical) : (d.hostRow x gather slot).2.Canonical := by
  dsimp only [Dev.hostRow]
  split
  · exact h
  · exact h.fresh

theorem hostSegment {l h' i a done} (h : d.Canonical) : (d.hostSegment l h' i a done).2.Canonical := by
  dsimp only [Dev.hostSegment]
  split <;> rename_i he <;> have h := snd he h.readFor
  · exact h
  · split
    · exact h.reFault
    · split <;> rename_i he <;> have h := snd he h.readFor
      · exact h
      · split <;> rename_i he <;> have h := snd he h.readFor
        · exact h
        · split
          · exact h.reFault
          · exact foldlSnd h fun _ _ h => h.hostRow

theorem hostPlan {l h' i} (h : d.Canonical) : (d.hostPlan l h' i).2.Canonical := by
  dsimp only [Dev.hostPlan]
  split <;> rename_i he <;> have h := snd he h.readFor
  · exact h
  · exact foldlSnd h fun _ _ h => by
      split
      · exact h
      · split <;> rename_i he <;> have h := snd he h.hostSegment
        · exact h
        · exact h

theorem acceptPlan {l h' i segs} (h : d.Canonical) : (d.acceptPlan l h' i segs).Canonical := by
  dsimp only [Dev.acceptPlan]
  split <;> rename_i he <;> have h' := snd he h.readFor
  · exact h'
  · split
    · exact h'.reFault
    · exact .ite h'.mapSlots h'.mapSlots.modRe.modHalf.settleMaps

theorem keothPlan {i} (h : d.Canonical) : (d.keothPlan i).Canonical := by
  dsimp only [Dev.keothPlan]
  split
  · exact h
  · split <;> rename_i he <;> have h := snd he h.hostPlan
    · exact h
    · exact h.acceptPlan

theorem iteOpt {c : Prop} [Decidable c] {a b : Option Dev} (ha : ∀ e ∈ a, e.Canonical) (hb : ∀ e ∈ b, e.Canonical) :
    ∀ e ∈ (if c then a else b), e.Canonical := by
  split <;> assumption

theorem noneOpt : ∀ e ∈ (none : Option Dev), e.Canonical := fun _ he => nomatch he

theorem someOpt (h : d.Canonical) : ∀ e ∈ some d, e.Canonical := fun _ he => Option.mem_some.mp he ▸ h

theorem keothResume {p i val ecc} (h : d.Canonical) : ∀ e ∈ d.keothResume p i val ecc, e.Canonical := by
  unfold Dev.keothResume
  split
  · exact noneOpt
  · exact iteOpt noneOpt (someOpt (h.act fun _ h => h.keothPlan))

theorem keothTimeout {i} (h : d.Canonical) : (d.keothTimeout i).Canonical := by
  dsimp only [Dev.keothTimeout]
  split
  · exact h
  · exact .ite h h.reFault

theorem combineToken {l h' t} (h : d.Canonical) : (d.combineToken l h' t).2.Canonical := by
  dsimp only [Dev.combineToken]
  split <;> rename_i he <;> have h := snd he (foldlSnd h fun _ _ h => by
    split
    · exact h
    · split <;> rename_i he <;> have h := snd he h.readFor
      · exact h
      · exact h)
  · exact h
  · exact h

theorem combineOne {l h' q j t} (h : d.Canonical) : (d.combineOne l h' q j t).2.Canonical := by
  dsimp only [Dev.combineOne]
  split <;> rename_i he <;> have h := snd he h.combineToken
  · exact h
  · split <;> rename_i he <;> have h := snd he h.writeFor
    · exact h
    · split
      · exact h
      · exact h.modOcc

theorem ownCore {ctx p} (h : d.Canonical) : (d.ownCore ctx p).Canonical := .ite h h.modCore

theorem endLayer {l} (h : d.Canonical) : (d.endLayer l).Canonical :=
  finishStep (foldl (dropDemandPins h.upd) fun _ _ h => h.reclaim.freeSlot)

theorem orderedCombine {half} (h : d.Canonical) : (d.orderedCombine half).Canonical := by
  unfold Dev.orderedCombine
  split
  · exact h
  · extract_lets x
    refine .ite h ?_
    split
    next he =>
    have h := snd he (foldlSnd h fun _ _ h => iteSnd h.combineOne h)
    extract_lets e₁ e₂ e₃
    have h₃ : e₃.Canonical := modHalf (foldl (h.foldl fun _ _ h => h.ownCore) fun _ _ h => h.hwFree)
    refine .ite h ?_
    split
    · exact .ite h₃.endLayer h₃
    · exact h₃

/-! Collectives. -/

theorem landAll {ctx parts} (h : d.Canonical) : (d.landAll ctx parts).2.Canonical := foldlSnd h fun _ _ h => iteSnd h.writeFor h

theorem readSpans {ctx spans} (h : d.Canonical) : (d.readSpans ctx spans).2.Canonical := foldlSnd h fun _ _ h => by
    split
    · exact h
    · split <;> rename_i he <;> have h := snd he h.readFor
      · exact h
      · exact h

theorem sendStream {c level shard peer bs} (h : d.Canonical) : (d.sendStream c level shard peer bs).Canonical :=
  .ite h (h.foldl fun _ _ h => h.fresh.offer)

theorem takeSpace {c} (h : d.Canonical) : (d.takeSpace c).2.2.Canonical := by
  unfold Dev.takeSpace
  extract_lets size
  split
  · exact h
  · refine foldlOn (fun s : Bool × List (Nat × Nat × Nat × Nat) × Dev => s.2.2) h fun s x h => ?_
    split
    · exact h
    · dsimp only
      split
      · exact h.alloc
      · exact h.alloc

theorem levelZero {c} (h : d.Canonical) : (d.levelZero c).2.Canonical := by
  dsimp only [Dev.levelZero]
  split <;> rename_i he <;> have h := snd he h.readFor
  · exact h
  · exact h

theorem passOn {c level j vs} (h : d.Canonical) : (d.passOn c level j vs).Canonical := .ite h.modColl h.modColl.sendStream
theorem padOutput {c} (h : d.Canonical) : (d.padOutput c).2.Canonical := iteSnd h.writeFor h

theorem gatherOut {c spans bs send} (h : d.Canonical) : (d.gatherOut c spans bs send).Canonical :=
  .ite h.landAll
    (.ite h.landAll.padOutput (.ite (h.landAll.padOutput.modColl.foldl fun _ _ h => .ite h h.sendStream) h.landAll.padOutput.modColl))

theorem shardDone {c vs} (h : d.Canonical) : (d.shardDone c vs).Canonical := .ite h.gatherOut h.gatherOut

theorem nodeInput {c level j src} (h : d.Canonical) : (d.nodeInput c level j src).2.Canonical := by
  dsimp only [Dev.nodeInput]
  split
  · exact h
  · split
    · exact iteSnd h h.readSpans
    · exact h

theorem runNode {id level j} (h : d.Canonical) : (d.runNode id level j).Canonical := by
  dsimp only [Dev.runNode]
  split
  · exact h
  · split
    · exact h
    · split
      · exact h
      · split
        · exact foldlSnd h fun _ _ h => by
            split
            · exact h
            · split <;> rename_i he <;> have h := snd he h.nodeInput
              · exact h
              · exact h
        · exact .ite (shardDone (passOn (foldlSnd h fun _ _ h => by
            split
            · exact h
            · split <;> rename_i he <;> have h := snd he h.nodeInput
              · exact h
              · exact h))) (passOn (foldlSnd h fun _ _ h => by
            split
            · exact h
            · split <;> rename_i he <;> have h := snd he h.nodeInput
              · exact h
              · exact h))

theorem runNodes {c} (h : d.Canonical) : (d.runNodes c).Canonical := .ite h (h.foldl fun _ _ h => h.foldl fun _ _ h => h.runNode)

theorem sendAll {c} (h : d.Canonical) : (d.sendAll c).Canonical := by
  dsimp only [Dev.sendAll]
  split
  · exact h
  · split
    · exact h.foldl fun _ _ h => by
        split
        · exact h
        · split <;> rename_i he <;> have h := snd he h.readFor
          · exact h.sendStream
          · exact h
    · split
      · split <;> rename_i he <;> have h := snd he h.levelZero
        · exact h
        · exact h.foldl fun _ _ h => h.passOn
      · split
        · exact h
        · split <;> rename_i he <;> have h := snd he h.readFor
          · exact h
          · exact h.gatherOut

theorem sendDispatch {c l h' peer} (h : d.Canonical) : (d.sendDispatch c l h' peer).Canonical := by
  dsimp only [Dev.sendDispatch]
  split
  · exact h
  · split <;> rename_i he <;> have h := snd he h.readSpans
    · exact h
    · exact h.sendStream

theorem sendReturn {c l h' peer} (h : d.Canonical) : (d.sendReturn c l h' peer).Canonical := .ite h h.sendStream

theorem sendSegments {c half dir} (h : d.Canonical) : (d.sendSegments c half dir).Canonical := by
  dsimp only [Dev.sendSegments]
  split
  · exact h
  · exact h.foldl fun _ _ h => .ite h.sendDispatch h.sendReturn

theorem voteIfDone {id} (h : d.Canonical) : (d.voteIfDone id).Canonical := by
  dsimp only [Dev.voteIfDone]
  split
  · exact h
  · exact .ite h (.ite (.ite h.padOutput.enterClose h.padOutput) h.enterClose)

theorem smallEnter {id} (h : d.Canonical) : (d.smallEnter id).Canonical := by
  dsimp only [Dev.smallEnter]
  split
  · exact h
  · exact modColl (upd (.ite h (h.foldl fun _ _ h => h.foldl fun _ _ h => h.filSend)))

theorem smallEnd {c} (h : d.Canonical) : (d.smallEnd c).Canonical := by
  dsimp only [Dev.smallEnd]
  exact .ite h.landAll.enterClose h.landAll

theorem smallRun {id enter fuel} (h : d.Canonical) : (d.smallRun id enter fuel).Canonical := by
  induction fuel generalizing d enter with
  | zero => exact h
  | succ fuel ih =>
    unfold Dev.smallRun
    split
    · exact h
    · refine .ite h (.ite h.smallEnd ?_)
      have h : (if enter then d.smallEnter id else d).Canonical := .ite h.smallEnter h
      dsimp only
      split
      · exact h
      · exact .ite h (ih h.modColl)

theorem smallStart {c} (h : d.Canonical) : (d.smallStart c).Canonical := by
  dsimp only [Dev.smallStart]
  split
  · split <;> rename_i he <;> have h := snd he h.levelZero
    · exact h.modColl.smallRun
    · exact h
  · split
    · split <;> rename_i he <;> have h := snd he h.readFor
      · exact h.modColl.smallRun
      · exact h
    · exact h.modColl.smallRun

theorem collStep {id} (h : d.Canonical) : (d.collStep id).Canonical := by
  dsimp only [Dev.collStep]
  split
  · exact h
  · split
    · split
      · exact h
      · split
        · exact h.enterClose
        · split
          · exact h.modColl.enterClose
          · refine voteIfDone ?_
            refine runNodes ?_
            split
            · exact h.modColl.sendSegments
            · exact h.modColl.sendAll
    · exact .ite h.enterClose h.runNodes.voteIfDone
    · exact h

theorem enterOpen {id status} (h : d.Canonical) : (d.enterOpen id status).Canonical := h.modColl.bump.barrierRun.collStep.collSweep

theorem openColl {c} (h : d.Canonical) : (d.openColl c).Canonical := by
  unfold Dev.openColl
  extract_lets bad e
  have he : e.Canonical := h.bump.modColl
  refine .ite (.ite he.enterClose (.ite he.enterClose.collSweep (.ite he.voteFail.collSweep he.smallStart.collSweep)))
    (.ite h.enterOpen ?_)
  dsimp only
  exact h.takeSpace.modColl.enterOpen

theorem collective {ring seq} (h : d.Canonical) : (d.collective ring seq).Canonical := by
  dsimp only [Dev.collective]
  split
  · exact h
  · split
    · exact h
    · split <;> rename_i he <;> have h := snd he h.readFor
      · exact h
      · exact .ite h h.modJob.upd

theorem collectiveOpen (h : d.Canonical) : d.collectiveOpen.Canonical := by
  dsimp only [Dev.collectiveOpen]
  split
  · exact .ite h.openColl h
  · exact h

theorem openSegments {l half dir streams} (h : d.Canonical) : (d.openSegments l half dir streams).Canonical := enterOpen h.upd

theorem dispatchOpen {h'} (h : d.Canonical) : (d.dispatchOpen h').Canonical := by
  dsimp only [Dev.dispatchOpen]
  split
  · exact h
  · exact .ite h h.modHalf.openSegments

theorem returnOpen {h'} (h : d.Canonical) : (d.returnOpen h').Canonical := by
  dsimp only [Dev.returnOpen]
  split
  · exact h
  · exact .ite h h.modHalf.openSegments

theorem headerFault {c src bs} (h : d.Canonical) : (d.headerFault c src bs).Canonical := by
  dsimp only [Dev.headerFault]
  split
  · exact h.countFault
  · exact h

theorem placeCell {c s index bs} (h : d.Canonical) : (d.placeCell c s index bs).Canonical :=
  .ite h.modColl.bump.headerFault.collSweep (.ite h.modColl.bump.landAll.collStep.collSweep h.modColl.bump.landAll.collSweep)

theorem versionSeen {id} (h : d.Canonical) : (d.versionSeen id).Canonical := by
  dsimp only [Dev.versionSeen]
  split
  · exact .ite h.bump.modColl.voteFail.collSweep h.bump.modColl
  · exact h.bump.modColl

theorem collReceive (h : d.Canonical) : d.collReceive.Canonical := by
  dsimp only [Dev.collReceive]
  split
  · exact h
  · split
    · exact bump h.upd
    · split
      · exact versionSeen h.upd
      · split
        · exact bump h.upd
        · split
          · exact bump h.upd
          · split
            · exact .ite (collSweep (headerFault h.upd)) (bump h.upd)
            · exact .ite (bump h.upd) (.ite (bump h.upd) (placeCell h.upd))

theorem barrierMessage (h : d.Canonical) : d.barrierMessage.Canonical := by
  dsimp only [Dev.barrierMessage]
  split <;> rename_i he <;> have h := snd he h.filTake
  · exact h
  · exact .ite (.ite (collSweep (voteFail (upd (.ite h h.bump)))) (upd (.ite h h.bump)))
      (collSweep (collStep (barrierRun (modColl (.ite h h.bump)))))

theorem smallMessage (h : d.Canonical) : d.smallMessage.Canonical := by
  dsimp only [Dev.smallMessage]
  split <;> rename_i he <;> have h := snd he h.filTake
  · exact h
  · exact .ite h.upd h.modColl.smallRun.collSweep

theorem collDeadline {id} (h : d.Canonical) : (d.collDeadline id).Canonical := by
  dsimp only [Dev.collDeadline]
  split
  · exact h
  · exact .ite h (collSweep (collReport (.ite h.modColl h.modColl.modColl.barrierRun)))

/-! Contexts. -/

theorem createCtx {c role rt save} (h : d.Canonical) : ∀ e ∈ d.createCtx c role rt save, e.Canonical :=
  iteOpt noneOpt (iteOpt noneOpt (someOpt h.modCtx))

theorem destroyCtx {c} (h : d.Canonical) : ∀ e ∈ d.destroyCtx c, e.Canonical := by
  unfold Dev.destroyCtx
  refine iteOpt noneOpt ?_
  split
  · exact someOpt h.modCtx.tearDown
  · exact someOpt h.modCtx
  · exact noneOpt

theorem ctxCmd {v} (h : d.Canonical) : ∀ e ∈ d.ctxCmd v, e.Canonical := iteOpt h.createCtx (iteOpt h.destroyCtx noneOpt)
theorem countMove {c l p store} (h : d.Canonical) : (d.countMove c l p store).Canonical := h.countHbm.countHbm.fresh.countEvent

theorem freeWords {n} (h : d.Canonical) : (d.freeWords n).2.Canonical := by
  induction n generalizing d with
  | zero => exact h
  | succ n ih => exact ih h.fresh

theorem saveCore {c l p} (h : d.Canonical) : (d.saveCore c l p).Canonical := by
  dsimp only [Dev.saveCore]
  exact modCtx (upd (countMove (dirWrite (freeWords h.dirCopyIn.dirCopyIn))))

theorem restoreCore {c l p} (h : d.Canonical) : (d.restoreCore c l p).Canonical := by
  unfold Dev.restoreCore
  extract_lets a e₁ e₂ e₃ e₄
  have h₁ : e₁.Canonical := h.setLoc (memWf_dirCopyOut _ _ _ _ h.loc)
  have h₃ : e₃.Canonical := countMove (h₁.setLoc (memWf_dirCopyOut _ _ _ _ h₁.loc))
  have h₄ : e₄.Canonical := by
    unfold e₄
    split
    · exact h₃.modCore
    · exact h₃
  exact h₄.upd.modCtx

theorem leaveCore {c p} (h : d.Canonical) : (d.leaveCore c p).Canonical := by
  dsimp only [Dev.leaveCore]
  split
  · exact .ite h.saveCore h
  · exact h

theorem switchCore {c p} (h : d.Canonical) : (d.switchCore c p).Canonical := by
  dsimp only [Dev.switchCore]
  split
  · exact h
  · exact bump (modCore (.ite h.leaveCore.restoreCore h.leaveCore))

theorem quiesce {c p} (h : d.Canonical) : (d.quiesce c p).Canonical := h.modProg.foldl fun _ _ h => h.modCore

theorem suspend {p} (h : d.Canonical) : (d.suspend p).Canonical := by
  dsimp only [Dev.suspend]
  split
  · exact h
  · exact modCore (withdrawCarats (discard (.ite h.bump h)))

theorem halfSwitch {c unit} (h : d.Canonical) : (d.halfSwitch c unit).Canonical :=
  .ite h (foldl (h.foldl fun _ _ h => h.suspend) fun _ _ h => h.leaveCore.modCore)

theorem contextSwitch {p c} (h : d.Canonical) : (d.contextSwitch p c).Canonical := by
  unfold Dev.contextSwitch
  extract_lets unit foreign progs e₁ e₂
  have h₁ : e₁.Canonical := h.foldl fun _ _ h => h.quiesce
  have h₂ : e₂.Canonical := h₁.foldl fun _ _ h => h.suspend
  exact .ite h.halfSwitch (.ite h (.ite h (.ite h₁ (h₂.foldl fun _ _ h => h.switchCore))))

theorem suspendedResume {p} (h : d.Canonical) : (d.suspendedResume p).Canonical := by
  dsimp only [Dev.suspendedResume]
  split
  · exact .ite h (h.modProg.foldl fun _ _ h => h.modCore)
  · exact .ite h (modCore (.ite (h.foldl fun _ _ h => h.switchCore) h))

/-! The timebase. -/

theorem tbEvent {code reg ctx} (h : d.Canonical) : (d.tbEvent code reg ctx).Canonical := h.wrFld.log
theorem setLocked {v} (h : d.Canonical) : (d.setLocked v).Canonical := h.wrFld
theorem setHoldover {v} (h : d.Canonical) : (d.setHoldover v).Canonical := h.wrFld
theorem setParent {n} (h : d.Canonical) : (d.setParent n).Canonical := h.wrFld

theorem beatStart (h : d.Canonical) : d.beatStart.Canonical :=
  .ite (wr (wrFld (wrFld (setParent (setLocked (setHoldover h.upd)))))) (wrFld (setParent (setLocked (setHoldover h.upd))))

theorem align {stroke e lock} (h : d.Canonical) : (d.align stroke e lock).Canonical :=
  .ite (.ite (setLocked h.upd) h.upd) (.ite (setLocked h.upd) h.upd)

theorem beatLost (h : d.Canonical) : d.beatLost.Canonical := .ite h (.ite (tbEvent (setHoldover (setLocked (wrFld h.upd)))) (wrFld h.upd))

theorem beatInEdge {good e} (h : d.Canonical) : (d.beatInEdge good e).Canonical :=
  .ite h (.ite (.ite (wrFld h.upd) (.ite (align (setLocked (wrFld h.upd))) (setHoldover (align (setLocked (wrFld h.upd))))))
    (.ite (beatLost h.upd) h.upd))

theorem followRecord {n r} (h : d.Canonical) : (d.followRecord n r).Canonical := h.setParent.wrFld.setHoldover.wr

theorem beatRecord {n at_} (h : d.Canonical) : (d.beatRecord n at_).Canonical := by
  unfold Dev.beatRecord
  split
  · exact h
  · extract_lets e₁ tb e₂ e₃
    have h₂ : e₂.Canonical := h.modPort.upd
    have h₃ : e₃.Canonical := .ite h₂.wrFld.tbEvent h₂
    exact .ite h (.ite h.modPort.bump (.ite h₃ (.ite h₃.followRecord.align h₃)))

theorem rechoose (h : d.Canonical) : d.rechoose.Canonical := by
  dsimp only [Dev.rechoose]
  split
  · exact h
  · split
    · exact .ite h.followRecord (.ite h h.followRecord.bump)
    · exact h

theorem parentLost (h : d.Canonical) : d.parentLost.Canonical := by
  dsimp only [Dev.parentLost]
  split
  · exact h
  · refine tbEvent ?_
    refine bump ?_
    split
    · exact h.followRecord
    · exact h.setParent.setHoldover.setLocked

theorem modClasp {n f} (h : d.Canonical) : (d.modClasp n f).Canonical := h.upd

theorem claspRun {n enter fuel} (h : d.Canonical) : (d.claspRun n enter fuel).Canonical := by
  induction fuel generalizing d enter with
  | zero => exact h
  | succ fuel ih =>
    unfold Dev.claspRun
    split
    · exact h
    · extract_lets line e₁ fil e₂
      have h₁ : e₁.Canonical := h.foldl fun _ _ h => h.filSend
      have h₂ : e₂.Canonical := .ite h₁.upd.modClasp h
      refine .ite h (.ite (ih h.modClasp) ?_)
      split
      · exact h₂
      · exact .ite (ih h₂.modClasp) h₂

theorem claspClose {c st} (h : d.Canonical) : (d.claspClose c st).Canonical := by
  unfold Dev.claspClose
  extract_lets tb t e₁ e₂ e₃
  have h₂ : e₂.Canonical := clwaitDone h.upd
  have h₃ : e₃.Canonical := .ite h₂.bump.tbEvent (.ite h₂.tbEvent h₂)
  exact .ite h₃.finish h₃.finish

theorem claspSettle {n} (h : d.Canonical) : (d.claspSettle n).Canonical := by
  dsimp only [Dev.claspSettle]
  split
  · exact h
  · exact .ite h (.ite h.claspClose (.ite h.claspClose h.modClasp))

theorem claspOpen {n lead timeout ring seq ctx} (h : d.Canonical) : (d.claspOpen n lead timeout ring seq ctx).Canonical :=
  claspSettle (claspRun h.upd)

theorem claspAdmit {fuel} (h : d.Canonical) : (d.claspAdmit fuel).Canonical := by
  induction fuel generalizing d with
  | zero => exact h
  | succ fuel ih =>
    unfold Dev.claspAdmit
    refine .ite h ?_
    split
    · exact h
    · exact ih (.ite h.upd.claspOpen h.upd)

theorem claspNext (h : d.Canonical) : d.claspNext.Canonical := h.claspAdmit

theorem claspCmd {ring seq} (h : d.Canonical) : (d.claspCmd ring seq).Canonical := by
  dsimp only [Dev.claspCmd]
  split
  · exact h
  · exact .ite h (claspNext h.modJob.upd)

theorem claspMessage (h : d.Canonical) : d.claspMessage.Canonical := by
  dsimp only [Dev.claspMessage]
  split <;> rename_i he <;> have h := snd he h.filTake
  · exact h
  · split
    · exact .ite h.modClasp.claspRun.claspSettle.claspNext h.upd
    · exact h.upd

theorem claspTimeout {n} (h : d.Canonical) : (d.claspTimeout n).Canonical := by
  dsimp only [Dev.claspTimeout]
  split
  · exact h
  · exact .ite h h.claspClose.claspNext

theorem claspReleases (h : d.Canonical) : d.claspReleases.Canonical := claspNext (h.foldl fun _ _ h => h.claspClose)

theorem bezelBegin {c carats} (h : d.Canonical) : (d.bezelBegin c carats).Canonical :=
  .ite (.ite h.modCtx.bump h.modCtx) (foldl (modCtx (.ite h.modCtx.bump h.modCtx)) fun _ _ h => .ite h.quiesce h)

theorem bezelYield {c} (h : d.Canonical) : (d.bezelYield c).Canonical := h.modCtx.upd
theorem bezelFence {c} (h : d.Canonical) : (d.bezelFence c).Canonical := h.modCtx

theorem bezelFire {e} (h : d.Canonical) : (d.bezelFire e).Canonical := by
  dsimp only [Dev.bezelFire]
  split
  · exact h.bump.tbEvent
  · split
    · exact bezelBegin (.ite h h.tbEvent)
    · exact bezelYield (.ite h h.tbEvent)
    · exact bezelFence (.ite h h.tbEvent)
    · exact .ite h h.tbEvent

theorem loupeDue {old new} (h : d.Canonical) : (d.loupeDue old new).Canonical := by
  dsimp only [Dev.loupeDue]
  split
  · exact h
  · exact .ite (snapshot h.upd) h

theorem bezelAt {s} (h : d.Canonical) : (d.bezelAt s).Canonical :=
  .ite (foldl (.ite h.wrFld.wrFld.wr h) fun _ _ h => h.bezelFire) (.ite h.wrFld.wrFld.wr h)

theorem bezelRange {s n} (h : d.Canonical) : (d.bezelRange s n).Canonical := by
  induction n generalizing d s with
  | zero => exact h
  | succ n ih => exact ih h.bezelAt

theorem strokeBoundary (h : d.Canonical) : d.strokeBoundary.Canonical := by
  unfold Dev.strokeBoundary
  extract_lets old new quiet stepped tb e₁ e₂ e₃ tb' e₄ e₅ e₆ e₇ e₈ e₉
  have h₁ : e₁.Canonical := h.upd
  have h₂ : e₂.Canonical := h₁.loupeDue.wr
  have h₃ : e₃.Canonical := .ite h₂.bezelRange h₂
  have h₄ : e₄.Canonical := .ite h₃.upd h₃
  have h₅ : e₅.Canonical := h₄.claspReleases
  have h₆ : e₆.Canonical := .ite h₅.tbEvent h₅
  have h₇ : e₇.Canonical := .ite h₆.setHoldover h₆
  have h₈ : e₈.Canonical := .ite h₇.wr h₇.rechoose
  have h₉ : e₉.Canonical := .ite h₈.bump h₈
  exact .ite h (h₉.foldl fun _ _ h => .ite h.modPort h)

theorem timeSet {v} (h : d.Canonical) : (d.timeSet v).Canonical := wr h.upd
theorem timeAdj {v} (h : d.Canonical) : (d.timeAdj v).Canonical := h.upd

/-! The Hallmark. -/

theorem takeSeq (h : d.Canonical) : d.takeSeq.2.Canonical := h.upd

theorem hallmarkWrite (h : d.Canonical) : d.hallmarkWrite.Canonical := by
  dsimp only [Dev.hallmarkWrite]
  split
  · exact h
  · split
    · exact h.upd
    · split
      · exact .ite h h.takeSeq.bump.tbEvent.settleOcc
      · split <;> rename_i he <;> have h' := snd he h.writeFor
        · exact h'
        · exact h'.takeSeq.wr.settleOcc

theorem hmClear (h : d.Canonical) : d.hmClear.Canonical :=
  endFlushes (upd (foldl (h.foldl fun _ _ h => h.foldl fun _ _ h => .ite h.settleOcc h.modOcc) fun _ _ h => by
    split
    · exact h.endJob
    · exact h))

theorem flushCmd {ring seq} (h : d.Canonical) : (d.flushCmd ring seq).Canonical := by
  dsimp only [Dev.flushCmd]
  split
  · exact h
  · exact .ite h (.ite h.modJob.endFlushes (finish h.modJob.upd))

theorem tbCtrlWrite {v} (h : d.Canonical) : ∀ e ∈ d.tbCtrlWrite v, e.Canonical := by
  unfold Dev.tbCtrlWrite
  extract_lets old e₁ e₂
  have h₂ : e₂.Canonical := .ite h.wr.hmClear h.wr
  exact iteOpt noneOpt (someOpt (.ite h₂.beatStart h₂))

/-! Rings. -/

theorem ringStart {r} (h : d.Canonical) : (d.ringStart r).Canonical := h.wr.wr.wr.wr.modRing

theorem ringCtrlWrite {r v} (h : d.Canonical) : ∀ e ∈ d.ringCtrlWrite r v, e.Canonical :=
  iteOpt noneOpt (iteOpt noneOpt (someOpt (.ite h.wr.modRing.ringStart h.wr.modRing)))

theorem doorbell {r v} (h : d.Canonical) : ∀ e ∈ d.doorbell r v, e.Canonical := iteOpt noneOpt (someOpt h.wr)
theorem cqTailWrite {r v} (h : d.Canonical) : ∀ e ∈ d.cqTailWrite r v, e.Canonical := iteOpt noneOpt (someOpt h.wr)
theorem shapeWrite {r reg v} (h : d.Canonical) : ∀ e ∈ d.shapeWrite r reg v, e.Canonical := iteOpt noneOpt (someOpt h.wr.modRing)
theorem endUngranted {r seq cmd status} (h : d.Canonical) : (d.endUngranted r seq cmd status).Canonical := h.endJob

theorem readCmd {r seq} (h : d.Canonical) : (d.readCmd r seq).2.Canonical := by
  dsimp only [Dev.readCmd]
  split
  · split
    · exact h.engineFault
    · exact h.engineRead
  · exact h

theorem fetchCmds {r fuel} (h : d.Canonical) : (d.fetchCmds r fuel).Canonical := by
  induction fuel generalizing d with
  | zero => exact h
  | succ fuel ih =>
    unfold Dev.fetchCmds
    refine .ite h ?_
    split <;> rename_i he <;> have h := snd he h.readCmd
    · exact h
    · extract_lets e₁ e₂ e₃
      have h₂ : e₂.Canonical := h.wr.modRing
      exact ih (.ite h₂.modRing.endUngranted (.ite h₂.endUngranted h₂.modRing))

theorem fetchShape {r cmd} (h : d.Canonical) : (d.fetchShape r cmd).Canonical := .ite h h.stall

theorem shapeFault {r} (h : d.Canonical) : (d.shapeFault r).Canonical := by
  dsimp only [Dev.shapeFault]
  split
  · exact h.engineFault
  · exact h

theorem tendHead {r fuel} (h : d.Canonical) : (d.tendHead r fuel).Canonical := by
  induction fuel generalizing d with
  | zero => exact h
  | succ fuel ih =>
    unfold Dev.tendHead
    split
    · exact h
    · split
      · exact ih h.modRing.endUngranted
      · exact h.fetchShape
      · split
        · exact h
        · exact .ite h.engineFault h.requestStage
      · exact h

theorem tendHeads (h : d.Canonical) : d.tendHeads.Canonical := h.foldl fun _ _ h => h.tendHead
theorem hostStore {host} (h : d.Canonical) : (d.hostStore host).Canonical := h.setHostMem (memWf_foldl_memSet _ _ _ h.hostMem)
theorem commandFetch {r} (h : d.Canonical) : (d.commandFetch r).Canonical := h.shapeFault.fetchCmds.tendHeads
theorem grantOcc {c r seq cmd} (h : d.Canonical) : (d.grantOcc c r seq cmd).2.Canonical := iteSnd h.joinOcc (iteSnd h.closeOcc.upd h)

theorem commandGrant (h : d.Canonical) : d.commandGrant.Canonical := by
  dsimp only [Dev.commandGrant]
  split
  · exact h.tendHeads.upd
  · split
    · exact h.tendHeads
    · split
      · exact endStages (modCtx (modJob (grantOcc (upd (bump (modRing (upd (.ite h.tendHeads.bump h.tendHeads))))))))
      · exact modJob (grantOcc (upd (bump (modRing (upd (.ite h.tendHeads.bump h.tendHeads))))))

theorem promote {r} (h : d.Canonical) : (d.promote r).Canonical := .ite h h.modRing
theorem withdrawStage {c g} (h : d.Canonical) : (d.withdrawStage c g).Canonical := .ite h (modCtx h.upd)

theorem ringCancel {r s} (h : d.Canonical) : (d.ringCancel r s).Canonical := by
  dsimp only [Dev.ringCancel]
  split
  · exact h.wr
  · split
    · refine tendHeads ?_
      refine wr ?_
      refine endUngranted ?_
      split
      · exact h.modRing.withdrawStage
      · exact h.modRing
    · exact .ite h.modJob.wr (.ite h.wr (.ite h.modRing.wr h.wr))

theorem recordWrite {r} (h : d.Canonical) : (d.recordWrite r).Canonical := by
  dsimp only [Dev.recordWrite]
  split
  · exact h
  · exact .ite h h.modRing.cqPut.tendHeads

theorem nopCmd {ring seq} (h : d.Canonical) : (d.nopCmd ring seq).Canonical := by
  dsimp only [Dev.nopCmd]
  split
  · exact h
  · exact h.finish

theorem poolAllocCmd {ring seq} (h : d.Canonical) : (d.poolAllocCmd ring seq).Canonical := by
  dsimp only [Dev.poolAllocCmd]
  split
  · exact h
  · split
    · exact h.poolRingFault
    · rename_i he
      have h' := h.userAlloc _ he
      exact h'.finish

theorem poolFreeCmd {ring seq} (h : d.Canonical) : (d.poolFreeCmd ring seq).Canonical := by
  dsimp only [Dev.poolFreeCmd]
  split
  · exact h
  · split
    · exact h.poolRingFault
    · exact h.freeBuf.finish

theorem copyCmd {ring seq corr} (h : d.Canonical) : (d.copyCmd ring seq corr).Canonical := by
  dsimp only [Dev.copyCmd]
  split
  · exact h
  · split
    · split
      · next he => exact snd he h.writeFor
      · next he => exact (snd he h.writeFor).finish
    · split
      · next he => exact snd he h.readFor
      · next he =>
        have h := snd he h.readFor
        exact (h.countEcc.setHostMem (memWf_memWrite _ _ _ h.hostMem)).finish

/-! Launch of programs. -/

theorem loadOne {ctx core a l n} (h : d.Canonical) : ∀ e, d.loadOne ctx core a l n = .inr e → e.Canonical := by
  intro e he
  dsimp only [Dev.loadOne] at he
  split at he
  · cases he
  · cases he
    exact h.engineRead.locWrite

theorem loadFault {p ctx code at_ loc addr} (h : d.Canonical) : (d.loadFault p ctx code at_ loc addr).Canonical := h.coreFault

theorem loadEntry {ctx lead at_ cores e} (h : d.Canonical) : (d.loadEntry ctx lead at_ cores e).2.Canonical := foldlSnd h fun _ _ h => by
    split
    · exact h
    · split
      · exact h.loadFault
      · rename_i he
        have h' := h.loadOne _ he
        exact h'

theorem loadList {ctx lead base cores es} (h : d.Canonical) : (d.loadList ctx lead base cores es).2.Canonical :=
  foldlSnd h fun _ _ h => iteSnd h.loadEntry h

theorem noteExpert {h' n} (h : d.Canonical) : (d.noteExpert h' n).Canonical := h.modHalf

theorem beginProgram {j m cores} (h : d.Canonical) : (d.beginProgram j m cores).Canonical :=
  foldl (h.foldl fun _ _ h => h.modCore) fun _ _ h => h.modCore

theorem launch {j m corr} (h : d.Canonical) : (d.launch j m corr).Canonical := by
  unfold Dev.launch
  extract_lets cores lead base count l n pa
  split
  · exact h.loadFault
  · split
    next he =>
    have h := snd he (iteSnd h h.engineRead)
    split
    · exact h.finish
    · refine .ite h.finish ?_
      split <;> rename_i he <;> have h := snd he h.loadList
      · exact h
      · split <;> rename_i he <;> have h := snd he h.loadEntry
        · exact h
        · exact h.countEcc.modJob.beginProgram

theorem programCmd {ring seq corr} (h : d.Canonical) : (d.programCmd ring seq corr).Canonical := by
  unfold Dev.programCmd
  split
  · exact h
  · extract_lets a
    split
    · exact h.engineFault
    · split
      next he =>
      have h := snd he (iteSnd h h.engineRead)
      extract_lets m slot mark
      clear_value slot
      have hmark {e : Dev} (h : e.Canonical) : (mark e).Canonical := by
        cases slot with
        | none => exact h
        | some x => exact h.noteExpert
      exact .ite (hmark h).finish (.ite h (hmark h).launch)

/-! Mount images. -/

theorem loaderWrite {r off v} (h : d.Canonical) : (d.loaderWrite r off v).Canonical := .ite h.wr h.wr
theorem copyImages {img} (h : d.Canonical) : (d.copyImages img).Canonical := h.foldl fun _ _ h => h.dirWrite.countHbm

/-! Mount and unmount. -/

theorem mgmtStart {port args v} (h : d.Canonical) : (d.mgmtStart port args v).Canonical := by
  dsimp only [Dev.mgmtStart]
  split
  · exact mgmtEnd (wr h.upd)
  · exact wr h.upd

theorem beginWait (h : d.Canonical) : d.beginWait.Canonical := h.upd

theorem mgmtNop (h : d.Canonical) : d.mgmtNop.Canonical := by
  dsimp only [Dev.mgmtNop]
  split
  · exact h.mgmtEnd
  · exact h

theorem clearMount (h : d.Canonical) : d.clearMount.Canonical := upd (reclaim (wrFld (wr (h.foldl fun _ _ h => h.wrFld))))
theorem zeroDirect {a n} (h : d.Canonical) : (d.zeroDirect a n).Canonical := .ite h.dirClear.countHbm h

theorem zeroTiles {a n} (h : d.Canonical) : (d.zeroTiles a n).Canonical :=
  .ite h (h.foldl fun _ _ h => h.setVault (memWf_memClear _ _ _ h.vault))

theorem clearPools (h : d.Canonical) : d.clearPools.Canonical := h.zeroDirect.zeroDirect.upd
theorem dropTiles (h : d.Canonical) : d.dropTiles.Canonical := h.upd
theorem applyPlan {g plan} (h : d.Canonical) : (d.applyPlan g plan).Canonical := h.foldl fun _ _ h => h.modCore
theorem applyShape {img} (h : d.Canonical) : (d.applyShape img).Canonical := h.foldl fun _ _ h => h.applyPlan
theorem applyBezel {img} (h : d.Canonical) : (d.applyBezel img).Canonical := .ite h (wrFld (wr (wr (h.foldl fun _ _ h => h.wr))))

theorem loadPass {l2p es enables} (h : d.Canonical) : (d.loadPass l2p es enables).Canonical := h.foldl fun _ _ h => by
    split
    · exact h
    · split
      · split
        · exact h.wrFld
        · exact h
      · exact h.loaderWrite

theorem step13 {img origin} (h : d.Canonical) : (d.step13 img origin).Canonical :=
  h.loadPass.clearPools.dropTiles.applyShape.applyBezel.copyImages.wr

theorem enumerate {n v} (h : d.Canonical) : (d.enumerate n v).Canonical := modVport (.ite h.wr.wrFld.wrFld h.wr.clockUp.clockUp)
theorem step14 {v0 v1} (h : d.Canonical) : (d.step14 v0 v1).Canonical := h.enumerate.enumerate.wr.zeroDirect.zeroTiles

theorem step15 {img} (h : d.Canonical) : (d.step15 img).Canonical :=
  .ite (mgmtEnd (foldl (wr (wr (wr h.loadPass.upd))) fun _ _ h => h.beginRetrain))
    (beginWait (wrFld (foldl (wr (wr (wr h.loadPass.upd))) fun _ _ h => h.beginRetrain)))

theorem imageError {base} (h : d.Canonical) : (d.imageError base).Canonical := h.countUncorr.log
theorem applyFail {base} (h : d.Canonical) : (d.applyFail base).Canonical := mgmtEnd h.imageError.wr.wrFld.upd

theorem applyMount {base img origin v0 v1 bad} (h : d.Canonical) : (d.applyMount base img origin v0 v1 bad).Canonical :=
  .ite h.applyFail <| .ite h.clearMount.applyFail <| .ite h.clearMount.step13.applyFail <|
    .ite h.clearMount.step13.step14.applyFail h.clearMount.step13.step14.step15

theorem mountLoad {v0 v1 bad} (h : d.Canonical) : (d.mountLoad v0 v1 bad).Canonical := by
  dsimp only [Dev.mountLoad]
  split
  · exact h
  · split
    · exact h.mgmtEnd
    · split
      · exact h.imageError.mgmtEnd
      · split
        · exact h.countHbm.imageError.mgmtEnd
        · exact h.countHbm.mgmtEnd
        · exact h.countHbm.applyMount

theorem mountClear (h : d.Canonical) : d.mountClear.Canonical := by
  dsimp only [Dev.mountClear]
  split
  · exact h
  · exact .ite h.mgmtEnd h.clearMount.mgmtEnd

theorem swapEnd {target} (h : d.Canonical) : (d.swapEnd target).Canonical := .ite h h.mgmtEnd
theorem markAssay {g} (h : d.Canonical) : (d.markAssay g).Canonical := h.foldl fun _ _ h => h.modCore

theorem spareSwap (h : d.Canonical) : d.spareSwap.Canonical := by
  dsimp only [Dev.spareSwap]
  split
  · exact h
  · split
    · exact h.mgmtEnd
    · exact swapEnd (beginWait (foldl h.upd fun _ _ h => h.markAssay))

theorem moveCore {p q} (h : d.Canonical) : (d.moveCore p q).Canonical := by
  have h := h.setLoc (memWf_memCopy _ (q * 2 ^ 22) d.loc (p * 2 ^ 22) 0x1C0000 h.loc)
  exact (h.setLoc (memWf_memCopy _ _ _ _ _ h.loc)).modCore.modCore.upd

theorem slotMove {g j} (h : d.Canonical) : (d.slotMove g j).Canonical := by
  dsimp only [Dev.slotMove]
  split
  · split
    · exact h
    · exact .ite h (swapEnd h.moveCore.markAssay.upd)
  · exact h

theorem swapExpire {g j} (h : d.Canonical) : (d.swapExpire g j).Canonical := by
  dsimp only [Dev.swapExpire]
  split
  · exact h
  · exact .ite h (swapEnd h.upd)

theorem retrainPort {n} (h : d.Canonical) : (d.retrainPort n).Canonical := by
  dsimp only [Dev.retrainPort]
  split
  · exact h.mgmtEnd
  · exact h.modPort.beginWait.portDark
  · exact .ite h h.modPort.beginWait.beginRetrain
  · exact .ite h h.modPort.beginWait.beginRetrain
  · exact h

theorem retrainVault {n} (h : d.Canonical) : (d.retrainVault n).Canonical := h.vaultLinkDown.modVport.beginWait

theorem linkRetrain (h : d.Canonical) : d.linkRetrain.Canonical := by
  dsimp only [Dev.linkRetrain]
  split
  · exact h
  · exact .ite h.retrainPort h.retrainVault

theorem noLight (h : d.Canonical) : d.noLight.Canonical := by
  dsimp only [Dev.noLight]
  split
  · exact h
  · exact .ite h.mgmtEnd h

theorem vaultDone {n result} (h : d.Canonical) : (d.vaultDone n result).Canonical := by
  dsimp only [Dev.vaultDone]
  split
  · exact h
  · exact .ite h.mgmtEnd h

theorem vaultLinkUp {n v wasReset} (h : d.Canonical) : (d.vaultLinkUp n v wasReset).Canonical := by
  unfold Dev.vaultLinkUp
  extract_lets old link lost e₁ e₂ lostLink e₃
  have h₂ : e₂.Canonical := h.wr.clockUp.clockUp.modVport
  have h₃ : e₃.Canonical := .ite (h₂.abortTransfers.setVault (memWf_memClear _ _ _ h₂.vault)) h₂
  exact .ite h (vaultDone (.ite h₃.portFaults h₃))

theorem vaultTimeout {n} (h : d.Canonical) : (d.vaultTimeout n).Canonical := .ite h h.modVport.vaultDone

/-! Reset, heat and the host port. -/

theorem tapSettle (h : d.Canonical) : d.tapSettle.Canonical := h.upd

theorem blank {phase} (h : d.Canonical) : (d.blank phase).Canonical := ⟨rfl, rfl, rfl, h.hostMem⟩
theorem intoReset {cause phase} (h : d.Canonical) : (d.intoReset cause phase).Canonical := h.blank.wrFld.upd

theorem resetKey {p v} (h : d.Canonical) : ∀ e ∈ d.resetKey p v, e.Canonical := iteOpt (someOpt h.intoReset) noneOpt
theorem bistColumns {xs} (h : d.Canonical) : (d.bistColumns xs).Canonical := h.foldl fun _ _ h => .ite h h.wr.wrFld
theorem bistCores {failed xs} (h : d.Canonical) : (d.bistCores failed xs).Canonical := h.upd
theorem bistWords {xs} (h : d.Canonical) : (d.bistWords xs).Canonical := h.foldl fun _ _ h => h.modClass
theorem builtIn {r} (h : d.Canonical) : (d.builtIn r).Canonical := wrFld (h.bistColumns.bistCores.bistWords.wrFld.foldl fun _ _ h => h.wr)
theorem release {addr0 addr1 r} (h : d.Canonical) : (d.release addr0 addr1 r).Canonical := .ite h (tapSettle (builtIn (wrFld (wr h.upd))))
theorem ready {v0 v1} (h : d.Canonical) : (d.ready v0 v1).Canonical := .ite h (wrFld (wrFld h.enumerate.enumerate.upd))
theorem hostReset (h : d.Canonical) : d.hostReset.Canonical := h.live (fun _ h => upd (unsetRange (h.foldl fun _ _ h => h.tearDown)))
theorem hostDown (h : d.Canonical) : d.hostDown.Canonical := .ite (clockDown h.upd) h

theorem hostPortReset {kind} (h : d.Canonical) : (d.hostPortReset kind).Canonical := by
  dsimp only [Dev.hostPortReset]
  split
  · exact h.hostReset
  · exact h.hostReset
  · exact h.hostReset.hostDown
  · exact h.hostReset.hostDown.upd

theorem hostPortUp (h : d.Canonical) : d.hostPortUp.Canonical := .ite (clockUp h.upd) h
theorem clusterStop {g} (h : d.Canonical) : (d.clusterStop g).Canonical := .ite h h.upd

theorem clockFault {dom} (h : d.Canonical) : (d.clockFault dom).Canonical :=
  log (clockDown (clusterStop (foldl h.upd fun _ _ h => h.portStop)))

theorem pllLockLoss {dom} (h : d.Canonical) : (d.pllLockLoss dom).Canonical :=
  .ite h (.ite h.portLoss (.ite h.hostReset.hostDown (.ite h.vaultLinkDown (.ite h.vaultLinkDown h.clockFault))))

theorem senseHeat {t} (h : d.Canonical) : (d.senseHeat t).Canonical := h.wrFld.wr
theorem heatSet {t} (h : d.Canonical) : (d.heatSet t).Canonical := .ite h.wrFld h
theorem heatClear {t} (h : d.Canonical) : (d.heatClear t).Canonical := .ite h.wrFld h
theorem trip {t} (h : d.Canonical) : (d.trip t).Canonical := .ite h.intoReset h
theorem sensing {f : Dev → Dev} (h : d.Canonical) (hf : ∀ e, e.Canonical → (f e).Canonical) : (d.sensing f).Canonical := .ite h (hf d h)

/-! Observation. -/

theorem slotWrite (h : d.Canonical) : d.slotWrite.Canonical := by
  dsimp only [Dev.slotWrite]
  split
  · exact h
  · exact wr (upd (.ite h.wr.bump h))

theorem errorLogWrite (h : d.Canonical) : d.errorLogWrite.Canonical := h.logIntake.slotWrite
theorem dropPending (h : d.Canonical) : d.dropPending.Canonical := .ite (bump h.upd) h

theorem schedule {stroke source id} (h : d.Canonical) : (d.schedule stroke source id).Canonical :=
  .ite h.dropPending.snapshot h.dropPending.upd

theorem loupeMessage (h : d.Canonical) : d.loupeMessage.Canonical := by
  dsimp only [Dev.loupeMessage]
  split <;> rename_i he <;> have h := snd he h.filTake
  · exact h
  · exact h.schedule

theorem loupeArm (h : d.Canonical) : d.loupeArm.Canonical := h.upd

theorem loupeCmd {v} (h : d.Canonical) : (d.loupeCmd v).Canonical := by
  unfold Dev.loupeCmd
  extract_lets id obs e₁ e₂ e₃
  have h₁ : e₁.Canonical := h.upd
  have h₂ : e₂.Canonical := .ite h₁.loupeArm h₁
  have h₃ : e₃.Canonical := .ite h₂.filBroadcast h₂
  exact .ite (snapshot (.ite h₃.dropPending h₃)) (.ite h₃.schedule h₃)

/-! The register bus. -/

theorem portCtrlEdge {n old} (h : d.Canonical) : (d.portCtrlEdge n old).Canonical := .ite h.portEnable (.ite h.portDisable h)
theorem sweepEdge (h : d.Canonical) : d.sweepEdge.Canonical := .ite h h.upd
theorem msixEdge {v} (h : d.Canonical) : (d.msixEdge v).Canonical := .ite h (wr h.upd)

theorem plainWrite {r i off v} (h : d.Canonical) : ∀ e ∈ d.plainWrite r i off v, e.Canonical := by
  unfold Dev.plainWrite
  extract_lets old is e
  have he : e.Canonical := h.wr
  exact iteOpt (someOpt (.ite he.portCtrlEdge (.ite he.sweepEdge (.ite he.upd (.ite he.upd (.ite he.msixEdge he)))))) noneOpt

theorem regWrite {p r i off v ecc} (h : d.Canonical) : ∀ e ∈ d.regWrite p r i off v ecc, e.Canonical := by
  unfold Dev.regWrite
  extract_lets is
  exact iteOpt noneOpt <| iteOpt h.ringCtrlWrite <| iteOpt h.doorbell <| iteOpt h.cqTailWrite <| iteOpt h.shapeWrite <|
    iteOpt (someOpt h.ringCancel) <| iteOpt h.keothResume <| iteOpt h.tbCtrlWrite <| iteOpt (someOpt h.timeSet) <|
    iteOpt (someOpt h.timeAdj) <| iteOpt h.ctxCmd <| iteOpt h.resetKey <| iteOpt (someOpt h.mgmtStart) <|
    iteOpt (someOpt h.modBus) <| iteOpt (someOpt h.modBus) <| iteOpt (someOpt h.loupeCmd) h.plainWrite

theorem writeErr {p resp off bytes} (h : d.Canonical) : (d.writeErr p resp off bytes).Canonical := by
  dsimp only [Dev.writeErr]
  split
  · exact h.errResp
  · exact h.errResp.upd

theorem judge {p t v bytes ecc} (h : d.Canonical) : (d.judge p t v bytes ecc).Canonical := by
  dsimp only [Dev.judge]
  split
  · exact h.writeErr
  · split
    · rename_i he
      have h' := h.regWrite _ he
      exact h'.answer
    · exact h.writeErr

theorem writeTarget {p t v bytes ecc} (h : d.Canonical) : (d.writeTarget p t v bytes ecc).Canonical := by
  dsimp only [Dev.writeTarget]
  split
  · exact h.wrFld.answer
  · split
    · exact h.writeErr
    · split
      · exact h.judge
      · exact h.modBus.answer
      · split
        · exact .ite h.modBus.judge h.modBus.writeErr
        · exact h.modBus.writeErr

theorem busWrite {p off bytes v ecc} (h : d.Canonical) : (d.busWrite p off bytes v ecc).Canonical := by
  dsimp only [Dev.busWrite]
  split
  · exact h.answer
  · split
    · exact h.writeErr
    · exact h.writeTarget

theorem readTarget {p t bytes} (h : d.Canonical) : (d.readTarget p t bytes).Canonical := by
  dsimp only [Dev.readTarget]
  split
  · exact h.answer
  · exact h.modBus.answer
  · split
    · exact h.modBus.answer
    · exact h.modBus.answer
    · exact h.modBus.errResp
  · exact h.errResp

theorem busRead {p off bytes} (h : d.Canonical) : (d.busRead p off bytes).Canonical := by
  dsimp only [Dev.busRead]
  split
  · exact h.answer
  · split
    · exact h.errResp
    · exact h.readTarget

theorem write32 {p off v ecc} (h : d.Canonical) : (d.write32 p off v ecc).Canonical := h.busWrite
theorem ringField {p ring hi lo v} (h : d.Canonical) : (d.ringField p ring hi lo v).Canonical := .ite h.write32 h
theorem portField {p n v} (h : d.Canonical) : (d.portField p n v).Canonical := .ite h.write32 h
theorem ringReg {p ring off v} (h : d.Canonical) : (d.ringReg p ring off v).Canonical := .ite h.write32 h

/-! BAR2. -/

theorem bar2Fail {code x a n} (h : d.Canonical) : (d.bar2Fail code x a n).Canonical := errResp (.ite h.countUncorr.log (.ite h.log h))

theorem bar2 {write off len data} (h : d.Canonical) : (d.bar2 write off len data).Canonical := by
  unfold Dev.bar2
  extract_lets n a
  refine .ite h (.ite h.errResp ?_)
  split
  · exact h.bar2Fail
  · exact .ite h.engineWrite.answer h.engineRead.answer

/-! The I3C target. -/

theorem modI3c {f} (h : d.Canonical) : (d.modI3c f).Canonical := h.upd
theorem i3cWrite {data} (h : d.Canonical) : (d.i3cWrite data).Canonical := .ite h.answer (.ite h (.ite h.modI3c.answer h.modI3c.busWrite))
theorem i3cRead (h : d.Canonical) : d.i3cRead.Canonical := .ite h.answer h.busRead
theorem cccAnswer {bytes v} (h : d.Canonical) : (d.cccAnswer bytes v).Canonical := h.answer
theorem takeAddr {addr} (h : d.Canonical) : (d.takeAddr addr).Canonical := .ite h.modI3c h

/-! Commands that wait. -/

theorem engineOf {c : Instr} {ecc : Ecc} {f : Dev → Dev} (h : d.Canonical) (hf : Machine.engineOf c = some (ecc, f)) : (f d).Canonical := by
  unfold Machine.engineOf at hf
  split at hf <;> cases hf
  · exact h.programCmd
  · exact h.stepCmd
  · exact h.copyCmd
  · exact h.commandFetch
  · exact h.recordWrite
  · exact h.hallmarkWrite
  · exact h.planReady
  · exact h.countReceive
  · exact .ite h.keothPost h
  · exact h.keothPlan
  · exact h.orderedCombine
  · exact h.collective
  · exact h.collectiveOpen
  · exact h.dispatchOpen
  · exact h.returnOpen
  · exact h.collReceive
  · exact h.barrierMessage
  · exact h.smallMessage
  · exact h.memRequest
  · exact h.flaggedApply
  · exact h.memResponse
  · exact h.invalidateTimeout.progress
  · exact h.mirrorCapture
  · exact h.bar2

theorem redo {c parts} (h : d.Canonical) : (d.redo c parts).Canonical := by
  unfold Dev.redo
  split
  · next hf => exact h.actWith fun _ h => h.engineOf hf
  · exact h

theorem wakeUp {fuel} (h : d.Canonical) : (d.wakeUp fuel).Canonical := by
  induction fuel generalizing d with
  | zero => exact h
  | succ fuel ih =>
    unfold Dev.wakeUp
    split
    · exact h
    · split
      · exact ih h.upd.redo
      · exact ih h.upd

theorem wake (h : d.Canonical) : d.wake.Canonical := h.wakeUp

/-! The tick of the hub clock. -/

theorem tickTime (h : d.Canonical) : d.tickTime.Canonical := wr h.upd
theorem tickStarve (h : d.Canonical) : d.tickStarve.Canonical := h.foldl fun _ _ h => h.modRing
theorem tickShape (h : d.Canonical) : d.tickShape.Canonical := h.foldl fun _ _ h => h.modRing
theorem payOwed {n p} (h : d.Canonical) : (d.payOwed n p).2.Canonical := .ite h h.modCore

theorem tickCore {n p} (h : d.Canonical) : (d.tickCore n p).Canonical := by
  unfold Dev.tickCore
  split
  next he =>
  have h := snd he h.payOwed
  split
  · exact h
  · extract_lets full carats back count e
    have hcount {e : Dev} {on event} (h : e.Canonical) : (count e on event).Canonical := .ite h.countEvent h
    have he : e.Canonical := .ite h h.bump
    exact hcount (hcount (hcount (hcount he)))

theorem tickCores {before} (h : d.Canonical) : (d.tickCores before).Canonical := h.foldl fun _ _ h => .ite h h.tickCore

theorem tick (h : d.Canonical) : d.tick.Canonical := by
  unfold Dev.tick
  extract_lets cycles src e₁ e₂ e₃ glb e₄
  have h₁ : e₁.Canonical := h.logIntake.tickStarve.upd
  have h₂ : e₂.Canonical := h₁.tickShape
  have h₃ : e₃.Canonical := .ite h₂ h₂.bump
  have h₄ : e₄.Canonical := h₃.upd
  exact h₄.tickTime.tickCores.wake

/-- A row that acts on a device that runs completes in canonical memories when its effect keeps the form. -/
theorem completes {c : Instr} {s : State} {f : Dev → Dev} (h : s.dev.Canonical) (hc : exec c s = .next (s.onDev (s.dev.live f)))
    (hf : ∀ e, e.Canonical → (f e).Canonical) : Safety.Gives c s fun t => t.dev.Canonical :=
  ⟨_, hc, h.live hf⟩

/-- Every command completes in a state whose memories are canonical, from any state whose memories are: one arm per row of the tables. -/
theorem gives {c : Instr} {s : State} (h : s.dev.Canonical) : Safety.Gives c s fun t => t.dev.Canonical := by
  cases c with
  | registerWrite => exact h.completes rfl fun _ h => h.busWrite
  | bar2Access => exact h.completes rfl fun _ h => h.answer.act fun _ h => h.bar2
  | deviceReset => exact ⟨_, rfl, h.intoReset⟩
  | resetCmd => exact h.completes rfl fun _ h => h.write32
  | resetRelease => exact ⟨_, rfl, h.release⟩
  | ready => exact ⟨_, rfl, h.ready⟩
  | pllLockLoss => exact h.completes rfl fun _ h => h.pllLockLoss
  | thermHot => exact ⟨_, rfl, h.sensing fun _ h => h.senseHeat.heatSet⟩
  | thermHotClear => exact ⟨_, rfl, h.sensing fun _ h => h.senseHeat.heatClear⟩
  | thermtrip => exact ⟨_, rfl, h.trip⟩
  | hostPortReset => exact ⟨_, rfl, h.hostPortReset⟩
  | nop => exact h.completes rfl fun _ h => h.nopCmd
  | program => exact h.completes rfl fun _ h => h.act fun _ h => h.programCmd
  | step => exact h.completes rfl fun _ h => h.act fun _ h => h.stepCmd
  | collective => exact h.completes rfl fun _ h => h.act fun _ h => h.collective
  | clasp => exact h.completes rfl fun _ h => h.claspCmd
  | poolAlloc => exact h.completes rfl fun _ h => h.poolAllocCmd
  | poolFree => exact h.completes rfl fun _ h => h.poolFreeCmd
  | hallmarkFlush => exact h.completes rfl fun _ h => h.flushCmd
  | copy => exact h.completes rfl fun _ h => h.hostStore.act fun _ h => h.copyCmd
  | doorbell => exact h.completes rfl fun _ h => h.ringReg
  | commandFetch => exact h.completes rfl fun _ h => .ite (h.hostStore.act fun _ h => h.commandFetch) h
  | ringEnable => exact h.completes rfl fun _ h => h.ringReg
  | ringDisable => exact h.completes rfl fun _ h => h.ringField
  | ringCancel => exact h.completes rfl fun _ h => h.ringReg
  | ringPrioWrite => exact h.completes rfl fun _ h => h.ringField
  | commandGrant => exact h.completes rfl fun _ h => h.commandGrant
  | promotion => exact h.completes rfl fun _ h => .ite h.promote h
  | completionRecordWrite => exact h.completes rfl fun _ h => .ite (h.act fun _ h => h.recordWrite) h
  | denseInstruction => exact h.completes rfl fun _ h => h.onInsn fun _ _ _ h => h.arrIssue
  | sparseArrayInstruction => exact h.completes rfl fun _ h => h.onInsn fun _ _ _ h => h.arrIssue
  | arrayDrain => exact h.completes rfl fun _ h => h.arrayDrain
  | end_ => exact h.completes rfl fun _ h => h.endInsn
  | clwait => exact h.completes rfl fun _ h => h.clwait
  | clwaitTimeout => exact h.completes rfl fun _ h => h.clwaitTimeout
  | vcopy => exact h.completes rfl fun _ h => h.vecUnary
  | vadd => exact h.completes rfl fun _ h => h.vecBinary
  | vmul => exact h.completes rfl fun _ h => h.vecBinary
  | vfma => exact h.completes rfl fun _ h => h.vfma
  | vaxpy => exact h.completes rfl fun _ h => h.vaxpy
  | vmax => exact h.completes rfl fun _ h => h.vecBinary
  | vmin => exact h.completes rfl fun _ h => h.vecBinary
  | vscale => exact h.completes rfl fun _ h => h.vecUnary
  | vexp => exact h.completes rfl fun _ h => h.vecUnary
  | vrcp => exact h.completes rfl fun _ h => h.vecUnary
  | vrsqrt => exact h.completes rfl fun _ h => h.vecUnary
  | vsilu => exact h.completes rfl fun _ h => h.vecUnary
  | vgelu => exact h.completes rfl fun _ h => h.vecUnary
  | vrsum => exact h.completes rfl fun _ h => h.vecReduce
  | vrmax => exact h.completes rfl fun _ h => h.vecReduce
  | vdot => exact h.completes rfl fun _ h => h.vdot
  | vcvt => exact h.completes rfl fun _ h => h.vcvt
  | vload => exact h.completes rfl fun _ h => h.memRow
  | vstore => exact h.completes rfl fun _ h => h.memRow
  | vsel => exact h.completes rfl fun _ h => h.vsel
  | vkeep => exact h.completes rfl fun _ h => h.vkeep
  | vhint => exact h.completes rfl fun _ h => h.vhint
  | valloc => exact h.completes rfl fun _ h => h.valloc
  | vfree => exact h.completes rfl fun _ h => h.vfree
  | vatom => exact h.completes rfl fun _ h => h.memRow
  | vstoref => exact h.completes rfl fun _ h => h.memRow
  | vcount => exact h.completes rfl fun _ h => h.vcount
  | rePlanReady => exact h.completes rfl fun _ h => h.act fun _ h => h.planReady
  | countMessageReceive => exact h.completes rfl fun _ h => h.act fun _ h => h.countReceive
  | countTimeout => exact h.completes rfl fun _ h => h.countTimeout
  | reHalt => exact h.completes rfl fun _ h => .ite h.write32 h
  | keothRecordPost => exact h.completes rfl fun _ h => h.act fun _ h => .ite h.keothPost h
  | keothResume => exact h.completes rfl fun _ h => .ite h.write32 h
  | keothTimeout => exact h.completes rfl fun _ h => .ite h.keothTimeout h
  | dispatchOpen => exact h.completes rfl fun _ h => h.act fun _ h => h.dispatchOpen
  | returnOpen => exact h.completes rfl fun _ h => h.act fun _ h => h.returnOpen
  | orderedCombine => exact h.completes rfl fun _ h => h.act fun _ h => h.orderedCombine
  | stageAdmission => exact h.completes rfl fun _ h => h.stageAdmission
  | vaultTransfer => exact h.completes rfl fun _ h => h.vaultTransfer
  | vaultFetchComplete => exact h.completes rfl fun _ h => h.vaultFetchComplete.wake
  | vaultWritebackComplete => exact h.completes rfl fun _ h => h.writebackComplete
  | vaultLinkDown => exact h.completes rfl fun _ h => h.vaultLinkDown.wake
  | hintQueueTake => exact h.completes rfl fun _ h => h.hintQueueTake
  | hintMessage => exact h.completes rfl fun _ h => h.hintMessage
  | poolAllocation => exact h.completes rfl fun _ h => h.poolAllocation
  | hardwareFree => exact h.completes rfl fun _ h => h.hwFree
  | tagReclaim => exact h.completes rfl fun _ h => h.reclaim
  | auditPass => exact h.completes rfl fun _ h => h.auditPass
  | bitmapRebuild => exact h.completes rfl fun _ h => h.bitmapRebuild
  | linkCellSend => exact h.completes rfl fun _ h => .ite h.linkCellSend h
  | linkCellReceive => exact h.completes rfl fun _ h => .ite h.linkCellReceive h
  | replayTimeout => exact h.completes rfl fun _ h => .ite h.replayTimeout h
  | retrainRequest => exact h.completes rfl fun _ h => .ite h.retrainRequest h
  | lightDetected => exact h.completes rfl fun _ h => .ite h.lightDetected h
  | lockAchieved => exact h.completes rfl fun _ h => .ite h.lockAchieved h
  | trainingBlock => exact h.completes rfl fun _ h => .ite h.trainingBlockIn h
  | trainTimeout => exact h.completes rfl fun _ h => .ite h.trainTimeout h
  | lightLost => exact h.completes rfl fun _ h => .ite h.portLoss h
  | fecLockLost => exact h.completes rfl fun _ h => .ite h.portLoss h
  | clockLost => exact h.completes rfl fun _ h => .ite h.portLoss h
  | laneRetired => exact h.completes rfl fun _ h => .ite h.laneRetired h
  | retrainInterval => exact h.completes rfl fun _ h => .ite h.retrainInterval h
  | portEnable => exact h.completes rfl fun _ h => h.portField
  | portDisable => exact h.completes rfl fun _ h => h.portField
  | sweepWrite => exact h.completes rfl fun _ h => h.write32
  | routerCellArrive => exact h.completes rfl fun _ h => .ite h.routerCellArrive h
  | cellInject => exact h.completes rfl fun _ h => h.cellInject.progress
  | transitReserveDepart => exact h.completes rfl fun _ h => h.transitDepart
  | stage2FifoFill => exact h.completes rfl fun _ h => h.stage2Fill
  | bankUncorr => exact h.completes rfl fun _ h => h.bankUncorr
  | mirrorCapture => exact h.completes rfl fun _ h => h.act fun _ h => h.mirrorCapture
  | collectiveOpen => exact h.completes rfl fun _ h => h.act fun _ h => h.collectiveOpen
  | collectiveCellReceive => exact h.completes rfl fun _ h => h.act fun _ h => h.collReceive
  | barrierMessage => exact h.completes rfl fun _ h => h.act fun _ h => h.barrierMessage
  | smallCollectiveMessage => exact h.completes rfl fun _ h => h.act fun _ h => h.smallMessage
  | collectiveDeadline => exact h.completes rfl fun _ h => h.collDeadline
  | heldMessageExpire => exact h.completes rfl fun _ h => h.heldExpire
  | filterIdentityExpire => exact h.completes rfl fun _ h => h.filterExpire
  | replicaInvalidate => exact h.completes rfl fun _ h => h.replicaInvalidate
  | memRequest => exact h.completes rfl fun _ h => h.act fun _ h => h.memRequest
  | flaggedStoreApply => exact h.completes rfl fun _ h => h.act fun _ h => h.flaggedApply
  | memResponse => exact h.completes rfl fun _ h => (h.act fun _ h => h.memResponse).wake
  | memInvalidate => exact h.completes rfl fun _ h => h.memInvalidate
  | memTimeout => exact h.completes rfl fun _ h => h.reqTimeout
  | invalidateTimeout => exact h.completes rfl fun _ h => (h.act fun _ h => h.invalidateTimeout.progress).wake
  | replicaFetchComplete => exact h.completes rfl fun _ h => h.replicaFetched
  | replicaTtlExpire => exact h.completes rfl fun _ h => h.replicaExpire
  | timebaseEnable => exact h.completes rfl fun _ h => h.write32
  | beatInEdge => exact h.completes rfl fun _ h => h.beatInEdge
  | beatInLost => exact h.completes rfl fun _ h => h.beatLost
  | beatRecord => exact h.completes rfl fun _ h => .ite h.beatRecord h
  | parentLost => exact h.completes rfl fun _ h => h.parentLost
  | strokeBoundary => exact h.completes rfl fun _ h => h.strokeBoundary
  | bezelSwitch => exact h.completes rfl fun _ h => h.write32
  | claspMessage => exact h.completes rfl fun _ h => h.claspMessage
  | claspTimeout => exact h.completes rfl fun _ h => h.claspTimeout
  | timeWrite => exact h.completes rfl fun _ h => h.busWrite
  | timeAdj => exact h.completes rfl fun _ h => h.write32
  | hallmarkEntryWrite => exact h.completes rfl fun _ h => h.act fun _ h => h.hallmarkWrite
  | hmDisable => exact h.completes rfl fun _ h => h.write32
  | managementNop => exact h.completes rfl fun _ h => h.mgmtNop
  | mountLoad => exact h.completes rfl fun _ h => h.mountLoad
  | mountClear => exact h.completes rfl fun _ h => h.mountClear
  | spareSwap => exact h.completes rfl fun _ h => h.spareSwap
  | slotMove => exact h.completes rfl fun _ h => h.slotMove
  | swapWaitExpire => exact h.completes rfl fun _ h => h.swapExpire
  | linkRetrain => exact h.completes rfl fun _ h => h.linkRetrain
  | noLight => exact h.completes rfl fun _ h => h.noLight
  | i3cPrivateWrite => exact h.completes rfl fun _ h => h.i3cWrite
  | i3cPrivateRead => exact h.completes rfl fun _ h => h.i3cRead
  | enec => exact h.completes rfl fun _ h => h.modI3c
  | disec => exact h.completes rfl fun _ h => h.modI3c
  | rstdaa => exact h.completes rfl fun _ h => h.modI3c
  | entdaa => exact h.completes rfl fun _ h => h.takeAddr
  | setdasa => exact h.completes rfl fun _ h => h.takeAddr
  | getpid => exact h.completes rfl fun _ h => h.cccAnswer
  | getbcr => exact h.completes rfl fun _ h => h.cccAnswer
  | getdcr => exact h.completes rfl fun _ h => h.cccAnswer
  | getstatus => exact h.completes rfl fun _ h => h.cccAnswer.modI3c
  | contextCreate => exact h.completes rfl fun _ h => h.busWrite
  | contextDestroy => exact h.completes rfl fun _ h => h.busWrite
  | teardownComplete => exact h.completes rfl fun _ h => h.teardownComplete
  | contextSwitch => exact h.completes rfl fun _ h => .ite h.contextSwitch h
  | suspendedResume => exact h.completes rfl fun _ h => .ite h.suspendedResume h
  | permitGrant => exact h.completes rfl fun _ h => h.permitGrant
  | permitReturn => exact h.completes rfl fun _ h => h.permitReturn
  | rampWindow => exact h.completes rfl fun _ h => h.rampWindow
  | loupeTrigger => exact h.completes rfl fun _ h => h.write32
  | loupeSchedule => exact h.completes rfl fun _ h => h.write32
  | loupeArm => exact h.completes rfl fun _ h => h.write32
  | loupeMessage => exact h.completes rfl fun _ h => h.loupeMessage
  | errorLogWrite => exact h.completes rfl fun _ h => h.errorLogWrite
  | registerRead => exact h.completes rfl fun _ h => h.busRead
  | hostPortLinkUp => exact ⟨_, rfl, h.hostPortUp⟩
  | vaultLinkUp => exact h.completes rfl fun _ h => h.vaultLinkUp.wake
  | vaultRetrainTimeout => exact h.completes rfl fun _ h => h.vaultTimeout
  | trainingPatternSeen => exact h.completes rfl fun _ h => .ite h.patternSeen h
  | tapInstruction => exact ⟨_, rfl, tapSettle h.upd⟩

/-- A step keeps the form: it takes the command in front, or lets a cycle of the hub clock pass. -/
theorem ofStep {s t : State} (h : s.dev.Canonical) (hstep : step s = .next t) : t.dev.Canonical := by
  unfold step at hstep
  split at hstep
  · cases hstep
    exact h.live fun _ h => h.tick
  · next c rest _ =>
    obtain ⟨u, hu, hcanon⟩ := gives (c := c) (s := { s with pending := rest }) h
    cases hu.symm.trans hstep
    exact hcanon

end Dev.Canonical

/-- Settles O58: every function of the device keeps the form (`Dev.Canonical`), so every command does and the tick does. -/
theorem everyStepKeepsMemoriesCanonical : Obligations.EveryStepKeepsMemoriesCanonical :=
  fun _ _ => Dev.Canonical.ofStep

end Sys2Proof.Machine
end

section
/-! The units that a vector instruction turns to (R113, R116, R155, R156): the pools and the migration engine. What they change for it, and what
they leave. -/

namespace Sys2Proof.Machine

theorem memRead_memWrite (m : Mem) (a : Nat) (bs : List Byte) : memRead (memWrite m a bs) a bs.length = bs := by
  refine List.ext_getElem (by rw [memRead, List.length_map, List.length_range]) fun i _ hi => ?_
  simp only [memRead, List.getElem_map, List.getElem_range]
  exact memByte_memWrite_inside _ _ _ _ hi

/-- A number written as 8 bytes is read back. -/
theorem Blocks.locNat_written {b : Blocks} {m : Mem} {q a n : Nat} (h : b.loc = memWrite m (q * 2 ^ 22 + a) (toLe 8 n)) :
    b.locNat q a 8 = n % 2 ^ 64 := by
  have hread := memRead_memWrite m (q * 2 ^ 22 + a) (toLe 8 n)
  rw [length_toLe] at hread
  rw [Blocks.locNat, Blocks.locRead, h, hread, leNat_toLe]
  rfl

/-! Buffers. -/

/-- Device e is device d but for HBM, registers, carats, the pools and the contexts. -/
def Dev.PoolFrame (d e : Dev) : Prop :=
  ∃ hbm regs pwr pool ctxs, e = { d with hbm := hbm, regs := regs, pwr := pwr, pool := pool, ctxs := ctxs }

theorem Dev.PoolFrame.trans {d e f : Dev} (h : d.PoolFrame e) (k : e.PoolFrame f) : d.PoolFrame f := by
  obtain ⟨_, _, _, _, _, rfl⟩ := h
  obtain ⟨_, _, _, _, _, rfl⟩ := k
  exact ⟨_, _, _, _, _, rfl⟩

theorem Dev.HbmFrame.poolFrame {d e : Dev} (h : d.HbmFrame e) : d.PoolFrame e := by
  obtain ⟨_, _, _, rfl⟩ := h
  exact ⟨_, _, _, _, _, rfl⟩

theorem Dev.PoolFrame.loc_cores {d e : Dev} (h : d.PoolFrame e) : e.loc = d.loc ∧ e.cores = d.cores := by
  obtain ⟨_, _, _, _, _, rfl⟩ := h
  exact ⟨rfl, rfl⟩

theorem Dev.poolFrame_modCtx (d : Dev) (c : Nat) (f : Ctx → Ctx) : d.PoolFrame (d.modCtx c f) := ⟨_, _, _, _, _, rfl⟩

theorem Dev.poolFrame_allocIn (d : Dev) (k p ctx sub : Nat) : d.PoolFrame (d.allocIn k p ctx sub).2 := by
  have hrefused : d.PoolFrame (d.bump Reg.poolCntEmpty 1) := (d.hbmFrame_bump _ _).poolFrame
  unfold Dev.allocIn
  dsimp only
  split
  · exact hrefused
  · split
    · exact hrefused
    · next n _ =>
      have hmap : d.PoolFrame (d.setMapBit k n 1) := ⟨_, _, _, _, _, rfl⟩
      exact ((hmap.trans (Dev.hbmFrame_putEntry _ _ _).poolFrame).trans (Dev.hbmFrame_bump _ _ _).poolFrame).trans ⟨_, _, _, _, _, rfl⟩

theorem Dev.poolFrame_alloc (d : Dev) (size p ctx sub : Nat) : d.PoolFrame (d.alloc size p ctx sub).2 := by
  unfold Dev.alloc
  split
  · exact (d.hbmFrame_bump _ _).poolFrame
  · exact d.poolFrame_allocIn _ _ _ _

/-- An allocation that does not fault. -/
theorem Dev.poolFrame_userAlloc {d e : Dev} {ctx size imm here ptr : Nat} (h : d.userAlloc ctx size imm here = .inr (ptr, e)) : d.PoolFrame e := by
  unfold Dev.userAlloc at h
  dsimp only at h
  split at h
  · exact absurd h nofun
  · split at h
    · split at h
      · exact absurd h nofun
      · split at h
        · exact absurd h nofun
        · have hin := d.poolFrame_allocIn (d.fld Reg.poolCtrl 7 5) 1 ctx (bitsOf imm 15 0)
          split at h
          · cases h
            exact hin.trans (Dev.poolFrame_modCtx _ _ _)
          · split at h
            · exact absurd h nofun
            · cases h
              exact hin
    · have hfull := d.poolFrame_alloc size 3 ctx (bitsOf imm 15 0)
      rw [Sum.inr.inj h] at hfull
      exact hfull

/-! Hints. -/

theorem Dev.EngineFrame.loc_cores {d e : Dev} (h : d.EngineFrame e) : e.loc = d.loc ∧ e.cores = d.cores := by
  obtain ⟨_, _, _, _, _, _, _, rfl⟩ := h
  exact ⟨rfl, rfl⟩

theorem Dev.engineFrame_bump (d : Dev) (off n : Nat) : d.EngineFrame (d.bump off n) := ⟨_, _, _, _, _, _, _, rfl⟩

theorem Dev.engineFrame_filSend (d : Dev) (typ key sub : Nat) (data : List Byte) (dest : Nat) : d.EngineFrame (d.filSend typ key sub data dest) := by
  obtain ⟨_, h⟩ := d.filSend_eq typ key sub data dest
  rw [h]
  exact ⟨_, _, _, _, _, _, _, rfl⟩

theorem Dev.engineFrame_hintFor (d : Dev) (l e : Nat) (o : Option (List Byte)) : d.EngineFrame (d.hintFor l e o) := by
  cases o with
  | none => exact d.engineFrame_bump _ _
  | some ent =>
    dsimp only [Dev.hintFor]
    split
    · exact d.engineFrame_bump _ _
    · split
      · exact d.engineFrame_bump _ _
      · split
        · exact d.engineFrame_bump _ _
        · split
          · exact d.engineFrame_bump _ _
          · exact ⟨_, _, _, _, _, _, _, rfl⟩

theorem Dev.engineFrame_localHint (d : Dev) (l e : Nat) : d.EngineFrame (d.localHint l e) := by
  rw [Dev.localHint_eq]
  exact d.engineFrame_hintFor l e _

theorem Dev.engineFrame_takeHints (d : Dev) (l experts : Nat) (es : List Nat) : d.EngineFrame (d.takeHints l experts es) := by
  unfold Dev.takeHints
  extract_lets homeOf d'
  have hlocal : d.EngineFrame d' := Dev.engineFrame_foldl _ (fun x e => by
    split
    · exact x.engineFrame_bump _ _
    · split
      · exact x.engineFrame_localHint l e
      · exact .refl x) es d
  refine hlocal.trans (Dev.engineFrame_foldl _ (fun x h => ?_) _ d')
  split
  · exact .refl x
  · exact Dev.engineFrame_foldl _ (fun x _ => x.engineFrame_filSend _ _ _ _ _) _ x

end Sys2Proof.Machine
end

section
/-! VALLOC, VFREE and VHINT (R113, R116, R155, R156): the work of each on a core, and what the row makes of it. -/

namespace Sys2Proof.Machine

/-! The common path, without corrected words. -/

/-- The instruction at x has been done: it is passed, unless a fault has ended the stream. -/
def Dev.passedAll (d : Dev) (p : Nat) (g : Prog) (x : Nat) : Dev := if (d.prog? p).isNone then d else d.passed p (g.at_ x) g.gang

theorem Dev.passedAll_runs {d : Dev} {p : Nat} (g : Prog) (x : Nat) (h : (d.prog? p).isSome = true) :
    d.passedAll p g x = d.passed p (g.at_ x) g.gang := if_neg (by simp [Option.isNone_eq_false_iff.mpr h])

theorem Dev.passed_eq_regs_cores (d : Dev) (p : Nat) (g : Prog) (x : Nat) :
    ∃ regs cores, d.passed p (g.at_ x) g.gang = { d with regs := regs, cores := cores } := by
  obtain ⟨_, _, h⟩ := (d.owedFrame_passed p g x).eq
  exact ⟨_, _, h⟩

theorem Dev.prog_passed {d : Dev} {p : Nat} {g : Prog} (x : Nat) (h : d.prog? p = some g) :
    (d.passed p (g.at_ x) g.gang).prog? p = some (Safety.pastV g x) := by
  rw [(d.owedFrame_passed p g x).prog, Dev.prog_modProg_same, h]
  rfl

theorem Dev.prog_of_cores {d e : Dev} (h : e.cores = d.cores) (c : Nat) : e.prog? c = d.prog? c := by
  rw [Blocks.prog?, Blocks.core, h, Blocks.prog?, Blocks.core]

section
variable {s : State} {p op x : Nat} {ecc : Ecc} {g : Prog} {bs : List Byte} {r : VecRule}

/-- A clear instruction does its work on one core of its stream after the other. -/
theorem live_vecRow_clear (run : Dev → Nat → Prog → VecInsn → Dev) (hturn : Safety.Turn s p op g x bs) (hrule : s.dev.vecRule p (vecOf bs) = r)
    (hclear : Safety.Clear s p x bs r ecc) (hcorr : ecc.corrLocal = 0) : s.dev.live (fun d => d.vecRow p op ecc run) =
      (Safety.eachCore g p (fun d c => run d c (g.at_ x) (vecOf bs)) s.dev).passedAll p g x := by
  obtain ⟨hnone, hfree, hbad⟩ := hclear
  have hcount : s.dev.countCorr (g.errCore p ecc) 0 { ecc with corrHbm := 0 } = s.dev := Dev.countCorr_none _ _ _ _ hcorr rfl
  rw [live_vecRow run hturn (by simp [hbad]), Dev.vecWork_clear run hrule hnone hfree hbad, hcount]
  rfl

/-- A stream of one core whose program runs. -/
theorem eachCore_single {q : Nat} (f : Dev → Nat → Dev) {d : Dev} (hgang : g.gang = [q]) (h : d.prog? p = some g) :
    Safety.eachCore g p f d = f d q := by
  simp [Safety.eachCore, hgang, h]

/-- A stream of one core whose work leaves the cores alone. -/
theorem passedAll_single {q : Nat} (f : Dev → Nat → Dev) {d : Dev} (hgang : g.gang = [q]) (h : d.prog? p = some g)
    (hcores : (f d q).cores = d.cores) : (Safety.eachCore g p f d).passedAll p g x = (f d q).passed p (g.at_ x) g.gang := by
  rw [eachCore_single f hgang h, Dev.passedAll_runs]
  rw [Dev.prog_of_cores hcores, h]
  rfl

end

/-! VALLOC. -/

/-- VALLOC's work on a core. -/
def Dev.allocWork (d : Dev) (c : Nat) (g : Prog) (v : VecInsn) : Dev :=
  match d.userAlloc g.ctx v.count v.imm (g.devPc g.pc) with
  | .inl (code, addr) => d.deviceFault c g g.pc code addr
  | .inr (ptr, d) => d.locWrite c v.dst (toLe 8 ptr)

theorem exec_valloc (s : State) (p : Nat) (ecc : Ecc) :
    exec (.valloc p ecc) s = .next (s.onDev (s.dev.live (fun d => d.vecRow p 0x94 ecc (fun d c g v => d.allocWork c g v)))) := rfl

section
variable {s : State} {p x : Nat} {ecc : Ecc} {g : Prog} {bs : List Byte} (hturn : Safety.Turn s p 0x94 g x bs)
include hturn

theorem valloc_rule : s.dev.vecRule p (vecOf bs) = slotRule (vecOf bs).hm none [Span.w (vecOf bs).dst 8 8] := by
  have hop : (vecOf bs).op = 0x94 := hturn.2.2.2.1
  simp only [Blocks.vecRule, hop]

variable (hclear : Safety.Clear s p x bs (slotRule (vecOf bs).hm none [Span.w (vecOf bs).dst 8 8]) ecc) (hcorr : ecc.corrLocal = 0)
include hclear hcorr

theorem valloc_clear : exec (.valloc p ecc) s =
    .next (s.onDev ((Safety.eachCore g p (fun d c => d.allocWork c (g.at_ x) (vecOf bs)) s.dev).passedAll p g x)) := by
  rw [exec_valloc, live_vecRow_clear _ hturn (valloc_rule hturn) hclear hcorr]

/-- The pointer that the pool answers goes to the one core of the stream; beside that the blocks are what the allocation has left. -/
theorem valloc_single {q ptr : Nat} {d : Dev} (hgang : g.gang = [q])
    (halloc : s.dev.userAlloc g.ctx (vecOf bs).count (vecOf bs).imm (g.devPc x) = .inr (ptr, d)) : Safety.Gives (.valloc p ecc) s (fun t =>
      t.dev.locNat q (vecOf bs).dst 8 = ptr % 2 ^ 64 ∧ Safety.LocalBut s t [q] (vecOf bs).dst (fun _ => 8) ∧ t.dev.pool = d.pool ∧
      t.dev.hbm = d.hbm ∧ t.dev.ctxs = d.ctxs ∧ t.dev.prog? p = some (Safety.pastV g x) ∧ Safety.SameOthers s t ∧
      t.dev.vault = s.dev.vault ∧ t.dev.hostMem = s.dev.hostMem) := by
  have hprog : s.dev.prog? p = some g := hturn.1.2.1
  have hframe := Dev.poolFrame_userAlloc halloc
  have hwork : s.dev.allocWork q (g.at_ x) (vecOf bs) = d.locWrite q (vecOf bs).dst (toLe 8 ptr) := by
    have hhere : s.dev.userAlloc (g.at_ x).ctx (vecOf bs).count (vecOf bs).imm ((g.at_ x).devPc (g.at_ x).pc) = .inr (ptr, d) := halloc
    simp only [Dev.allocWork, hhere]
  have hcores : (d.locWrite q (vecOf bs).dst (toLe 8 ptr)).cores = s.dev.cores := hframe.loc_cores.2
  have hexec := valloc_clear hturn hclear hcorr
  rw [passedAll_single _ hgang hprog (by rw [hwork, hcores]), hwork] at hexec
  have hpast := Dev.prog_passed x ((Dev.prog_of_cores hcores p).trans hprog)
  obtain ⟨_, _, hpassed⟩ := (d.locWrite q (vecOf bs).dst (toLe 8 ptr)).passed_eq_regs_cores p g x
  rw [hpassed] at hexec hpast
  obtain ⟨_, _, _, _, _, rfl⟩ := hframe
  refine ⟨_, hexec, ?_, fun y hy => ?_, rfl, rfl, rfl, hpast, ⟨rfl, rfl, rfl, rfl, rfl, rfl, rfl, rfl, rfl, rfl, rfl, rfl⟩, rfl, rfl⟩
  · exact Blocks.locNat_written rfl
  · refine memByte_memWrite_apart _ _ _ _ ?_
    rw [length_toLe]
    exact hy q List.mem_cons_self

end

/-! VFREE. -/

/-- The free of the buffer that a core names at SRC1. -/
def Dev.freeNamed (d : Dev) (c : Nat) (g : Prog) (v : VecInsn) : Dev :=
  match d.checkFree (d.locNat c v.src1 8) (some g.ctx) with
  | .inl code => d.deviceFault c g g.pc code (d.locNat c v.src1 8)
  | .inr (k, n) => d.freeBuf k n

theorem exec_vfree (s : State) (p : Nat) (ecc : Ecc) : exec (.vfree p ecc) s = .next (s.onDev (s.dev.live (fun d => d.vecRow p 0x95 ecc
    (fun d c g v => if v.imm ≠ 0 then d.deviceFault c g g.pc 0x56 (g.devPc g.pc) else d.freeNamed c g v)))) := rfl

section
variable {s : State} {p x : Nat} {ecc : Ecc} {g : Prog} {bs : List Byte} (hturn : Safety.Turn s p 0x95 g x bs)
  (hclear : Safety.Clear s p x bs (slotRule false none [Span.r (vecOf bs).src1 8 8]) ecc) (hcorr : ecc.corrLocal = 0) (himm : (vecOf bs).imm = 0)
include hturn hclear hcorr himm

theorem vfree_clear : exec (.vfree p ecc) s =
    .next (s.onDev ((Safety.eachCore g p (fun d c => d.freeNamed c (g.at_ x) (vecOf bs)) s.dev).passedAll p g x)) := by
  have hrule : s.dev.vecRule p (vecOf bs) = slotRule false none [Span.r (vecOf bs).src1 8 8] := by
    have hop : (vecOf bs).op = 0x95 := hturn.2.2.2.1
    simp only [Blocks.vecRule, hop]
  rw [exec_vfree, live_vecRow_clear _ hturn hrule hclear hcorr]
  simp only [himm, ne_eq, not_true_eq_false, if_false]

theorem vfree_single {q k n : Nat} (hgang : g.gang = [q]) (hcheck : s.dev.checkFree (s.dev.locNat q (vecOf bs).src1 8) (some g.ctx) = .inr (k, n)) :
    exec (.vfree p ecc) s = .next (s.onDev ((s.dev.freeBuf k n).passed p (g.at_ x) [q])) := by
  have hwork : s.dev.freeNamed q (g.at_ x) (vecOf bs) = s.dev.freeBuf k n := by
    have hhere : s.dev.checkFree (s.dev.locNat q (vecOf bs).src1 8) (some (g.at_ x).ctx) = .inr (k, n) := hcheck
    simp only [Dev.freeNamed, hhere]
  have hcores : (s.dev.freeBuf k n).cores = s.dev.cores := (s.dev.sideFrame_freeBuf k n).blocks.2.1
  rw [vfree_clear hturn hclear hcorr himm, passedAll_single _ hgang hturn.1.2.1 (by rw [hwork, hcores]), hwork, hgang]

end

/-! VHINT. -/

/-- The experts that a core's 16 rows choose, ascending. -/
def Blocks.hintUnion (b : Blocks) (c : Nat) (v : VecInsn) : List Nat := (List.range v.count).filter (fun e =>
  (List.range 16).any (fun r => (hintRow v.imm (b.words c (v.src1 + 4 * r * v.count) v.count)).contains e))

/-- The rows are read from local memory. -/
theorem Blocks.hintUnion_of_loc {b b' : Blocks} (h : b'.loc = b.loc) (c : Nat) (v : VecInsn) : b'.hintUnion c v = b.hintUnion c v := by
  unfold Blocks.hintUnion Blocks.words Blocks.locNat Blocks.locRead
  rw [h]

theorem contains_flatMap {α : Type} (f : α → List Nat) (xs : List α) : (xs.flatMap f).contains = fun e => xs.any (fun x => (f x).contains e) := by
  funext e
  rw [Bool.eq_iff_iff, List.contains_iff_mem, List.mem_flatMap, List.any_eq_true]
  simp only [List.contains_iff_mem]

theorem Dev.vhint_eq (d : Dev) (p : Nat) (ecc : Ecc) :
    d.vhint p ecc = d.vecRow p 0x93 ecc (fun d c _ v => d.takeHints v.dev v.count (d.hintUnion c v)) := by
  unfold Dev.vhint Blocks.hintUnion
  simp only [contains_flatMap]

theorem exec_vhint (s : State) (p : Nat) (ecc : Ecc) : exec (.vhint p ecc) s = .next (s.onDev (s.dev.live (fun d => d.vecRow p 0x93 ecc
    (fun d c _ v => d.takeHints v.dev v.count (d.hintUnion c v))))) := by
  simp only [← Dev.vhint_eq]
  rfl

section
variable {s : State} {p x : Nat} {ecc : Ecc} {g : Prog} {bs : List Byte} (hturn : Safety.Turn s p 0x93 g x bs)
include hturn

theorem vhint_rule : s.dev.vecRule p (vecOf bs) = hintRule (vecOf bs) := by
  have hop : (vecOf bs).op = 0x93 := hturn.2.2.2.1
  simp only [Blocks.vecRule, hop]

/-- Hints leave local memory and programs, so that each core's union is that of the rows it holds at issue. -/
theorem vhint_clear (hclear : Safety.Clear s p x bs (hintRule (vecOf bs)) ecc) (hcorr : ecc.corrLocal = 0) : exec (.vhint p ecc) s =
    .next (s.onDev ((g.gang.foldl (fun d c => d.takeHints (vecOf bs).dev (vecOf bs).count (s.dev.hintUnion c (vecOf bs))) s.dev).passed p
      (g.at_ x) g.gang)) := by
  have hprog : s.dev.prog? p = some g := hturn.1.2.1
  have htakes : ∀ (d : Dev) (es : List Nat), (d.takeHints (vecOf bs).dev (vecOf bs).count es).loc = d.loc ∧
      ∀ c, (d.takeHints (vecOf bs).dev (vecOf bs).count es).prog? c = d.prog? c := fun d es => by
    obtain ⟨hloc, hcores⟩ := (d.engineFrame_takeHints (vecOf bs).dev (vecOf bs).count es).loc_cores
    exact ⟨hloc, Dev.prog_of_cores hcores⟩
  have heach : Safety.eachCore g p (fun d c => d.takeHints (vecOf bs).dev (vecOf bs).count (d.hintUnion c (vecOf bs))) s.dev =
      g.gang.foldl (fun d c => d.takeHints (vecOf bs).dev (vecOf bs).count (s.dev.hintUnion c (vecOf bs))) s.dev := by
    rw [← eachCore_eq (p := p) (fun d c => (htakes d _).2 p) (by rw [hprog]; rfl)]
    exact eachCore_congr fun e c _ he => ⟨by rw [Blocks.hintUnion_of_loc he], (htakes e _).1.trans he⟩
  have hruns := foldl_keeps (fun e : Dev => e.prog? p = some g)
    (f := fun d c => d.takeHints (vecOf bs).dev (vecOf bs).count (s.dev.hintUnion c (vecOf bs))) (fun e c h => ((htakes e _).2 p).trans h) g.gang hprog
  rw [exec_vhint, live_vecRow_clear _ hturn (vhint_rule hturn) hclear hcorr, heach, Dev.passedAll_runs]
  rw [hruns]
  rfl

end

/-! Issue faults. -/

section
variable {s : State} {p x : Nat} {ecc : Ecc} {g : Prog} {bs : List Byte} {code loc : Nat} (hbad : ecc.badLocal = none)
include hbad

theorem valloc_fault (hturn : Safety.Turn s p 0x94 g x bs)
    (hcode : (vecOf bs).fault (slotRule (vecOf bs).hm none [Span.w (vecOf bs).dst 8 8]) = some (code, loc)) :
    exec (.valloc p ecc) s = .next (s.onDev (s.dev.insnFault p (g.at_ x) x code .v loc)) := by
  rw [exec_valloc, live_vecRow _ hturn (by simp [hbad]), Dev.vecWork_fault _ (valloc_rule hturn) hcode]

theorem vhint_fault (hturn : Safety.Turn s p 0x93 g x bs) (hcode : (vecOf bs).fault (hintRule (vecOf bs)) = some (code, loc)) :
    exec (.vhint p ecc) s = .next (s.onDev (s.dev.insnFault p (g.at_ x) x code .v loc)) := by
  rw [exec_vhint, live_vecRow _ hturn (by simp [hbad]), Dev.vecWork_fault _ (vhint_rule hturn) hcode]

end

end Sys2Proof.Machine
end

section
open Sys2Proof Sys2Proof.Machine

/-- Settles O33: the three rows go the common path of the vector instructions, and the pools and the migration engine leave local memory and
the programs alone (R113, R116, R155, R156); an issue fault is recorded on the leader of the stream (log entry 88). -/
theorem vectorUnits : Obligations.VectorUnits := by
  unfold Obligations.VectorUnits
  refine ⟨fun s p x ecc g bs hturn => ?_, fun s p x ecc g bs hturn => ?_, fun s p x ecc g bs hturn => ?_, fun s p x ecc g bs code loc hbad => ?_⟩
  · intro v hclear hcorr
    refine ⟨fun q ptr d hgang halloc => valloc_single hturn hclear hcorr hgang halloc, fun d hd hruns => ?_⟩
    have hwork : Safety.eachCore g p (fun d c => d.allocWork c (g.at_ x) v) s.dev = d :=
      (congrArg (fun f => Safety.eachCore g p f s.dev) (funext fun _ => funext fun _ => rfl)).trans hd.symm
    rw [← Dev.passedAll_runs g x hruns, ← hwork]
    exact valloc_clear hturn hclear hcorr
  · intro v hclear hcorr himm
    refine ⟨fun q k n hgang hcheck => vfree_single hturn hclear hcorr himm hgang hcheck, fun d hd hruns => ?_⟩
    have hwork : Safety.eachCore g p (fun d c => d.freeNamed c (g.at_ x) v) s.dev = d :=
      (congrArg (fun f => Safety.eachCore g p f s.dev) (funext fun _ => funext fun _ => rfl)).trans hd.symm
    rw [← Dev.passedAll_runs g x hruns, ← hwork]
    exact vfree_clear hturn hclear hcorr himm
  · exact fun hclear hcorr => vhint_clear hturn hclear hcorr
  · exact ⟨fun h => valloc_fault hbad h.1 h.2, fun h => vhint_fault hbad h.1 h.2⟩
end

section
/-! What an access of a core to the device range leaves alone (R127, R129): every block but memories, counters, carats, Hallmark parts and the
queues of the vault ports; and the checks of the next core's access, which find what they found before. -/

namespace Sys2Proof.Machine

/-- Registers that no access of a core counts in: those below the controllers' but for the count of misses, and the status of a vault port. -/
def StandsInAccess (off : Nat) : Prop := (off < 0x04000000 ∧ off ≠ Reg.migCntMiss) ∨ ∃ n, off = Reg.vltPortStatus n

/-- Device e is device d but for what an access of a core can change. -/
structure Dev.TransferFrame (d e : Dev) : Prop where
  eq : ∃ hbm loc regs pwr ctxs ports,
    e = { d with hbm := hbm, loc := loc, regs := regs, pwr := pwr, ctxs := ctxs, mig := { d.mig with ports := ports } }
  counted : ∀ n, (e.vport n).counted = (d.vport n).counted
  rd : ∀ off, StandsInAccess off → e.rd off = d.rd off
  mode : ∀ c, (e.ctx c).mode = (d.ctx c).mode
  saves : ∀ x ∈ e.ctxs, x.2.mode ≠ .free → ∃ y ∈ d.ctxs, y.2.mode = x.2.mode ∧ y.2.saveBase = x.2.saveBase

/-! The frame's steps. -/

theorem Dev.TransferFrame.refl (d : Dev) : d.TransferFrame d :=
  ⟨⟨_, _, _, _, _, _, rfl⟩, fun _ => rfl, fun _ _ => rfl, fun _ => rfl, fun x hx _ => ⟨x, hx, rfl, rfl⟩⟩

theorem Dev.TransferFrame.trans {d e f : Dev} (h : d.TransferFrame e) (k : e.TransferFrame f) : d.TransferFrame f := by
  refine ⟨?_, fun n => (k.counted n).trans (h.counted n), fun off hoff => (k.rd off hoff).trans (h.rd off hoff),
    fun c => (k.mode c).trans (h.mode c), fun x hx hlive => ?_⟩
  · obtain ⟨_, _, _, _, _, _, rfl⟩ := h.eq
    obtain ⟨_, _, _, _, _, _, rfl⟩ := k.eq
    exact ⟨_, _, _, _, _, _, rfl⟩
  · obtain ⟨y, hy, hmode, hbase⟩ := k.saves x hx hlive
    obtain ⟨z, hz, hmode', hbase'⟩ := h.saves y hy (hmode ▸ hlive)
    exact ⟨z, hz, hmode'.trans hmode, hbase'.trans hbase⟩

/-- Registers alone, none of those that stand. -/
theorem Dev.RegFrame.transferFrame {d e : Dev} (h : d.RegFrame e) (hrd : ∀ off, StandsInAccess off → e.rd off = d.rd off) : d.TransferFrame e := by
  obtain ⟨_, rfl⟩ := h
  exact ⟨⟨_, _, _, _, _, _, rfl⟩, fun _ => rfl, hrd, fun _ => rfl, fun x hx _ => ⟨x, hx, rfl, rfl⟩⟩

theorem Dev.transferFrame_locWrite (d : Dev) (c a : Nat) (bs : List Byte) : d.TransferFrame (d.locWrite c a bs) :=
  ⟨⟨_, _, _, _, _, _, rfl⟩, fun _ => rfl, fun _ _ => rfl, fun _ => rfl, fun x hx _ => ⟨x, hx, rfl, rfl⟩⟩

theorem StandsInAccess.not_hbmCounter {off : Nat} (h : StandsInAccess off) : off ∉ Safety.hbmCounters := by
  intro hmem
  obtain ⟨s, -, hs⟩ := List.mem_flatMap.mp hmem
  simp only [List.mem_cons, List.not_mem_nil, or_false, Reg.hbmCntRead, Reg.hbmCntWrite, Reg.hbmCntCross] at hs
  rcases h with ⟨hlt, -⟩ | ⟨n, rfl⟩
  · omega
  · simp only [Reg.vltPortStatus] at hs
    omega

theorem StandsInAccess.not_coreCounter {off : Nat} (h : StandsInAccess off) (c : Nat) :
    off ≠ Reg.coreCntEccCorr c ∧ (∀ i, i < 8 → off ≠ Reg.corePmc c i) ∧ ∀ s, off ≠ Reg.hbmCntCorr s := by
  simp only [Reg.coreCntEccCorr, Reg.corePmc, Reg.hbmCntCorr]
  rcases h with ⟨hlt, -⟩ | ⟨n, rfl⟩
  · exact ⟨by omega, fun i hi => by omega, fun s => by omega⟩
  · simp only [Reg.vltPortStatus]
    exact ⟨by omega, fun i hi => by omega, fun s => by omega⟩

theorem Dev.DirectFrame.transferFrame {d e : Dev} (h : d.DirectFrame e) : d.TransferFrame e := by
  obtain ⟨⟨_, _, _, rfl⟩, hrd⟩ := h
  exact ⟨⟨_, _, _, _, _, _, rfl⟩, fun _ => rfl, fun off hoff => hrd off hoff.not_hbmCounter, fun _ => rfl,
    fun x hx _ => ⟨x, hx, rfl, rfl⟩⟩

theorem Dev.transferFrame_countEvent (d : Dev) (c event ctx n : Nat) : d.TransferFrame (d.countEvent c event ctx n) :=
  (d.regFrame_countEvent c event ctx n).transferFrame fun _ hoff => d.rd_countEvent _ _ _ _ (hoff.not_coreCounter c).2.1

theorem Dev.transferFrame_countCorr (d : Dev) (c a : Nat) (ecc : Ecc) : d.TransferFrame (d.countCorr c a ecc) :=
  (d.regFrame_countCorr c a ecc).transferFrame fun _ hoff => d.rd_countCorr_hbm _ _ _ (hoff.not_coreCounter c).1 (hoff.not_coreCounter c).2.2

theorem Dev.transferFrame_countEcc (d : Dev) (a corr : Nat) : d.TransferFrame (d.countEcc a corr) := by
  unfold Dev.countEcc
  split
  · exact .refl d
  · exact (d.regFrame_wr _ _).transferFrame fun _ hoff => d.rd_bump_other _ ((hoff.not_coreCounter 0).2.2 _)

/-- A context changes neither its mode nor its save area. -/
theorem Dev.transferFrame_modCtx (d : Dev) (c : Nat) {f : Ctx → Ctx} (hmode : ∀ x, (f x).mode = x.mode) (hbase : ∀ x, (f x).saveBase = x.saveBase) :
    d.TransferFrame (d.modCtx c f) := by
  refine ⟨⟨_, _, _, _, _, _, rfl⟩, fun _ => rfl, fun _ _ => rfl, fun q => ?_, fun x hx hlive => ?_⟩
  · by_cases hq : q = c
    · rw [hq, Dev.ctx_modCtx_same, hmode]
    · rw [Dev.ctx_modCtx_other _ _ _ _ hq]
  · have herased : x ∈ tabErase c d.ctxs → ∃ y ∈ d.ctxs, y.2.mode = x.2.mode ∧ y.2.saveBase = x.2.saveBase := fun hmem =>
      ⟨x, List.mem_of_mem_filter hmem, rfl, rfl⟩
    have htable : x ∈ tabSet {} d.ctxs c (f (d.ctx c)) := hx
    unfold tabSet at htable
    split at htable
    · exact herased htable
    · rcases (mem_tabInsert _ _ _ _).mp htable with rfl | hmem
      · have hne : d.ctx c ≠ {} := fun habsent => hlive (by rw [hmode, habsent])
        exact ⟨_, mem_of_tabGet_ne hne, (hmode _).symm, (hbase _).symm⟩
      · exact herased hmem

end Sys2Proof.Machine
end

section
/-! What an access of a core leaves standing (R127, R129): the reads that its checks and its waits go by. -/

namespace Sys2Proof.Machine

theorem Dev.transferFrame_hmPart (d : Dev) (g : Prog) (c order : Nat) (bs : List Byte) : d.TransferFrame (d.hmPart g c order bs) := by
  unfold Dev.hmPart
  split
  · split
    · exact .refl d
    · exact d.transferFrame_modCtx _ (fun _ => rfl) fun _ => rfl
  · exact .refl d

section
variable {d e : Dev} (h : d.TransferFrame e)
include h

theorem Dev.TransferFrame.cores : e.cores = d.cores := by
  obtain ⟨_, _, _, _, _, _, rfl⟩ := h.eq
  rfl

theorem Dev.TransferFrame.remote : e.remote = d.remote := by
  obtain ⟨_, _, _, _, _, _, rfl⟩ := h.eq
  rfl

theorem Dev.TransferFrame.now : e.mig.now = d.mig.now := by
  obtain ⟨_, _, _, _, _, _, rfl⟩ := h.eq
  rfl

theorem Dev.TransferFrame.outer : e.vault = d.vault ∧ e.hostMem = d.hostMem ∧ e.jobs = d.jobs := by
  obtain ⟨_, _, _, _, _, _, rfl⟩ := h.eq
  exact ⟨rfl, rfl, rfl⟩

theorem Dev.TransferFrame.layout : e.mgmt = d.mgmt ∧ e.grade = d.grade := by
  obtain ⟨_, _, _, _, _, _, rfl⟩ := h.eq
  exact ⟨rfl, rfl⟩

theorem Dev.TransferFrame.prog (p : Nat) : e.prog? p = d.prog? p := Dev.prog_of_cores h.cores p

theorem Dev.TransferFrame.fld {off : Nat} (hoff : StandsInAccess off) (hi lo : Nat) : e.fld off hi lo = d.fld off hi lo := by
  rw [Blocks.fld, h.rd off hoff, Blocks.fld]

theorem Dev.TransferFrame.flag {off : Nat} (hoff : StandsInAccess off) (i : Nat) : e.flag off i = d.flag off i := by
  rw [Blocks.flag, h.rd off hoff, Blocks.flag]

end

theorem standsInAccess_mig {off : Nat} (h : off < 0x03C00100) : StandsInAccess off := .inl ⟨by omega, by simp only [Reg.migCntMiss]; omega⟩

section
variable {d e : Dev} (h : d.TransferFrame e)
include h

theorem Dev.TransferFrame.ilv : e.ilv = d.ilv := h.flag (standsInAccess_mig (by decide)) 2

theorem Dev.TransferFrame.saveBytes : e.saveBytes = d.saveBytes := by
  obtain ⟨hmgmt, hgrade⟩ := h.layout
  rw [Blocks.saveBytes, Blocks.lc, hmgmt, hgrade, Blocks.saveBytes, Blocks.lc]

theorem Dev.TransferFrame.poolFrames {off : Nat} (hoff : off < 0x03C00100) : e.poolFrames off = d.poolFrames off := by
  rw [Blocks.poolFrames, h.fld (standsInAccess_mig hoff), h.fld (standsInAccess_mig hoff), Blocks.poolFrames]

/-- No area is protected that was not. -/
theorem Dev.TransferFrame.protectedAreas {a : Nat × Nat} (ha : a ∈ e.protectedAreas) : a ∈ d.protectedAreas := by
  obtain ⟨hmgmt, -⟩ := h.layout
  rw [Blocks.protectedAreas, List.mem_append] at ha ⊢
  rcases ha with ha | ha
  · left
    have hpool {off : Nat} (hoff : off < 0x03C00100) := h.poolFrames hoff
    have htiles : e.tiles = d.tiles := by rw [Blocks.tiles, h.rd _ (standsInAccess_mig (by decide)), Blocks.tiles]
    dsimp only at ha ⊢
    rwa [hmgmt, hpool (off := Reg.migStreamPool) (by decide), hpool (off := Reg.migCachePool) (by decide),
      hpool (off := Reg.memReplPool) (by decide), h.rd Reg.migTdirBase (standsInAccess_mig (by decide)), htiles,
      h.rd Reg.poolTagBase (standsInAccess_mig (by decide))] at ha
  · right
    obtain ⟨x, hx, heq⟩ := List.mem_filterMap.mp ha
    simp only [h.saveBytes, Option.ite_none_right_eq_some, Option.some.injEq, Bool.and_eq_true, decide_eq_true_eq] at heq
    obtain ⟨⟨hlive, hbase⟩, rfl⟩ := heq
    obtain ⟨y, hy, hymode, hybase⟩ := h.saves x hx hlive
    refine List.mem_filterMap.mpr ⟨y, hy, ?_⟩
    rw [hymode, hybase, if_pos (by simp [hlive, hbase])]

theorem Dev.TransferFrame.failedAt : e.failedAt = d.failedAt := by
  funext a n
  have hstack : e.stackOf = d.stackOf := funext fun x => by rw [Blocks.stackOf, h.ilv, Blocks.stackOf]
  have hfailed : e.stackFailed = d.stackFailed := funext fun s => h.flag (standsInAccess_mig (by decide)) _
  rw [Blocks.failedAt, hstack, hfailed, h.ilv, Blocks.failedAt]

theorem Dev.TransferFrame.checkRange {a n : Nat} (hcheck : d.checkRange a n = none) : e.checkRange a n = none := by
  unfold Blocks.checkRange at hcheck ⊢
  split at hcheck
  · exact absurd hcheck nofun
  · next hrange =>
    rw [if_neg hrange]
    cases hpart : partOf a with
    | direct =>
      simp only [hpart] at hcheck ⊢
      have hfree : e.isProtected a n = false := by
        refine Bool.eq_false_iff.mpr fun hany => ?_
        obtain ⟨x, hx, hmeets⟩ := List.any_eq_true.mp hany
        have hthere : d.isProtected a n = true := List.any_eq_true.mpr ⟨x, h.protectedAreas hx, hmeets⟩
        rw [if_pos hthere] at hcheck
        exact absurd hcheck nofun
      rw [hfree, if_neg Bool.false_ne_true, h.failedAt]
      split at hcheck
      · exact absurd hcheck nofun
      · exact hcheck
    | tiered =>
      simp only [hpart] at hcheck ⊢
      rwa [h.rd _ (standsInAccess_mig (by decide)), h.flag (standsInAccess_mig (by decide))]
    | remote => rfl
    | reserved => rfl

theorem Dev.TransferFrame.exportWindow : e.rd Reg.memExportBase = d.rd Reg.memExportBase ∧ e.exportBytes = d.exportBytes := by
  constructor
  · exact h.rd _ (standsInAccess_mig (by decide))
  · rw [Blocks.exportBytes, h.rd _ (standsInAccess_mig (by decide)), Blocks.exportBytes]

theorem Dev.TransferFrame.sharedLines {a n : Nat} (hapart : overlaps a n (d.rd Reg.memExportBase) d.exportBytes = false) :
    e.sharedLines a n = [] := by
  obtain ⟨hbase, hbytes⟩ := h.exportWindow
  exact e.sharedLines_apart (by rw [hbase, hbytes, hapart])

/-! The block of devices, as this device sees it. -/

theorem Dev.TransferFrame.me : e.me = d.me := by
  simp only [Blocks.me, Blocks.indexOf, Blocks.offs, Blocks.self, Blocks.bx, Blocks.by_, h.fld (standsInAccess_mig (off := Reg.fabRtBlock) (by decide)),
    h.rd Reg.fabRtSelf (standsInAccess_mig (by decide))]

theorem Dev.TransferFrame.blockN : e.blockN = d.blockN := by
  simp only [Blocks.blockN, Blocks.bx, Blocks.by_, Blocks.bz, h.fld (standsInAccess_mig (off := Reg.fabRtBlock) (by decide))]

theorem Dev.TransferFrame.inOctet (i : Nat) : e.inOctet i = d.inOctet i := by
  simp only [Blocks.inOctet, Blocks.octetOf, h.me, Blocks.bx, Blocks.by_, h.flag (standsInAccess_mig (off := Reg.memCtrl) (by decide)),
    h.fld (standsInAccess_mig (off := Reg.fabRtBlock) (by decide))]
  rfl

theorem Dev.TransferFrame.settled (gang : List Nat) (order : Nat) : e.settled gang order = d.settled gang order := by
  simp only [Blocks.settled, Blocks.remoteBusy, Blocks.holdsInsn, h.remote, h.inOctet]

/-! Copies of remote bytes that stand in for a request. -/

theorem Dev.TransferFrame.cachedLoad (home off n : Nat) : e.cachedLoad home off n = d.cachedLoad home off n := by
  rw [Blocks.cachedLoad, h.inOctet, h.remote, Blocks.cachedLoad]

theorem Dev.TransferFrame.servingReplica (home off n : Nat) : e.servingReplica home off n = d.servingReplica home off n := by
  simp only [Blocks.servingReplica, Blocks.replica?, Blocks.stroke, h.remote, h.flag (standsInAccess_mig (off := Reg.memCtrl) (by decide)),
    h.rd Reg.tbStroke (standsInAccess_mig (by decide)), h.rd Reg.memReplTtl (standsInAccess_mig (by decide))]
  rfl

/-! Tiles that stand: nothing was stored in HBM. -/

theorem Dev.TransferFrame.tileServed (i : Nat) : e.tileServed i = d.tileServed i := by
  have hport : e.vaultOf i = d.vaultOf i := by
    have h0 : (e.mig.ports.getD 0 {}).counted = (d.mig.ports.getD 0 {}).counted := h.counted 0
    have h1 : (e.mig.ports.getD 1 {}).counted = (d.mig.ports.getD 1 {}).counted := h.counted 1
    rw [Blocks.vaultOf, h0, h1, Blocks.vaultOf]
  rw [Blocks.tileServed, hport, Blocks.vaultUp, Blocks.vaultLost, h.flag (.inr ⟨_, rfl⟩), h.flag (.inr ⟨_, rfl⟩), Blocks.tileServed,
    Blocks.vaultUp, Blocks.vaultLost]

variable (hhbm : e.hbm = d.hbm)
include hhbm

theorem Dev.TransferFrame.tdir (i : Nat) : e.tdir i = d.tdir i :=
  Blocks.tdir_congr (h.rd _ (standsInAccess_mig (by decide))) (h.rd _ (standsInAccess_mig (by decide))) hhbm i

theorem Dev.TransferFrame.resident : e.resident = d.resident := funext fun i => by rw [Blocks.resident, h.tdir hhbm, Blocks.resident]

theorem Dev.TransferFrame.awayTiles (a n : Nat) : e.awayTiles a n = d.awayTiles a n := by
  rw [Blocks.awayTiles, h.resident hhbm, Blocks.awayTiles]

end

section
variable {d e : Dev} (h : d.TransferFrame e)
include h

/-- What a part of an access meets goes by its tile, if it has one. -/
theorem Dev.TransferFrame.pieceFault {a n : Nat} (hhbm : partOf a = .tiered → e.hbm = d.hbm) : e.pieceFault a n = d.pieceFault a n := by
  unfold Blocks.pieceFault
  cases hpart : partOf a with
  | tiered =>
    have hstand := hhbm hpart
    have hframe : e.frameOf (tileOf a) = d.frameOf (tileOf a) := by rw [Blocks.frameOf, h.tdir hstand, Blocks.frameOf]
    have hresolve : e.resolve a = d.resolve a := by
      rw [Blocks.resolve, Blocks.resolve, if_pos hpart, if_pos hpart]
      exact congrArg (· * tileBytes + a % tileBytes) hframe
    have hfetching : e.fetching (tileOf a) = d.fetching (tileOf a) := by rw [Blocks.fetching, h.tdir hstand, Blocks.fetching]
    simp only [h.now, h.resident hstand, hresolve, h.failedAt, hfetching, h.tileServed]
  | direct => simp only [h.now]
  | _ => rfl

/-- The check of a core's access: nothing faults that did not. -/
theorem Dev.TransferFrame.coreCheck {a n : Nat} (hhbm : partOf a = .tiered → e.hbm = d.hbm) (hcheck : d.coreCheck a n = none) :
    e.coreCheck a n = none := by
  unfold Blocks.coreCheck Blocks.engineCheck at hcheck ⊢
  split at hcheck
  · next hn => exact if_pos hn
  · next hn =>
    rw [if_neg hn]
    obtain ⟨hrange, hpieces⟩ := Option.or_eq_none_iff.mp hcheck
    refine Option.or_eq_none_iff.mpr ⟨h.checkRange hrange, List.findSome?_eq_none_iff.mpr fun x hx => ?_⟩
    rw [h.pieceFault fun hpart => ?_]
    · exact List.findSome?_eq_none_iff.mp hpieces x hx
    · by_cases htiered : partOf a = .tiered
      · exact hhbm htiered
      · rw [tilePieces, if_neg hn, if_pos htiered, List.mem_singleton] at hx
        rw [hx] at hpart
        exact absurd hpart htiered

end

end Sys2Proof.Machine
end

section
/-! The common path of VLOAD, VSTORE, VSTOREF and VATOM (R72, R93, R127): from the turn of the instruction to its completion or its wait. -/

namespace Sys2Proof.Machine

/-- What holds before the first core and is kept by every core that follows the cores before it, holds after the last. -/
theorem eachCore_induction {g : Prog} {p : Nat} {f : Dev → Nat → Dev} {d : Dev} {P : List Nat → Dev → Prop}
    (hruns : ∀ cs e, P cs e → (e.prog? p).isSome = true) (hstart : P [] d) (hstep : ∀ cs c e, P cs e → P (cs ++ [c]) (f e c)) :
    P g.gang (Safety.eachCore g p f d) := by
  have hrest : ∀ cs done e, P done e → P (done ++ cs) (cs.foldl (fun d c => if (d.prog? p).isNone then d else f d c) e) := by
    intro cs
    induction cs with
    | nil => exact fun done e h => by rwa [List.append_nil]
    | cons c cs ih =>
      intro done e h
      have hgo : ¬ (e.prog? p).isNone = true := by simp [Option.isNone_eq_false_iff.mpr (hruns _ _ h)]
      rw [List.foldl_cons, if_neg hgo, ← List.singleton_append, ← List.append_assoc]
      exact ih _ _ (hstep done c e h)
  exact hrest g.gang [] d hstart

/-- The device on which the cores of the stream make their accesses: corrected words are counted, and what a store with HM = 1 stores has joined
the Hallmark. -/
def Dev.beforeAccess (d : Dev) (p op : Nat) (g : Prog) (v : VecInsn) (ecc : Ecc) : Dev :=
  let d := d.counted p g ecc
  let d := if v.devLen = 0 || partOf v.dev = .remote then d else d.countEcc v.dev ecc.corrHbm
  if v.hm && (op = 0x99 || op = 0x9A) then g.gang.foldl (fun d c => d.hmPart g c g.order (d.locRead c v.src1 v.count)) d else d

/-- The instruction after the accesses of its cores, unless a fault has ended the stream: complete, or in the scoreboard. -/
def Dev.afterAccess (d : Dev) (p : Nat) (g : Prog) (bs : List Byte) (r : Ranges) : Dev :=
  let v := vecOf bs
  if (d.prog? p).isNone then d
  else
    let away := d.awayTiles v.dev v.devLen
    if away.isEmpty && d.settled g.gang g.order then (d.hmLoaded g g.order v).passed p g g.gang
    else d.enter p g .v g.gang
      { slot := .v, pc := g.pc, order := g.order, insn := bs, reads := r.reads, writes := r.writes, devReads := r.devReads,
        devWrites := r.devWrites, pend := if away.isEmpty then .remote else .tiles away }

/-- Device e is device d but for counters and Hallmark parts: no byte moves and no fetch is queued. -/
structure Dev.TallyFrame (d e : Dev) : Prop where
  frame : d.TransferFrame e
  hbm : e.hbm = d.hbm
  loc : e.loc = d.loc
  mig : e.mig = d.mig

theorem Dev.TallyFrame.refl (d : Dev) : d.TallyFrame d := ⟨.refl d, rfl, rfl, rfl⟩

theorem Dev.TallyFrame.trans {d e f : Dev} (h : d.TallyFrame e) (k : e.TallyFrame f) : d.TallyFrame f :=
  ⟨h.frame.trans k.frame, k.hbm.trans h.hbm, k.loc.trans h.loc, k.mig.trans h.mig⟩

theorem Dev.RegFrame.tallyFrame {d e : Dev} (h : d.RegFrame e) (hframe : d.TransferFrame e) : d.TallyFrame e := by
  obtain ⟨_, rfl⟩ := h
  exact ⟨hframe, rfl, rfl, rfl⟩

theorem Dev.tallyFrame_countEvent (d : Dev) (c event ctx n : Nat) : d.TallyFrame (d.countEvent c event ctx n) :=
  (d.regFrame_countEvent c event ctx n).tallyFrame (d.transferFrame_countEvent c event ctx n)

theorem Dev.tallyFrame_countEcc (d : Dev) (a corr : Nat) : d.TallyFrame (d.countEcc a corr) := by
  refine Dev.RegFrame.tallyFrame ?_ (d.transferFrame_countEcc a corr)
  unfold Dev.countEcc
  split
  · exact .refl _
  · exact d.regFrame_wr _ _

theorem Dev.tallyFrame_hmPart (d : Dev) (g : Prog) (c order : Nat) (bs : List Byte) : d.TallyFrame (d.hmPart g c order bs) := by
  have hframe := d.transferFrame_hmPart g c order bs
  obtain ⟨_, heq⟩ := d.hmPart_eq g c order bs
  rw [heq] at hframe ⊢
  exact ⟨hframe, rfl, rfl, rfl⟩

theorem Dev.tallyFrame_foldl {α : Type} (f : Dev → α → Dev) (hf : ∀ (d : Dev) a, d.TallyFrame (f d a)) (xs : List α) (d : Dev) :
    d.TallyFrame (xs.foldl f d) := foldl_keeps d.TallyFrame (fun e a h => h.trans (hf e a)) xs (.refl d)

theorem Dev.tallyFrame_beforeAccess (d : Dev) (p op : Nat) (g : Prog) (v : VecInsn) (ecc : Ecc) : d.TallyFrame (d.beforeAccess p op g v ecc) := by
  have hcounted : d.TallyFrame (d.counted p g ecc) := (d.regFrame_countCorr _ _ _).tallyFrame (d.transferFrame_countCorr _ _ _)
  have hecc := hcounted.trans (Dev.tallyFrame_countEcc _ v.dev ecc.corrHbm)
  have hparts (e : Dev) := Dev.tallyFrame_foldl (fun d c => d.hmPart g c g.order (d.locRead c v.src1 v.count)) (fun d c => d.tallyFrame_hmPart _ _ _ _)
    g.gang e
  unfold Dev.beforeAccess
  dsimp only
  split <;> split
  · exact hcounted.trans (hparts _)
  · exact hecc.trans (hparts _)
  · exact hcounted
  · exact hecc

theorem Dev.tallyFrame_hmLoaded (d : Dev) (g : Prog) (order : Nat) (v : VecInsn) : d.TallyFrame (d.hmLoaded g order v) := by
  unfold Dev.hmLoaded
  split
  · exact .refl d
  · exact Dev.tallyFrame_foldl _ (fun e c => e.tallyFrame_hmPart _ _ _ _) _ d

section
variable {s : State} {p op x : Nat} {ecc : Ecc} {g : Prog} {bs : List Byte} {r : VecRule}

/-- The row at its turn, all checks passed. -/
theorem live_memRow_clear (hturn : Safety.Turn s p op g x bs) (hrule : s.dev.vecRule p (vecOf bs) = r) (hclear : Safety.Clear s p x bs r ecc) :
    s.dev.live (fun d => d.memRow p op ecc) =
      (Safety.eachCore g p (fun d c => d.memAccess c (g.at_ x) (vecOf bs) ecc) (s.dev.beforeAccess p op (g.at_ x) (vecOf bs) ecc)).afterAccess p
        (g.at_ x) bs (s.dev.rangesOf p bs) := by
  obtain ⟨⟨hop, hprog, hissue, hclock⟩, hnext, hbs, hopc, hheld⟩ := hturn
  obtain ⟨hnone, hfree, hbad⟩ := hclear
  have hpc : (g.at_ x).pc = x := rfl
  rw [Dev.live_running _ _ hop, Dev.memRow, Dev.onInsn_run _ hprog hissue hclock hnext hbs hopc hheld (by simp [hbad])]
  simp only [hrule, hnone, hpc, hfree, Bool.false_eq_true, if_false, hbad, Option.filter_none]
  rfl

/-- Every memory row goes this path. -/
theorem exec_memoryRow {c : Instr} {mop : Nat} {rule : VecInsn → VecRule} (h : Safety.memoryRow c = some (p, op, ecc, rule, mop)) (s : State) :
    exec c s = .next (s.onDev (s.dev.live (fun d => d.memRow p op ecc))) := by
  cases c
  case vload | vstore | vstoref | vatom =>
    obtain ⟨rfl, rfl, rfl, -⟩ : _ ∧ _ ∧ _ ∧ _ := by simpa [Safety.memoryRow] using h
    rfl
  all_goals exact absurd h nofun

/-- The rule of the row is the one that its opcode names. -/
theorem vecRule_memoryRow {c : Instr} {mop : Nat} {rule : VecInsn → VecRule} (h : Safety.memoryRow c = some (p, op, ecc, rule, mop))
    (hop : insnOp bs = op) (b : Blocks) : b.vecRule p (vecOf bs) = rule (vecOf bs) := by
  have hop' : (vecOf bs).op = op := hop
  cases c
  case vload | vstore | vstoref | vatom =>
    obtain ⟨-, rfl, -, rfl, -⟩ : _ ∧ _ ∧ _ ∧ _ ∧ _ := by simpa [Safety.memoryRow] using h
    simp only [Blocks.vecRule, hop']
  all_goals exact absurd h nofun

/-! Completion and wait. -/

section
variable (d : Dev) (p x : Nat) (g : Prog)

theorem Dev.rd_passed_stands {off : Nat} (h : StandsInAccess off) : (d.passed p (g.at_ x) g.gang).rd off = d.rd off := by
  have hne (c : Nat) : off ≠ Reg.coreCntTdRetired c := by
    rcases h with ⟨hlt, -⟩ | ⟨n, rfl⟩ <;> simp only [Reg.coreCntTdRetired, Reg.vltPortStatus] <;> omega
  rw [Dev.passed_eq, Dev.rd_retire_other _ _ fun c _ => hne c, Dev.rd_useSlots _ _ _ _ fun c _ => (h.not_coreCounter c).2.1]
  rfl

end

/-- The instruction at x of core p's program g has completed, and the device is what its accesses have left (device e), but for counters, slots
and Hallmark parts. -/
structure AccessDone (s t : State) (e : Dev) (p : Nat) (g : Prog) (x : Nat) : Prop where
  prog : t.dev.prog? p = some (Safety.pastV g x)
  others : Safety.SameOthers s t
  hbm : t.dev.hbm = e.hbm
  loc : t.dev.loc = e.loc
  mig : t.dev.mig = e.mig
  vault : t.dev.vault = s.dev.vault
  hostMem : t.dev.hostMem = s.dev.hostMem
  ilv : t.dev.ilv = s.dev.ilv

theorem gives_accessDone {c : Instr} {e : Dev} {ranges : Ranges}
    (hexec : exec c s = .next (s.onDev (e.afterAccess p (g.at_ x) bs ranges))) (hprog : s.dev.prog? p = some g) (hframe : s.dev.TransferFrame e)
    (haway : e.awayTiles (vecOf bs).dev (vecOf bs).devLen = []) (hsettled : s.dev.settled g.gang (g.at_ x).order = true) :
    Safety.Gives c s (fun t => AccessDone s t e p g x) := by
  have hruns : e.prog? p = some g := (hframe.prog p).trans hprog
  have hquiet : e.settled (g.at_ x).gang (g.at_ x).order = true := (hframe.settled _ _).trans hsettled
  have hafter : e.afterAccess p (g.at_ x) bs ranges = (e.hmLoaded (g.at_ x) (g.at_ x).order (vecOf bs)).passed p (g.at_ x) g.gang := by
    unfold Dev.afterAccess
    simp only [hruns, haway, hquiet, Option.isNone_some, Bool.false_eq_true, if_false, List.isEmpty_nil, Bool.and_self, if_true]
    rfl
  have htally := e.tallyFrame_hmLoaded (g.at_ x) (g.at_ x).order (vecOf bs)
  generalize e.hmLoaded (g.at_ x) (g.at_ x).order (vecOf bs) = loaded at hafter htally
  have hpast := Dev.prog_passed x ((htally.frame.prog p).trans hruns)
  have hctrl := loaded.rd_passed_stands p x g (standsInAccess_mig (off := Reg.migCtrl) (by decide))
  have hilv : (loaded.passed p (g.at_ x) g.gang).ilv = loaded.ilv := by rw [Blocks.ilv, Blocks.flag, hctrl, Blocks.ilv, Blocks.flag]
  obtain ⟨_, _, hpassed⟩ := loaded.passed_eq_regs_cores p g x
  have htotal := hframe.trans htally.frame
  obtain ⟨hvault, hhost, -⟩ := htotal.outer
  have hothers : Safety.SameOthers s (s.onDev loaded) := by
    obtain ⟨_, _, _, _, _, _, rfl⟩ := htotal.eq
    exact ⟨rfl, rfl, rfl, rfl, rfl, rfl, rfl, rfl, rfl, rfl, rfl, rfl⟩
  refine ⟨_, hafter ▸ hexec, hpast, ?_, ?_, ?_, ?_, ?_, ?_, hilv.trans htotal.ilv⟩ <;> rw [hpassed]
  · exact hothers
  · exact htally.hbm
  · exact htally.loc
  · exact htally.mig
  · exact hvault
  · exact hhost

end

end Sys2Proof.Machine
end

section
/-! A range cut at the boundaries of a size (R127, R231). -/

namespace Sys2Proof.Machine

theorem cutAt_zero (size a k fuel : Nat) : cutAt size a k 0 fuel = [] := by rw [cutAt]

theorem cutAt_succ {size a k left fuel : Nat} (h : 0 < left) : cutAt size a k left (fuel + 1) =
    (k, min left (size - (a + k) % size)) ::
      cutAt size a (k + min left (size - (a + k) % size)) (left - min left (size - (a + k) % size)) fuel := by
  rw [cutAt]
  exact h.ne'

section
variable {size : Nat} (hsize : 0 < size)
include hsize

/-- A piece that does not end the range ends at a boundary. -/
theorem cut_boundary (b : Nat) : (b + (size - b % size)) % size = 0 := by
  have hlt := Nat.mod_lt b hsize
  have hsum : b + (size - b % size) = size * (b / size + 1) := by
    have := Nat.div_add_mod b size
    rw [Nat.mul_add, Nat.mul_one]
    omega
  rw [hsum, Nat.mul_mod_right]

/-- What holds at an offset and is carried over every piece of the range holds at its end. -/
theorem cutAt_induction {β : Type} {a total : Nat} {f : β → Nat × Nat → β} {P : Nat → β → Prop}
    (hstep : ∀ k n b, 0 < n → k + n ≤ total → P k b → P (k + n) (f b (k, n))) (fuel k left : Nat) (b : β) (htotal : k + left = total)
    (hfuel : left = 0 ∨ left + (a + k) % size ≤ fuel * size) (h : P k b) : P total ((cutAt size a k left fuel).foldl f b) := by
  induction fuel generalizing k left b with
  | zero =>
    obtain rfl : left = 0 := by omega
    obtain rfl : k = total := htotal
    rwa [cutAt_zero]
  | succ fuel ih =>
    rcases Nat.eq_zero_or_pos left with rfl | hpos
    · obtain rfl : k = total := htotal
      rwa [cutAt_zero]
    · have hlt := Nat.mod_lt (a + k) hsize
      have hroom : left + (a + k) % size ≤ fuel * size + size := by
        rw [← Nat.succ_mul]
        exact hfuel.resolve_left hpos.ne'
      rw [cutAt_succ hpos, List.foldl_cons]
      refine ih _ _ _ (by omega) ?_ (hstep k _ b (by omega) (by omega) h)
      by_cases hlast : left ≤ size - (a + k) % size
      · exact .inl (by omega)
      · right
        rw [Nat.min_eq_right (by omega), ← Nat.add_assoc, cut_boundary hsize]
        omega

/-- The number of pieces that the callers allow for is enough. -/
theorem cut_room (a n : Nat) : n = 0 ∨ n + (a + 0) % size ≤ (n / size + 2) * size := by
  right
  have hlt := Nat.mod_lt (a + 0) hsize
  have hdiv := Nat.lt_div_mul_add (a := n) hsize
  rw [Nat.add_mul]
  omega

theorem cutAt_foldl {β : Type} {a n : Nat} {f : β → Nat × Nat → β} {P : Nat → β → Prop}
    (hstep : ∀ k m b, 0 < m → k + m ≤ n → P k b → P (k + m) (f b (k, m))) {b : β} (h : P 0 b) :
    P n ((cutAt size a 0 n (n / size + 2)).foldl f b) :=
  cutAt_induction hsize hstep _ 0 n b (Nat.zero_add n) (cut_room hsize a n) h

/-- Every offset lies in a piece. -/
theorem cutAt_covers {a n i : Nat} (hi : i < n) : ∃ pn ∈ cutAt size a 0 n (n / size + 2), pn.1 ≤ i ∧ i < pn.1 + pn.2 := by
  have hseen := cutAt_foldl hsize (a := a) (n := n) (f := fun seen pn => seen ++ [pn])
    (P := fun k seen => i < k → ∃ pn ∈ seen, pn.1 ≤ i ∧ i < pn.1 + pn.2) (b := [])
    (fun k m seen _ _ ih hlt => by
      by_cases hbefore : i < k
      · obtain ⟨pn, hpn, hin⟩ := ih hbefore
        exact ⟨pn, List.mem_append_left _ hpn, hin⟩
      · exact ⟨(k, m), by simp, by omega, hlt⟩) (fun h0 => absurd h0 (Nat.not_lt_zero i))
  rw [List.foldl_append_eq_append] at hseen
  simpa using hseen hi

end

/-- A range that crosses no boundary is one piece. -/
theorem cutAt_single {size a n fuel : Nat} (hn : 0 < n) (hfits : n ≤ size - a % size) : cutAt size a 0 n (fuel + 1) = [(0, n)] := by
  have hmin : min n (size - (a + 0) % size) = n := Nat.min_eq_left hfits
  rw [cutAt_succ hn, hmin, Nat.sub_self, cutAt]

end Sys2Proof.Machine
end

section
/-! An access of a core to the direct part outside the MEM_EXPORT window (R127, R129): its pieces move at once, whatever the tiles. -/

namespace Sys2Proof.Machine

/-! Bytes in a row. -/

theorem Blocks.dirRead_append (b : Blocks) (a m n : Nat) : b.dirRead a (m + n) = b.dirRead a m ++ b.dirRead (a + m) n := by
  simp only [Blocks.dirRead, List.range_add, List.map_append, List.map_map, Function.comp_def, Nat.add_assoc]

theorem Blocks.length_dirRead (b : Blocks) (a n : Nat) : (b.dirRead a n).length = n := by rw [Blocks.dirRead, List.length_map, List.length_range]

theorem memWrite_append (m : Mem) (a : Nat) (xs ys : List Byte) : memWrite m a (xs ++ ys) = memWrite (memWrite m a xs) (a + xs.length) ys := by
  induction xs generalizing m a with
  | nil => rfl
  | cons x xs ih =>
    rw [List.cons_append, memWrite, ih, memWrite, List.length_cons, Nat.add_assoc, Nat.add_comm 1]

theorem Dev.dirWrite_append (d : Dev) (a : Nat) (xs ys : List Byte) : d.dirWrite a (xs ++ ys) = (d.dirWrite a xs).dirWrite (a + xs.length) ys := by
  induction xs generalizing d a with
  | nil => rfl
  | cons x xs ih =>
    rw [List.cons_append, Dev.dirWrite, ih, Dev.dirWrite, List.length_cons, Nat.add_assoc, Nat.add_comm 1]

/-- What HBM holds after a store goes by what it held and by the interleave. -/
theorem Dev.dirWrite_hbm_congr {d e : Dev} (hilv : e.ilv = d.ilv) (hhbm : e.hbm = d.hbm) (a : Nat) (bs : List Byte) :
    (e.dirWrite a bs).hbm = (d.dirWrite a bs).hbm := by
  induction bs generalizing d e a with
  | nil => exact hhbm
  | cons b bs ih =>
    rw [Dev.dirWrite, Dev.dirWrite]
    refine ih ?_ ?_ (a + 1)
    · exact hilv
    · rw [hilv, hhbm]

/-! The common part. -/

/-- The bytes that a core's access moves count as events on the core (Table 14.4). -/
def Dev.accessCounted (d : Dev) (c : Nat) (g : Prog) (v : VecInsn) : Dev :=
  d.countEvent c (if v.op = 0x98 then 0xD else if v.op = 0x96 then 0 else 0xE) g.ctx v.devLen

theorem Dev.tallyFrame_accessCounted (d : Dev) (c : Nat) (g : Prog) (v : VecInsn) : d.TallyFrame (d.accessCounted c g v) :=
  d.tallyFrame_countEvent _ _ _ _

section
variable {d : Dev} {v : VecInsn} {ecc : Ecc} (hpos : 0 < v.devLen) (hcheck : d.coreCheck v.dev v.devLen = none) (hgood : ecc.badHbm = none) (c : Nat)
  (g : Prog)
include hpos hcheck hgood

/-- A remote access that passes its check. -/
theorem Dev.memAccess_remote (hpart : partOf v.dev = .remote) : d.memAccess c g v ecc =
    if v.op = 0x96 then (d.accessCounted c g v).remoteAtom c g v else (d.accessCounted c g v).remoteAccess c g v := by
  have herror : d.hbmError v.dev v.devLen ecc = none := by simp only [Blocks.hbmError, hgood, Option.filter_none, ite_self]
  unfold Dev.memAccess
  dsimp only
  rw [if_neg hpos.ne', hcheck, herror]
  exact if_pos hpart

/-- A direct or tiered access that passes its check, outside the MEM_EXPORT window. -/
theorem Dev.memAccess_near (hpart : partOf v.dev ≠ .remote) (hapart : overlaps v.dev v.devLen (d.rd Reg.memExportBase) d.exportBytes = false) :
    d.memAccess c g v ecc = (d.accessCounted c g v).tierAccess c g.order v v.devLen := by
  have herror : d.hbmError v.dev v.devLen ecc = none := by simp only [Blocks.hbmError, hgood, Option.filter_none, ite_self]
  have hshared : (d.accessCounted c g v).sharedLines v.dev v.devLen = [] := (d.tallyFrame_accessCounted c g v).frame.sharedLines hapart
  unfold Dev.memAccess
  dsimp only
  rw [if_neg hpos.ne', hcheck, herror]
  dsimp only
  rw [if_neg hpart]
  refine if_neg ?_
  show ¬ (_ && !((d.accessCounted c g v).sharedLines v.dev v.devLen).isEmpty) = true
  rw [hshared]
  simp

end

/-! Pieces in the direct part. -/

theorem tileBytes_pos : 0 < tileBytes := by decide

/-- A core has read the first k bytes of a direct range into its memory. -/
structure Dev.LoadedFrom (d e : Dev) (c a dst k : Nat) : Prop where
  frame : d.TransferFrame e
  hbm : e.hbm = d.hbm
  mig : e.mig = d.mig
  loc : e.loc = memWrite d.loc (c * 2 ^ 22 + dst) (d.dirRead a k)

theorem Dev.LoadedFrom.next {d e : Dev} {c a dst k n : Nat} (h : d.LoadedFrom e c a dst k) (hfits : a + k + n ≤ directSize) (hn : 0 < n) :
    d.LoadedFrom (e.loadPiece c (a + k) n (dst + k)) c a dst (k + n) := by
  have hbytes : e.devRead (a + k) n = d.dirRead (a + k) n := by rw [e.devRead_direct hfits, Blocks.dirRead_congr h.frame.ilv h.hbm]
  have hcount := e.directFrame_countHbm (a + k) n false (some (quadOf c))
  have htake : e.loadPiece c (a + k) n (dst + k) =
      (e.countHbm (a + k) n false (some (quadOf c))).locWrite c (dst + k) (d.dirRead (a + k) n) := by
    rw [Dev.loadPiece, hbytes, Dev.devTake, e.touch_direct n false (by omega)]
  have hframe := (h.frame.trans hcount.transferFrame).trans (Dev.transferFrame_locWrite _ c (dst + k) (d.dirRead (a + k) n))
  obtain ⟨-, -, -, -, -, hloc, -, -⟩ := hcount.1.blocks
  rw [htake]
  refine ⟨hframe, (Dev.countHbm_hbm _ _ _ _ _).trans h.hbm, hcount.1.mig.trans h.mig, ?_⟩
  show memWrite (e.countHbm (a + k) n false _).loc _ _ = _
  rw [hloc, h.loc, d.dirRead_append, memWrite_append, d.length_dirRead, Nat.add_assoc]

/-- The first k bytes of a core's range stand in a direct range. -/
structure Dev.StoredTo (d e : Dev) (c a src k : Nat) : Prop where
  frame : d.TransferFrame e
  loc : e.loc = d.loc
  mig : e.mig = d.mig
  hbm : e.hbm = (d.dirWrite a (d.locRead c src k)).hbm

/-- A store of a core outside the MEM_EXPORT window. -/
theorem Dev.coreStore_direct (d : Dev) (owner : Nat × Nat) {a : Nat} {bs : List Byte} (quad : Option Nat) (hlt : a < directSize)
    (hfits : a + bs.length ≤ directSize) (hapart : overlaps a bs.length (d.rd Reg.memExportBase) d.exportBytes = false) :
    d.coreStore owner a bs quad = (d.dirWrite a bs).countHbm a bs.length true quad := by
  rw [Dev.coreStore, d.sharedLines_apart hapart, if_pos List.isEmpty_nil, Dev.devStore, d.windowUnits_apart 65536 hapart, List.foldl_nil,
    Dev.devWrite, d.devPut_direct a bs hfits, Dev.touch_direct _ _ _ hlt]

theorem Dev.directFrame_store (d : Dev) (a : Nat) (bs : List Byte) (quad : Option Nat) :
    d.DirectFrame ((d.dirWrite a bs).countHbm a bs.length true quad) :=
  Dev.DirectFrame.trans ⟨d.hbmFrame_dirWrite a bs, fun off _ => d.rd_dirWrite a bs off⟩ (Dev.directFrame_countHbm _ _ _ _ _)

theorem overlaps_part {a n k m b l : Nat} (h : overlaps a n b l = false) (hm : k + m ≤ n) : overlaps (a + k) m b l = false := by
  simp only [overlaps, Bool.and_eq_false_iff, decide_eq_false_iff_not] at h ⊢
  omega

theorem Dev.StoredTo.next {d e : Dev} {c a src k n total : Nat} (order : Nat) (h : d.StoredTo e c a src k) (hfits : a + total ≤ directSize)
    (hn : 0 < n) (hk : k + n ≤ total) (hapart : overlaps a total (d.rd Reg.memExportBase) d.exportBytes = false) :
    d.StoredTo (e.storePieceOf c order (a + k) n (src + k)) c a src (k + n) := by
  have hbytes : e.locRead c (src + k) n = d.locRead c (src + k) n := by rw [Blocks.locRead, h.loc, Blocks.locRead]
  obtain ⟨hbase, hwindow⟩ := h.frame.exportWindow
  have hlength := d.length_locRead c (src + k) n
  have hstore : e.storePieceOf c order (a + k) n (src + k) =
      (e.dirWrite (a + k) (d.locRead c (src + k) n)).countHbm (a + k) (d.locRead c (src + k) n).length true (some (quadOf c)) := by
    rw [Dev.storePieceOf, hbytes, e.coreStore_direct _ _ (by omega) (by rw [hlength]; omega)
      (by rw [hlength, hbase, hwindow]; exact overlaps_part hapart hk)]
  have hframe := e.directFrame_store (a + k) (d.locRead c (src + k) n) (some (quadOf c))
  obtain ⟨-, -, -, -, -, hloc, -, -⟩ := hframe.1.blocks
  rw [hstore]
  refine ⟨h.frame.trans hframe.transferFrame, hloc.trans h.loc, hframe.1.mig.trans h.mig, ?_⟩
  rw [Dev.countHbm_hbm, d.locRead_append, Dev.dirWrite_append, d.length_locRead]
  exact Dev.dirWrite_hbm_congr (h.frame.ilv.trans (d.ilv_dirWrite _ _).symm) h.hbm _ _

/-! Whole accesses in the direct part. -/

section
variable (d : Dev) (c order : Nat) (v : VecInsn)

/-- Every piece of a direct access is here. -/
theorem Dev.tierAccess_direct (n : Nat) (hlt : v.dev < directSize) : d.tierAccess c order v n = d.servePieces c order v (fun _ => true) := by
  have haway : d.awayTiles v.dev n = [] := by
    rw [Blocks.awayTiles, partOf_direct.mpr hlt]
    exact if_pos (by simp)
  rw [Dev.tierAccess, haway]
  rfl

theorem Dev.loadedFrom_servePieces (hop : v.op = 0x98) (hfits : v.dev + v.count ≤ directSize) :
    d.LoadedFrom (d.servePieces c order v (fun _ => true)) c v.dev v.dst v.count := by
  unfold Dev.servePieces
  simp only [hop, show ¬ (0x98 = 0x96) by decide, if_false, if_true, Bool.not_true, Bool.false_eq_true]
  exact cutAt_foldl tileBytes_pos (P := fun k e => d.LoadedFrom e c v.dev v.dst k) (fun k m e hm hk h => h.next (by omega) hm)
    ⟨.refl d, rfl, rfl, rfl⟩

theorem Dev.storedTo_servePieces (hop : v.op = 0x99 ∨ v.op = 0x9A) (hfits : v.dev + v.count ≤ directSize)
    (hapart : overlaps v.dev v.count (d.rd Reg.memExportBase) d.exportBytes = false) :
    d.StoredTo (d.servePieces c order v (fun _ => true)) c v.dev v.src1 v.count := by
  have hstep := cutAt_foldl tileBytes_pos (a := v.dev) (n := v.count) (f := fun d pn => d.storePieceOf c order (v.dev + pn.1) pn.2 (v.src1 + pn.1))
    (P := fun k e => d.StoredTo e c v.dev v.src1 k) (fun k m e hm hk h => h.next order hfits hm hk hapart) (b := d) ⟨.refl d, rfl, rfl, rfl⟩
  unfold Dev.servePieces
  rcases hop with hop | hop
  all_goals
    simp only [hop, Nat.reduceEqDiff, if_false, Bool.not_true, Bool.false_eq_true]
    exact hstep

end

end Sys2Proof.Machine
end

section
/-! VLOAD, VSTORE, VSTOREF and VATOM in the direct part (R127, R129, R149): what every core of the stream has moved, one after the other. -/

namespace Sys2Proof.Machine

/-! The same bytes on several cores. -/

/-- Bytes written at one local address of every core of a list. -/
def writeEach (m : Mem) (a : Nat) (bs : List Byte) (cs : List Nat) : Mem := cs.foldl (fun m c => memWrite m (c * 2 ^ 22 + a) bs) m

theorem writeEach_append (m : Mem) (a : Nat) (bs : List Byte) (cs : List Nat) (c : Nat) :
    writeEach m a bs (cs ++ [c]) = memWrite (writeEach m a bs cs) (c * 2 ^ 22 + a) bs := by
  rw [writeEach, List.foldl_append]
  rfl

theorem memByte_writeEach (m : Mem) (a : Nat) (bs : List Byte) (cs : List Nat) {y : Nat} (h : ∀ c ∈ cs, Outside c a bs.length y) :
    memByte (writeEach m a bs cs) y = memByte m y :=
  foldl_keeps_mem (fun e => memByte e y = memByte m y) cs (fun e c hc he => (memByte_memWrite_apart e c a y (h c hc)).trans he) rfl

theorem memRead_writeEach (m : Mem) (a : Nat) (bs : List Byte) {cs : List Nat} {q : Nat} (hq : q ∈ cs) (hfits : a + bs.length ≤ 2 ^ 22) :
    memRead (writeEach m a bs cs) (q * 2 ^ 22 + a) bs.length = bs := by
  induction cs generalizing m with
  | nil => exact absurd hq List.not_mem_nil
  | cons c cs ih =>
    by_cases hrest : q ∈ cs
    · exact ih _ hrest
    · obtain rfl : q = c := (List.mem_cons.mp hq).resolve_right hrest
      refine (List.map_congr_left fun i hi => ?_).trans (memRead_memWrite m (q * 2 ^ 22 + a) bs)
      have hlt := List.mem_range.mp hi
      refine memByte_writeEach _ a bs cs fun c hc => ?_
      rw [Nat.add_assoc]
      exact outside_of_ne (fun heq => hrest (heq ▸ hc)) hfits (by omega)

/-! One core. -/

section
variable {s : State} {p op x : Nat} {ecc : Ecc} {g : Prog} {bs : List Byte} {r : VecRule}

theorem private_fits (hclear : Safety.MemoryClear s p x bs r ecc) (hpart : partOf (vecOf bs).dev = .direct) :
    (vecOf bs).dev + (vecOf bs).devLen ≤ directSize := by
  obtain ⟨-, hpos, hcheck, -⟩ := hclear
  rw [Blocks.coreCheck, if_neg hpos.ne'] at hcheck
  exact Blocks.direct_fits hpos hpart (Option.or_eq_none_iff.mp hcheck).1

/-- A core's access after those of the cores before it. -/
theorem memAccess_private (hclear : Safety.MemoryClear s p x bs r ecc) (hprivate : Safety.Private s (vecOf bs)) {e : Dev}
    (hframe : s.dev.TransferFrame e) (c : Nat) (g : Prog) :
    e.memAccess c g (vecOf bs) ecc = (e.accessCounted c g (vecOf bs)).servePieces c g.order (vecOf bs) (fun _ => true) := by
  have hfits := private_fits hclear hprivate.1
  obtain ⟨-, hpos, hcheck, hgood⟩ := hclear
  obtain ⟨hpart, hapart⟩ := hprivate
  obtain ⟨hbase, hbytes⟩ := hframe.exportWindow
  have hnear : partOf (vecOf bs).dev ≠ .remote := by rw [hpart]; decide
  have hcheck' := hframe.coreCheck (fun htiered => absurd (hpart.symm.trans htiered) (by decide)) hcheck
  rw [Dev.memAccess_near hpos hcheck' hgood c g hnear (by rw [hbase, hbytes, hapart]),
    Dev.tierAccess_direct _ _ _ _ _ (by omega)]

theorem awayTiles_direct (b : Blocks) {a : Nat} (n : Nat) (h : partOf a = .direct) : b.awayTiles a n = [] := by
  rw [Blocks.awayTiles, h]
  exact if_pos (by simp)

/-! VLOAD. -/

/-- Every core of a list has the bytes of the device range at DST. -/
structure LoadedCores (s : State) (v : VecInsn) (cs : List Nat) (e : Dev) : Prop where
  frame : s.dev.TransferFrame e
  hbm : e.hbm = s.dev.hbm
  mig : e.mig = s.dev.mig
  loc : e.loc = writeEach s.dev.loc v.dst (s.dev.dirRead v.dev v.count) cs

theorem vload_direct (hturn : Safety.Turn s p 0x98 g x bs) (hclear : Safety.MemoryClear s p x bs (loadRule (vecOf bs)) ecc)
    (hprivate : Safety.Private s (vecOf bs)) (hsettled : s.dev.settled g.gang (g.at_ x).order = true) : Safety.Gives (.vload p ecc) s (fun t =>
      (∀ q ∈ g.gang, t.dev.locRead q (vecOf bs).dst (vecOf bs).count = s.dev.devRead (vecOf bs).dev (vecOf bs).count) ∧
      Safety.LocalBut s t g.gang (vecOf bs).dst (fun _ => (vecOf bs).count) ∧ Safety.SameOuter s t ∧
      t.dev.prog? p = some (Safety.pastV g x) ∧ Safety.SameOthers s t ∧ t.dev.mig = s.dev.mig) := by
  have hop : (vecOf bs).op = 0x98 := hturn.2.2.2.1
  have hprog : s.dev.prog? p = some g := hturn.1.2.1
  have hlen : (vecOf bs).devLen = (vecOf bs).count := by rw [VecInsn.devLen, hop]; rfl
  have hfits : (vecOf bs).dev + (vecOf bs).count ≤ directSize := hlen ▸ private_fits hclear hprivate.1
  have hstart := s.dev.tallyFrame_beforeAccess p 0x98 (g.at_ x) (vecOf bs) ecc
  have hcores := eachCore_induction (g := g) (p := p) (P := LoadedCores s (vecOf bs))
    (f := fun d c => d.memAccess c (g.at_ x) (vecOf bs) ecc) (fun cs e h => by rw [h.frame.prog, hprog]; rfl)
    ⟨hstart.frame, hstart.hbm, hstart.mig, hstart.loc⟩ fun cs c e h => by
      have hcount := e.tallyFrame_accessCounted c (g.at_ x) (vecOf bs)
      have hload := (e.accessCounted c (g.at_ x) (vecOf bs)).loadedFrom_servePieces c (g.at_ x).order (vecOf bs) hop hfits
      have hframe := h.frame.trans hcount.frame
      have hbytes := Blocks.dirRead_congr hframe.ilv (hcount.hbm.trans h.hbm) (vecOf bs).dev (vecOf bs).count
      rw [memAccess_private hclear hprivate h.frame]
      refine ⟨hframe.trans hload.frame, (hload.hbm.trans hcount.hbm).trans h.hbm, (hload.mig.trans hcount.mig).trans h.mig, ?_⟩
      rw [hload.loc, writeEach_append, ← h.loc]
      exact congrArg₂ (memWrite · ((c * 2 ^ 22) + (vecOf bs).dst) ·) hcount.loc hbytes
  have hexec : exec (.vload p ecc) s = _ := congrArg (fun d => Host.Outcome.next (s.onDev d))
    (live_memRow_clear hturn (vecRule_memoryRow (c := .vload p ecc) rfl hop s.dev.toBlocks) hclear.1)
  obtain ⟨t, hnext, h⟩ := gives_accessDone hexec hprog hcores.frame (awayTiles_direct _ _ hprivate.1) hsettled
  have hspan := VecInsn.span_fits hclear.1.1 (x := Span.w (vecOf bs).dst (vecOf bs).count 1) List.mem_cons_self
  have hspan' : (vecOf bs).count = 0 ∨ (vecOf bs).dst + (vecOf bs).count ≤ 0x240000 := hspan
  have hpos : 0 < (vecOf bs).count := hlen ▸ hclear.2.1
  have hlength := s.dev.length_dirRead (vecOf bs).dev (vecOf bs).count
  refine ⟨t, hnext, fun q hq => ?_, fun y hy => ?_, fun a => ?_, h.prog, h.others, h.mig.trans hcores.mig⟩
  · have hread := memRead_writeEach s.dev.loc (vecOf bs).dst (s.dev.dirRead (vecOf bs).dev (vecOf bs).count) hq (by omega)
    rw [hlength] at hread
    rw [Blocks.locRead, h.loc, hcores.loc, hread, s.dev.devRead_direct hfits]
  · rw [h.loc, hcores.loc]
    exact memByte_writeEach _ _ _ _ fun c hc => by rw [hlength]; exact hy c hc
  · rw [h.hbm, hcores.hbm, h.vault, h.hostMem]
    exact ⟨rfl, rfl, rfl⟩

/-! VSTORE and VSTOREF. -/

/-- The cores of a list have stored their bytes, one after the other: those of the last one stand. -/
structure StoredCores (s : State) (v : VecInsn) (cs : List Nat) (e : Dev) : Prop where
  frame : s.dev.TransferFrame e
  loc : e.loc = s.dev.loc
  mig : e.mig = s.dev.mig
  apart : ∀ y, (∀ i, i < v.count → y ≠ hbmKey s.dev.ilv (v.dev + i)) → memByte e.hbm y = memByte s.dev.hbm y
  last : ∀ q, cs.getLast? = some q → e.dirRead v.dev v.count = s.dev.locRead q v.src1 v.count

theorem StoredCores.next {v : VecInsn} {cs : List Nat} {e f : Dev} {c : Nat} (h : StoredCores s v cs e) (hstore : e.StoredTo f c v.dev v.src1 v.count)
    (hfits : v.dev + v.count ≤ directSize) : StoredCores s v (cs ++ [c]) f := by
  have hilv := h.frame.ilv
  have hbytes : e.locRead c v.src1 v.count = s.dev.locRead c v.src1 v.count := by rw [Blocks.locRead, h.loc, Blocks.locRead]
  have hlength := s.dev.length_locRead c v.src1 v.count
  have hhbm : f.hbm = (e.dirWrite v.dev (s.dev.locRead c v.src1 v.count)).hbm := by rw [hstore.hbm, hbytes]
  refine ⟨h.frame.trans hstore.frame, hstore.loc.trans h.loc, hstore.mig.trans h.mig, fun y hy => ?_, fun q hq => ?_⟩
  · rw [hhbm, Dev.memByte_dirWrite_apart _ _ _ _ fun i hi => hilv ▸ hy i (hlength ▸ hi), h.apart y hy]
  · obtain rfl : c = q := by simpa using hq
    have hread := e.dirRead_dirWrite_same v.dev (s.dev.locRead c v.src1 v.count) (by rwa [hlength])
    rw [hlength] at hread
    rw [Blocks.dirRead_congr (hstore.frame.ilv.trans (e.ilv_dirWrite _ _).symm) hhbm, hread]

theorem vstore_direct {c : Instr} {mop q : Nat} {rule : VecInsn → VecRule} (hrow : Safety.memoryRow c = some (p, op, ecc, rule, mop))
    (hstores : op = 0x99 ∨ op = 0x9A) (hturn : Safety.Turn s p op g x bs) (hclear : Safety.MemoryClear s p x bs (rule (vecOf bs)) ecc)
    (hprivate : Safety.Private s (vecOf bs)) (hsettled : s.dev.settled g.gang (g.at_ x).order = true) (hlast : g.gang.getLast? = some q) :
    Safety.Gives c s (fun t =>
      t.dev.devRead (vecOf bs).dev (vecOf bs).count = s.dev.locRead q (vecOf bs).src1 (vecOf bs).count ∧ t.dev.loc = s.dev.loc ∧
      t.dev.vault = s.dev.vault ∧ t.dev.hostMem = s.dev.hostMem ∧
      (∀ y, (∀ i, i < (vecOf bs).count → y ≠ hbmKey s.dev.ilv ((vecOf bs).dev + i)) → memByte t.dev.hbm y = memByte s.dev.hbm y) ∧
      t.dev.prog? p = some (Safety.pastV g x) ∧ Safety.SameOthers s t ∧ t.dev.mig = s.dev.mig) := by
  have hop : (vecOf bs).op = op := hturn.2.2.2.1
  have hprog : s.dev.prog? p = some g := hturn.1.2.1
  have hlen : (vecOf bs).devLen = (vecOf bs).count := by
    rw [VecInsn.devLen, hop, if_neg (by omega)]
  have hfits : (vecOf bs).dev + (vecOf bs).count ≤ directSize := hlen ▸ private_fits hclear hprivate.1
  have hapart := hprivate.2
  rw [hlen] at hapart
  have hstart := s.dev.tallyFrame_beforeAccess p op (g.at_ x) (vecOf bs) ecc
  have hcores := eachCore_induction (g := g) (p := p) (P := StoredCores s (vecOf bs))
    (f := fun d c => d.memAccess c (g.at_ x) (vecOf bs) ecc) (fun cs e h => by rw [h.frame.prog, hprog]; rfl)
    ⟨hstart.frame, hstart.loc, hstart.mig, fun y _ => by rw [hstart.hbm], nofun⟩ fun cs c e h => by
      have hcount := e.tallyFrame_accessCounted c (g.at_ x) (vecOf bs)
      have hframe := h.frame.trans hcount.frame
      obtain ⟨hbase, hbytes⟩ := hframe.exportWindow
      have hcounted : StoredCores s (vecOf bs) cs (e.accessCounted c (g.at_ x) (vecOf bs)) :=
        ⟨hframe, hcount.loc.trans h.loc, hcount.mig.trans h.mig, fun y hy => by rw [hcount.hbm, h.apart y hy],
          fun q hq => by rw [Blocks.dirRead_congr hcount.frame.ilv hcount.hbm, h.last q hq]⟩
      rw [memAccess_private hclear hprivate h.frame]
      exact hcounted.next (Dev.storedTo_servePieces _ c (g.at_ x).order (vecOf bs) (by omega) hfits (by rw [hbase, hbytes, hapart])) hfits
  have hexec := (exec_memoryRow hrow s).trans (congrArg (fun d => Host.Outcome.next (s.onDev d))
    (live_memRow_clear hturn (vecRule_memoryRow hrow hop s.dev.toBlocks) hclear.1))
  obtain ⟨t, hnext, h⟩ := gives_accessDone hexec hprog hcores.frame (awayTiles_direct _ _ hprivate.1) hsettled
  refine ⟨t, hnext, ?_, h.loc.trans hcores.loc, h.vault, h.hostMem, fun y hy => by rw [h.hbm, hcores.apart y hy], h.prog, h.others,
    h.mig.trans hcores.mig⟩
  rw [t.dev.devRead_direct hfits, Blocks.dirRead_congr (h.ilv.trans hcores.frame.ilv.symm) h.hbm, hcores.last q hlast]

end

/-! VATOM. -/

/-- What an atomic stores is a word of its width (Table 9.7). -/
theorem atomicNew_lt {op w operand swap old y : Nat} (hoperand : operand < 2 ^ w) (hswap : swap < 2 ^ w) (hold : old < 2 ^ w)
    (h : atomicNew op w operand swap old = some y) : y < 2 ^ w := by
  unfold atomicNew at h
  split at h
  · exact Option.some.inj h ▸ Nat.mod_lt _ (Nat.two_pow_pos w)
  · exact Option.some.inj h ▸ hoperand
  · split at h
    · exact Option.some.inj h ▸ hswap
    · exact absurd h nofun
  · exact Option.some.inj h ▸ Nat.and_lt_two_pow _ hoperand
  · exact Option.some.inj h ▸ Nat.or_lt_two_pow hold hoperand
  · rw [← Option.some.inj h]
    split <;> assumption
  · rw [← Option.some.inj h]
    split <;> assumption
  · exact absurd h nofun

theorem Blocks.locNat_lt (b : Blocks) (c a n : Nat) : b.locNat c a n < 2 ^ (8 * n) := by
  have h := leNat_lt (b.locRead c a n)
  rwa [b.length_locRead, show (256 : Nat) = 2 ^ 8 from rfl, ← Nat.pow_mul] at h

theorem Blocks.dirNat_lt (b : Blocks) (a n : Nat) : b.dirNat a n < 2 ^ (8 * n) := by
  have h := leNat_lt (b.dirRead a n)
  rwa [b.length_dirRead, show (256 : Nat) = 2 ^ 8 from rfl, ← Nat.pow_mul] at h

/-- The old value and the value that an atomic of a core stores at a direct address, if any. -/
def Blocks.atomNew (b : Blocks) (c : Nat) (v : VecInsn) : Option Nat :=
  atomicNew (v.imm % 8) (8 * atomicBytes v.imm) (b.locNat c v.src1 (atomicBytes v.imm)) (b.locNat c (v.src1 + 8) (atomicBytes v.imm))
    (b.dirNat v.dev (atomicBytes v.imm))

/-- An atomic at a direct address outside the MEM_EXPORT window: device e, to which the core's DST is written. -/
structure Dev.AtomStored (d e : Dev) (c : Nat) (v : VecInsn) : Prop where
  frame : d.DirectFrame e
  value : e.dirNat v.dev (atomicBytes v.imm) = (d.atomNew c v).getD (d.dirNat v.dev (atomicBytes v.imm))
  apart : ∀ y, (∀ i, i < atomicBytes v.imm → y ≠ hbmKey d.ilv (v.dev + i)) → memByte e.hbm y = memByte d.hbm y

theorem atomicBytes_pos (imm : Nat) : 0 < atomicBytes imm := by
  unfold atomicBytes
  split <;> decide

theorem Dev.atomPiece_direct (d : Dev) (c order : Nat) (v : VecInsn) (hfits : v.dev + atomicBytes v.imm ≤ directSize)
    (hapart : overlaps v.dev (atomicBytes v.imm) (d.rd Reg.memExportBase) d.exportBytes = false) : ∃ e, d.AtomStored e c v ∧
      d.atomPiece c order v = e.locWrite c v.dst (toLe 8 (d.dirNat v.dev (atomicBytes v.imm))) := by
  have hpos := atomicBytes_pos v.imm
  have hold : d.devNat v.dev (atomicBytes v.imm) = d.dirNat v.dev (atomicBytes v.imm) := by
    rw [Blocks.devNat, d.devRead_direct hfits, Blocks.dirNat]
  have htake : d.devTake v.dev (atomicBytes v.imm) (some (quadOf c)) = d.countHbm v.dev (atomicBytes v.imm) false (some (quadOf c)) := by
    rw [Dev.devTake, d.touch_direct _ false (by omega)]
  have hcount := d.directFrame_countHbm v.dev (atomicBytes v.imm) false (some (quadOf c))
  have hhbm := d.countHbm_hbm v.dev (atomicBytes v.imm) false (some (quadOf c))
  unfold Dev.atomPiece
  simp only [hold, htake]
  generalize d.countHbm v.dev (atomicBytes v.imm) false (some (quadOf c)) = taken at hcount hhbm
  obtain ⟨hbase, hbytes⟩ := hcount.transferFrame.exportWindow
  cases hnew : atomicNew (v.imm % 8) (8 * atomicBytes v.imm) (d.locNat c v.src1 (atomicBytes v.imm))
      (d.locNat c (v.src1 + 8) (atomicBytes v.imm)) (d.dirNat v.dev (atomicBytes v.imm)) with
  | none =>
    refine ⟨taken, ⟨hcount, ?_, fun y _ => by rw [hhbm]⟩, rfl⟩
    rw [Blocks.atomNew, hnew, Option.getD_none, Blocks.dirNat, Blocks.dirRead_congr hcount.ilv hhbm, Blocks.dirNat]
  | some y =>
    have hlength := length_toLe (atomicBytes v.imm) y
    have hlt := atomicNew_lt (d.locNat_lt _ _ _) (d.locNat_lt _ _ _) (d.dirNat_lt _ _) hnew
    have hstore := taken.coreStore_direct (c, order) (a := v.dev) (some (quadOf c)) (bs := toLe (atomicBytes v.imm) y) (by omega) (by rw [hlength]; exact hfits)
      (by rw [hlength, hbase, hbytes, hapart])
    have hframe := taken.directFrame_store v.dev (toLe (atomicBytes v.imm) y) (some (quadOf c))
    have hstored := Dev.countHbm_hbm (taken.dirWrite v.dev (toLe (atomicBytes v.imm) y)) v.dev (toLe (atomicBytes v.imm) y).length true (some (quadOf c))
    have hread := taken.dirRead_dirWrite_same v.dev (toLe (atomicBytes v.imm) y) (by rw [hlength]; exact hfits)
    rw [hlength] at hread
    refine ⟨_, ⟨hcount.trans hframe, ?_, fun z hz => ?_⟩, by dsimp only; rw [hstore]⟩
    · rw [Blocks.atomNew, hnew, Option.getD_some, Blocks.dirNat, Blocks.dirRead_congr (hframe.ilv.trans (taken.ilv_dirWrite _ _).symm) hstored,
        hread, leNat_toLe, show (256 : Nat) = 2 ^ 8 from rfl, ← Nat.pow_mul, Nat.mod_eq_of_lt hlt]
    · rw [hstored, taken.memByte_dirWrite_apart _ _ _ fun i hi => by rw [hcount.ilv]; exact hz i (hlength ▸ hi), hhbm]

section
variable {s : State} {p x : Nat} {ecc : Ecc} {g : Prog} {bs : List Byte}

theorem vatom_direct {q : Nat} (hturn : Safety.Turn s p 0x96 g x bs) (hclear : Safety.MemoryClear s p x bs (atomRule (vecOf bs)) ecc)
    (hprivate : Safety.Private s (vecOf bs)) (hsettled : s.dev.settled g.gang (g.at_ x).order = true) (hgang : g.gang = [q]) :
    let v := vecOf bs
    let n := atomicBytes v.imm
    let old := s.dev.devNat v.dev n
    Safety.Gives (.vatom p ecc) s (fun t =>
      t.dev.locNat q v.dst 8 = old ∧ Safety.LocalBut s t [q] v.dst (fun _ => 8) ∧
      t.dev.devNat v.dev n = (atomicNew (v.imm % 8) (8 * n) (s.dev.locNat q v.src1 n) (s.dev.locNat q (v.src1 + 8) n) old).getD old ∧
      (∀ y, (∀ i, i < n → y ≠ hbmKey s.dev.ilv (v.dev + i)) → memByte t.dev.hbm y = memByte s.dev.hbm y) ∧
      t.dev.prog? p = some (Safety.pastV g x) ∧ Safety.SameOthers s t ∧ t.dev.mig = s.dev.mig) := by
  intro v n old
  have hop : v.op = 0x96 := hturn.2.2.2.1
  have hprog : s.dev.prog? p = some g := hturn.1.2.1
  have hlen : v.devLen = n := by rw [VecInsn.devLen, hop]; rfl
  have hfits : v.dev + n ≤ directSize := hlen ▸ private_fits hclear hprivate.1
  have hapart : overlaps v.dev n (s.dev.rd Reg.memExportBase) s.dev.exportBytes = false := hlen ▸ hprivate.2
  have hstart := s.dev.tallyFrame_beforeAccess p 0x96 (g.at_ x) v ecc
  have hbegin := memAccess_private hclear hprivate hstart.frame q (g.at_ x)
  have htally := hstart.trans (Dev.tallyFrame_accessCounted _ q (g.at_ x) v)
  generalize hd : (s.dev.beforeAccess p 0x96 (g.at_ x) v ecc).accessCounted q (g.at_ x) v = d at htally
  obtain ⟨hbase, hbytes⟩ := htally.frame.exportWindow
  obtain ⟨e, hatom, hpiece⟩ := d.atomPiece_direct q (g.at_ x).order v hfits (by rw [hbase, hbytes, hapart])
  have hold : d.dirNat v.dev n = old := by
    rw [Blocks.dirNat, Blocks.dirRead_congr htally.frame.ilv htally.hbm, ← s.dev.devRead_direct hfits]
    rfl
  have hmem : (s.dev.beforeAccess p 0x96 (g.at_ x) v ecc).memAccess q (g.at_ x) v ecc = e.locWrite q v.dst (toLe 8 old) := by
    rw [hbegin, hd, ← hold, ← hpiece]
    unfold Dev.servePieces
    rw [if_pos hop]
    rfl
  have heach : Safety.eachCore g p (fun d c => d.memAccess c (g.at_ x) v ecc) (s.dev.beforeAccess p 0x96 (g.at_ x) v ecc) =
      e.locWrite q v.dst (toLe 8 old) := (eachCore_single _ hgang ((hstart.frame.prog p).trans hprog)).trans hmem
  have hexec : exec (.vatom p ecc) s = _ := congrArg (fun d => Host.Outcome.next (s.onDev d))
    ((live_memRow_clear hturn (vecRule_memoryRow (c := .vatom p ecc) rfl hop s.dev.toBlocks) hclear.1).trans
      (congrArg (fun d : Dev => d.afterAccess p (g.at_ x) bs (s.dev.rangesOf p bs)) heach))
  have hframe := (htally.frame.trans hatom.frame.transferFrame).trans (e.transferFrame_locWrite q v.dst (toLe 8 old))
  obtain ⟨t, hnext, h⟩ := gives_accessDone hexec hprog hframe (awayTiles_direct _ _ hprivate.1) hsettled
  obtain ⟨-, -, -, -, -, hloc, -, -⟩ := hatom.frame.1.blocks
  have hlt : old < 2 ^ 64 := by
    have hword := d.dirNat_lt v.dev n
    rw [hold] at hword
    exact hword.trans_le (Nat.pow_le_pow_right (by decide) (by unfold n atomicBytes; split <;> decide))
  have htloc : t.dev.loc = memWrite s.dev.loc (q * 2 ^ 22 + v.dst) (toLe 8 old) := by
    rw [h.loc, ← htally.loc, ← hloc]
    rfl
  refine ⟨t, hnext, ?_, fun y hy => ?_, ?_, fun y hy => ?_, h.prog, h.others, ?_⟩
  · rw [Blocks.locNat_written htloc, Nat.mod_eq_of_lt hlt]
  · rw [htloc, memByte_memWrite_apart _ _ _ _ (by rw [length_toLe]; exact hy q List.mem_cons_self)]
  · have hnew : d.atomNew q v = atomicNew (v.imm % 8) (8 * n) (s.dev.locNat q v.src1 n) (s.dev.locNat q (v.src1 + 8) n) old := by
      rw [Blocks.atomNew, hold]
      simp only [Blocks.locNat, Blocks.locRead, htally.loc]
      rfl
    rw [Blocks.devNat, t.dev.devRead_direct hfits, Blocks.dirRead_congr (h.ilv.trans hframe.ilv.symm) h.hbm, ← hnew, ← hold]
    exact hatom.value
  · rw [h.hbm, ← htally.hbm]
    exact hatom.apart y fun i hi => by rw [htally.frame.ilv]; exact hy i hi
  · rw [h.mig, ← htally.mig]
    exact hatom.frame.1.mig

end

end Sys2Proof.Machine
end

section
/-! Accesses that wait (R72, R129): their instruction stands in the scoreboard, and an access whose tiles are all away moves nothing. -/

namespace Sys2Proof.Machine

section
variable {d : Dev} {p x : Nat} {g : Prog}

theorem Dev.enter_eq (d : Dev) (p x : Nat) (g : Prog) (i : Issued) : d.enter p (g.at_ x) .v g.gang i =
    ((d.modProg p (fun h => { h with pc := x + 32 })).useSlots g.gang 3 g.ctx).modProg p (fun h => { h with score := h.score ++ [i] }) := rfl

/-- An instruction of slot V enters the scoreboard: the slot moves on, and beside the cores' slots and counters nothing changes. -/
theorem Dev.enter_leaves (hprog : d.prog? p = some g) (i : Issued) :
    (d.enter p (g.at_ x) .v g.gang i).prog? p = some { Safety.pastV g x with score := g.score ++ [i] } ∧
      ∃ regs cores, d.enter p (g.at_ x) .v g.gang i = { d with regs := regs, cores := cores } := by
  have howed := (d.modProg p (fun h => { h with pc := x + 32 })).owedFrame_useSlots g.gang 3 g.ctx
  refine ⟨?_, ?_⟩
  · rw [Dev.enter_eq, Dev.prog_modProg_same, howed.prog, Dev.prog_modProg_same, hprog]
    rfl
  · obtain ⟨_, _, heq⟩ := howed.eq
    rw [Dev.enter_eq, heq]
    exact ⟨_, _, rfl⟩

end

/-! Tiles that are away. -/

theorem Dev.QueueFrame.transferFrame {d e : Dev} (h : d.QueueFrame e) : d.TransferFrame e := by
  have hrd := h.rd
  have hcounted := h.counted
  obtain ⟨_, _, rfl⟩ := h.eq
  exact ⟨⟨_, _, _, _, _, _, rfl⟩, hcounted, fun off _ => hrd off, fun _ => rfl, fun y hy _ => ⟨y, hy, rfl, rfl⟩⟩

/-- Device e is device d but for counters, Hallmark parts and the queues of the vault ports. -/
structure Dev.MissFrame (d e : Dev) : Prop where
  frame : d.TransferFrame e
  hbm : e.hbm = d.hbm
  loc : e.loc = d.loc

theorem Dev.MissFrame.trans {d e f : Dev} (h : d.MissFrame e) (k : e.MissFrame f) : d.MissFrame f :=
  ⟨h.frame.trans k.frame, k.hbm.trans h.hbm, k.loc.trans h.loc⟩

theorem Dev.TallyFrame.missFrame {d e : Dev} (h : d.TallyFrame e) : d.MissFrame e := ⟨h.frame, h.hbm, h.loc⟩

/-- A miss is counted and its fetches are queued. -/
theorem Dev.missFrame_miss (d : Dev) (a n : Nat) : d.MissFrame (d.miss a n) := by
  have hcount : d.MissFrame (d.bump Reg.migCntMiss 1) := by
    refine ⟨(d.regFrame_wr _ _).transferFrame fun off hoff => d.rd_bump_other 1 ?_, rfl, rfl⟩
    rcases hoff with ⟨-, hne⟩ | ⟨n, rfl⟩
    · exact hne
    · simp only [Reg.vltPortStatus, Reg.migCntMiss]
      omega
  have hqueue (e : Dev) (ts : List Nat) : e.MissFrame (e.queueFetches ts 0 false false false) := by
    have h := e.queueFrame_queueFetches ts 0 false false false
    obtain ⟨_, _, heq⟩ := h.eq
    exact ⟨h.transferFrame, by rw [heq], by rw [heq]⟩
  unfold Dev.miss
  split
  · exact ⟨.refl d, rfl, rfl⟩
  · dsimp only
    split
    · exact hqueue d _
    · exact hcount.trans (hqueue _ _)

/-- The tile of every byte of a tiered range is a tile of the range. -/
theorem mem_tilesOf {a n k : Nat} (htiered : tieredBase ≤ a) (hk : k < n) : (a + k - tieredBase) / tileBytes ∈ tilesOf a n := by
  refine List.mem_map.mpr ⟨(a + k) / tileBytes - a / tileBytes, List.mem_range.mpr ?_, ?_⟩
  all_goals
    unfold tileBytes
    unfold tieredBase at *
    omega

theorem tieredBase_le {a : Nat} (h : partOf a = .tiered) : tieredBase ≤ a := by
  unfold partOf at h
  split at h
  · exact absurd h nofun
  · split at h
    · next hin =>
      simp only [Bool.and_eq_true, decide_eq_true_eq] at hin
      exact hin.1
    · split at h <;> exact absurd h nofun

/-- No piece of an access is here. -/
theorem Dev.servePieces_away (d : Dev) (c order : Nat) (v : VecInsn) {here : Nat → Bool} (hpos : 0 < v.devLen) (htiered : tieredBase ≤ v.dev)
    (haway : ∀ i ∈ tilesOf v.dev v.devLen, here i = false) : d.servePieces c order v here = d := by
  unfold Dev.servePieces
  split
  · have hfirst := haway _ (mem_tilesOf (k := 0) htiered hpos)
    rw [Nat.add_zero] at hfirst
    rw [hfirst]
    rfl
  · next hop =>
    have hlen : v.devLen = v.count := if_neg hop
    refine cutAt_foldl tileBytes_pos (P := fun _ e => e = d) (fun k m e hm hk he => ?_) rfl
    dsimp only
    rw [haway _ (mem_tilesOf htiered (by omega)), he]
    rfl

section
variable {s : State} {p op x : Nat} {ecc : Ecc} {g : Prog} {bs : List Byte} {r : VecRule}

/-- An instruction that cannot complete after its accesses (device e) waits in the scoreboard; what they have left stands. -/
theorem gives_waits {c : Instr} {e : Dev} {ranges : Ranges} {away : List Nat}
    (hexec : exec c s = .next (s.onDev (e.afterAccess p (g.at_ x) bs ranges))) (hprog : e.prog? p = some g)
    (haway : e.awayTiles (vecOf bs).dev (vecOf bs).devLen = away) (hbusy : (away.isEmpty && e.settled g.gang (g.at_ x).order) = false) :
    Safety.Gives c s (fun t =>
      (∃ i, t.dev.prog? p = some { Safety.pastV g x with score := g.score ++ [i] } ∧
        i.pend = (if away.isEmpty then .remote else .tiles away) ∧ i.insn = bs) ∧
      ∃ regs cores, t.dev = { e with regs := regs, cores := cores }) := by
  have hafter : ∃ i : Issued, e.afterAccess p (g.at_ x) bs ranges = e.enter p (g.at_ x) .v g.gang i ∧
      i.pend = (if away.isEmpty then .remote else .tiles away) ∧ i.insn = bs := by
    have hbusy' : (away.isEmpty && e.settled (g.at_ x).gang (g.at_ x).order) = false := hbusy
    unfold Dev.afterAccess
    simp only [hprog, haway, hbusy', Option.isNone_some, Bool.false_eq_true, if_false]
    exact ⟨_, rfl, rfl, rfl⟩
  obtain ⟨i, henter, hpend, hinsn⟩ := hafter
  obtain ⟨hpast, hleft⟩ := Dev.enter_leaves (x := x) hprog i
  exact ⟨_, henter ▸ hexec, ⟨i, hpast, hpend, hinsn⟩, hleft⟩

/-- An access whose tiles are all away moves nothing and waits for them. -/
theorem vmem_away {c : Instr} {mop : Nat} {rule : VecInsn → VecRule} (hrow : Safety.memoryRow c = some (p, op, ecc, rule, mop))
    (hturn : Safety.Turn s p op g x bs) (hclear : Safety.MemoryClear s p x bs (rule (vecOf bs)) ecc) (hpart : partOf (vecOf bs).dev = .tiered)
    (haway : s.dev.awayTiles (vecOf bs).dev (vecOf bs).devLen = tilesOf (vecOf bs).dev (vecOf bs).devLen)
    (hapart : overlaps (vecOf bs).dev (vecOf bs).devLen (s.dev.rd Reg.memExportBase) s.dev.exportBytes = false) : Safety.Gives c s (fun t =>
      (∃ i, t.dev.prog? p = some { Safety.pastV g x with score := g.score ++ [i] } ∧
        i.pend = .tiles (tilesOf (vecOf bs).dev (vecOf bs).devLen) ∧ i.insn = bs) ∧
      Safety.SameMemory s t ∧ t.dev.jobs = s.dev.jobs) := by
  have hop : (vecOf bs).op = op := hturn.2.2.2.1
  have hprog : s.dev.prog? p = some g := hturn.1.2.1
  have hexec := (exec_memoryRow hrow s).trans (congrArg (fun d => Host.Outcome.next (s.onDev d))
    (live_memRow_clear hturn (vecRule_memoryRow hrow hop s.dev.toBlocks) hclear.1))
  obtain ⟨-, hpos, hcheck, hgood⟩ := hclear
  have hnear : partOf (vecOf bs).dev ≠ .remote := by rw [hpart]; decide
  have htiered := tieredBase_le hpart
  have hsome : (tilesOf (vecOf bs).dev (vecOf bs).devLen).isEmpty = false :=
    List.isEmpty_eq_false_iff.mpr (List.ne_nil_of_mem (mem_tilesOf htiered hpos))
  have hcores := eachCore_induction (g := g) (p := p) (P := fun _ e => s.dev.MissFrame e)
    (f := fun d c => d.memAccess c (g.at_ x) (vecOf bs) ecc) (fun cs e h => by rw [h.frame.prog, hprog]; rfl)
    (s.dev.tallyFrame_beforeAccess p op (g.at_ x) (vecOf bs) ecc).missFrame fun cs c e h => by
      obtain ⟨hbase, hbytes⟩ := h.frame.exportWindow
      have hcount := h.trans (e.tallyFrame_accessCounted c (g.at_ x) (vecOf bs)).missFrame
      have htiles := (hcount.frame.awayTiles hcount.hbm (vecOf bs).dev (vecOf bs).devLen).trans haway
      rw [Dev.memAccess_near hpos (h.frame.coreCheck (fun _ => h.hbm) hcheck) hgood c (g.at_ x) hnear (by rw [hbase, hbytes, hapart]), Dev.tierAccess,
        htiles, hsome, if_neg Bool.false_ne_true, Dev.servePieces_away _ c _ _ hpos htiered fun i hi => by simpa using hi]
      exact hcount.trans (Dev.missFrame_miss _ _ _)
  obtain ⟨t, hnext, ⟨i, hpast, hpend, hinsn⟩, _, _, hleft⟩ := gives_waits hexec ((hcores.frame.prog p).trans hprog)
    ((hcores.frame.awayTiles hcores.hbm (vecOf bs).dev (vecOf bs).devLen).trans haway) (by rw [hsome, Bool.false_and])
  rw [hsome, if_neg Bool.false_ne_true] at hpend
  obtain ⟨hvault, hhost, hjobs⟩ := hcores.frame.outer
  refine ⟨t, hnext, ⟨i, hpast, hpend, hinsn⟩, ?_, ?_⟩
  · intro a
    rw [hleft, ← hcores.hbm, ← hvault, ← hcores.loc, ← hhost]
    exact ⟨rfl, rfl, rfl, rfl⟩
  · rw [hleft]
    exact hjobs

end

end Sys2Proof.Machine
end

section
/-! A remote access of a core, met by no cached line and no replica, becomes a request to its home and waits (R231). -/

namespace Sys2Proof.Machine

/-! Requests that wait to go out. -/

/-- Putting b in the place of the first a loses nothing but a. -/
theorem mem_set_findIdx {α : Type} [DecidableEq α] {a b y : α} {xs : List α} (hy : y ∈ xs) :
    y ∈ xs.set (xs.findIdx (fun x => x = a)) b ∨ (y = a ∧ b ∈ xs.set (xs.findIdx (fun x => x = a)) b) := by
  induction xs with
  | nil => exact absurd hy List.not_mem_nil
  | cons x xs ih =>
    by_cases hx : x = a
    · rw [List.findIdx_cons, decide_eq_true hx, cond_true, List.set_cons_zero]
      rcases List.mem_cons.mp hy with rfl | hy
      · exact .inr ⟨hx, List.mem_cons_self⟩
      · exact .inl (List.mem_cons_of_mem _ hy)
    · rw [List.findIdx_cons, decide_eq_false hx, cond_false, List.set_cons_succ]
      rcases List.mem_cons.mp hy with rfl | hy
      · exact .inl List.mem_cons_self
      · exact (ih hy).imp (List.mem_cons_of_mem _) (fun h => ⟨h.1, List.mem_cons_of_mem _ h.2⟩)

/-- A request, as it stands before or after it has been sent. -/
def RemoteReq.SentAs (r r' : RemoteReq) : Prop := ∃ sent slot seq, r' = { r with sent := sent, slot := slot, seq := seq }

theorem RemoteReq.SentAs.refl (r : RemoteReq) : r.SentAs r := ⟨_, _, _, rfl⟩

theorem RemoteReq.SentAs.trans {r r' r'' : RemoteReq} (h : r.SentAs r') (k : r'.SentAs r'') : r.SentAs r'' := by
  obtain ⟨_, _, _, rfl⟩ := h
  obtain ⟨_, _, _, rfl⟩ := k
  exact ⟨_, _, _, rfl⟩

/-- Device e is device d, but some of its requests may have gone out into the router. -/
structure Dev.PumpFrame (d e : Dev) : Prop where
  eq : ∃ remote router freeUsed, e = { d with remote := remote, router := router, freeUsed := freeUsed }
  reqs : ∀ r ∈ d.remote.reqs, ∃ r' ∈ e.remote.reqs, r.SentAs r'

theorem Dev.PumpFrame.refl (d : Dev) : d.PumpFrame d := ⟨⟨_, _, _, rfl⟩, fun r hr => ⟨r, hr, .refl r⟩⟩

theorem Dev.PumpFrame.trans {d e f : Dev} (h : d.PumpFrame e) (k : e.PumpFrame f) : d.PumpFrame f := by
  refine ⟨?_, fun r hr => ?_⟩
  · obtain ⟨_, _, _, rfl⟩ := h.eq
    obtain ⟨_, _, _, rfl⟩ := k.eq
    exact ⟨_, _, _, rfl⟩
  · obtain ⟨r', hr', hsent⟩ := h.reqs r hr
    obtain ⟨r'', hr'', hsent'⟩ := k.reqs r' hr'
    exact ⟨r'', hr'', hsent.trans hsent'⟩

theorem Dev.pumpFrame_pumpReqs (d : Dev) (fuel : Nat) : d.PumpFrame (d.pumpReqs fuel) := by
  induction fuel generalizing d with
  | zero => exact .refl d
  | succ fuel ih =>
    unfold Dev.pumpReqs
    split
    · exact .refl d
    · split
      · exact .refl d
      · next r _ _ slot _ =>
        refine Dev.PumpFrame.trans ⟨⟨_, _, _, rfl⟩, fun r' hr' => ?_⟩ (ih _)
        rcases mem_set_findIdx (a := r) (b := { r with sent := true, slot := slot, seq := tabGet 0 d.remote.nextSeq (seqKey r.core r.home) }) hr' with
          hstays | ⟨rfl, hsent⟩
        · exact ⟨r', hstays, .refl r'⟩
        · exact ⟨_, hsent, _, _, _, rfl⟩

section
variable (d : Dev) (c : Nat) (g : Prog) (mop aop home off len local_ : Nat) (data : List Byte)

/-- A request made: it stands among the outstanding ones, and beside them the router, the free values drawn and counters change. -/
theorem Dev.request_leaves : (∃ regs remote router freeUsed,
      d.request c g mop aop home off len local_ data = { d with regs := regs, remote := remote, router := router, freeUsed := freeUsed }) ∧
    ∃ r ∈ (d.request c g mop aop home off len local_ data).remote.reqs, (remoteReq c g mop aop home off len local_ data).SentAs r := by
  unfold Dev.request Dev.addReqs
  dsimp only
  have hpump := (d.setReqs (d.remote.reqs ++ [remoteReq c g mop aop home off len local_ data])).pumpFrame_pumpReqs
    (d.setReqs (d.remote.reqs ++ [remoteReq c g mop aop home off len local_ data])).remote.reqs.length
  obtain ⟨r, hr, hsent⟩ := hpump.reqs _ (List.mem_append_right _ List.mem_cons_self)
  obtain ⟨_, _, _, heq⟩ := hpump.eq
  obtain ⟨_, hcount⟩ := Dev.regFrame_countEvent ((d.setReqs (d.remote.reqs ++ [remoteReq c g mop aop home off len local_ data])).pumpReqs
    (d.setReqs (d.remote.reqs ++ [remoteReq c g mop aop home off len local_ data])).remote.reqs.length) c 0xF g.ctx 1
  rw [hcount]
  refine ⟨?_, r, hr, hsent⟩
  rw [heq]
  exact ⟨_, _, _, _, rfl⟩

end

/-- A request of a core's instruction that has not been injected holds the instruction. -/
theorem Blocks.remoteBusy_of_request {b : Blocks} {r : RemoteReq} (hr : r ∈ b.remote.reqs) (hinjected : r.injected = false) :
    b.remoteBusy r.core r.order = true := by
  rw [Blocks.remoteBusy, Bool.or_eq_true, List.any_eq_true]
  exact .inl ⟨r, hr, by simp [Blocks.holdsInsn, hinjected]⟩

/-! The access. -/

/-- A remote access in a live context that nothing of this device meets: its home is another device of the block, and no cached line and no replica
serves it. -/
structure Blocks.AsksHome (b : Blocks) (ctx : Nat) (v : VecInsn) : Prop where
  inBlock : (remoteOf v.dev).1 < b.blockN
  other : (remoteOf v.dev).1 ≠ b.me
  live : (b.ctx ctx).mode = .live
  uncached : b.cachedLoad (remoteOf v.dev).1 (remoteOf v.dev).2 v.devLen = none
  unreplicated : b.servingReplica (remoteOf v.dev).1 (remoteOf v.dev).2 v.devLen = none

theorem Dev.TransferFrame.asksHome {d e : Dev} (h : d.TransferFrame e) {ctx : Nat} {v : VecInsn} (hask : d.AsksHome ctx v) : e.AsksHome ctx v :=
  ⟨h.blockN ▸ hask.inBlock, h.me ▸ hask.other, (h.mode ctx).trans hask.live, (h.cachedLoad _ _ _).trans hask.uncached,
    (h.servingReplica _ _ _).trans hask.unreplicated⟩

section
variable {d : Dev} {g : Prog} {v : VecInsn} (hask : d.AsksHome g.ctx v) (c : Nat)
include hask

theorem Dev.remoteAtom_request (hop : v.op = 0x96) : ∃ aop local_ data, d.remoteAtom c g v =
    d.request c g 3 aop (remoteOf v.dev).1 (remoteOf v.dev).2 v.devLen local_ data := by
  have hlen : v.devLen = atomicBytes v.imm := if_pos hop
  rw [hlen]
  unfold Dev.remoteAtom
  dsimp only
  rw [if_neg (Nat.not_le.mpr hask.inBlock), if_pos hask.other]
  exact ⟨_, _, _, rfl⟩

theorem Dev.remoteAccess_request (hop : v.op ≠ 0x96) (hpos : 0 < v.devLen) (hline : v.dev / 128 = (v.dev + v.devLen - 1) / 128) :
    ∃ aop local_ data, d.remoteAccess c g v =
      d.request c g (if v.op = 0x98 then 0 else if v.op = 0x9A then 2 else 1) aop (remoteOf v.dev).1 (remoteOf v.dev).2 v.devLen local_ data := by
  have hlen : v.devLen = v.count := if_neg hop
  have huncached := hask.uncached
  have hunreplicated := hask.unreplicated
  rw [hlen] at hpos hline huncached hunreplicated ⊢
  have hpieces : cutAt 128 v.dev 0 v.count (v.count / 128 + 2) = [(0, v.count)] := cutAt_single hpos (by omega)
  unfold Dev.remoteAccess
  rw [hpieces]
  simp only [List.find?_cons, List.find?_nil, Nat.add_zero, decide_eq_false (Nat.not_le.mpr hask.inBlock), List.foldl_cons, List.foldl_nil, hask.live,
    ne_eq, not_true_eq_false, if_false]
  by_cases hload : v.op = 0x98
  · simp only [if_pos hload, Dev.remoteLoad, if_neg hask.other, huncached, hunreplicated]
    exact ⟨_, _, _, rfl⟩
  · simp only [if_neg hload, Dev.remoteStore, if_neg hask.other]
    exact ⟨_, _, _, rfl⟩

end

section
variable {s : State} {p op x : Nat} {ecc : Ecc} {g : Prog} {bs : List Byte}

/-- The kind of request that a row makes (Table 9.8). -/
theorem mop_memoryRow {c : Instr} {mop : Nat} {rule : VecInsn → VecRule} (h : Safety.memoryRow c = some (p, op, ecc, rule, mop)) :
    mop = if op = 0x96 then 3 else if op = 0x98 then 0 else if op = 0x9A then 2 else 1 := by
  cases c
  case vload | vstore | vstoref | vatom =>
    obtain ⟨-, rfl, -, -, rfl⟩ : _ ∧ _ ∧ _ ∧ _ ∧ _ := by simpa [Safety.memoryRow] using h
    rfl
  all_goals exact absurd h nofun

theorem vmem_remote {c : Instr} {mop q : Nat} {rule : VecInsn → VecRule} (hrow : Safety.memoryRow c = some (p, op, ecc, rule, mop))
    (hturn : Safety.Turn s p op g x bs) (hclear : Safety.MemoryClear s p x bs (rule (vecOf bs)) ecc) (hpart : partOf (vecOf bs).dev = .remote)
    (hgang : g.gang = [q]) (hline : (vecOf bs).dev / 128 = ((vecOf bs).dev + (vecOf bs).devLen - 1) / 128)
    (hask : s.dev.AsksHome g.ctx (vecOf bs)) : Safety.Gives c s (fun t =>
      (∃ i, t.dev.prog? p = some { Safety.pastV g x with score := g.score ++ [i] } ∧ i.pend = .remote ∧ i.insn = bs) ∧
      (∃ r ∈ t.dev.remote.reqs, r.core = q ∧ r.ctx = g.ctx ∧ r.home = (remoteOf (vecOf bs).dev).1 ∧ r.off = (remoteOf (vecOf bs).dev).2 ∧
        r.len = (vecOf bs).devLen ∧ r.mop = mop ∧ r.order = (g.at_ x).order ∧ r.pc = g.devPc x) ∧
      Safety.SameMemory s t ∧ t.dev.jobs = s.dev.jobs) := by
  have hop : (vecOf bs).op = op := hturn.2.2.2.1
  have hprog : s.dev.prog? p = some g := hturn.1.2.1
  obtain ⟨hissue, hpos, hcheck, hgood⟩ := hclear
  have hstart := s.dev.tallyFrame_beforeAccess p op (g.at_ x) (vecOf bs) ecc
  have hexec := (exec_memoryRow hrow s).trans (congrArg (fun d => Host.Outcome.next (s.onDev d))
    (live_memRow_clear hturn (vecRule_memoryRow hrow hop s.dev.toBlocks) hissue))
  rw [eachCore_single _ hgang ((hstart.frame.prog p).trans hprog), Dev.memAccess_remote hpos
    (hstart.frame.coreCheck (fun _ => hstart.hbm) hcheck) hgood q (g.at_ x) hpart] at hexec
  have hframe := hstart.trans (Dev.tallyFrame_accessCounted _ q (g.at_ x) (vecOf bs))
  generalize (s.dev.beforeAccess p op (g.at_ x) (vecOf bs) ecc).accessCounted q (g.at_ x) (vecOf bs) = d at hexec hframe
  have hasks : d.AsksHome (g.at_ x).ctx (vecOf bs) := hframe.frame.asksHome hask
  obtain ⟨aop, local_, data, hrequest⟩ : ∃ aop local_ data,
      (if (vecOf bs).op = 0x96 then d.remoteAtom q (g.at_ x) (vecOf bs) else d.remoteAccess q (g.at_ x) (vecOf bs)) =
        d.request q (g.at_ x) mop aop (remoteOf (vecOf bs).dev).1 (remoteOf (vecOf bs).dev).2 (vecOf bs).devLen local_ data := by
    have hmop := mop_memoryRow hrow
    split
    · next hatom =>
      rw [hmop, if_pos (hop ▸ hatom)]
      exact Dev.remoteAtom_request hasks q hatom
    · next hatom =>
      rw [hmop, if_neg (hop ▸ hatom), ← hop]
      exact Dev.remoteAccess_request hasks q hatom hpos hline
  rw [hrequest] at hexec
  obtain ⟨⟨_, _, _, _, heq⟩, r, hr, hsent⟩ := d.request_leaves q (g.at_ x) mop aop (remoteOf (vecOf bs).dev).1 (remoteOf (vecOf bs).dev).2
    (vecOf bs).devLen local_ data
  generalize d.request q (g.at_ x) mop aop (remoteOf (vecOf bs).dev).1 (remoteOf (vecOf bs).dev).2 (vecOf bs).devLen local_ data = e at hexec heq hr
  obtain ⟨_, _, _, rfl⟩ := hsent
  have hbusy : e.settled g.gang (g.at_ x).order = false := by
    have hholds := Blocks.remoteBusy_of_request (b := e.toBlocks) hr rfl
    rw [Blocks.settled, hgang, List.all_cons, Bool.and_eq_false_iff, Bool.not_eq_false']
    exact .inl hholds
  have hnear : e.awayTiles (vecOf bs).dev (vecOf bs).devLen = [] := by simp [Blocks.awayTiles, hpart]
  have hcores : e.cores = s.dev.cores := by rw [heq, ← hframe.frame.cores]
  obtain ⟨t, hnext, ⟨i, hpast, hpend, hinsn⟩, _, _, hleft⟩ := gives_waits hexec ((Dev.prog_of_cores hcores p).trans hprog) hnear
    (by rw [hbusy, Bool.and_false])
  obtain ⟨hvault, hhost, hjobs⟩ := hframe.frame.outer
  refine ⟨t, hnext, ⟨i, hpast, hpend, hinsn⟩, ⟨_, by rw [hleft]; exact hr, rfl, rfl, rfl, rfl, rfl, rfl, rfl, rfl⟩, fun a => ?_, ?_⟩
  · rw [hleft, heq, ← hframe.hbm, ← hvault, ← hframe.loc, ← hhost]
    exact ⟨rfl, rfl, rfl, rfl⟩
  · rw [hleft, heq]
    exact hjobs

end

end Sys2Proof.Machine
end

section
/-! A load that fails its check, or meets an uncorrectable word in the direct part, faults (R127, R149). -/

namespace Sys2Proof.Machine

section
variable {s : State} {p q x y code : Nat} {ecc : Ecc} {g : Prog} {bs : List Byte}

/-- Nothing is counted or joins the Hallmark before a load that meets no corrected word. -/
theorem Dev.beforeAccess_load (d : Dev) (p : Nat) (g : Prog) (v : VecInsn) (hlocal : ecc.corrLocal = 0) (hhbm : ecc.corrHbm = 0) :
    d.beforeAccess p 0x98 g v ecc = d := by
  simp [Dev.beforeAccess, Dev.counted, Dev.countCorr, Dev.countEcc, hlocal, hhbm]

/-- A load whose one access faults ends its stream. -/
theorem vload_faults (hturn : Safety.Turn s p 0x98 g x bs) (hclear : Safety.Clear s p x bs (loadRule (vecOf bs)) ecc) (hgang : g.gang = [q])
    (hlocal : ecc.corrLocal = 0) (hhbm : ecc.corrHbm = 0)
    (hfault : s.dev.memAccess q (g.at_ x) (vecOf bs) ecc = s.dev.deviceFault q (g.at_ x) x code y)
    (hends : (s.dev.deviceFault q (g.at_ x) x code y).prog? p = none) :
    exec (.vload p ecc) s = .next (s.onDev (s.dev.deviceFault q (g.at_ x) x code y)) := by
  have hprog : s.dev.prog? p = some g := hturn.1.2.1
  have hexec := (exec_memoryRow (c := .vload p ecc) rfl s).trans (congrArg (fun d => Host.Outcome.next (s.onDev d))
    (live_memRow_clear hturn (vecRule_memoryRow (c := .vload p ecc) rfl hturn.2.2.2.1 s.dev.toBlocks) hclear))
  rw [Dev.beforeAccess_load _ _ _ _ hlocal hhbm, eachCore_single _ hgang hprog, hfault, Dev.afterAccess, hends] at hexec
  exact hexec

theorem vload_checkFault (hturn : Safety.Turn s p 0x98 g x bs) (hclear : Safety.Clear s p x bs (loadRule (vecOf bs)) {}) (hgang : g.gang = [q])
    (hpos : 0 < (vecOf bs).count) (hcheck : s.dev.coreCheck (vecOf bs).dev (vecOf bs).count = some (code, y))
    (hends : (s.dev.deviceFault q (g.at_ x) x code y).prog? p = none) :
    exec (.vload p {}) s = .next (s.onDev (s.dev.deviceFault q (g.at_ x) x code y)) := by
  have hop : (vecOf bs).op = 0x98 := hturn.2.2.2.1
  have hlen : (vecOf bs).devLen = (vecOf bs).count := by rw [VecInsn.devLen, hop]; rfl
  refine vload_faults hturn hclear hgang rfl rfl ?_ hends
  simp only [Dev.memAccess, hlen, hpos.ne', if_false, hcheck]
  rfl

/-- The bad word lies in a piece of a direct range, and the range is resident. -/
theorem Blocks.hbmError_direct (b : Blocks) {a n w : Nat} (hpart : partOf a = .direct) (hfits : a + n ≤ directSize) (hw : a ≤ w ∧ w < a + n)
    (hbad : ecc.badHbm = some w) : b.hbmError a n ecc = some w := by
  have hnear : ¬ (partOf a = .remote ∨ n = 0) := by
    rw [hpart, not_or]
    exact ⟨by decide, by omega⟩
  obtain ⟨⟨k, m⟩, hpiece, hlo, hhi⟩ := cutAt_covers (size := 4096) (by decide) (a := a) (n := n) (i := w - a) (by omega)
  have hdirect : a + k < directSize := by
    dsimp only at hlo
    omega
  rw [Blocks.hbmError, if_neg hnear, hbad, Option.filter_eq_some_iff]
  refine ⟨rfl, List.any_eq_true.mpr ⟨(k, m), hpiece, ?_⟩⟩
  rw [b.allResident_direct m hdirect, b.resolve_direct hdirect]
  simp only [overlaps, Bool.true_and, Bool.and_eq_true, decide_eq_true_eq]
  dsimp only at hlo hhi
  omega

theorem vload_wordFault {w : Nat} (hturn : Safety.Turn s p 0x98 g x bs)
    (hclear : Safety.Clear s p x bs (loadRule (vecOf bs)) { badHbm := some w }) (hgang : g.gang = [q]) (hpos : 0 < (vecOf bs).count)
    (hcheck : s.dev.coreCheck (vecOf bs).dev (vecOf bs).count = none) (hpart : partOf (vecOf bs).dev = .direct)
    (hw : (vecOf bs).dev ≤ w ∧ w < (vecOf bs).dev + (vecOf bs).count) (hends : (s.dev.deviceFault q (g.at_ x) x 0x45 w).prog? p = none) :
    exec (.vload p { badHbm := some w }) s = .next (s.onDev (s.dev.deviceFault q (g.at_ x) x 0x45 w)) := by
  have hop : (vecOf bs).op = 0x98 := hturn.2.2.2.1
  have hlen : (vecOf bs).devLen = (vecOf bs).count := by rw [VecInsn.devLen, hop]; rfl
  have hfits : (vecOf bs).dev + (vecOf bs).count ≤ directSize := by
    have hrange := hcheck
    rw [Blocks.coreCheck, if_neg hpos.ne'] at hrange
    exact Blocks.direct_fits hpos hpart (Option.or_eq_none_iff.mp hrange).1
  have herror := s.dev.hbmError_direct (ecc := { badHbm := some w }) hpart hfits hw rfl
  refine vload_faults hturn hclear hgang rfl rfl ?_ hends
  simp only [Dev.memAccess, hlen, hpos.ne', if_false, hcheck, herror]
  rfl

end

end Sys2Proof.Machine
end
section
/-! The statement about loads, stores and atomics of cores. -/
open Sys2Proof Sys2Proof.Machine

/-- Settles O32: the direct part by what each core of the stream moves, one after the other; the waits and faults by the path of the row. -/
theorem coreMemory : Obligations.CoreMemory := by
  unfold Obligations.CoreMemory
  refine ⟨fun s p x ecc g bs hturn hclear hprivate hsettled => vload_direct hturn hclear hprivate hsettled,
    fun s c p op mop q x ecc rule g bs hrow hstores hturn hclear hprivate hsettled hlast =>
      vstore_direct hrow hstores hturn hclear hprivate hsettled hlast,
    fun s p q x ecc g bs hturn hclear hprivate hsettled hgang => vatom_direct hturn hclear hprivate hsettled hgang,
    fun s c p op mop x ecc rule g bs hrow hturn hclear => ⟨fun hpart haway hapart => vmem_away hrow hturn hclear hpart haway hapart,
      fun q hpart hgang hblock hother hline hlive huncached hunreplicated =>
        vmem_remote hrow hturn hclear hpart hgang hline ⟨hblock, hother, hlive, huncached, hunreplicated⟩⟩,
    fun s p q x g bs hturn hgang hrule hfree hpos => ⟨fun code y hcheck hends => ?_, fun w hcheck hpart hlo hhi hends => ?_⟩⟩
  · exact vload_checkFault hturn ⟨hrule, hfree, rfl⟩ hgang hpos hcheck hends
  · exact vload_wordFault hturn ⟨hrule, hfree, rfl⟩ hgang hpos hcheck hpart ⟨hlo, hhi⟩ hends

end

section
/-! A range copied between HBM and another memory (R123, R130): the bytes that stand there afterwards. -/

namespace Sys2Proof.Machine

/-- A byte at which no entry of a list is stored. -/
theorem memByte_foldl_memSet_apart {addr : Nat → Nat} {y : Nat} {xs : Mem} (h : ∀ e ∈ xs, addr e.1 ≠ y) (dst : Mem) :
    memByte (xs.foldl (fun m e => memSet m (addr e.1) e.2) dst) y = memByte dst y :=
  foldl_keeps_mem (fun m => memByte m y = memByte dst y) xs (fun _ e he hm => (memByte_memSet_other _ _ _ _ (h e he).symm).trans hm) rfl

/-- A byte at which only the entry of key k can be stored, where nothing stood. -/
theorem memByte_foldl_memSet_placed {addr : Nat → Nat} {y k : Nat} {xs : Mem} (hkeys : xs.Pairwise (fun e f => e.1 < f.1)) (hk : addr k = y)
    (hplace : ∀ e ∈ xs, addr e.1 = y → e.1 = k) {dst : Mem} (hclear : memByte dst y = 0) :
    memByte (xs.foldl (fun m e => memSet m (addr e.1) e.2) dst) y = memByte xs k := by
  induction xs generalizing dst with
  | nil => exact hclear
  | cons e xs ih =>
    obtain ⟨hbelow, hrest⟩ := List.pairwise_cons.mp hkeys
    rw [List.foldl_cons]
    by_cases he : e.1 = k
    · have hvalue : memByte (e :: xs) k = e.2 := if_pos he
      have hapart : ∀ f ∈ xs, addr f.1 ≠ y := fun f hf haddr => by
        have hlt := hbelow f hf
        have hkey := hplace f (List.mem_cons_of_mem _ hf) haddr
        omega
      rw [memByte_foldl_memSet_apart hapart, he, hk, memByte_memSet_same, hvalue]
    · have hvalue : memByte (e :: xs) k = memByte xs k := if_neg he
      have hother : addr e.1 ≠ y := fun haddr => he (hplace e List.mem_cons_self haddr)
      rw [hvalue, ih hrest (fun f hf => hplace f (List.mem_cons_of_mem _ hf)) ((memByte_memSet_other _ _ _ _ hother.symm).trans hclear)]

/-- A selection by key that selects key k keeps its byte. -/
theorem memByte_filter {m : Mem} {p : Nat × Byte → Bool} {k : Nat} (h : ∀ b, p (k, b) = true) : memByte (m.filter p) k = memByte m k := by
  induction m with
  | nil => rfl
  | cons e m ih =>
    obtain ⟨k', b⟩ := e
    by_cases hk : k' = k
    · subst hk
      rw [List.filter_cons_of_pos (h b)]
      simp only [memByte, tabGet, if_true]
    · have hskip : memByte ((k', b) :: m) k = memByte m k := if_neg hk
      by_cases hp : p (k', b) = true
      · rw [List.filter_cons_of_pos hp, hskip, ← ih]
        exact if_neg hk
      · rw [List.filter_cons_of_neg hp, hskip, ih]

section
variable (d : Dev) {a n : Nat} (src : Mem) (sa : Nat)

/-- The direct part is cleared before the copy. -/
theorem memByte_dirClear {i : Nat} (hi : i < n) (hfits : a + n ≤ directSize) : memByte (d.dirClear a n).hbm (hbmKey d.ilv (a + i)) = 0 := by
  refine tabGet_absent _ _ _ fun e he hkey => ?_
  have hkept := (List.mem_filter.mp he).2
  rw [hkey, hbmAddr_hbmKey d.ilv (by omega)] at hkept
  simp only [Bool.not_eq_true', Bool.and_eq_false_iff, decide_eq_false_iff_not] at hkept
  omega

/-- The bytes copied in. -/
theorem Dev.dirRead_dirCopyIn (hwf : Memory.wf src = true) (hfits : a + n ≤ directSize) : (d.dirCopyIn a src sa n).dirRead a n = memRead src sa n := by
  refine List.map_congr_left fun i hi => ?_
  have hlt := List.mem_range.mp hi
  refine (memByte_foldl_memSet_placed (addr := fun k => hbmKey d.ilv (a + (k - sa))) (k := sa + i)
    (((memWf_iff src).mp hwf).1.filter _) (by rw [Nat.add_sub_cancel_left]) (fun e he hkey => ?_) (memByte_dirClear d hlt hfits)).trans ?_
  · have hin := (List.mem_filter.mp he).2
    simp only [Bool.and_eq_true, decide_eq_true_eq] at hin
    have hplace := hbmKey_inj (by omega) (by omega) hkey
    omega
  · exact memByte_filter fun b => by simp only [Bool.and_eq_true, decide_eq_true_eq]; omega

/-- A direct range apart from the one copied to. -/
theorem Dev.dirRead_dirCopyIn_apart {c m : Nat} (hfits : a + n ≤ directSize) (hc : c + m ≤ directSize) (h : overlaps c m a n = false) :
    (d.dirCopyIn a src sa n).dirRead c m = d.dirRead c m := by
  refine List.map_congr_left fun i hi => ?_
  have hlt := List.mem_range.mp hi
  have hout : ¬ (a ≤ c + i ∧ c + i < a + n) := by
    simp only [overlaps, Bool.and_eq_false_iff, decide_eq_false_iff_not] at h
    omega
  refine (memByte_foldl_memSet_apart (addr := fun k => hbmKey d.ilv (a + (k - sa))) (fun e he hkey => ?_) _).trans ?_
  · have hin := (List.mem_filter.mp he).2
    simp only [Bool.and_eq_true, decide_eq_true_eq] at hin
    have hplace := hbmKey_inj (by omega) (show c + i < directSize by omega) hkey
    omega
  · have haddr : hbmAddr d.ilv (hbmKey d.ilv (c + i)) = c + i := hbmAddr_hbmKey d.ilv (by omega)
    refine memByte_filter fun b => ?_
    show (!(decide (a ≤ hbmAddr d.ilv (hbmKey d.ilv (c + i))) && decide (hbmAddr d.ilv (hbmKey d.ilv (c + i)) < a + n))) = true
    rw [haddr]
    simp only [Bool.not_eq_true', Bool.and_eq_false_iff, decide_eq_false_iff_not]
    omega

end

/-- The bytes copied out of a canonical HBM. -/
theorem Blocks.memRead_dirCopyOut (b : Blocks) {a n : Nat} (dst : Mem) (da : Nat) (hwf : Memory.wf b.hbm = true)
    (hplaced : ∀ e ∈ b.hbm, hbmKey b.ilv (hbmAddr b.ilv e.1) = e.1) (hfits : a + n ≤ directSize) :
    memRead (b.dirCopyOut a n dst da) da n = b.dirRead a n := by
  refine List.map_congr_left fun i hi => ?_
  have hlt := List.mem_range.mp hi
  have haddr := hbmAddr_hbmKey b.ilv (a := a + i) (by omega)
  refine (memByte_foldl_memSet_placed (addr := fun k => da + (hbmAddr b.ilv k - a)) (k := hbmKey b.ilv (a + i))
    (((memWf_iff b.hbm).mp hwf).1.filter _) (by rw [haddr]; omega) (fun e he hkey => ?_) ?_).trans ?_
  · obtain ⟨hmem, hin⟩ := List.mem_filter.mp he
    simp only [Bool.and_eq_true, decide_eq_true_eq] at hin
    rw [← hplaced e hmem, show hbmAddr b.ilv e.1 = a + i by omega]
  · refine tabGet_absent _ _ _ fun e he hkey => ?_
    have hkept := (List.mem_filter.mp he).2
    simp only [Bool.not_eq_true', Bool.and_eq_false_iff, decide_eq_false_iff_not] at hkept
    omega
  · exact memByte_filter fun b' => by rw [haddr]; simpa using hlt

end Sys2Proof.Machine
end

section
/-! Transfers on the vault ports (R130, R131). -/

namespace Sys2Proof.Machine

/-- A port that is not as at reset exists. -/
theorem Dev.vport_exists {d : Dev} {n : Nat} (h : d.vport n ≠ {}) : n < d.mig.ports.length := by
  by_contra hlen
  exact h (List.getD_eq_default _ _ (Nat.not_lt.mp hlen))

/-- A running transfer has a port. -/
theorem Dev.port_of_running {d : Dev} {n : Nat} {x : Xfer} (h : (d.vport n).running = some x) : n < d.mig.ports.length :=
  Dev.vport_exists fun habsent => by
    rw [habsent] at h
    exact absurd h nofun

/-! A fetch begins. -/

/-- The directory entry of a tile whose fetch into frame f has begun (Table 5.5). -/
def Blocks.fetchingEntry (b : Blocks) (x : Xfer) (f : Nat) : Nat :=
  setBits (setBits (setBits (setBits (b.tdir x.tile) 29 7 f) 6 6 0) 5 5 (b2n x.stream)) 4 0 4

/-- The port runs the fetch x, and frame f is its tile's. -/
def Dev.runFetch (d : Dev) (n : Nat) (x : Xfer) (f : Nat) : Dev :=
  ({ d with mig := { d.mig with frames := tabSet 0 d.mig.frames f (x.tile + 1) } } : Dev).modVport n
    (fun p => { p with queue := p.queue.filter (· ≠ x), running := some x })

theorem Dev.runFetch_eq (d : Dev) (n : Nat) (x : Xfer) (f : Nat) : ∃ mig, d.runFetch n x f = { d with mig := mig } := ⟨_, rfl⟩

theorem Dev.vport_runFetch {d : Dev} {n : Nat} (hport : n < d.mig.ports.length) (x : Xfer) (f : Nat) :
    (d.runFetch n x f).vport n = { d.vport n with queue := (d.vport n).queue.filter (· ≠ x), running := some x } :=
  Dev.vport_modVport_same _ _ hport

theorem Dev.tileIn_runFetch (d : Dev) (n : Nat) (x : Xfer) (f : Nat) : (d.runFetch n x f).tileIn f = x.tile := by
  have hframe : tabGet 0 (d.runFetch n x f).mig.frames f = x.tile + 1 := tabGet_tabSet_same _ d.mig.frames f (x.tile + 1)
  rw [Blocks.tileIn, hframe, Nat.add_sub_cancel]

/-- The fetch x into frame f has begun on port n. -/
def Dev.fetchBegun (d : Dev) (n : Nat) (x : Xfer) (f : Nat) : Dev := (d.setTdir x.tile (d.fetchingEntry x f)).runFetch n x f

theorem Dev.startXfer_fetch {d : Dev} {n f : Nat} {x : Xfer} (hfetch : x.writeback = false) (haway : d.resident x.tile = false)
    (hidle : d.fetching x.tile = false) (hfree : (d.poolList x.stream).find? (fun f => !d.frameUsed f) = some f) :
    d.startXfer n x = (true, d.fetchBegun n x f) := by
  unfold Dev.startXfer Dev.takeFrame
  simp only [hfetch, haway, hidle, hfree, Bool.or_self, Bool.false_eq_true, if_false]
  rfl

theorem Blocks.fetchingEntry_lt (b : Blocks) (x : Xfer) (f : Nat) : b.fetchingEntry x f < 2 ^ 64 :=
  setBits_lt (setBits_lt (setBits_lt (setBits_lt (b.tdir_lt _) (by decide)) (by decide)) (by decide)) (by decide)

section
variable {s : State} {n : Nat} {x : Xfer}

theorem vaultTransfer_fetch {f : Nat} {ecc : Ecc} (hop : Safety.Operating s) (hn : n < 2) (hup : s.dev.vaultUp n = true)
    (hkept : s.dev.vaultLost n = false) (htrained : (s.dev.vport n).retraining = false) (hidle : (s.dev.vport n).running = none)
    (hqueue : (s.dev.vport n).queue = [x]) (hclean : s.dev.flag Reg.migCtrl 1 = false) (hcarats : 4 ≤ s.dev.holds (590 + n))
    (hfetch : x.writeback = false) (haway : s.dev.resident x.tile = false) (hunfetched : s.dev.fetching x.tile = false)
    (hfree : (s.dev.poolList x.stream).find? (fun f => !s.dev.frameUsed f) = some f) (hentry : Safety.EntryPlaced s x.tile) (hf : f < 2 ^ 23) :
    Safety.Gives (.vaultTransfer n ecc) s (fun t =>
      (t.dev.vport n).running = some x ∧ (t.dev.vport n).queue = [] ∧ t.dev.fetching x.tile = true ∧ t.dev.resident x.tile = false ∧
      t.dev.dirty x.tile = false ∧ t.dev.frameOf x.tile = f ∧ t.dev.tileIn f = x.tile ∧ t.dev.vault = s.dev.vault ∧ t.dev.loc = s.dev.loc ∧
      Safety.SameRegsBut Safety.hbmCounters s t) := by
  have hport : n < s.dev.mig.ports.length := Dev.vport_exists fun habsent => by
    rw [habsent] at hqueue
    exact absurd hqueue nofun
  obtain ⟨_, _, _, hset⟩ := s.dev.hbmFrame_setTdir x.tile (s.dev.fetchingEntry x f)
  have hvport : (s.dev.fetchBegun n x f).vport n =
      { s.dev.vport n with queue := (s.dev.vport n).queue.filter (· ≠ x), running := some x } := by
    rw [Dev.fetchBegun, Dev.vport_runFetch (by rw [hset]; exact hport), Blocks.vport, hset, Blocks.vport]
  have hrunning : ((s.dev.fetchBegun n x f).vport n).running = some x := by rw [hvport]
  have hdev : s.dev.vaultTransfer n ecc = s.dev.fetchBegun n x f := by
    have hguard : (decide (2 ≤ n) || !s.dev.vaultUp n || s.dev.vaultLost n || (s.dev.vport n).retraining || (s.dev.vport n).running.isSome) = false := by
      rw [hup, hkept, htrained, hidle, decide_eq_false (by omega)]
      rfl
    have hsame : s.dev.clean = s.dev := by rw [Dev.clean, hclean]; rfl
    unfold Dev.vaultTransfer
    simp only [hguard, Bool.false_eq_true, if_false, hsame, if_neg (Nat.not_lt.mpr hcarats), hqueue]
    have hstart : s.dev.startFirst n (sortBy (fun a b : Xfer => decide (a.cls < b.cls)) [x]) = s.dev.fetchBegun n x f := by
      show s.dev.startFirst n [x] = _
      rw [Dev.startFirst, Dev.startXfer_fetch hfetch haway hunfetched hfree]
    rw [hstart, hrunning]
    simp only [hfetch, Bool.not_false, if_true]
  have hexec : exec (.vaultTransfer n ecc) s = .next (s.onDev (s.dev.fetchBegun n x f)) :=
    congrArg (fun d => Host.Outcome.next (s.onDev d)) ((Dev.live_running s.dev _ hop).trans hdev)
  have hregs (off : Nat) (hoff : off ∉ Safety.hbmCounters) := s.dev.rd_setTdir (s.dev.fetchingEntry x f) hentry hoff
  have hwritten := s.dev.tdir_setTdir_same _ hentry (s.dev.fetchingEntry_lt x f)
  have htile := Dev.tileIn_runFetch (s.dev.setTdir x.tile (s.dev.fetchingEntry x f)) n x f
  obtain ⟨_, heq⟩ := Dev.runFetch_eq (s.dev.setTdir x.tile (s.dev.fetchingEntry x f)) n x f
  rw [Dev.fetchBegun] at hvport hrunning hexec
  generalize s.dev.setTdir x.tile (s.dev.fetchingEntry x f) = written at *
  have htdir : (written.runFetch n x f).tdir x.tile = s.dev.fetchingEntry x f := by
    rw [heq, ← hwritten]
    rfl
  generalize written.runFetch n x f = e at *
  refine ⟨_, hexec, hrunning, ?_, ?_, ?_, ?_, ?_, htile, ?_, ?_, fun off hoff => ?_⟩
  · show (e.vport n).queue = []
    rw [hvport, hqueue]
    simp
  · show bitOf (e.tdir x.tile) 2 = true
    rw [htdir, Blocks.fetchingEntry, bitOf_setBits, if_pos (by omega)]
    rfl
  · show bitOf (e.tdir x.tile) 0 = false
    rw [htdir, Blocks.fetchingEntry, bitOf_setBits, if_pos (by omega)]
    rfl
  · show bitOf (e.tdir x.tile) 1 = false
    rw [htdir, Blocks.fetchingEntry, bitOf_setBits, if_pos (by omega)]
    rfl
  · show bitsOf (e.tdir x.tile) 29 7 = f
    rw [htdir, Blocks.fetchingEntry, bitsOf_setBits_apart (by omega), bitsOf_setBits_apart (by omega), bitsOf_setBits_apart (by omega),
      bitsOf_setBits_same, Nat.mod_eq_of_lt hf]
  · show e.vault = s.dev.vault
    rw [heq, hset]
  · show e.loc = s.dev.loc
    rw [heq, hset]
  · show e.rd off = s.dev.rd off
    rw [heq]
    exact hregs off hoff

end

/-! A fetch ends. -/

/-- The directory entry of tile i and frame f lie in the direct part, apart from each other. -/
structure Blocks.FrameApart (b : Blocks) (i f : Nat) : Prop where
  entry : b.rd Reg.migTdirBase + 8 * i + 8 ≤ directSize
  fits : f * tileBytes + tileBytes ≤ directSize
  apart : overlaps (b.rd Reg.migTdirBase + 8 * i) 8 (f * tileBytes) tileBytes = false

/-- The tile's bytes at a place of the Vault have been copied into frame f. -/
def Dev.tileCopied (d : Dev) (f place : Nat) : Dev :=
  (d.dirCopyIn (f * tileBytes) d.vault place tileBytes).countHbm (f * tileBytes) tileBytes true none

theorem Dev.directFrame_tileCopied (d : Dev) (f place : Nat) : d.DirectFrame (d.tileCopied f place) :=
  Dev.DirectFrame.trans ⟨⟨_, _, _, rfl⟩, fun _ _ => rfl⟩ (Dev.directFrame_countHbm _ _ _ _ _)

theorem Dev.dirRead_tileCopied_eq (d : Dev) (f place c n : Nat) :
    (d.tileCopied f place).dirRead c n = (d.dirCopyIn (f * tileBytes) d.vault place tileBytes).dirRead c n :=
  Blocks.dirRead_congr (Dev.directFrame_countHbm _ _ _ _ _).ilv (Dev.countHbm_hbm _ _ _ _ _) c n

section
variable {d : Dev} {i f : Nat} (hapart : d.FrameApart i f)
include hapart

theorem Dev.tdir_tileCopied (place : Nat) : (d.tileCopied f place).tdir i = d.tdir i := by
  have hread := (d.dirRead_tileCopied_eq f place (d.rd Reg.migTdirBase + 8 * i) 8).trans
    (d.dirRead_dirCopyIn_apart d.vault place hapart.fits hapart.entry hapart.apart)
  rw [Blocks.tdir, (d.directFrame_tileCopied f place).2 Reg.migTdirBase (by decide)]
  exact congrArg leNat hread

/-- A write of the entry leaves the frame's bytes. -/
theorem Dev.dirRead_setTdir_frame (v : Nat) : (d.setTdir i v).dirRead (f * tileBytes) tileBytes = d.dirRead (f * tileBytes) tileBytes := by
  obtain ⟨hentry, hfits, hoverlap⟩ := hapart
  have hilv : (d.setTdir i v).ilv = d.ilv := by rw [Blocks.ilv, Blocks.flag, d.rd_setTdir v hentry (by decide), Blocks.ilv, Blocks.flag]
  have hlength := length_toLe 8 v
  have hside : d.rd Reg.migTdirBase + 8 * i + 8 ≤ f * tileBytes ∨ f * tileBytes + tileBytes ≤ d.rd Reg.migTdirBase + 8 * i := by
    have hpos := tileBytes_pos
    simp only [overlaps, Bool.and_eq_false_iff, decide_eq_false_iff_not] at hoverlap
    omega
  rw [Blocks.dirRead_congr (hilv.trans (d.ilv_dirWrite _ _).symm) (d.putEntry_hbm _ _),
    d.dirRead_dirWrite_apart _ _ (by rwa [hlength]) hfits (by rwa [hlength])]

end

/-- The entry of a tile whose fetch has ended: resident, referenced, no longer fetching. -/
def Blocks.landedEntry (b : Blocks) (i : Nat) : Nat := setBits (setBits (b.tdir i) 6 6 1) 2 0 1

theorem Blocks.landedEntry_lt (b : Blocks) (i : Nat) : b.landedEntry i < 2 ^ 64 :=
  setBits_lt (setBits_lt (b.tdir_lt _) (by decide)) (by decide)

/-- The bytes of tile i have come into frame f and its entry shows it. -/
def Dev.tileLanded (d : Dev) (i f place : Nat) : Dev := (d.tileCopied f place).setTdir i ((d.tileCopied f place).landedEntry i)

/-- Device e is device d after tile i has come into frame f from a place of the Vault. -/
structure Dev.Landed (d e : Dev) (i f place : Nat) : Prop where
  eq : ∃ hbm regs pwr mig, e = { d with hbm := hbm, regs := regs, pwr := pwr, mig := mig } ∧ mig.stalls = d.mig.stalls ∧ mig.ports = d.mig.ports
  tdir : e.tdir i = d.landedEntry i
  bytes : e.dirRead (f * tileBytes) tileBytes = memRead d.vault place tileBytes

theorem Dev.landed_tileLanded {d : Dev} {i f : Nat} (hapart : d.FrameApart i f) (hwf : Memory.wf d.vault = true) (place : Nat) :
    d.Landed (d.tileLanded i f place) i f place := by
  have hcopied := d.directFrame_tileCopied f place
  have hbytes := (d.dirRead_tileCopied_eq f place (f * tileBytes) tileBytes).trans (d.dirRead_dirCopyIn d.vault place hwf hapart.fits)
  have hentry : (d.tileCopied f place).landedEntry i = d.landedEntry i := by
    rw [Blocks.landedEntry, Dev.tdir_tileCopied hapart, Blocks.landedEntry]
  have hbase := hcopied.2 Reg.migTdirBase (by decide)
  have hlt := d.landedEntry_lt i
  rw [Dev.tileLanded, hentry]
  generalize d.tileCopied f place = e at hcopied hbytes hbase
  generalize hv : d.landedEntry i = v at hlt ⊢
  have hplaced : e.FrameApart i f := ⟨by rw [hbase]; exact hapart.entry, hapart.fits, by rw [hbase]; exact hapart.apart⟩
  obtain ⟨_, _, _, heq⟩ := hcopied.1.trans (e.hbmFrame_setTdir i v)
  exact ⟨⟨_, _, _, _, heq, rfl, rfl⟩, (e.tdir_setTdir_same v hplaced.entry hlt).trans hv.symm, (Dev.dirRead_setTdir_frame hplaced v).trans hbytes⟩

/-- The port is idle. -/
def Dev.idlePort (d : Dev) (n : Nat) : Dev := d.modVport n (fun v => { v with running := none })

/-- Counters and the list of predicted tiles change nothing of it. -/
theorem Dev.Landed.counted {d e : Dev} {i f place : Nat} (h : d.Landed e i f place) {regs : Tab W64} {mig : Mig} (hstalls : mig.stalls = e.mig.stalls)
    (hports : mig.ports = e.mig.ports) (hrd : ∀ off, off < 0x03C00100 → ({ e with regs := regs, mig := mig } : Dev).rd off = e.rd off) :
    d.Landed { e with regs := regs, mig := mig } i f place := by
  have hctrl := hrd Reg.migCtrl (by decide)
  have hilv : ({ e with regs := regs, mig := mig } : Dev).ilv = e.ilv := by rw [Blocks.ilv, Blocks.flag, hctrl, Blocks.ilv, Blocks.flag]
  refine ⟨?_, (Blocks.tdir_congr (hrd _ (by decide)) hctrl rfl i).trans h.tdir, (Blocks.dirRead_congr hilv rfl _ _).trans h.bytes⟩
  obtain ⟨_, _, _, _, rfl, hstalls', hports'⟩ := h.eq
  exact ⟨_, _, _, _, rfl, hstalls.trans hstalls', hports.trans hports'⟩

@[simp] theorem Dev.rd_idlePort (d : Dev) (n off : Nat) : (d.idlePort n).rd off = d.rd off := rfl

theorem Dev.frameApart_idlePort {d : Dev} {i f : Nat} (h : d.FrameApart i f) (n : Nat) : (d.idlePort n).FrameApart i f :=
  ⟨by rw [Dev.rd_idlePort]; exact h.entry, h.fits, by rw [Dev.rd_idlePort]; exact h.apart⟩

/-- A fetch that has ended is counted; a tile that was predicted is remembered. -/
def Dev.fetchCounted (d : Dev) (x : Xfer) : Dev :=
  let d := d.bump (if x.cls = 0 then Reg.migCntFetchDemand else if x.cls = 1 then Reg.migCntFetchStage else Reg.migCntFetchPred) 1
  if x.predicted then { d with mig := { d.mig with predicted := d.mig.predicted ++ [x.tile] } } else d

theorem Dev.fetchDone_eq (d : Dev) (n : Nat) (x : Xfer) : d.fetchDone n x =
    ((d.idlePort n).tileLanded x.tile (d.frameOf x.tile) ((d.vaultOf x.tile).1 * 2 ^ 42 + (d.vaultOf x.tile).2)).fetchCounted x := by
  simp only [Dev.fetchDone, Dev.idlePort, Dev.tileLanded, Dev.tileCopied, Blocks.landedEntry, Dev.fetchCounted]

theorem Dev.Landed.fetchCounted {d e : Dev} {i f place : Nat} (h : d.Landed e i f place) (x : Xfer) : d.Landed (e.fetchCounted x) i f place := by
  have hoff : ∃ off, 0x03C00100 ≤ off ∧
      (if x.cls = 0 then Reg.migCntFetchDemand else if x.cls = 1 then Reg.migCntFetchStage else Reg.migCntFetchPred) = off := by
    refine ⟨_, ?_, rfl⟩
    split_ifs <;> decide
  obtain ⟨off, hoff, hcounter⟩ := hoff
  have hrd : ∀ off', off' < 0x03C00100 → (e.bump off 1).rd off' = e.rd off' := fun off' hlt => e.rd_bump_other 1 (by omega)
  unfold Dev.fetchCounted
  rw [hcounter]
  dsimp only
  split
  · exact h.counted rfl rfl hrd
  · exact h.counted rfl rfl hrd

theorem Dev.landed_fetchDone {d : Dev} {x : Xfer} (hapart : d.FrameApart x.tile (d.frameOf x.tile)) (hwf : Memory.wf d.vault = true) (n : Nat) :
    (d.idlePort n).Landed (d.fetchDone n x) x.tile (d.frameOf x.tile) ((d.vaultOf x.tile).1 * 2 ^ 42 + (d.vaultOf x.tile).2) := by
  have hlanded := Dev.landed_tileLanded (Dev.frameApart_idlePort hapart n) hwf ((d.vaultOf x.tile).1 * 2 ^ 42 + (d.vaultOf x.tile).2)
  rw [Dev.fetchDone_eq]
  exact hlanded.fetchCounted x

theorem Dev.Landed.countEcc {d e : Dev} {i f place : Nat} (h : d.Landed e i f place) (a corr : Nat) : d.Landed (e.countEcc a corr) i f place := by
  unfold Dev.countEcc
  split
  · exact h
  · exact h.counted rfl rfl fun off hoff => e.rd_bump_other corr (by simp only [Reg.hbmCntCorr]; omega)

/-- Nothing waits for the tile that has come. -/
theorem Dev.serveTile_unwaited {d : Dev} (h : d.Unwaited) (t : Nat) (ecc : Ecc) : d.overScore (fun d p i => d.serveTile p i t ecc) = d := by
  refine d.overScore_fixed _ fun p g i hprog hi => ?_
  cases hpend : i.pend with
  | tiles ts => exact absurd hpend (h.2 p g i ts hprog hi)
  | _ => simp only [Dev.serveTile, hprog, hpend]

/-- Nothing waits for the tile that does not come. -/
theorem Dev.tileFault_unwaited {d : Dev} (h : d.Unwaited) (code t : Nat) : d.overScore (fun d p i => d.tileFault code t p i) = d := by
  refine d.overScore_fixed _ fun p g i hprog hi => ?_
  cases hpend : i.pend with
  | tiles ts => exact absurd hpend (h.2 p g i ts hprog hi)
  | _ => simp only [Dev.tileFault, hprog, hpend]

section
variable {s : State} {n : Nat} {x : Xfer}

theorem vaultFetchComplete_resident (hop : Safety.Operating s) (hn : n < 2) (hrunning : (s.dev.vport n).running = some x)
    (hfetch : x.writeback = false) (hwaiters : Safety.NoTileWaiters s) (hplaced : Safety.FramePlaced s x.tile (s.dev.frameOf x.tile))
    (hwf : Memory.wf s.dev.vault = true) (hgood : x.tile ∉ s.dev.mig.poisoned) (ecc : Ecc) :
    Safety.Gives (.vaultFetchComplete n false ecc) s (fun t =>
      t.dev.resident x.tile = true ∧ t.dev.fetching x.tile = false ∧ t.dev.dirty x.tile = false ∧ t.dev.frameOf x.tile = s.dev.frameOf x.tile ∧
      t.dev.dirRead (s.dev.frameOf x.tile * tileBytes) tileBytes =
        memRead s.dev.vault ((s.dev.vaultOf x.tile).1 * 2 ^ 42 + (s.dev.vaultOf x.tile).2) tileBytes ∧
      (t.dev.vport n).running = none ∧ t.dev.vault = s.dev.vault ∧ t.dev.loc = s.dev.loc ∧ t.dev.jobs = s.dev.jobs) := by
  have hport := Dev.port_of_running hrunning
  obtain ⟨hentry, hfits, hoverlap⟩ := hplaced
  have hlanded := (Dev.landed_fetchDone (x := x) ⟨hentry, hfits, hoverlap⟩ hwf n).countEcc (tieredBase + x.tile * tileBytes) ecc.corrHbm
  have hdev : (s.dev.vaultFetchComplete n false ecc).wake = (s.dev.fetchDone n x).countEcc (tieredBase + x.tile * tileBytes) ecc.corrHbm := by
    have hguard : (false || s.dev.mig.poisoned.contains x.tile) = false := by simpa using hgood
    unfold Dev.vaultFetchComplete
    simp only [if_neg (Nat.not_le.mpr hn), hrunning, hfetch, hguard, Bool.false_eq_true, if_false]
    generalize (s.dev.fetchDone n x).countEcc (tieredBase + x.tile * tileBytes) ecc.corrHbm = e at hlanded ⊢
    obtain ⟨_, _, _, _, heq, hstalls, -⟩ := hlanded.eq
    have hunwaited : e.Unwaited := (Dev.unwaited_of_noTileWaiters hwaiters).congr (by rw [heq]; exact hstalls) (by rw [heq]; rfl)
    rw [e.serveStalls_nil hunwaited.1, Dev.serveTile_unwaited hunwaited, e.wake_nil hunwaited.1]
  have hexec : exec (.vaultFetchComplete n false ecc) s =
      .next (s.onDev ((s.dev.fetchDone n x).countEcc (tieredBase + x.tile * tileBytes) ecc.corrHbm)) :=
    congrArg (fun d => Host.Outcome.next (s.onDev d)) ((Dev.live_running s.dev _ hop).trans hdev)
  generalize (s.dev.fetchDone n x).countEcc (tieredBase + x.tile * tileBytes) ecc.corrHbm = e at hexec hlanded
  obtain ⟨_, _, _, mig, heq, -, hports⟩ := hlanded.eq
  have htdir : e.tdir x.tile = (s.dev.idlePort n).landedEntry x.tile := hlanded.tdir
  have hvport : (e.vport n).running = none := by
    have hidle : e.vport n = (s.dev.idlePort n).vport n := by rw [Blocks.vport, heq, Blocks.vport, hports]
    rw [hidle, Dev.idlePort, Dev.vport_modVport_same _ _ hport]
  refine ⟨_, hexec, ?_, ?_, ?_, ?_, hlanded.bytes, hvport, ?_, ?_, ?_⟩
  · show bitOf (e.tdir x.tile) 0 = true
    rw [htdir, Blocks.landedEntry, bitOf_setBits, if_pos (by omega)]
    rfl
  · show bitOf (e.tdir x.tile) 2 = false
    rw [htdir, Blocks.landedEntry, bitOf_setBits, if_pos (by omega)]
    rfl
  · show bitOf (e.tdir x.tile) 1 = false
    rw [htdir, Blocks.landedEntry, bitOf_setBits, if_pos (by omega)]
    rfl
  · show bitsOf (e.tdir x.tile) 29 7 = bitsOf (s.dev.tdir x.tile) 29 7
    rw [htdir, Blocks.landedEntry, bitsOf_setBits_apart (by omega), bitsOf_setBits_apart (by omega)]
    rfl
  · show e.vault = s.dev.vault
    rw [heq]
    rfl
  · show e.loc = s.dev.loc
    rw [heq]
    rfl
  · show e.jobs = s.dev.jobs
    rw [heq]
    rfl

end

end Sys2Proof.Machine
end

section
/-! A fetch that read poison, and write-backs (R130, R131). -/

namespace Sys2Proof.Machine

/-! A frame is freed. -/

theorem Dev.freeFrame_eq (d : Dev) (f : Nat) : ∃ hbm regs pwr mig,
    d.freeFrame f = { d with hbm := hbm, regs := regs, pwr := pwr, mig := mig } ∧ mig.ports = d.mig.ports := by
  obtain ⟨_, _, _, heq⟩ := d.hbmFrame_setTdir (d.tileIn f) (setBits (d.tdir (d.tileIn f)) 29 0 0)
  rw [Dev.freeFrame, heq]
  exact ⟨_, _, _, _, rfl, rfl⟩

theorem Dev.frameUsed_freeFrame (d : Dev) (f : Nat) : (d.freeFrame f).frameUsed f = false := by
  have herased : tabGet 0 (d.freeFrame f).mig.frames f = 0 := by
    rw [Dev.freeFrame]
    exact tabGet_tabErase_same 0 _ f
  rw [Blocks.frameUsed, herased]
  rfl

section
variable {d : Dev} {i f : Nat} (htile : d.tileIn f = i) (hentry : d.EntryIn i)
include htile hentry

theorem Dev.tdir_freeFrame_own : (d.freeFrame f).tdir i = setBits (d.tdir i) 29 0 0 := by
  rw [Dev.tdir_freeFrame, htile, d.tdir_setTdir_same _ hentry (setBits_lt (d.tdir_lt i) (by decide))]

theorem Dev.rd_freeFrame_own {off : Nat} (hoff : off ∉ Safety.hbmCounters) : (d.freeFrame f).rd off = d.rd off := by
  rw [Dev.rd_freeFrame, htile, d.rd_setTdir _ hentry hoff]

end

/-- An idle port, and a counter below the controllers' or of a vault port. -/
theorem Dev.tdir_bump (d : Dev) {off : Nat} (n i : Nat) (hbase : Reg.migTdirBase ≠ off) (hctrl : Reg.migCtrl ≠ off) :
    (d.bump off n).tdir i = d.tdir i := Blocks.tdir_congr (d.rd_bump_other n hbase) (d.rd_bump_other n hctrl) rfl i

theorem Dev.vport_idlePort {d : Dev} {n : Nat} (h : n < d.mig.ports.length) : ((d.idlePort n).vport n).running = none := by
  rw [Dev.idlePort, Dev.vport_modVport_same _ _ h]

@[simp] theorem Dev.tdir_idlePort (d : Dev) (n i : Nat) : (d.idlePort n).tdir i = d.tdir i := Blocks.tdir_congr rfl rfl rfl i

section
variable {s : State} {n : Nat} {x : Xfer}

theorem vaultFetchComplete_poisoned (hop : Safety.Operating s) (hn : n < 2) (hrunning : (s.dev.vport n).running = some x)
    (hfetch : x.writeback = false) (hwaiters : Safety.NoTileWaiters s) (hentry : Safety.EntryPlaced s x.tile)
    (htile : s.dev.tileIn (s.dev.frameOf x.tile) = x.tile) (ecc : Ecc) : Safety.Gives (.vaultFetchComplete n true ecc) s (fun t =>
      t.dev.resident x.tile = false ∧ t.dev.fetching x.tile = false ∧ t.dev.frameUsed (s.dev.frameOf x.tile) = false ∧
      (t.dev.vport n).running = none ∧ t.dev.rd (Reg.vltPortPoison n) = (s.dev.rd (Reg.vltPortPoison n) + 1) % 2 ^ 64 ∧
      Safety.SameRegsBut (Reg.vltPortPoison n :: Safety.hbmCounters) s t ∧ t.dev.vault = s.dev.vault ∧ t.dev.loc = s.dev.loc ∧
      t.dev.jobs = s.dev.jobs) := by
  have hport := Dev.port_of_running hrunning
  have hbase : Reg.migTdirBase ≠ Reg.vltPortPoison n := by simp only [Reg.migTdirBase, Reg.vltPortPoison]; omega
  have hctrl : Reg.migCtrl ≠ Reg.vltPortPoison n := by simp only [Reg.migCtrl, Reg.vltPortPoison]; omega
  have hpoison : Reg.vltPortPoison n ∉ Safety.hbmCounters := by
    obtain rfl | rfl : n = 0 ∨ n = 1 := by omega
    all_goals decide
  have htdir := (Dev.tdir_bump (s.dev.idlePort n) 1 x.tile hbase hctrl).trans (s.dev.tdir_idlePort n x.tile)
  have hrd : ∀ off, off ≠ Reg.vltPortPoison n → ((s.dev.idlePort n).bump (Reg.vltPortPoison n) 1).rd off = s.dev.rd off :=
    fun off hoff => ((s.dev.idlePort n).rd_bump_other 1 hoff).trans (s.dev.rd_idlePort n off)
  have hcount : ((s.dev.idlePort n).bump (Reg.vltPortPoison n) 1).rd (Reg.vltPortPoison n) = (s.dev.rd (Reg.vltPortPoison n) + 1) % 2 ^ 64 := by
    rw [Dev.rd_bump_same, Dev.rd_idlePort]
  have hframe : s.dev.fetchPoisoned n x = ((s.dev.idlePort n).bump (Reg.vltPortPoison n) 1).freeFrame (s.dev.frameOf x.tile) := by
    show ((s.dev.idlePort n).bump (Reg.vltPortPoison n) 1).freeFrame (((s.dev.idlePort n).bump (Reg.vltPortPoison n) 1).frameOf x.tile) = _
    rw [Blocks.frameOf, htdir, Blocks.frameOf]
  have hfree : ((s.dev.idlePort n).bump (Reg.vltPortPoison n) 1).VaultFrame (s.dev.fetchPoisoned n x) := hframe ▸ Dev.vaultFrame_freeFrame _ _
  have hidle : s.dev.VaultFrame ((s.dev.idlePort n).bump (Reg.vltPortPoison n) 1) := (s.dev.vaultFrame_modVport _ _).trans (Dev.vaultFrame_wr _ _ _)
  have hdev : (s.dev.vaultFetchComplete n true ecc).wake = s.dev.fetchPoisoned n x := by
    have hunwaited := (hidle.trans hfree).unwaited (Dev.unwaited_of_noTileWaiters hwaiters)
    unfold Dev.vaultFetchComplete
    simp only [if_neg (Nat.not_le.mpr hn), hrunning, hfetch, Bool.false_eq_true, if_false, Bool.true_or, if_true]
    rw [Dev.tileFault_unwaited hunwaited, Dev.partFaults_nil _ _ _ hunwaited.1, Dev.wake_nil _ hunwaited.1]
  have hexec : exec (.vaultFetchComplete n true ecc) s = .next (s.onDev (s.dev.fetchPoisoned n x)) :=
    congrArg (fun d => Host.Outcome.next (s.onDev d)) ((Dev.live_running s.dev _ hop).trans hdev)
  have hvport : (((s.dev.idlePort n).bump (Reg.vltPortPoison n) 1).vport n).running = none := Dev.vport_idlePort hport
  have houter : ((s.dev.idlePort n).bump (Reg.vltPortPoison n) 1).vault = s.dev.vault ∧
    ((s.dev.idlePort n).bump (Reg.vltPortPoison n) 1).loc = s.dev.loc ∧
    ((s.dev.idlePort n).bump (Reg.vltPortPoison n) 1).jobs = s.dev.jobs := ⟨rfl, rfl, rfl⟩
  have htile' : ((s.dev.idlePort n).bump (Reg.vltPortPoison n) 1).tileIn (s.dev.frameOf x.tile) = x.tile := htile
  rw [hframe] at hexec
  generalize (s.dev.idlePort n).bump (Reg.vltPortPoison n) 1 = d at *
  have hentry' : d.EntryIn x.tile := by rw [Blocks.EntryIn, hrd _ hbase]; exact hentry
  have hown := Dev.tdir_freeFrame_own htile' hentry'
  have hregs (off : Nat) (hoff : off ∉ Safety.hbmCounters) := Dev.rd_freeFrame_own htile' hentry' hoff
  have hused := d.frameUsed_freeFrame (s.dev.frameOf x.tile)
  obtain ⟨_, _, _, _, heq, hports⟩ := d.freeFrame_eq (s.dev.frameOf x.tile)
  obtain ⟨hvault, hloc, hjobs⟩ := houter
  generalize d.freeFrame (s.dev.frameOf x.tile) = e at *
  refine ⟨_, hexec, ?_, ?_, hused, ?_, ?_, fun off hoff => ?_, ?_, ?_, ?_⟩
  · show bitOf (e.tdir x.tile) 0 = false
    rw [hown, bitOf_setBits, if_pos (by omega)]
    rfl
  · show bitOf (e.tdir x.tile) 2 = false
    rw [hown, bitOf_setBits, if_pos (by omega)]
    rfl
  · show (e.vport n).running = none
    rw [← hvport, Blocks.vport, heq, Blocks.vport, hports]
  · exact (hregs _ hpoison).trans hcount
  · exact (hregs off (List.not_mem_of_not_mem_cons hoff)).trans (hrd off (List.ne_of_not_mem_cons hoff))
  · show e.vault = s.dev.vault
    rw [heq, ← hvault]
  · show e.loc = s.dev.loc
    rw [heq, ← hloc]
  · show e.jobs = s.dev.jobs
    rw [heq, ← hjobs]

end

/-! A write-back ends. -/

/-- Frame f has been copied to a place of the Vault, and the entry of tile i no longer shows the write-back. -/
def Dev.tileReturned (d : Dev) (i f place : Nat) : Dev :=
  (({ d with vault := d.dirCopyOut (f * tileBytes) tileBytes d.vault place } : Dev).countHbm (f * tileBytes) tileBytes false none).tdirBit i 3 0

/-- The entry after a write-back: an eviction or an unpinned stage that waited for it frees the frame. -/
def Dev.freedIfWaited (d : Dev) (i f : Nat) : Dev :=
  if bitOf (d.tdir i) 4 then (if !d.dirty i && d.pins i = 0 then d.freeFrame f else d.tdirBit i 4 0) else d

theorem Dev.writebackDone_eq {d : Dev} {n : Nat} {x : Xfer} (hrunning : (d.vport n).running = some x) (hback : x.writeback = true) :
    d.writebackDone n = (((d.idlePort n).bump Reg.migCntWriteback 1).tileReturned x.tile (d.frameOf x.tile)
      ((d.vaultOf x.tile).1 * 2 ^ 42 + (d.vaultOf x.tile).2)).freedIfWaited x.tile (d.frameOf x.tile) := by
  unfold Dev.writebackDone Dev.tileReturned Dev.freedIfWaited Dev.idlePort
  rw [hrunning]
  dsimp only
  rw [hback, Bool.not_true, if_neg Bool.false_ne_true]

/-- Device e is device d after tile i has been written back from frame f to a place of the Vault. -/
structure Dev.Returned (d e : Dev) (i f place : Nat) : Prop where
  eq : ∃ hbm regs pwr vault, e = { d with hbm := hbm, regs := regs, pwr := pwr, vault := vault }
  tdir : e.tdir i = setBits (d.tdir i) 3 3 0
  bytes : memRead e.vault place tileBytes = d.dirRead (f * tileBytes) tileBytes
  rd : ∀ off, off ∉ Safety.hbmCounters → e.rd off = d.rd off

theorem Dev.returned_tileReturned {d : Dev} {i f : Nat} (hwf : Memory.wf d.hbm = true)
    (hplaced : ∀ e ∈ d.hbm, hbmKey d.ilv (hbmAddr d.ilv e.1) = e.1) (hentry : d.EntryIn i) (hfits : f * tileBytes + tileBytes ≤ directSize)
    (place : Nat) : d.Returned (d.tileReturned i f place) i f place := by
  have hbytes := d.memRead_dirCopyOut d.vault place hwf hplaced hfits
  unfold Dev.tileReturned
  generalize hvault : d.dirCopyOut (f * tileBytes) tileBytes d.vault place = vault at hbytes
  have hcount := ({ d with vault := vault } : Dev).directFrame_countHbm (f * tileBytes) tileBytes false none
  have hhbm := ({ d with vault := vault } : Dev).countHbm_hbm (f * tileBytes) tileBytes false none
  generalize ({ d with vault := vault } : Dev).countHbm (f * tileBytes) tileBytes false none = e at hcount hhbm
  have hrd : ∀ off, off ∉ Safety.hbmCounters → e.rd off = d.rd off := hcount.2
  have htdir : e.tdir i = d.tdir i := Blocks.tdir_congr (hrd _ (by decide)) (hrd _ (by decide)) hhbm i
  have hentry' : e.EntryIn i := by rw [Blocks.EntryIn, hrd _ (by decide)]; exact hentry
  have hset := e.tdir_tdirBit hentry' 3 0 (by decide)
  have hregs (off : Nat) (hoff : off ∉ Safety.hbmCounters) : (e.tdirBit i 3 0).rd off = e.rd off := e.rd_setTdir _ hentry' hoff
  have hframe : ({ d with vault := vault } : Dev).HbmFrame (e.tdirBit i 3 0) := hcount.1.trans (e.hbmFrame_setTdir i _)
  generalize e.tdirBit i 3 0 = e' at *
  obtain ⟨_, _, _, heq⟩ := hframe
  refine ⟨⟨_, _, _, vault, heq⟩, by rw [hset, htdir], ?_, fun off hoff => (hregs off hoff).trans (hrd off hoff)⟩
  rw [heq]
  exact hbytes

/-- Device d is the device of s after the write-back x of port n, before a frame that waited for it is freed. -/
structure WrittenBack (s : State) (n : Nat) (x : Xfer) (d : Dev) : Prop where
  idle : (d.vport n).running = none
  counted : d.rd Reg.migCntWriteback = (s.dev.rd Reg.migCntWriteback + 1) % 2 ^ 64
  entry : d.EntryIn x.tile
  frames : d.mig.frames = s.dev.mig.frames
  tdir : d.tdir x.tile = setBits (s.dev.tdir x.tile) 3 3 0
  loc : d.loc = s.dev.loc
  jobs : d.jobs = s.dev.jobs
  bytes : memRead d.vault ((s.dev.vaultOf x.tile).1 * 2 ^ 42 + (s.dev.vaultOf x.tile).2) tileBytes =
    s.dev.dirRead (s.dev.frameOf x.tile * tileBytes) tileBytes

section
variable {s : State} {n : Nat} {x : Xfer} (hop : Safety.Operating s) (hn : n < 2) (hrunning : (s.dev.vport n).running = some x)
  (hback : x.writeback = true) (hplaced : Safety.HbmPlaced s) (hentry : Safety.EntryPlaced s x.tile)
  (hfits : s.dev.frameOf x.tile * tileBytes + tileBytes ≤ directSize)
include hop hn hrunning hback hplaced hentry hfits

theorem exec_writebackComplete : ∃ d : Dev, WrittenBack s n x d ∧
    exec (.vaultWritebackComplete n) s = .next (s.onDev (d.freedIfWaited x.tile (s.dev.frameOf x.tile))) := by
  have hport := Dev.port_of_running hrunning
  have hexec : exec (.vaultWritebackComplete n) s = _ := congrArg (fun d => Host.Outcome.next (s.onDev d))
    ((Dev.live_running s.dev _ hop).trans ((if_pos hn).trans (Dev.writebackDone_eq hrunning hback)))
  have hrd : ∀ off, off ≠ Reg.migCntWriteback → ((s.dev.idlePort n).bump Reg.migCntWriteback 1).rd off = s.dev.rd off :=
    fun off hoff => ((s.dev.idlePort n).rd_bump_other 1 hoff).trans (s.dev.rd_idlePort n off)
  have hcount : ((s.dev.idlePort n).bump Reg.migCntWriteback 1).rd Reg.migCntWriteback = (s.dev.rd Reg.migCntWriteback + 1) % 2 ^ 64 := by
    rw [Dev.rd_bump_same, Dev.rd_idlePort]
  have htdir := (Dev.tdir_bump (s.dev.idlePort n) (off := Reg.migCntWriteback) 1 x.tile (by decide) (by decide)).trans (s.dev.tdir_idlePort n x.tile)
  have hvport : (((s.dev.idlePort n).bump Reg.migCntWriteback 1).vport n).running = none := Dev.vport_idlePort hport
  have hsame : ((s.dev.idlePort n).bump Reg.migCntWriteback 1).hbm = s.dev.hbm ∧ ((s.dev.idlePort n).bump Reg.migCntWriteback 1).loc = s.dev.loc ∧
    ((s.dev.idlePort n).bump Reg.migCntWriteback 1).jobs = s.dev.jobs ∧
    ((s.dev.idlePort n).bump Reg.migCntWriteback 1).mig.frames = s.dev.mig.frames := ⟨rfl, rfl, rfl, rfl⟩
  generalize (s.dev.idlePort n).bump Reg.migCntWriteback 1 = d at *
  obtain ⟨hhbm, hloc, hjobs, hframes⟩ := hsame
  have hilv : d.ilv = s.dev.ilv := by rw [Blocks.ilv, Blocks.flag, hrd _ (by decide), Blocks.ilv, Blocks.flag]
  have hreturned := Dev.returned_tileReturned (d := d) (i := x.tile) (by rw [hhbm]; exact hplaced.1)
    (by rw [hhbm, hilv]; exact fun e he => (hplaced.2 e he).1) (by rw [Blocks.EntryIn, hrd _ (by decide)]; exact hentry) hfits
    ((s.dev.vaultOf x.tile).1 * 2 ^ 42 + (s.dev.vaultOf x.tile).2)
  generalize d.tileReturned x.tile (s.dev.frameOf x.tile) ((s.dev.vaultOf x.tile).1 * 2 ^ 42 + (s.dev.vaultOf x.tile).2) = e at *
  obtain ⟨⟨_, _, _, _, heq⟩, hset, hbytes, hregs⟩ := hreturned
  refine ⟨e, { idle := ?_, counted := (hregs _ (by decide)).trans hcount, entry := ?_, frames := ?_, tdir := by rw [hset, htdir], loc := ?_,
               jobs := ?_, bytes := by rw [hbytes, Blocks.dirRead_congr hilv hhbm] }, hexec⟩
  · rw [← hvport, heq]
    rfl
  · rw [Blocks.EntryIn, hregs _ (by decide), hrd _ (by decide)]
    exact hentry
  · rw [heq, ← hframes]
  · rw [heq, ← hloc]
  · rw [heq, ← hjobs]

theorem vaultWritebackComplete_kept (hunwaited : bitOf (s.dev.tdir x.tile) 4 = false) : Safety.Gives (.vaultWritebackComplete n) s (fun t =>
      memRead t.dev.vault ((s.dev.vaultOf x.tile).1 * 2 ^ 42 + (s.dev.vaultOf x.tile).2) tileBytes =
        s.dev.dirRead (s.dev.frameOf x.tile * tileBytes) tileBytes ∧
      t.dev.resident x.tile = s.dev.resident x.tile ∧ bitOf (t.dev.tdir x.tile) 3 = false ∧ (t.dev.vport n).running = none ∧
      t.dev.rd Reg.migCntWriteback = (s.dev.rd Reg.migCntWriteback + 1) % 2 ^ 64 ∧ t.dev.loc = s.dev.loc ∧ t.dev.jobs = s.dev.jobs) := by
  obtain ⟨d, h, hexec⟩ := exec_writebackComplete hop hn hrunning hback hplaced hentry hfits
  have htdir := h.tdir
  have hkept : d.freedIfWaited x.tile (s.dev.frameOf x.tile) = d := by
    rw [Dev.freedIfWaited, htdir, bitOf_setBits, if_neg (show ¬ (3 ≤ 4 ∧ 4 ≤ 3) by omega), hunwaited]
    rfl
  rw [hkept] at hexec
  refine ⟨_, hexec, h.bytes, ?_, ?_, h.idle, h.counted, h.loc, h.jobs⟩
  · show bitOf (d.tdir x.tile) 0 = bitOf (s.dev.tdir x.tile) 0
    rw [htdir, bitOf_setBits, if_neg (by omega)]
  · show bitOf (d.tdir x.tile) 3 = false
    rw [htdir, bitOf_setBits, if_pos (by omega)]
    rfl

theorem vaultWritebackComplete_freed (hwaited : bitOf (s.dev.tdir x.tile) 4 = true) (hclean : s.dev.dirty x.tile = false)
    (hpins : s.dev.pins x.tile = 0) (htile : s.dev.tileIn (s.dev.frameOf x.tile) = x.tile) :
    Safety.Gives (.vaultWritebackComplete n) s (fun t =>
      memRead t.dev.vault ((s.dev.vaultOf x.tile).1 * 2 ^ 42 + (s.dev.vaultOf x.tile).2) tileBytes =
        s.dev.dirRead (s.dev.frameOf x.tile * tileBytes) tileBytes ∧ t.dev.resident x.tile = false ∧
      t.dev.frameUsed (s.dev.frameOf x.tile) = false ∧ (t.dev.vport n).running = none ∧
      t.dev.rd Reg.migCntWriteback = (s.dev.rd Reg.migCntWriteback + 1) % 2 ^ 64 ∧ t.dev.loc = s.dev.loc ∧ t.dev.jobs = s.dev.jobs) := by
  obtain ⟨d, h, hexec⟩ := exec_writebackComplete hop hn hrunning hback hplaced hentry hfits
  have htdir := h.tdir
  have hfreed : d.freedIfWaited x.tile (s.dev.frameOf x.tile) = d.freeFrame (s.dev.frameOf x.tile) := by
    have hclean' : d.dirty x.tile = false := by
      rw [Blocks.dirty, htdir, bitOf_setBits, if_neg (by omega)]
      exact hclean
    have hpins' : d.pins x.tile = 0 := by
      rw [Blocks.pins, htdir, bitsOf_setBits_apart (by omega)]
      exact hpins
    rw [Dev.freedIfWaited, htdir, bitOf_setBits, if_neg (show ¬ (3 ≤ 4 ∧ 4 ≤ 3) by omega), hwaited, hclean', hpins']
    rfl
  have htile' : d.tileIn (s.dev.frameOf x.tile) = x.tile := by
    rw [Blocks.tileIn, h.frames]
    exact htile
  have hown := Dev.tdir_freeFrame_own htile' h.entry
  have hregs := Dev.rd_freeFrame_own htile' h.entry (off := Reg.migCntWriteback) (by decide)
  have hused := d.frameUsed_freeFrame (s.dev.frameOf x.tile)
  obtain ⟨_, _, _, _, heq, hports⟩ := d.freeFrame_eq (s.dev.frameOf x.tile)
  rw [hfreed] at hexec
  generalize d.freeFrame (s.dev.frameOf x.tile) = e at hexec hown hregs hused heq
  refine ⟨_, hexec, ?_, ?_, hused, ?_, hregs.trans h.counted, ?_, ?_⟩
  · rw [← h.bytes]
    show memRead e.vault _ _ = _
    rw [heq]
  · show bitOf (e.tdir x.tile) 0 = false
    rw [hown, bitOf_setBits, if_pos (by omega)]
    rfl
  · show (e.vport n).running = none
    rw [← h.idle, Blocks.vport, heq, Blocks.vport, hports]
  · show e.loc = s.dev.loc
    rw [heq, ← h.loc]
  · show e.jobs = s.dev.jobs
    rw [heq, ← h.jobs]

end

end Sys2Proof.Machine
end
section
/-! The statement about the transfers of tiles. -/
open Sys2Proof Sys2Proof.Machine

/-- Settles O42: the directory entry by the fields that each step of a transfer sets, the bytes by the copy between frame and Vault. -/
theorem tileTransfers : Obligations.TileTransfers := by
  unfold Obligations.TileTransfers
  refine ⟨fun s n f x ecc => vaultTransfer_fetch, fun s n x ecc hop hn hrunning hfetch hwaiters hplaced hwf => ⟨fun hgood => ?_, fun htile => ?_⟩,
    fun s n x hop hn hrunning hback hplaced hentry hfits => ⟨fun hunwaited => ?_, fun hwaited hclean hpins htile => ?_⟩⟩
  · exact vaultFetchComplete_resident hop hn hrunning hfetch hwaiters hplaced hwf hgood ecc
  · exact vaultFetchComplete_poisoned hop hn hrunning hfetch hwaiters hplaced.1 htile ecc
  · exact vaultWritebackComplete_kept hop hn hrunning hback hplaced hentry hfits hunwaited
  · exact vaultWritebackComplete_freed hop hn hrunning hback hplaced hentry hfits hwaited hclean hpins htile

end

section
/-! Management commands that end and do nothing else (R278, R282, R283). -/

namespace Sys2Proof.Machine

/-- Device e is device d but for registers, the management block, carats, the ports' own state, the I3C target's state and the log; the Mount
stands. -/
structure Dev.MailFrame (d e : Dev) : Prop where
  eq : ∃ regs mgmt pwr hostPort i3cPort i3c obs,
    e = { d with regs := regs, mgmt := mgmt, pwr := pwr, hostPort := hostPort, i3cPort := i3cPort, i3c := i3c, obs := obs }
  mount : e.mgmt.mount = d.mgmt.mount

theorem Dev.MailFrame.refl (d : Dev) : d.MailFrame d := ⟨⟨_, _, _, _, _, _, _, rfl⟩, rfl⟩

theorem Dev.MailFrame.trans {d e f : Dev} (h : d.MailFrame e) (k : e.MailFrame f) : d.MailFrame f := by
  refine ⟨?_, k.mount.trans h.mount⟩
  obtain ⟨_, _, _, _, _, _, _, rfl⟩ := h.eq
  obtain ⟨_, _, _, _, _, _, _, rfl⟩ := k.eq
  exact ⟨_, _, _, _, _, _, _, rfl⟩

theorem Dev.mailFrame_modBus (d : Dev) (p : MPort) (f : BusPort → BusPort) : d.MailFrame (d.modBus p f) := by
  cases p <;> exact ⟨⟨_, _, _, _, _, _, _, rfl⟩, rfl⟩

/-- The management block once the running command has ended. -/
theorem Dev.mgmtEnd_mgmt (d : Dev) (result info : Nat) : (d.mgmtEnd result info).mgmt = { d.mgmt with run := none } := by
  cases h : d.mgmt.run with
  | none => rw [d.mgmtEnd_none _ _ h, ← h]
  | some r =>
    rw [d.mgmtEnd_some _ _ h, Dev.mgmtInterrupt_mgmt, Dev.mgmtLog_mgmt]
    rfl

theorem Dev.mailFrame_mgmtEnd (d : Dev) (result info : Nat) : d.MailFrame (d.mgmtEnd result info) := by
  refine ⟨?_, by rw [Dev.mgmtEnd_mgmt]⟩
  obtain ⟨_, _, _, _, heq⟩ := d.mgmtFrame_mgmtEnd result info
  exact ⟨_, _, _, _, _, _, _, heq⟩

theorem Dev.MailFrame.sameMemory {s : State} {d : Dev} (h : s.dev.MailFrame d) : Safety.SameMemory s (s.onDev d) := by
  obtain ⟨_, _, _, _, _, _, _, rfl⟩ := h.eq
  exact fun _ => ⟨rfl, rfl, rfl, rfl⟩

/-- The end of a command before which only such a device has come to be. -/
theorem onlyEnded_of_mailFrame {s : State} {d : Dev} {regs : List Nat} {result : Nat} (h : s.dev.MailFrame d)
    (hended : Safety.MgmtEnded (s.onDev d) result) (hrd : ∀ off, off ∉ [Reg.mgmtStatus, Reg.mgmtResultInfo] ++ regs → d.rd off = s.dev.rd off) :
    Safety.OnlyEnded regs s (s.onDev d) result := by
  have hmount := h.mount
  refine ⟨hended, hrd, h.sameMemory, hmount, ?_⟩
  obtain ⟨_, _, _, _, _, _, _, rfl⟩ := h.eq
  exact ⟨rfl, rfl, rfl, rfl, rfl, rfl, rfl, rfl, rfl, rfl⟩

/-- A command that ends after registers of a list have changed. -/
theorem onlyEnded_mgmtEnd {s : State} {d : Dev} {run : MgmtRun} {regs : List Nat} {result : Nat} (info : Nat) (h : s.dev.MailFrame d)
    (hrun : d.mgmt.run = some run) (hrd : ∀ off, off ∉ [Reg.mgmtStatus, Reg.mgmtResultInfo] ++ regs → d.rd off = s.dev.rd off) (hresult : result < 256) :
    Safety.OnlyEnded regs s (s.onDev (d.mgmtEnd result info)) result := by
  refine onlyEnded_of_mailFrame (h.trans (d.mailFrame_mgmtEnd result info)) (d.mgmtEnd_ended result info hrun hresult _) fun off hoff => ?_
  have hne : off ≠ Reg.mgmtStatus ∧ off ≠ Reg.mgmtResultInfo := by
    simp only [List.cons_append, List.nil_append, List.mem_cons, not_or] at hoff
    exact ⟨hoff.1, hoff.2.1⟩
  rw [d.rd_mgmtEnd_other _ _ hne.1 hne.2, hrd off hoff]

/-- A command that ends at once. -/
theorem onlyEnded_now (s : State) {run : MgmtRun} {result : Nat} (hrun : s.dev.mgmt.run = some run) (hresult : result < 256) :
    Safety.OnlyEnded [] s (s.onDev (s.dev.mgmtEnd result 0)) result :=
  onlyEnded_mgmtEnd 0 (.refl s.dev) hrun (fun _ _ => rfl) hresult

/-! The start (R282, R285). -/

/-- MGMT_STATUS when a command has started. -/
def mgmtStatusStarted (old op : Nat) (p : MPort) : Nat :=
  setBits (setBits (setBits old 0 0 1) 3 3 (if p = .host then 0 else 1)) 27 24 (if op = 1 then 1 else 0)

/-- A command has started and shows in MGMT_STATUS. -/
def Dev.mgmtBegun (d : Dev) (run : MgmtRun) : Dev :=
  ({ d with mgmt := { d.mgmt with run := some run, notIdle := false } } : Dev).wr Reg.mgmtStatus
    (mgmtStatusStarted (d.rd Reg.mgmtStatus) run.op run.port)

/-- The command that a write of MGMT_CMD names. -/
def mgmtRunOf (p : MPort) (args : List W64) (v : Nat) : MgmtRun := { op := bitsOf v 7 0, target := bitsOf v 15 8, port := p, args := args }

theorem Dev.mgmtStart_eq (d : Dev) (p : MPort) (args : List W64) (v : Nat) : d.mgmtStart p args v =
    match badCommand (bitsOf v 7 0) (bitsOf v 15 8) with
    | some r => (d.mgmtBegun (mgmtRunOf p args v)).mgmtEnd r 0
    | none => d.mgmtBegun (mgmtRunOf p args v) := by
  cases h : badCommand (bitsOf v 7 0) (bitsOf v 15 8) <;> simp only [Dev.mgmtStart, h] <;> rfl

theorem Dev.mgmtBegun_eq (d : Dev) (run : MgmtRun) :
    ∃ regs, d.mgmtBegun run = { d with mgmt := { d.mgmt with run := some run, notIdle := false }, regs := regs } := by
  unfold Dev.mgmtBegun
  generalize mgmtStatusStarted (d.rd Reg.mgmtStatus) run.op run.port = status
  exact ⟨_, rfl⟩

theorem Dev.mailFrame_mgmtBegun (d : Dev) (run : MgmtRun) : d.MailFrame (d.mgmtBegun run) := by
  obtain ⟨_, heq⟩ := d.mgmtBegun_eq run
  rw [heq]
  exact ⟨⟨_, _, _, _, _, _, _, rfl⟩, rfl⟩

theorem Dev.mgmtBegun_run (d : Dev) (run : MgmtRun) : (d.mgmtBegun run).mgmt.run = some run := by
  obtain ⟨_, heq⟩ := d.mgmtBegun_eq run
  rw [heq]

theorem Dev.MailFrame.glb {d e : Dev} (h : d.MailFrame e) : e.glb = d.glb := by
  obtain ⟨_, _, _, _, _, _, _, rfl⟩ := h.eq
  rfl

theorem Dev.rd_mgmtBegun_other (d : Dev) (run : MgmtRun) {off : Nat} (h : off ≠ Reg.mgmtStatus) : (d.mgmtBegun run).rd off = d.rd off :=
  Dev.rd_wr_other _ _ _ _ h

theorem mgmtStatusStarted_busy (old op : Nat) (p : MPort) : bitOf (mgmtStatusStarted old op p) 0 = true := by
  rw [mgmtStatusStarted, bitOf_setBits, if_neg (by decide), bitOf_setBits, if_neg (by decide), bitOf_setBits, if_pos (by decide)]
  rfl

theorem mgmtStatusStarted_lt {old : Nat} (h : old < 2 ^ 64) (op : Nat) (p : MPort) : mgmtStatusStarted old op p < 2 ^ 64 :=
  setBits_lt (setBits_lt (setBits_lt h (by decide)) (by decide)) (by decide)

theorem Dev.mgmtBegun_busy (d : Dev) (run : MgmtRun) : (d.mgmtBegun run).flag Reg.mgmtStatus 0 = true := by
  have hstatus := mgmtStatusStarted_busy (d.rd Reg.mgmtStatus) run.op run.port
  have hlt := mgmtStatusStarted_lt (d.rd_lt Reg.mgmtStatus) run.op run.port
  rw [Blocks.flag, Dev.mgmtBegun]
  generalize mgmtStatusStarted (d.rd Reg.mgmtStatus) run.op run.port = status at hstatus hlt
  rw [Dev.rd_wr_same, Nat.mod_eq_of_lt hlt, hstatus]

/-- The result of a command that Table 11.6 does not give. -/
theorem badCommand_lt {op target r : Nat} (h : badCommand op target = some r) : r < 256 := by
  unfold badCommand at h
  split_ifs at h <;> simp_all <;> omega

/-- MGMT_CMD of the map (Table 11.7). -/
def mgmtCmdSpec : RegSpec := ⟨"MGMT_CMD", 0x00100000, false, 0x0, .plain, 1, 0x0, 1, 0x0, [⟨.wo, 15, 8⟩, ⟨.wo, 7, 0⟩]⟩

theorem busTarget_mgmtCmd : busTarget Reg.mgmtCmd 4 = some ⟨mgmtCmdSpec, 0, 0, Reg.mgmtCmd, .whole⟩ :=
  busTarget_four (by decide) (by decide) rfl

theorem setsReserved_mgmtCmd {v : Nat} (h : v < 2 ^ 16) : mgmtCmdSpec.setsReserved v = false := by
  have hpick : mgmtCmdSpec.pick [.rw, .ro, .wo, .w1c, .w1s] v = v := by
    have hbits : mgmtCmdSpec.pick [.rw, .ro, .wo, .w1c, .w1s] v = bitsOf v 15 8 * 256 + bitsOf v 7 0 := by
      simp [RegSpec.pick, mgmtCmdSpec, sumBy, List.filter]
    simp only [hbits, bitsOf]
    omega
  rw [RegSpec.setsReserved, hpick, decide_eq_false (not_not_intro rfl)]
  rfl

/-- A write of MGMT_CMD while no command runs starts one. -/
theorem exec_mgmtCmd {s : State} {p : MPort} {v : W64} (hs : Safety.Writable s p) (hv : v.toNat < 2 ^ 16) :
    exec (.registerWrite p Reg.mgmtCmd 4 v) s = .next (s.onDev ((s.dev.mgmtStart p (s.dev.bus p).args v.toNat).answer p .done)) := by
  obtain ⟨hop, hp, hrun⟩ := hs
  have hmod : v.toNat % 2 ^ (8 * 4) = v.toNat := Nat.mod_eq_of_lt (by omega)
  rw [exec_registerWrite _ _ _ _ _ hop, busWrite_done s.dev (s.dev.mgmtStart p (s.dev.bus p).args v.toNat) p Reg.mgmtCmd 4 v.toNat
    ⟨mgmtCmdSpec, 0, 0, Reg.mgmtCmd, .whole⟩ hp busTarget_mgmtCmd rfl hrun (by rw [hmod]; exact setsReserved_mgmtCmd hv)
    (by rw [hmod]; rfl)]

section
variable {s : State} {p : MPort} {v : W64} (hs : Safety.Writable s p) (hv : v.toNat < 2 ^ 16)
include hs hv

theorem mgmtCmd_bad {r : Nat} (hbad : badCommand (bitsOf v.toNat 7 0) (bitsOf v.toNat 15 8) = some r) :
    Safety.Gives (.registerWrite p Reg.mgmtCmd 4 v) s (fun t => Safety.OnlyEnded [] s t r ∧ (t.dev.bus p).answer = .done) := by
  have hexec := exec_mgmtCmd hs hv
  have hbegun := s.dev.mailFrame_mgmtBegun (mgmtRunOf p (s.dev.bus p).args v.toNat)
  have hframe := hbegun.trans (Dev.mailFrame_mgmtEnd _ r 0)
  have hrunning : ((s.dev.mgmtBegun (mgmtRunOf p (s.dev.bus p).args v.toNat)).mgmtEnd r 0).glb.phase = .running := hframe.glb ▸ hs.1
  rw [Dev.mgmtStart_eq, hbad] at hexec
  dsimp only at hexec
  rw [Dev.answer_running _ _ _ hrunning] at hexec
  have hended := onlyEnded_mgmtEnd (regs := []) 0 hbegun (s.dev.mgmtBegun_run _)
    (fun off hoff => s.dev.rd_mgmtBegun_other _ (List.ne_of_not_mem_cons hoff)) (badCommand_lt hbad)
  refine ⟨_, hexec, ?_, by rw [State.onDev_dev, Dev.bus_modBus_same]⟩
  obtain ⟨⟨hrun, hbusy, hdone, hresult⟩, hregs, -⟩ := hended
  have hmgmt : ∀ (d : Dev) (f : BusPort → BusPort), (d.modBus p f).mgmt = d.mgmt := fun d f => by cases p <;> rfl
  refine onlyEnded_of_mailFrame (hframe.trans (Dev.mailFrame_modBus _ _ _)) ⟨?_, ?_, ?_, ?_⟩ fun off hoff => ?_
  · rw [State.onDev_dev, hmgmt]
    exact hrun
  · rw [State.onDev_dev, Blocks.flag, Dev.rd_modBus]
    exact hbusy
  · rw [State.onDev_dev, Blocks.flag, Dev.rd_modBus]
    exact hdone
  · rw [State.onDev_dev, Blocks.fld, Dev.rd_modBus]
    exact hresult
  · rw [Dev.rd_modBus]
    exact hregs off hoff

theorem mgmtCmd_starts (hgood : badCommand (bitsOf v.toNat 7 0) (bitsOf v.toNat 15 8) = none) :
    Safety.Gives (.registerWrite p Reg.mgmtCmd 4 v) s (fun t =>
      t.dev.mgmt.run = some { op := bitsOf v.toNat 7 0, target := bitsOf v.toNat 15 8, port := p, args := (s.dev.bus p).args } ∧
      t.dev.flag Reg.mgmtStatus 0 = true ∧ (t.dev.bus p).answer = .done ∧ Safety.SameRegsBut [Reg.mgmtStatus] s t ∧
      Safety.SameMemory s t ∧ t.dev.mgmt.mount = s.dev.mgmt.mount) := by
  have hexec := exec_mgmtCmd hs hv
  rw [Dev.mgmtStart_eq, hgood] at hexec
  dsimp only at hexec
  have hbegun := s.dev.mailFrame_mgmtBegun (mgmtRunOf p (s.dev.bus p).args v.toNat)
  have hrun := s.dev.mgmtBegun_run (mgmtRunOf p (s.dev.bus p).args v.toNat)
  have hbusy := s.dev.mgmtBegun_busy (mgmtRunOf p (s.dev.bus p).args v.toNat)
  have hrd : ∀ off, off ≠ Reg.mgmtStatus → (s.dev.mgmtBegun (mgmtRunOf p (s.dev.bus p).args v.toNat)).rd off = s.dev.rd off :=
    fun off hoff => s.dev.rd_mgmtBegun_other _ hoff
  generalize s.dev.mgmtBegun (mgmtRunOf p (s.dev.bus p).args v.toNat) = e at hexec hbegun hrun hbusy hrd
  rw [Dev.answer_running _ _ _ (hbegun.glb ▸ hs.1)] at hexec
  have hmgmt : ∀ (d : Dev) (f : BusPort → BusPort), (d.modBus p f).mgmt = d.mgmt := fun d f => by cases p <;> rfl
  have hframe := hbegun.trans (Dev.mailFrame_modBus _ p (fun x => { x with answer := .done }))
  refine ⟨_, hexec, ?_, ?_, by rw [State.onDev_dev, Dev.bus_modBus_same], fun off hoff => ?_, hframe.sameMemory, hframe.mount⟩
  · rw [State.onDev_dev, hmgmt]
    exact hrun
  · rw [State.onDev_dev, Blocks.flag, Dev.rd_modBus]
    exact hbusy
  · rw [State.onDev_dev, Dev.rd_modBus]
    exact hrd off (List.ne_of_not_mem_cons hoff)

end

/-! Commands that are running. -/

theorem Blocks.running_of {b : Blocks} {run : MgmtRun} (hrun : b.mgmt.run = some run) (hbegun : run.begun = false) {op : Nat} (hop : run.op = op) :
    b.running op = some run := by
  rw [Blocks.running, hrun]
  simp [hop, hbegun]

section
variable {s : State} {run : MgmtRun} (hop : Safety.Operating s) (hrun : s.dev.mgmt.run = some run)
include hop hrun

theorem managementNop_ends (hbegun : run.begun = false) (h0 : run.op = 0) : Safety.Gives .managementNop s (fun t => Safety.OnlyEnded [] s t 0) := by
  have hdev : s.dev.mgmtNop = s.dev.mgmtEnd 0 0 := by rw [Dev.mgmtNop, Blocks.running_of hrun hbegun h0]
  exact ⟨_, congrArg (fun d => Host.Outcome.next (s.onDev d)) ((Dev.live_running s.dev _ hop).trans hdev), onlyEnded_now s hrun (by decide)⟩

theorem noLight_ends (h4 : run.op = 4) (htarget : run.target < 6)
    (hdark : (s.dev.optPort run.target).st = .dark ∨ (s.dev.optPort run.target).st = .wake) :
    Safety.Gives .noLight s (fun t => Safety.OnlyEnded [] s t 0x13) := by
  have hdev : s.dev.noLight = s.dev.mgmtEnd 0x13 0 := by
    rw [Dev.noLight, hrun]
    exact if_pos ⟨h4, htarget, hdark⟩
  exact ⟨_, congrArg (fun d => Host.Outcome.next (s.onDev d)) ((Dev.live_running s.dev _ hop).trans hdev), onlyEnded_now s hrun (by decide)⟩

theorem noLight_lit (hdark : (s.dev.optPort run.target).st ≠ .dark) (hwake : (s.dev.optPort run.target).st ≠ .wake) :
    exec .noLight s = .next s := by
  have hdev : s.dev.noLight = s.dev := by
    rw [Dev.noLight, hrun]
    exact if_neg fun h => h.2.2.elim hdark hwake
  exact congrArg (fun d => Host.Outcome.next (s.onDev d)) ((Dev.live_running s.dev _ hop).trans hdev)

end

end Sys2Proof.Machine
end

section
/-! LINK_RETRAIN (R143, R178, R290). -/

namespace Sys2Proof.Machine

/-- The running command as one that waits. -/
theorem Dev.beginWait_eq {d : Dev} {run : MgmtRun} (hrun : d.mgmt.run = some run) :
    d.beginWait = { d with mgmt := { d.mgmt with run := some { run with begun := true } } } := by
  rw [Dev.beginWait, hrun]
  rfl

@[simp] theorem Dev.clockDown_mgmt (d : Dev) (dom : Nat) : (d.clockDown dom).mgmt = d.mgmt := by
  rw [Dev.clockDown_eq]
  split <;> rfl

theorem Dev.linkDark_mgmt (d : Dev) (n : Nat) : (d.linkDark n).mgmt = d.mgmt := by
  rw [Dev.linkDark, Dev.clockDown_mgmt, Dev.clockDown_mgmt]
  rfl

/-- What a vault link that is down, or has come down, leaves: nothing changes but the registers that show it. -/
structure Dev.LinkFell (d e : Dev) (n : Nat) : Prop where
  frame : d.MgmtFrame e
  mgmt : e.mgmt = d.mgmt
  down : e.vaultUp n = false
  lost : e.vaultLost n = d.vaultLost n
  rd : ∀ off, off ∉ [Reg.vltPortStatus n, Reg.glbClkLock, Reg.glbClkLoss] → e.rd off = d.rd off

theorem Dev.linkFell_linkDark (d : Dev) (n : Nat) : d.LinkFell (d.linkDark n) n where
  frame := d.mgmtFrame_linkDark n
  mgmt := d.linkDark_mgmt n
  down := by
    rw [Blocks.vaultUp, Blocks.flag, d.rd_linkDark_status, bitOf_setBits, if_pos (by decide)]
    rfl
  lost := by rw [Blocks.vaultLost, Blocks.flag, d.rd_linkDark_status, bitOf_setBits, if_neg (by decide), Blocks.vaultLost, Blocks.flag]
  rd off hoff := by
    simp only [List.mem_cons, List.not_mem_nil, or_false, not_or] at hoff
    obtain ⟨hstatus, hlock, hloss⟩ := hoff
    exact d.rd_linkDark_other n hstatus hlock hloss

theorem Dev.linkFell_vaultLinkDown {d : Dev} {n : Nat} (hn : n < 2) (hd : d.Unwaited) : d.LinkFell (d.vaultLinkDown n) n := by
  cases hup : d.vaultUp n with
  | true =>
    rw [d.vaultLinkDown_up n hn hup, Dev.portFaults_unwaited _ n (hd.of_mgmtFrame (d.mgmtFrame_linkDark n))]
    exact d.linkFell_linkDark n
  | false =>
    have hdown : d.vaultLinkDown n = d := by
      rw [Dev.vaultLinkDown, hup, Bool.not_false, Bool.or_true]
      exact if_pos rfl
    rw [hdown]
    exact ⟨⟨_, _, _, _, rfl⟩, rfl, hup, rfl, fun _ _ => rfl⟩

section
variable {s : State} {run : MgmtRun} (hop : Safety.Operating s) (hrun : s.dev.mgmt.run = some run) (hbegun : run.begun = false) (h4 : run.op = 4)
include hop hrun hbegun h4

theorem exec_linkRetrain : exec .linkRetrain s =
    .next (s.onDev (if run.target < 6 then s.dev.retrainPort run.target else s.dev.retrainVault (run.target - 6))) := by
  refine congrArg (fun d => Host.Outcome.next (s.onDev d)) ((Dev.live_running s.dev _ hop).trans ?_)
  rw [Dev.linkRetrain, Blocks.running_of hrun hbegun h4]

theorem linkRetrain_disabled (htarget : run.target < 6) (hst : (s.dev.optPort run.target).st = .disabled) :
    Safety.Gives .linkRetrain s (fun t => Safety.OnlyEnded [] s t 2) := by
  have hdev : s.dev.retrainPort run.target = s.dev.mgmtEnd 2 0 := by rw [Dev.retrainPort, hst]
  have hexec := exec_linkRetrain hop hrun hbegun h4
  rw [if_pos htarget, hdev] at hexec
  exact ⟨_, hexec, onlyEnded_now s hrun (by decide)⟩

theorem linkRetrain_active (htarget : run.target < 6) (hst : (s.dev.optPort run.target).st = .active)
    (hasked : (s.dev.optPort run.target).asked = false) : Safety.Gives .linkRetrain s (fun t =>
      (t.dev.optPort run.target).asked = true ∧ (t.dev.optPort run.target).st = .active ∧
      (t.dev.optPort run.target).txRetired = 0 ∧ (t.dev.optPort run.target).rxRetired = 0 ∧
      (∀ n, n ≠ run.target → t.dev.optPort n = s.dev.optPort n) ∧ t.dev.mgmt.run = some { run with begun := true } ∧
      Safety.SameRegsBut [] s t ∧ Safety.SameMemory s t) := by
  have hexec := exec_linkRetrain hop hrun hbegun h4
  rw [if_pos htarget, Dev.retrainPort, hst] at hexec
  dsimp only at hexec
  rw [hasked, if_neg Bool.false_ne_true] at hexec
  generalize (if (s.dev.optPort run.target).width = s.dev.maxWidth run.target then 1 else 2) = req at hexec
  generalize hlanes : s.dev.modPort run.target (fun p => { p with txRetired := 0, rxRetired := 0 }) = lanes at hexec
  have hport : lanes.optPort run.target = { s.dev.optPort run.target with txRetired := 0, rxRetired := 0 } := by
    rw [← hlanes, Dev.optPort_modPort_same]
  have hother : ∀ n, n ≠ run.target → lanes.optPort n = s.dev.optPort n := fun n hn => by rw [← hlanes, Dev.optPort_modPort_other _ _ _ _ hn]
  have hwait : lanes.beginWait = { lanes with mgmt := { lanes.mgmt with run := some { run with begun := true } } } :=
    Dev.beginWait_eq (by rw [← hlanes]; exact hrun)
  have hasks : lanes.beginWait.beginRetrain run.target req = lanes.beginWait.modPort run.target (fun p => { p with asked := true, req := req }) := by
    have hready : lanes.beginWait.optPort run.target = lanes.optPort run.target := rfl
    rw [Dev.beginRetrain, hready, hport, hst, hasked]
    rfl
  rw [hasks] at hexec
  have hsame : (lanes.beginWait.modPort run.target (fun p => { p with asked := true, req := req })).optPort run.target =
      { lanes.optPort run.target with asked := true, req := req } := Dev.optPort_modPort_same _ _ _
  refine ⟨_, hexec, ?_, ?_, ?_, ?_, fun n hn => ?_, ?_, fun off _ => ?_, fun a => ?_⟩
  · rw [State.onDev_dev, hsame]
  · rw [State.onDev_dev, hsame, hport]
    exact hst
  · rw [State.onDev_dev, hsame, hport]
  · rw [State.onDev_dev, hsame, hport]
  · exact (Dev.optPort_modPort_other _ _ _ _ hn).trans (hother n hn)
  · rw [State.onDev_dev, Dev.modPort_mgmt, hwait]
  · rw [hwait, ← hlanes]
    rfl
  · rw [hwait, ← hlanes]
    exact ⟨rfl, rfl, rfl, rfl⟩

theorem linkRetrain_vault {n : Nat} (htarget : run.target = 6 + n) (hn : n < 2) (hports : n < s.dev.mig.ports.length)
    (hwait : Safety.NoTileWaiters s) : Safety.Gives .linkRetrain s (fun t =>
      (t.dev.vport n).retraining = true ∧ (t.dev.vport n).queue = (s.dev.vport n).queue ∧ t.dev.vaultUp n = false ∧
      t.dev.vaultLost n = s.dev.vaultLost n ∧ t.dev.mgmt.run = some { run with begun := true } ∧
      Safety.SameRegsBut [Reg.vltPortStatus n, Reg.glbClkLock, Reg.glbClkLoss] s t ∧ Safety.SameMemory s t) := by
  have hexec := exec_linkRetrain hop hrun hbegun h4
  rw [if_neg (by omega), htarget, Nat.add_sub_cancel_left, Dev.retrainVault] at hexec
  have hfell : s.dev.LinkFell (s.dev.vaultLinkDown n) n := Dev.linkFell_vaultLinkDown hn (Dev.unwaited_of_noTileWaiters hwait)
  generalize s.dev.vaultLinkDown n = e at hexec hfell
  have hvport : (e.modVport n (fun p => { p with retraining := true })).vport n = { s.dev.vport n with retraining := true } := by
    rw [Dev.vport_modVport_same _ _ (by rw [hfell.frame.mig]; exact hports), Blocks.vport, hfell.frame.mig, Blocks.vport]
  rw [Dev.beginWait_eq (run := run) (hfell.mgmt ▸ hrun)] at hexec
  refine ⟨_, hexec, ?_, ?_, hfell.down, hfell.lost, rfl, hfell.rd, ?_⟩
  · exact congrArg VaultPort.retraining hvport
  · exact (congrArg VaultPort.queue hvport).trans rfl
  · exact fun a => sameMemory_of_mgmtFrame hfell.frame a

end

end Sys2Proof.Machine
end

section
/-! SPARE_SWAP and the moves of its slots (R287, R288). -/

namespace Sys2Proof.Machine

/-! The end of the command. -/

theorem Dev.swapEnd_pending {d : Dev} (target : Nat) (h : d.mgmt.moves ≠ []) : d.swapEnd target = d := by
  rw [Dev.swapEnd, List.isEmpty_eq_false_iff.mpr h]
  rfl

theorem Dev.swapEnd_done {d : Dev} (target : Nat) (h : d.mgmt.moves = []) : d.swapEnd target =
    d.mgmtEnd (if d.mgmt.notIdle then 0x10 else if d.belowShape (swapTargets target) then 0x11 else 0) 0 := by
  rw [Dev.swapEnd, List.isEmpty_iff.mpr h]
  rfl

theorem Dev.mgmtFrame_swapEnd (d : Dev) (target : Nat) : d.MgmtFrame (d.swapEnd target) := by
  unfold Dev.swapEnd
  split
  · exact ⟨_, _, _, _, rfl⟩
  · exact d.mgmtFrame_mgmtEnd _ _

theorem Dev.swapEnd_moves (d : Dev) (target : Nat) : (d.swapEnd target).mgmt.moves = d.mgmt.moves := by
  unfold Dev.swapEnd
  split
  · rfl
  · rw [Dev.mgmtEnd_mgmt]

theorem Dev.MgmtFrame.core {d e : Dev} (h : d.MgmtFrame e) (p : Nat) : e.core p = d.core p := by rw [Blocks.core, h.cores, Blocks.core]

/-! Spare cores. -/

/-- Device e is device d but for the cores that are spare. -/
structure Dev.AssayFrame (d e : Dev) : Prop where
  eq : ∃ cores, e = { d with cores := cores }
  core : ∀ p, ∃ spare, e.core p = { d.core p with assayOnly := spare }

theorem Dev.AssayFrame.refl (d : Dev) : d.AssayFrame d := ⟨⟨_, rfl⟩, fun _ => ⟨_, rfl⟩⟩

theorem Dev.AssayFrame.trans {d e f : Dev} (h : d.AssayFrame e) (k : e.AssayFrame f) : d.AssayFrame f := by
  refine ⟨?_, fun p => ?_⟩
  · obtain ⟨_, rfl⟩ := h.eq
    obtain ⟨_, rfl⟩ := k.eq
    exact ⟨_, rfl⟩
  · obtain ⟨_, hcore⟩ := h.core p
    obtain ⟨_, kcore⟩ := k.core p
    exact ⟨_, by rw [kcore, hcore]⟩

theorem Dev.assayFrame_modCore (d : Dev) (p : Nat) (spare : Core → Bool) : d.AssayFrame (d.modCore p (fun c => { c with assayOnly := spare c })) := by
  refine ⟨⟨_, rfl⟩, fun x => ?_⟩
  by_cases hx : x = p
  · exact ⟨_, by rw [hx, Dev.core_modCore_same]⟩
  · exact ⟨_, by rw [Dev.core_modCore_other _ _ _ _ hx]⟩

theorem Dev.assayFrame_markAssay (d : Dev) (g : Nat) : d.AssayFrame (d.markAssay g) :=
  foldl_keeps d.AssayFrame (fun e s h => h.trans (e.assayFrame_modCore (18 * g + s) _)) _ (.refl d)

theorem Dev.assayFrame_markAssays (d : Dev) (gs : List Nat) : d.AssayFrame (gs.foldl Dev.markAssay d) :=
  foldl_keeps d.AssayFrame (fun e g h => h.trans (e.assayFrame_markAssay g)) gs (.refl d)

theorem Dev.AssayFrame.slot {d e : Dev} (h : d.AssayFrame e) (p : Nat) : (e.core p).slot = (d.core p).slot := by
  obtain ⟨_, hcore⟩ := h.core p
  rw [hcore]

theorem Dev.AssayFrame.owner {d e : Dev} (h : d.AssayFrame e) (p : Nat) : (e.core p).owner = (d.core p).owner := by
  obtain ⟨_, hcore⟩ := h.core p
  rw [hcore]

theorem Dev.AssayFrame.coreM {d e : Dev} (h : d.AssayFrame e) (p : Nat) : (e.core p).m = (d.core p).m := by
  obtain ⟨_, hcore⟩ := h.core p
  rw [hcore]

/-! The command. -/

/-- The moves of the swap are listed, the spare cores marked, and the command waits. -/
def Dev.swapBegun (d : Dev) (moves : List (Nat × Nat × Nat)) (gs : List Nat) : Dev :=
  (gs.foldl Dev.markAssay ({ d with mgmt := { d.mgmt with moves := moves, notIdle := false } } : Dev)).beginWait

theorem Dev.swapBegun_eq {d : Dev} {run : MgmtRun} (hrun : d.mgmt.run = some run) (moves : List (Nat × Nat × Nat)) (gs : List Nat) :
    ∃ cores, d.swapBegun moves gs =
        { d with cores := cores, mgmt := { d.mgmt with run := some { run with begun := true }, moves := moves, notIdle := false } } ∧
      ∀ p, (tabGet {} cores p).slot = (d.core p).slot := by
  have hassay := ({ d with mgmt := { d.mgmt with moves := moves, notIdle := false } } : Dev).assayFrame_markAssays gs
  have hslot := hassay.slot
  obtain ⟨cores, heq⟩ := hassay.eq
  rw [heq] at hslot
  refine ⟨cores, ?_, hslot⟩
  rw [Dev.swapBegun, heq]
  refine (Dev.beginWait_eq (run := run) ?_).trans rfl
  exact hrun

section
variable {s : State} {run : MgmtRun} (hop : Safety.Operating s) (hrun : s.dev.mgmt.run = some run)

section
variable (hbegun : run.begun = false) (h3 : run.op = 3)
include hop hrun hbegun h3

theorem spareSwap_unmounted (hmount : s.dev.mgmt.mount = none) : Safety.Gives .spareSwap s (fun t => Safety.OnlyEnded [] s t 0) := by
  have hdev : s.dev.spareSwap = s.dev.mgmtEnd 0 0 := by rw [Dev.spareSwap, Blocks.running_of hrun hbegun h3, hmount]
  exact ⟨_, congrArg (fun d => Host.Outcome.next (s.onDev d)) ((Dev.live_running s.dev _ hop).trans hdev), onlyEnded_now s hrun (by decide)⟩

theorem exec_spareSwap {m : Mount} (hmount : s.dev.mgmt.mount = some m) : exec .spareSwap s = .next (s.onDev
    ((s.dev.swapBegun ((swapTargets run.target).flatMap (s.dev.clusterMoves m)) (swapTargets run.target)).swapEnd run.target)) := by
  refine congrArg (fun d => Host.Outcome.next (s.onDev d)) ((Dev.live_running s.dev _ hop).trans ?_)
  rw [Dev.spareSwap, Blocks.running_of hrun hbegun h3, hmount]
  rfl

theorem spareSwap_moves {m : Mount} (hmount : s.dev.mgmt.mount = some m)
    (hmoves : (swapTargets run.target).flatMap (s.dev.clusterMoves m) ≠ []) : Safety.Gives .spareSwap s (fun t =>
      t.dev.mgmt.moves = (swapTargets run.target).flatMap (s.dev.clusterMoves m) ∧ t.dev.mgmt.run = some { run with begun := true } ∧
      (∀ p, (t.dev.core p).slot = (s.dev.core p).slot) ∧ Safety.SameRegsBut [] s t ∧ Safety.SameMemory s t) := by
  have hexec := exec_spareSwap hop hrun hbegun h3 hmount
  generalize (swapTargets run.target).flatMap (s.dev.clusterMoves m) = moves at hexec hmoves ⊢
  obtain ⟨cores, heq, hslot⟩ := Dev.swapBegun_eq hrun moves (swapTargets run.target)
  rw [heq, Dev.swapEnd_pending run.target hmoves] at hexec
  exact ⟨_, hexec, rfl, rfl, hslot, fun _ _ => rfl, fun _ => ⟨rfl, rfl, rfl, rfl⟩⟩

theorem spareSwap_settled {m : Mount} (hmount : s.dev.mgmt.mount = some m)
    (hmoves : (swapTargets run.target).flatMap (s.dev.clusterMoves m) = []) : Safety.Gives .spareSwap s (fun t =>
      (Safety.MgmtEnded t 0 ∨ Safety.MgmtEnded t 0x11) ∧ (∀ p, (t.dev.core p).slot = (s.dev.core p).slot) ∧
      Safety.SameRegsBut [Reg.mgmtStatus, Reg.mgmtResultInfo] s t ∧ Safety.SameMemory s t) := by
  have hexec := exec_spareSwap hop hrun hbegun h3 hmount
  obtain ⟨cores, heq, hslot⟩ := Dev.swapBegun_eq hrun ((swapTargets run.target).flatMap (s.dev.clusterMoves m)) (swapTargets run.target)
  generalize s.dev.swapBegun _ (swapTargets run.target) = e at hexec heq
  have hnone : e.mgmt.moves = [] := by rw [heq, hmoves]
  have hidle : e.mgmt.notIdle = false := by rw [heq]
  rw [Dev.swapEnd_done run.target hnone, hidle, if_neg Bool.false_ne_true] at hexec
  have herun : e.mgmt.run = some { run with begun := true } := by rw [heq]
  refine ⟨_, hexec, ?_, fun p => ?_, fun off hoff => ?_, fun a => ?_⟩
  · split
    · exact .inr (e.mgmtEnd_ended _ _ herun (by decide) _)
    · exact .inl (e.mgmtEnd_ended _ _ herun (by decide) _)
  · rw [State.onDev_dev, (e.mgmtFrame_mgmtEnd _ _).core, heq]
    exact hslot p
  · simp only [List.mem_cons, List.not_mem_nil, or_false, not_or] at hoff
    rw [State.onDev_dev, e.rd_mgmtEnd_other _ _ hoff.1 hoff.2, heq]
    rfl
  · obtain ⟨_, _, _, _, hend⟩ := e.mgmtFrame_mgmtEnd (if e.belowShape (swapTargets run.target) = true then 0x11 else 0) 0
    rw [State.onDev_dev, hend, heq]
    exact ⟨rfl, rfl, rfl, rfl⟩

end

end

end Sys2Proof.Machine
end

section
/-! A slot that moves to another core (R288). -/

namespace Sys2Proof.Machine

/-! A range copied between byte memories. -/

theorem memByte_memCopy_inside {src : Mem} (hwf : Memory.wf src = true) (dst : Mem) (da sa : Nat) {n i : Nat} (hi : i < n) :
    memByte (memCopy dst da src sa n) (da + i) = memByte src (sa + i) := by
  refine (memByte_foldl_memSet_placed (addr := fun k => da + (k - sa)) (k := sa + i) (((memWf_iff src).mp hwf).1.filter _)
    (by rw [Nat.add_sub_cancel_left]) (fun e he haddr => ?_) (tabGet_absent _ _ _ fun e he hkey => ?_)).trans ?_
  · have hin := (List.mem_filter.mp he).2
    simp only [Bool.and_eq_true, decide_eq_true_eq] at hin
    omega
  · have hkept := (List.mem_filter.mp he).2
    simp only [Bool.not_eq_true', Bool.and_eq_false_iff, decide_eq_false_iff_not] at hkept
    omega
  · exact memByte_filter fun b => by simp only [Bool.and_eq_true, decide_eq_true_eq]; omega

theorem memByte_memCopy_outside (dst : Mem) {da : Nat} (src : Mem) (sa : Nat) {n y : Nat} (h : y < da ∨ da + n ≤ y) :
    memByte (memCopy dst da src sa n) y = memByte dst y := by
  refine (memByte_foldl_memSet_apart (addr := fun k => da + (k - sa)) (fun e he haddr => ?_) _).trans (memByte_filter fun b => ?_)
  · have hin := (List.mem_filter.mp he).2
    simp only [Bool.and_eq_true, decide_eq_true_eq] at hin
    omega
  · simp only [Bool.not_eq_true', Bool.and_eq_false_iff, decide_eq_false_iff_not]
    omega

/-- The local memories once core p's are core q's too. -/
def movedLoc (loc : Mem) (p q : Nat) : Mem :=
  let scratch := memCopy loc (q * 2 ^ 22) loc (p * 2 ^ 22) 0x1C0000
  memCopy scratch (q * 2 ^ 22 + 0x200000) scratch (p * 2 ^ 22 + 0x200000) 0x40000

section
variable {loc : Mem} {p q : Nat}

theorem memByte_movedLoc_other {x : Nat} (hx : x / 2 ^ 22 ≠ q) : memByte (movedLoc loc p q) x = memByte loc x := by
  rw [movedLoc, memByte_memCopy_outside _ _ _ (by omega), memByte_memCopy_outside _ _ _ (by omega)]

theorem memByte_movedLoc (hwf : Memory.wf loc = true) (hne : p ≠ q) {a : Nat} (ha : a < 0x1C0000 ∨ (0x200000 ≤ a ∧ a < 0x240000)) :
    memByte (movedLoc loc p q) (q * 2 ^ 22 + a) = memByte loc (p * 2 ^ 22 + a) := by
  rcases ha with ha | ⟨hlow, hhigh⟩
  · rw [movedLoc, memByte_memCopy_outside _ _ _ (by omega), memByte_memCopy_inside hwf _ _ _ ha]
  · obtain ⟨i, rfl⟩ := Nat.exists_eq_add_of_le hlow
    rw [movedLoc, ← Nat.add_assoc, ← Nat.add_assoc, memByte_memCopy_inside (memWf_memCopy _ _ _ _ _ hwf) _ _ _ (by omega),
      memByte_memCopy_outside _ _ _ (by have hside := Nat.lt_or_gt_of_ne hne; omega)]

end

/-! The cores. -/

/-- A change of every entry that leaves the default alone. -/
theorem tabGet_map {α : Type} (dflt : α) {f : α → α} (hf : f dflt = dflt) (t : Tab α) (k : Nat) :
    tabGet dflt (t.map (fun e => (e.1, f e.2))) k = f (tabGet dflt t k) := by
  induction t with
  | nil => exact hf.symm
  | cons e t ih =>
    obtain ⟨k', v⟩ := e
    by_cases h : k' = k
    · simp [tabGet, h]
    · simp only [List.map_cons, tabGet, if_neg h, ih]

/-- What a suspended program's gang calls core p once it is core q. -/
def Prog.gangRenamed (p q : Nat) (g : Prog) : Prog := { g with gang := g.gang.map (fun x => if x = p then q else x) }

/-- A core whose suspended programs call core p core q. -/
def Core.gangsRenamed (p q : Nat) (c : Core) : Core := { c with suspended := c.suspended.map (Prog.gangRenamed p q) }

/-- A core that takes over what another core does. -/
def Core.taking (old c : Core) : Core :=
  { c with slot := old.slot, assayOnly := false, owner := old.owner, incoming := old.incoming, suspended := old.suspended, m := old.m, keep := old.keep }

/-- A core that serves no slot any more. -/
def Core.vacated (c : Core) : Core := { c with slot := none, owner := none, incoming := none, suspended := [] }

/-- Core q has taken over what core p did, but for the names in its suspended programs. -/
def Dev.coreTaken (d : Dev) (p q : Nat) : Dev :=
  (({ d with loc := movedLoc d.loc p q } : Dev).modCore q (Core.taking (d.core p))).modCore p Core.vacated

theorem Dev.moveCore_eq (d : Dev) (p q : Nat) :
    d.moveCore p q = { d.coreTaken p q with cores := (d.coreTaken p q).cores.map (fun e => (e.1, e.2.gangsRenamed p q)) } := rfl

theorem Dev.core_moveCore (d : Dev) (p q x : Nat) : (d.moveCore p q).core x = ((d.coreTaken p q).core x).gangsRenamed p q := by
  rw [Dev.moveCore_eq]
  exact tabGet_map (f := Core.gangsRenamed p q) ({} : Core) rfl _ x

/-- A slot has moved from core p to core q: device e. -/
structure Dev.SlotMoved (d e : Dev) (p q : Nat) : Prop where
  eq : ∃ cores, e = { d with loc := movedLoc d.loc p q, cores := cores }
  slot : (e.core q).slot = (d.core p).slot
  owner : (e.core q).owner = (d.core p).owner
  coreM : (e.core q).m = (d.core p).m
  unserved : (e.core p).slot = none
  unowned : (e.core p).owner = none
  other : ∀ x, x ≠ p → x ≠ q → (e.core x).slot = (d.core x).slot

theorem Dev.slotMoved_moveCore (d : Dev) {p q : Nat} (hne : p ≠ q) : d.SlotMoved (d.moveCore p q) p q := by
  have hq : (d.moveCore p q).core q = ((d.core p).taking (d.core q)).gangsRenamed p q := by
    rw [Dev.core_moveCore, Dev.coreTaken, Dev.core_modCore_other _ _ _ _ hne.symm, Dev.core_modCore_same]
    rfl
  have hp : (d.moveCore p q).core p = (d.core p).vacated.gangsRenamed p q := by
    rw [Dev.core_moveCore, Dev.coreTaken, Dev.core_modCore_same, Dev.core_modCore_other _ _ _ _ hne]
    rfl
  refine ⟨⟨_, d.moveCore_eq p q⟩, by rw [hq]; rfl, by rw [hq]; rfl, by rw [hq]; rfl, by rw [hp]; rfl, by rw [hp]; rfl, fun x hxp hxq => ?_⟩
  rw [Dev.core_moveCore, Dev.coreTaken, Dev.core_modCore_other _ _ _ _ hxp, Dev.core_modCore_other _ _ _ _ hxq]
  rfl

theorem Dev.SlotMoved.assay {d e f : Dev} {p q : Nat} (h : d.SlotMoved e p q) (k : e.AssayFrame f) : d.SlotMoved f p q where
  eq := by
    obtain ⟨_, rfl⟩ := h.eq
    obtain ⟨_, rfl⟩ := k.eq
    exact ⟨_, rfl⟩
  slot := (k.slot q).trans h.slot
  owner := (k.owner q).trans h.owner
  coreM := (k.coreM q).trans h.coreM
  unserved := (k.slot p).trans h.unserved
  unowned := (k.owner p).trans h.unowned
  other x hxp hxq := (k.slot x).trans (h.other x hxp hxq)

/-! The operations. -/

/-- The moves of a swap without those of slot j of cluster g. -/
def Blocks.movesLeft (b : Blocks) (g j : Nat) : List (Nat × Nat × Nat) := b.mgmt.moves.filter (fun m => !(m.1 = g && m.2.1 = j))

/-- The move of slot j of cluster g is no longer listed. -/
def Dev.moveDone (d : Dev) (g j : Nat) : Dev := { d with mgmt := { d.mgmt with moves := d.movesLeft g j } }

theorem Dev.core_moveDone (d : Dev) (g j x : Nat) : (d.moveDone g j).core x = d.core x := by
  have hcores : (d.moveDone g j).cores = d.cores := rfl
  rw [Blocks.core, hcores, Blocks.core]

theorem Dev.SlotMoved.moveDone {d e : Dev} {p q : Nat} (h : d.SlotMoved e p q) (g j : Nat) : ∃ cores, e.moveDone g j =
    { d with loc := movedLoc d.loc p q, cores := cores, mgmt := { d.mgmt with moves := d.movesLeft g j } } := by
  obtain ⟨cores, rfl⟩ := h.eq
  exact ⟨cores, rfl⟩

section
variable {s : State} {run : MgmtRun} {g j q : Nat} (hop : Safety.Operating s) (hrun : s.dev.mgmt.run = some run)
  (hmove : s.dev.mgmt.moves.find? (fun m => m.1 = g) = some (g, j, q))
include hop hrun hmove

section
variable {k : Nat} (hserves : (List.range 18).find? (fun i => (s.dev.core (18 * g + i)).slot = some j) = some k)
include hserves

theorem slotMove_busy (hbusy : ((s.dev.moveCores (18 * g + k)) ++ [q]).any s.dev.runsOn = true) : exec (.slotMove g j) s = .next s := by
  refine congrArg (fun d => Host.Outcome.next (s.onDev d)) ((Dev.live_running s.dev _ hop).trans ?_)
  simp only [Dev.slotMove, hrun, hmove, hserves]
  exact if_pos (.inr (.inr hbusy))

theorem exec_slotMove (h3 : run.op = 3) (hidle : ((s.dev.moveCores (18 * g + k)) ++ [q]).any s.dev.runsOn = false) :
    exec (.slotMove g j) s = .next (s.onDev ((((s.dev.moveCore (18 * g + k) q).markAssay g).moveDone g j).swapEnd run.target)) := by
  refine congrArg (fun d => Host.Outcome.next (s.onDev d)) ((Dev.live_running s.dev _ hop).trans ?_)
  simp only [Dev.slotMove, hrun, hmove, hserves]
  refine if_neg ?_
  rw [hidle]
  simp [h3]

theorem slotMove_moves (h3 : run.op = 3) (hne : 18 * g + k ≠ q) (hidle : ((s.dev.moveCores (18 * g + k)) ++ [q]).any s.dev.runsOn = false)
    (hwf : Memory.wf s.dev.loc = true) : Safety.Gives (.slotMove g j) s (fun t =>
      (t.dev.core q).slot = some j ∧ (t.dev.core q).owner = (s.dev.core (18 * g + k)).owner ∧ (t.dev.core q).m = (s.dev.core (18 * g + k)).m ∧
      (t.dev.core (18 * g + k)).slot = none ∧ (t.dev.core (18 * g + k)).owner = none ∧
      (∀ x, x ≠ 18 * g + k → x ≠ q → (t.dev.core x).slot = (s.dev.core x).slot) ∧
      (∀ a, a < 0x1C0000 ∨ (0x200000 ≤ a ∧ a < 0x240000) →
        memByte t.dev.loc (q * 2 ^ 22 + a) = memByte s.dev.loc ((18 * g + k) * 2 ^ 22 + a)) ∧
      (∀ x, x / 2 ^ 22 ≠ q → memByte t.dev.loc x = memByte s.dev.loc x) ∧ Safety.SameOuter s t ∧ t.dev.mgmt.moves = s.dev.movesLeft g j ∧
      (s.dev.movesLeft g j ≠ [] → t.dev.mgmt.run = some run ∧ Safety.SameRegsBut [] s t)) := by
  have hexec := exec_slotMove hop hrun hmove hserves h3 hidle
  have hslot : (s.dev.core (18 * g + k)).slot = some j := by simpa using List.find?_some hserves
  have hmoved := (s.dev.slotMoved_moveCore hne).assay ((s.dev.moveCore (18 * g + k) q).assayFrame_markAssay g)
  generalize (s.dev.moveCore (18 * g + k) q).markAssay g = e at hexec hmoved
  have hcore : ∀ x, ((e.moveDone g j).swapEnd run.target).core x = e.core x := fun x => by
    rw [(Dev.mgmtFrame_swapEnd _ _).core, Dev.core_moveDone]
  obtain ⟨cores, heq⟩ := hmoved.moveDone g j
  generalize e.moveDone g j = f at hexec hcore heq
  have hframe := f.mgmtFrame_swapEnd run.target
  have hmoves : f.mgmt.moves = s.dev.movesLeft g j := by rw [heq]
  have hloc : (f.swapEnd run.target).loc = movedLoc s.dev.loc (18 * g + k) q := by
    obtain ⟨_, _, _, _, hend⟩ := hframe
    rw [hend, heq]
  refine ⟨_, hexec, ?_, ?_, ?_, ?_, ?_, fun x hxp hxq => ?_, fun a ha => ?_, fun x hx => ?_, fun a => ?_, ?_, fun hpending => ?_⟩
  · rw [State.onDev_dev, hcore, hmoved.slot, hslot]
  · rw [State.onDev_dev, hcore, hmoved.owner]
  · rw [State.onDev_dev, hcore, hmoved.coreM]
  · rw [State.onDev_dev, hcore, hmoved.unserved]
  · rw [State.onDev_dev, hcore, hmoved.unowned]
  · rw [State.onDev_dev, hcore, hmoved.other x hxp hxq]
  · rw [State.onDev_dev, hloc, memByte_movedLoc hwf hne ha]
  · rw [State.onDev_dev, hloc, memByte_movedLoc_other hx]
  · obtain ⟨_, _, _, _, hend⟩ := hframe
    rw [State.onDev_dev, hend, heq]
    exact ⟨rfl, rfl, rfl⟩
  · rw [State.onDev_dev, Dev.swapEnd_moves, hmoves]
  · rw [Dev.swapEnd_pending _ (hmoves ▸ hpending), heq]
    exact ⟨hrun, fun _ _ => rfl⟩

end

theorem exec_swapWaitExpire (h3 : run.op = 3) : exec (.swapWaitExpire g j) s = .next (s.onDev
    (({ s.dev with mgmt := { s.dev.mgmt with notIdle := true, moves := s.dev.movesLeft g j } } : Dev).swapEnd run.target)) := by
  refine congrArg (fun d => Host.Outcome.next (s.onDev d)) ((Dev.live_running s.dev _ hop).trans ?_)
  have hlisted : s.dev.mgmt.moves.any (fun m => m.1 = g && m.2.1 = j) = true :=
    List.any_eq_true.mpr ⟨(g, j, q), List.mem_of_find?_eq_some hmove, by simp⟩
  rw [Dev.swapExpire, hrun]
  dsimp only
  rw [if_neg (by rw [hlisted]; simp [h3])]
  rfl

theorem swapWaitExpire_stays (h3 : run.op = 3) : Safety.Gives (.swapWaitExpire g j) s (fun t =>
    t.dev.mgmt.moves = s.dev.movesLeft g j ∧
    (s.dev.movesLeft g j ≠ [] → t.dev.mgmt.run = some run ∧ t.dev.mgmt.notIdle = true ∧ Safety.SameRegsBut [] s t) ∧
    (s.dev.movesLeft g j = [] → Safety.MgmtEnded t 0x10) ∧ t.dev.cores = s.dev.cores ∧ Safety.SameMemory s t) := by
  have hexec := exec_swapWaitExpire hop hrun hmove h3
  generalize hlast : ({ s.dev with mgmt := { s.dev.mgmt with notIdle := true, moves := s.dev.movesLeft g j } } : Dev) = f at hexec
  have hframe := f.mgmtFrame_swapEnd run.target
  have hmoves : f.mgmt.moves = s.dev.movesLeft g j := by rw [← hlast]
  have hfrun : f.mgmt.run = some run := by rw [← hlast]; exact hrun
  refine ⟨_, hexec, ?_, fun hpending => ?_, fun hdone => ?_, ?_, fun a => ?_⟩
  · rw [State.onDev_dev, Dev.swapEnd_moves, hmoves]
  · rw [Dev.swapEnd_pending _ (hmoves ▸ hpending)]
    refine ⟨hfrun, by rw [← hlast]; rfl, fun off _ => by rw [← hlast]; rfl⟩
  · have hidle : f.mgmt.notIdle = true := by rw [← hlast]
    rw [Dev.swapEnd_done _ (hmoves.trans hdone), hidle, if_pos rfl]
    exact f.mgmtEnd_ended _ _ hfrun (by decide) _
  · rw [State.onDev_dev, hframe.cores, ← hlast]
  · obtain ⟨_, _, _, _, hend⟩ := hframe
    rw [State.onDev_dev, hend, ← hlast]
    exact ⟨rfl, rfl, rfl, rfl⟩

end

end Sys2Proof.Machine
end

section
/-! MOUNT_CLEAR and step 12 of a Mount load (R281). -/

namespace Sys2Proof.Machine

/-! Engines disabled. -/

/-- Step 12's ENABLE fields are clear. -/
def Dev.enginesOff (d : Dev) : Dev := enableRegs.foldl (fun d off => d.wrFld off 0 0 0) d

theorem Dev.wrFld_eq (d : Dev) (off hi lo v : Nat) : ∃ regs, d.wrFld off hi lo v = { d with regs := regs } := by
  rw [Dev.wrFld]
  generalize setBits (d.rd off) hi lo v = x
  exact ⟨_, rfl⟩

theorem Dev.enginesOff_eq (d : Dev) : ∃ regs, d.enginesOff = { d with regs := regs } := by
  refine foldl_keeps (fun e : Dev => ∃ regs, e = { d with regs := regs }) (fun e off h => ?_) enableRegs ⟨_, rfl⟩
  obtain ⟨_, rfl⟩ := h
  obtain ⟨_, heq⟩ := Dev.wrFld_eq _ off 0 0 0
  rw [heq]
  exact ⟨_, rfl⟩

theorem Dev.flag_wrFld_clear (d : Dev) (off : Nat) : (d.wrFld off 0 0 0).flag off 0 = false := by
  rw [Blocks.flag, d.rd_wrFld_same _ _ (by decide), bitOf_setBits, if_pos (by decide)]
  rfl

theorem Dev.flag_foldl_clear {off : Nat} (offs : List Nat) (d : Dev) (h : off ∈ offs) :
    (offs.foldl (fun d off => d.wrFld off 0 0 0) d).flag off 0 = false := by
  induction offs generalizing d with
  | nil => exact absurd h List.not_mem_nil
  | cons o offs ih =>
    rw [List.foldl_cons]
    by_cases hin : off ∈ offs
    · exact ih _ hin
    · have hoff : off = o := (List.mem_cons.mp h).resolve_right hin
      subst hoff
      refine foldl_keeps_mem (fun e : Dev => e.flag off 0 = false) offs (fun e x hx he => ?_) (d.flag_wrFld_clear off)
      have hne : off ≠ x := fun hx' => hin (hx' ▸ hx)
      rw [Blocks.flag, e.rd_wrFld_other _ _ _ hne]
      exact he

/-! Pool buffers freed. -/

/-- The registers below those of HBM stand, but for the count of freed buffers. -/
def Dev.SameBelowHbm (d e : Dev) : Prop := ∀ off, off < 0x04000000 → off ≠ Reg.poolCntFree → e.rd off = d.rd off

theorem Dev.SameBelowHbm.trans {d e f : Dev} (h : d.SameBelowHbm e) (k : e.SameBelowHbm f) : d.SameBelowHbm f :=
  fun off hlow hfree => (k off hlow hfree).trans (h off hlow hfree)

theorem Dev.sameBelowHbm_putEntry (d : Dev) (a : Nat) (bs : List Byte) : d.SameBelowHbm (d.putEntry a bs) := by
  intro off hlow _
  have hwrite : off ≠ Reg.hbmCntWrite (d.stackOf a) := by unfold Reg.hbmCntWrite; omega
  have hcross : off ≠ Reg.hbmCntCross (d.stackOf a) := by unfold Reg.hbmCntCross; omega
  have hask : ((d.dirWrite a bs).askCarats (576 + d.stackOf a) 8 none).rd off = d.rd off := by
    obtain ⟨_, h⟩ := (d.dirWrite a bs).askCarats_eq (576 + d.stackOf a) 8 none
    rw [h]
    exact d.rd_dirWrite a bs off
  rw [Dev.putEntry]
  rw [Dev.rd_bump_other _ _ hcross, Dev.rd_bump_other _ _ hwrite, hask]

theorem Dev.sameBelowHbm_modCtx (d : Dev) (c : Nat) (f : Ctx → Ctx) : d.SameBelowHbm (d.modCtx c f) := fun _ _ _ => rfl

theorem Dev.sameBelowHbm_freeBuf (d : Dev) (k n : Nat) : d.SameBelowHbm (d.freeBuf k n) := by
  have hmap : d.SameBelowHbm (d.setMapBit k n 0) := fun _ _ _ => rfl
  have htag := hmap.trans (Dev.sameBelowHbm_putEntry _ ((d.setMapBit k n 0).tagAddr k n) (toLe 4 (setBits (d.tag k n) 31 31 0)))
  have hfreed : d.SameBelowHbm (((d.setMapBit k n 0).putEntry ((d.setMapBit k n 0).tagAddr k n)
      (toLe 4 (setBits (d.tag k n) 31 31 0))).bump Reg.poolCntFree 1) := htag.trans fun off _ hfree => Dev.rd_bump_other _ 1 hfree
  unfold Dev.freeBuf
  dsimp only
  split
  · exact hfreed.trans (Dev.sameBelowHbm_modCtx _ _ _)
  · exact hfreed

theorem Dev.sameBelowHbm_reclaim (d : Dev) (pat : Nat → Bool) : d.SameBelowHbm (d.reclaim pat) := by
  refine foldl_keeps d.SameBelowHbm (fun e k he => foldl_keeps d.SameBelowHbm (fun f n hf => ?_) _ he) _ fun _ _ _ => rfl
  dsimp only
  split
  · have hfreed := hf.trans (f.sameBelowHbm_freeBuf k n)
    split
    · exact hfreed
    · exact hfreed
  · exact hf

/-! Step 12. -/

/-- Step 12 but for the pools: engines disabled, MGMT_MOUNT_ID and MGMT_MOUNT_INFO empty. -/
def Dev.unmounted (d : Dev) : Dev := (d.enginesOff.wr Reg.mgmtMountId 0).wrFld Reg.mgmtMountInfo 7 0 0

theorem Dev.clearMount_def (d : Dev) : d.clearMount =
    { d.unmounted.reclaim (fun _ => true) with
      mgmt := { (d.unmounted.reclaim (fun _ => true)).mgmt with mount := none }
      pool := { (d.unmounted.reclaim (fun _ => true)).pool with reclaimed := [] } } := rfl

theorem Dev.unmounted_eq (d : Dev) : ∃ regs, d.unmounted = { d with regs := regs } := by
  obtain ⟨_, hoff⟩ := d.enginesOff_eq
  obtain ⟨_, hfld⟩ := (d.enginesOff.wr Reg.mgmtMountId 0).wrFld_eq Reg.mgmtMountInfo 7 0 0
  rw [Dev.unmounted, hfld, hoff]
  exact ⟨_, rfl⟩

theorem Dev.clearMount_eq (d : Dev) : ∃ hbm regs pwr mig pool ctxs obs, d.clearMount =
    { d with hbm := hbm, regs := regs, pwr := pwr, mig := mig, pool := pool, ctxs := ctxs, obs := obs, mgmt := { d.mgmt with mount := none } } := by
  rw [Dev.clearMount_def]
  obtain ⟨_, _, _, _, _, _, _, hreclaim⟩ := (d.unmounted.sideFrame_reclaim (fun _ => true)).eq
  obtain ⟨_, hunmounted⟩ := d.unmounted_eq
  generalize d.unmounted.reclaim (fun _ => true) = e at hreclaim
  rw [hreclaim, hunmounted]
  exact ⟨_, _, _, _, _, _, _, rfl⟩

theorem Dev.rd_clearMount (d : Dev) {off : Nat} (hlow : off < 0x04000000) (hfree : off ≠ Reg.poolCntFree) :
    d.clearMount.rd off = d.unmounted.rd off := d.unmounted.sameBelowHbm_reclaim (fun _ => true) off hlow hfree

theorem Dev.mode_clearMount (d : Dev) (c : Nat) : (d.clearMount.ctx c).mode = (d.ctx c).mode := by
  have hctx : (d.clearMount.ctx c).mode = (d.unmounted.ctx c).mode := (d.unmounted.sideFrame_reclaim (fun _ => true)).mode c
  obtain ⟨_, hunmounted⟩ := d.unmounted_eq
  rw [hctx, hunmounted]
  rfl

theorem Dev.rd_unmounted_id (d : Dev) : d.unmounted.rd Reg.mgmtMountId = 0 := by
  rw [Dev.unmounted, Dev.rd_wrFld_other _ _ _ _ (by decide), Dev.rd_wr_same, Nat.zero_mod]

theorem Dev.fld_unmounted_fmt (d : Dev) : d.unmounted.fld Reg.mgmtMountInfo 7 0 = 0 := by
  rw [Dev.unmounted, Blocks.fld, Dev.rd_wrFld_same _ _ _ (by decide), bitsOf_setBits_same, Nat.zero_mod]

/-- Where the ENABLE fields are. -/
theorem enableRegs_apart : ∀ off ∈ enableRegs, off < 0x04000000 ∧ off ∉
    [Reg.poolCntFree, Reg.mgmtMountId, Reg.mgmtMountInfo, Reg.mgmtStatus, Reg.mgmtResultInfo] := by decide

theorem Dev.flag_unmounted (d : Dev) {off : Nat} (h : off ∈ enableRegs) : d.unmounted.flag off 0 = false := by
  have hapart := (enableRegs_apart off h).2
  simp only [List.mem_cons, List.not_mem_nil, or_false, not_or] at hapart
  obtain ⟨-, hid, hinfo, -, -⟩ := hapart
  rw [Dev.unmounted, Blocks.flag, Dev.rd_wrFld_other _ _ _ _ hinfo, Dev.rd_wr_other _ _ _ _ hid]
  exact Dev.flag_foldl_clear enableRegs d h

section
variable {s : State} {run : MgmtRun} (hop : Safety.Operating s) (hrun : s.dev.mgmt.run = some run) (hbegun : run.begun = false) (h2 : run.op = 2)
include hop hrun hbegun h2

theorem exec_mountClear : exec .mountClear s =
    .next (s.onDev (if s.dev.contextExists then s.dev.mgmtEnd 3 0 else s.dev.clearMount.mgmtEnd 0 0)) := by
  refine congrArg (fun d => Host.Outcome.next (s.onDev d)) ((Dev.live_running s.dev _ hop).trans ?_)
  rw [Dev.mountClear, Blocks.running_of hrun hbegun h2]

theorem mountClear_refused (hctx : s.dev.contextExists = true) : Safety.Gives .mountClear s (fun t => Safety.OnlyEnded [] s t 3) := by
  have hexec := exec_mountClear hop hrun hbegun h2
  rw [if_pos hctx] at hexec
  exact ⟨_, hexec, onlyEnded_now s hrun (by decide)⟩

theorem mountClear_clears (hctx : s.dev.contextExists = false) : Safety.Gives .mountClear s (fun t =>
    Safety.MgmtEnded t 0 ∧ t.dev.mgmt.mount = none ∧ t.dev.rd Reg.mgmtMountId = 0 ∧ t.dev.fld Reg.mgmtMountInfo 7 0 = 0 ∧
    (∀ off ∈ enableRegs, t.dev.flag off 0 = false) ∧ t.dev.loc = s.dev.loc ∧ t.dev.vault = s.dev.vault ∧
    t.dev.hostMem = s.dev.hostMem ∧ t.dev.cores = s.dev.cores) := by
  have hexec := exec_mountClear hop hrun hbegun h2
  rw [hctx, if_neg Bool.false_ne_true] at hexec
  obtain ⟨_, _, _, _, _, _, _, hclear⟩ := s.dev.clearMount_eq
  have hclearrun : s.dev.clearMount.mgmt.run = some run := by rw [hclear]; exact hrun
  have hmount : s.dev.clearMount.mgmt.mount = none := by rw [hclear]
  have hframe := s.dev.clearMount.mgmtFrame_mgmtEnd 0 0
  have hrd : ∀ off, off ≠ Reg.mgmtStatus → off ≠ Reg.mgmtResultInfo → off < 0x04000000 → off ≠ Reg.poolCntFree →
      (s.dev.clearMount.mgmtEnd 0 0).rd off = s.dev.unmounted.rd off := fun off hstatus hinfo hlow hfree => by
    rw [Dev.rd_mgmtEnd_other _ _ _ hstatus hinfo, Dev.rd_clearMount _ hlow hfree]
  refine ⟨_, hexec, Dev.mgmtEnd_ended _ _ _ hclearrun (by decide) _, ?_, ?_, ?_, fun off hoff => ?_, ?_⟩
  · rw [State.onDev_dev, Dev.mgmtEnd_mgmt, hmount]
  · rw [State.onDev_dev, hrd _ (by decide) (by decide) (by decide) (by decide), Dev.rd_unmounted_id]
  · rw [State.onDev_dev, Blocks.fld, hrd _ (by decide) (by decide) (by decide) (by decide)]
    exact s.dev.fld_unmounted_fmt
  · obtain ⟨hlow, hapart⟩ := enableRegs_apart off hoff
    simp only [List.mem_cons, List.not_mem_nil, or_false, not_or] at hapart
    obtain ⟨hfree, -, -, hstatus, hinfo⟩ := hapart
    rw [State.onDev_dev, Blocks.flag, hrd off hstatus hinfo hlow hfree]
    exact s.dev.flag_unmounted hoff
  · obtain ⟨_, _, _, _, hend⟩ := hframe
    rw [State.onDev_dev, hend, hclear]
    exact ⟨rfl, rfl, rfl, rfl⟩

end

end Sys2Proof.Machine
end

section
/-! MOUNT_LOAD that is refused (R279, steps 1 to 11). -/

namespace Sys2Proof.Machine

/-- An argument of the running command. -/
def MgmtRun.arg (run : MgmtRun) (k : Nat) : Nat := (run.args.getD k 0).toNat

/-- Counting an HBM access changes the counters and asks for carats. -/
theorem Dev.mailFrame_countHbm (d : Dev) (a n : Nat) (store : Bool) (quad : Option Nat) : d.MailFrame (d.countHbm a n store quad) := by
  have hhbm := d.countHbm_hbm a n store quad
  obtain ⟨_, regs, pwr, heq⟩ := d.hbmFrame_countHbm a n store quad
  generalize d.countHbm a n store quad = e at hhbm heq
  subst heq
  dsimp only at hhbm
  subst hhbm
  exact ⟨⟨_, _, _, _, _, _, _, rfl⟩, rfl⟩

theorem Dev.mgmt_countHbm (d : Dev) (a n : Nat) (store : Bool) (quad : Option Nat) : (d.countHbm a n store quad).mgmt = d.mgmt :=
  (d.hbmFrame_countHbm a n store quad).vaultFrame.mgmt

theorem Dev.rd_mgmtEnd_info {d : Dev} {run : MgmtRun} (result info : Nat) (hrun : d.mgmt.run = some run) :
    (d.mgmtEnd result info).rd Reg.mgmtResultInfo = info % 2 ^ 64 := by
  rw [d.rd_mgmtEnd _ _ hrun, Dev.mgmtReport, Dev.rd_wr_same]

/-! What the checks find. -/

/-- The MAGIC is the first thing checked. -/
theorem Dev.loadBad_unmarked {d : Dev} {base n : Nat} (origin : Nat) (h : fldOf (d.dirRead base n) 0 31 0 ≠ 0x4D46584E) :
    d.loadBad base n origin none = some (4, 0) := by
  have hheader : headerBad (d.dirRead base n) n = some (4, 0) := by
    rw [headerBad, firstBad, decide_eq_true h]
    exact if_pos rfl
  rw [Dev.loadBad, runSteps, if_neg (by simp), hheader]

theorem Blocks.argsBad_context {b : Blocks} (base n origin : Nat) (h : b.contextExists = true) : b.argsBad base n origin = some 3 := by
  rw [Blocks.argsBad, h]
  exact if_pos rfl

theorem Blocks.argsBad_range {b : Blocks} {base n origin : Nat} (hctx : b.contextExists = false)
    (h : base % 4096 ≠ 0 ∨ n < 64 ∨ 2 ^ 30 < n ∨ directSize < base + n ∨ 4096 ≤ origin) : b.argsBad base n origin = some 2 := by
  rw [Blocks.argsBad, hctx, if_neg Bool.false_ne_true, if_pos]
  rcases h with h | h | h | h | h
  · exact .inl h
  · exact .inr (.inl h)
  · exact .inr (.inr (.inl h))
  · exact .inr (.inr (.inr (.inl h)))
  · exact .inr (.inr (.inr (.inr (.inl h))))

/-! What the command does with it. -/

section
variable {d : Dev} {run : MgmtRun} (hrunning : d.running 1 = some run) (v0 v1 : VaultLink) (bad : Option Nat)
include hrunning

theorem Dev.mountLoad_argsBad {r : Nat} (h : d.argsBad (run.arg 0) (run.arg 1) (run.arg 2) = some r) : d.mountLoad v0 v1 bad = d.mgmtEnd r 0 := by
  unfold MgmtRun.arg at h
  simp only [Dev.mountLoad, hrunning, h]

variable (hargs : d.argsBad (run.arg 0) (run.arg 1) (run.arg 2) = none) (hstack : d.onFailedStack (run.arg 0) (run.arg 1) = false)
include hargs hstack

theorem Dev.mountLoad_imageBad {r info : Nat} (hbad : (d.countHbm (run.arg 0) (run.arg 1) false none).loadBad (run.arg 0) (run.arg 1) (run.arg 2) bad =
    some (r, info)) (hr : r ≠ 0x14) : d.mountLoad v0 v1 bad = (d.countHbm (run.arg 0) (run.arg 1) false none).mgmtEnd r info := by
  unfold MgmtRun.arg at hargs hstack hbad ⊢
  simp only [Dev.mountLoad, hrunning, hargs, hstack, Bool.false_eq_true, if_false, hbad]

theorem Dev.mountLoad_imageGood
    (hgood : (d.countHbm (run.arg 0) (run.arg 1) false none).loadBad (run.arg 0) (run.arg 1) (run.arg 2) bad = none) : d.mountLoad v0 v1 bad =
    (d.countHbm (run.arg 0) (run.arg 1) false none).applyMount (run.arg 0)
      ((d.countHbm (run.arg 0) (run.arg 1) false none).dirRead (run.arg 0) (run.arg 1)) (run.arg 2) v0 v1 bad := by
  unfold MgmtRun.arg at hargs hstack hgood ⊢
  simp only [Dev.mountLoad, hrunning, hargs, hstack, Bool.false_eq_true, if_false, hgood]

end

section
variable {s : State} {run : MgmtRun} (hop : Safety.Operating s) (hrun : s.dev.mgmt.run = some run) (hbegun : run.begun = false) (h1 : run.op = 1)
  (v0 v1 : VaultLink) (bad : Option Nat)
include hop

theorem exec_mountLoad : exec (.mountLoad v0 v1 bad) s = .next (s.onDev (s.dev.mountLoad v0 v1 bad)) :=
  congrArg (fun d => Host.Outcome.next (s.onDev d)) (Dev.live_running s.dev _ hop)

include hrun hbegun h1

theorem mountLoad_argsRefused {r : Nat} (hargs : s.dev.argsBad (run.arg 0) (run.arg 1) (run.arg 2) = some r) (hr : r < 256) :
    Safety.Gives (.mountLoad v0 v1 bad) s (fun t => Safety.OnlyEnded [] s t r) := by
  have hexec := exec_mountLoad hop v0 v1 bad
  rw [Dev.mountLoad_argsBad (Blocks.running_of hrun hbegun h1) v0 v1 bad hargs] at hexec
  exact ⟨_, hexec, onlyEnded_now s hrun hr⟩

variable (hargs : s.dev.argsBad (run.arg 0) (run.arg 1) (run.arg 2) = none) (hstack : s.dev.onFailedStack (run.arg 0) (run.arg 1) = false)
include hargs hstack

theorem mountLoad_imageRefused {r info : Nat} (hr : r < 0x14) (hbad : (s.dev.countHbm (run.arg 0) (run.arg 1) false none).loadBad
    (run.arg 0) (run.arg 1) (run.arg 2) bad = some (r, info)) : Safety.Gives (.mountLoad v0 v1 bad) s (fun t =>
      Safety.OnlyEnded Safety.hbmCounters s t r ∧ t.dev.rd Reg.mgmtResultInfo = info % 2 ^ 64) := by
  have hexec := exec_mountLoad hop v0 v1 bad
  rw [Dev.mountLoad_imageBad (Blocks.running_of hrun hbegun h1) v0 v1 bad hargs hstack hbad (by omega)] at hexec
  have hreadrun : (s.dev.countHbm (run.arg 0) (run.arg 1) false none).mgmt.run = some run := by rw [Dev.mgmt_countHbm, hrun]
  refine ⟨_, hexec, onlyEnded_mgmtEnd info (s.dev.mailFrame_countHbm _ _ _ _) hreadrun (fun off hoff => ?_) (by omega),
    Dev.rd_mgmtEnd_info r info hreadrun⟩
  exact s.dev.rd_countHbm _ _ _ _ fun h => hoff (List.mem_append_right _ h)

theorem mountLoad_unmarked (hmagic : fldOf (s.dev.dirRead (run.arg 0) (run.arg 1)) 0 31 0 ≠ 0x4D46584E) :
    Safety.Gives (.mountLoad v0 v1 none) s (fun t => Safety.OnlyEnded Safety.hbmCounters s t 4) := by
  have hread := Blocks.dirRead_congr (s.dev.directFrame_countHbm (run.arg 0) (run.arg 1) false none).ilv (s.dev.countHbm_hbm _ _ _ _)
    (run.arg 0) (run.arg 1)
  have hbad := Dev.loadBad_unmarked (run.arg 2) (by rw [hread]; exact hmagic)
  obtain ⟨t, hexec, hended, -⟩ := mountLoad_imageRefused hop hrun hbegun h1 v0 v1 none hargs hstack (by decide) hbad
  exact ⟨t, hexec, hended⟩

end

end Sys2Proof.Machine
end

section
/-! What a Mount load leaves unchanged (R279, steps 12 to 15). -/

namespace Sys2Proof.Machine

/-- Device e is device d but for what a Mount load may touch; the contexts' modes and the running command stand. -/
structure Dev.LoadFrame (d e : Dev) : Prop where
  eq : ∃ hbm vault regs pwr mig pool ctxs cores glb remote tb mgmt obs, e =
    { d with hbm := hbm, vault := vault, regs := regs, pwr := pwr, mig := mig, pool := pool, ctxs := ctxs, cores := cores, glb := glb,
             remote := remote, tb := tb, mgmt := mgmt, obs := obs }
  mode : ∀ c, (e.ctx c).mode = (d.ctx c).mode
  run : e.mgmt.run = d.mgmt.run

theorem Dev.LoadFrame.refl (d : Dev) : d.LoadFrame d := ⟨⟨_, _, _, _, _, _, _, _, _, _, _, _, _, rfl⟩, fun _ => rfl, rfl⟩

theorem Dev.LoadFrame.trans {d e f : Dev} (h : d.LoadFrame e) (k : e.LoadFrame f) : d.LoadFrame f := by
  refine ⟨?_, fun c => (k.mode c).trans (h.mode c), k.run.trans h.run⟩
  obtain ⟨_, _, _, _, _, _, _, _, _, _, _, _, _, rfl⟩ := h.eq
  obtain ⟨_, _, _, _, _, _, _, _, _, _, _, _, _, rfl⟩ := k.eq
  exact ⟨_, _, _, _, _, _, _, _, _, _, _, _, _, rfl⟩

theorem Dev.loadFrame_foldl {α : Type} {f : Dev → α → Dev} (hf : ∀ (d : Dev) a, d.LoadFrame (f d a)) (xs : List α) (d : Dev) :
    d.LoadFrame (xs.foldl f d) := foldl_keeps d.LoadFrame (fun e a h => h.trans (hf e a)) xs (.refl d)

theorem Dev.LoadFrame.blocks {d e : Dev} (h : d.LoadFrame e) : e.ports = d.ports ∧ e.hostMem = d.hostMem ∧ e.loc = d.loc := by
  obtain ⟨_, _, _, _, _, _, _, _, _, _, _, _, _, rfl⟩ := h.eq
  exact ⟨rfl, rfl, rfl⟩

theorem Dev.VaultFrame.loadFrame {d e : Dev} (h : d.VaultFrame e) : d.LoadFrame e := by
  obtain ⟨_, _, _, _, _, _, rfl, -⟩ := h
  exact ⟨⟨_, _, _, _, _, _, _, _, _, _, _, _, _, rfl⟩, fun _ => rfl, rfl⟩

theorem Dev.HbmFrame.loadFrame {d e : Dev} (h : d.HbmFrame e) : d.LoadFrame e := h.vaultFrame.loadFrame

theorem Dev.loadFrame_wr (d : Dev) (off v : Nat) : d.LoadFrame (d.wr off v) := (d.vaultFrame_wr off v).loadFrame

theorem Dev.loadFrame_modCore (d : Dev) (p : Nat) (f : Core → Core) : d.LoadFrame (d.modCore p f) :=
  ⟨⟨_, _, _, _, _, _, _, _, _, _, _, _, _, rfl⟩, fun _ => rfl, rfl⟩

theorem Dev.loadFrame_clearMount (d : Dev) : d.LoadFrame d.clearMount := by
  have hmode := d.mode_clearMount
  obtain ⟨_, _, _, _, _, _, _, heq⟩ := d.clearMount_eq
  generalize d.clearMount = e at hmode heq
  subst heq
  exact ⟨⟨_, _, _, _, _, _, _, _, _, _, _, _, _, rfl⟩, hmode, rfl⟩

/-! Step 13. -/

theorem Dev.loadFrame_loadPass (d : Dev) (l2p : Nat → Option Nat) (es : List RegEntry) (enables : Bool) :
    d.LoadFrame (d.loadPass l2p es enables) := by
  refine Dev.loadFrame_foldl (fun e x => ?_) es d
  split
  · exact .refl e
  · split
    · split
      · exact e.loadFrame_wr _ _
      · exact .refl e
    · unfold Dev.loaderWrite
      dsimp only
      split <;> exact e.loadFrame_wr _ _

theorem Dev.loadFrame_zeroDirect (d : Dev) (a n : Nat) : d.LoadFrame (d.zeroDirect a n) := by
  unfold Dev.zeroDirect
  split
  · have hclear : d.HbmFrame (d.dirClear a n) := ⟨_, _, _, rfl⟩
    exact (hclear.trans (Dev.hbmFrame_countHbm _ _ _ _ _)).loadFrame
  · exact .refl d

theorem Dev.loadFrame_pool (d : Dev) (pool : Pool) : d.LoadFrame { d with pool := pool } :=
  ⟨⟨_, _, _, _, _, _, _, _, _, _, _, _, _, rfl⟩, fun _ => rfl, rfl⟩

theorem Dev.loadFrame_clearPools (d : Dev) : d.LoadFrame d.clearPools :=
  ((d.loadFrame_zeroDirect (d.rd Reg.poolTagBase) (2 * 2 ^ 20)).trans (Dev.loadFrame_zeroDirect _ (d.rd Reg.migKvSeqBase) slotBytes)).trans
    (Dev.loadFrame_pool _ _)

theorem Dev.loadFrame_dropTiles (d : Dev) : d.LoadFrame d.dropTiles := ⟨⟨_, _, _, _, _, _, _, _, _, _, _, _, _, rfl⟩, fun _ => rfl, rfl⟩

theorem Dev.loadFrame_applyShape (d : Dev) (img : List Byte) : d.LoadFrame (d.applyShape img) :=
  Dev.loadFrame_foldl (fun e _ => Dev.loadFrame_foldl (fun f _ => f.loadFrame_modCore _ _) _ e) _ d

theorem Dev.loadFrame_applyBezel (d : Dev) (img : List Byte) : d.LoadFrame (d.applyBezel img) := by
  unfold Dev.applyBezel
  split
  · exact .refl d
  · exact (((Dev.loadFrame_foldl (fun e _ => e.loadFrame_wr _ _) _ d).trans (Dev.loadFrame_wr _ _ _)).trans (Dev.loadFrame_wr _ _ _)).trans
      (Dev.loadFrame_wr _ _ _)

theorem Dev.loadFrame_copyImages (d : Dev) (img : List Byte) : d.LoadFrame (d.copyImages img) :=
  Dev.loadFrame_foldl (f := fun e (m : Nat × List Byte) => e.directStore m.1 m.2) (fun e m => (e.directFrame_directStore m.1 m.2).1.loadFrame) _ d

theorem Dev.loadFrame_step13 (d : Dev) (img : List Byte) (origin : Nat) : d.LoadFrame (d.step13 img origin) :=
  ((((((d.loadFrame_loadPass (d.planL2p img) (regEntries img) false).trans (Dev.loadFrame_clearPools _)).trans (Dev.loadFrame_dropTiles _)).trans
    (Dev.loadFrame_applyShape _ img)).trans (Dev.loadFrame_applyBezel _ img)).trans (Dev.loadFrame_copyImages _ img)).trans
    (Dev.loadFrame_wr _ Reg.fabRtBlock (imgBlock img origin))

/-! Step 14. -/

theorem Dev.loadFrame_enumerate (d : Dev) (n : Nat) (v : VaultLink) : d.LoadFrame (d.enumerate n v) := by
  have hstatus := d.vaultFrame_wr (Reg.vltPortStatus n) (linkStatus v)
  unfold Dev.enumerate
  generalize d.wr (Reg.vltPortStatus n) (linkStatus v) = e at hstatus
  dsimp only
  refine (hstatus.trans (.trans ?_ (Dev.vaultFrame_modVport _ n _))).loadFrame
  split
  · exact (Dev.vaultFrame_wr _ _ _).trans (Dev.vaultFrame_wr _ _ _)
  · exact (Dev.vaultFrame_clockUp _ _).trans (Dev.vaultFrame_clockUp _ _)

theorem Dev.loadFrame_zeroTiles (d : Dev) (a n : Nat) : d.LoadFrame (d.zeroTiles a n) := by
  unfold Dev.zeroTiles
  split
  · exact .refl d
  · refine Dev.loadFrame_foldl (fun e _ => ?_) _ d
    exact ⟨⟨_, _, _, _, _, _, _, _, _, _, _, _, _, rfl⟩, fun _ => rfl, rfl⟩

theorem Dev.loadFrame_step14 (d : Dev) (v0 v1 : VaultLink) : d.LoadFrame (d.step14 v0 v1) :=
  ((((d.loadFrame_enumerate 0 v0).trans (Dev.loadFrame_enumerate _ 1 v1)).trans (Dev.loadFrame_wr _ _ _)).trans
    (Dev.loadFrame_zeroDirect _ _ _)).trans (Dev.loadFrame_zeroTiles _ _ _)

end Sys2Proof.Machine
end

section
/-! MOUNT_LOAD of an image that passes (R279, steps 12 to 15). -/

namespace Sys2Proof.Machine

/-! FAB_RT_BLOCK: step 13 writes it, and no later step does. -/

theorem RegEntry.target_block {l2p : Nat → Option Nat} {e : RegEntry} {r : RegSpec} {i off : Nat} (h : e.target l2p = some (r, i, off)) :
    Reg.fabRtBlock ≠ off := by
  rintro rfl
  unfold RegEntry.target at h
  dsimp only at h
  split at h
  · cases h
  · next r' i' o _ =>
    split at h
    · cases h
    · next hok =>
      simp only [Option.some.injEq, Prod.mk.injEq] at h
      obtain ⟨-, -, rfl⟩ := h
      exact hok (by simp [regBarred])

theorem Dev.rd_loadPass_block (d : Dev) (l2p : Nat → Option Nat) (es : List RegEntry) :
    (d.loadPass l2p es true).rd Reg.fabRtBlock = d.rd Reg.fabRtBlock := by
  refine foldl_keeps (fun e : Dev => e.rd Reg.fabRtBlock = d.rd Reg.fabRtBlock) (fun e x he => ?_) es rfl
  split
  · exact he
  · next r i off htarget =>
    rw [if_pos rfl]
    split
    · rw [e.rd_wrFld_other _ _ _ (RegEntry.target_block htarget), he]
    · exact he

theorem Dev.rd_enumerate_block (d : Dev) (n : Nat) (v : VaultLink) : (d.enumerate n v).rd Reg.fabRtBlock = d.rd Reg.fabRtBlock := by
  have hstatus : (d.wr (Reg.vltPortStatus n) (linkStatus v)).rd Reg.fabRtBlock = d.rd Reg.fabRtBlock :=
    Dev.rd_wr_other _ _ _ _ (vltPortStatus_ne n (by decide)).symm
  unfold Dev.enumerate
  generalize d.wr (Reg.vltPortStatus n) (linkStatus v) = e at hstatus
  dsimp only
  have hlock : (if v.width = 0 then (e.wrFld Reg.glbClkLock (56 + n) (56 + n) 0).wrFld Reg.glbClkLock (58 + n) (58 + n) 0
      else (e.clockUp (56 + n)).clockUp (58 + n)).rd Reg.fabRtBlock = d.rd Reg.fabRtBlock := by
    split
    · rw [Dev.rd_wrFld_other _ _ _ _ (by decide), Dev.rd_wrFld_other _ _ _ _ (by decide), hstatus]
    · rw [Dev.rd_clockUp_other _ _ (by decide), Dev.rd_clockUp_other _ _ (by decide), hstatus]
  exact hlock

theorem Dev.rd_zeroDirect_block (d : Dev) (a n : Nat) : (d.zeroDirect a n).rd Reg.fabRtBlock = d.rd Reg.fabRtBlock := by
  unfold Dev.zeroDirect
  split
  · exact (d.dirClear a n).rd_countHbm a n true none (by decide)
  · rfl

theorem Dev.rd_zeroTiles (d : Dev) (a n off : Nat) : (d.zeroTiles a n).rd off = d.rd off := by
  unfold Dev.zeroTiles
  split
  · rfl
  · refine foldl_keeps (fun e : Dev => e.rd off = d.rd off) (fun e p he => ?_) _ rfl
    exact he

theorem Dev.rd_step13_block (d : Dev) (img : List Byte) (origin : Nat) :
    (d.step13 img origin).rd Reg.fabRtBlock = imgBlock img origin % 2 ^ 64 := Dev.rd_wr_same _ _ _

theorem Dev.rd_step14_block (d : Dev) (v0 v1 : VaultLink) : (d.step14 v0 v1).rd Reg.fabRtBlock = d.rd Reg.fabRtBlock := by
  rw [Dev.step14, Dev.rd_zeroTiles, Dev.rd_zeroDirect_block, Dev.rd_wr_other _ _ _ _ (by decide), Dev.rd_enumerate_block, Dev.rd_enumerate_block]

/-! Step 15. -/

/-- MGMT_MOUNT_INFO of an image. -/
def mountInfo (img : List Byte) : Nat := word [(16, imgWidth img), (8, imgLc img), (0, imgFmt img)]

/-- A Mount is in place, and its Hallmark entries count from 0. -/
def Dev.withMount (d : Dev) (m : Mount) : Dev := { d with mgmt := { d.mgmt with mount := some m }, tb := { d.tb with hmSeq := 0 } }

theorem Dev.loadFrame_withMount (d : Dev) (m : Mount) : d.LoadFrame (d.withMount m) :=
  ⟨⟨_, _, _, _, _, _, _, _, _, _, _, _, _, rfl⟩, fun _ => rfl, rfl⟩

theorem Dev.rd_withMount (d : Dev) (m : Mount) (off : Nat) : (d.withMount m).rd off = d.rd off := rfl

/-- The image's ENABLE fields and its Mount are in place. -/
def Dev.mounted (d : Dev) (img : List Byte) : Dev := (d.loadPass (d.planL2p img) (regEntries img) true).withMount (mountOf img)

theorem Dev.rd_mounted_block (d : Dev) (img : List Byte) : (d.mounted img).rd Reg.fabRtBlock = d.rd Reg.fabRtBlock := by
  rw [Dev.mounted, Dev.rd_withMount, Dev.rd_loadPass_block]

/-- The registers show the Mount. -/
def Dev.mountShown (d : Dev) (id info version : Nat) : Dev :=
  ((d.wr Reg.mgmtMountId id).wr Reg.mgmtMountInfo info).wr Reg.mgmtMountVersion version

theorem Dev.step15_eq (d : Dev) (img : List Byte) : d.step15 img =
    let e := (d.mounted img).mountShown (imgId img) (mountInfo img) (fldOf img 16 31 0)
    let f := e.blockPorts.foldl (fun d n => d.beginRetrain n 1) e
    if e.blockPorts.isEmpty then f.mgmtEnd 0 0 else (f.wrFld Reg.mgmtStatus 27 24 15).beginWait := rfl

/-- With no port into the block the command ends at once. -/
theorem Dev.step15_portless {d e : Dev} {img : List Byte} (he : (d.mounted img).mountShown (imgId img) (mountInfo img) (fldOf img 16 31 0) = e)
    (h : e.blockPorts = []) : d.step15 img = e.mgmtEnd 0 0 := by
  rw [Dev.step15_eq, he]
  dsimp only
  rw [h]
  rfl

theorem Dev.loadFrame_mounted (d : Dev) (img : List Byte) : d.LoadFrame (d.mounted img) :=
  (d.loadFrame_loadPass (d.planL2p img) (regEntries img) true).trans (Dev.loadFrame_withMount _ _)

/-- What the registers that show the Mount read. -/
structure Dev.ShowsMount (d e : Dev) (id info : Nat) : Prop where
  frame : d.LoadFrame e
  mount : e.mgmt.mount = d.mgmt.mount
  hmSeq : e.tb.hmSeq = d.tb.hmSeq
  id : e.rd Reg.mgmtMountId = id % 2 ^ 64
  info : e.rd Reg.mgmtMountInfo = info % 2 ^ 64
  block : e.rd Reg.fabRtBlock = d.rd Reg.fabRtBlock

theorem Dev.showsMount (d : Dev) (id info version : Nat) : d.ShowsMount (d.mountShown id info version) id info where
  frame := ((d.loadFrame_wr _ _).trans (Dev.loadFrame_wr _ _ _)).trans (Dev.loadFrame_wr _ _ _)
  mount := rfl
  hmSeq := rfl
  id := by rw [Dev.mountShown, Dev.rd_wr_other _ _ _ _ (by decide), Dev.rd_wr_other _ _ _ _ (by decide), Dev.rd_wr_same]
  info := by rw [Dev.mountShown, Dev.rd_wr_other _ _ _ _ (by decide), Dev.rd_wr_same]
  block := by
    rw [Dev.mountShown, Dev.rd_wr_other _ _ _ _ (by decide), Dev.rd_wr_other _ _ _ _ (by decide), Dev.rd_wr_other _ _ _ _ (by decide)]

theorem bitsOf_mountInfo (img : List Byte) : bitsOf (mountInfo img % 2 ^ 64) 7 0 = imgFmt img := by
  have hfmt : imgFmt img < 2 ^ 8 := bitsOf_lt _ 7 0
  have hinfo : mountInfo img = imgWidth img * 2 ^ 16 + (imgLc img * 2 ^ 8 + imgFmt img) := by
    simp [mountInfo, word, sumBy, Nat.add_assoc]
  rw [hinfo]
  unfold bitsOf
  omega

theorem Blocks.blockPorts_inactive {b : Blocks} (h : ∀ n, n < 6 → (b.optPort n).st ≠ .active) : b.blockPorts = [] := by
  refine List.filter_eq_nil_iff.mpr fun n hn => ?_
  simp [h n (List.mem_range.mp hn)]

/-! The command. -/

theorem Dev.applyMount_unfailed (d : Dev) (base : Nat) (img : List Byte) (origin : Nat) (v0 v1 : VaultLink) :
    d.applyMount base img origin v0 v1 none = (((d.clearMount).step13 img origin).step14 v0 v1).step15 img := by
  simp only [Dev.applyMount, reduceCtorEq, decide_false, Bool.false_eq_true, if_false]

theorem mountLoad_loads {s : State} {run : MgmtRun} (hop : Safety.Operating s) (hrun : s.dev.mgmt.run = some run) (hbegun : run.begun = false)
    (h1 : run.op = 1) (v0 v1 : VaultLink) (hargs : s.dev.argsBad (run.arg 0) (run.arg 1) (run.arg 2) = none)
    (hstack : s.dev.onFailedStack (run.arg 0) (run.arg 1) = false)
    (hgood : (s.dev.countHbm (run.arg 0) (run.arg 1) false none).loadBad (run.arg 0) (run.arg 1) (run.arg 2) none = none)
    (hports : ∀ n, n < 6 → (s.dev.optPort n).st ≠ .active) :
    let img := s.dev.dirRead (run.arg 0) (run.arg 1)
    Safety.Gives (.mountLoad v0 v1 none) s (fun t => Safety.MgmtEnded t 0 ∧ t.dev.mgmt.mount = some (mountOf img) ∧
      t.dev.rd Reg.mgmtMountId = imgId img % 2 ^ 64 ∧ t.dev.fld Reg.mgmtMountInfo 7 0 = imgFmt img ∧
      t.dev.rd Reg.fabRtBlock = imgBlock img (run.arg 2) % 2 ^ 64 ∧ t.dev.tb.hmSeq = 0 ∧ (∀ c, (t.dev.ctx c).mode = (s.dev.ctx c).mode) ∧
      t.dev.hostMem = s.dev.hostMem ∧ t.dev.loc = s.dev.loc) := by
  intro img
  have hexec := exec_mountLoad hop v0 v1 none
  rw [Dev.mountLoad_imageGood (Blocks.running_of hrun hbegun h1) v0 v1 none hargs hstack hgood,
    Blocks.dirRead_congr (s.dev.directFrame_countHbm (run.arg 0) (run.arg 1) false none).ilv (s.dev.countHbm_hbm _ _ _ _),
    Dev.applyMount_unfailed] at hexec
  have hread := (s.dev.hbmFrame_countHbm (run.arg 0) (run.arg 1) false none).loadFrame
  generalize s.dev.countHbm (run.arg 0) (run.arg 1) false none = read at hexec hread
  have hcleared := hread.trans ((read.loadFrame_clearMount.trans (Dev.loadFrame_step13 _ img (run.arg 2))).trans (Dev.loadFrame_step14 _ v0 v1))
  have hblock := (Dev.rd_step14_block _ v0 v1).trans (read.clearMount.rd_step13_block img (run.arg 2))
  generalize (read.clearMount.step13 img (run.arg 2)).step14 v0 v1 = d at hexec hcleared hblock
  have hmounted := hcleared.trans (d.loadFrame_mounted img)
  have hmount : (d.mounted img).mgmt.mount = some (mountOf img) := rfl
  have hseq : (d.mounted img).tb.hmSeq = 0 := rfl
  have hmblock : (d.mounted img).rd Reg.fabRtBlock = imgBlock img (run.arg 2) % 2 ^ 64 := (d.rd_mounted_block img).trans hblock
  have hshows := (d.mounted img).showsMount (imgId img) (mountInfo img) (fldOf img 16 31 0)
  generalize he : (d.mounted img).mountShown (imgId img) (mountInfo img) (fldOf img 16 31 0) = e at hshows
  have hframe := hmounted.trans hshows.frame
  obtain ⟨hep, hehost, heloc⟩ := hframe.blocks
  rw [Dev.step15_portless he (Blocks.blockPorts_inactive fun n hn => by rw [Blocks.optPort_congr hep]; exact hports n hn)] at hexec
  have hend := e.mgmtFrame_mgmtEnd 0 0
  refine ⟨_, hexec, e.mgmtEnd_ended 0 0 (hframe.run.trans hrun) (by decide) _, ?_, ?_, ?_, ?_, ?_, fun c => ?_, ?_, ?_⟩
  · rw [State.onDev_dev, Dev.mgmtEnd_mgmt]
    exact hshows.mount.trans hmount
  · rw [State.onDev_dev, e.rd_mgmtEnd_other _ _ (by decide) (by decide), hshows.id]
  · rw [State.onDev_dev, Blocks.fld, e.rd_mgmtEnd_other _ _ (by decide) (by decide), hshows.info, bitsOf_mountInfo]
  · rw [State.onDev_dev, e.rd_mgmtEnd_other _ _ (by decide) (by decide), hshows.block, hmblock]
  · obtain ⟨_, _, _, _, heq⟩ := hend
    rw [State.onDev_dev, heq]
    exact hshows.hmSeq.trans hseq
  · obtain ⟨_, _, _, _, heq⟩ := hend
    rw [State.onDev_dev, heq]
    exact hframe.mode c
  · obtain ⟨_, _, _, _, heq⟩ := hend
    rw [State.onDev_dev, heq]
    exact hehost
  · obtain ⟨_, _, _, _, heq⟩ := hend
    rw [State.onDev_dev, heq]
    exact heloc

end Sys2Proof.Machine
end

section
/-! O53: management commands end with their result. -/
open Sys2Proof Sys2Proof.Machine

/-- Settles O53: each command's clause is the lemma about its operation. A load that passes is followed by what each of steps 12 to 15 leaves alone,
and a moved slot by the cores and the memories of the two cores. -/
theorem managementCommands : Obligations.ManagementCommands := by
  unfold Obligations.ManagementCommands
  refine ⟨fun s p v hs hv => ⟨fun _ hbad => mgmtCmd_bad hs hv hbad, fun hgood => mgmtCmd_starts hs hv hgood⟩,
    fun s v0 v1 bad run hop hrun hbegun => ⟨fun h0 => managementNop_ends hop hrun hbegun h0, fun h1 => ⟨?_, ?_, ?_⟩, fun h2 => ⟨?_, ?_⟩,
      fun h3 => ⟨?_, ?_⟩, fun h4 => ⟨?_, ?_⟩⟩,
    fun s run hop hrun h4 htarget => ⟨fun hdark => noLight_ends hop hrun h4 htarget hdark, fun hdark hwake => noLight_lit hop hrun hdark hwake⟩,
    fun s run g j q k hop hrun h3 _ hmove hserves hne => ⟨?_, ?_, ?_⟩⟩
  · exact fun hctx => mountLoad_argsRefused hop hrun hbegun h1 v0 v1 bad (Blocks.argsBad_context _ _ _ hctx) (by decide)
  · exact fun hctx hrange => mountLoad_argsRefused hop hrun hbegun h1 v0 v1 bad (Blocks.argsBad_range hctx hrange) (by decide)
  · intro hargs hstack
    refine ⟨fun hnone hmagic => ?_, fun r info hr hbad _ => ?_, fun hnone hgood hports => ?_⟩
    · subst hnone
      exact mountLoad_unmarked hop hrun hbegun h1 v0 v1 hargs hstack hmagic
    · exact mountLoad_imageRefused hop hrun hbegun h1 v0 v1 bad hargs hstack hr hbad
    · subst hnone
      exact mountLoad_loads hop hrun hbegun h1 v0 v1 hargs hstack hgood hports
  · exact mountClear_refused hop hrun hbegun h2
  · exact mountClear_clears hop hrun hbegun h2
  · exact spareSwap_unmounted hop hrun hbegun h3
  · exact fun m hmount => ⟨spareSwap_moves hop hrun hbegun h3 hmount, spareSwap_settled hop hrun hbegun h3 hmount⟩
  · exact fun htarget => ⟨linkRetrain_disabled hop hrun hbegun h4 htarget, linkRetrain_active hop hrun hbegun h4 htarget⟩
  · exact fun n htarget hn hports hwait => linkRetrain_vault hop hrun hbegun h4 htarget hn hports hwait
  · exact slotMove_busy hop hrun hmove hserves
  · exact slotMove_moves hop hrun hmove hserves h3 hne
  · exact swapWaitExpire_stays hop hrun hmove h3

end
